-- ==== Sys2Proof/Word.lean ====
section
/-! DEFINITION. The word types and their plainest arithmetic. -/

namespace Sys2Proof

/-- A 32-bit instruction word (R32). -/
abbrev Word := BitVec 32

/-- A 64-bit scalar (R12). -/
abbrev W64 := BitVec 64

/-- A 2048-bit vector (R12). -/
abbrev Vec := BitVec 2048

/-- A 256-bit predicate (R12). -/
abbrev Pred := BitVec 256

/-- A byte. -/
abbrev Byte := BitVec 8

/-- Bits [lo + n - 1 : lo] of a natural number. -/
def bits (x lo n : Nat) : Nat := x / 2 ^ lo % 2 ^ n

/-- Bit `i` of a natural number. -/
def bit (x i : Nat) : Bool := x / 2 ^ i % 2 == 1

/-- `x` with its bits [lo + n - 1 : lo] replaced by the low `n` bits of `v`. -/
def setBits (x lo n v : Nat) : Nat :=
  x / 2 ^ (lo + n) * 2 ^ (lo + n) + v % 2 ^ n * 2 ^ lo + x % 2 ^ lo

/-- Two's complement reading of an `n`-bit number. -/
def signed (x n : Nat) : Int := if x / 2 ^ (n - 1) % 2 = 1 then (x % 2 ^ n : Nat) - (2 ^ n : Nat) else (x % 2 ^ n : Nat)

/-- An integer narrowed to `n` bits, modulo 2^n. -/
def narrow (x : Int) (n : Nat) : Nat := (x % ((2 ^ n : Nat) : Int)).toNat

/-- 1 for true, 0 for false. -/
def ofBool (b : Bool) : Nat := if b then 1 else 0

end Sys2Proof
end

