-- ==== Sys2Proof/Config.lean ====
section
/-! DEFINITION. What one implementation fixes and the values the spec leaves open. A free value is an opaque constant
without a body: no proof can see what it is. -/

namespace Sys2Proof.Config

/-- Which of `n` enabled moves goes next, as the counter of free values stands (DESIGN CHOICE, log 4); read modulo `n`. -/
opaque schedule : Nat → Nat

/-- How far TIME advances in one step, in nanoseconds (R7; DESIGN CHOICE, log 1). -/
opaque timeStep : Nat → Nat

/-- How far a tile's CYCLE advances in one of its moves (R26; DESIGN CHOICE, log 1). -/
opaque cycleStep : Nat → Nat

/-- The cause code that a proof fault of XRET reports in its event, where no trap gives one (R336, R340; DESIGN CHOICE, log 15). -/
opaque proofCause : Nat → BitVec 8

/-- The payload of a CLEAR, DONE or CONTROL flit, from the numbers that its message carries (R377; DESIGN CHOICE, log 30). -/
opaque message : List Nat → Nat

/-- What LRADD writes over the bytes of an element that a shorter send leaves incomplete (R383, R384; DESIGN CHOICE, log 51). -/
opaque partSum : Nat → Nat

/-- Field `i` of the word of a management command, where the spec does not lay it out (R399; DESIGN CHOICE, log 79). -/
opaque commandField : Nat → Nat → Nat → Nat

/-- The register that an offset of the PF's window names, where the spec gives no offsets (R394; DESIGN CHOICE, log 79). -/
opaque windowReg : Nat → Nat × Nat

/-- What the debug port reads as the trace of a tile, whose content the spec does not give (R404; DESIGN CHOICE, log 106). -/
opaque traceWord : Nat → Nat → Nat

/-- The ciphertext of a key, by the number of its draw, as the debug port reads it (R404; DESIGN CHOICE, log 106). -/
opaque keyCipher : Nat → Nat

/-- The error that befalls the HBM now, if any: stack, line and whether the base die corrects it (R264; DESIGN CHOICE, log 14). -/
opaque hbmError : Nat → Option (Nat × Nat × Bool)

/-- The error that befalls an on-chip memory now, if any: doubleword and flipped bits (R237; DESIGN CHOICE, log 14). -/
opaque softError : Nat → Option (Nat × Nat)

/-- Whether a bundle's accesses to its own tile wait at their banks (R235, R289; DESIGN CHOICE, log 6). -/
opaque buffers : Nat → Bool

end Sys2Proof.Config
end

