-- ==== Sys2Proof/Syntax.lean ====
section
/-! DEFINITION. The instruction syntax: one constructor per row of spec/opcode_table.json. Rows 0 to 250 are the words of
"Opcode Map" (R53 to R62) with the operand fields of their formats (R36, R55); rows 251 to 373 are the device steps, which
have no encoding and carry typed arguments (DESIGN CHOICE, log 8). The chain bit C belongs to the bundle (R32), not to the word. -/

namespace Sys2Proof

/-- CB and CS words with a 22-bit immediate (R36). -/
structure FDisp where
  i : BitVec 22
  deriving DecidableEq, Repr

/-- Words whose only field is a source `a`. -/
structure FA where
  a : BitVec 6
  deriving DecidableEq, Repr

/-- JRL (CJ, R36). -/
structure FJrl where
  a : BitVec 6
  d : BitVec 5
  deriving DecidableEq, Repr

/-- CC words (R36). -/
structure FCc where
  a : BitVec 6
  i : BitVec 16
  deriving DecidableEq, Repr

/-- CP words (R36). -/
structure FCp where
  p : BitVec 3
  i : BitVec 16
  deriving DecidableEq, Repr

/-- WAITEV: the mask of [5:0] (R80). -/
structure FMask where
  m : BitVec 6
  deriving DecidableEq, Repr

/-- SR words (R36). -/
structure FSr where
  d : BitVec 5
  w : Bool
  a : BitVec 6
  b : BitVec 6
  deriving DecidableEq, Repr

/-- SR words that read one source; sb is zero (R83). -/
structure FS1 where
  d : BitVec 5
  w : Bool
  a : BitVec 6
  deriving DecidableEq, Repr

/-- SI words (R36). -/
structure FSi where
  d : BitVec 5
  w : Bool
  a : BitVec 6
  i : BitVec 8
  deriving DecidableEq, Repr

/-- SL words (R36). -/
structure FSl where
  d : BitVec 5
  w : Bool
  i : BitVec 14
  deriving DecidableEq, Repr

/-- CSRR and SCSRR (R87). -/
structure FCsrR where
  d : BitVec 5
  w : Bool
  x : BitVec 8
  deriving DecidableEq, Repr

/-- CSR writes (R87). -/
structure FCsrW where
  d : BitVec 5
  w : Bool
  a : BitVec 6
  x : BitVec 8
  deriving DecidableEq, Repr

/-- LM loads (R36). -/
structure FLm where
  o : BitVec 4
  w : Bool
  d : BitVec 5
  b : BitVec 6
  f : BitVec 6
  deriving DecidableEq, Repr

/-- LM stores: `r` supplies the data (R37). -/
structure FSt where
  o : BitVec 4
  r : BitVec 5
  b : BitVec 6
  f : BitVec 6
  deriving DecidableEq, Repr

/-- LX words with a destination (R58). -/
structure FLx where
  o : BitVec 4
  w : Bool
  d : BitVec 5
  b : BitVec 6
  x : BitVec 6
  deriving DecidableEq, Repr

/-- STVS (R58). -/
structure FStx where
  o : BitVec 4
  r : BitVec 5
  b : BitVec 6
  x : BitVec 6
  deriving DecidableEq, Repr

/-- LDP (R55). -/
structure FLp where
  n : BitVec 3
  w : Bool
  d : BitVec 5
  b : BitVec 6
  z : BitVec 2
  f : BitVec 4
  deriving DecidableEq, Repr

/-- BINIT (R58). -/
structure FBinit where
  o : BitVec 4
  b : BitVec 6
  x : BitVec 6
  deriving DecidableEq, Repr

/-- FENCE (R55). -/
structure FFence where
  s : BitVec 2
  m : BitVec 16
  deriving DecidableEq, Repr

/-- XFENCE (R58). -/
structure FXfence where
  s : BitVec 2
  a : BitVec 3
  b : BitVec 3
  deriving DecidableEq, Repr

/-- VR words with two sources (R36). -/
structure FVr where
  e : BitVec 2
  d : BitVec 5
  w : Bool
  a : BitVec 6
  b : BitVec 6
  deriving DecidableEq, Repr

/-- VR words with one source. -/
structure FV1 where
  e : BitVec 2
  d : BitVec 5
  w : Bool
  a : BitVec 6
  deriving DecidableEq, Repr

/-- VI words (R36). -/
structure FVi where
  e : BitVec 2
  d : BitVec 5
  w : Bool
  a : BitVec 6
  i : BitVec 6
  deriving DecidableEq, Repr

/-- VR words whose es is fixed, two sources (R59). -/
structure FVp where
  d : BitVec 5
  w : Bool
  a : BitVec 6
  b : BitVec 6
  deriving DecidableEq, Repr

/-- VR words whose es is fixed, one source (R59). -/
structure FVp1 where
  d : BitVec 5
  w : Bool
  a : BitVec 6
  deriving DecidableEq, Repr

/-- MSET (ME10, R36). -/
structure FMset where
  a : BitVec 6
  n : BitVec 10
  deriving DecidableEq, Repr

/-- Words whose only field is a destination `d`. -/
structure FD where
  d : BitVec 5
  deriving DecidableEq, Repr

/-- ME words with a source and a destination. -/
structure FAd where
  a : BitVec 6
  d : BitVec 5
  deriving DecidableEq, Repr

/-- MCLR (R60). -/
structure FMclr where
  a : BitVec 6
  b : BitVec 6
  z : BitVec 1
  deriving DecidableEq, Repr

/-- Copy words: `e` names the engine (R61). -/
structure FCopy where
  a : BitVec 6
  d : BitVec 5
  e : BitVec 1
  deriving DecidableEq, Repr

/-- Link words: `p` names the port (R61). -/
structure FLink where
  a : BitVec 6
  d : BitVec 5
  p : BitVec 5
  deriving DecidableEq, Repr

/-- ME words with two sources and imm5. -/
structure FAbi where
  a : BitVec 6
  b : BitVec 6
  i : BitVec 5
  deriving DecidableEq, Repr

/-- ME words with a source and imm5. -/
structure FAi where
  a : BitVec 6
  i : BitVec 5
  deriving DecidableEq, Repr

/-- STRY (R61). -/
structure FAdi where
  a : BitVec 6
  d : BitVec 5
  i : BitVec 5
  deriving DecidableEq, Repr

/-- HPUSH (R61). -/
structure FAbd where
  a : BitVec 6
  b : BitVec 6
  d : BitVec 5
  deriving DecidableEq, Repr

/-- ME words with two sources. -/
structure FAb where
  a : BitVec 6
  b : BitVec 6
  deriving DecidableEq, Repr

/-- TLBINV (R61). -/
structure FTlb where
  a : BitVec 6
  e : BitVec 1
  deriving DecidableEq, Repr

/-- PBLK payload (R44). -/
structure FPblk where
  p : BitVec 3
  n : BitVec 3
  m : BitVec 8
  deriving DecidableEq, Repr

/-- LIMM payload (R47). -/
structure FLimm where
  p : BitVec 24
  deriving DecidableEq, Repr

/-- PMAP payload, V0A to MV (R42). -/
structure FPmap where
  a : BitVec 3
  b : BitVec 3
  c : BitVec 3
  d : BitVec 3
  e : BitVec 3
  f : BitVec 3
  g : BitVec 3
  h : BitVec 3
  deriving DecidableEq, Repr

/-- The two agents that can own the device (R397). -/
inductive Agent where
  | host | board
  deriving DecidableEq, Repr

/-- What STACK_CTL writes: HMSK, an owner entry or SCTL of a stack (R250 to R263). -/
inductive StackWrite where
  | hmsk (s j : Nat) (v : BitVec 64)
  | ownRd (i : Nat) (v : BitVec 8)
  | ownWr (i : Nat) (v : BitVec 8)
  | sctl (v : BitVec 64)
  deriving DecidableEq, Repr

/-- A rotation of one direction of a stack that begins, and how many of the owner entries written come into force with it (R254). -/
structure CalTurn where
  st : Nat
  wr : Bool
  n : Nat
  deriving DecidableEq, Repr

/-- An operation of an engine of a tile, 0 and 1 Burin, 2 link, 3 matrix: the unit of a copy, or the age of a link command (R351). -/
structure EngOp where
  eng : Nat
  op : Nat := 0
  deriving DecidableEq, Repr

/-- What the ALMANAC command asks for (R361). -/
inductive AlmanacOp where
  | read | relearn | unfence
  deriving DecidableEq, Repr

/-- Power states (R404). -/
inductive PowerState where
  | active | idle | retention | off
  deriving DecidableEq, Repr

/-- Debug states (R404). -/
inductive DebugState where
  | none | nonInvasive | invasive
  deriving DecidableEq, Repr

/-- What of a tile's state the debug port reads and writes (R404): a register of a context, its PC, a latch, its predicate block, a user or
supervisor CSR by its number, or a doubleword of the tile's memories by its local address. -/
inductive DebugReg where
  | scalar (i : Nat)
  | vector (i : Nat)
  | pred (i : Nat)
  | pc
  | latch (i : Nat)
  | block
  | user (n : Nat)
  | sup (n : Nat)
  | dw (off : Nat)
  deriving DecidableEq, Repr

/-- Requests on the debug port (R404). -/
inductive DebugReq where
  | setState (d : DebugState)
  /-- an unlock token that names some partitions, and whether its signature verifies -/
  | unlock (parts : List Nat) (signed : Bool)
  | stop (t : Nat)
  | go (t : Nat)
  | step (t : Nat)
  | readReg (t slot : Nat) (r : DebugReg)
  | writeReg (t slot : Nat) (r : DebugReg) (v : Nat)
  /-- a counter of a context: CYCLE, BUNDLES, REPLAYS or TIME by its CSR number -/
  | counter (t slot x : Nat)
  | tmarg (t : Nat)
  | trace (t : Nat)
  /-- a register of the mirror, by its kind and number -/
  | mirror (kind n : Nat)
  /-- the key slot of a partition -/
  | keySlot (p : Nat)
  deriving DecidableEq, Repr

/-- A firmware image (R403): its contents, the SHA-384 digests of the two public keys that it comes with, and whether each signature
verifies under its key. -/
structure FwImage where
  body : Nat := 0
  rsaKey : BitVec 384 := 0
  rsaOk : Bool := true
  slhKey : BitVec 384 := 0
  slhOk : Bool := true
  deriving DecidableEq, Repr

/-- A request for a warm start (R402): by an agent, or none for the host's function-level reset of the PF; and the step that fails, 0 for
none. -/
structure WarmReq where
  asker : Option Agent
  failing : Nat := 0
  deriving DecidableEq, Repr

/-- Registers of the management space that have no row of their own (R8, R354, R379, R396, R403), and the accesses through the windows of
the functions that no other row makes (R394, R395, R399). -/
inductive MgmtReg where
  | msgBase (vf : Nat)
  | msgN (vf : Nat)
  | mpst (port : Nat)
  | tmarg (t : Nat)
  | stst
  /-- a fuse of the security state -/
  | securityFuse
  /-- a firmware image given in recovery, over the host port or over I3C (R402) -/
  | upload (host : Bool) (img : FwImage)
  /-- a 64-byte write to the command window by an agent -/
  | command (ag : Agent) (w : BitVec 512)
  /-- a read of the PF's window, or of a VF's -/
  | pfRead (off : Nat)
  | vfRead (vf off : Nat)
  deriving DecidableEq, Repr

/-- What a Meridian flit carries (R377, R380, R383, R390). DATA and LAST carry LENB bytes, first byte lowest. -/
inductive FlitBody where
  | data (bytes : Nat)
  | last (bytes : Nat)
  /-- LEN, a number that names the CLEAR, and KEYBASE and EPOCH of the schedule of which it is a step (R383, R390) -/
  | clear (len id : Nat) (run : Option (Nat × Nat))
  /-- the number of the CLEAR whose transfer has ended (R383) -/
  | done (id : Nat)
  /-- the key of the transfer and the number of the CLEAR that it matched (R383) -/
  | abort (key id : Nat)
  | lengthError (key id : Nat)
  /-- nothing more comes of a transfer whose epoch the sender has left: its key and the number of its CLEAR (R390) -/
  | leave (key id : Nat)
  | hold
  /-- whether the package grants credits (R380) -/
  | idle (credit : Bool)
  /-- the messages of a schedule name its KEYBASE and EPOCH (R390) -/
  | memberDone (base epoch rank : Nat)
  | commit (base epoch : Nat)
  | fail (base epoch : Nat) (ranks : List Nat)
  | restart (base epoch : Nat) (removed : List Nat)
  | query (base epoch rank : Nat)
  | answer (base epoch rank : Nat) (committed : Bool)
  /-- a switch reports that it cannot reach a package (R390) -/
  | unreachable (pkg : Nat)
  | twinDigest (part win digest : Nat)
  | twinInterim (part win digest : Nat)
  /-- a TYPE that the table does not list, with its payload (R377) -/
  | other (type payload : Nat)
  deriving DecidableEq, Repr

/-- A Meridian flit (R377): the header fields the model reads and the body. -/
structure Flit where
  src : Nat
  dest : Nat
  key : Nat
  lenb : Nat
  ack : Nat
  seq : Nat
  nak : Bool
  body : FlitBody
  crc : Nat := 0
  deriving DecidableEq, Repr

/-- The instructions: every row of spec/opcode_table.json. The words with operands come first and those without operands after
them: Lean gives compiled objects 244 constructor tags, and only a constructor with operands uses one. -/
inductive Instr where
  /-- BR (R78). Unconditional branch to PC + 4·disp22. -/
  | br (f : FDisp)
  /-- BRL (R78). Unconditional branch that writes the link address to s31. -/
  | brl (f : FDisp)
  /-- JR (R78). Jumps to the address held in sa. -/
  | jr (f : FA)
  /-- JRL (R78). Jumps to the address held in sa and writes the link address to sd. -/
  | jrl (f : FJrl)
  /-- BZ (R78). Branches if sa is zero. -/
  | bz (f : FCc)
  /-- BNZ (R78). Branches if sa is nonzero. -/
  | bnz (f : FCc)
  /-- BLTZ (R78). Branches if sa is negative. -/
  | bltz (f : FCc)
  /-- BGEZ (R78). Branches if sa is zero or positive. -/
  | bgez (f : FCc)
  /-- BP (R78). Branches if bit 0 of the predicate is set. -/
  | bp (f : FCp)
  /-- BNP (R78). Branches if bit 0 of the predicate is clear. -/
  | bnp (f : FCp)
  /-- BANY (R78). Branches if any bit of the predicate is set. -/
  | bany (f : FCp)
  /-- BNONE (R78). Branches if no bit of the predicate is set. -/
  | bnone (f : FCp)
  /-- BLOOP (R79). Loop branch: decrements LC, rotates VRB and PRB, and branches while LC is at least 2. -/
  | bloop (f : FDisp)
  /-- LCSET (R79). Sets LC to sa plus an unsigned count. -/
  | lcset (f : FCc)
  /-- TRAP (R80). Raises TRAP with the immediate code in FADDR. -/
  | trap (f : FDisp)
  /-- WAITEV (R81). Waits until any event bit that the mask selects is set. -/
  | waitev (f : FMask)
  /-- BRK (R80). Raises BRK with the immediate code in FADDR. -/
  | brk (f : FDisp)
  /-- ADD (R83). 64-bit addition. -/
  | add (f : FSr)
  /-- SUB (R83). 64-bit subtraction. -/
  | sub (f : FSr)
  /-- AND (R83). Bitwise AND. -/
  | and (f : FSr)
  /-- OR (R83). Bitwise OR. -/
  | or (f : FSr)
  /-- XOR (R83). Bitwise XOR. -/
  | xor (f : FSr)
  /-- ANDN (R83). Computes a AND NOT b. -/
  | andn (f : FSr)
  /-- SLL (R83). Logical left shift by b[5:0]. -/
  | sll (f : FSr)
  /-- SRL (R83). Logical right shift by b[5:0]. -/
  | srl (f : FSr)
  /-- SRA (R83). Arithmetic right shift by b[5:0]. -/
  | sra (f : FSr)
  /-- MUL (R83). Low 64 bits of the product. -/
  | mul (f : FSr)
  /-- MULH (R83). High 64 bits of the signed product. -/
  | mulh (f : FSr)
  /-- MULHU (R83). High 64 bits of the unsigned product. -/
  | mulhu (f : FSr)
  /-- DIV (R83). Signed quotient, rounded toward zero. -/
  | div (f : FSr)
  /-- DIVU (R83). Unsigned quotient. -/
  | divu (f : FSr)
  /-- REM (R83). Signed remainder. -/
  | rem (f : FSr)
  /-- REMU (R83). Unsigned remainder. -/
  | remu (f : FSr)
  /-- MIN (R83). Signed minimum. -/
  | min (f : FSr)
  /-- MAX (R83). Signed maximum. -/
  | max (f : FSr)
  /-- MINU (R83). Unsigned minimum. -/
  | minu (f : FSr)
  /-- MAXU (R83). Unsigned maximum. -/
  | maxu (f : FSr)
  /-- SLT (R83). Signed set-less-than. -/
  | slt (f : FSr)
  /-- SLTU (R83). Unsigned set-less-than. -/
  | sltu (f : FSr)
  /-- SEQ (R83). Writes 1 if a equals b, else 0. -/
  | seq (f : FSr)
  /-- SNE (R83). Writes 1 if a differs from b, else 0. -/
  | sne (f : FSr)
  /-- ADDW (R83). 32-bit addition, sign-extended to 64 bits. -/
  | addw (f : FSr)
  /-- SUBW (R83). 32-bit subtraction, sign-extended to 64 bits. -/
  | subw (f : FSr)
  /-- MULW (R83). 32-bit product, sign-extended to 64 bits. -/
  | mulw (f : FSr)
  /-- CMOVZ (R83). Writes a if b is zero, otherwise keeps c. -/
  | cmovz (f : FSr)
  /-- CMOVNZ (R83). Writes a if b is nonzero, otherwise keeps c. -/
  | cmovnz (f : FSr)
  /-- BFX (R83). Extracts a bit field, zero-extended. -/
  | bfx (f : FSr)
  /-- BFI (R83). Inserts a bit field into c. -/
  | bfi (f : FSr)
  /-- CLZ (R83). Counts leading zeros. -/
  | clz (f : FS1)
  /-- CTZ (R83). Counts trailing zeros. -/
  | ctz (f : FS1)
  /-- POPC (R83). Counts one bits. -/
  | popc (f : FS1)
  /-- SEXTB (R83). Sign-extends a byte. -/
  | sextb (f : FS1)
  /-- SEXTH (R83). Sign-extends a half. -/
  | sexth (f : FS1)
  /-- SEXTW (R83). Sign-extends a word. -/
  | sextw (f : FS1)
  /-- ZEXTW (R83). Zero-extends a word. -/
  | zextw (f : FS1)
  /-- BSWAP (R83). Reverses the eight bytes of a. -/
  | bswap (f : FS1)
  /-- ADDI (R84). Adds a signed immediate. -/
  | addi (f : FSi)
  /-- ANDI (R84). ANDs with a sign-extended immediate. -/
  | andi (f : FSi)
  /-- ORI (R84). ORs with a sign-extended immediate. -/
  | ori (f : FSi)
  /-- XORI (R84). XORs with a sign-extended immediate. -/
  | xori (f : FSi)
  /-- SLLI (R84). Logical left shift by an immediate. -/
  | slli (f : FSi)
  /-- SRLI (R84). Logical right shift by an immediate. -/
  | srli (f : FSi)
  /-- SRAI (R84). Arithmetic right shift by an immediate. -/
  | srai (f : FSi)
  /-- SLTI (R84). Signed compare with an immediate. -/
  | slti (f : FSi)
  /-- SLTIU (R84). Unsigned compare with a sign-extended immediate. -/
  | sltiu (f : FSi)
  /-- MULI (R84). Multiplies by an immediate. -/
  | muli (f : FSi)
  /-- LI (R85). Loads a sign-extended immediate. -/
  | li (f : FSl)
  /-- LUI (R85). Loads an immediate shifted left by 26. -/
  | lui (f : FSl)
  /-- FADD (R86). Binary32 addition. -/
  | fadd (f : FSr)
  /-- FSUB (R86). Binary32 subtraction. -/
  | fsub (f : FSr)
  /-- FMUL (R86). Binary32 multiplication. -/
  | fmul (f : FSr)
  /-- FMA (R86). Binary32 fused multiply-add into c. -/
  | fma (f : FSr)
  /-- FMIN (R86). Binary32 minimumNumber. -/
  | fmin (f : FSr)
  /-- FMAX (R86). Binary32 maximumNumber. -/
  | fmax (f : FSr)
  /-- FEQ (R86). Binary32 equality compare. -/
  | feq (f : FSr)
  /-- FLT (R86). Binary32 less-than compare. -/
  | flt (f : FSr)
  /-- FLE (R86). Binary32 less-or-equal compare. -/
  | fle (f : FSr)
  /-- FDIV (R86). Binary32 division. -/
  | fdiv (f : FSr)
  /-- FSQRT (R86). Binary32 square root. -/
  | fsqrt (f : FS1)
  /-- FCVTIF (R86). Converts INT32 to binary32. -/
  | fcvtif (f : FS1)
  /-- FCVTFI (R86). Converts binary32 to a sign-extended INT32. -/
  | fcvtfi (f : FS1)
  /-- CSRR (R87). Reads a user CSR. -/
  | csrr (f : FCsrR)
  /-- CSRW (R87). Writes a user CSR, optionally returning the old value. -/
  | csrw (f : FCsrW)
  /-- CSRS (R87). Sets bits of a user CSR. -/
  | csrs (f : FCsrW)
  /-- CSRC (R87). Clears bits of a user CSR. -/
  | csrc (f : FCsrW)
  /-- SCSRR (R87). Reads a supervisor CSR. -/
  | scsrr (f : FCsrR)
  /-- SCSRW (R87). Writes a supervisor CSR. -/
  | scsrw (f : FCsrW)
  /-- SCSRS (R87). Sets bits of a supervisor CSR. -/
  | scsrs (f : FCsrW)
  /-- SCSRC (R87). Clears bits of a supervisor CSR. -/
  | scsrc (f : FCsrW)
  /-- LDB (R93). Loads a sign-extended byte. -/
  | ldb (f : FLm)
  /-- LDBU (R93). Loads a zero-extended byte. -/
  | ldbu (f : FLm)
  /-- LDH (R93). Loads a sign-extended half. -/
  | ldh (f : FLm)
  /-- LDHU (R93). Loads a zero-extended half. -/
  | ldhu (f : FLm)
  /-- LDW (R93). Loads a sign-extended word. -/
  | ldw (f : FLm)
  /-- LDWU (R93). Loads a zero-extended word. -/
  | ldwu (f : FLm)
  /-- LDD (R93). Loads a doubleword. -/
  | ldd (f : FLm)
  /-- STB (R94). Stores a byte. -/
  | stb (f : FSt)
  /-- STH (R94). Stores a half. -/
  | sth (f : FSt)
  /-- STW (R94). Stores a word. -/
  | stw (f : FSt)
  /-- STD (R94). Stores a doubleword. -/
  | std (f : FSt)
  /-- LDV (R95). Loads 256 bytes into a vector register. -/
  | ldv (f : FLm)
  /-- STV (R95). Stores 256 bytes of a vector register. -/
  | stv (f : FSt)
  /-- LDVF (R95). Loads one chunk of the region format, decoded to 32-bit lanes. -/
  | ldvf (f : FLm)
  /-- STVF (R95). Encodes 32-bit lanes into one chunk of the region format and stores it. -/
  | stvf (f : FSt)
  /-- LDVG (R96). Gathers 64 32-bit lanes through an index vector. -/
  | ldvg (f : FLx)
  /-- STVS (R96). Scatters 64 32-bit lanes through an index latch. -/
  | stvs (f : FStx)
  /-- LDVB (R95). Loads 64 bytes and broadcasts them over the vector. -/
  | ldvb (f : FLm)
  /-- LDP (R97). Reads a parameter window, returning zero past its size and setting PWOOB. -/
  | ldp (f : FLp)
  /-- AADD (R143). Atomic add on a doubleword. -/
  | aadd (f : FLx)
  /-- AMIN (R143). Atomic signed minimum. -/
  | amin (f : FLx)
  /-- AMAX (R143). Atomic signed maximum. -/
  | amax (f : FLx)
  /-- AMINU (R143). Atomic unsigned minimum. -/
  | aminu (f : FLx)
  /-- AMAXU (R143). Atomic unsigned maximum. -/
  | amaxu (f : FLx)
  /-- AAND (R143). Atomic AND. -/
  | aand (f : FLx)
  /-- AOR (R143). Atomic OR. -/
  | aor (f : FLx)
  /-- AXOR (R143). Atomic XOR. -/
  | axor (f : FLx)
  /-- ASWP (R143). Atomic swap. -/
  | aswp (f : FLx)
  /-- ACAS (R143). Atomic compare-and-swap against the comparand in rd. -/
  | acas (f : FLx)
  /-- AFADD (R144). Atomic binary32 add, rounded RNE. -/
  | afadd (f : FLx)
  /-- BARV (R207). Makes one arrival of count k at a barrier object. -/
  | barv (f : FLx)
  /-- BWAIT (R208). Reads a barrier object until its phase changes, it is unarmed or the limit passes. -/
  | bwait (f : FLx)
  /-- BINIT (R206). Arms a barrier object with an expected count. -/
  | binit (f : FBinit)
  /-- FENCE (R296). Orders the context's TILE-path accesses in the masked classes within a scope. -/
  | fence (f : FFence)
  /-- XFENCE (R302). Orders accesses between two named paths within a scope. -/
  | xfence (f : FXfence)
  /-- VADD (R128). Element-wise integer addition. -/
  | vadd (f : FVr)
  /-- VSUB (R128). Element-wise integer subtraction. -/
  | vsub (f : FVr)
  /-- VMUL (R128). Element-wise low product. -/
  | vmul (f : FVr)
  /-- VMULH (R128). Element-wise signed high product. -/
  | vmulh (f : FVr)
  /-- VMULHU (R128). Element-wise unsigned high product. -/
  | vmulhu (f : FVr)
  /-- VAND (R128). Element-wise AND. -/
  | vand (f : FVr)
  /-- VOR (R128). Element-wise OR. -/
  | vor (f : FVr)
  /-- VXOR (R128). Element-wise XOR. -/
  | vxor (f : FVr)
  /-- VSHL (R128). Element-wise left shift. -/
  | vshl (f : FVr)
  /-- VSHR (R128). Element-wise logical right shift. -/
  | vshr (f : FVr)
  /-- VSRA (R128). Element-wise arithmetic right shift. -/
  | vsra (f : FVr)
  /-- VMIN (R128). Element-wise signed minimum. -/
  | vmin (f : FVr)
  /-- VMAX (R128). Element-wise signed maximum. -/
  | vmax (f : FVr)
  /-- VMINU (R128). Element-wise unsigned minimum. -/
  | vminu (f : FVr)
  /-- VMAXU (R128). Element-wise unsigned maximum. -/
  | vmaxu (f : FVr)
  /-- VABS (R128). Element-wise absolute value. -/
  | vabs (f : FV1)
  /-- VNEG (R128). Element-wise negation. -/
  | vneg (f : FV1)
  /-- VADDS (R128). Element-wise signed saturating addition. -/
  | vadds (f : FVr)
  /-- VSUBS (R128). Element-wise signed saturating subtraction. -/
  | vsubs (f : FVr)
  /-- VMAC (R128). Element-wise multiply-accumulate into vd. -/
  | vmac (f : FVr)
  /-- VDOT4 (R129). Adds four signed products per lane into vd. -/
  | vdot4 (f : FVr)
  /-- VMULW (R130). Widening multiply into a register pair. -/
  | vmulw (f : FVr)
  /-- VADDW (R130). Widening add into a register pair. -/
  | vaddw (f : FVr)
  /-- VSHLI (R131). Left shift by an immediate. -/
  | vshli (f : FVi)
  /-- VSHRI (R131). Logical right shift by an immediate. -/
  | vshri (f : FVi)
  /-- VSRAI (R131). Arithmetic right shift by an immediate. -/
  | vsrai (f : FVi)
  /-- VADDI (R131). Adds a signed immediate to each element. -/
  | vaddi (f : FVi)
  /-- VCEQ (R132). Integer equality compare into a predicate. -/
  | vceq (f : FVr)
  /-- VCNE (R132). Integer inequality compare into a predicate. -/
  | vcne (f : FVr)
  /-- VCLT (R132). Signed less-than compare into a predicate. -/
  | vclt (f : FVr)
  /-- VCLE (R132). Signed less-or-equal compare into a predicate. -/
  | vcle (f : FVr)
  /-- VCLTU (R132). Unsigned less-than compare into a predicate. -/
  | vcltu (f : FVr)
  /-- VCLEU (R132). Unsigned less-or-equal compare into a predicate. -/
  | vcleu (f : FVr)
  /-- PAND (R133). Predicate AND. -/
  | pand (f : FVp)
  /-- POR (R133). Predicate OR. -/
  | por (f : FVp)
  /-- PXOR (R133). Predicate XOR. -/
  | pxor (f : FVp)
  /-- PANDN (R133). Predicate AND NOT. -/
  | pandn (f : FVp)
  /-- PNOT (R133). Predicate NOT. -/
  | pnot (f : FVp1)
  /-- PANY (R133). Sets every bit if any bit of the source predicate is set. -/
  | pany (f : FVp1)
  /-- PPOPC (R133). Counts the one bits of a predicate into a scalar. -/
  | ppopc (f : FVp1)
  /-- PFIRST (R133). Writes the index of the lowest set predicate bit. -/
  | pfirst (f : FVp1)
  /-- VMOV (R134). Copies a vector. -/
  | vmov (f : FV1)
  /-- VBCAST (R134). Broadcasts a scalar into every element. -/
  | vbcast (f : FV1)
  /-- VSLUP (R134). Slides elements up by a scalar count. -/
  | vslup (f : FVr)
  /-- VSLDN (R134). Slides elements down by a scalar count. -/
  | vsldn (f : FVr)
  /-- VPERM (R134). Permutes elements by an index vector. -/
  | vperm (f : FVr)
  /-- VTOS (R134). Moves one element to a scalar. -/
  | vtos (f : FVr)
  /-- VINS (R134). Inserts a scalar into one element. -/
  | vins (f : FVr)
  /-- VRADD (R135). Tree sum of all elements into a scalar. -/
  | vradd (f : FV1)
  /-- VRMAX (R135). Tree signed maximum into a scalar. -/
  | vrmax (f : FV1)
  /-- VRMIN (R135). Tree signed minimum into a scalar. -/
  | vrmin (f : FV1)
  /-- VRFADD (R135). Floating-point tree sum into a scalar. -/
  | vrfadd (f : FV1)
  /-- VRFMAX (R135). Floating-point tree maximumNumber into a scalar. -/
  | vrfmax (f : FV1)
  /-- VFADD (R137). Floating-point element-wise addition. -/
  | vfadd (f : FVr)
  /-- VFSUB (R137). Floating-point element-wise subtraction. -/
  | vfsub (f : FVr)
  /-- VFMUL (R137). Floating-point element-wise multiplication. -/
  | vfmul (f : FVr)
  /-- VFMA (R137). Floating-point fused multiply-add into vd. -/
  | vfma (f : FVr)
  /-- VFMS (R137). Floating-point fused multiply-subtract of vd. -/
  | vfms (f : FVr)
  /-- VFMIN (R137). Floating-point minimumNumber. -/
  | vfmin (f : FVr)
  /-- VFMAX (R137). Floating-point maximumNumber. -/
  | vfmax (f : FVr)
  /-- VFABS (R137). Clears the sign bit of each element. -/
  | vfabs (f : FV1)
  /-- VFNEG (R137). Inverts the sign bit of each element. -/
  | vfneg (f : FV1)
  /-- VFCEQ (R138). Floating-point equality compare into a predicate. -/
  | vfceq (f : FVr)
  /-- VFCLT (R138). Floating-point less-than compare into a predicate. -/
  | vfclt (f : FVr)
  /-- VFCLE (R138). Floating-point less-or-equal compare into a predicate. -/
  | vfcle (f : FVr)
  /-- VFCUN (R138). Unordered compare into a predicate. -/
  | vfcun (f : FVr)
  /-- VFDIV (R137). Floating-point element-wise division. -/
  | vfdiv (f : FVr)
  /-- VFSQRT (R137). Floating-point element-wise square root. -/
  | vfsqrt (f : FV1)
  /-- VFRSQ (R137). Floating-point element-wise reciprocal square root. -/
  | vfrsq (f : FV1)
  /-- VCVTIF (R139). Converts integer lanes to floating point. -/
  | vcvtif (f : FV1)
  /-- VCVTFI (R139). Converts floating-point lanes to integer. -/
  | vcvtfi (f : FV1)
  /-- VPACK8 (R140). Narrows 64 lanes to 8-bit elements under the clamp bound. -/
  | vpack8 (f : FV1)
  /-- VUNPK8 (R140). Decodes 64 8-bit elements to 32-bit lanes. -/
  | vunpk8 (f : FV1)
  /-- VPACK16 (R140). Narrows 64 lanes to 16-bit elements under the clamp bound. -/
  | vpack16 (f : FV1)
  /-- VUNPK16 (R140). Decodes 64 16-bit elements to 32-bit lanes. -/
  | vunpk16 (f : FV1)
  /-- VRNSE (R141). Encodes INT32 lanes as RNS3 containers. -/
  | vrnse (f : FVp1)
  /-- VRNSD (R141). Decodes RNS3 containers by CRT. -/
  | vrnsd (f : FVp1)
  /-- VRNSADD (R141). Residue addition in each channel. -/
  | vrnsadd (f : FVp)
  /-- VRNSMUL (R141). Residue multiplication in each channel. -/
  | vrnsmul (f : FVp)
  /-- VRNSMAC (R141). Residue multiply-accumulate into vd. -/
  | vrnsmac (f : FVp)
  /-- MLDT_SCALAR (R163). Loads the shadow descriptor from a 256-byte-aligned local address. -/
  | mldtScalar (f : FA)
  /-- MLDT_VECTOR (R163). Loads the shadow descriptor from a 2,048-bit vector operand. -/
  | mldtVector (f : FA)
  /-- MSET (R164). Writes one doubleword of the shadow descriptor. -/
  | mset (f : FMset)
  /-- MGO (R165). Checks the shadow and queues a matrix command, returning its sequence number. -/
  | mgo (f : FD)
  /-- MSTAT (R166). Returns the matrix status and clears FLAGS and ERR. -/
  | mstat (f : FD)
  /-- MWAIT (R167). Blocks until the given sequence number is done, then returns the status. -/
  | mwait (f : FAd)
  /-- MCLR (R168). Queues a command that clears an accumulator range. -/
  | mclr (f : FMclr)
  /-- MABORT (R169). Aborts every matrix command of the context. -/
  | mabort (f : FD)
  /-- MSPLIT (R172). Loads a split descriptor and sets the context's split state. -/
  | msplit (f : FA)
  /-- MWB (R170). Checks a write-back descriptor and queues a write-back command. -/
  | mwb (f : FAd)
  /-- CPY (R325). Reads and checks a copy descriptor and queues the copy on an engine. -/
  | cpy (f : FCopy)
  /-- CWAIT (R326). Blocks until a copy tag is done, then returns its status. -/
  | cwait (f : FCopy)
  /-- CSTAT (R327). Returns a copy status without blocking. -/
  | cstat (f : FCopy)
  /-- CCAN (R328). Cancels a queued or in-flight copy command of the context. -/
  | ccan (f : FCopy)
  /-- LSEND (R383). Queues a link send that waits for a matching CLEAR. -/
  | lsend (f : FLink)
  /-- LRECV (R383). Queues a link receive that sends CLEAR to its peer. -/
  | lrecv (f : FLink)
  /-- LRADD (R384). Queues a link receive that adds the received elements into scratchpad. -/
  | lradd (f : FLink)
  /-- LSCHED (R388). Reads a schedule descriptor and queues a collective schedule. -/
  | lsched (f : FAd)
  /-- LSTAT (R386). Returns a link command's status without blocking. -/
  | lstat (f : FAd)
  /-- SIG (R203). Adds a count to a semaphore of a gang member, as a release. -/
  | sig (f : FAbi)
  /-- SWAIT (R203). Waits until an own semaphore holds n, then subtracts n, as an acquire. -/
  | swait (f : FAi)
  /-- STRY (R203). Subtracts n from an own semaphore if it can, without waiting. -/
  | stry (f : FAdi)
  /-- SSET (R203). Sets an own semaphore count. -/
  | sset (f : FAi)
  /-- HPUSH (R222). Adds an entry with a task index and gain to the heap instance. -/
  | hpush (f : FAbd)
  /-- HPOP (R223). Pops the queued entry of greatest gain into a register pair. -/
  | hpop (f : FD)
  /-- HUPD (R224). Applies an update code to an entry's gain. -/
  | hupd (f : FAbi)
  /-- HREAD (R226). Returns an entry's state and gain. -/
  | hread (f : FAd)
  /-- HSUM (R227). Returns the instance state and Sum. -/
  | hsum (f : FD)
  /-- HCLOSE (R228). Closes an OPEN heap instance. -/
  | hclose (f : FD)
  /-- HDONE (R225). Ends the run of a RUNNING entry, requeuing it if it has gain. -/
  | hdone (f : FA)
  /-- HOPEN (R221). Opens, reloads or releases a heap instance from a descriptor. -/
  | hopen (f : FAd)
  /-- LAUNCH (R194). Reads and checks a launch packet and queues the job. -/
  | launch (f : FAd)
  /-- EXPECT (R195). Adds to the expected completion total of the own job. -/
  | expectAdd (f : FA)
  /-- POST (R195). Adds a completion count to a job, as a release. -/
  | post (f : FAb)
  /-- JWAIT (R196). Blocks until a job is complete, then returns its status. -/
  | jwait (f : FAd)
  /-- RGET (R197). Takes the next chunk of a range job's interval. -/
  | rget (f : FD)
  /-- SUSPEND (R198). Writes a continuation record, queues it and leaves the context. -/
  | suspend (f : FA)
  /-- HANDOFF (R200). Starts the transfer of a region-map entry to a successor task. -/
  | handoff (f : FAb)
  /-- TLBINV (R349). Invalidates translation entries of a page or of the whole partition. -/
  | tlbinv (f : FTlb)
  /-- PBLK (R44). Opens a predicate block over the following bundles. -/
  | pblk (f : FPblk)
  /-- LIMM (R47). Supplies the upper 24 bits of the bundle's immediate. -/
  | limm (f : FLimm)
  /-- PMAP (R42). Sets the vector read-port map of its bundle. -/
  | pmap (f : FPmap)
  /-- NOP (R80). Does nothing. -/
  | nop
  /-- HALT (R80). Ends the task with the effect of TDONE. -/
  | halt
  /-- CRET (R82). Returns from a completion handler and restores the shadowed state. -/
  | cret
  /-- XRET (R340). Resumes from the proof record, reissuing the incomplete bundle exactly once. -/
  | xret
  /-- TDONE (R199). Posts the task's completion and ends the task. -/
  | tdone
  /-- TRANSIT_DETECTION (R24). A transit sensor catches a late transition; the bundle is squashed and issued again at half rate. -/
  | transitDetection (t slot : Nat)
  /-- ENGINE_RECOMPUTATION (R351). An engine sensor detects a late transition and the engine recomputes its operation at half rate. -/
  | engineRecomputation (t : Nat) (e : EngOp)
  /-- HALF_RATE_END (R352). After 8 consecutive clean bundles the tile returns to full-rate issue. -/
  | halfRateEnd (t : Nat)
  /-- ASYNC_TRAP_DELIVERY (R336). An asynchronous cause is delivered to a context at a user-mode bundle boundary. -/
  | asyncTrapDelivery (t slot : Nat)
  /-- COMPLETION_HANDLER_ENTRY (R323). At a bundle boundary with pending sources, saves state and enters the completion handler. -/
  | completionHandlerEntry (t slot : Nat)
  /-- SWAIT_WAKE (R203). A waiting SWAIT finds its count and completes. -/
  | swaitWake (t slot : Nat)
  /-- CWAIT_WAKE (R326). A waiting CWAIT completes when DONE reaches its tag. -/
  | cwaitWake (t slot : Nat)
  /-- MWAIT_WAKE (R167). A waiting MWAIT completes when DONE reaches its sequence number. -/
  | mwaitWake (t slot : Nat)
  /-- JWAIT_WAKE (R196). A waiting JWAIT completes when its job completes. -/
  | jwaitWake (t slot : Nat)
  /-- WAITEV_WAKE (R81). A waiting WAITEV completes when a selected event bit is set. -/
  | waitevWake (t slot : Nat)
  /-- BWAIT_READ (R208). A waiting BWAIT rereads its barrier object and completes on a phase change or unarmed object. -/
  | bwaitRead (t slot : Nat)
  /-- BWAIT_LIMIT (R208). A BWAIT's cycle limit expires and it returns code 1. -/
  | bwaitLimit (t slot : Nat)
  /-- HELD_ENDING_WORD_RELEASE (R162). A held HALT, TDONE or SUSPEND acts once every engine command of the context is complete. -/
  | heldEndingWordRelease (t slot : Nat)
  /-- INSTRUCTION_CACHE_FILL (R49). Engine 0 fills one plate of code into the instruction cache. -/
  | instructionCacheFill (t va : Nat)
  /-- PARAMETER_BLOCK_FILL (R183). Engine 0 reads the parameter block and performs its entries before the task's first bundle. -/
  | parameterBlockFill (t slot : Nat)
  /-- MATRIX_COMMAND_START (R173). A queued matrix command begins its first step. -/
  | matrixCommandStart (t : Nat)
  /-- MATRIX_STEP (R155). One step accumulates an A and B tile product into an accumulator tile. -/
  | matrixStep (t : Nat)
  /-- MATRIX_STALL_RESUME (R159). A stalled matrix access is made again after an RMAPDATA write serves it. -/
  | matrixStallResume (t : Nat)
  /-- MWB_ROW (R171). A write-back command encodes and stores one row of the result. -/
  | mwbRow (t : Nat)
  /-- MATRIX_CLEAR_RUN (R168). A clear command writes its pattern over its accumulator range. -/
  | matrixClearRun (t : Nat)
  /-- MATRIX_COMPLETION (R160). A matrix command completes: DONE, semaphore signal, handler pending bit and event. -/
  | matrixCompletion (t : Nat)
  /-- COPY_BEGIN (R308). An engine begins a queued copy command and frees its queue entry. -/
  | copyBegin (t e : Nat)
  /-- COPY_UNIT_RETIRE (R308). A copy unit is checked and its destination writes complete. -/
  | copyUnitRetire (t e : Nat)
  /-- COPY_STALL_RESUME (R317). A stalled copy resumes after an RMAPDATA write serves its access. -/
  | copyStallResume (t e : Nat)
  /-- COPY_COMPLETION (R321). A copy command ends and performs its completion actions in order. -/
  | copyCompletion (t e : Nat)
  /-- WALK (R266). The die walker completes a translation walk with an outcome. -/
  | walk (t e va acc : Nat)
  /-- TLBINV_COMPLETE (R349). Every cache has dropped the entries and affected units are done; the context's later bundles issue. -/
  | tlbinvComplete (t slot : Nat)
  /-- CLOSING_POINT (R255). At a slot's closing point the scheduler chooses the request that fills the slot. -/
  | closingPoint (st pc slot : Nat) (wr : Bool) (hint : Nat)
  /-- READ_LINE_ARRIVAL (R256). A read line arrives in the requester's Burin engine 110 ns after its slot. -/
  | readLineArrival (st k : Nat)
  /-- WRITE_PERFORMED (R256). A write line is performed 60 ns after its slot. -/
  | writePerformed (st k : Nat)
  /-- RETRY (R258). A refused owned-slot request receives RETRY with a wait hint. -/
  | retry (st k : Nat)
  /-- THERMAL_STATE_CHANGE (R259). A stack changes its thermal state at a rotation start after a crossing. -/
  | thermalStateChange (st temp : Nat)
  /-- OWNER_ENTRY_EFFECT (R254). A written owner entry takes effect at the next rotation beginning more than 24 ns later. -/
  | ownerEntryEffect (x : CalTurn)
  /-- SCTL_QUIESCE (R263). Setting QUIESCE holds new requests at the schedulers. -/
  | sctlQuiesce (st : Nat)
  /-- QUIESCED (R263). Every in-flight request has been served and QUIESCED becomes 1. -/
  | quiesced (st : Nat)
  /-- SCTL_RATIO (R263). A write of RATIO while quiesced starts lane retraining. -/
  | sctlRatio (st ratio : Nat)
  /-- LANE_RETRAIN_COMPLETE (R263). Lanes are retrained, calendars restart at a new epoch and QUIESCE is cleared. -/
  | laneRetrainComplete (st : Nat)
  /-- PLATE_FILL (R277). A plate is read whole and its tag verified before any byte is delivered. -/
  | plateFill (t e : Nat) (err : Bool)
  /-- PLATE_WRITE (R279). The counter unit raises the minors and the engine begins resealing a plate. -/
  | plateWrite (t e : Nat)
  /-- PLATE_COMMIT (R280). A plate write's lines, tag and counters are performed and the plate is released. -/
  | plateCommit (t e : Nat)
  /-- RESEAL_COMMIT (R283). The re-sealed group commits as one and held accesses are released. -/
  | resealCommit (st grp : Nat)
  /-- KEY_ROTATION_GROUP (R287). The counter unit re-seals one group under the rotated key. -/
  | keyRotationGroup (st grp : Nat)
  /-- PATROL_SCRUB (R238). The scrubber reads one doubleword of each bank every 64 cycles. -/
  | patrolScrub (t bank line err : Nat)
  /-- MESH_ARRIVAL (R247). A gang-window request arrives at its home bank and is applied. -/
  | meshArrival (k : Nat)
  /-- SIG_DELIVERY (R203). A semaphore increment is delivered at its target tile. -/
  | sigDelivery (k : Nat)
  /-- PORT_E_WRITE_APPLY (R301). A queued engine write is applied at its bank. -/
  | portEWriteApply (t k : Nat)
  /-- GANG_DISPATCH (R185). The Orrery places and dispatches the next gang instance that can be placed. -/
  | gangDispatch (die : Nat)
  /-- CLAIM (R186). An Orrery claims tiles of another die; the claim is granted or refused whole. -/
  | tileClaim (die job : Nat)
  /-- JOB_COMPLETION (R187). A job meets its completion conditions and its completion target is performed. -/
  | jobCompletion (die slot : Nat)
  /-- CONTINUATION_RESUME (R192). An idle tile of the gang takes the continuation at the head of the resume queue. -/
  | continuationResume (gang t : Nat)
  /-- PREEMPT_REQ (R342). A write of 1 to PREEMPT.REQ requests pre-emption of the gang instance. -/
  | preemptReq (t slot : Nat)
  /-- PREEMPTION (R343). A request reaches a member's tile; issue stops and commands are drained or stopped. -/
  | preemption (t slot : Nat)
  /-- DRAIN_LIMIT (R344). The copy drain limit falls; remaining units are discarded and commands end STOPPED. -/
  | drainLimit (t slot : Nat)
  /-- PROOF_RECORD_WRITE (R343). After the drains, the pre-emption record is written, entries parked and the slot freed. -/
  | proofRecordWrite (t slot : Nat)
  /-- RESUMPTION (R348). The Orrery resumes a pre-empted gang instance from its records. -/
  | resumption (gang : Nat)
  /-- WINDOW_CROSSING (R356). The monitor window's replays exceed the threshold; it freezes and notifies Gnomon. -/
  | windowCrossing (t : Nat)
  /-- MONITOR_WINDOW_END (R356). The window reaches 2^24 bundles without a crossing and restarts. -/
  | monitorWindowEnd (t : Nat)
  /-- WINDOW_RESTART (R356). The frozen window restarts 1 ms after the new VTGT is written. -/
  | windowRestart (t : Nat)
  /-- VTGT_RAISE (R357). Gnomon raises the tile's VTGT and updates its floor, or fences a tile at 750 mV. -/
  | vtgtRaise (t : Nat)
  /-- VTGT_LOWER (R358). After 2^30 clean bundles Gnomon lowers VTGT if the floor allows. -/
  | vtgtLower (t : Nat)
  /-- OPERATING_POINT_CHANGE (R355). A tile changes operating point and its VTGT is raised to the new floor first. -/
  | operatingPointChange (t op : Nat)
  /-- ALMANAC_WRITE (R361). Gnomon writes the older Almanac copy of a tile's entry. -/
  | almanacWrite (t : Nat)
  /-- LDO_TRIM_UPDATE (R354). On an announced rail change each LDO sets a new TRIM. -/
  | ldoTrimUpdate (t : Nat)
  /-- RAIL_STEP (R366). A rail moves one 5 mV step toward its target. -/
  | railStep (r : Nat)
  /-- RAIL_HOLD_EXPIRY (R366). The 20 ms hold after a target fall ends and the descent begins. -/
  | railHoldExpiry (r : Nat)
  /-- VMIN_SAMPLE (R367). Every 10 ns the rail is sampled and a new minimum is recorded. -/
  | vminSample (die r mv : Nat)
  /-- VMIN_REARM (R367). A write rearms VMIN with the present sample and TIME. -/
  | vminRearm (die r mv : Nat)
  /-- THERMAL_OBSERVER_UPDATE (R368). Every 1 ms the observer forecasts temperatures and applies thermal actions. -/
  | thermalObserverUpdate (tnow tfc : List Nat) (watts : Nat)
  /-- EMERGENCY_GATING (R369). A sensor at 115 °C stops every compute clock with state retained. -/
  | emergencyGating
  /-- GATING_END (R369). Every sensor reads 105 °C or less and execution resumes. -/
  | gatingEnd
  /-- INJCTL_EN (R370). Setting INJCTL.EN loads every target tile's LFSR. -/
  | injctlEn (die : Nat)
  /-- FLIT_RECEIVE (R377). A Meridian flit arrives and is checked, discarded or delivered in SEQ order. -/
  | flitReceive (port : Nat) (f : Flit) (bad : Bool)
  /-- NAK (R378). A NAK makes the sender resend from the failed flit. -/
  | nak (port seq : Nat)
  /-- RETRAIN_COMPLETE (R378, R379). Retraining ends, resuming from the replay buffer with the LT it has measured, or, with none, leaving
  the port DOWN. -/
  | retrainComplete (port : Nat) (lt : Option Nat)
  /-- HOLD (R380). A gated package sends a HOLD control flit once per µs. -/
  | portHold (port : Nat)
  /-- CLEAR_FLIT (R383). A CLEAR from a receiver matches the oldest pending LSEND with the same key. -/
  | clearFlit (port : Nat)
  /-- DATA_FLIT (R383). A DATA flit's payload is written at the receiver. -/
  | dataFlit (port : Nat)
  /-- LAST_FLIT (R383). The LAST flit completes the receiver, which returns DONE. -/
  | lastFlit (port : Nat)
  /-- DONE_FLIT (R383). A DONE flit completes the sender. -/
  | doneFlit (port : Nat)
  /-- CONTROL_FLIT (R383). A CONTROL flit such as ABORT ends the receiver FAILED with ERR = PEER. -/
  | controlFlit (port : Nat)
  /-- LINK_COMPLETION (R385). A link command ends and performs its completion actions. -/
  | linkCompletion (t tag : Nat)
  /-- SCHEDULE_STEP (R389). A collective schedule performs one send-and-receive step. -/
  | scheduleStep (t tag : Nat)
  /-- DONE (R390). The coordinator receives a member's DONE after its last step. -/
  | memberDone (t tag rank : Nat)
  /-- COMMIT (R390). A member receives COMMIT and completes its schedule. -/
  | memberCommit (t tag : Nat)
  /-- FAIL (R390). The coordinator receives FAIL about a member. -/
  | memberFail (t tag rank : Nat)
  /-- RESTART (R390). Survivors restore BUF from SAVE and rerun the schedule with the new membership. -/
  | scheduleRestart (t tag epoch : Nat) (removed : List Nat)
  /-- COORDINATOR_QUERY (R390). After a coordinator failure the next member, whose rank is given, queries every survivor. -/
  | coordinatorQuery (t tag rank : Nat)
  /-- MEMBER_TIMEOUT (R390). A step waits TMO on a member, which then counts as failed. -/
  | memberTimeout (t tag rank : Nat)
  /-- TWIN_WINDOW_CLOSE (R392). A host-visible signal closes the digest window and the digest is sent to the twin. -/
  | twinWindowClose (p : Nat)
  /-- TWIN_DIGEST (R392). The twin's digest arrives and is compared; a match releases the signal, a mismatch halts. -/
  | twinDigest (p win digest : Nat)
  /-- INTERIM_DIGEST (R392). Every 100 µs an interim digest of the open window is sent. -/
  | interimDigest (p : Nat)
  /-- TWIN_LOST (R392). 300 µs without a twin message halts the partition. -/
  | twinLost (p : Nat)
  /-- LAUNCH_WINDOW_WRITE (R396). A 64-byte write to a VF's launch window posts a launch packet. -/
  | launchWindowWrite (vf off len : Nat) (pkt : BitVec 512)
  /-- FUNCTION_LEVEL_RESET (R396). A VF's function-level reset clears MSGBASE, MSGN and its message count. -/
  | functionLevelReset (vf : Nat)
  /-- PART_CREATE (R399). Makes a partition active with no tiles. -/
  | partCreate (ag : Agent) (p : Nat) (test : Bool)
  /-- PART_DESTROY (R400). Tears down a partition and frees its resources. -/
  | partDestroy (ag : Agent) (p : Nat)
  /-- TILE_ASSIGN (R399). Adds free tiles of a die to a partition. -/
  | tileAssign (ag : Agent) (p die : Nat) (mask : BitVec 64)
  /-- VF_BIND (R399). Binds a VF to a partition, or unbinds it. -/
  | vfBind (ag : Agent) (p vf : Nat) (on : Bool)
  /-- SUPTAB (R399). Writes a supervisor table entry. -/
  | suptab (ag : Agent) (p t slot : Nat) (tvec proof : BitVec 64)
  /-- SPAN_GRANT (R276). Grants a span to a partition and initialises its groups. -/
  | spanGrant (ag : Agent) (p st span key : Nat)
  /-- KEY_ROTATE (R287). Starts rotation of a partition key slot. -/
  | keyRotate (ag : Agent) (p k : Nat)
  /-- GRANT_MASK (R267). Sets a partition's key grant mask. -/
  | grantMask (ag : Agent) (p : Nat) (mask : BitVec 32)
  /-- RAIL_VOTE (R365). Sets a partition's vote on a rail. -/
  | railVote (ag : Agent) (p rail mv : Nat)
  /-- PREEMPT (R399). Requests pre-emption of a named gang instance. -/
  | preemptCmd (ag : Agent) (p : Nat) (job : BitVec 64) (gi : Nat)
  /-- STACK_CTL (R399). Writes HMSK, owner entries or SCTL of a stack. -/
  | stackCtl (ag : Agent) (p st : Nat) (w : StackWrite)
  /-- ALMANAC (R361). Reads an Almanac entry or requests relearning or unfencing. -/
  | almanacCmd (ag : Agent) (p t : Nat) (op : AlmanacOp)
  /-- TWIN (R391). Sets up twin-run for a partition. -/
  | twinSetup (ag : Agent) (p : Nat) (on : Bool)
  /-- INJECT (R370). Writes the injector registers of a test partition. -/
  | injectCmd (ag : Agent) (p die : Nat) (seed tiles ctl : BitVec 64)
  /-- POWER (R404). Changes the power state. -/
  | powerState (ag : Agent) (p : Nat) (w : PowerState)
  /-- HANDOVER (R398). The owner offers ownership to the other agent. -/
  | handover (ag : Agent)
  /-- ACCEPT (R398). The offered agent takes ownership within 100 ms. -/
  | accept (ag : Agent)
  /-- HANDOVER_EXPIRY (R398). 100 ms pass without ACCEPT and ownership stays as it was. -/
  | handoverExpiry
  /-- ROOT (R399). Sets or clears a partition's translation root. -/
  | rootSet (ag : Agent) (p : Nat) (set : Bool) (pa : Nat)
  /-- OWNER_CLAIM (R397). The security root takes the first claim after verification and makes its claimant owner. -/
  | ownerClaim (host board : Bool)
  /-- DRVFEAT (R401). The driver writes its feature vector, which locks when the first VF is bound. -/
  | drvfeat (v : BitVec 128)
  /-- COLD_START (R402). Power-on runs every start step, including HBM training and self-test. -/
  | coldStart (failing : Nat) (bad : List Nat)
  /-- WARM_START (R402). A reset with power kept runs the start steps, keeping training. -/
  | warmStart (w : WarmReq)
  /-- REGISTER_WRITE (R8). A write to a register without a row of its own sets its fields as its access codes give. -/
  | registerWrite (r : MgmtReg) (v : BitVec 64)
  /-- RESULT_DELIVERY (R23). A multi-cycle word, or an M or E word with a late answer, delivers its result and flags after its bundle has committed, and the scoreboard releases bundles that wait on it. -/
  | resultDelivery (t slot k : Nat)
  /-- LINK_TRAINING (R379). A Meridian port completes link training, learns PEERID, measures LT and goes from TRAINING to UP. -/
  | linkTraining (port peer lt : Nat)
  /-- POWER_LOSS (R402). Package power is lost, stopping the device and leaving START_FAIL raised or the other Almanac copy in force. -/
  | powerLoss
  /-- DEBUG_PORT_REQUEST (R404). A request on the debug port sets the debug state, presents an unlock token, or stops, steps, reads or writes a tile. -/
  | debugPortRequest (r : DebugReq)
  /-- MSI_X_COALESCING_TIMEOUT (R401). With MSI-X coalescing active, 10 µs after the first uncoalesced message the VF raises its vector even when fewer than 16 messages are pending. -/
  | msiXCoalescingTimeout (vf : Nat)
  deriving DecidableEq, Repr

end Sys2Proof
end

