-- ==== Sys2Proof/Machine/State.lean ====
section
/-! DEFINITION. The state of the whole device as plain data, the reasons for which a step could stop, and the state after
power-on. Every field cites the rule that names it; INVENTORY.md lists them all. -/

namespace Sys2Proof.Machine

/-! ## Values with poison marks (R52, R75, R125) -/

/-- A scalar and its poison mark (R75). -/
structure SVal where
  v : W64 := 0
  p : Bool := false
  deriving DecidableEq, Repr

/-- A vector and one poison mark per 8-byte chunk (R125). -/
structure VVal where
  v : Vec := 0
  p : BitVec 32 := 0
  deriving DecidableEq, Repr

/-- A bypass latch (R16, R17). -/
inductive Latch where
  | empty
  | scalar (x : SVal)
  | vector (x : VVal)
  deriving DecidableEq, Repr

/-- The snapshot of the proof record (R334, R338): scalar slot 4w + k, and one vector per operand position of R41. -/
structure Snap where
  sc : List SVal := List.replicate 32 {}
  vec : List VVal := List.replicate 8 {}
  deriving DecidableEq, Repr

/-- A trap: its cause, the word's position, SECOND and FADDR (R332). -/
structure Trap where
  cause : Nat
  word : Nat
  second : Bool
  faddr : W64
  deriving DecidableEq, Repr

/-! ## A context -/

/-- A resumption that the next issue of the context performs (R340, R348). -/
structure Resume where
  done : Nat
  snap : Snap
  lmask : BitVec 64
  npc : Option W64
  /-- the first words of the bundle, whose sources the snapshot holds; the others had not been fetched, and they read the registers
  (DEDUCED, log 35) -/
  known : Nat := 8
  deriving DecidableEq, Repr

/-- What a waiting word waits for, with the operands it has read (R81, R196, R203, R208). -/
inductive WaitKind where
  | waitev (m : BitVec 6)
  | swait (sem n : Nat)
  | cwait (d : BitVec 5) (eng : Nat) (tag : BitVec 32)
  | mwait (d : BitVec 5) (seq : BitVec 32)
  | jwait (d : BitVec 5) (job : W64)
  | bwait (d : BitVec 5) (w : Bool) (addr : W64) (cls : BitVec 4) (phase : BitVec 4) (start lim : Nat) (last : Option SVal)
  deriving DecidableEq, Repr

/-- A bundle whose words have run and whose commit, or whose trap entry, still waits (R80, R334, R341). -/
structure Held where
  words : List Instr
  done : Nat
  npc : Option W64
  waits : List (Nat × WaitKind)
  ending : Option Nat
  /-- the trap of a word, entered once every result has arrived (R334) -/
  trap : Option Trap
  /-- TRAP or BRK, which acts last (R80) -/
  brk : Option Trap
  snap : Snap
  /-- the first words of the bundle, whose sources the snapshot holds (log 35) -/
  known : Nat := 8
  lmask : BitVec 64
  /-- the bundle switches contexts (R341) -/
  switch : Bool
  /-- 1 for XRET, 2 for CRET at the commit (R82, R340), 3 for a CRET that was complete before a trap of its bundle (R333) -/
  ret : Nat
  /-- only the waits of the bundle, and the hold of its ending word, have begun: its other words run once these are over (R23) -/
  todo : Bool := false
  deriving DecidableEq, Repr

/-- A command's kept status: its tag and its status word (R319, R385). -/
structure Kept where
  tag : BitVec 32
  status : W64
  deriving DecidableEq, Repr

/-- What the parameter block gave a task at its start (R183): window bases and sizes, and parameter records. -/
structure Params where
  pwb : List W64 := List.replicate 8 0
  pws : List W64 := List.replicate 8 0
  recs : List (BitVec 512) := List.replicate 64 0
  deriving DecidableEq, Repr

/-- The architectural state of one task on one tile (R12), with the waits and records that belong to it. -/
structure Ctx where
  /-- s0 to s31 (R12) -/
  s : List SVal := List.replicate 32 {}
  /-- physical v0 to v31 (R12, R15) -/
  v : List VVal := List.replicate 32 {}
  /-- physical p0 to p7 (R12, R15) -/
  p : List Pred := List.replicate 8 0
  /-- R12 -/
  pc : W64 := 0
  /-- latches S0 S1 L0 L1 V0.0 V0.1 V1.0 V1.1 (R12, R39) -/
  lat : List Latch := List.replicate 8 .empty
  /-- predicate block: remaining count 0 to 8, shifted mask, predicate number (R12, R44) -/
  gcount : Nat := 0
  gmask : BitVec 8 := 0
  gpred : BitVec 3 := 0
  /-- user CSRs (R26) -/
  fcsr : W64 := 0
  lc : W64 := 0
  vrb : BitVec 4 := 0
  prb : BitVec 2 := 0
  prsel : BitVec 6 := 0
  sigScope : BitVec 2 := 2
  sigClasses : BitVec 16 := 0xFFFF
  heapsel : BitVec 4 := 0
  heapDie : Nat := 0
  poisonSeen : Bool := false
  pwoob : Bool := false
  /-- what the present bundle has set of FCSR [8:4], POISON_SEEN and PWOOB (R76); the model's own -/
  newFlags : BitVec 5 := 0
  newPoison : Bool := false
  newPwoob : Bool := false
  chvec : W64 := 0
  chActive : Bool := false
  /-- PB0, PB1, PMTX, PLINK: CHCTL bits 1 to 4 (R26) -/
  chPend : BitVec 4 := 0
  chEn : Bool := false
  bundles : W64 := 0
  replays : W64 := 0
  taskid : BitVec 32 := 0
  gangidx : Nat := 0
  gangsize : Nat := 1
  jobh : W64 := 0
  pwb : List W64 := List.replicate 8 0
  pws : List W64 := List.replicate 8 0
  pridx : BitVec 9 := 0
  /-- parameter records 0 to 63 (R27, R110) -/
  recs : List (BitVec 512) := List.replicate 64 0
  /-- supervisor CSRs (R28) -/
  pmode : Bool := false
  mode : Bool := false
  tvec : W64 := 0
  epc : W64 := 0
  cause : W64 := 0
  faddr : W64 := 0
  proof : W64 := 0
  cbase : W64 := 0
  clim : W64 := 0
  rmapidx : BitVec 7 := 0
  /-- PREEMPT (R342) -/
  preState : BitVec 2 := 0
  preCount : BitVec 16 := 0
  preDrain : BitVec 4 := 0xF
  preReq : Bool := false
  /-- ALLOT (R28, R177) and the tile's semaphores that the member owns, in order -/
  v32 : Bool := false
  sems : List Nat := []
  /-- matrix shadow descriptor (R149) and split descriptor (R172) -/
  shadow : Vec := 0
  split : BitVec 512 := 0
  /-- matrix FLAGS (NV OF UF NX order of R160), ERR and RSTALL -/
  mflags : BitVec 5 := 0
  merr : BitVec 4 := 0
  mrstall : Bool := false
  /-- event bits SEM B0 B1 MTX LINK HEAP (R81) -/
  events : BitVec 6 := 0
  /-- running CRC of Burin 0, Burin 1 and the link engine (R322, R385) -/
  crc : List (BitVec 32) := List.replicate 3 0xFFFFFFFF
  /-- kept statuses of Burin 0, Burin 1 and the link engine, newest first (R319, R385) -/
  kept : List (List Kept) := List.replicate 3 []
  /-- names kept across pre-emption: engine, original tag, new tag (R348) -/
  aliases : List (Nat × BitVec 32 × BitVec 32) := []
  /-- completion-handler save: s24 to s31, p1 to p3, latches, predicate block, return PC (R82, R323) -/
  hsS : List SVal := List.replicate 8 {}
  hsP : List Pred := List.replicate 3 0
  hsLat : List Latch := List.replicate 8 .empty
  hsG : Nat × BitVec 8 × BitVec 3 := (0, 0, 0)
  hsPc : W64 := 0
  /-- the bundle that the handler interrupted in a wait, and its complete words (R324) -/
  hsResume : Option Resume := none
  /-- issue number, detections, those injected and half rate of the interrupted bundle (R24, R353) -/
  hsIssue : Nat × Nat × Nat × Bool := (1, 0, 0, false)
  /-- the first words of the trapped bundle, whose sources the trap record's snapshot holds (DEDUCED, log 35) -/
  known : Nat := 8
  /-- XRET has returned and the bundle that it resumed has not committed (R336) -/
  afterXret : Bool := false
  /-- the instance of the gang the task belongs to (R175) -/
  gang : Nat := 0
  /-- a bundle that waits (R80, R334, R341) -/
  held : Option Held := none
  /-- a resumption to perform (R340) -/
  resume : Option Resume := none
  /-- asynchronous traps not yet delivered, oldest first (R336) -/
  asyncTraps : List (Nat × W64) := []
  /-- registers with a remote result under way: scalars and vectors, each with the number of parts missing (R22) -/
  pendS : List (BitVec 5) := []
  pendV : List (Nat × Nat) := []
  /-- the result under way fills latch L0 (R17) -/
  pendL : Bool := false
  /-- issue number of the present bundle, its detections, those of them that were injected, and whether its first issue was at half
  rate (R24, R356) -/
  issueNo : Nat := 1
  detections : Nat := 0
  injDet : Nat := 0
  firstHalf : Bool := false
  /-- the task has posted its own completion (R187) -/
  posted : Bool := false
  /-- the parameters of the task's start, which a continuation starts with again (R192) -/
  start : Params := {}
  /-- RMAPDATA writes of the present bundle, in force from the next one: entry and value (R243) -/
  mapNew : List (Nat × W64) := []
  /-- stopped by a proof fault, a fence or the debug port (R336, R362, R404) -/
  stopped : Bool := false
  /-- held by TLBINV (R349): all entries, or the page of an address -/
  tlb : Option (Option W64) := none
  /-- the launch of a job since its queue reached the high watermark (R185) -/
  throttled : Bool := false
  /-- pre-emption: 0 none, 1 issue stopped and engines draining, 2 drained (R343) -/
  preStep : Nat := 0
  deriving DecidableEq, Repr

/-! ## Accesses on the mesh -/

/-- The operations of the integer atomics and of AFADD (R143, R144). -/
inductive AtomicOp where
  | add | min | max | minu | maxu | and | or | xor | swp | cas | fadd
  deriving DecidableEq, Repr

/-- What an L word does at its home bank, with its operands (R289). Every key is a key of the memory. -/
inductive MemAct where
  /-- read `n` bytes and extend them to 64 bits (R93) -/
  | load (key n : Nat) (sext : Bool)
  /-- read 256 bytes; byte i is governed by bit i of the mask (R95) -/
  | loadV (key : Nat) (mask : Pred)
  /-- read 64 bytes and broadcast them (R95) -/
  | loadB (key : Nat) (mask : Pred)
  /-- read one chunk of format `fmt`, whose two blocks have their scale bytes at `sc0` and `sc1`, into 32-bit lanes (R95, R101) -/
  | loadF (key sc0 sc1 fmt : Nat) (mask : Pred)
  /-- read the 4 bytes of each of some gather lanes (key, lane), all in one doubleword (R96, R289) -/
  | lanes (l : List (Nat × Nat))
  /-- write the pieces (key, size, value), each with its poison mark (R91, R94) -/
  | write (pieces : List (Nat × Nat × Nat)) (poison : List Bool)
  /-- read, compute and write one unit (R143, R144); `ret` tells a returning atomic -/
  | atomic (op : AtomicOp) (key : Nat) (x cmp : SVal) (ret : Bool)
  /-- arm a barrier object (R206) -/
  | binit (key x : Nat)
  /-- make one arrival of count `k` (R207) -/
  | barv (key k gidx : Nat)
  /-- read word 0 of a barrier object for a BWAIT (R208) -/
  | bwait (key : Nat)
  deriving DecidableEq, Repr

/-- What an access answers. -/
inductive MemRes where
  | none
  | s (x : SVal)
  | v (x : VVal) (f : BitVec 5)
  | lanes (l : List (Nat × BitVec 32 × Bool))
  | flags (x : SVal) (f : BitVec 5)
  deriving DecidableEq, Repr

/-- Where an answer goes: a scalar, a masked vector, some lanes of a vector, a waiting BWAIT, or nowhere. -/
inductive MemDst where
  | none
  | s (d : BitVec 5) (w : Bool)
  | v (d : Nat) (w : Bool) (mask : Pred)
  | lane (d : Nat) (w : Bool)
  | bwait
  deriving DecidableEq, Repr

/-- An access to another tile's part of the gang window, or a semaphore signal, under way (R245, R203). -/
structure MeshReq where
  tile : Nat
  slot : Nat
  task : BitVec 32
  home : Nat
  act : MemAct
  cls : BitVec 4
  dst : MemDst
  /-- the answer, once the home bank has applied the access -/
  res : Option MemRes
  /-- the answer fills latch L0: its issue group still runs (R16, R17) -/
  latch : Bool := false
  /-- scope and classes of each fence that this access precedes, held while a part of it within that scope is not applied (R295, R296) -/
  holds : List (Nat × BitVec 16) := []
  /-- the bundle of a gather or scatter, whose lanes in one doubleword are one access (R289) -/
  wid : Option W64 := none
  /-- the doublewords of a vector load read so far: doubleword, value and mark (R289) -/
  got : List (Nat × Nat × Bool) := []
  deriving DecidableEq, Repr

/-- A semaphore signal under way (R203): the member's tile, its semaphore there and the count. -/
structure SigReq where
  tile : Nat
  sem : Nat
  gang : Nat
  n : Nat
  /-- the bundle of a SIG word, which must commit first: tile, slot, TASKID and BUNDLES -/
  src : Option (Nat × Nat × BitVec 32 × W64) := none
  deriving DecidableEq, Repr

/-! ## Engines of a tile -/

/-- A write of an engine that is complete but not yet applied at its bank (R301): its home tile, the tile and engine that made it
(0 and 1 Burin, 2 link, 3 matrix), and its pieces (key, size, value) with their poison marks. -/
structure PortW where
  home : Nat
  src : Nat
  eng : Nat
  pieces : List (Nat × Nat × Nat)
  marks : List Bool
  /-- the context whose command made it: its gang and TASKID (R290) -/
  own : Option (Nat × BitVec 32) := none
  /-- the tag of its command, and the banks that the command reserves until this write is applied (R244, R309) -/
  cmd : BitVec 32 := 0
  banks : Nat := 0
  deriving DecidableEq, Repr

/-- The three commands of the matrix engine (R165, R168, R170), with the parameter records read at acceptance (R110). -/
inductive MKind where
  | go (d : BitVec 2048) (ra rb : BitVec 512)
  | clr (off len : Nat) (z : Bool)
  | wb (d : BitVec 512) (r : BitVec 512)
  deriving DecidableEq, Repr

/-- A matrix command accepted and not complete (R148): nest indices or next row, and the access that stalls it (R159). -/
structure MCmd where
  seq : BitVec 32
  slot : Nat
  kind : MKind
  began : Bool := false
  /-- it has read the scratchpad: its banks are reserved (R244) -/
  acc : Bool := false
  idx : List Nat := List.replicate 6 0
  row : Nat := 0
  /-- every step, row or clear is done, or the command stopped -/
  fin : Bool := false
  err : Nat := 0
  /-- address of the stalled access, and whether it is a store -/
  stall : Option (Nat × Bool) := none
  deriving DecidableEq, Repr

/-- Where a unit of a copy or a fill stands (R308, R314). -/
inductive UnitSt where
  /-- waits for its translation -/
  | walk
  /-- waits for the counter unit: its plate or group is held (R280, R283) -/
  | wait
  /-- a fill granted: the plate as it stood then, the lines of the present stage not yet read, and its plate outcome so far (R277) -/
  | lines (img left out : Nat)
  /-- passed its check; for a copy within on-chip memory, the bytes read so far -/
  | ready (img : Nat)
  /-- a write whose plate or group is held: the plate's new bytes, ready for its commit to begin in its turn (R280, R283) -/
  | held (img : Nat)
  /-- a write whose group is being re-sealed for it: the plate's new bytes (R283) -/
  | sealing (img : Nat)
  /-- a write whose commit has begun: the plate's new bytes, and the lines not yet performed -/
  | writing (img left : Nat)
  /-- committed, with the plate's bytes -/
  | committed (img : Nat)
  /-- failed: error, walk outcome and plate outcome -/
  | failed (err walk pout : Nat)
  deriving DecidableEq, Repr

/-- What a fill of one plate is for: a command, a table read of the die walker (R268), the instruction cache (R49) or the parameter block
of a start (R183). -/
inductive FillKind where
  | copy | table | code | params
  deriving DecidableEq, Repr

/-- A unit in flight (R308): the part [off, off + len) of its command, its plate and its translation; or a fill of one plate that no
command makes. -/
structure CUnit where
  uid : Nat
  kind : FillKind := .copy
  tag : BitVec 32 := 0
  off : Nat := 0
  len : Nat := 4096
  va : Nat := 0
  /-- rights that its page must give: bit 0 RD, 1 WR, 2 X (R265) -/
  acc : Nat := 1
  /-- the unit writes its plate (R279) -/
  wr : Bool := false
  pte : W64 := 0
  /-- its walk reached a leaf of a large page (R51) -/
  big : Bool := false
  /-- physical address of the plate -/
  pa : Nat := 0
  st : UnitSt
  /-- stages of lines still to be read: stack offsets / 64 (R277) -/
  more : List (List Nat) := []
  /-- counter blocks that its fill verifies, none of them invalidated since the grant (R277, R278) -/
  ctrs : List Nat := []
  /-- order of arrival at the counter units (R280, R283) -/
  age : Nat := 0
  /-- bytes of an on-chip copy already read, and the writes of its chunks, which wait for the unit's last read (R315, R328) -/
  pos : Nat := 0
  buf : List PortW := []
  /-- translated by an entry that TLBINV has removed (R349) -/
  inv : Bool := false
  /-- computations of its present operation that a sensor failed (R351) -/
  det : Nat := 0
  deriving DecidableEq, Repr

/-- A copy command accepted and not complete (R307, R308). -/
structure Copy where
  tag : BitVec 32
  slot : Nat
  d : BitVec 512
  /-- local address of the descriptor -/
  da : Nat
  began : Bool := false
  /-- it has made a scratchpad access: its banks are reserved (R309) -/
  acc : Bool := false
  /-- bytes requested and bytes delivered -/
  next : Nat := 0
  doneb : Nat := 0
  /-- DONEB of the command that a reissued one continues (R348) -/
  base : Nat := 0
  crc : Option (BitVec 32) := none
  /-- bytes of writes that go on without it, still to be added to its checksum after the commands before it: number and value (R322, R344) -/
  late : List (Nat × Nat) := []
  err : Nat := 0
  walk : Nat := 0
  pout : Nat := 0
  fpn : Nat := 0
  barc : Nat := 0
  retries : Nat := 0
  /-- 5 CANCELLED or 6 STOPPED: no further request (R328, R344) -/
  stop : Option Nat := none
  /-- a write of it runs on after the drain limit (R344) -/
  cut : Bool := false
  /-- no further unit is delivered -/
  fin : Bool := false
  /-- completion actions done so far: 1 the record, 2 the arrival (R321) -/
  phase : Nat := 0
  /-- member tile, offset and kind of the stalled access: the tile that holds the entry, the address, and a store (R317) -/
  stall : Option (Nat × Nat × Bool) := none
  deriving DecidableEq, Repr

/-- A translation that an engine holds (R268). -/
structure TlbEnt where
  part : Nat
  page : Nat
  big : Bool
  pte : W64
  deriving DecidableEq, Repr

/-- A Burin engine (R307, R308, R268, R277). -/
structure Burin where
  q : List Copy := []
  units : List CUnit := []
  /-- fills that no command makes (R49, R183, R268) -/
  fetch : List CUnit := []
  seq : BitVec 32 := 0
  done : BitVec 32 := 0
  tlb : List TlbEnt := []
  /-- verified counter blocks, by physical address, newest first (R277) -/
  ctr : List Nat := []
  uid : Nat := 0
  deriving DecidableEq, Repr

/-- A schedule under way (R389, R390): its members, its step and its agreement. -/
structure Sched where
  /-- package ID, port and LIVE of each entry of the membership table (R387) -/
  members : List (Nat × Nat × Bool)
  epoch : Nat
  step : Nat := 0
  /-- the transfers of the present step are posted -/
  posted : Bool := false
  /-- the SAVE copy has been made -/
  saved : Bool := false
  /-- every step is done; DONE has been sent (R390) -/
  stepsDone : Bool := false
  told : Bool := false
  /-- ranks whose DONE the coordinator has (R390) -/
  dones : List Nat := []
  committed : Bool := false
  /-- packages of coordinators that this member no longer heeds (R390) -/
  deaf : List Nat := []
  /-- packages that this member counts as failed (R390) -/
  failed : List Nat := []
  /-- this member has queried the survivors, and their answers: package, and whether it had COMMIT (R390) -/
  queried : Bool := false
  answers : List (Nat × Bool) := []
  deriving DecidableEq, Repr

/-- A link command accepted and not complete (R381): kind 0 LSEND, 1 LRECV, 2 LRADD, 3 LSCHED, and the transfers of a schedule's
step under its tag, 4 a send, 5 a receive, 6 a receive that adds (R389). -/
structure LCmd where
  tag : BitVec 32
  /-- order of acceptance in the package (R383) -/
  age : Nat
  /-- the task that issued it, which pre-emption can move to another slot (R343) -/
  gang : Nat
  task : BitVec 32
  kind : Nat
  port : Nat
  d : BitVec 512
  da : Nat
  r : BitVec 512
  /-- STATE of R384: 1 QUEUED, 2 MATCHING, 3 RUNNING, 6 RESTARTING -/
  st : Nat := 1
  /-- bytes sent or received -/
  pos : Nat := 0
  /-- the last flit has been sent, or has arrived -/
  last : Bool := false
  /-- KEYBASE and EPOCH of the schedule that it is a step of (R390) -/
  run : Option (Nat × Nat) := none
  /-- what its bytes so far add to the running register (R385) -/
  crc : BitVec 32 := 0
  flags : BitVec 5 := 0
  err : Nat := 0
  retries : Nat := 0
  /-- sequence numbers of the flits it sent last (R384) -/
  seqs : List Nat := []
  /-- the CLEAR that a send matched (R383) -/
  mate : Nat := 0
  /-- computations of its present operation that a sensor failed (R351) -/
  det : Nat := 0
  fin : Bool := false
  /-- the stalled access: address and whether it is a store (R383) -/
  stall : Option (Nat × Bool) := none
  sched : Option Sched := none
  deriving DecidableEq, Repr

/-- The link engine of a tile (R381). -/
structure LinkEng where
  q : List LCmd := []
  seq : BitVec 32 := 0
  /-- the schedules that committed last: tag, MYID, KEYBASE and the schedule (R390) -/
  past : List (BitVec 32 × Nat × Nat × Sched) := []
  deriving DecidableEq, Repr

/-- Margin and monitor state of a tile (R352, R354 to R361, R371). -/
structure Margin where
  /-- half-rate period and clean bundles counted in it (R352) -/
  half : Bool := false
  clean : Nat := 0
  throt : Bool := false
  op : BitVec 2 := 0
  trim : Nat := 0
  vtgt : Nat := 750
  /-- monitor window: bundles, replays, injected replays, frozen by a crossing, new VTGT written (R356) -/
  wB : Nat := 0
  wRp : Nat := 0
  wInj : Nat := 0
  frozen : Bool := false
  answered : Bool := false
  /-- lifetime counts and bundles since the last replay (R358, R360) -/
  bund : W64 := 0
  repl : W64 := 0
  run : Nat := 0
  /-- computations of the matrix engine's present operation that a sensor failed (R351) -/
  engDet : Nat := 0
  lfsr : W64 := 0
  /-- what Gnomon holds for the tile between writes of the Almanac (R356 to R361) -/
  work : BitVec 2048 := 0
  dirty : Bool := false
  /-- Almanac copies A and B (R359, R360) -/
  almA : BitVec 2048 := 0
  almB : BitVec 2048 := 0
  relearn : Bool := false
  unfence : Bool := false
  /-- corrected and uncorrectable errors of each bank: 32 of the scratchpad and 192 of the accumulator store (R237) -/
  sramC : List Nat := List.replicate 224 0
  sramU : List Nat := List.replicate 224 0
  deriving DecidableEq, Repr

/-! ## A tile -/

/-- One tile of the 512 (R1). -/
structure Tile where
  /-- resident contexts, one per slot (R341) -/
  ctx : List (Option Ctx) := List.replicate 8 none
  /-- region map, entries as RMAPDATA lays them out (R241) -/
  rmap : List W64 := List.replicate 128 0
  /-- PARTID, owning partition (R28) -/
  partid : Option Nat := none
  /-- RAFLAGS bits [8:4] (R26) -/
  raflags : BitVec 5 := 0
  /-- CYCLE (R26) -/
  cycle : W64 := 0
  /-- semaphore counts and the gang that holds each (R177, R201) -/
  sem : List (BitVec 32) := List.replicate 32 0
  semGang : List (Option Nat) := List.replicate 32 none
  /-- pending handoffs: region, successor task, job (R193) -/
  handoffs : List (Nat × BitVec 32 × W64) := []
  /-- supervisor table: TVEC and PROOF of each slot (R337) -/
  suptab : List (W64 × W64) := List.replicate 8 (0, 0)
  /-- instruction cache: plate address and its 4,096 bytes, byte 0 lowest (R49) -/
  icache : List (Nat × Nat) := []
  /-- TMARG.FENCED (R354, R362) -/
  fenced : Bool := false
  /-- TIME of the tile's last commit (R368) -/
  seen : Option W64 := none
  /-- stopped by the debug port (R404) -/
  debugStop : Bool := false
  /-- the debug port steps one bundle of a stopped tile (R404) -/
  debugStep : Bool := false
  /-- the context that issued last (R341) -/
  turn : Nat := 7
  /-- matrix engine: queue in acceptance order, sequence counter and DONE (R148) -/
  mq : List MCmd := []
  mseq : BitVec 32 := 0
  mdone : BitVec 32 := 0
  /-- Burin engines 0 and 1 (R307) -/
  burin : List Burin := List.replicate 2 {}
  link : LinkEng := {}
  margin : Margin := {}
  /-- doubleword that the patrol scrubber reads next, per bank: 32 of the scratchpad and 192 of the accumulator store (R238) -/
  scrub : List Nat := List.replicate 224 0
  deriving DecidableEq, Repr

/-- The bundle in issue: what a word's meaning needs besides the context (DESIGN CHOICE, log 5). -/
structure Issue where
  tile : Nat := 0
  slot : Nat := 0
  /-- position of the word that runs next -/
  pos : Nat := 0
  /-- the words of the bundle; an empty list stands for a bundle of the one word that runs -/
  words : List Instr := []
  /-- the context as it stood before the bundle (R22) -/
  pre : Ctx := {}
  /-- RAFLAGS as it stood before the bundle -/
  preRaf : BitVec 5 := 0
  /-- words complete, by position (R333) -/
  done : Nat := 0
  /-- taken transfer of a complete C word (R333) -/
  npc : Option W64 := none
  /-- the trap of the lowest position so far (R333) -/
  trap : Option Trap := none
  /-- TRAP or BRK of the bundle, which acts last (R80) -/
  brk : Option Trap := none
  /-- waiting words -/
  waits : List (Nat × WaitKind) := []
  /-- HALT, TDONE or SUSPEND of the bundle (R80) -/
  ending : Option Nat := none
  /-- latches end with this bundle: a context switch (R341) -/
  switch : Bool := false
  /-- lanes performed by a gather or scatter that stopped (R96) -/
  lmask : BitVec 64 := 0
  /-- 1 for XRET, 2 for CRET at the commit (R82, R340) -/
  ret : Nat := 0
  /-- a check of steps 1 to 6 of R48 failed -/
  early : Bool := false
  /-- the tile's own accesses of this bundle wait at their banks like those of other tiles (R235, R289; the model's own, log 6) -/
  late : Bool := false
  deriving DecidableEq, Repr

/-! ## A die: the Orrery and the heap unit -/

/-- States of a heap instance (R211). -/
inductive HeapState where
  | unused | opened | closed
  deriving DecidableEq, Repr

/-- States of a heap entry (R212). -/
inductive EntryState where
  | free | queued | running | idle | retired
  deriving DecidableEq, Repr

/-- One entry of a heap instance (R212). -/
structure HeapEntry where
  task : BitVec 32 := 0
  gain : Nat := 0
  st : EntryState := .free
  deriving DecidableEq, Repr

/-- A heap instance (R211, R212). -/
structure HeapInst where
  st : HeapState := .unused
  entries : List HeapEntry := []
  sum : Nat := 0
  tol : Nat := 0
  owner : Option Nat := none
  deriving DecidableEq, Repr

/-- A job control block in use or last used by a complete job (R182, R187, R189, R190). -/
structure Job where
  /-- SLOT and GEN of the handle (R189) -/
  slot : Nat
  gen : BitVec 32
  pkt : BitVec 512
  part : Nat
  /-- the context that issued LAUNCH: tile, slot, TASKID and gang; or the VF of the host's packet (R187, R396) -/
  origin : Option (Nat × Nat × BitVec 32 × Nat) := none
  vf : Option Nat := none
  /-- E, P and OVERPOST (R187) -/
  e : Nat
  p : Nat := 0
  overpost : Bool := false
  /-- instances still in the queue (R185) and instances dispatched so far -/
  left : Nat
  sent : Nat := 0
  /-- order of acceptance on its die (R185) -/
  age : Nat
  complete : Bool := false
  refused : Bool := false
  faulted : Bool := false
  /-- the pool interval and the interval of each task (R190) -/
  pool : Nat × Nat := (0, 0)
  ivs : List (BitVec 32 × Nat × Nat) := []
  deriving DecidableEq, Repr

/-- A suspended task in a gang's resume queue: the tile and local address of its record (R191, R192). -/
structure Cont where
  tile : Nat
  addr : Nat
  task : BitVec 32
  posted : Bool
  start : Params := {}
  deriving DecidableEq, Repr

/-- One member of a gang: its tile, its semaphores there, and the slot where a task of it runs (R175, R176, R177). -/
structure Member where
  tile : Nat
  sems : List Nat := []
  slot : Option Nat := none
  /-- the parameter block has been read (R183) -/
  filled : Bool := false
  /-- what the context taken off its tile by pre-emption has beside its record, with its matrix commands and its copies to accept again,
  each with its engine (R343 to R348) -/
  saved : Option Ctx := none
  mx : List MCmd := []
  /-- plates of the parameter block and of its sources that engine 0 has filled (R183) -/
  plates : List (Nat × Nat) := []
  reissue : List (Nat × Copy) := []
  deriving DecidableEq, Repr

/-- A gang instance under way (R175, R176). -/
structure Gang where
  id : Nat
  /-- handle of its job, and its number among the job's instances -/
  job : W64
  inst : Nat := 0
  /-- its launch packet -/
  pkt : BitVec 512 := 0
  members : List Member
  resumeQ : List Cont := []
  deriving DecidableEq, Repr

/-- A walk under way (R268): the partition, the 64 KiB page, the engine whose request began it, the entries read so far and the key of
the entry whose table read is under way. -/
structure Walk where
  part : Nat
  page : Nat
  tile : Nat
  eng : Nat
  known : List (Nat × W64) := []
  need : Nat := 0
  deriving DecidableEq, Repr

/-- One compute die (R1, R185, R210). -/
structure Die where
  jobs : List Job := []
  /-- control blocks used so far -/
  nextSlot : Nat := 0
  nextAge : Nat := 0
  /-- depth-first order and throttling (R185) -/
  deep : Bool := false
  /-- heap instances (R210); the pool holds 65,536 entries less those allotted -/
  heap : List HeapInst := List.replicate 16 {}
  /-- walk cache: partition and virtual address prefix of the entries held, newest first (R268) -/
  walks : List (Nat × Nat × W64) := []
  /-- walks under way, at most 64 (R268) -/
  walking : List Walk := []
  /-- injector (R370) -/
  injSeed : W64 := 0
  injTiles : W64 := 0
  injCtl : W64 := 0
  /-- VMIN of the four rails (R367) -/
  vmin : List W64 := List.replicate 4 0
  deriving DecidableEq, Repr

/-! ## A stack -/

/-- Whether a line request waits, was served, was refused, or has its hinted slot (R255, R258). -/
inductive ReqSt where
  | waiting
  | served
  | refused (slot hint : Nat)
  /-- closings of the slot until the one that serves it -/
  | hinted (slot left : Nat)
  deriving DecidableEq, Repr

/-- What became of a slot of its owner's: it was kept, stolen for refresh, or its request was refused (R258, R260, R329). -/
inductive Fate where
  | kept | stolen | refused
  deriving DecidableEq, Repr

/-- A calendar of a pseudo-channel (R252, R253, R260): the slot that closes next, the positions in the order in which they are stolen next,
those stolen in the present rotation, what became of the last 63 slots of each owner that lost any, and the owner entries of a rotation
that began before newer ones came into force (R254). -/
structure Calendar where
  next : Nat := 0
  order : List Nat := List.range 64
  steals : List Nat := []
  lost : List (Nat × List Fate) := []
  old : Option (List (BitVec 8)) := none
  deriving DecidableEq, Repr

/-- A request for one 64-byte line of a stack (R252 to R258), made by engine `eng` of a tile for its unit `uid`. -/
structure LineReq where
  tile : Nat
  eng : Nat
  uid : Nat
  /-- stack offset of the line / 64 -/
  line : Nat
  pc : Nat
  wr : Bool
  /-- a table read of the die walker (R255, R268) -/
  walker : Bool := false
  /-- a line of the re-seal that unit `uid` triggered, ahead of its requester's other requests (R284) -/
  reseal : Bool := false
  st : ReqSt := .waiting
  /-- accepted while the schedulers hold new requests (R263) -/
  held : Bool := false
  /-- it has met no closing point yet -/
  fresh : Bool := true
  deriving DecidableEq, Repr

/-- States of a counter block (R287). -/
inductive GroupSt where
  | normal | resealing | exhausted | failed
  deriving DecidableEq, Repr

/-- What a 128-bit tag or MAC was computed under (R272, R274): the key, by the number of its draw, the IV and, for a plate, the granule
permutation of its 16 KiB block, none until an access fixes it (R250). It stands for the tag or MAC itself (DEDUCED, log 3). -/
structure Seal where
  key : Nat := 0
  iv : BitVec 96 := 0
  perm : Option Nat := none
  deriving DecidableEq, Repr

/-- A counter block of a group or a node, or a root (R274, R275): the minors that are not 0. -/
structure CBlock where
  major : Nat := 0
  minors : List (Nat × Nat) := []
  key : Nat := 0
  /-- the key under which the plates of the group are sealed, by the number of its draw (R287) -/
  kno : Nat := 0
  mac : Seal := {}
  st : GroupSt := .normal
  deriving DecidableEq, Repr

/-- A granted span (R276): partition, or 32 for the firmware (R265), and key slot, and the draws of the slot's key and of the owner's key at the grant. -/
structure Span where
  idx : Nat
  part : Nat
  key : Nat
  kno : Nat := 0
  mno : Nat := 0
  deriving DecidableEq, Repr

/-- A re-seal under way (R283, R285): its level, 0 of a group, 1 of a node, 2 of a root's span, with its number there; the write that
triggered it; whether it writes already, the plate or block that it reads or writes, the lines of that one still missing, and whether
a check has failed. -/
structure Reseal where
  level : Nat := 0
  idx : Nat
  tile : Nat
  eng : Nat
  uid : Nat
  wr : Bool := false
  i : Nat := 0
  left : Nat := 0
  bad : Bool := false
  deriving DecidableEq, Repr

/-- A key rotation under way on a stack (R287): partition, key slot, the draw of the key that goes, the groups left, and the nodes and
spans whose counters are already 0. -/
structure Rotate where
  part : Nat
  key : Nat
  old : Nat
  groups : List Nat
  nodes : List Nat := []
  roots : List Nat := []
  deriving DecidableEq, Repr

/-- A completion that answers an access through a function's window (R394, R395): the VF, none for the PF, the offset and the data, none
for Unsupported Request. -/
structure HostAns where
  fn : Option Nat
  off : Nat
  data : Option Nat
  deriving DecidableEq, Repr

/-- One HBM stack with its base die and counter unit (R248 to R264, R271 to R287). -/
structure Stack where
  /-- UPPER of HMSK(s, j), sets 1 to 3, six bits each (R250) -/
  hmsk : List (List (BitVec 22)) := List.replicate 3 ((List.range 6).map fun j => 1 <<< j)
  ownRd : List (BitVec 8) := (List.range 64).map fun i => 64 + BitVec.ofNat 8 i
  ownWr : List (BitVec 8) := (List.range 64).map fun i => 64 + BitVec.ofNat 8 i
  /-- owner entries written and not yet in effect: write calendar, slot, value (R254) -/
  ownNew : List (Bool × Nat × BitVec 8) := []
  tstate : BitVec 2 := 0
  temp : BitVec 8 := 0
  quiesced : Bool := false
  quiesce : Bool := false
  ratio : BitVec 2 := 0
  retrain : Option (BitVec 2) := none
  epoch : W64 := 0
  reqs : List LineReq := []
  /-- turn of source 3 on each pseudo-channel (R255) -/
  rr : List Nat := List.replicate 64 0
  /-- counter blocks that differ from a fresh grant's, by group, by node and by span (R275) -/
  groups : List (Nat × CBlock) := []
  nodes : List (Nat × CBlock) := []
  roots : List (Nat × CBlock) := []
  spans : List Span := []
  reseals : List Reseal := []
  /-- plates held by a write, by plate number, with the unit that holds each (R280) -/
  holds : List (Nat × Nat × Nat × Nat) := []
  /-- tags of the plates accessed since their spans were granted, by plate number; the others are as the grant sealed them (R272, R273,
  R276) -/
  seals : List (Nat × Seal) := []
  /-- plates whose storage a write under another hash set has taken (R251) -/
  bad : List Nat := []
  /-- lines with an error that no write has removed: stack offset / 64, and whether the base die corrects it (R264) -/
  flaws : List (Nat × Bool) := []
  /-- engine of each home tile that took its last owned slot (R254) -/
  alt : List Nat := List.replicate 64 0
  /-- calendars that have been used: pseudo-channel * 2 + direction (R252) -/
  cals : List (Nat × Calendar) := []
  rotate : Option Rotate := none
  corrected : Nat := 0
  deriving DecidableEq, Repr

/-! ## The package -/

/-- A CLEAR that waits for a send: its source, key, LEN and number, and KEYBASE and EPOCH of the schedule of which it is a step (R383,
R390). -/
structure Clear where
  src : Nat
  key : Nat
  len : Nat
  id : Nat
  run : Option (Nat × Nat) := none
  deriving DecidableEq, Repr

/-- A Meridian port (R377 to R380). -/
structure Port where
  peer : BitVec 16 := 0
  lt : BitVec 16 := 0
  crcerr : Nat := 0
  retrain : Nat := 0
  /-- 0 DOWN, 1 TRAINING, 2 UP -/
  state : Nat := 0
  twin : Bool := false
  en : Bool := false
  /-- next sequence number to send and to accept -/
  txSeq : Nat := 0
  rxSeq : Nat := 0
  /-- sequence number of the flit that the peer rejected last, and how often in a row (R378) -/
  nakSeq : Nat := 0
  naks : Nat := 0
  /-- how often in a row the flit awaited has failed (R378) -/
  fails : Nat := 0
  /-- a NAK is out: flits are discarded until the awaited one arrives again; the number that the next flit on its way has (R378) -/
  nakOut : Bool := false
  rxPos : Nat := 0
  /-- flits that wait for room in the replay buffer or for credits (R378, R380) -/
  out : List Flit := []
  /-- flits not yet acknowledged, oldest first, and those sent (R378) -/
  replay : List Flit := []
  sent : List Flit := []
  /-- flits delivered in order and not yet taken by an engine -/
  rx : List Flit := []
  /-- CLEARs that no LSEND has matched, oldest first (R383) -/
  clears : List Clear := []
  /-- transfers of epochs that a schedule here has left, whose flits are discarded as they come: source, key and number of the CLEAR
  (R390) -/
  ghosts : List (Nat × Nat × Nat) := []
  /-- the peer grants no credits (R380) -/
  peerHeld : Bool := false
  /-- packages from which HOLD has come since a wait on them was last timed (R380) -/
  holds : List Nat := []
  /-- packages that a switch has reported unreachable (R390) -/
  lost : List Nat := []
  /-- age of the command that sent last (R381) -/
  turn : Nat := 0
  deriving DecidableEq, Repr

/-- A core rail (R365, R366). -/
structure Rail where
  level : Nat := 750
  target : Nat := 750
  /-- the 20 ms hold after a fall, then the descent -/
  hold : Bool := false
  falling : Bool := false
  deriving DecidableEq, Repr

/-- Twin-run state of a partition (R391, R392). -/
structure Twin where
  digest : W64 := 0
  win : Nat := 0
  /-- signals held back, oldest first: window, own digest, and the messages -/
  held : List (Nat × W64 × List (Nat × BitVec 512)) := []
  /-- digests of the twin not yet compared -/
  theirs : List (Nat × W64) := []
  last : Nat := 0
  /-- the next window whose digest is to be sent -/
  sent : Nat := 0
  /-- interim digests sent (true) and received, kept for diagnosis -/
  interims : List (Bool × Nat × W64) := []
  deriving DecidableEq, Repr

/-- A partition (R395, R399). -/
structure Part where
  test : Bool := false
  mask : BitVec 32 := 0
  root : Option Nat := none
  votes : List Nat := List.replicate 4 0
  twin : Option Twin := none
  halted : Bool := false
  /-- its teardown is under way; the agent that is answered when it ends (R400) -/
  closing : Option Agent := none
  deriving DecidableEq, Repr

/-- A virtual function (R396). -/
structure Vf where
  part : Option Nat := none
  base : W64 := 0
  n : W64 := 0
  q : Nat := 0
  /-- messages not yet announced by a vector, and vectors raised (R401) -/
  pend : Nat := 0
  vectors : Nat := 0
  deriving DecidableEq, Repr


/-! ## The device -/

/-- The whole device. -/
structure State where
  /-- what the outside world does next, oldest first (DESIGN CHOICE, log 4) -/
  inputs : List Instr := []
  /-- the counter of free values (DESIGN CHOICE, log 4) -/
  freeCount : Nat := 0
  /-- the bundle in issue (DESIGN CHOICE, log 5) -/
  iss : Issue := {}
  /-- TIME (R7) -/
  time : W64 := 0
  /-- every byte of the device's memories, in canonical form (R234, R236, R248) -/
  mem : List Host.Cell := []
  /-- poison marks of the on-chip doublewords, by key / 8, strictly rising (R237) -/
  poison : List Nat := []
  /-- errors that stand in the on-chip arrays and no read has found: doubleword and the bits that are flipped (R237; log 14) -/
  flips : List (Nat × Nat) := []
  /-- the 512 tiles (R1) -/
  tiles : List Tile := List.replicate 512 {}
  /-- gang-window accesses under way, oldest first (R245) -/
  mesh : List MeshReq := []
  /-- gang instances under way and the next instance's number (R175) -/
  gangs : List Gang := []
  nextGang : Nat := 1
  /-- the eight dies -/
  dies : List Die := List.replicate 8 {}
  /-- semaphore signals under way (R203) -/
  sigs : List SigReq := []
  /-- engine writes complete and not yet applied, oldest first (R301) -/
  portE : List PortW := []
  /-- the eight stacks -/
  hbm : List Stack := List.replicate 8 {}
  /-- Meridian ports 0 to 11 (R377), the package's own ID, and flits discarded and counted -/
  ports : List Port := List.replicate 12 {}
  pkgId : Nat := 0
  flitDrops : Nat := 0
  /-- link commands accepted so far -/
  linkAge : Nat := 0
  /-- VMIN of the four rails at the I/O die (R367) -/
  ioVmin : List W64 := List.replicate 4 0
  /-- rails VMX, VCO, VSR, VFB (R365) -/
  rails : List Rail := List.replicate 4 {}
  /-- thermal observer: TNOW and TFC of the 128 clusters and the package estimate (R368) -/
  tnow : List Nat := List.replicate 128 0
  tfc : List Nat := List.replicate 128 0
  watts : Nat := 0
  /-- clusters throttled for the package's power (R368) -/
  powThrot : List Nat := []
  /-- emergency gating (R369) -/
  gated : Bool := false
  /-- partitions 0 to 31, where active (R395) -/
  parts : List (Option Part) := List.replicate 32 none
  /-- VFs that are bound or whose registers are not 0, by number (R396) -/
  vfs : List (Nat × Vf) := []
  /-- host messages of the PF's owner and of the VFs delivered to the host, oldest first: VF or none, address, message -/
  msgs : List (Option Nat × Nat × BitVec 512) := []
  /-- answers and events to the owner: agent, message (R399, R406) -/
  answers : List (Agent × BitVec 512) := []
  /-- writes to launch windows discarded and counted (R396) -/
  drops : Nat := 0
  /-- completions of accesses through the functions' windows, oldest first (R394, R395) -/
  completions : List HostAns := []
  /-- Almanac entries delivered to an agent that read them: tile and entry, oldest first (R361) -/
  almRead : List (Agent × Nat × BitVec 2048) := []
  owner : Option Agent := none
  offer : Option Agent := none
  drvfeat : BitVec 128 := 0
  featLock : Bool := false
  /-- start: START_FAIL, DONE, CODE, WARM, RECOV (R402, R403) -/
  startFail : Nat := 0
  started : Bool := false
  startCode : Nat := 0
  warm : Bool := false
  recov : Bool := false
  /-- the recovery has accepted an image; bit 4 of the features was active when the device last ran (R402) -/
  accepted : Bool := false
  hostUpload : Bool := false
  /-- the firmware image of the device, and the digests of the two public keys in fuses (R403) -/
  image : FwImage := {}
  fuseRsa : BitVec 384 := 0
  fuseSlh : BitVec 384 := 0
  /-- keys drawn so far, and the draw whose key each of the 33 slots holds; slot 32 is the firmware's (R271) -/
  keys : Nat := 0
  keySlots : List Nat := List.replicate 33 0
  /-- the firmware's translation root (R265) -/
  fwRoot : Option Nat := none
  /-- accesses that have reached the counter units (R280, R283) -/
  reached : Nat := 0
  power : PowerState := .active
  /-- security state 0 open, 1 secure-debug, 2 secure-locked; debug state; partitions that the token names (R404) -/
  security : Nat := 0
  debug : DebugState := .none
  token : List Nat := []
  /-- what the debug port has answered, oldest first, none for a request that is refused (R404) -/
  debugOut : List (Option Nat) := []
  deriving DecidableEq, Repr

namespace State

/-- The device after power-on and before its start (R402): no start step has run (DESIGN CHOICE, log 7). Every field holds the value that
the spec gives for reset; the values it does not give are those of log 20 (DESIGN CHOICE). -/
def reset : State :=
  { tiles := (List.range 512).map fun t =>
      { margin := { almA := BitVec.ofNat 2048 (750 * 2 ^ 128 + 2 ^ 32 + t * 2 ^ 16),
                    almB := BitVec.ofNat 2048 (750 * 2 ^ 128 + 2 ^ 32 + t * 2 ^ 16) } } }

end State

/-- Why the machine stops. -/
inductive Fault where
  /-- Raised by no meaning: the device's traps are next states (R332). Safe. -/
  | none
  deriving DecidableEq, Repr

/-- Why an instruction has no meaning. -/
inductive Refusal where
  /-- Raised by the arm of an instruction that has no meaning yet. Safe. -/
  | notModelled (mnemonic : String)
  deriving DecidableEq, Repr

end Sys2Proof.Machine
end

