-- ==== Sys2Proof/Machine/Memory.lean ====
section
/-! DEFINITION. The memories of the device as one list of bytes in canonical form, with the poison marks of the on-chip
doublewords (R234, R236, R237, R248), and the keys that tell the memories apart. A byte that no write has reached reads 0
(DESIGN CHOICE and DEDUCED, log 2, log 3). -/

namespace Sys2Proof.Machine

/-- The key of physical byte `a` of a tile's scratchpad (R234). -/
def spKey (tile a : Nat) : Nat := 2 ^ 40 + tile * 2 ^ 24 + a % 2 ^ 23

/-- The key of byte `o` of a tile's accumulator store (R236). -/
def accKey (tile o : Nat) : Nat := 2 ^ 40 + tile * 2 ^ 24 + 2 ^ 23 + o % 2 ^ 22

/-- The canonical form: keys strictly rising, no byte equal to what an unlisted key reads as. -/
def Memory.wf : List Host.Cell → Bool
  | [] => true
  | [(_, b)] => b != 0
  | (k, b) :: (l, c) :: r => b != 0 && decide (k < l) && Memory.wf ((l, c) :: r)

/-- The byte at a key. -/
def readByte : List Host.Cell → Nat → Byte
  | [], _ => 0
  | (k, b) :: r, a => if k = a then b else readByte r a

/-- The `n` bytes from key `a`, little-endian (R6). -/
def readBlock : List Host.Cell → Nat → Nat → Nat
  | [], _, _ => 0
  | (k, b) :: r, a, n =>
    (if a ≤ k ∧ k < a + n then b.toNat * 2 ^ (8 * (k - a)) else 0) + readBlock r a n

/-- The listed cells of the `n` bytes of `x` from key `a`. -/
def cellsOf : Nat → Nat → Nat → List Host.Cell
  | _, 0, _ => []
  | a, n + 1, x =>
    if x % 256 = 0 then cellsOf (a + 1) n (x / 256) else (a, BitVec.ofNat 8 x) :: cellsOf (a + 1) n (x / 256)

/-- The memory with the `n` bytes of `x` at key `a` (R6). -/
def writeBlock (m : List Host.Cell) (a n x : Nat) : List Host.Cell :=
  m.filter (fun c => decide (c.1 < a)) ++ (cellsOf a n x ++ m.filter (fun c => decide (a + n ≤ c.1)))

/-- The poison mark of the doubleword that holds a key (R237). -/
def poisonAt (l : List Nat) (key : Nat) : Bool := l.contains (key / 8)

/-- One doubleword's mark set or cleared, the list kept rising. -/
def setPoison (l : List Nat) (key : Nat) (p : Bool) : List Nat :=
  let d := key / 8
  l.filter (fun x => decide (x < d)) ++ ((if p then [d] else []) ++ l.filter (fun x => decide (d < x)))

/-- The marks of `n` doublewords from a key, bit i for doubleword i. -/
def poisonBits (l : List Nat) (key : Nat) : Nat → Nat
  | 0 => 0
  | n + 1 => poisonBits l key n + (if poisonAt l (key + 8 * n) then 2 ^ n else 0)

/-- The marks of `n` doublewords from a key set to the bits of `x`. -/
def setPoisonBits (l : List Nat) (key : Nat) (x : Nat) : Nat → List Nat
  | 0 => l
  | n + 1 => setPoison (setPoisonBits l key x n) (key + 8 * n) (bit x n)

namespace State

/-- The `n` bytes from a key. -/
def rd (s : State) (key n : Nat) : Nat := readBlock s.mem key n

/-- The state with the `n` bytes of `x` at a key; the poison marks stay. -/
def wr (s : State) (key n x : Nat) : State := { s with mem := writeBlock s.mem key n x }

/-- A key's poison mark. -/
def poisoned (s : State) (key : Nat) : Bool := poisonAt s.poison key

/-- A doubleword's poison mark written. -/
def mark (s : State) (key : Nat) (p : Bool) : State := { s with poison := setPoison s.poison key p }

/-- `n` doublewords from a key are written anew, with new check bits: no error stands in them (R237). -/
def heal (s : State) (key n : Nat) : State :=
  { s with flips := s.flips.filter fun x => !(decide (key / 8 ≤ x.1) && decide (x.1 < key / 8 + n)) }

/-- The state with `n` bytes stored at a key with a poison mark (R91): a whole aligned doubleword takes the mark, a narrower
store can only set it. -/
def store (s : State) (key n x : Nat) (p : Bool) : State :=
  if n = 8 ∧ key % 8 = 0 then ((s.wr key n x).mark key p).heal key 1
  else if p then (s.wr key n x).mark key true
  else s.wr key n x

/-- Whole doublewords with one poison bit each. -/
def storeDws (s : State) (key n x marks : Nat) : State :=
  ({ s with mem := writeBlock s.mem key (8 * n) x, poison := setPoisonBits s.poison key marks n } : State).heal key n

end State

end Sys2Proof.Machine
end

