-- ==== Sys2Proof/Machine/Float.lean ====
section
/-! DEFINITION. Floating-point formats, exact values and rounding: R52, R98, R99, R102, R111 to R117. A finite value is kept
exactly as sign, mantissa and exponent; every result is rounded once. -/

namespace Sys2Proof.Machine

/-- A floating-point format (R98): exponent and mantissa widths, bias, largest finite pattern, whether it has infinities. -/
structure FpFmt where
  e : Nat
  m : Nat
  bias : Nat
  max : Nat
  inf : Bool
  canon : Nat
  deriving DecidableEq, Repr

def fp32 : FpFmt := ⟨8, 23, 127, 0x7F7FFFFF, true, 0x7FC00000⟩
def bf16 : FpFmt := ⟨8, 7, 127, 0x7F7F, true, 0x7FC0⟩
def fp16 : FpFmt := ⟨5, 10, 15, 0x7BFF, true, 0x7E00⟩
def e4m3 : FpFmt := ⟨4, 3, 7, 0x7E, false, 0x7F⟩
def e5m2 : FpFmt := ⟨5, 2, 15, 0x7B, true, 0x7E⟩

/-- A value: a NaN and whether it signals, an infinity, or (-1)^neg · m · 2^e. -/
inductive Fv where
  | nan (sig : Bool)
  | inf (neg : Bool)
  | fin (neg : Bool) (m : Nat) (e : Int)
  deriving DecidableEq, Repr

/-- Flags NV DZ OF UF NX, in the order of FCSR [8:4] (R26). -/
abbrev Flags := BitVec 5

def fNV : Flags := 16
def fDZ : Flags := 8
def fOF : Flags := 4
def fUF : Flags := 2
def fNX : Flags := 1

/-- Width of a format in bits. -/
def FpFmt.width (f : FpFmt) : Nat := 1 + f.e + f.m

/-- Exponent of the smallest subnormal. -/
def FpFmt.qmin (f : FpFmt) : Int := 1 - (f.bias : Int) - f.m

/-- Exponent of the smallest normal. -/
def FpFmt.emin (f : FpFmt) : Int := 1 - (f.bias : Int)

/-- The value of a pattern (R98). -/
def FpFmt.decode (f : FpFmt) (x : Nat) : Fv :=
  let neg := bit x (f.e + f.m)
  let ex := bits x f.m f.e
  let mant := bits x 0 f.m
  if f.inf && ex == 2 ^ f.e - 1 then
    if mant == 0 then .inf neg else .nan (!bit x (f.m - 1))
  else if !f.inf && ex == 2 ^ f.e - 1 && mant == 2 ^ f.m - 1 then .nan false
  else if ex == 0 then .fin neg mant f.qmin
  else .fin neg (2 ^ f.m + mant) ((ex : Int) - f.bias - f.m)

/-- m · 2^e as a multiple of 2^q, for q at most e or a value that is such a multiple. -/
def rescale (m : Nat) (e q : Int) : Nat :=
  if q ≤ e then m * 2 ^ (e - q).toNat else m / 2 ^ (q - e).toNat

/-- The pattern of a value that the format holds exactly. -/
def FpFmt.encode (f : FpFmt) (neg : Bool) (m : Nat) (e : Int) : Nat :=
  let s := if neg then 2 ^ (f.e + f.m) else 0
  if m = 0 then s
  else
    let top := e + m.log2
    if top < f.emin then s + rescale m e f.qmin
    else s + (top + f.bias).toNat * 2 ^ f.m + (rescale m e (top - f.m) - 2 ^ f.m)

/-- Rounding modes of R112: RNE, RTZ, RUP, RDN. -/
def roundsUp (rm : Nat) (neg odd : Bool) (cmpHalf : Ordering) (inexact : Bool) : Bool :=
  match rm with
  | 0 => cmpHalf == .gt || (cmpHalf == .eq && odd)
  | 1 => false
  | 2 => !neg && inexact
  | _ => neg && inexact

/-- m · 2^e plus a positive remainder below 2^e when `sticky`, rounded to a multiple of 2^q: the multiple and whether it is
inexact. With `sticky`, q is above e. -/
def roundAt (rm : Nat) (neg : Bool) (m : Nat) (e : Int) (sticky : Bool) (q : Int) : Nat × Bool :=
  if q ≤ e then (m * 2 ^ (e - q).toNat, sticky)
  else
    let d := (q - e).toNat
    let k := m / 2 ^ d
    let r := m % 2 ^ d
    let inexact := r != 0 || sticky
    let c : Ordering :=
      if 2 * r > 2 ^ d then .gt else if 2 * r < 2 ^ d then .lt else if sticky then .gt else .eq
    (if roundsUp rm neg (k % 2 == 1) c inexact then k + 1 else k, inexact)

/-- Exponent of the last place at precision `prec`, no lower than `qmin` when there is a floor. -/
def quantum (m : Nat) (e : Int) (prec : Nat) (qmin : Option Int) : Int :=
  let q := e + m.log2 + 1 - prec
  match qmin with
  | none => q
  | some f => if q < f then f else q

/-- Magnitudes compared exactly. -/
def cmpMag (m1 : Nat) (e1 : Int) (m2 : Nat) (e2 : Int) : Ordering :=
  let q := if e1 < e2 then e1 else e2
  compare (rescale m1 e1 q) (rescale m2 e2 q)

/-- Whether a value rounded with an unbounded exponent lies below the smallest normal (R113, UF). -/
def tiny (f : FpFmt) (rm : Nat) (neg : Bool) (m : Nat) (e : Int) (sticky : Bool) : Bool :=
  let q := quantum m e (f.m + 1) none
  let r := roundAt rm neg m e sticky q
  cmpMag r.1 q 1 f.emin == .lt

/-- RoundE of R136 on a nonzero exact value: the pattern and its flags (R52). -/
def roundFin (f : FpFmt) (rm : Nat) (neg : Bool) (m : Nat) (e : Int) (sticky : Bool) : Nat × Flags :=
  let q := quantum m e (f.m + 1) (some f.qmin)
  let r := roundAt rm neg m e sticky q
  match f.decode f.max with
  | .fin _ mm me =>
    if cmpMag r.1 q mm me == .gt then
      -- overflow: the infinity or the largest finite value, as the mode gives
      let toInf := f.inf && (rm == 0 || (rm == 2 && !neg) || (rm == 3 && neg))
      let s := if neg then 2 ^ (f.e + f.m) else 0
      (if toInf then s + (2 ^ f.e - 1) * 2 ^ f.m else s + f.max, fOF ||| fNX)
    else
      (f.encode neg r.1 q,
        (if r.2 then fNX else 0) ||| (if r.2 && tiny f rm neg m e sticky then fUF else 0))
  | _ => (0, 0)

/-- The pattern of an infinity. -/
def FpFmt.infinity (f : FpFmt) (neg : Bool) : Nat :=
  (if neg then 2 ^ (f.e + f.m) else 0) + (2 ^ f.e - 1) * 2 ^ f.m

/-- An exact zero of a sign. -/
def FpFmt.zero (f : FpFmt) (neg : Bool) : Nat := if neg then 2 ^ (f.e + f.m) else 0

/-- The exact sum of two finite values, as an integer multiple of a power of two. -/
def addExact (n1 : Bool) (m1 : Nat) (e1 : Int) (n2 : Bool) (m2 : Nat) (e2 : Int) : Int × Int :=
  let q := if e1 < e2 then e1 else e2
  let a : Int := rescale m1 e1 q
  let b : Int := rescale m2 e2 q
  ((if n1 then -a else a) + (if n2 then -b else b), q)

/-- A finite sum rounded; an exact zero takes the sign of IEEE 754 (R86, R137). -/
def roundSum (f : FpFmt) (rm : Nat) (n1 : Bool) (m1 : Nat) (e1 : Int) (n2 : Bool) (m2 : Nat) (e2 : Int) : Nat × Flags :=
  let x := addExact n1 m1 e1 n2 m2 e2
  if x.1 = 0 then
    if m1 = 0 && m2 = 0 && n1 == n2 then (f.zero n1, 0) else (f.zero (rm == 3), 0)
  else roundFin f rm (decide (x.1 < 0)) x.1.natAbs x.2 false

/-- Whether a value is a signalling NaN. -/
def Fv.sig : Fv → Bool
  | .nan s => s
  | _ => false

def Fv.isNan : Fv → Bool
  | .nan _ => true
  | _ => false

/-- NV for a signalling NaN among some values. -/
def sigFlags (l : List Fv) : Flags := if l.any Fv.sig then fNV else 0

def Fv.negate : Fv → Fv
  | .nan s => .nan s
  | .inf n => .inf !n
  | .fin n m e => .fin (!n) m e

/-- RoundE(a + b) (R86, R137). -/
def fpAdd (f : FpFmt) (rm : Nat) (a b : Fv) : Nat × Flags :=
  if a.isNan || b.isNan then (f.canon, sigFlags [a, b])
  else match a, b with
    | .inf n, .inf k => if n == k then (f.infinity n, 0) else (f.canon, fNV)
    | .inf n, _ => (f.infinity n, 0)
    | _, .inf n => (f.infinity n, 0)
    | .fin n1 m1 e1, .fin n2 m2 e2 => roundSum f rm n1 m1 e1 n2 m2 e2
    | _, _ => (f.canon, 0)

/-- The exact product of two values and the flag of 0 · ∞. -/
def mulExact (a b : Fv) : Fv × Flags :=
  match a, b with
  | .nan s, y => (.nan (s || y.sig), 0)
  | x, .nan s => (.nan (s || x.sig), 0)
  | .inf n, .inf k => (.inf (n != k), 0)
  | .inf n, .fin k m _ => if m = 0 then (.nan false, fNV) else (.inf (n != k), 0)
  | .fin k m _, .inf n => if m = 0 then (.nan false, fNV) else (.inf (n != k), 0)
  | .fin n m e, .fin k l g => (.fin (n != k) (m * l) (e + g), 0)

/-- RoundE(a · b). -/
def fpMul (f : FpFmt) (rm : Nat) (a b : Fv) : Nat × Flags :=
  match mulExact a b with
  | (.nan _, fl) => (f.canon, fl ||| sigFlags [a, b])
  | (.inf n, _) => (f.infinity n, 0)
  | (.fin n m e, _) => if m = 0 then (f.zero n, 0) else roundFin f rm n m e false

/-- RoundE(a · b + c), one rounding (R86, R137). -/
def fpFma (f : FpFmt) (rm : Nat) (a b c : Fv) : Nat × Flags :=
  let p := mulExact a b
  let r := fpAdd f rm p.1 c
  (r.1, if p.1.isNan || c.isNan then p.2 ||| sigFlags [a, b, c] else r.2)

/-- Integer square root of a number below 4^n. -/
def isqrt : Nat → Nat → Nat
  | 0, _ => 0
  | n + 1, x =>
    let r := 2 * isqrt n (x / 4)
    if (r + 1) * (r + 1) ≤ x then r + 1 else r

/-- RoundE(a / b) (R86, R137). -/
def fpDiv (f : FpFmt) (rm : Nat) (a b : Fv) : Nat × Flags :=
  if a.isNan || b.isNan then (f.canon, sigFlags [a, b])
  else match a, b with
    | .inf _, .inf _ => (f.canon, fNV)
    | .inf n, .fin k _ _ => (f.infinity (n != k), 0)
    | .fin n _ _, .inf k => (f.zero (n != k), 0)
    | .fin n m e, .fin k l g =>
      if l = 0 then (if m = 0 then (f.canon, fNV) else (f.infinity (n != k), fDZ))
      else if m = 0 then (f.zero (n != k), 0)
      else
        let sh := f.m + 4 + l.log2
        let x := m * 2 ^ sh
        roundFin f rm (n != k) (x / l) (e - g - sh) (x % l != 0)
    | _, _ => (f.canon, 0)

/-- RoundE(√a) (R86, R137). -/
def fpSqrt (f : FpFmt) (rm : Nat) (a : Fv) : Nat × Flags :=
  match a with
  | .nan s => (f.canon, if s then fNV else 0)
  | .inf n => if n then (f.canon, fNV) else (f.infinity false, 0)
  | .fin n m e =>
    if m = 0 then (f.zero n, 0)
    else if n then (f.canon, fNV)
    else
      let odd := e % 2 == 1
      let x := (if odd then 2 * m else m) * 4 ^ (f.m + 4)
      let r := isqrt (x.log2 / 2 + 1) x
      roundFin f rm false r ((if odd then e - 1 else e) / 2 - (f.m + 4 : Nat)) (r * r != x)

/-- RoundE(1/√a) (R137). -/
def fpRsqrt (f : FpFmt) (rm : Nat) (a : Fv) : Nat × Flags :=
  match a with
  | .nan s => (f.canon, if s then fNV else 0)
  | .inf n => if n then (f.canon, fNV) else (f.zero false, 0)
  | .fin n m e =>
    if m = 0 then (f.infinity n, fDZ)
    else if n then (f.canon, fNV)
    else
      let odd := e % 2 == 1
      let k := if odd then 2 * m else m
      let sh := f.m + 4 + k.log2
      let x := 4 ^ sh / k
      let r := isqrt (sh + 1) x
      roundFin f rm false r (-((if odd then e - 1 else e) / 2) - sh) (r * r * k != 4 ^ sh)

/-- Order of two values that are no NaN, with -0 = +0. -/
def fpCmp (a b : Fv) : Ordering :=
  match a, b with
  | .inf n, .inf k => if n == k then .eq else if n then .lt else .gt
  | .inf n, _ => if n then .lt else .gt
  | _, .inf n => if n then .gt else .lt
  | .fin n m e, .fin k l g => compare (addExact n m e (!k) l g).1 0
  | _, _ => .eq

/-- Whether a number counts as negative when zeros of either sign are ordered -0 < +0. -/
def Fv.neg : Fv → Bool
  | .nan _ => false
  | .inf n => n
  | .fin n _ _ => n

/-- minimumNumber (`lo`) or maximumNumber on patterns (R86, R137). -/
def fpMinMax (f : FpFmt) (lo : Bool) (x y : Nat) : Nat × Flags :=
  let a := f.decode x
  let b := f.decode y
  let fl := sigFlags [a, b]
  if a.isNan && b.isNan then (f.canon, fl)
  else if a.isNan then (y, fl)
  else if b.isNan then (x, fl)
  else
    let less := match fpCmp a b with
      | .lt => true
      | .gt => false
      | .eq => a.neg && !b.neg
    (if less == lo then x else y, 0)

/-- Compares: equal, less, less or equal, unordered (R86, R138). -/
def fpEq (a b : Fv) : Bool × Flags :=
  (!a.isNan && !b.isNan && fpCmp a b == .eq, sigFlags [a, b])

def fpLt (a b : Fv) : Bool × Flags :=
  if a.isNan || b.isNan then (false, fNV) else (fpCmp a b == .lt, 0)

def fpLe (a b : Fv) : Bool × Flags :=
  if a.isNan || b.isNan then (false, fNV) else (fpCmp a b != .gt, 0)

def fpUn (a b : Fv) : Bool × Flags := (a.isNan || b.isNan, sigFlags [a, b])

/-- An integer as an exact value. -/
def Fv.ofInt (x : Int) : Fv := .fin (decide (x < 0)) x.natAbs 0

/-- RoundE of an integer; zero is +0 (R86, R139). -/
def fpOfInt (f : FpFmt) (rm : Nat) (x : Int) : Nat × Flags :=
  if x = 0 then (0, 0) else roundFin f rm (decide (x < 0)) x.natAbs 0 false

/-- A finite value rounded to an integer, and whether it is inexact. -/
def roundInt (rm : Nat) (neg : Bool) (m : Nat) (e : Int) : Int × Bool :=
  let r := roundAt rm neg m e false 0
  (if neg then -(r.1 : Int) else r.1, r.2)

/-- A value clamped to [lo, hi] after rounding to an integer, with NV outside and NX inside (R86, R116, R139). -/
def fpToInt (rm : Nat) (lo hi : Int) (a : Fv) : Int × Flags :=
  match a with
  | .nan _ => (0, fNV)
  | .inf n => (if n then lo else hi, fNV)
  | .fin n m e =>
    let r := roundInt rm n m e
    if r.1 < lo then (lo, fNV) else if hi < r.1 then (hi, fNV) else (r.1, if r.2 then fNX else 0)

/-! ## Format codes (R108) -/

def fmtRAW : Nat := 0
def fmtFP32 : Nat := 1
def fmtBF16 : Nat := 2
def fmtFP16 : Nat := 3
def fmtE4M3 : Nat := 4
def fmtE5M2 : Nat := 5
def fmtMXFP4 : Nat := 6
def fmtINT8 : Nat := 7
def fmtINT16 : Nat := 8
def fmtINT32 : Nat := 9
def fmtRNS3 : Nat := 10

/-- The floating-point format of a code. -/
def fpOfFmt (k : Nat) : Option FpFmt :=
  match k with
  | 1 => some fp32
  | 2 => some bf16
  | 3 => some fp16
  | 4 => some e4m3
  | 5 => some e5m2
  | _ => none

/-- Bits per element (R108). -/
def fmtBits (k : Nat) : Nat :=
  match k with
  | 1 => 32
  | 2 => 16
  | 3 => 16
  | 4 => 8
  | 5 => 8
  | 6 => 4
  | 7 => 8
  | 8 => 16
  | 9 => 32
  | 10 => 32
  | _ => 8

/-- The code is reserved (R108). -/
def fmtReserved (k : Nat) : Bool := decide (11 ≤ k)

/-- An integer format (R103). -/
def fmtIsInt (k : Nat) : Bool := k == 7 || k == 8 || k == 9

/-- An exact value as a binary32 pattern, a NaN as the canonical one (R114). -/
def toFp32 (a : Fv) : Nat :=
  match a with
  | .nan _ => 0x7FC00000
  | .inf n => fp32.infinity n
  | .fin n m e => if m = 0 then fp32.zero n else (roundFin fp32 0 n m e false).1

/-- The value of an E2M1 code (R100). -/
def e2m1 (x : Nat) : Fv :=
  let neg := bit x 3
  match x % 8 with
  | 0 => .fin neg 0 0
  | 1 => .fin neg 1 (-1)
  | 2 => .fin neg 1 0
  | 3 => .fin neg 3 (-1)
  | 4 => .fin neg 2 0
  | 5 => .fin neg 3 0
  | 6 => .fin neg 4 0
  | _ => .fin neg 6 0

/-- The value of an MXFP4 element under its scale byte (R100). -/
def mxValue (code scale : Nat) : Fv :=
  if scale = 0xFF then .nan false
  else match e2m1 code with
    | .fin n m e => .fin n m (e + scale - 127)
    | x => x

/-- The value of an element of a floating-point format; `scale` is used by MXFP4 only. -/
def elemValue (fmt x scale : Nat) : Fv :=
  match fpOfFmt fmt with
  | some f => f.decode x
  | none => mxValue x scale

/-- Decode_f to a 32-bit lane (R114), with the overflow of R102. -/
def decodeElem (fmt x scale : Nat) : Nat × Flags :=
  if fmtIsInt fmt then (narrow (signed x (fmtBits fmt)) 32, 0)
  else if fmt == fmtBF16 || fmt == fmtFP16 || fmt == fmtE4M3 || fmt == fmtE5M2 then (toFp32 (elemValue fmt x 0), 0)
  else if fmt == fmtMXFP4 then
    match mxValue x scale with
    | .fin n m e =>
      if m ≠ 0 ∧ cmpMag m e 1 128 != .lt then (fp32.infinity n, fOF ||| fNX)
      else (toFp32 (.fin n m e), 0)
    | y => (toFp32 y, 0)
  else (x % 2 ^ 32, 0)

/-! ## Narrowing (R111, R115 to R117) -/

/-- Fields of a parameter record (R110). -/
def recFCLAMP (r : BitVec 512) : Nat := bits r.toNat 0 32
def recICLAMP (r : BitVec 512) : Nat := bits r.toNat 32 32
def recSCALE (r : BitVec 512) : Nat := bits r.toNat 64 32
def recERM (r : BitVec 512) : Nat := bits r.toNat 96 2
def recSPBASE (r : BitVec 512) : Nat := bits r.toNat 128 48
def recEBASE (r : BitVec 512) : Nat := bits r.toNat 192 48

/-- The largest finite value of a floating-point target (R111). -/
def maxOf (fmt : Nat) : Nat × Int :=
  match fpOfFmt fmt with
  | some f => match f.decode f.max with
    | .fin _ m e => (m, e)
    | _ => (0, 0)
  | none => (6, 127)

/-- The bound B of R111 as an exact magnitude. -/
def boundOf (fmt : Nat) (r : BitVec 512) : Nat × Int :=
  let mx := maxOf fmt
  match fp32.decode (recFCLAMP r % 2 ^ 31) with
  | .fin _ m e =>
    if m = 0 then mx
    else if cmpMag m e mx.1 mx.2 != .lt then mx
    else match fpOfFmt fmt with
      | some f => let q := quantum m e (f.m + 1) (some f.qmin); ((roundAt 1 false m e false q).1, q)
      | none => let q := quantum m e 2 (some (-128)); ((roundAt 1 false m e false q).1, q)
  | _ => mx

/-- EncodeFP of R115: the pattern in the target and its flags. -/
def encodeFP (fmt : Nat) (r : BitVec 512) (rm : Nat) (x : Fv) : Nat × Flags :=
  match fpOfFmt fmt with
  | none => (0, 0)
  | some f =>
    let b := boundOf fmt r
    match x with
    | .nan s => (f.canon, if s then fNV else 0)
    | .inf n => if f.inf then (f.infinity n, 0) else (f.encode n b.1 b.2, fOF ||| fNX)
    | .fin n m e =>
      if m = 0 then (f.zero n, 0)
      else
        let q := quantum m e (f.m + 1) (some f.qmin)
        let y := roundAt rm n m e false q
        if cmpMag y.1 q b.1 b.2 == .gt then (f.encode n b.1 b.2, fOF ||| fNX)
        else (f.encode n y.1 q, (if y.2 then fNX else 0) ||| (if y.2 && tiny f rm n m e false then fUF else 0))

/-- Lo and Hi of an integer target of `n` bits (R111). -/
def intBounds (n : Nat) (r : BitVec 512) : Int × Int :=
  let mn : Int := -(2 ^ (n - 1) : Nat)
  let mx : Int := (2 ^ (n - 1) : Nat) - 1
  let c : Int := recICLAMP r
  if recICLAMP r = 0 then (mn, mx) else (if -c < mn then mn else -c, if mx < c then mx else c)

/-- EncodeInt of R116 from a floating-point value. -/
def encodeIntF (n : Nat) (r : BitVec 512) (rm : Nat) (x : Fv) : Nat × Flags :=
  let b := intBounds n r
  match x with
  | .nan _ => (0, fNV)
  | _ => let y := fpToInt rm b.1 b.2 x; (narrow y.1 n, y.2)

/-- EncodeInt of R116 from an integer source: clamped, no flag. -/
def encodeIntI (n : Nat) (r : BitVec 512) (x : Int) : Nat :=
  let b := intBounds n r
  narrow (if x < b.1 then b.1 else if b.2 < x then b.2 else x) n

/-- The E2M1 code of a multiple of 1/2 of a magnitude at most 6. -/
def e2m1Code (halves : Nat) : Nat :=
  match halves with
  | 0 => 0
  | 1 => 1
  | 2 => 2
  | 3 => 3
  | 4 => 4
  | 6 => 5
  | 8 => 6
  | _ => 7

/-- One element of EncodeMX: its code and whether it is inexact. -/
def mxElem (rm : Nat) (e : Int) (x : Fv) : Nat × Bool :=
  match x with
  | .fin n m k =>
    let s := if n then 8 else 0
    if m = 0 then (s, false)
    else
      let q := quantum m (k - e) 2 (some (-1))
      let y := roundAt rm n m (k - e) false q
      if cmpMag y.1 q 6 0 == .gt then (s + 7, true) else (s + e2m1Code (rescale y.1 q (-1)), y.2)
  | _ => (0, false)

/-- One value clamped to the bound of R117, and whether it changed. -/
def mxClamp (b : Nat × Int) (x : Fv) : Fv × Bool :=
  match x with
  | .inf n => (.fin n b.1 b.2, true)
  | .fin n m e => if cmpMag m e b.1 b.2 == .gt then (.fin n b.1 b.2, true) else (x, false)
  | y => (y, false)

/-- floor(log2 a) of the largest magnitude, if one is nonzero. -/
def mxTop : List Fv → Option Int
  | [] => none
  | .fin _ m e :: r =>
    let t := mxTop r
    if m = 0 then t
    else match t with
      | none => some (e + m.log2)
      | some k => some (if k < e + m.log2 then e + m.log2 else k)
  | _ :: r => mxTop r

/-- EncodeMX of R117: the element codes, the scale byte and the flags. -/
def encodeMX (r : BitVec 512) (rm : Nat) (xs : List Fv) : List Nat × Nat × Flags :=
  if xs.any Fv.isNan then (xs.map (fun _ => 0), 0xFF, sigFlags xs)
  else
    let b := boundOf fmtMXFP4 r
    let cl := xs.map (mxClamp b)
    let fl : Flags := if cl.any (·.2) then fOF ||| fNX else 0
    let ys := cl.map (·.1)
    match mxTop ys with
    | none => (ys.map (fun y => if y.neg then 8 else 0), 0x7F, fl)
    | some t =>
      let e : Int := if t - 2 < -127 then -127 else if 127 < t - 2 then 127 else t - 2
      let zs := ys.map (mxElem rm e)
      (zs.map (·.1), (e + 127).toNat, fl ||| (if zs.any (·.2) then fNX else 0))

/-! ## Residues (R104 to R106) -/

/-- The canonical invalid container (R104). -/
def rnsInvalid : Nat := 0xFF000000

/-- R104. -/
def rnsValid (x : Nat) : Bool := bits x 24 8 == 0 && decide (bits x 8 8 < 255) && decide (bits x 16 8 < 253)

/-- The container of an integer (R104, R105). -/
def rnsOf (x : Int) : Nat :=
  if -8257920 ≤ x ∧ x ≤ 8257919 then
    (x % 256).toNat + (x % 255).toNat * 2 ^ 8 + (x % 253).toNat * 2 ^ 16
  else rnsInvalid

/-- Crt of R106 as an INT32. -/
def rnsCrt (x : Nat) : Int :=
  if rnsValid x then
    let r := (bits x 0 8 * 11032065 + bits x 8 8 * 8225536 + bits x 16 8 * 13774080) % 16515840
    if 8257920 ≤ r then (r : Int) - 16515840 else r
  else -2147483648

/-- A container from its three channels. -/
def rnsPack (a b c : Nat) : Nat := a % 256 + b % 255 * 2 ^ 8 + c % 253 * 2 ^ 16

/-- The channels of a container. -/
def rnsCh (x : Nat) : Nat × Nat × Nat := (bits x 0 8, bits x 8 8, bits x 16 8)

/-- R141: channel-wise sum. -/
def rnsAdd (x y : Nat) : Nat :=
  if rnsValid x && rnsValid y then
    let a := rnsCh x; let b := rnsCh y
    rnsPack (a.1 + b.1) (a.2.1 + b.2.1) (a.2.2 + b.2.2)
  else rnsInvalid

/-- R141: channel-wise product. -/
def rnsMul (x y : Nat) : Nat :=
  if rnsValid x && rnsValid y then
    let a := rnsCh x; let b := rnsCh y
    rnsPack (a.1 * b.1) (a.2.1 * b.2.1) (a.2.2 * b.2.2)
  else rnsInvalid

end Sys2Proof.Machine
end

