-- ==== Sys2Proof/Machine/Flags.lean ====
section
/-! DEFINITION. The sticky flags: R26 (FCSR, RAFLAGS, TSR), R76, R77 and R113. -/

namespace Sys2Proof.Machine

/-- FCSR.RM (R26, R112). -/
def Ctx.rm (c : Ctx) : Nat := bits c.fcsr.toNat 0 2

/-- Flags ORed into FCSR [8:4] (R76, R113). -/
def Ctx.orFlags (c : Ctx) (f : Flags) : Ctx := 
  { c with fcsr := c.fcsr ||| (f.setWidth 64 <<< 4), newFlags := c.newFlags ||| f }

/-- TSR.POISON_SEEN set when a poisoned value enters a register (R75, R125). -/
def Ctx.seePoison (c : Ctx) (p : Bool) : Ctx := 
  { c with poisonSeen := c.poisonSeen || p, newPoison := c.newPoison || p }

/-- The OR of some flags. -/
def orAll (l : List Flags) : Flags := l.foldl (· ||| ·) 0

end Sys2Proof.Machine
end

