-- ==== Sys2Proof/Machine/Operands.lean ====
section
/-! DEFINITION. What each word reads and writes, and the checks that its fields, its bundle and the latches allow or refuse
before any word executes: R22, R34, R37 to R48, R53 to R63 and R405. -/

namespace Sys2Proof.Machine

/-- A source operand in the register file of R39, with its 6-bit field. -/
inductive Opd where
  | no
  | s (f : BitVec 6)
  | v (f : BitVec 6)
  | p (f : BitVec 6)
  deriving DecidableEq, Repr

/-- A destination in its register file (R37, R39), pairs by their even half (R21). -/
inductive Dst where
  | no
  | s (d : BitVec 5)
  | v (d : BitVec 5)
  | p (d : BitVec 5)
  | sPair (d : BitVec 5)
  | vPair (d : BitVec 5)
  deriving DecidableEq, Repr

/-- A destination as the duplicate check of R22 names it. -/
inductive DstName where
  | s (d : Nat)
  | v (d : Nat)
  | p (d : Nat)
  | csr (sup : Bool) (x : Nat)
  deriving DecidableEq, Repr

/-- The fields of a word as the checks of R48 see them. -/
structure View where
  /-- class [30:28] (R32); 7 for a device step -/
  cls : Nat
  /-- operands k = 0, 1 and 2 of R338 -/
  a : Opd := .no
  b : Opd := .no
  c : Opd := .no
  d : Dst := .no
  /-- the destination register is written -/
  w : Bool := false
  /-- W = 0 raises ILLEGAL_OPERAND (R37, R57, R58, R127) -/
  needW : Bool := false
  /-- width and value of the immediate-bearing field (R47) -/
  imm : Option (Nat × Nat) := none
  /-- the extended immediate is below this number (R405) -/
  immEnd : Nat := 0
  /-- the extended immediate is a semaphore index (R177) -/
  sem : Bool := false
  priv : Bool := false
  /-- a CSR index, in the supervisor bank or not (R26, R28) -/
  csr : Option (Bool × BitVec 8) := none
  csrW : Bool := false
  /-- destinations that no field names (R76) -/
  names : List DstName := []
  /-- lane-masked by a guard (R45) -/
  lane : Bool := false
  /-- the index names a vector-valued latch (R58) -/
  idxLatch : Bool := false
  deriving DecidableEq, Repr

/-- A 5-bit register field as a source field (R37). -/
def rfield (d : BitVec 5) : BitVec 6 := d.setWidth 6

/-- The fields of a word. -/
def viewOf : Instr → View
  | .nop | .halt | .cret => { cls := 0 }
  | .br f | .trap f | .brk f => { cls := 0, imm := some (22, f.i.toNat) }
  | .brl f => { cls := 0, imm := some (22, f.i.toNat), names := [.s 31] }
  | .jr f => { cls := 0, a := .s f.a }
  | .jrl f => { cls := 0, a := .s f.a, d := .s f.d, w := true }
  | .bz f | .bnz f | .bltz f | .bgez f => { cls := 0, a := .s f.a, imm := some (16, f.i.toNat) }
  | .bp f | .bnp f | .bany f | .bnone f => { cls := 0, a := .p (f.p.setWidth 6), imm := some (16, f.i.toNat) }
  | .bloop f => { cls := 0, imm := some (22, f.i.toNat), names := [.csr false 1, .csr false 2] }
  | .lcset f => { cls := 0, a := .s f.a, imm := some (16, f.i.toNat), names := [.csr false 1] }
  | .xret => { cls := 0, priv := true }
  | .waitev _ => { cls := 0 }
  | .add f | .sub f | .and f | .or f | .xor f | .andn f | .sll f | .srl f | .sra f | .mul f | .mulh f | .mulhu f
  | .div f | .divu f | .rem f | .remu f | .min f | .max f | .minu f | .maxu f | .slt f | .sltu f | .seq f | .sne f
  | .addw f | .subw f | .mulw f | .bfx f | .fadd f | .fsub f | .fmul f | .fmin f | .fmax f | .feq f | .flt f
  | .fle f | .fdiv f => { cls := 1, a := .s f.a, b := .s f.b, d := .s f.d, w := f.w }
  | .cmovz f | .cmovnz f | .bfi f | .fma f =>
    { cls := 1, a := .s f.a, b := .s f.b, c := .s (rfield f.d), d := .s f.d, w := f.w, needW := true }
  | .clz f | .ctz f | .popc f | .sextb f | .sexth f | .sextw f | .zextw f | .bswap f | .fsqrt f | .fcvtif f
  | .fcvtfi f => { cls := 1, a := .s f.a, d := .s f.d, w := f.w }
  | .addi f | .andi f | .ori f | .xori f | .slti f | .sltiu f | .muli f =>
    { cls := 1, a := .s f.a, d := .s f.d, w := f.w, imm := some (8, f.i.toNat) }
  | .slli f | .srli f | .srai f =>
    { cls := 1, a := .s f.a, d := .s f.d, w := f.w, imm := some (8, f.i.toNat), immEnd := 64 }
  | .li f | .lui f => { cls := 1, d := .s f.d, w := f.w, imm := some (14, f.i.toNat) }
  | .csrr f => { cls := 1, d := .s f.d, w := f.w, csr := some (false, f.x) }
  | .csrw f | .csrs f | .csrc f =>
    { cls := 1, a := .s f.a, d := .s f.d, w := f.w, csr := some (false, f.x), csrW := true }
  | .scsrr f => { cls := 1, d := .s f.d, w := f.w, priv := true, csr := some (true, f.x) }
  | .scsrw f | .scsrs f | .scsrc f =>
    { cls := 1, a := .s f.a, d := .s f.d, w := f.w, priv := true, csr := some (true, f.x), csrW := true }
  | .ldb f | .ldbu f | .ldh f | .ldhu f | .ldw f | .ldwu f | .ldd f =>
    { cls := 2, a := .s f.b, d := .s f.d, w := f.w, imm := some (6, f.f.toNat) }
  | .stb f | .sth f | .stw f | .std f =>
    { cls := 2, a := .s f.b, c := .s (rfield f.r), imm := some (6, f.f.toNat) }
  | .ldv f | .ldvf f | .ldvb f =>
    { cls := 2, a := .s f.b, d := .v f.d, w := f.w, imm := some (6, f.f.toNat), lane := true }
  | .stv f | .stvf f => { cls := 2, a := .s f.b, c := .v (rfield f.r), imm := some (6, f.f.toNat), lane := true }
  | .ldvg f => { cls := 2, a := .s f.b, b := .v f.x, d := .v f.d, w := f.w, lane := true }
  | .stvs f => { cls := 2, a := .s f.b, b := .v f.x, c := .v (rfield f.r), lane := true, idxLatch := true }
  | .ldp f => { cls := 2, a := .s f.b, d := .s f.d, w := f.w, imm := some (4, f.f.toNat) }
  | .aadd f | .amin f | .amax f | .aminu f | .amaxu f | .aand f | .aor f | .axor f | .aswp f | .afadd f | .barv f
  | .bwait f => { cls := 2, a := .s f.b, b := .s f.x, d := .s f.d, w := f.w }
  | .acas f => { cls := 2, a := .s f.b, b := .s f.x, c := .s (rfield f.d), d := .s f.d, w := f.w, needW := true }
  | .binit f => { cls := 2, a := .s f.b, b := .s f.x }
  | .fence _ => { cls := 2 }
  | .xfence _ => { cls := 2 }
  | .vadd f | .vsub f | .vmul f | .vmulh f | .vmulhu f | .vand f | .vor f | .vxor f | .vshl f | .vshr f | .vsra f
  | .vmin f | .vmax f | .vminu f | .vmaxu f | .vadds f | .vsubs f | .vperm f | .vfadd f | .vfsub f | .vfmul f
  | .vfmin f | .vfmax f | .vfdiv f => { cls := 3, a := .v f.a, b := .v f.b, d := .v f.d, w := f.w, lane := true }
  | .vabs f | .vneg f | .vmov f | .vfabs f | .vfneg f | .vfsqrt f | .vfrsq f | .vcvtif f | .vcvtfi f | .vpack8 f
  | .vunpk8 f | .vpack16 f | .vunpk16 f => { cls := 3, a := .v f.a, d := .v f.d, w := f.w, lane := true }
  | .vmac f | .vdot4 f | .vfma f | .vfms f =>
    { cls := 3, a := .v f.a, b := .v f.b, c := .v (rfield f.d), d := .v f.d, w := f.w, needW := true, lane := true }
  | .vmulw f | .vaddw f =>
    { cls := 3, a := .v f.a, b := .v f.b, d := .vPair f.d, w := f.w, needW := true, lane := true }
  | .vshli f | .vshri f | .vsrai f =>
    { cls := 3, a := .v f.a, d := .v f.d, w := f.w, imm := some (6, f.i.toNat), immEnd := 2 ^ (f.e.toNat + 3), lane := true }
  | .vaddi f => { cls := 3, a := .v f.a, d := .v f.d, w := f.w, imm := some (6, f.i.toNat), lane := true }
  | .vceq f | .vcne f | .vclt f | .vcle f | .vcltu f | .vcleu f | .vfceq f | .vfclt f | .vfcle f | .vfcun f =>
    { cls := 3, a := .v f.a, b := .v f.b, d := .p f.d, w := f.w, needW := true, lane := true }
  | .pand f | .por f | .pxor f | .pandn f =>
    { cls := 3, a := .p f.a, b := .p f.b, d := .p f.d, w := f.w, needW := true, lane := true }
  | .pnot f | .pany f => { cls := 3, a := .p f.a, d := .p f.d, w := f.w, needW := true, lane := true }
  | .ppopc f | .pfirst f => { cls := 3, a := .p f.a, d := .s f.d, w := f.w }
  | .vbcast f => { cls := 3, a := .s f.a, d := .v f.d, w := f.w, lane := true }
  | .vslup f | .vsldn f => { cls := 3, a := .v f.a, b := .s f.b, d := .v f.d, w := f.w, lane := true }
  | .vtos f => { cls := 3, a := .v f.a, b := .s f.b, d := .s f.d, w := f.w }
  | .vins f => { cls := 3, a := .s f.a, b := .s f.b, d := .v f.d, w := f.w, lane := true }
  | .vradd f | .vrmax f | .vrmin f | .vrfadd f | .vrfmax f => { cls := 3, a := .v f.a, d := .s f.d, w := f.w }
  | .vrnse f | .vrnsd f => { cls := 3, a := .v f.a, d := .v f.d, w := f.w, lane := true }
  | .vrnsadd f | .vrnsmul f => { cls := 3, a := .v f.a, b := .v f.b, d := .v f.d, w := f.w, lane := true }
  | .vrnsmac f =>
    { cls := 3, a := .v f.a, b := .v f.b, c := .v (rfield f.d), d := .v f.d, w := f.w, needW := true, lane := true }
  | .mldtScalar f => { cls := 4, a := .s f.a, imm := some (5, 0), immEnd := 2 }
  | .mldtVector f => { cls := 4, a := .v f.a, imm := some (5, 1), immEnd := 2 }
  | .mset f => { cls := 4, a := .s f.a, imm := some (10, f.n.toNat), immEnd := 32 }
  | .mgo f | .mstat f | .mabort f => { cls := 4, d := .s f.d, w := true }
  | .mwait f | .mwb f => { cls := 4, a := .s f.a, d := .s f.d, w := true }
  | .mclr f => { cls := 4, a := .s f.a, b := .s f.b, imm := some (5, f.z.toNat), immEnd := 2 }
  | .msplit f => { cls := 4, a := .s f.a }
  | .cpy f | .cwait f | .cstat f | .ccan f =>
    { cls := 5, a := .s f.a, d := .s f.d, w := true, imm := some (5, f.e.toNat), immEnd := 2 }
  | .lsend f | .lrecv f | .lradd f =>
    { cls := 5, a := .s f.a, d := .s f.d, w := true, imm := some (5, f.p.toNat), immEnd := 12 }
  | .lsched f | .lstat f | .hread f | .hopen f | .launch f | .jwait f =>
    { cls := 5, a := .s f.a, d := .s f.d, w := true }
  | .sig f => { cls := 5, a := .s f.a, b := .s f.b, imm := some (5, f.i.toNat), sem := true }
  | .swait f | .sset f => { cls := 5, a := .s f.a, imm := some (5, f.i.toNat), sem := true }
  | .stry f => { cls := 5, a := .s f.a, d := .s f.d, w := true, imm := some (5, f.i.toNat), sem := true }
  | .hpush f => { cls := 5, a := .s f.a, b := .s f.b, d := .s f.d, w := true }
  | .hpop f | .rget f => { cls := 5, d := .sPair f.d, w := true }
  | .hupd f => { cls := 5, a := .s f.a, b := .s f.b, imm := some (5, f.i.toNat), immEnd := 4 }
  | .hsum f | .hclose f => { cls := 5, d := .s f.d, w := true }
  | .hdone f | .expectAdd f | .suspend f => { cls := 5, a := .s f.a }
  | .post f | .handoff f => { cls := 5, a := .s f.a, b := .s f.b }
  | .tdone => { cls := 5 }
  | .tlbinv f => { cls := 5, a := .s f.a, imm := some (5, f.e.toNat), immEnd := 2, priv := true }
  | .pblk _ => { cls := 6 }
  | .limm _ => { cls := 6 }
  | .pmap _ => { cls := 6 }
  | .transitDetection .. | .engineRecomputation .. | .halfRateEnd .. | .asyncTrapDelivery ..
  | .completionHandlerEntry .. | .swaitWake .. | .cwaitWake .. | .mwaitWake .. | .jwaitWake .. | .waitevWake ..
  | .bwaitRead .. | .bwaitLimit .. | .heldEndingWordRelease .. | .instructionCacheFill .. | .parameterBlockFill ..
  | .matrixCommandStart .. | .matrixStep .. | .matrixStallResume .. | .mwbRow .. | .matrixClearRun ..
  | .matrixCompletion .. | .copyBegin .. | .copyUnitRetire .. | .copyStallResume .. | .copyCompletion .. | .walk ..
  | .tlbinvComplete .. | .closingPoint .. | .readLineArrival .. | .writePerformed .. | .retry ..
  | .thermalStateChange .. | .ownerEntryEffect .. | .sctlQuiesce .. | .quiesced .. | .sctlRatio ..
  | .laneRetrainComplete .. | .plateFill .. | .plateWrite .. | .plateCommit .. | .resealCommit ..
  | .keyRotationGroup .. | .patrolScrub .. | .meshArrival .. | .sigDelivery .. | .portEWriteApply ..
  | .gangDispatch .. | .tileClaim .. | .jobCompletion .. | .continuationResume .. | .preemptReq .. | .preemption ..
  | .drainLimit .. | .proofRecordWrite .. | .resumption .. | .windowCrossing .. | .monitorWindowEnd ..
  | .windowRestart .. | .vtgtRaise .. | .vtgtLower .. | .operatingPointChange .. | .almanacWrite ..
  | .ldoTrimUpdate .. | .railStep .. | .railHoldExpiry .. | .vminSample .. | .vminRearm ..
  | .thermalObserverUpdate .. | .injctlEn .. | .flitReceive .. | .nak .. | .retrainComplete .. | .portHold ..
  | .clearFlit .. | .dataFlit .. | .lastFlit .. | .doneFlit .. | .controlFlit .. | .linkCompletion ..
  | .scheduleStep .. | .memberDone .. | .memberCommit .. | .memberFail .. | .scheduleRestart ..
  | .coordinatorQuery .. | .memberTimeout .. | .twinWindowClose .. | .twinDigest .. | .interimDigest ..
  | .twinLost .. | .launchWindowWrite .. | .functionLevelReset .. | .partCreate .. | .partDestroy ..
  | .tileAssign .. | .vfBind .. | .suptab .. | .spanGrant .. | .keyRotate .. | .grantMask .. | .railVote ..
  | .preemptCmd .. | .stackCtl .. | .almanacCmd .. | .twinSetup .. | .injectCmd .. | .powerState .. | .handover ..
  | .accept .. | .rootSet .. | .ownerClaim .. | .drvfeat .. | .coldStart .. | .warmStart .. | .registerWrite ..
  | .resultDelivery .. | .linkTraining .. | .debugPortRequest .. | .msiXCoalescingTimeout .. => { cls := 7 }
  | .emergencyGating | .gatingEnd | .handoverExpiry | .powerLoss => { cls := 7 }

/-! ## Names of registers (R15) -/

/-- R15. -/
def physV (vrb : BitVec 4) (i : Nat) : Nat := if i < 16 then i else 16 + (i - 16 + vrb.toNat) % 16

/-- R15. -/
def physP (prb : BitVec 2) (i : Nat) : Nat := if i < 4 then i else 4 + (i - 4 + prb.toNat) % 4

/-! ## Immediates (R47) -/

/-- The payload of the bundle's LIMM. -/
def limmOf : List Instr → Option Nat
  | [] => none
  | .limm f :: _ => some f.p.toNat
  | _ :: r => limmOf r

/-- Width and value of a field of `n` bits as LIMM extends it (R47). -/
def extend (limm : Option Nat) (n f : Nat) : Nat × Nat :=
  match limm with
  | none => (n, f)
  | some p => (n + 24, p * 2 ^ n + f)

/-- Imm(f, unsigned) of a word in its bundle (R52). -/
def immU (ws : List Instr) (i : Instr) : Nat :=
  match (viewOf i).imm with
  | none => 0
  | some (n, f) => (extend (limmOf ws) n f).2

/-- Imm(f, signed) of a word in its bundle (R52). -/
def immS (ws : List Instr) (i : Instr) : Int :=
  match (viewOf i).imm with
  | none => 0
  | some (n, f) => let e := extend (limmOf ws) n f; signed e.2 e.1

/-! ## Step 4 of R48: the bundle -/

/-- The destinations of a word for the duplicate check (R22, R76). -/
def namesOf (v : View) : List DstName :=
  (match v.d with
    | .no => []
    | .s d => if v.w then [.s d.toNat] else []
    | .v d => if v.w then [.v d.toNat] else []
    | .p d => if v.w then [.p d.toNat] else []
    | .sPair d => [.s d.toNat, .s (d.toNat + 1)]
    | .vPair d => [.v d.toNat, .v (d.toNat + 1)]) ++
  (match v.csr with
    | some (sup, x) => if v.csrW then [.csr sup x.toNat] else []
    | none => []) ++ v.names

/-- The number of words of a class. -/
def countCls (k : Nat) (ws : List Instr) : Nat := (ws.filter fun i => (viewOf i).cls == k).length

/-- Whether two words are X words of one kind. -/
def sameX : Instr → Instr → Bool
  | .pblk _, .pblk _ => true
  | .limm _, .limm _ => true
  | .pmap _, .pmap _ => true
  | _, _ => false

/-- XRET (R340). -/
def isXret : Instr → Bool
  | .xret => true
  | _ => false

/-- Whether word `i`, after the words `b`, breaks the composition (R34, R340) or repeats a destination (R22). -/
def breaks (b : List Instr) (i : Instr) : Bool :=
  let k := (viewOf i).cls
  (k == 3 && decide (2 ≤ countCls 3 b)) || (k != 3 && k != 6 && decide (1 ≤ countCls k b)) ||
  (k == 6 && (b.any (fun x => (viewOf x).cls != 6) || b.any (sameX i))) ||
  (k != 6 && ((isXret i && b.any (fun x => (viewOf x).cls != 6)) || b.any isXret)) ||
  (namesOf (viewOf i)).any (fun n => b.any fun x => (namesOf (viewOf x)).contains n)

/-- Position of the first word that breaks the composition or repeats a destination. -/
def firstBreak : List Instr → List Instr → Option Nat
  | _, [] => none
  | b, i :: r => if breaks b i then some b.length else firstBreak (b ++ [i]) r

/-- A bundle of X words only, unless it is one PBLK (R34); the last word breaks it (DEDUCED, log 21). -/
def onlyX (ws : List Instr) : Option Nat :=
  match ws with
  | [.pblk _] => none
  | _ => if ws.all (fun i => (viewOf i).cls == 6) then some (ws.length - 1) else none

/-- Position of the first word that satisfies `q`. -/
def posOf (q : Instr → Bool) : List Instr → Nat → Option Nat
  | [], _ => none
  | i :: r, n => if q i then some n else posOf q r (n + 1)

/-- LIMM (R47). -/
def isLimm : Instr → Bool
  | .limm _ => true
  | _ => false

/-- PBLK (R44). -/
def isPblk : Instr → Bool
  | .pblk _ => true
  | _ => false

/-- R47: a LIMM stands with exactly one immediate-bearing word. -/
def limmBreak (ws : List Instr) : Option Nat :=
  match posOf isLimm ws 0 with
  | none => none
  | some p => if (ws.filter fun i => (viewOf i).imm.isSome).length = 1 then none else some p

/-- R46: a PBLK in a guarded bundle. -/
def pblkBreak (guarded : Bool) (ws : List Instr) : Option Nat :=
  if guarded then posOf isPblk ws 0 else none

/-- The physical register that a vector operand reads through a port, if it reads one (R41). -/
def portReg (vrb : BitVec 4) : Opd → Option Nat
  | .v f => if f.toNat < 32 then some (physV vrb f.toNat) else none
  | _ => none

/-- The words of a class. -/
def ofCls (k : Nat) (ws : List Instr) : List Instr := ws.filter fun i => (viewOf i).cls == k

/-- The registers read at the eight operand positions of R41: V0.a to V1.acc, L.vec and M.vec. -/
def portRegs (vrb : BitVec 4) (ws : List Instr) : List (Option Nat) :=
  let r := portReg vrb
  let va := fun (x : Option Instr) => match x with
    | none => [none, none, none]
    | some i => let v := viewOf i; [r v.a, r v.b, r v.c]
  let l := match (ofCls 2 ws).head? with
    | none => none
    | some i => let v := viewOf i; if v.idxLatch then r v.c else if (r v.b).isSome then r v.b else r v.c
  let m := match (ofCls 4 ws).head? with
    | none => none
    | some i => r (viewOf i).a
  va (ofCls 3 ws).head? ++ va (ofCls 3 ws).tail.head? ++ [l, m]

/-- The PMAP of a bundle: its position and its eight fields. -/
def pmapOf : List Instr → Nat → Option (Nat × List Nat)
  | [], _ => none
  | .pmap f :: _, n =>
    some (n, [f.a.toNat, f.b.toNat, f.c.toNat, f.d.toNat, f.e.toNat, f.f.toNat, f.g.toNat, f.h.toNat])
  | _ :: r, n => pmapOf r (n + 1)

/-- R42: a port field agrees with its operand. -/
def portOk (x : Option Nat × Nat) : Bool :=
  match x with
  | (some _, p) => decide (p < 6)
  | (none, p) => p == 6

/-- R42: no port carries two distinct physical registers. -/
def portsClash (l : List (Option Nat × Nat)) : Bool :=
  l.any fun x => l.any fun y => x.1.isSome && y.1.isSome && x.2 == y.2 && x.1 != y.1

/-- R41, R42: the position that a wrong or missing PMAP is charged to. -/
def pmapBreak (vrb : BitVec 4) (ws : List Instr) : Option Nat :=
  let regs := portRegs vrb ws
  match pmapOf ws 0 with
  | some (p, fs) => let l := regs.zip fs; if l.all portOk && !portsClash l then none else some p
  | none =>
    let lp := if (regs.getD 6 none).isSome then posOf (fun i => (viewOf i).cls == 2) ws 0 else none
    let mp := if (regs.getD 7 none).isSome then posOf (fun i => (viewOf i).cls == 4) ws 0 else none
    match lp, mp with
    | some a, some b => some (Nat.min a b)
    | some a, none => some a
    | none, b => b

/-- The lowest of some positions. -/
def lowest : List (Option Nat) → Option Nat
  | [] => none
  | none :: r => lowest r
  | some a :: r => match lowest r with
    | none => some a
    | some b => some (Nat.min a b)

/-- Step 4 of R48: the position of the lowest word that breaks a rule of the bundle. -/
def bundleBreak (c : Ctx) (ws : List Instr) : Option Nat :=
  lowest [firstBreak [] ws, onlyX ws, limmBreak ws, pblkBreak (decide (0 < c.gcount)) ws, pmapBreak c.vrb ws]

/-! ## Steps 5 and 6 of R48: one word -/

/-- The trap causes of R332. -/
def cILLEGAL_WORD : Nat := 0x01
def cILLEGAL_BUNDLE : Nat := 0x02
def cILLEGAL_OPERAND : Nat := 0x03
def cSTALE_LATCH : Nat := 0x04
def cALLOT_FAULT : Nat := 0x05
def cPRIV : Nat := 0x06
def cFETCH_FAULT : Nat := 0x08
def cFETCH_LIMIT : Nat := 0x09
def cMISALIGNED : Nat := 0x0A
def cACCESS : Nat := 0x0B
def cREGION_FAULT : Nat := 0x0C
def cPOISON : Nat := 0x0D
def cPARAM_UNBOUND : Nat := 0x0E
def cFORMAT : Nat := 0x0F
def cILLEGAL_STATE : Nat := 0x10
def cTRAP : Nat := 0x12
def cBRK : Nat := 0x13
def cHEAP_FULL : Nat := 0x16
def cQUEUE_FULL : Nat := 0x17
def cPLATE_COUNTER : Nat := 0x18

/-- R39: a source field that its register file does not have. -/
def badSrc : Opd → Bool
  | .no => false
  | .s f => decide (0x28 ≤ f.toNat)
  | .v f => decide (0x28 ≤ f.toNat)
  | .p f => decide (8 ≤ f.toNat)

/-- R21, R39: a destination field that its register file does not have, or an odd pair base. -/
def badDst : Dst → Bool
  | .no => false
  | .s _ => false
  | .v _ => false
  | .p d => decide (8 ≤ d.toNat)
  | .sPair d => d.toNat % 2 == 1
  | .vPair d => d.toNat % 2 == 1

/-- The user CSR indices of R26. -/
def userCsr (x : Nat) : Bool :=
  decide (x ≤ 0x09) || (decide (0x10 ≤ x) && decide (x ≤ 0x13)) || (decide (0x18 ≤ x) && decide (x ≤ 0x1D)) ||
  (decide (0x20 ≤ x) && decide (x ≤ 0x31))

/-- The supervisor CSR indices of R28. -/
def supCsr (x : Nat) : Bool := decide (x ≤ 0x05) || (decide (0x08 ≤ x) && decide (x ≤ 0x0E))

/-- R26, R28: an index that no table lists. -/
def badCsr : Option (Bool × BitVec 8) → Bool
  | none => false
  | some (sup, x) => if sup then !supCsr x.toNat else !userCsr x.toNat

/-- R58: the index of STVS names a vector-valued latch, code 0x22 to 0x27. -/
def badIdx (v : View) : Bool :=
  v.idxLatch && match v.b with
    | .v f => !(decide (0x22 ≤ f.toNat) && decide (f.toNat ≤ 0x27))
    | _ => false

/-- R405: an extended immediate outside its range. -/
def badImm (limm : Option Nat) (v : View) : Bool :=
  match v.imm with
  | none => false
  | some (n, f) => decide (0 < v.immEnd) && decide (v.immEnd ≤ (extend limm n f).2)

/-- R21: an operand that names v16 to v31. -/
def highSrc : Opd → Bool
  | .v f => decide (16 ≤ f.toNat) && decide (f.toNat < 32)
  | _ => false

/-- R21: a destination that names v16 to v31. -/
def highDst (w : Bool) : Dst → Bool
  | .v d => w && decide (16 ≤ d.toNat)
  | .vPair d => w && decide (15 ≤ d.toNat)
  | _ => false

/-- Step 5 of R48 on one word: ILLEGAL_OPERAND, then ALLOT_FAULT, then PRIV. -/
def wordCheck (c : Ctx) (limm : Option Nat) (i : Instr) : Option Nat :=
  let v := viewOf i
  if badSrc v.a || badSrc v.b || badSrc v.c || badDst v.d || (v.needW && !v.w) || badCsr v.csr || badIdx v || badImm limm v
  then some cILLEGAL_OPERAND
  else if !c.v32 && (highSrc v.a || highSrc v.b || highSrc v.c || highDst v.w v.d) then some cALLOT_FAULT
  else if v.sem && decide (c.sems.length ≤ (match v.imm with | some (n, f) => (extend limm n f).2 | none => 0))
  then some cALLOT_FAULT
  else if v.priv && !c.mode then some cPRIV
  else none

/-- The latch that a source field names (R39). -/
def latchNo (f : BitVec 6) : Option Nat :=
  if 0x20 ≤ f.toNat ∧ f.toNat ≤ 0x27 then some (f.toNat - 0x20) else none

/-- Step 6 of R48 on one operand: an empty latch, or a vector-valued latch read as a scalar (R18, R40). -/
def latchCheck (lat : List Latch) : Opd → Option Nat
  | .s f => match latchNo f with
    | none => none
    | some k => match lat.getD k .empty with
      | .empty => some cSTALE_LATCH
      | .vector _ => some cILLEGAL_OPERAND
      | .scalar _ => none
  | .v f => match latchNo f with
    | none => none
    | some k => match lat.getD k .empty with
      | .empty => some cSTALE_LATCH
      | _ => none
  | _ => none

/-- R58: the index of STVS is vector-valued. -/
def idxCheck (lat : List Latch) (v : View) : Option Nat :=
  match v.idxLatch, v.b with
  | true, .v f => match lat.getD ((latchNo f).getD 0) .empty with
    | .scalar _ => some cILLEGAL_OPERAND
    | _ => none
  | _, _ => none

/-- R163: the vector that MLDT takes whole is vector-valued; a scalar-valued latch is not broadcast. -/
def wholeCheck (lat : List Latch) (i : Instr) : Option Nat :=
  match i, (viewOf i).a with
  | .mldtVector _, .v f => match latchNo f with
    | none => none
    | some k => match lat.getD k .empty with
      | .scalar _ => some cILLEGAL_OPERAND
      | _ => none
  | _, _ => none

/-- Step 6 of R48 on one word. Where one operand names an empty latch and another a latch of the wrong type, the first of them in the
order a, b, c gives the cause; the spec does not say which (DESIGN CHOICE, log 93). -/
def issueCheck (lat : List Latch) (i : Instr) : Option Nat :=
  let v := viewOf i
  (latchCheck lat v.a).or ((latchCheck lat v.b).or ((latchCheck lat v.c).or ((idxCheck lat v).or (wholeCheck lat i))))

end Sys2Proof.Machine
end

