-- ==== Sys2Proof/Machine/Lanes.lean ====
section
/-! DEFINITION. Vector elements, lane masks and the poison marks of vector results: R14, R40, R45, R123 to R125. -/

namespace Sys2Proof.Machine

/-- Element `j` of width `w` bytes (R14). -/
def elem (x w j : Nat) : Nat := bits x (8 * w * j) (8 * w)

/-- The first `n` elements of width `w` bytes. -/
def elems (x w : Nat) : Nat → List Nat
  | 0 => []
  | n + 1 => x % 2 ^ (8 * w) :: elems (x / 2 ^ (8 * w)) w n

/-- The number whose elements of width `w` bytes are listed, element 0 lowest. -/
def ofElems (w : Nat) : List Nat → Nat
  | [] => 0
  | e :: r => e % 2 ^ (8 * w) + 2 ^ (8 * w) * ofElems w r

/-- `n` copies of an element (R40). -/
def replicateElem (w n x : Nat) : Nat := ofElems w (List.replicate n x)

/-- All 256 lanes. -/
def allLanes : Pred := BitVec.allOnes 256

/-- Element width in bytes that an es code gives a floating-point word (R123). -/
def fpWidth (e : BitVec 2) : Nat := if e = 0 then 4 else 2

/-- The floating-point format of an es code (R38). -/
def fpOfEs (e : BitVec 2) : FpFmt := if e = 0 then fp32 else if e = 1 then bf16 else fp16

/-- Element width in bytes of a word's vector operands, for a broadcast latch (R40, R123); 8 where the word has no element
width of its own (DEDUCED, log 22), and whatever es holds for the packing words (DEDUCED, log 86). -/
def operandWidth : Instr → Nat
  | .vadd f | .vsub f | .vmul f | .vmulh f | .vmulhu f | .vand f | .vor f | .vxor f | .vshl f | .vshr f | .vsra f
  | .vmin f | .vmax f | .vminu f | .vmaxu f | .vadds f | .vsubs f | .vmac f | .vdot4 f | .vmulw f | .vaddw f
  | .vceq f | .vcne f | .vclt f | .vcle f | .vcltu f | .vcleu f | .vslup f | .vsldn f | .vperm f | .vtos f
  | .vins f => 2 ^ f.e.toNat
  | .vabs f | .vneg f | .vmov f | .vbcast f | .vradd f | .vrmax f | .vrmin f => 2 ^ f.e.toNat
  | .vshli f | .vshri f | .vsrai f | .vaddi f => 2 ^ f.e.toNat
  | .vfadd f | .vfsub f | .vfmul f | .vfma f | .vfms f | .vfmin f | .vfmax f | .vfceq f | .vfclt f | .vfcle f
  | .vfcun f | .vfdiv f => fpWidth f.e
  | .vrfadd f | .vrfmax f | .vfabs f | .vfneg f | .vfsqrt f | .vfrsq f | .vcvtif f | .vcvtfi f => fpWidth f.e
  | .vpack8 _ | .vpack16 _ | .vrnse _ | .vrnsd _ | .vrnsadd _ | .vrnsmul _ | .vrnsmac _ | .ldvg _ | .stvs _ => 4
  | .vunpk8 _ => 1
  | .vunpk16 _ => 2
  | _ => 8

/-- Whether element `j` of width `w` bytes is active (R14). -/
def active (mask : Pred) (w j : Nat) : Bool := bit mask.toNat (j * w)

/-- One element of a vector result: its value and whether it takes poisoned data (R125). -/
structure El where
  v : Nat
  p : Bool := false
  deriving DecidableEq, Repr

/-- The elements of `old` of width `w` replaced where element j is active by those of `new`, from element `j` on; `step`
is the distance in predicate bits between governing bits. -/
def mergeEls (mask : Pred) (step w : Nat) (old : Nat) : Nat → List El → List Nat
  | _, [] => []
  | j, e :: r =>
    (if bit mask.toNat (j * step) then e.v else elem old w j) :: mergeEls mask step w old (j + 1) r

/-- The poison marks of the chunks of a merged result (R125): bit c is the mark of chunk c. -/
def mergeMarks (mask : Pred) (step w : Nat) (old : BitVec 32) : Nat → List El → BitVec 32 → BitVec 32
  | _, [], acc => acc
  | j, e :: r, acc =>
    let c := j * w / 8
    let p := if bit mask.toNat (j * step) then e.p else bit old.toNat c
    mergeMarks mask step w old (j + 1) r (if p then acc ||| BitVec.ofNat 32 (2 ^ c) else acc)

/-- A vector result from its elements of width `w`: masked-off elements keep `old` (R14, R125). -/
def mergeV (mask : Pred) (step w : Nat) (old : VVal) (new : List El) : VVal :=
  { v := BitVec.ofNat 2048 (ofElems w (mergeEls mask step w old.v.toNat 0 new)),
    p := mergeMarks mask step w old.p 0 new 0 }

/-- The chunk of a byte position is poisoned. -/
def chunkP (x : VVal) (byte : Nat) : Bool := bit x.p.toNat (byte / 8)

/-- The elements of a vector with the poison of their chunks, from element `j` on. -/
def elsOf (x : VVal) (w : Nat) : List El :=
  (elems x.v.toNat w (256 / w)).zipIdx.map fun e => { v := e.1, p := chunkP x (e.2 * w) }

/-- Any chunk poisoned. -/
def anyP (x : VVal) : Bool := x.p != 0

end Sys2Proof.Machine
end

