-- ==== Sys2Proof/Machine/Ops.lean ====
section
/-! DEFINITION. The named operations over tiles, contexts, registers, latches and sources; the proof record; taking a trap
(R335) and returning from one (R340). -/

namespace Sys2Proof.Machine

/-- The list with its element `n` changed; unchanged where there is none. -/
def updAt {α : Type} (f : α → α) : Nat → List α → List α
  | _, [] => []
  | 0, a :: r => f a :: r
  | n + 1, a :: r => a :: updAt f n r

/-! ## Tiles and contexts -/

namespace State

/-- Tile `t`. -/
def tileAt (s : State) (t : Nat) : Tile := s.tiles.getD t {}

/-- Tile `t` changed. -/
def modTile (s : State) (t : Nat) (f : Tile → Tile) : State := { s with tiles := updAt f t s.tiles }

/-- The context in a slot, if a task is resident there. -/
def ctx? (s : State) (t slot : Nat) : Option Ctx := (s.tileAt t).ctx.getD slot none

/-- The context in a slot; an empty slot reads as a fresh context. -/
def ctxAt (s : State) (t slot : Nat) : Ctx := (s.ctx? t slot).getD {}

/-- The context of a slot changed, if there is one. -/
def modCtx (s : State) (t slot : Nat) (f : Ctx → Ctx) : State :=
  s.modTile t fun x => { x with ctx := updAt (fun o => o.map f) slot x.ctx }

/-- Die `d`. -/
def dieAt (s : State) (d : Nat) : Die := s.dies.getD d {}

/-- Die `d` changed. -/
def modDie (s : State) (d : Nat) (f : Die → Die) : State := { s with dies := updAt f d s.dies }

/-- The context whose bundle is in issue. -/
def cur (s : State) : Ctx := s.ctxAt s.iss.tile s.iss.slot

/-- The context in issue changed. -/
def modCur (s : State) (f : Ctx → Ctx) : State := s.modCtx s.iss.tile s.iss.slot f

/-- The issue record changed. -/
def modIss (s : State) (f : Issue → Issue) : State := { s with iss := f s.iss }

/-- The words of the bundle in issue, of which `i` is one. -/
def words (s : State) (i : Instr) : List Instr := if s.iss.words = [] then [i] else s.iss.words

/-- A free value's number, and the counter moved on. -/
def fresh (s : State) : Nat × State := (s.freeCount, { s with freeCount := s.freeCount + 1 })

end State

/-- The scratchpad, the accumulator store and the semaphores of a tile can be reached: the tile is not fenced (R364). -/
def State.reachable (s : State) (t : Nat) : Bool := !(s.tileAt t).fenced

/-- The die of a tile: tiles are numbered die by die, 64 to a die (R1, R178). -/
def dieOf (t : Nat) : Nat := t / 64

/-! ## Sources (R22, R39, R40, R334) -/

/-- A scalar register; s0 reads zero (R13). -/
def Ctx.sreg (c : Ctx) (n : Nat) : SVal := if n = 0 then {} else c.s.getD n {}

/-- A predicate by name; p0 reads all ones (R13, R15). -/
def Ctx.preg (c : Ctx) (n : Nat) : Pred := if n = 0 then allLanes else c.p.getD (physP c.prb n) 0

/-- A vector register by name (R15). -/
def Ctx.vreg (c : Ctx) (n : Nat) : VVal := c.v.getD (physV c.vrb n) {}

/-- A scalar source field as it stood before the bundle (R39). -/
def Ctx.ssrc (c : Ctx) (f : BitVec 6) : SVal :=
  if f.toNat < 32 then c.sreg f.toNat
  else match c.lat.getD (f.toNat - 32) .empty with
    | .scalar x => x
    | _ => {}

/-- A vector source field as it stood before the bundle, a scalar-valued latch broadcast at width `w` (R39, R40). -/
def Ctx.vsrc (c : Ctx) (w : Nat) (f : BitVec 6) : VVal :=
  if f.toNat < 32 then c.vreg f.toNat
  else match c.lat.getD (f.toNat - 32) .empty with
    | .scalar x => { v := BitVec.ofNat 2048 (replicateElem w (256 / w) x.v.toNat),
                     p := if x.p then BitVec.allOnes 32 else 0 }
    | .vector x => x
    | .empty => {}

/-- Operand position of R41 of operand k of a vector word, the number of V words before it given. -/
def vpos (v : View) (vno k : Nat) : Nat :=
  if v.cls = 3 then 3 * vno + k else if v.cls = 2 then 6 else 7

/-- The scalar that operand k of the word at position `pos` reads: from the snapshot on a resumption (R334, R340). -/
def srcSAt (c : Ctx) (pos k : Nat) (o : Opd) : SVal :=
  match o with
  | .s f => match c.resume with
    | some r => if pos < r.known then r.snap.sc.getD (4 * pos + k) {} else c.ssrc f
    | none => c.ssrc f
  | _ => {}

/-- The vector that operand k of a word reads: from the snapshot on a resumption; the index latch of STVS has no place in
the snapshot and is read from the restored latches (DEDUCED, log 12). -/
def srcVAt (c : Ctx) (v : View) (pos vno k w : Nat) (o : Opd) : VVal :=
  match o with
  | .v f => match c.resume with
    | some r => if r.known ≤ pos || (v.idxLatch && k == 1) then c.vsrc w f else r.snap.vec.getD (vpos v vno k) {}
    | none => c.vsrc w f
  | _ => {}

/-- The predicate that an operand reads. -/
def srcPAt (c : Ctx) (o : Opd) : Pred :=
  match o with
  | .p f => c.preg f.toNat
  | _ => 0

/-- Number of V words before position `pos`: the pipe V0 or V1 of the word there (R34). -/
def vnoAt (ws : List Instr) (pos : Nat) : Nat := countCls 3 (ws.take pos)

namespace State

/-- Operand k of a word. -/
def opd (i : Instr) (k : Nat) : Opd :=
  let v := viewOf i
  if k = 0 then v.a else if k = 1 then v.b else v.c

/-- The scalar that operand k of the word in issue reads. -/
def srcS (s : State) (i : Instr) (k : Nat) : SVal := srcSAt s.iss.pre s.iss.pos k (opd i k)

/-- The vector that operand k of the word in issue reads. -/
def srcV (s : State) (i : Instr) (k : Nat) : VVal :=
  srcVAt s.iss.pre (viewOf i) s.iss.pos (vnoAt (s.words i) s.iss.pos) k (operandWidth i) (opd i k)

/-- The predicate that operand k of the word in issue reads. -/
def srcP (s : State) (i : Instr) (k : Nat) : Pred := srcPAt s.iss.pre (opd i k)

/-- Imm of the word in issue, unsigned (R52). -/
def immU (s : State) (i : Instr) : Nat := Machine.immU (s.words i) i

/-- Imm of the word in issue, signed (R52). -/
def immS (s : State) (i : Instr) : Int := Machine.immS (s.words i) i

end State

/-! ## Guards (R45) -/

/-- A predicate block governs the bundle. -/
def Ctx.guarded (c : Ctx) : Bool := decide (0 < c.gcount)

/-- The governing lane mask of lane-masked words, from the predicate as it stands at the issue; a resumed bundle reads it anew, since the
snapshot has no place for predicates (R338; DEDUCED, log 85). -/
def Ctx.guardMask (c : Ctx) : Pred :=
  if c.guarded then (if bit c.gmask.toNat 0 then c.preg c.gpred.toNat else ~~~(c.preg c.gpred.toNat)) else allLanes

/-- Whether a word that is not lane-masked executes. -/
def Ctx.guardRuns (c : Ctx) : Bool :=
  !c.guarded || bit (c.preg c.gpred.toNat).toNat 0 == bit c.gmask.toNat 0

/-! ## Results (R13, R14, R17) -/

/-- The pipes S, L, V0 and V1 as latch pairs 0 to 3. -/
def Ctx.push (c : Ctx) (pipe : Nat) (x : Latch) : Ctx :=
  { c with lat := (c.lat.set (2 * pipe + 1) (c.lat.getD (2 * pipe) .empty)).set (2 * pipe) x }

/-- A scalar register written; s0 discards (R13). -/
def Ctx.setS (c : Ctx) (d : Nat) (x : SVal) : Ctx :=
  if d = 0 then c else ({ c with s := c.s.set d x }).seePoison x.p

/-- A physical vector register written: a marked chunk that a masked word keeps counts as entering it (R125; DEDUCED, log 88). -/
def Ctx.setVPhys (c : Ctx) (d : Nat) (x : VVal) : Ctx :=
  ({ c with v := c.v.set d x }).seePoison (anyP x)

/-- A predicate written by name under the names of `pre`; p0 discards (R13). -/
def Ctx.setP (c : Ctx) (pre : Ctx) (d : Nat) (x : Pred) : Ctx :=
  if d = 0 then c else { c with p := c.p.set (physP pre.prb d) x }

/-- The pipe of a word: S, L, V0 or V1; M, E and C words fill no latch (R54). -/
def pipeOf (cls vno : Nat) : Option Nat :=
  if cls = 1 then some 0 else if cls = 2 then some 1 else if cls = 3 then some (2 + vno) else none

namespace State

/-- The pipe of the word in issue. -/
def pipe (s : State) (i : Instr) : Option Nat :=
  pipeOf (viewOf i).cls (if (viewOf i).cls = 3 then vnoAt (s.words i) s.iss.pos else 0)

/-- A scalar result of the word in issue: the register when `w`, and the pipe's latch (R17, R52). -/
def resS (s : State) (i : Instr) (d : BitVec 5) (w : Bool) (x : SVal) : State :=
  let s := if w then s.modCur fun c => c.setS d.toNat x else s
  match s.pipe i with
  | some k => s.modCur fun c => c.push k (.scalar x)
  | none => s

/-- A scalar result that fills no latch (R17, R54). -/
def resNoLatch (s : State) (d : BitVec 5) (w : Bool) (x : SVal) : State :=
  if w then s.modCur fun c => c.setS d.toNat x else s

/-- The lane mask of the bundle in issue. -/
def mask (s : State) : Pred := s.iss.pre.guardMask

/-- The old value of a vector destination: the register, or zero for a latch-only result (R14). -/
def oldV (s : State) (d : BitVec 5) (w : Bool) : VVal := if w then s.iss.pre.vreg d.toNat else {}

/-- A vector result of the word in issue: the register when `w`, and the pipe's latch (R17, R52). -/
def resV (s : State) (i : Instr) (d : BitVec 5) (w : Bool) (x : VVal) : State :=
  let s := if w then s.modCur fun c => c.setVPhys (physV s.iss.pre.vrb d.toNat) x else s
  match s.pipe i with
  | some k => s.modCur fun c => c.push k (.vector x)
  | none => s

/-- A predicate result (R17, R124). -/
def resP (s : State) (d : BitVec 5) (x : Pred) : State := s.modCur fun c => c.setP s.iss.pre d.toNat x

/-- Flags ORed into the FCSR of the context in issue (R76). -/
def orFcsr (s : State) (f : Flags) : State := s.modCur fun c => c.orFlags f

end State

/-- The issue group of a context ends: results under way no longer fill latch L0 (R16). -/
def State.dropLatch (s : State) (t slot : Nat) : State :=
  if (s.ctxAt t slot).pendL then s
  else { s with mesh := s.mesh.map fun r => if r.tile == t && r.slot == slot then { r with latch := false } else r }

/-- Any of some results under way (R22, R334). -/
def Ctx.pending (c : Ctx) : Bool := !c.pendS.isEmpty || !c.pendV.isEmpty || c.pendL

/-! ## The region map (R241, R242) -/

def entVALID (e : W64) : Bool := bit e.toNat 63
def entRO (e : W64) : Bool := bit e.toNat 62
def entSHARE (e : W64) : Bool := bit e.toNat 61
def entHPEND (e : W64) : Bool := bit e.toNat 60
def entPARK (e : W64) : Bool := bit e.toNat 59
def entOWNER (e : W64) : Nat := bits e.toNat 56 3
def entPR (e : W64) : Nat := bits e.toNat 50 6
def entPRUSE (e : W64) : Bool := bit e.toNat 49
def entGEOM (e : W64) : Nat := bits e.toNat 40 4
def entFMT (e : W64) : Nat := bits e.toNat 36 4
def entPREG (e : W64) : Nat := bits e.toNat 0 7

/-- A bit of an entry set to a value. -/
def entSet (e : W64) (i : Nat) (b : Bool) : W64 := BitVec.ofNat 64 (setBits e.toNat i 1 (ofBool b))

/-- Entry OWNER set. -/
def entSetOwner (e : W64) (slot : Nat) : W64 := BitVec.ofNat 64 (setBits e.toNat 56 3 slot)

/-- The region-map entry of a scratchpad address below 0x80_0000. -/
def Tile.entry (x : Tile) (a : Nat) : W64 := x.rmap.getD (a / 65536) 0

/-- The physical scratchpad byte of an address through its entry (R234). -/
def physSp (e : W64) (a : Nat) : Nat := entPREG e * 65536 + a % 65536

/-- R242 for an access by a context of the tile. -/
def servesCtx (x : Tile) (slot : Nat) (c : Ctx) (e : W64) : Bool :=
  entVALID e && !entHPEND e && !entPARK e &&
  (entOWNER e == slot ||
    (entSHARE e && match x.ctx.getD (entOWNER e) none with
      | some o => o.gang == c.gang
      | none => false))

/-- R242 for an access that arrives through the gang window. -/
def servesGang (e : W64) : Bool := entVALID e && !entHPEND e && !entPARK e && entSHARE e

/-! ## Names kept across pre-emption (R348, R350) -/

/-- The number that a context's number of a command of engine `e` stands for after pre-emption (R348); 3 is the matrix engine (R350,
log 63). -/
def Ctx.alias1 (c : Ctx) (e : Nat) (tag : BitVec 32) : BitVec 32 :=
  match c.aliases.find? fun x => x.1 == e && x.2.1 == tag with
  | some x => x.2.2
  | none => tag

/-- The number by which a context names a command (R348). -/
def Ctx.firstTag (c : Ctx) (e : Nat) (tag : BitVec 32) : BitVec 32 :=
  match c.aliases.find? fun x => x.1 == e && x.2.2 == tag with
  | some x => x.2.1
  | none => tag

/-! ## The proof record (R337 to R339) -/

/-- The save area lies wholly within one served entry (R337). -/
def saveAreaOk (x : Tile) (slot : Nat) (c : Ctx) : Bool :=
  let a := c.proof.toNat
  let e := x.entry a
  decide (a < 0x800000) && decide (a % 65536 + 0x8400 ≤ 65536) && entVALID e && !entSHARE e && entOWNER e == slot

/-- Key of a byte of the save area. -/
def proofKey (t : Nat) (x : Tile) (c : Ctx) (off : Nat) : Nat :=
  spKey t (physSp (x.entry c.proof.toNat) (c.proof.toNat + off))

/-- A latch's image: its value, its marks, and the LATV and LATS bits (R338, R339). -/
def latImage : Latch → VVal × Bool × Bool
  | .empty => ({}, false, false)
  | .scalar x => ({ v := x.v.setWidth 2048, p := if x.p then 1 else 0 }, true, true)
  | .vector x => (x, true, false)

/-- Bits of a list of Booleans, the first lowest. -/
def ofBools : List Bool → Nat
  | [] => 0
  | b :: r => ofBool b + 2 * ofBools r

/-- Header doubleword 0 (R339). -/
def headerDw0 (c : Ctx) (kind done : Nat) (npv nest : Bool) : Nat :=
  kind + done % 256 * 2 ^ 8 + ofBool c.chActive * 2 ^ 16 + c.gcount * 2 ^ 17 + c.gpred.toNat * 2 ^ 21 +
  c.gmask.toNat * 2 ^ 24 + ofBools (c.lat.map fun l => (latImage l).2.2) * 2 ^ 32 +
  ofBools (c.lat.map fun l => (latImage l).2.1) * 2 ^ 40 + ofBool npv * 2 ^ 49 + ofBool nest * 2 ^ 50

/-- What the front part of a record holds besides the context (R339). -/
structure Front where
  kind : Nat
  done : Nat
  npc : Option W64
  cause : W64
  faddr : W64
  lmask : BitVec 64
  snap : Snap
  bpc : W64
  nest : Bool := false
  deriving DecidableEq, Repr

/-- The physical p0 to p7 as they read. -/
def Ctx.pImages (c : Ctx) : List Pred := (c.p.zipIdx).map fun x => if x.2 = 0 then allLanes else x.1

/-- The scalar registers as they read. -/
def Ctx.sImages (c : Ctx) : List SVal := (List.range 32).map c.sreg

/-- Offsets 0x0000 to 0x13FF of a record: the bytes and one poison mark per doubleword (R338, R339). -/
def frontImage (c : Ctx) (f : Front) : Nat × Nat :=
  let hdr := ofElems 8 [headerDw0 c f.kind f.done f.npc.isSome f.nest, f.bpc.toNat, (f.npc.getD 0).toNat, f.cause.toNat,
    f.faddr.toNat, f.lmask.toNat, c.events.toNat, 0]
  let sI := c.sImages
  let lI := c.lat.map fun l => (latImage l).1
  (hdr + ofElems 8 (sI.map (·.v.toNat)) * 2 ^ (8 * 0x100) + ofElems 32 (c.pImages.map (·.toNat)) * 2 ^ (8 * 0x200) +
    ofElems 8 (f.snap.sc.map (·.v.toNat)) * 2 ^ (8 * 0x300) + ofElems 256 (lI.map (·.v.toNat)) * 2 ^ (8 * 0x400) +
    ofElems 256 (f.snap.vec.map (·.v.toNat)) * 2 ^ (8 * 0xC00),
   ofBools (sI.map (·.p)) * 2 ^ 32 + ofBools (f.snap.sc.map (·.p)) * 2 ^ 96 +
    ofElems 4 (lI.map (·.p.toNat)) * 2 ^ 128 + ofElems 4 (f.snap.vec.map (·.p.toNat)) * 2 ^ 384)

/-- The front part written at an offset of the save area. -/
def State.writeFront (s : State) (t slot off : Nat) (f : Front) : State :=
  let c := s.ctxAt t slot
  let im := frontImage c f
  s.storeDws (proofKey t (s.tileAt t) c off) 640 im.1 im.2

/-- The scalar snapshot slots of a word that is incomplete (R334, R338). -/
def snapWordS (c : Ctx) (pos : Nat) (i : Instr) : List SVal :=
  let v := viewOf i
  [srcSAt c pos 0 v.a, srcSAt c pos 1 v.b, srcSAt c pos 2 v.c, {}]

/-- The scalar snapshot of the words from position `pos` on; complete words have zero slots. -/
def snapS (c : Ctx) (done : Nat) : Nat → List Instr → List SVal
  | _, [] => []
  | pos, i :: r => (if bit done pos then List.replicate 4 ({} : SVal) else snapWordS c pos i) ++ snapS c done (pos + 1) r

/-- The vector snapshot writes of one word into the eight positions of R41. -/
def snapWordV (c : Ctx) (pos vno : Nat) (i : Instr) (l : List VVal) : List VVal :=
  let v := viewOf i
  let w := operandWidth i
  let put := fun (l : List VVal) (k : Nat) (o : Opd) => match o with
    | .v _ => if v.idxLatch && k == 1 then l else l.set (vpos v vno k) (srcVAt c v pos vno k w o)
    | _ => l
  put (put (put l 0 v.a) 1 v.b) 2 v.c

/-- The vector snapshot of the incomplete words. -/
def snapV (c : Ctx) (done : Nat) (all : List Instr) : Nat → List Instr → List VVal → List VVal
  | _, [], l => l
  | pos, i :: r, l =>
    snapV c done all (pos + 1) r (if bit done pos then l else snapWordV c pos (vnoAt all pos) i l)

/-- The snapshot of a bundle whose sources stood as in `pre` (R334). -/
def snapOf (pre : Ctx) (ws : List Instr) (done : Nat) : Snap :=
  let sc := snapS pre done 0 ws
  { sc := (sc ++ List.replicate 32 ({} : SVal)).take 32, vec := snapV pre done ws 0 ws (List.replicate 8 {}) }

/-! ## Taking a trap (R335, R336) -/

/-- Every matrix command of a context ends ABORTED at a step or row boundary (R169, R336). -/
def Tile.abortMatrix (slot : Nat) (x : Tile) : Tile :=
  let hit := fun m : MCmd => m.slot == slot && !m.fin
  if x.mq.any hit then
    { x with
      mq := x.mq.map fun m => if hit m then { m with fin := true, err := 4, stall := none } else m,
      margin := { x.margin with engDet := if (x.mq.head?).any hit then 0 else x.margin.engDet },
      ctx := updAt (fun o => o.map fun c => { c with merr := 4, mrstall := false }) slot x.ctx }
  else x

/-- Aborted commands that every earlier command has left behind complete at once: each sets DONE (R148, R160). -/
def popAborted (done : BitVec 32) : List MCmd → BitVec 32 × List MCmd
  | [] => (done, [])
  | m :: r => if m.fin && m.err == 4 then popAborted m.seq r else (done, m :: r)

/-- The matrix queue with its aborted commands at the head complete. -/
def Tile.popMatrix (x : Tile) : Tile :=
  let r := popAborted x.mdone x.mq
  { x with mdone := r.1, mq := r.2 }

/-- The banks that some commands of an engine reserve are free again, whatever of their writes is still queued (R244). -/
def State.freeBanks (s : State) (t e : Nat) (hit : BitVec 32 → Bool) : State :=
  { s with portE := s.portE.map fun w => if w.src == t && w.eng == e && hit w.cmd then { w with banks := 0 } else w }

/-- The matrix commands of a context are aborted, and those of them that lead the queue complete (R148, R169). -/
def State.abortMatrix (s : State) (t slot : Nat) : State := s.modTile t fun x => (x.abortMatrix slot).popMatrix

/-- A write whose commit has begun (R279). -/
def UnitSt.begun : UnitSt → Bool
  | .sealing _ => true
  | .writing _ _ => true
  | .committed _ => true
  | _ => false

/-- A fill that has passed its check (R328, R344). -/
def UnitSt.kept : UnitSt → Bool
  | .ready _ => true
  | _ => false

/-- The units of some commands cut off: what follows the first unit that is not kept is discarded whole (R328, R344). A unit that has
passed its check is kept when it is a fill; a unit of an on-chip copy has not done its last read, so it is not kept. `fill` tells the
commands that read HBM. -/
def cutUnits (hit : BitVec 32 → Bool) (fill : BitVec 32 → Bool) : List CUnit → List CUnit
  | [] => []
  | u :: r =>
    if !hit u.tag then u :: cutUnits hit fill r
    else if u.st.begun || (fill u.tag && u.st.kept) then u :: cutUnits hit fill r
    else r.filter fun v => !hit v.tag || v.st.begun

/-- KIND of a copy descriptor (R311). -/
def cpKIND (d : BitVec 512) : Nat := bits d.toNat 152 3

/-- Commands of an engine stopped: those that `hit` names issue no further request and end with state `code` (R321, R328, R344). -/
def Burin.stopAll (b : Burin) (hit : Copy → Bool) (code : Nat) : Burin :=
  let tags := (b.q.filter hit).map (·.tag)
  let fills := (b.q.filter fun c => cpKIND c.d == 0 || cpKIND c.d == 4).map (·.tag)
  let us := cutUnits (fun t => tags.contains t) (fun t => fills.contains t) b.units
  { b with
    units := us,
    q := b.q.map fun c =>
      if hit c then { c with stop := some code, fin := !us.any (fun u => u.tag == c.tag), stall := none } else c }

/-- Line requests and held plates of units that an engine no longer holds are released. -/
def Stack.dropReqs (k : Stack) (t e : Nat) (us : List CUnit) : Stack :=
  { k with
    reqs := k.reqs.filter fun r => r.tile != t || r.eng != e || r.reseal || us.any fun u => u.uid == r.uid,
    holds := k.holds.filter fun h => h.2.1 != t || h.2.2.1 != e || us.any fun u => u.uid == h.2.2.2 }

/-- Burin engine `e` of a tile. -/
def State.burinAt (s : State) (t e : Nat) : Burin := (s.tileAt t).burin.getD e {}

/-- Burin engine `e` of a tile changed. -/
def State.modBurin (s : State) (t e : Nat) (f : Burin → Burin) : State :=
  s.modTile t fun x => { x with burin := updAt f e x.burin }

/-- Commands of one engine stopped, their requests dropped and their banks free (R244, R328, R344). -/
def State.stopCopies (s : State) (t e : Nat) (hit : Copy → Bool) (code : Nat) : State :=
  let tags := ((s.burinAt t e).q.filter hit).map (·.tag)
  let s := (s.modBurin t e fun b => b.stopAll hit code).freeBanks t e fun x => tags.contains x
  let b := s.burinAt t e
  { s with hbm := s.hbm.map fun k => k.dropReqs t e (b.units ++ b.fetch) }

/-- Body of a management event (R406). -/
def eventBody (code part die unit : Nat) (time : W64) (addr data : Nat) : Nat :=
  code + part % 32 * 2 ^ 8 + die % 8 * 2 ^ 13 + unit % 64 * 2 ^ 16 + time.toNat * 2 ^ 32 + addr % 2 ^ 64 * 2 ^ 96 +
  data % 2 ^ 224 * 2 ^ 160

/-- A host message (R396). -/
def hostMsg (kind q value body : Nat) : BitVec 512 :=
  BitVec.ofNat 512 (kind + q % 2 ^ 48 * 2 ^ 16 + value % 2 ^ 64 * 2 ^ 64 + body * 2 ^ 128)

/-- VF `v`; one that is not listed is unbound with registers 0. -/
def State.vfAt (s : State) (v : Nat) : Vf := ((s.vfs.find? fun x => x.1 == v).map (·.2)).getD {}

/-- VF `v` changed, the list kept rising. -/
def State.modVf (s : State) (v : Nat) (f : Vf → Vf) : State :=
  let x := f (s.vfAt v)
  { s with vfs := s.vfs.filter (fun y => decide (y.1 < v)) ++ ((v, x) :: s.vfs.filter fun y => decide (v < y.1)) }

/-- MSI-X coalescing is active (R401): DEVFEAT offers bits 0 to 5. -/
def State.featOn (s : State) (i : Nat) : Bool := decide (i < 6) && bit s.drvfeat.toNat i

/-- A message of a VF sent to the host (R396, R401). -/
def State.sendVf (s : State) (v kind value body : Nat) : State :=
  let x := s.vfAt v
  let m := hostMsg kind x.q value body
  if x.n = 0 then s.modVf v fun x => { x with q := x.q + 1 }
  else
    let co := s.featOn 5
    let s := { s with msgs := s.msgs ++ [(some v, (x.base.toNat + 64 * (x.q % x.n.toNat)) % 2 ^ 64, m)] }
    s.modVf v fun x =>
      if co then
        if 15 ≤ x.pend then { x with q := x.q + 1, pend := 0, vectors := x.vectors + 1 }
        else { x with q := x.q + 1, pend := x.pend + 1 }
      else { x with q := x.q + 1, vectors := x.vectors + 1 }

/-- The VFs of a partition, lowest first. -/
def State.vfsOf (s : State) (p : Nat) : List Nat := (s.vfs.filter fun x => x.2.part == some p).map (·.1)

/-- A message to an agent (R399): the host receives it through the PF. -/
def State.answer (s : State) (a : Agent) (kind value body : Nat) : State :=
  { s with answers := s.answers ++ [(a, hostMsg kind 0 value body)] }

/-- Partition `p`, if it is active (R395). -/
def State.part? (s : State) (p : Nat) : Option Part := s.parts.getD p none

/-- Partition `p` changed. -/
def State.modPart (s : State) (p : Nat) (f : Part → Part) : State :=
  { s with parts := updAt (fun o => o.map f) p s.parts }

/-- A message sent to VFs and, for a management event, to the owner. -/
def State.signalNow (s : State) (vfs : List Nat) (toOwner : Bool) (kind value body : Nat) : State :=
  let s := vfs.foldl (fun s v => s.sendVf v kind value body) s
  match toOwner, s.owner with
  | true, some a => s.answer a kind value body
  | _, _ => s

/-- The messages of a held signal: VF plus 1, or 0 for the owner, each with its message, whose SEQ is given at release. -/
def heldMsgs (vfs : List Nat) (toOwner : Bool) (kind value body : Nat) : List (Nat × BitVec 512) :=
  vfs.map (fun v => (v + 1, hostMsg kind 0 value body)) ++ (if toOwner then [(0, hostMsg kind 0 value body)] else [])

/-- A signal of a partition to the host: sent at once, or held by twin-run until the twin's digest agrees (R392). `vfs` are the
VFs that receive it, `toOwner` tells a management event. -/
def State.signal (s : State) (p : Nat) (vfs : List Nat) (toOwner : Bool) (kind value body : Nat) : State :=
  match s.part? p with
  | some x => match x.twin with
    | some tw =>
      if x.halted then s
      else if vfs.isEmpty && !(toOwner && s.owner == some .host) then s.signalNow vfs toOwner kind value body
      else s.modPart p fun x =>
        { x with twin := some { tw with
            digest := 0, win := tw.win + 1,
            held := tw.held ++ [(tw.win, tw.digest, heldMsgs vfs toOwner kind value body)] } }
    | none => s.signalNow vfs toOwner kind value body
  | none => s.signalNow vfs toOwner kind value body

/-- A management event of a partition (R399, R406). -/
def State.event (s : State) (code p die unit addr data : Nat) : State :=
  s.signal p (s.vfsOf p) true 3 0 (eventBody code p die unit s.time addr data)

/-- A management event about a tile: the VFs of its partition learn of it, if it has one, and the owner in any case (R399). -/
def State.tileEvent (s : State) (code : Nat) (part : Option Nat) (t addr data : Nat) : State :=
  match part with
  | some p => s.event code p (dieOf t) (t % 64) addr data
  | none => s.signalNow [] true 3 0 (eventBody code 0 (dieOf t) (t % 64) s.time addr data)

/-- A context stops as R336 stops one: it issues nothing more, its matrix commands end ABORTED and its copies CANCELLED. -/
def State.stopCtx (s : State) (t slot : Nat) : State :=
  let s := s.modCtx t slot fun c => { c with stopped := true, held := none, resume := none }
  let s := s.abortMatrix t slot
  (s.stopCopies t 0 (fun c => c.slot == slot) 5).stopCopies t 1 (fun c => c.slot == slot) 5

/-- ProofFault of R336: no record, the context stops, and system software is told. -/
def State.proofFault (s : State) (t slot cause : Nat) : State :=
  let c := s.ctxAt t slot
  let s := s.stopCtx t slot
  s.tileEvent 3 (s.tileAt t).partid t c.pc.toNat (cause % 256 + slot * 2 ^ 8)

/-- CAUSE (R28). -/
def causeOf (tr : Trap) : W64 := BitVec.ofNat 64 (tr.word * 2 ^ 9 + ofBool tr.second * 2 ^ 8 + tr.cause)

/-- The context after a trap is entered: R335 without the record. -/
def Ctx.enter (c : Ctx) (tr : Trap) : Ctx :=
  { c with
    epc := c.pc, cause := causeOf tr, faddr := tr.faddr, pmode := c.mode, mode := true,
    lat := List.replicate 8 .empty, gcount := 0, gmask := 0, gpred := 0, pc := c.tvec,
    held := none, resume := none, issueNo := 1, detections := 0, afterXret := false }

/-- TrapEntry of R335: the bundle at PC of the context, what of it is complete, and the trap. -/
def State.takeTrap (s : State) (t slot : Nat) (tr : Trap) (done : Nat) (npc : Option W64) (lmask : BitVec 64)
    (snap : Snap) : State :=
  let c := s.ctxAt t slot
  if c.mode || !saveAreaOk (s.tileAt t) slot c then s.proofFault t slot tr.cause
  else
    (s.writeFront t slot 0 { kind := 1, done := done, npc := npc, cause := causeOf tr, faddr := tr.faddr, lmask := lmask,
                             snap := snap, bpc := c.pc }).modCtx t slot fun c => c.enter tr

/-! ## Returning from a trap (R340) -/

/-- A scalar image of the save area with its mark. -/
def State.rdS (s : State) (key : Nat) : SVal := { v := BitVec.ofNat 64 (s.rd key 8), p := s.poisoned key }

/-- A vector image of the save area with its marks. -/
def State.rdV (s : State) (key : Nat) : VVal :=
  { v := BitVec.ofNat 2048 (s.rd key 256), p := BitVec.ofNat 32 (poisonBits s.poison key 32) }

/-- A latch from its image and its LATV and LATS bits. -/
def latOf (x : VVal) (valid scalar : Bool) : Latch :=
  if !valid then .empty
  else if scalar then .scalar { v := x.v.setWidth 64, p := bit x.p.toNat 0 }
  else .vector x

/-- The registers of a record's front part loaded into a context. -/
def State.loadRegs (s : State) (base : Nat) (c : Ctx) : Ctx :=
  { c with
    s := (List.range 32).map fun i => if i = 0 then ({} : SVal) else s.rdS (base + 0x100 + 8 * i),
    p := (List.range 8).map fun i => if i = 0 then allLanes else BitVec.ofNat 256 (s.rd (base + 0x200 + 32 * i) 32) }

/-- The latches and the predicate-block state of a record's front part (R339). -/
def State.loadLatches (s : State) (base : Nat) (c : Ctx) : Ctx :=
  let h := s.rd base 8
  { c with
    lat := (List.range 8).map fun q => latOf (s.rdV (base + 0x400 + 256 * q)) (bit h (40 + q)) (bit h (32 + q)),
    gmask := BitVec.ofNat 8 (bits h 24 8), gpred := BitVec.ofNat 3 (bits h 21 3), gcount := bits h 17 4 }

/-- The resumption that a record's front part describes (R340). The words from position `known` on had not been fetched when the trap was
entered, so the snapshot holds no source of theirs and they read the registers (DEDUCED, log 35). -/
def State.loadResume (s : State) (base known : Nat) : Resume :=
  let h := s.rd base 8
  { known := known,
    done := bits h 8 8,
    snap := { sc := (List.range 32).map fun i => s.rdS (base + 0x300 + 8 * i),
              vec := (List.range 8).map fun q => s.rdV (base + 0xC00 + 256 * q) },
    lmask := BitVec.ofNat 64 (s.rd (base + 0x28) 8),
    npc := if bit h 49 then some (BitVec.ofNat 64 (s.rd (base + 0x10) 8)) else none }

/-- XRET of R340, from the record as `v` holds it. PC takes EPC as it stands (DEDUCED, log 82). -/
def State.returnFrom (s v : State) (t slot : Nat) : State :=
  let c := s.ctxAt t slot
  let x := s.tileAt t
  let k := s.fresh
  let fault := k.2.proofFault t slot (Config.proofCause k.1).toNat
  if !saveAreaOk x slot c then fault
  else
    let base := proofKey t x c 0
    let h := v.rd base 8
    if bits h 0 4 ≠ 1 then fault
    else
      let bpc := v.rd (base + 8) 8
      let s1 := s.modCtx t slot fun c =>
        let c := { v.loadRegs base c with mode := c.pmode, pc := c.epc, afterXret := true }
        if c.epc.toNat = bpc then { v.loadLatches base c with resume := some (v.loadResume base c.known) }
        else { c with lat := List.replicate 8 .empty, gcount := 0, gmask := 0, gpred := 0, resume := none }
      s1.wr base 8 (setBits h 0 4 0)

/-- XRET of R340, when the read of the record meets no error. -/
def State.returnTrap (s : State) (t slot : Nat) : State := s.returnFrom s t slot

end Sys2Proof.Machine
end

