-- ==== Sys2Proof/Machine/Access.lean ====
section
/-! DEFINITION. Accesses to the local address space: the checks of R90 in their order, what an access does at its home bank
(R91, R143 to R146, R204 to R208), its way over the mesh (R245) and the delivery of its answer (R23). -/

namespace Sys2Proof.Machine

/-- Where an access goes. -/
structure Loc where
  home : Nat
  remote : Bool
  key : Nat
  /-- region-map entry; 0 for the accumulator store -/
  entry : W64
  acc : Bool
  deriving DecidableEq, Repr

/-- Base of the gang window (R29). -/
def gangBase : Nat := 2 ^ 40

namespace State

/-- The gang instance with a number. -/
def gangOf (s : State) (g : Nat) : Option Gang := s.gangs.find? fun x => x.id == g

/-- The tile of member `k` of a context's gang. -/
def memberTile (s : State) (c : Ctx) (k : Nat) : Option Nat :=
  match s.gangOf c.gang with
  | none => none
  | some g => (g.members[k]?).map (·.tile)

/-- Checks 5 and 6 of R90 on a scratchpad access through a tile's region map. -/
def regionCheck (s : State) (c : Ctx) (slot t : Nat) (remote : Bool) (addr off : Nat) (store : Bool) :
    Except (Nat × Nat) Loc :=
  let x := s.tileAt t
  let e := x.entry off
  if !(if remote then servesGang e else servesCtx x slot c e) then .error (cREGION_FAULT, addr)
  else if store && entRO e && !c.mode then .error (cACCESS, addr)
  else .ok { home := t, remote := remote, key := spKey t (physSp e off), entry := e, acc := false }

/-- Checks 4 to 6 of R90 on an access of `n` bytes by the context `c` of a tile's slot (R29, R30, R335). -/
def locate (s : State) (t slot : Nat) (c : Ctx) (a n : Nat) (store : Bool) : Except (Nat × Nat) Loc :=
  if a < 0x800000 then
    if 0x800000 < a + n then .error (cACCESS, a) else s.regionCheck c slot t false a a store
  else if a < 0xB00000 then
    if 0xB00000 < a + n then .error (cACCESS, a)
    else .ok { home := t, remote := false, key := accKey t (a - 0x800000), entry := 0, acc := true }
  else if a < gangBase then .error (cACCESS, a)
  else
    let g := (a - gangBase) / 2 ^ 23
    let off := (a - gangBase) % 2 ^ 23
    if c.gangsize ≤ g then .error (cACCESS, a)
    else if 2 ^ 23 < off + n then .error (cACCESS, a)
    else if g = c.gangidx then s.regionCheck c slot t false a off store
    else match s.memberTile c g with
      | none => .error (cACCESS, a)
      | some h => s.regionCheck c slot h true a off store

/-- Checks 2 to 8 of R90 for a word of the bundle in issue: base poison, alignment, place, region, poisoned data sent to
another tile. `noAcc` makes an accumulator address raise ACCESS (R142, R205). -/
def check (s : State) (base : Bool) (a n align : Nat) (store noAcc dataP : Bool) : Except (Nat × Nat) Loc :=
  if base then .error (cPOISON, 0)
  else if a % align ≠ 0 then .error (cMISALIGNED, a)
  else match s.locate s.iss.tile s.iss.slot s.iss.pre a n store with
    | .error e => .error e
    | .ok l =>
      if noAcc && l.acc then .error (cACCESS, a)
      else if store && dataP && l.remote then .error (cPOISON, a)
      else .ok l

end State

/-! ## The injector (R370 to R372) and what a read of the scratchpad checks (R237) -/

/-- One step of a tile's LFSR (R371). -/
def lfsrStep (l : W64) : W64 :=
  let x := l.toNat
  BitVec.ofNat 64 (2 * x + (bits x 63 1 + bits x 62 1 + bits x 60 1 + bits x 59 1) % 2)

/-- The tile of a doubleword of the on-chip arrays, and whether it lies in the scratchpad. -/
def dwHome (d : Nat) : Nat × Bool := ((8 * d - 2 ^ 40) / 2 ^ 24, decide ((8 * d - 2 ^ 40) % 2 ^ 24 < 2 ^ 23))

/-- The bank of an on-chip doubleword: 0 to 31 of the scratchpad, 32 to 223 of the accumulator store (R234, R236). -/
def sramBank (d : Nat) : Nat :=
  let o := (8 * d - 2 ^ 40) % 2 ^ 24
  if o < 2 ^ 23 then o / 64 % 32 else 32 + (o - 2 ^ 23) / 64 % 192

namespace State

/-- The injector of a tile's die aims at the tile with a kind of event (R370). -/
def injOn (s : State) (t kind : Nat) : Bool :=
  let d := s.dieAt (dieOf t)
  bit d.injCtl.toNat 26 && bit d.injCtl.toNat (20 + kind) && bit d.injTiles.toNat (t % 64) &&
    match (s.tileAt t).partid with
    | some p => (match s.part? p with | some x => x.test | none => false)
    | none => false

/-- One opportunity of a kind (R371): whether it receives an event, and the state with the LFSR stepped. -/
def inject (s : State) (t kind : Nat) : Bool × State :=
  if s.injOn t kind then
    let l := lfsrStep (s.tileAt t).margin.lfsr
    (decide (bits l.toNat 0 16 < bits (s.dieAt (dieOf t)).injCtl.toNat 0 17),
     s.modTile t fun x => { x with margin := { x.margin with lfsr := l } })
  else (false, s)

/-- Opportunities of a kind, one after another: whether one of them received an event. -/
def injectN (s : State) (t kind : Nat) : Nat → Bool × State
  | 0 => (false, s)
  | n + 1 =>
    let r := s.injectN t kind n
    let q := r.2.inject t kind
    (r.1 || q.1, q.2)

/-- A single-bit error of a doubleword: corrected, written back and counted by its bank (R237). -/
def sramCorrect (s : State) (t d : Nat) : State :=
  s.modTile t fun x => { x with margin := { x.margin with sramC := x.margin.sramC.modify (sramBank d) (· + 1) } }

/-- An uncorrectable error of a doubleword: marked and counted by its bank (R237). -/
def sramSpoil (s : State) (t d : Nat) : State :=
  (s.mark (8 * d) true).modTile t fun x => { x with margin := { x.margin with sramU := x.margin.sramU.modify (sramBank d) (· + 1) } }

/-- Two bits of a value differ from zero. -/
def twoBits (x : Nat) : Bool := (x &&& (x - 1)) != 0

/-- The bits of a doubleword that stand flipped: every error that has befallen it since it was last read or written. -/
def flipped (s : State) (d : Nat) : Nat := s.flips.foldl (fun m x => if x.1 == d then m ^^^ x.2 else m) 0

/-- The errors that stand in a doubleword are found by a read (R237): the bits that the read finds flipped, which the array keeps when it
cannot correct them, and the state after it. -/
def sramFind (s : State) (t d : Nat) : Nat × State :=
  let m := s.flipped d
  let s := { s with flips := s.flips.filter fun x => x.1 != d }
  if m = 0 then (0, s)
  else if twoBits m then (m, (s.wr (8 * d) 8 (s.rd (8 * d) 8 ^^^ m)).sramSpoil t d)
  else (0, s.sramCorrect t d)

/-- The injector's events of kind 1 on the doublewords read in one cycle (R371): each that is hit finds a single-bit error. -/
def injectC (s : State) (t : Nat) : List Nat → State
  | [] => s
  | d :: r =>
    let x := s.inject t 1
    (if x.1 then x.2.sramCorrect t d else x.2).injectC t r

/-- The injector's events of kind 2 on the doublewords read in one cycle (R371): the bits found flipped in each, by doubleword. -/
def injectU (s : State) (t : Nat) : List Nat → List (Nat × Nat) × State
  | [] => ([], s)
  | d :: r =>
    let b := s.inject t 2
    if b.1 then
      let k := bits (b.2.tileAt t).margin.lfsr.toNat 16 6
      let q := (b.2.sramSpoil t d).injectU t r
      ((d, 2 ^ k + 2 ^ (k ^^^ 1)) :: q.1, q.2)
    else b.2.injectU t r

/-- The errors that stand in some doublewords are found. -/
def sramFinds (s : State) : List Nat → State
  | [] => s
  | d :: r => (if 8 * d < 2 ^ 40 then s else (s.sramFind (dwHome d).1 d).2).sramFinds r

/-- The reads of the doublewords of one tile's scratchpad that the injector aims at (R371): the kinds in their order. -/
def sramInject (s : State) (t : Nat) (ds : List Nat) : List (Nat × Nat) × State := (s.injectC t ds).injectU t ds

/-- The injector's reads tile after tile. -/
def sramInjects (s : State) (ds : List Nat) : List Nat → List (Nat × Nat) × State
  | [] => ([], s)
  | t :: r =>
    let x := s.sramInject t (ds.filter fun d => (dwHome d).1 == t)
    let y := x.2.sramInjects ds r
    (x.1 ++ y.1, y.2)

/-- Doublewords read: the memory as the reads find it, and the state after them. -/
def sramDws (s : State) (ds : List Nat) : State × State :=
  let f := s.sramFinds ds
  let sp := ds.filter fun d => decide (2 ^ 40 ≤ 8 * d) && (dwHome d).2
  let x := f.sramInjects sp ((sp.map fun d => (dwHome d).1).eraseDups)
  (x.1.foldl (fun s y => s.wr (8 * y.1) 8 (s.rd (8 * y.1) 8 ^^^ y.2)) x.2, x.2)

/-- Some read of the on-chip arrays may meet an error: one stands in them, or an injector aims at SRAM reads. -/
def sramWorks (s : State) : Bool :=
  !s.flips.isEmpty || s.dies.any fun d => bits d.injCtl.toNat 21 2 != 0 && bit d.injCtl.toNat 26

/-- Reads of doublewords: nothing happens unless an error can be met. -/
def sramReads (s : State) (ds : List Nat) : State × State := if s.sramWorks then s.sramDws ds else (s, s)

end State

/-- The doublewords of `n` bytes from a key. -/
def dwsOf (key n : Nat) : List Nat := (List.range ((key % 8 + n + 7) / 8)).map fun i => key / 8 + i

/-- A lane of 32 bits is active (R45). -/
def laneOn (m : Pred) (j : Nat) : Bool := bit m.toNat (4 * j)

/-- A block of 32 lanes has an active lane. -/
def blockOn1 (m : Pred) (blk : Nat) : Bool := (List.range 32).any fun j => laneOn m (32 * blk + j)

/-- The scale bytes of a chunk that its active lanes use (R101). -/
def scaleBytes (sc0 sc1 fmt : Nat) (m : Pred) : List Nat :=
  if fmt = fmtMXFP4 then (if blockOn1 m 0 then [sc0] else []) ++ (if blockOn1 m 1 then [sc1] else []) else []

/-- The doublewords that a vector load reads, each on its own (R289): those that hold a byte of an active lane. -/
def MemAct.units : MemAct → List Nat
  | .loadV k m => ((List.range 32).filter fun i => bits m.toNat (8 * i) 8 != 0).map fun i => k / 8 + i
  | .loadB k m =>
    ((List.range 8).filter fun i => (List.range 4).any fun g => bits m.toNat (64 * g + 8 * i) 8 != 0).map fun i => k / 8 + i
  | .loadF k a b f m =>
    (((List.range 64).filter (laneOn m)).map fun j => (8 * k + j * fmtBits f) / 64).eraseDups ++
      ((scaleBytes a b f m).map fun x => x / 8).eraseDups
  | _ => []

/-- The doublewords of pieces that cover a part of each (R239). -/
def partDws (ps : List (Nat × Nat × Nat)) : List Nat := ((ps.filter fun p => p.2.1 != 8).map fun p => p.1 / 8).eraseDups

/-- The doublewords that an access reads, each once (R239, R289). -/
def MemAct.reads : MemAct → List Nat
  | .load k n _ => dwsOf k n
  | .loadV k m => (MemAct.loadV k m).units
  | .loadB k m => (MemAct.loadB k m).units
  | .loadF k a b f m => (MemAct.loadF k a b f m).units
  | .lanes l => (l.map fun x => x.1 / 8).eraseDups
  | .write ps _ => partDws ps
  | .atomic op k _ _ _ => dwsOf k (if op = .fadd then 4 else 8)
  | .binit _ _ => []
  | .barv k _ _ => dwsOf k 16
  | .bwait k => dwsOf k 8

/-- The bytes that an access under way touches, and whether it loads and stores (R289). An ACAS counts as a store towards later accesses
of other classes as long as it is not known to fail (DEDUCED, log 90). -/
def MemAct.spans : MemAct → List (Nat × Nat) × Bool × Bool
  | .load k n _ => ([(k, n)], true, false)
  | .loadV k m => (((MemAct.loadV k m).units).map fun d => (8 * d, 8), true, false)
  | .loadB k m => (((MemAct.loadB k m).units).map fun d => (8 * d, 8), true, false)
  | .loadF k a b f m =>
    ((((List.range 64).filter (laneOn m)).map fun j => (k + j * fmtBits f / 8, (fmtBits f + 7) / 8)) ++
      (scaleBytes a b f m).map fun x => (x, 1), true, false)
  | .lanes l => (l.map fun x => (x.1, 4), true, false)
  | .write ps _ => (ps.map fun p => (p.1, p.2.1), false, true)
  | .atomic op k _ _ _ => ([(k, if op = .fadd then 4 else 8)], true, true)
  | .binit k _ => ([(k, 16)], true, true)
  | .barv k _ _ => ([(k, 16)], true, true)
  | .bwait k => ([(k, 16)], true, true)

/-- The bytes of a request that its banks have not applied yet (R289). -/
def MeshReq.rest (r : MeshReq) : List (Nat × Nat) := r.act.spans.1.filter fun x => !r.got.any fun g => g.1 == x.1 / 8

/-- The home tiles of the bytes of a request that its banks have not applied yet: the scale bytes of a chunk may lie in another tile than
its elements (R101, R292). -/
def MeshReq.homes (r : MeshReq) : List Nat := (r.rest.map fun x => (dwHome (x.1 / 8)).1).eraseDups

/-! ## At the home bank -/

/-- The new value of an integer atomic (R143). -/
def atomicNew (op : AtomicOp) (old x : W64) : W64 :=
  match op with
  | .add => old + x
  | .min => if old.toInt < x.toInt then old else x
  | .max => if old.toInt < x.toInt then x else old
  | .minu => if old.toNat < x.toNat then old else x
  | .maxu => if old.toNat < x.toNat then x else old
  | .and => old &&& x
  | .or => old ||| x
  | .xor => old ^^^ x
  | .swp => x
  | .cas => x
  | .fadd => x

/-- AFADD on two binary32 patterns, always RNE (R144): any NaN operand sets NV, as R144 says, though R99 gives a quiet NaN no flag
(DEDUCED, log 94). -/
def afadd (old x : Nat) : Nat × Flags :=
  let a := fp32.decode old
  let b := fp32.decode x
  if a.isNan || b.isNan then (0x7FC00000, fNV) else fpAdd fp32 0 a b

/-- Word 0 of a barrier object after an arrival of count `k`, its code, and word 1 if it is written (R207); `time` is TIME and
`gidx` the arriving task's GANGIDX. -/
def barvWord (w0 k gidx time : Nat) : Nat × Nat × Option Nat :=
  let ex := bits w0 0 16
  let ar := bits w0 16 16
  let full := bit w0 36
  if !bit w0 37 then (w0, 3, none)
  else if k = 0 ∨ 65535 < k then (w0, 4, none)
  else if ex < ar + k then (setBits w0 36 1 1, 2, if full then none else some gidx)
  else if ar + k = ex then
    (setBits (setBits w0 32 4 ((bits w0 32 4 + 1) % 16)) 16 16 0, 1, if full then none else some time)
  else (setBits w0 16 16 (ar + k), 0, none)

/-- The status of BARV and BWAIT (R207, R208). -/
def barStatus (code w0 : Nat) : W64 := BitVec.ofNat 64 (code * 2 ^ 56 + w0 % 2 ^ 38)

/-- The lanes of one chunk of a format, with the poison of the doublewords that hold them (R95, R114). -/
def State.chunkEls (s : State) (key sc0 sc1 fmt : Nat) : List (El × Flags) :=
  (List.range 64).map fun j =>
    let b := fmtBits fmt
    let x := s.rd (key + j * b / 8) ((b + 7) / 8) / 2 ^ (j * b % 8) % 2 ^ b
    let sc := if j < 32 then sc0 else sc1
    let r := decodeElem fmt x (if fmt == fmtMXFP4 then s.rd sc 1 else 0)
    ({ v := r.1, p := s.poisoned (key + j * b / 8) || (fmt == fmtMXFP4 && s.poisoned sc) }, r.2)

/-- The flags of the active lanes. -/
def laneFlags (mask : Pred) (l : List (El × Flags)) : Flags :=
  orAll (l.zipIdx.map fun x => if bit mask.toNat (4 * x.2) then x.1.2 else 0)

/-- The pieces of a write, in order. -/
def State.storeAll (s : State) : List (Nat × Nat × Nat) → List Bool → State
  | [], _ => s
  | (k, n, x) :: r, ps => (s.store k n x (ps.headD false)).storeAll r ps.tail

/-- An access applied to the doublewords as `v` finds them (R289): the state after it and its answer. A poisoned comparand marks what a
successful ACAS writes, and the old value keeps the mark of its doubleword (DEDUCED, log 87). Each word of a barrier object keeps its own mark: a mark of
word 1 marks neither word 0 nor the status, and word 1 keeps it when it is written (DESIGN CHOICE, log 92). -/
def State.applyAs (s v : State) (home : Nat) (a : MemAct) : State × MemRes :=
  match a with
  | .load key n sext =>
    let x := v.rd key n
    (s, .s { v := if sext then BitVec.ofInt 64 (signed x (8 * n)) else BitVec.ofNat 64 x, p := v.poisoned key })
  | .loadV key _ =>
    (s, .v { v := BitVec.ofNat 2048 (v.rd key 256), p := BitVec.ofNat 32 (poisonBits v.poison key 32) } 0)
  | .loadB key _ =>
    let x := v.rd key 64
    let m := poisonBits v.poison key 8
    (s, .v { v := BitVec.ofNat 2048 (ofElems 64 (List.replicate 4 x)),
             p := BitVec.ofNat 32 (ofElems 1 (List.replicate 4 m)) } 0)
  | .loadF key sc0 sc1 fmt mask =>
    let l := v.chunkEls key sc0 sc1 fmt
    (s, .v (mergeV allLanes 4 4 {} (l.map (·.1))) (laneFlags mask l))
  | .lanes l => (s, .lanes (l.map fun x => (x.2, BitVec.ofNat 32 (v.rd x.1 4), v.poisoned x.1)))
  | .write ps po => (s.storeAll ps po, .none)
  | .atomic op key x cmp ret =>
    let n := if op = .fadd then 4 else 8
    let old : SVal := { v := BitVec.ofNat 64 (v.rd key n), p := v.poisoned key }
    match op with
    | .fadd =>
      let r := afadd old.v.toNat (x.v.toNat % 2 ^ 32)
      let s := s.store key 4 r.1 (old.p || x.p)
      if ret then (s, .flags old r.2)
      else (s.modTile home fun t => { t with raflags := t.raflags ||| r.2 }, .none)
    | .cas =>
      if old.v = cmp.v then (s.store key 8 x.v.toNat (old.p || x.p || cmp.p), .s old) else (s, .s old)
    | _ => (s.store key 8 (atomicNew op old.v x.v).toNat (old.p || x.p), if ret then .s old else .none)
  | .binit key x => (s.storeDws key 2 (x + 2 ^ 37) 0, .none)
  | .barv key k gidx =>
    let r := barvWord (v.rd key 8) k gidx s.time.toNat
    let p := v.poisoned key
    let s := s.store key 8 r.1 p
    let s := match r.2.2 with
      | none => s
      | some y => s.store (key + 8) 8 y (s.poisoned (key + 8))
    (s, .s { v := barStatus r.2.1 r.1, p := p })
  | .bwait key => (s, .s { v := BitVec.ofNat 64 (v.rd key 8), p := v.poisoned key })

/-- The doublewords that an access reads and writes in part (R239, R289). -/
def MemAct.merges : MemAct → List Nat
  | .write ps _ => partDws ps
  | .atomic op k _ _ _ => if op = .fadd then dwsOf k 4 else []
  | _ => []

/-- The doublewords of a list hold what a read of them found: the rest of a doubleword that is written in part (R239). -/
def State.takeRead (s v : State) : List Nat → State
  | [] => s
  | d :: r => (if s.rd (8 * d) 8 = v.rd (8 * d) 8 then s else s.wr (8 * d) 8 (v.rd (8 * d) 8)).takeRead v r

/-- An access applied at its home bank: its reads check their doublewords (R237), and what it writes in part is merged into the
doubleword as read (R239). -/
def State.apply (s : State) (home : Nat) (a : MemAct) : State × MemRes :=
  let r := s.sramReads a.reads
  (r.2.takeRead r.1 a.merges).applyAs r.1 home a

/-! ## Answers -/

/-- A byte mask as elements of one byte. -/
def byteEls (x : VVal) : List El := elsOf x 1

/-- Lanes of 32 bits, each with its mark, put into a vector (R96). -/
def putLanes (l : List (Nat × BitVec 32 × Bool)) (o : VVal) : VVal :=
  l.foldl (fun o x => mergeV (BitVec.ofNat 256 (15 * 2 ^ (4 * x.1))) 1 1 o
    (byteEls { v := BitVec.ofNat 2048 (x.2.1.toNat * 2 ^ (32 * x.1)),
               p := if x.2.2 then BitVec.ofNat 32 (2 ^ (x.1 / 2)) else 0 })) o

/-- An answer delivered to its context (R23): registers, latch L0 when `latch`, flags, and the scoreboard entry when the
answer was `late`. -/
def Ctx.deliver (c : Ctx) (dst : MemDst) (r : MemRes) (late latch : Bool) : Ctx :=
  match dst, r with
  | .s d w, .s x =>
    let c := if w then c.setS d.toNat x else c
    let c := if latch then c.push 1 (.scalar x) else c
    if late then { c with pendS := c.pendS.erase d, pendL := c.pendL && !latch } else c
  | .s d w, .flags x f =>
    let c := (if w then c.setS d.toNat x else c).orFlags f
    let c := if latch then c.push 1 (.scalar x) else c
    if late then { c with pendS := c.pendS.erase d, pendL := c.pendL && !latch } else c
  | .v d w mask, .v x f =>
    let y := mergeV mask 1 1 (if w then c.v.getD d {} else {}) (byteEls x)
    let c := (if w then c.setVPhys d y else c).orFlags f
    let c := if latch then c.push 1 (.vector y) else c
    if late then { c with pendV := c.pendV.filter (fun z => z.1 != d), pendL := c.pendL && !latch } else c
  | .lane d w, .lanes l =>
    let put := putLanes l
    let c := if w then c.setVPhys d (put (c.v.getD d {})) else c
    let c := match latch, c.lat.getD 2 .empty with
      | true, .vector o => { c with lat := c.lat.set 2 (.vector (put o)) }
      | _, _ => c
    if late then
      let left := (c.pendV.find? fun z => z.1 == d).elim 0 (·.2) - 1
      { c with pendV := if left = 0 then c.pendV.filter (fun z => z.1 != d)
                        else c.pendV.map (fun z => if z.1 == d then (d, left) else z),
               pendL := c.pendL && !(latch && left == 0) }
    else c
  | _, _ => c

/-- The scoreboard entries of an answer that comes late (R22); a latch-only gather counts its lanes under register 32. -/
def Ctx.expect (c : Ctx) (dst : MemDst) (latch : Bool) : Ctx :=
  match dst with
  | .s d w => { c with pendS := if w then d :: c.pendS else c.pendS, pendL := c.pendL || latch }
  | .v d w _ => { c with pendV := if w then (d, 1) :: c.pendV else c.pendV, pendL := c.pendL || latch }
  | .lane d _ =>
    { c with
      pendV := if c.pendV.any (fun z => z.1 == d) then c.pendV.map (fun z => if z.1 == d then (d, z.2 + 1) else z)
        else (d, 1) :: c.pendV,
      pendL := c.pendL || latch }
  | _ => c

/-- The pieces of a write with their marks, doubleword by doubleword (R289). -/
def splitDws : List ((Nat × Nat × Nat) × Bool) → List (List ((Nat × Nat × Nat) × Bool))
  | [] => []
  | p :: r => match splitDws r with
    | (q :: g) :: l => if q.1.1 / 8 = p.1.1 / 8 then (p :: q :: g) :: l else [p] :: (q :: g) :: l
    | l => [p] :: l

/-- The accesses that an access is at its banks, one for each doubleword that a store touches (R289); a vector load is one request
whose doublewords are read one by one. -/
def MemAct.split : MemAct → List MemAct
  | .write ps po => (splitDws (ps.zip po)).map fun g => .write (g.map (·.1)) (g.map (·.2))
  | a => [a]

/-- A request for an access of the word in issue. -/
def State.request (s : State) (l : Loc) (cls : BitVec 4) (dst : MemDst) (latch : Bool) (a : MemAct) : MeshReq :=
  { tile := s.iss.tile, slot := s.iss.slot, task := s.cur.taskid, home := l.home, act := a,
    cls := cls, dst := dst, res := none, latch := latch }

/-- One access of the word in issue: applied at once at its own tile, or waiting there like an access to another tile, which is sent
over the mesh (R235, R245, R289; log 6). -/
def State.issueAct (s : State) (l : Loc) (cls : BitVec 4) (a : MemAct) (dst : MemDst) (latch : Bool) : State :=
  if l.remote || s.iss.late then
    { (s.modCur fun c => c.expect dst latch) with mesh := s.mesh ++ a.split.map (s.request l cls dst latch) }
  else
    let r := s.apply l.home a
    r.1.modCur fun c => c.deliver dst r.2 false latch

/-- A lane's access joined to one of the same word for the same doubleword (R289). -/
def MeshReq.join (r q : MeshReq) : Option MeshReq :=
  if r.tile == q.tile && r.slot == q.slot && r.task == q.task && r.home == q.home && r.wid.isSome && r.wid == q.wid && r.res.isNone
  then match r.act, q.act with
    | .lanes a, .lanes b =>
      if (a.map fun x => x.1 / 8) == (a.map fun _ => (b.headD (0, 0)).1 / 8) then some { r with act := .lanes (a ++ b) } else none
    | .write a m, .write b n =>
      if (a.map fun x => x.1 / 8) == (a.map fun _ => (b.headD (0, 0, 0)).1 / 8) then some { r with act := .write (a ++ b) (m ++ n) }
      else none
    | _, _ => none
  else none

/-- A request among those under way: joined to an earlier one, or the last. -/
def addReq : List MeshReq → MeshReq → List MeshReq
  | [], q => [q]
  | r :: l, q => match r.join q with
    | some x => x :: l
    | none => r :: addReq l q

/-- The access of one lane of a gather or scatter: as `issueAct`, and joined to the lanes of its doubleword (R96, R289). -/
def State.issueLane (s : State) (l : Loc) (cls : BitVec 4) (a : MemAct) (dst : MemDst) (latch : Bool) : State :=
  if l.remote || s.iss.late then
    let m := addReq s.mesh { s.request l cls dst latch a with wid := some s.iss.pre.bundles }
    if m.length = s.mesh.length then { s with mesh := m }
    else { (s.modCur fun c => c.expect dst latch) with mesh := m }
  else s.issueAct l cls a dst latch

end Sys2Proof.Machine
end

