-- ==== Sys2Proof/Machine/Orrery.lean ====
section
/-! DEFINITION. Jobs, gangs and the end of a task: R175 to R177, R182, R184, R187, R189 to R193, R195 and R199. -/

namespace Sys2Proof.Machine

/-! ## Packet fields (R182) -/

def pktENTRY (p : BitVec 512) : Nat := bits p.toNat 0 48
def pktPRIO (p : BitVec 512) : Nat := bits p.toNat 48 3
def pktKIND (p : BitVec 512) : Nat := bits p.toNat 51 2
def pktV32 (p : BitVec 512) : Bool := bit p.toNat 53
def pktSEMS (p : BitVec 512) : Nat := bits p.toNat 54 6
def pktCBASE (p : BitVec 512) : Nat := bits p.toNat 64 48
def pktSHAPE (p : BitVec 512) : Nat := bits p.toNat 112 2
def pktCLIM (p : BitVec 512) : Nat := bits p.toNat 128 48
def pktW (p : BitVec 512) : Nat := bits p.toNat 192 10
def pktH (p : BitVec 512) : Nat := bits p.toNat 202 10
def pktINST (p : BitVec 512) : Nat := bits p.toNat 212 24
def pktCTKIND (p : BitVec 512) : Nat := bits p.toNat 236 2
def pktCTSEM (p : BitVec 512) : Nat := bits p.toNat 238 5
def pktPARAMS (p : BitVec 512) : Nat := bits p.toNat 256 48
def pktEXPECTED (p : BitVec 512) : Nat := bits p.toNat 320 32
def pktHEAP (p : BitVec 512) : Nat := bits p.toNat 352 4
def pktGRAIN (p : BitVec 512) : Nat := bits p.toNat 368 16
def pktRLO (p : BitVec 512) : Nat := bits p.toNat 384 32
def pktRHI (p : BitVec 512) : Nat := bits p.toNat 416 32
def pktPARENT (p : BitVec 512) : Nat := bits p.toNat 448 48

/-- Tasks of one gang instance (R179). -/
def pktSize (p : BitVec 512) : Nat := pktW p * pktH p

/-- The RZ bits of a packet are zero (R182). -/
def pktRzOk (p : BitVec 512) : Bool :=
  let x := p.toNat
  bits x 60 4 == 0 && bits x 114 14 == 0 && bits x 176 16 == 0 && bits x 243 13 == 0 && bits x 304 16 == 0 &&
  bits x 356 12 == 0 && bits x 496 16 == 0

/-- Code PACKET of R184 does not apply. -/
def pktOk (p : BitVec 512) : Bool :=
  pktRzOk p && decide (pktSHAPE p < 2) && pktKIND p != 3 && pktCTKIND p != 3 && pktINST p != 0 &&
  (if pktSHAPE p = 0 then decide (1 ≤ pktW p) && decide (pktW p ≤ 512) && pktH p == 1
   else decide (1 ≤ pktW p) && decide (pktW p ≤ 32) && decide (1 ≤ pktH p) && decide (pktH p ≤ 16)) &&
  decide (pktSize p ≤ 512) && decide (pktSEMS p ≤ 32) &&
  decide (pktCBASE p ≤ pktENTRY p) && decide (pktENTRY p < pktCLIM p) &&
  pktENTRY p % 4 == 0 && pktCBASE p % 4 == 0 && pktCLIM p % 4 == 0 && pktPARAMS p % 64 == 0 &&
  !(pktKIND p == 1 && decide (pktRHI p < pktRLO p))

/-! ## The grid (R178, R179) -/

/-- The tile at logical column x and row y. -/
def tileAtXY (x y : Nat) : Nat := (4 * (y / 8) + x / 8) * 64 + 8 * (y % 8) + x % 8

/-- Logical column and row of a tile. -/
def xyOf (t : Nat) : Nat × Nat :=
  let d := t / 64
  let k := t % 64
  (8 * (d % 4) + k % 8, 8 * (d / 4) + k / 8)

/-- The tiles of a placement by gang index, for the shape's origin (R179). -/
def placeTiles (p : BitVec 512) (x0 y0 : Nat) : List Nat :=
  if pktSHAPE p = 1 then
    (List.range (pktSize p)).map fun g => tileAtXY (x0 + g % pktW p) (y0 + g / pktW p)
  else
    let b := if pktW p ≤ 128 then 8 else 32
    (List.range (pktW p)).map fun g =>
      let row := g / b
      let k := g % b
      tileAtXY (x0 + if row % 2 = 0 then k else b - 1 - k) (y0 + row)

/-- The origins of a shape's placements in the order (y0, x0) (R179). -/
def origins (p : BitVec 512) : List (Nat × Nat) :=
  if pktSHAPE p = 1 then
    (List.range (17 - pktH p)).flatMap fun y => (List.range (33 - pktW p)).map fun x => (x, y)
  else
    let b := if pktW p ≤ 128 then 8 else 32
    let rows := (pktW p + b - 1) / b
    (List.range (17 - rows)).flatMap fun y => (List.range (32 / b)).map fun x => (x * b, y)

namespace State

/-- A tile in service for a partition (R179, R362). -/
def inService (s : State) (part t : Nat) : Bool :=
  let x := s.tileAt t
  !x.fenced && x.partid == some part

/-- A placement on the tiles in service exists (R180). -/
def shapeFits (s : State) (part : Nat) (p : BitVec 512) : Bool :=
  (origins p).any fun o => (placeTiles p o.1 o.2).all (s.inService part)

/-- Vector registers that resident contexts of a tile hold (R19). -/
def vregsUsed (s : State) (t : Nat) : Nat :=
  ((s.tileAt t).ctx.map fun o => match o with
    | none => 0
    | some c => if c.v32 then 32 else 16).sum

/-- Semaphores of a tile not allotted, lowest first (R177). -/
def freeSems (s : State) (t : Nat) : List Nat :=
  ((s.tileAt t).semGang.zipIdx.filter fun x => x.1.isNone).map (·.2)

/-- A free context slot of a tile (R341). -/
def freeSlot (s : State) (t : Nat) : Option Nat :=
  (((s.tileAt t).ctx.zipIdx.find? fun x => x.1.isNone)).map (·.2)

/-! ## Handles and control blocks (R187, R189) -/

/-- The job of a handle whose GEN is the block's. -/
def jobOf (s : State) (h : W64) : Option Job :=
  if bits h.toNat 15 1 ≠ 0 ∨ h.toNat / 2 ^ 48 ≠ 0 then none
  else (s.dieAt (bits h.toNat 12 3)).jobs.find? fun j =>
    j.slot == bits h.toNat 0 12 && j.gen.toNat == bits h.toNat 16 32

/-- The control block that a handle's DIE and SLOT name, whatever its GEN. -/
def blockOf (s : State) (h : W64) : Option Job :=
  if bits h.toNat 15 1 ≠ 0 ∨ h.toNat / 2 ^ 48 ≠ 0 then none
  else (s.dieAt (bits h.toNat 12 3)).jobs.find? fun j => j.slot == bits h.toNat 0 12

/-- The job of a handle changed. -/
def modJob (s : State) (h : W64) (f : Job → Job) : State :=
  s.modDie (bits h.toNat 12 3) fun d =>
    { d with jobs := d.jobs.map fun j =>
        if j.slot == bits h.toNat 0 12 && j.gen.toNat == bits h.toNat 16 32 then f j else j }

end State

/-- The handle of a control block (R189). -/
def handleOf (die : Nat) (j : Job) : W64 := BitVec.ofNat 64 (j.slot + die * 2 ^ 12 + j.gen.toNat * 2 ^ 16)

/-- A count added to P, or discarded with OVERPOST (R187). -/
def Job.post (j : Job) (n : Nat) : Job := if j.e < j.p + n then { j with overpost := true } else { j with p := j.p + n }

/-- The status code of a complete job (R189, R363). -/
def Job.status (j : Job) : Nat := if j.refused then 3 else if j.faulted then 4 else if j.overpost then 1 else 0

/-- A gang's member in a slot of a tile. -/
def Member.isAt (m : Member) (t slot : Nat) : Bool := m.tile == t && m.slot == some slot

/-- Every task of the gang has ended and no continuation is queued (R176). -/
def Gang.ended (g : Gang) : Bool := g.resumeQ.isEmpty && g.members.all fun m => m.slot.isNone && m.saved.isNone

/-- The instance is pre-empted: a task of it is off its tile and none is on one (R348). -/
def Gang.off (g : Gang) : Bool := (g.members.all fun m => m.slot.isNone) && g.members.any fun m => m.saved.isSome

/-- A gang instance that does not go on: its contexts off their tiles are stopped, and its continuations are gone. -/
def Gang.bar (g : Gang) : Gang :=
  { g with resumeQ := [], members := g.members.map fun m => { m with saved := m.saved.map fun c => { c with stopped := true } } }

/-- A context of the instance that is off its tile is stopped, so that the instance is not resumed (R336, R392, R400). -/
def Gang.isBarred (g : Gang) : Bool := g.members.any fun m => m.saved.any fun c => c.stopped

namespace State

/-- A gang instance changed. -/
def modGang (s : State) (id : Nat) (f : Gang → Gang) : State :=
  { s with gangs := s.gangs.map fun g => if g.id == id then f g else g }

/-- The semaphores of a gang freed on a tile (R176). -/
def freeGangSems (id : Nat) (x : Tile) : Tile :=
  { x with semGang := x.semGang.map fun o => if o == some id then none else o }

/-- A gang that is over is removed and frees its semaphores and tiles (R176). -/
def endGang (s : State) (id : Nat) : State :=
  match s.gangOf id with
  | none => s
  | some g =>
    if g.ended then
      { (g.members.foldl (fun s m => s.modTile m.tile (freeGangSems id)) s) with
        gangs := s.gangs.filter fun x => x.id != id }
    else s

/-- The context of a slot freed, its member's place in the gang kept (R176). -/
def freeCtx (s : State) (t slot : Nat) : State :=
  let id := (s.ctxAt t slot).gang
  ((s.modTile t fun x => { x with ctx := x.ctx.set slot none }).modGang id fun g =>
    { g with members := g.members.map fun m => if m.isAt t slot then { m with slot := none } else m })

/-- A task ends under TDONE or HALT (R187, R199). -/
def endTask (s : State) (t slot : Nat) : State :=
  let c := s.ctxAt t slot
  let s := if c.posted then s else s.modJob c.jobh fun j => j.post 1
  (s.freeCtx t slot).endGang c.gang

/-- A continuation record (R191). -/
def contRecord (c : Ctx) (pc : W64) : Nat :=
  pc.toNat % 2 ^ 48 + ofElems 8 (((c.s.drop 1).take 6).map (·.v.toNat)) * 2 ^ 64 + c.taskid.toNat * 2 ^ 448 +
  ofBools (((c.s.drop 1).take 6).map (·.p)) * 2 ^ 480

/-- A task leaves its context under SUSPEND, its record written at `key`, its local address `addr` (R191, R198). -/
def suspendTask (s : State) (t slot key addr : Nat) (pc : W64) : State :=
  let c := s.ctxAt t slot
  let s := s.storeDws key 8 (contRecord c pc) 0
  ((s.freeCtx t slot).modGang c.gang fun g =>
    { g with resumeQ := g.resumeQ ++ [{ tile := t, addr := addr, task := c.taskid, posted := c.posted, start := c.start }] }).endGang c.gang

end State

/-! ## Range jobs (R190) -/

/-- Length of an interval. -/
def ivLen (i : Nat × Nat) : Nat := i.2 - i.1

/-- The longest non-empty interval, the lowest start among equals. -/
def longest : List (Nat × Nat) → Option (Nat × Nat)
  | [] => none
  | i :: r =>
    if ivLen i = 0 then longest r
    else match longest r with
      | none => some i
      | some k => if ivLen k < ivLen i ∨ (ivLen k = ivLen i ∧ i.1 < k.1) then some i else some k

/-- The interval of a task. -/
def Job.ivOf (j : Job) (t : BitVec 32) : Nat × Nat := ((j.ivs.find? fun x => x.1 == t).map (·.2)).getD (0, 0)

/-- The interval of a task set. -/
def Job.setIv (j : Job) (t : BitVec 32) (i : Nat × Nat) : Job :=
  { j with ivs := (t, i) :: j.ivs.filter fun x => x.1 != t }

/-- An interval that equals `old` replaced, in the pool or at a task. -/
def Job.replaceIv (j : Job) (old new : Nat × Nat) : Job :=
  if j.pool = old then { j with pool := new }
  else { j with ivs := j.ivs.map fun x => if x.2 = old then (x.1, new) else x }

/-- The task's interval filled before a request is served (R190). -/
def Job.refill (j : Job) (t : BitVec 32) : Job :=
  if ivLen (j.ivOf t) ≠ 0 then j
  else
    let g := Nat.max (pktGRAIN j.pkt) 1
    match longest (j.pool :: j.ivs.map (·.2)) with
    | none => j
    | some i =>
      if ivLen i ≤ g then (j.replaceIv i (0, 0)).setIv t i
      else
        let m := i.1 + (ivLen i + 1) / 2
        (j.replaceIv i (i.1, m)).setIv t (m, i.2)

/-- RGET (R190): the answer and the job after it; (-1, -1) when nothing is left. -/
def Job.rget (j : Job) (t : BitVec 32) : (W64 × W64) × Job :=
  let j := j.refill t
  let i := j.ivOf t
  if ivLen i = 0 then ((BitVec.allOnes 64, BitVec.allOnes 64), j)
  else
    let hi := Nat.min (i.1 + Nat.max (pktGRAIN j.pkt) 1) i.2
    ((BitVec.ofNat 64 i.1, BitVec.ofNat 64 hi), j.setIv t (hi, i.2))

end Sys2Proof.Machine
end

