-- ==== Sys2Proof/Machine/Credit.lean ====
section
/-! DEFINITION. What the issue of a bundle counts: BUNDLES and REPLAYS (R353), the half-rate period (R352) and the monitor window
with the lifetime counters of the tile (R356, R358, R360). -/

namespace Sys2Proof.Machine

/-- The window has crossed its threshold (R356). -/
def Margin.crossed (m : Margin) : Bool := decide (16 * Nat.max 1 ((m.wB + 2 ^ 20 - 1) / 2 ^ 20) < m.wRp)

/-- The window has reached its end without a crossing (R356). -/
def Margin.ended (m : Margin) : Bool := decide (2 ^ 24 ≤ m.wB) && !m.crossed && !m.frozen

/-- A window starts again at zero. -/
def Margin.newWindow (m : Margin) : Margin := { m with wB := 0, wRp := 0, wInj := 0, frozen := false, answered := false }

/-- Issue is at half rate: a period has begun and fewer than 8 clean bundles have followed (R352). -/
def Margin.slow (m : Margin) : Bool := m.half && decide (m.clean < 8)

/-- Replays and recomputations of a tile counted, `inj` of them injected, with `b` committed bundles: in a window that has ended the
count starts again at zero, and a crossing freezes the window (R356, R358, R360). -/
def Margin.count (m : Margin) (b n inj : Nat) : Margin :=
  let m := if m.ended then m.newWindow else m
  let m := if m.frozen || m.crossed then m else { m with wB := m.wB + b, wRp := m.wRp + n, wInj := m.wInj + inj }
  { m with bund := m.bund + BitVec.ofNat 64 b, repl := m.repl + BitVec.ofNat 64 n, run := if n = 0 then m.run + b else 0 }

/-- A bundle that committed at its first issue counts toward the end of the half-rate period (R352). -/
def Margin.clean1 (m : Margin) : Margin := if m.half then { m with clean := m.clean + 1 } else m

/-- An operation of the matrix engine is done: its next one starts with its first computation (R24, R351). -/
def State.engReset (s : State) (t : Nat) : State :=
  s.modTile t fun x => { x with margin := { x.margin with engDet := 0 } }

/-- A bundle is credited (R353): at its commit, or at its trap, which is no committed bundle of the window. -/
def State.credit (s : State) (t slot : Nat) (commits : Bool) : State :=
  let c := s.ctxAt t slot
  let n := c.issueNo - 1
  (s.modCtx t slot fun c =>
      { c with bundles := c.bundles + 1, replays := c.replays + BitVec.ofNat 64 n, issueNo := 1, detections := 0, injDet := 0 }).modTile
    t fun x =>
      let m := x.margin.count (if commits then 1 else 0) n c.injDet
      { x with margin := if commits && n == 0 then m.clean1 else m, seen := if commits then some s.time else x.seen }

end Sys2Proof.Machine
end

