-- ==== Sys2Proof/Machine/Engines.lean ====
section
/-! DEFINITION. What the four engines of a tile share: the view of their own writes, the checks of their accesses (R159, R242,
R317), signals, event bits and handler sources (R81, R160, R203, R321), and CRC-32C (R322). Engines 0 and 1 are the Burin
engines, 2 the link engine, 3 the matrix engine. -/

namespace Sys2Proof.Machine

/-- Where an access of an engine goes. -/
inductive EngLoc where
  | ok (l : Loc)
  /-- outside its space, or a store to a read-only region -/
  | access
  /-- through an entry that does not serve it -/
  | stall
  deriving DecidableEq, Repr

/-- Doublewords that a queued write touches. -/
def PortW.dws (w : PortW) : List Nat := w.pieces.map fun p => p.1 / 8

namespace State

/-- An engine's access through the region map of tile `h`, on behalf of the context in a slot of tile `t`; a fenced tile serves none
(R364). -/
def engRegion (s : State) (slot h : Nat) (c : Ctx) (remote : Bool) (off : Nat) (store : Bool) : EngLoc :=
  let x := s.tileAt h
  let e := x.entry off
  if !s.reachable h || !(if remote then servesGang e else servesCtx x slot c e) then .stall
  else if store && entRO e then .access
  else .ok { home := h, remote := remote, key := spKey h (physSp e off), entry := e, acc := false }

/-- An engine's access of `n` bytes at a local address for a context, in a slot of the tile or off it: `window` and `acc` tell whether
the gang window and the accumulator store belong to its space (R29, R152, R313). -/
def engAt (s : State) (t slot : Nat) (c : Ctx) (a n : Nat) (store window acc : Bool) : EngLoc :=
  if a < 0x800000 then
    if 0x800000 < a + n then .access else s.engRegion slot t c false a store
  else if acc && decide (a < 0xB00000) then
    if 0xB00000 < a + n then .access
    else .ok { home := t, remote := false, key := accKey t (a - 0x800000), entry := 0, acc := true }
  else if window && decide (gangBase ≤ a) then
    let g := (a - gangBase) / 2 ^ 23
    let off := (a - gangBase) % 2 ^ 23
    if c.gangsize ≤ g || decide (2 ^ 23 < off + n) then .access
    else if g = c.gangidx then s.engRegion slot t c false off store
    else match s.memberTile c g with
      | none => .access
      | some h => s.engRegion slot h c true off store
  else .access

/-- An engine's access for the context in a slot of its tile. -/
def engLoc (s : State) (t slot a n : Nat) (store window acc : Bool) : EngLoc :=
  s.engAt t slot (s.ctxAt t slot) a n store window acc

/-- The memory as an engine reads it for a context: with the engine's writes for the same context that are complete and not yet
applied (R290). -/
def seen (s : State) (t e : Nat) (own : Option (Nat × BitVec 32)) : State :=
  (s.portE.filter fun w => w.src == t && w.eng == e && w.own == own).foldl (fun s w => s.storeAll w.pieces w.marks) s

/-- Some of these doublewords has a write of an earlier command of another context of an engine queued at its bank: the engine's command
must observe it, and no agent sees a write before it is applied (R148, R290). -/
def unapplied (s : State) (t e : Nat) (own : Option (Nat × BitVec 32)) (ds : List Nat) : Bool :=
  s.portE.any fun w => w.src == t && w.eng == e && w.own != own && w.dws.any fun d => ds.contains d

/-- The context in a slot of a tile, by its gang and TASKID. -/
def ownerAt (s : State) (t slot : Nat) : Option (Nat × BitVec 32) := (s.ctx? t slot).map fun c => (c.gang, c.taskid)

/-- A write queued at its bank by engine `e` of a tile for a command of a context, whose tag and bank mask `c` gives (R244, R301). -/
def queueFor (s : State) (home t e : Nat) (own : Option (Nat × BitVec 32)) (c : BitVec 32 × Nat) (pieces : List (Nat × Nat × Nat))
    (marks : List Bool) : State :=
  if pieces.isEmpty then s
  else { s with portE := s.portE ++
    [{ home := home, src := t, eng := e, pieces := pieces, marks := marks, own := own, cmd := c.1, banks := c.2 }] }

/-- The context whose command leads the queue of the matrix engine. -/
def matrixOwner (s : State) (t : Nat) : Option (Nat × BitVec 32) :=
  match (s.tileAt t).mq.head? with
  | none => none
  | some m => s.ownerAt t m.slot

/-- A write queued at its bank by the matrix engine of a tile for the command that leads its queue (R301): those of the commands that
reserve banks go to the accumulator store (R244). -/
def queueW (s : State) (home t e : Nat) (pieces : List (Nat × Nat × Nat)) (marks : List Bool) : State :=
  s.queueFor home t e (s.matrixOwner t) (0, 0) pieces marks

/-- SIG of an engine or of SIG itself: sent to the member's tile, or discarded when the semaphore lies outside the member's
allotment (R177, R203). -/
def sendSig (s : State) (gang member sem n : Nat) : State :=
  match s.gangOf gang with
  | none => s
  | some g => match g.members[member]? with
    | none => s
    | some m => match m.sems[sem]? with
      | none => s
      | some k => { s with sigs := s.sigs ++ [{ tile := m.tile, sem := k, gang := gang, n := n }] }

/-- An event bit of a context set (R81): 0 SEM, 1 B0, 2 B1, 3 MTX, 4 LINK, 5 HEAP. -/
def setEvent (s : State) (t slot i : Nat) : State :=
  s.modCtx t slot fun c => { c with events := c.events ||| BitVec.ofNat 6 (2 ^ i) }

/-- A handler source of a context set (R26): 0 PB0, 1 PB1, 2 PMTX, 3 PLINK. -/
def setPend (s : State) (t slot i : Nat) : State :=
  s.modCtx t slot fun c => { c with chPend := c.chPend ||| BitVec.ofNat 4 (2 ^ i) }

/-- An asynchronous trap posted to a context (R159, R286, R336). -/
def postTrap (s : State) (t slot cause : Nat) (addr : W64) : State :=
  s.modCtx t slot fun c => { c with asyncTraps := c.asyncTraps ++ [(cause, addr)] }

/-- The slot of the task that issued a link command, while it is on its tile (R343). -/
def linkSlot (s : State) (t : Nat) (m : LCmd) : Option Nat :=
  ((s.tileAt t).ctx.zipIdx.find? fun o => match o.1 with
    | some c => c.gang == m.gang && c.taskid == m.task
    | none => false).map (·.2)

/-- The context of a link command: its slot, or none of the 8, and its state there or in its member's record (R343, R381). -/
def linkAt (s : State) (t : Nat) (m : LCmd) : Option (Nat × Ctx) :=
  match s.linkSlot t m with
  | some k => some (k, s.ctxAt t k)
  | none => match s.gangOf m.gang with
    | none => none
    | some g => g.members.findSome? fun y => match y.saved with
      | none => none
      | some c => if y.tile = t ∧ c.taskid = m.task then some (8, c) else none

/-- The context of a link command changed, on its tile or off it. -/
def modTask (s : State) (t : Nat) (m : LCmd) (f : Ctx → Ctx) : State :=
  match s.linkSlot t m with
  | some k => s.modCtx t k f
  | none => s.modGang m.gang fun g => { g with members := g.members.map fun y =>
      if y.tile = t then { y with saved := y.saved.map fun c => if c.taskid = m.task then f c else c } else y }

/-- A matrix, Burin or link command of the context is incomplete (R80, R162, R198). -/
def engineBusy (s : State) (t slot : Nat) : Bool :=
  let x := s.tileAt t
  let c := s.ctxAt t slot
  (x.mq.any fun m => m.slot == slot && m.err != 4) ||
  (x.burin.any fun b => b.q.any fun m => m.slot == slot) ||
  (x.link.q.any fun m => m.gang == c.gang && m.task == c.taskid)

end State

/-! ## CRC-32C (R322) -/

/-- One bit of CrcByte. -/
def crcBit (r : BitVec 32) : BitVec 32 := if r.getLsbD 0 then (r >>> 1) ^^^ 0x82F63B78 else r >>> 1

/-- CrcByte. -/
def crcByte (r : BitVec 32) (x : Nat) : BitVec 32 :=
  let r := r ^^^ BitVec.ofNat 32 (x % 256)
  crcBit (crcBit (crcBit (crcBit (crcBit (crcBit (crcBit (crcBit r)))))))

/-- The running value after the `n` lowest bytes of `x`. -/
def crcBytes : Nat → Nat → BitVec 32 → BitVec 32
  | 0, _, r => r
  | n + 1, x, r => crcBytes n (x / 256) (crcByte r x)

/-- CRCMODE with its starting rule: the running register before the first byte of a command (R322). -/
def crcStart (mode : Nat) (seed : Nat) (reg : BitVec 32) : BitVec 32 := if mode = 1 then BitVec.ofNat 32 seed else reg

/-! ## Descriptors read at issue (R161, R240) -/

/-- The lowest poisoned doubleword among `n` from a key, as an offset. -/
def firstPoison (s : State) (key : Nat) : Nat → Option Nat
  | 0 => none
  | n + 1 => match firstPoison s key n with
    | some o => some o
    | none => if s.poisoned (key + 8 * n) then some (8 * n) else none

/-- A descriptor of `n` bytes read by the word in issue as one aligned load of its context: its value, or the trap (R90, R240),
and the state after the read. `noAcc` makes an accumulator address raise ACCESS. -/
def readDesc (s : State) (a : SVal) (n : Nat) (noAcc : Bool) : Except (Nat × Nat) Nat × State :=
  match s.check a.p a.v.toNat n n false noAcc false with
  | .error e => (.error e, s)
  | .ok l =>
    let r := s.sramReads (dwsOf l.key n)
    match firstPoison r.1 l.key (n / 8) with
    | some o => (.error (cPOISON, a.v.toNat + o), r.2)
    | none => (.ok (r.1.rd l.key n), r.2)

/-- A doubleword of a value. -/
def dwOf (x i : Nat) : Nat := bits x (64 * i) 64

end Sys2Proof.Machine
end

