-- ==== Sys2Proof/Machine/Bundle.lean ====
section
/-! DEFINITION. How a word runs in its bundle and how the bundle commits, traps, waits or ends its task: R22, R23, R44 to
R46, R48, R80 to R82, R333, R334, R340 and R341. -/

namespace Sys2Proof.Machine

/-- What a word's meaning answers. -/
inductive WordRes where
  /-- the word is complete -/
  | ok (s : State)
  /-- the word traps at step 7 of R48; the state holds what it performed (R96) -/
  | trap (cause : Nat) (faddr : Nat) (s : State)
  /-- TRAP or BRK (R80) -/
  | brk (cause : Nat) (faddr : Nat) (s : State)
  /-- the word waits -/
  | wait (k : WaitKind) (s : State)
  /-- HALT, TDONE or SUSPEND (R80) -/
  | ends (s : State)
  /-- the tile holds the bundle, which presents itself again (R22) -/
  | hold
  deriving DecidableEq

/-- The first word of a bundle takes the context as it stands as the bundle's sources (R22), and a resumption's record of
what is complete (R340). -/
def State.openBundle (s : State) : State :=
  if s.iss.pos = 0 then
    let c := s.cur
    let s := s.modCur fun c => { c with resume := none, newFlags := 0, newPoison := false, newPwoob := false }
    s.modIss fun x =>
      { x with
        pre := c, preRaf := (s.tileAt x.tile).raflags, done := (c.resume.map (·.done)).getD 0, npc := c.resume.bind (·.npc),
        lmask := (c.resume.map (·.lmask)).getD 0, trap := none, brk := none, waits := [], ending := none,
        switch := false, early := false, ret := 0 }
  else s

/-- The predicate block after a bundle commits without a taken transfer (R44, R45). -/
def Ctx.nextGuard (c : Ctx) (ws : List Instr) : Ctx :=
  match ws.find? isPblk with
  | some (.pblk f) => { c with gcount := f.n.toNat + 1, gmask := f.m, gpred := f.p }
  | _ => if 0 < c.gcount then { c with gcount := c.gcount - 1, gmask := c.gmask >>> 1 } else c

/-- The address after the bundle's last word (R35, R78). -/
def linkOf (pc : W64) (ws : List Instr) : W64 := pc + BitVec.ofNat 64 (4 * ws.length)

/-- The registers, the latches and the predicate-block state that CRET restores (R82). -/
def Ctx.handlerRestore (c : Ctx) : Ctx :=
  { c with
    s := c.s.take 24 ++ c.hsS, p := c.p.take 1 ++ (c.hsP ++ c.p.drop 4), lat := c.hsLat, gcount := c.hsG.1,
    gmask := c.hsG.2.1, gpred := c.hsG.2.2, chActive := false }

/-- CRET of R82. -/
def Ctx.handlerReturn (c : Ctx) : Ctx :=
  { c with
    s := c.s.take 24 ++ c.hsS, p := c.p.take 1 ++ (c.hsP ++ c.p.drop 4), lat := c.hsLat, gcount := c.hsG.1,
    gmask := c.hsG.2.1, gpred := c.hsG.2.2, chActive := false, pc := c.hsPc,
    resume := c.hsResume, hsResume := none, issueNo := c.hsIssue.1, detections := c.hsIssue.2.1, injDet := c.hsIssue.2.2.1,
    firstHalf := c.hsIssue.2.2.2 }

/-- The commit of a bundle whose CRET was complete before a trap of the bundle (R333, R340): the group that it restored goes on. -/
def Ctx.handlerResumed (c : Ctx) : Ctx :=
  { c with
    lat := c.hsLat, gcount := c.hsG.1, gmask := c.hsG.2.1, gpred := c.hsG.2.2, resume := c.hsResume, hsResume := none,
    issueNo := c.hsIssue.1, detections := c.hsIssue.2.1, injDet := c.hsIssue.2.2.1, firstHalf := c.hsIssue.2.2.2 }

/-- The context after its bundle commits (R23, R35, R45, R46, R341), XRET and CRET apart. -/
def Ctx.commit (c : Ctx) (h : Held) : Ctx :=
  let c := { c with held := none, afterXret := false }
  match h.npc with
  | some a =>
    { c with pc := a, lat := List.replicate 8 .empty, gcount := 0, gmask := 0, gpred := 0, pendL := false }
  | none =>
    let c := c.nextGuard h.words
    { c with pc := linkOf c.pc h.words,
             lat := if h.switch then List.replicate 8 .empty else c.lat,
             pendL := c.pendL && !h.switch }

/-- The regions that a context has handed off become unreachable to it (R193). -/
def Tile.handOver (slot : Nat) (x : Tile) : Tile :=
  { x with rmap := x.handoffs.foldl (fun m h =>
      updAt (fun e => if entOWNER e == slot then entSet e 60 true else e) h.1 m) x.rmap }

/-- The bits of a region-map entry that a write sets (R241). -/
def rmapRW : W64 := 0xE7FE0FF00000007F

/-- An entry of the region map written through RMAPDATA (R241). -/
def Tile.mapSet (x : Tile) (w : Nat × W64) : Tile :=
  { x with rmap := updAt (fun e => (e &&& 0x1800000000000000) ||| (w.2 &&& rmapRW)) w.1 x.rmap }

/-- The RMAPDATA writes of a bundle come into force for the next one (R243). -/
def State.mapWrites (s : State) (t slot : Nat) : State :=
  match (s.ctxAt t slot).mapNew with
  | [] => s
  | l => (s.modTile t fun x => l.foldl Tile.mapSet x).modCtx t slot fun c => { c with mapNew := [] }

/-- XRET reads its record and returns by it (R237, R340, R371). -/
def State.xret (s : State) (t slot : Nat) : State :=
  let r := if saveAreaOk (s.tileAt t) slot (s.ctxAt t slot) then
    s.sramReads (dwsOf (proofKey t (s.tileAt t) (s.ctxAt t slot) 0) 0x1400) else (s, s)
  r.2.returnFrom r.1 t slot

/-- A bundle commits (R23, R353). -/
def State.commitBundle (s : State) (t slot : Nat) (h : Held) : State :=
  let s := ((((s.credit t slot true).modCtx t slot fun c => c.commit h).modTile t (Tile.handOver slot)).dropLatch t slot).mapWrites t slot
  if h.ret = 1 then s.xret t slot
  else if h.ret = 2 then s.modCtx t slot Ctx.handlerReturn
  else if h.ret = 3 then s.modCtx t slot Ctx.handlerResumed
  else s

/-- Whether a word is SUSPEND, with its operand field (R198). -/
def isSuspend : Instr → Bool
  | .suspend _ => true
  | _ => false

/-- CRET (R82). -/
def isCret : Instr → Bool
  | .cret => true
  | _ => false

/-- The trap of a held bundle is entered (R335); words that were not fetched have no place in the snapshot (DEDUCED, log 35). -/
def State.enterHeld (s : State) (t slot : Nat) (h : Held) (tr : Trap) : State :=
  ((s.mapWrites t slot).takeTrap t slot tr h.done h.npc h.lmask h.snap).modCtx t slot fun c => { c with known := h.known }

/-- The ending word acts (R80, R198, R199): SUSPEND when the bundle holds one, otherwise the end of the task. -/
def State.endBundle (s : State) (t slot : Nat) (h : Held) : State :=
  let c := s.ctxAt t slot
  let s1 := ((s.credit t slot true).modTile t (Tile.handOver slot)).mapWrites t slot
  match posOf isSuspend h.words 0 with
  | some p =>
    let a := (h.snap.sc.getD (4 * p) {}).v.toNat
    match s.locate t slot c a 64 true with
    | .ok l => s1.suspendTask t slot l.key a (linkOf c.pc h.words)
    | .error x =>
      (s.credit t slot false).enterHeld t slot h { cause := x.1, word := p, second := false, faddr := BitVec.ofNat 64 x.2 }
  | none => s1.endTask t slot

/-- An ending word may act: no command and no result of the context is under way (R80, R188, R198). -/
def State.mayEnd (s : State) (t slot : Nat) : Bool :=
  let c := s.ctxAt t slot
  !s.engineBusy t slot && !c.pending && !s.mesh.any fun m => m.tile == t && m.slot == slot && m.res.isNone

/-- Debug covers a partition: every one of an open device, those that the token names of one in secure-debug (R404). -/
def State.debugCovers (s : State) (part : Option Nat) : Bool :=
  s.security == 0 || match part with
    | some p => s.token.contains p
    | none => false

/-- Invasive debug covers the tile: the debug port takes its BRK (R80, R404). -/
def State.debugTakes (s : State) (t : Nat) : Bool :=
  s.debug == .invasive && s.debugCovers (s.tileAt t).partid

/-- A held bundle goes on as far as it can: once no word of it waits, the trap is entered when every result has arrived, TRAP and BRK
act, the ending word acts when nothing is under way, and otherwise the bundle commits (R80, R334). Where only its waits and the hold of its
ending word had begun, the rest of it issues once these are over (R23, R162, R198). -/
def State.settle (s : State) (t slot : Nat) (h : Held) : State :=
  let c := s.ctxAt t slot
  let keep := s.modCtx t slot fun c => { c with held := some h }
  if !h.waits.isEmpty then keep
  else match h.trap with
  | some tr => if c.pending then keep else (s.credit t slot false).enterHeld t slot h tr
  | none =>
    if h.todo then
      if h.ending.isSome && !s.mayEnd t slot then keep
      else s.modCtx t slot fun c =>
        { c with held := none, resume := some { done := h.done, snap := h.snap, lmask := h.lmask, npc := h.npc, known := h.known } }
    else match h.brk with
      | some tr =>
        if c.pending then keep
        else if tr.cause == cBRK && s.debugTakes t then
          let s := s.modTile t fun x => { x with debugStop := true }
          if h.ending.isSome then s.modCtx t slot fun c => { c with held := some { h with brk := none } }
          else s.commitBundle t slot { h with brk := none }
        else (s.credit t slot false).enterHeld t slot h tr
      | none => match h.ending with
        | some _ => if s.mayEnd t slot then s.endBundle t slot h else keep
        | none => s.commitBundle t slot h

/-- A bit of a set of words cleared. -/
def dropBit (d : Nat) : Option Nat → Nat
  | none => d
  | some k => if bit d k then d - 2 ^ k else d

/-- TRAP and BRK, which act after every other word of the bundle has completed (R80), are incomplete when another word traps
(DEDUCED, log 13). -/
def Issue.doneBits (x : Issue) : Nat := if x.trap.isNone then x.done else dropBit x.done (x.brk.map (·.word))

/-- Every word of the bundle has run. A CRET is complete though another word traps: the registers, the latches and the predicate-block
state are restored, and the interrupted bundle's address is the next PC (R82, R333). -/
def State.finishBundle (s : State) (ws : List Instr) : State :=
  let x := s.iss
  let done := x.doneBits
  let cret := x.trap.isSome && x.ret == 2
  let s := if cret then s.modCtx x.tile x.slot Ctx.handlerRestore else s
  s.settle x.tile x.slot
    { words := ws, done := done, npc := if cret then some x.pre.hsPc else x.npc, waits := x.waits,
      ending := x.ending, trap := x.trap, brk := x.brk, snap := snapOf x.pre ws done, lmask := x.lmask, switch := x.switch,
      ret := if cret then 0 else x.ret }

/-- The answer of a word taken into the bundle's record (R333). -/
def State.record (s : State) (r : WordRes) : State :=
  let p := s.iss.pos
  match r with
  | .ok s => s.modIss fun x => { x with done := x.done ||| 2 ^ p }
  | .trap c a s => s.modIss fun x =>
      { x with trap := x.trap.or (some { cause := c, word := p, second := false, faddr := BitVec.ofNat 64 a }) }
  | .brk c a s => s.modIss fun x =>
      { x with done := x.done ||| 2 ^ p, brk := some { cause := c, word := p, second := false, faddr := BitVec.ofNat 64 a } }
  | .wait k s => s.modIss fun x => { x with waits := x.waits ++ [(p, k)] }
  | .ends s => s.modIss fun x => { x with ending := some p }
  | .hold => s

/-- The next word of the bundle, or the bundle's end. -/
def State.closeWord (s : State) (ws : List Instr) : State :=
  if s.iss.pos + 1 < ws.length then s.modIss fun x => { x with pos := x.pos + 1 } else s.finishBundle ws

/-- SWAIT, CWAIT, MWAIT or JWAIT, whose completion is a context switch (R341). -/
def isSwitch : Instr → Bool
  | .swait _ => true
  | .cwait _ => true
  | .mwait _ => true
  | .jwait _ => true
  | _ => false

/-- A word that was complete before the bundle resumed (R340): what it leaves for the commit, a context switch (R341) or the return of a
completion handler (R82). -/
def State.skipDone (s : State) (i : Instr) : State :=
  if isSwitch i && s.iss.pre.guardRuns then s.modIss fun x => { x with switch := true }
  else if isCret i && s.iss.pre.guardRuns then s.modIss fun x => { x with ret := 3 }
  else s

/-- A check of steps 5 and 6 of R48 fails: no word of the bundle executes. -/
def State.earlyTrap (s : State) (cause : Nat) : State :=
  s.modIss fun x =>
    { x with early := true, trap := x.trap.or (some { cause := cause, word := x.pos, second := false, faddr := 0 }) }

/-- A word runs in its bundle: skipped when it is complete (R340), checked (R48), suppressed by a false guard (R45), or
performed by its meaning `eff`. -/
def runWord (i : Instr) (eff : State → WordRes) (s0 : State) : Host.Outcome State Fault Refusal :=
  let s := s0.openBundle
  let c := s.iss.pre
  let ws := s.words i
  let v := viewOf i
  if s.iss.early then .next (s.closeWord ws)
  else if bit s.iss.done s.iss.pos then .next ((s.skipDone i).closeWord ws)
  else match wordCheck c (limmOf ws) i with
    | some k => .next ((s.earlyTrap k).closeWord ws)
    | none =>
      if v.cls != 6 && !v.lane && !c.guardRuns then .next ((s.record (.ok s)).closeWord ws)
      else match (if (c.resume.map (·.done)).getD 0 = 0 then issueCheck c.lat i else none) with
        | some k => .next ((s.earlyTrap k).closeWord ws)
        | none => match eff s with
          | .hold => .next s0
          | r => .next ((s.record r).closeWord ws)

end Sys2Proof.Machine
end

