-- ==== Sys2Proof/Machine/Digest.lean ====
section
/-! DEFINITION. SHA-256 of FIPS 180-4 and H(a, b) of the twin-run digest (R391). -/

namespace Sys2Proof.Machine

/-- The greatest number below `2 ^ n` above `r` whose power `k` does not exceed `x`, bit by bit. -/
def rootFrom (k x : Nat) : Nat → Nat → Nat
  | 0, r => r
  | n + 1, r => rootFrom k x n (if (r + 2 ^ n) ^ k ≤ x then r + 2 ^ n else r)

/-- The first 32 fractional bits of the root `k` of a number below 512. -/
def rootBits (k p : Nat) : BitVec 32 := BitVec.ofNat 32 (rootFrom k (p * 2 ^ (32 * k)) 42 0)

/-- The primes up to 311, 64 of them. -/
def shaPrimes : List Nat := ((List.range 310).map (· + 2)).filter fun p => (List.range p).all fun d => d < 2 || p % d != 0

/-- The round constants: fractions of cube roots (FIPS 180-4, 4.2.2). -/
def shaRounds : List (BitVec 32) := shaPrimes.map (rootBits 3)

/-- The two halves of a hash value, four words each: a to d and e to h. -/
abbrev ShaVal := List (BitVec 32) × List (BitVec 32)

/-- The initial value: fractions of square roots (FIPS 180-4, 5.3.3). -/
def shaStart : ShaVal :=
  let l := (shaPrimes.take 8).map (rootBits 2)
  (l.take 4, l.drop 4)

/-- The exclusive or of some rotations of a word. -/
def spun (l : List Nat) (x : BitVec 32) : BitVec 32 := l.foldl (fun y r => y ^^^ x.rotateRight r) 0

/-- The word that follows a window of 16 message words, oldest first. -/
def shaNext (win : List (BitVec 32)) : BitVec 32 :=
  let old := win.getD 1 0
  let late := win.getD 14 0
  win.getD 0 0 + win.getD 9 0 + (spun [7, 18] old ^^^ old >>> 3) + (spun [17, 19] late ^^^ late >>> 10)

/-- One round, from the sum of its constant and its message word. -/
def shaStep (v : ShaVal) (kw : BitVec 32) : ShaVal :=
  let a := v.1.getD 0 0
  let e := v.2.getD 0 0
  let pick := v.2.getD 2 0 ^^^ (e &&& (v.2.getD 1 0 ^^^ v.2.getD 2 0))
  let most := (a &&& (v.1.getD 1 0 ||| v.1.getD 2 0)) ||| (v.1.getD 1 0 &&& v.1.getD 2 0)
  let t := kw + v.2.getD 3 0 + pick + spun [6, 11, 25] e
  ((t + most + spun [2, 13, 22] a) :: v.1.take 3, (v.1.getD 3 0 + t) :: v.2.take 3)

/-- The rounds over some constants, with the window of message words that moves on with them. -/
def shaRun : List (BitVec 32) → List (BitVec 32) → ShaVal → ShaVal
  | [], _, v => v
  | k :: ks, win, v => shaRun ks (win.drop 1 ++ [shaNext win]) (shaStep v (k + win.getD 0 0))

/-- Message words, from bytes with the most significant first. -/
def shaWords : List Nat → List (BitVec 32)
  | a :: b :: c :: d :: r => BitVec.ofNat 32 (a * 2 ^ 24 + b * 2 ^ 16 + c * 2 ^ 8 + d) :: shaWords r
  | _ => []

/-- `n` blocks of 16 words, each added to the value before it. -/
def shaBlocks : Nat → List (BitVec 32) → ShaVal → ShaVal
  | 0, _, v => v
  | n + 1, l, v =>
    let x := shaRun shaRounds (l.take 16) v
    shaBlocks n (l.drop 16) (v.1.zipWith (· + ·) x.1, v.2.zipWith (· + ·) x.2)

/-- What pads a message of `n` bytes to whole blocks: a one bit, zeros and the number of bits (FIPS 180-4, 5.1.1). -/
def shaTail (n : Nat) : List Nat :=
  let len := (List.range 8).map fun i => bits (8 * n) (56 - 8 * i) 8
  (0x80 :: List.replicate ((119 - n % 64) % 64) 0) ++ len

/-- SHA-256 of some bytes, as eight words. -/
def sha256 (l : List Nat) : List (BitVec 32) :=
  let ws := shaWords (l ++ shaTail l.length)
  let v := shaBlocks (ws.length / 16) ws shaStart
  v.1 ++ v.2

/-- The `n` lowest bytes of a number, first byte lowest. -/
def leBytes : Nat → Nat → List Nat
  | 0, _ => []
  | n + 1, x => x % 256 :: leBytes n (x / 256)

/-- The bytes of a word of the digest, most significant first. -/
def beBytes (x : BitVec 32) : List Nat := (leBytes 4 x.toNat).reverse

/-- H(a, b) of R391: the first 8 bytes of the hash, read little-endian; `b` is given as `n` bytes of a number. -/
def twinH (a n b : Nat) : W64 :=
  let d := (sha256 (leBytes 8 a ++ leBytes n b)).take 2
  BitVec.ofNat 64 (ofElems 1 (d.flatMap beBytes))

/-- A contribution of a partition to its window digest (R391). -/
def State.contribute (s : State) (p a n b : Nat) : State :=
  s.modPart p fun x => match x.twin with
    | some tw => { x with twin := some { tw with digest := tw.digest + twinH a n b } }
    | none => x

end Sys2Proof.Machine
end

