-- ==== Sys2Proof/Machine/Hbm.lean ====
section
/-! DEFINITION. Main memory: the address hash (R248 to R251), sealed plates with their groups and counters (R271 to R287),
translation (R265 to R269) and the schedulers of a stack (R252 to R263). Plates are held in plaintext: sealing shows only in
what a check answers (DEDUCED, log 3). -/

namespace Sys2Proof.Machine

/-! ## Physical addresses and the address hash (R248 to R250) -/

/-- The stack of a physical address and the offset within it. -/
def stkOf (pa : Nat) : Nat := bits pa 36 3
def stkOff (pa : Nat) : Nat := pa % 2 ^ 36

/-- A physical address in metadata (R248). -/
def inMeta (pa : Nat) : Bool := decide (0xFE0000000 ≤ stkOff pa)

/-- Parity of the low 22 bits. -/
def parity (x : Nat) : Nat := (List.range 22).foldl (fun p i => (p + bits x i 1) % 2) 0

/-- UPPER of bit j of a hash set; set 0 is fixed (R250). -/
def hashUpper (k : Stack) (set j : Nat) : Nat :=
  if set = 0 then 2 ^ j else ((k.hmsk.getD (set - 1) []).getD j 0).toNat

/-- What a hash set adds to the granule index of the 16 KiB block that holds an offset. -/
def permOf (k : Stack) (set off : Nat) : Nat :=
  ((List.range 6).map fun j => parity (hashUpper k set j &&& (off / 2 ^ 14)) * 2 ^ j).sum

/-- The pseudo-channel of an offset (R250). -/
def pcOf (k : Stack) (set off : Nat) : Nat := bits off 8 6 ^^^ permOf k set off

/-- The local address of an offset within its pseudo-channel (R250). -/
def localAddr (off : Nat) : Nat := off / 2 ^ 14 * 2 ^ 8 + off % 2 ^ 8

namespace State

/-- Stack `n`. -/
def stackAt (s : State) (n : Nat) : Stack := s.hbm.getD n {}

/-- Stack `n` changed. -/
def modStack (s : State) (n : Nat) (f : Stack → Stack) : State := { s with hbm := updAt f n s.hbm }

end State

/-! ## Plates, groups and counters (R271 to R276, R279, R283, R285)

The counter blocks and tags stand in the metadata of their stack (R273); the model keeps their contents by the number of the plate, group
or node. -/

/-- Physical address of a plate's tag (R273). -/
def tagAddr (pa : Nat) : Nat := stkOf pa * 2 ^ 36 + 0xFE0000000 + stkOff pa / 2 ^ 12 * 16

/-- Physical addresses of the leaf and the node counter block of a plate (R273). -/
def leafPa (pa : Nat) : Nat := stkOf pa * 2 ^ 36 + 0xFF0000000 + stkOff pa / 2 ^ 18 * 256
def nodePa (pa : Nat) : Nat := stkOf pa * 2 ^ 36 + 0xFF4000000 + stkOff pa / 2 ^ 24 * 256

/-- The counter blocks of a plate. -/
def ctrBlocks (pa : Nat) : List Nat := [leafPa pa, nodePa pa]

/-- The IV of a plate under its group's major and its own minor (R272). -/
def plateIv (pa major minor : Nat) : BitVec 96 := BitVec.ofNat 96 (pa / 2 ^ 12 * 2 ^ 69 + major * 2 ^ 29 + minor * 2 ^ 13)

/-- The IV of a counter block's MAC under its parent's major and its minor there (R274). -/
def blockIv (pa major minor : Nat) : BitVec 96 := BitVec.ofNat 96 (pa / 2 ^ 8 * 2 ^ 65 + major * 2 ^ 25 + minor * 2 ^ 9 + 0x1FF)

/-- The granted span of a physical address. -/
def Stack.span? (k : Stack) (pa : Nat) : Option Span := k.spans.find? fun x => x.idx == stkOff pa / 2 ^ 29

/-- A counter block of a list; one that is not listed is as a fresh grant leaves it (R276). -/
def blockIn (l : List (Nat × CBlock)) (i : Nat) (fresh : CBlock) : CBlock := ((l.find? fun x => x.1 == i).map (·.2)).getD fresh

/-- A counter block written, the list kept rising. -/
def putBlock (l : List (Nat × CBlock)) (i : Nat) (b : CBlock) : List (Nat × CBlock) :=
  l.filter (fun x => decide (x.1 < i)) ++ ((i, b) :: l.filter fun x => decide (i < x.1))

/-- The leaf block of a group as its grant leaves it (R276). -/
def freshLeaf (pa : Nat) : Option Span → CBlock
  | none => {}
  | some x => { key := x.key, kno := x.kno, mac := { key := x.mno, iv := blockIv (leafPa pa) 0 0 } }

/-- The node block of a node as its grant leaves it (R276). -/
def freshNode (pa : Nat) : Option Span → CBlock
  | none => {}
  | some x => { mac := { key := x.mno, iv := blockIv (nodePa pa) 0 0 } }

/-- The leaf block of an address's group, its node block and the root of its span. -/
def Stack.leaf (k : Stack) (pa : Nat) : CBlock := blockIn k.groups (stkOff pa / 2 ^ 18) (freshLeaf pa (k.span? pa))
def Stack.node (k : Stack) (pa : Nat) : CBlock := blockIn k.nodes (stkOff pa / 2 ^ 24) (freshNode pa (k.span? pa))
def Stack.root (k : Stack) (pa : Nat) : CBlock := blockIn k.roots (stkOff pa / 2 ^ 29) {}

/-- The blocks of an address written. -/
def Stack.setLeaf (k : Stack) (pa : Nat) (b : CBlock) : Stack := { k with groups := putBlock k.groups (stkOff pa / 2 ^ 18) b }
def Stack.setNode (k : Stack) (pa : Nat) (b : CBlock) : Stack := { k with nodes := putBlock k.nodes (stkOff pa / 2 ^ 24) b }
def Stack.setRoot (k : Stack) (pa : Nat) (b : CBlock) : Stack := { k with roots := putBlock k.roots (stkOff pa / 2 ^ 29) b }

/-- Number of a plate in its group, of a group in its node and of a node in its span (R272, R275). -/
def inGroup (pa : Nat) : Nat := bits pa 12 6
def inNode (pa : Nat) : Nat := bits pa 18 6
def inSpan (pa : Nat) : Nat := bits pa 24 5

/-- Minor `i` of a block. -/
def CBlock.minor (b : CBlock) (i : Nat) : Nat := ((b.minors.find? fun x => x.1 == i).map (·.2)).getD 0

/-- A minor raised by 1. -/
def CBlock.raise (b : CBlock) (i : Nat) : CBlock :=
  { b with minors := (i, b.minor i + 1) :: b.minors.filter fun x => x.1 != i }

/-- A block re-sealed at its own level: MAJOR raised, every minor 0 (R283, R285). -/
def CBlock.rollOver (b : CBlock) : CBlock := { b with major := b.major + 1, minors := [], st := .normal }

/-- A MAC computed again under the parent's counters, with the key that the block has (R274). -/
def CBlock.remac (b : CBlock) (pa : Nat) (parent : CBlock) (i : Nat) : CBlock :=
  { b with mac := { b.mac with iv := blockIv pa parent.major (parent.minor i) } }

/-- A block is at its last version for a child, `due` raises of which are already promised. -/
def CBlock.full (b : CBlock) (i : Nat) (due : Nat := 0) : Bool := decide (0xFFFF ≤ b.minor i + due)

/-- A raise of the minor would need a re-seal that MAJOR forbids (R286). -/
def CBlock.spent (b : CBlock) (i : Nat) (due : Nat := 0) : Bool := b.st == .exhausted || (b.full i due && b.major == 2 ^ 40 - 1)

/-- Re-seals of groups of an address's node that will raise the root's minor for the node when they commit. -/
def Stack.due (k : Stack) (pa : Nat) : Nat := (k.reseals.filter fun r => r.level == 0 && r.idx / 64 == stkOff pa / 2 ^ 24).length

/-- The minors of an address's group in its node and of its node in the root raised, with the node block's MAC (R275, R279). -/
def Stack.raiseUpper (k : Stack) (pa : Nat) : Stack :=
  let r := (k.root pa).raise (inSpan pa)
  let n := ((k.node pa).raise (inNode pa)).remac (nodePa pa) r (inSpan pa)
  (k.setRoot pa r).setNode pa n

/-- The counters raised for an ordinary write of a plate, with the MACs of the blocks on its path (R279). -/
def Stack.raiseAll (k : Stack) (pa : Nat) : Stack :=
  let k := k.raiseUpper pa
  k.setLeaf pa (((k.leaf pa).raise (inGroup pa)).remac (leafPa pa) (k.node pa) (inNode pa))

/-- The level whose re-seal a write of a plate needs first: 2 the span of its root, 1 its node, 0 its group (R279, R283, R285). -/
def Stack.needs (k : Stack) (pa : Nat) : Option Nat :=
  if (k.root pa).full (inSpan pa) (k.due pa) then some 2
  else if (k.node pa).full (inNode pa) then some 1
  else if (k.leaf pa).full (inGroup pa) then some 0
  else none

/-- A write refused at a level (R286): the level is EXHAUSTED. -/
def Stack.exhaust (k : Stack) (pa : Nat) : Option Stack :=
  let g := k.leaf pa
  let n := k.node pa
  let r := k.root pa
  if g.spent (inGroup pa) then some (k.setLeaf pa { g with st := .exhausted })
  else if n.spent (inNode pa) then some (k.setNode pa { n with st := .exhausted })
  else if r.spent (inSpan pa) (k.due pa) then some (k.setRoot pa { r with st := .exhausted })
  else none

/-- An engine drops its copies of some blocks, those that its fills under way have read among them (R278). -/
def Burin.dropBlocks (l : List Nat) (b : Burin) : Burin :=
  let rest := fun (bs : List Nat) => bs.filter fun a => !l.contains a
  let unit := fun (u : CUnit) => { u with ctrs := rest u.ctrs }
  { b with ctr := rest b.ctr, units := b.units.map unit, fetch := b.fetch.map unit }

/-- COUNTER_INVALIDATE (R278): every engine drops its copies of some blocks. -/
def State.dropBlocks (s : State) (l : List Nat) : State :=
  { s with tiles := s.tiles.map fun x => { x with burin := x.burin.map (Burin.dropBlocks l) } }

/-- COUNTER_INVALIDATE for the blocks of a plate. -/
def State.dropCounters (s : State) (pa : Nat) : State := s.dropBlocks (ctrBlocks pa)

/-- Verified blocks held in an engine's cache of 128 (R277). -/
def Burin.holdCounters (b : Burin) (bs : List Nat) : Burin :=
  { b with ctr := (bs ++ b.ctr.filter fun a => !bs.contains a).take 128 }

/-! ## Checks (R271, R276, R277, R281, R282, R288) -/

/-- A slot that a partition's grant mask admits; its own slot always (R267). -/
def State.maskHas (s : State) (p k : Nat) : Bool :=
  k == p || (match s.part? p with
    | some x => decide (k < 32) && bit x.mask.toNat k
    | none => false)

/-- A key by the number of its draw is the one that a slot holds, or the one that a rotation on the stack replaces (R271, R287). -/
def State.keyServes (s : State) (k : Stack) (slot no : Nat) : Bool :=
  s.keySlots.getD slot 0 == no || (match k.rotate with
    | some r => r.key == slot && r.old == no
    | none => false)

/-- The MAC of a block verifies under its parent's counters with the key of the span's owner (R274, R275). -/
def State.macOk (s : State) (k : Stack) (owner : Nat) (b parent : CBlock) (pa i : Nat) : Bool :=
  b.mac.iv == blockIv pa parent.major (parent.minor i) && s.keyServes k owner b.mac.key

/-- The tag of a plate, as written last; a plate never accessed since its grant is sealed as the grant left it (R276). -/
def Stack.sealOf (k : Stack) (pa : Nat) : Seal :=
  match k.seals.find? fun x => x.1 == stkOff pa / 4096 with
  | some x => x.2
  | none => { key := ((k.span? pa).map (·.kno)).getD 0, iv := plateIv pa 0 0 }

/-- The tag that a plate's check expects under its counters and a hash set (R272, R277). -/
def Stack.sealNow (k : Stack) (pa perm : Nat) : Seal :=
  let b := k.leaf pa
  { key := b.kno, iv := plateIv pa b.major (b.minor (inGroup pa)), perm := some perm }

/-- The tag of a plate verifies (R250, R251, R277). -/
def Stack.tagOk (k : Stack) (pa perm : Nat) : Bool :=
  let x := k.sealOf pa
  let y := k.sealNow pa perm
  !k.bad.contains (stkOff pa / 4096) && x.key == y.key && x.iv == y.iv && (x.perm.isNone || x.perm == y.perm)

/-- The outcome of a check of the plate that holds a physical address, for a translation of a partition with a key and a hash set
(R276, R281, R282, R288): 0 OK, 1 TAG_FAIL, 2 COUNTER_TAG, 4 KEY_MISMATCH. -/
def State.plateOut (s : State) (p key hsel pa : Nat) : Nat :=
  let k := s.stackAt (stkOf pa)
  let g := k.leaf pa
  let n := k.node pa
  if g.st = .failed ∨ n.st = .failed then 2
  else match k.span? pa with
    | none => 4
    | some sp =>
      if sp.part ≠ p ∧ !s.maskHas p sp.part then 4
      else if !s.macOk k sp.part n (k.root pa) (nodePa pa) (inSpan pa) || !s.macOk k sp.part g n (leafPa pa) (inNode pa) then 2
      else if g.key ≠ key then 4
      else if k.tagOk pa (permOf k hsel (stkOff pa)) && s.keyServes k g.key g.kno then 0
      else 1

/-- The counter block at a physical address fails its MAC (R282): its group, or every group under its node, is FAILED. -/
def Stack.failBlock (k : Stack) (node : Bool) (pa : Nat) : Stack :=
  if node then k.setNode pa { k.node pa with st := .failed } else k.setLeaf pa { k.leaf pa with st := .failed }

/-- The place of plate `n` of its 16 KiB block under a permutation: the four granules' group of pseudo-channels (R250). -/
def placeOf (n perm : Nat) : Nat := (n % 4) ^^^ (perm / 16)

/-- A plate's tag is written: its own mark goes, and the recorded plates of its 16 KiB block whose storage it takes fail from now on
(R250, R251). -/
def Stack.sealPlate (k : Stack) (pa perm : Nat) : Stack :=
  let n := stkOff pa / 4096
  let lost := (k.seals.filter fun x => x.1 / 4 == n / 4 && x.1 != n && match x.2.perm with
    | some q => placeOf x.1 q == placeOf n perm
    | none => false).map (·.1)
  { k with
    seals := (k.seals.filter fun x => x.1 != n) ++ [(n, k.sealNow pa perm)],
    bad := (k.bad.filter fun x => x != n && !lost.contains x) ++ lost }

/-- An access through a hash set fixes how the plates of its 16 KiB block lie that none has accessed since their grant (R250, R276;
DEDUCED, log 28). -/
def Stack.settleBlock (k : Stack) (pa perm : Nat) : Stack :=
  let base := stkOff pa / 16384 * 4
  let fresh := (List.range 4).filter fun i => !k.seals.any fun x => x.1 == base + i
  { k with
    seals := (k.seals.map fun x => if x.1 / 4 = base / 4 ∧ x.2.perm = none then (x.1, { x.2 with perm := some perm }) else x) ++
      fresh.map fun i => (base + i, { k.sealOf (pa / 16384 * 16384 + 4096 * i) with perm := some perm }) }

/-- A plate held by a write of another unit, or in a group, a node or a span that is being re-sealed (R280, R283, R285). -/
def Stack.heldFor (k : Stack) (pa t e uid : Nat) : Bool :=
  (k.holds.any fun h => h.1 == stkOff pa / 4096 && h.2 != (t, e, uid)) || (k.leaf pa).st == .resealing ||
  (k.node pa).st == .resealing || (k.root pa).st == .resealing

/-! ## The lines of a plate and of its blocks (R273, R277, R279) -/

/-- The lines of a counter block. -/
def blockLines (pa : Nat) : List Nat := (List.range 4).map fun i => stkOff pa / 64 + i

/-- The 64 lines of a plate, and the line of its tag. -/
def plateLines (pa : Nat) : List Nat := (List.range 64).map (fun i => stkOff pa / 64 + i) ++ [stkOff (tagAddr pa) / 64]

/-- The counter blocks on a plate's path that its fill verifies: up to the first that its engine holds verified (R277). -/
def verified (ctr : List Nat) (pa : Nat) : List Nat :=
  leafPa pa :: if ctr.contains (leafPa pa) then [] else [nodePa pa]

/-- The stages of a fill: the blocks that the engine does not hold verified, one after the other, then the plate with its tag (R277). -/
def readStages (ctr : List Nat) (pa : Nat) : List (List Nat) :=
  (if ctr.contains (leafPa pa) then []
   else blockLines (leafPa pa) :: if ctr.contains (nodePa pa) then [] else [blockLines (nodePa pa)]) ++ [plateLines pa]

/-- The lines that a write of a plate sends: the plate, its tag and the changed blocks (R279). -/
def writeLines (pa : Nat) : List Nat := plateLines pa ++ (blockLines (leafPa pa) ++ blockLines (nodePa pa))

/-- Requests for some lines of a stack; metadata lies under hash set 0 (DEDUCED, log 28). -/
def lineReqs (k : Stack) (t e uid perm : Nat) (wr walker reseal : Bool) (l : List Nat) : List LineReq :=
  l.map fun i =>
    let off := 64 * i
    { tile := t, eng := e, uid := uid, line := i, wr := wr, walker := walker, reseal := reseal, held := k.quiesce,
      pc := if inMeta off then pcOf k 0 off else bits off 8 6 ^^^ perm }

/-! ## Page-table entries and walks (R265 to R268) -/

def pteV (e : W64) : Bool := bit e.toNat 63
def pteLEAF (e : W64) : Bool := bit e.toNat 59
def pteKEY (e : W64) : Nat := bits e.toNat 53 6
def pteHSEL (e : W64) : Nat := bits e.toNat 14 2
def ptePA (e : W64) : Nat := bits e.toNat 16 23 * 2 ^ 16
def pteNEXT (e : W64) : Nat := bits e.toNat 12 27 * 2 ^ 12

/-- The rights an access needs: bit 0 RD, 1 WR, 2 X. -/
def accOk (e : W64) (acc : Nat) : Bool :=
  (!bit acc 0 || bit e.toNat 62) && (!bit acc 1 || bit e.toNat 61) && (!bit acc 2 || bit e.toNat 60)

/-- What a walk answers: the order number of R266 with whether it reached a leaf of a large page, the leaf entry with the entries that
the walk cache takes, or the table entry, under its key, that must be read next. -/
inductive WalkRes where
  | fail (n : Nat) (big : Bool)
  | ok (pte : W64) (big : Bool) (seen : List (Nat × W64))
  | need (key pa : Nat)
  deriving DecidableEq, Repr

/-- The translation root of a partition; 32 stands for the firmware, which has its own (R265). -/
def State.rootOf (s : State) (p : Nat) : Option Nat := if p = 32 then s.fwRoot else (s.part? p).bind (·.root)

/-- The reserved bits of a non-leaf entry are zero, and its table is aligned to 2^n bytes. -/
def nonLeafOk (e : W64) (n : Nat) : Bool :=
  bits e.toNat 60 3 == 0 && bits e.toNat 39 20 == 0 && bits e.toNat 0 12 == 0 && pteNEXT e % 2 ^ n == 0

/-- The checks 4 to 7 of R266 on a leaf; slot 32 is the firmware's own, and no partition's grant mask has it (R265, R267). -/
def State.leafCheck (s : State) (p acc : Nat) (e : W64) (big : Bool) (seen : List (Nat × W64)) : WalkRes :=
  if bits e.toNat 0 14 ≠ 0 ∨ (big ∧ bits e.toNat 16 13 ≠ 0) then .fail 4 big
  else if inMeta (ptePA e) then .fail 5 big
  else if 32 < pteKEY e ∨ !s.maskHas p (pteKEY e) then .fail 6 big
  else if !accOk e acc then .fail 7 big
  else .ok e big seen

/-- Keys of the entries of an address: level 1, level 2 and level 3. -/
def walkKey1 (va : Nat) : Nat := va / 2 ^ 38
def walkKey2 (va : Nat) : Nat := 2 ^ 20 + va / 2 ^ 29
def walkKey3 (va : Nat) : Nat := 2 ^ 40 + va / 2 ^ 16

/-- An entry that a walk has read, or that the walk cache of its die holds (R268, R269). -/
def State.entryFor (s : State) (die p : Nat) (known : List (Nat × W64)) (key : Nat) : Option W64 :=
  match known.find? fun x => x.1 == key with
  | some x => some x.2
  | none => ((s.dieAt die).walks.find? fun x => x.1 == p && x.2.1 == key).map (·.2.2)

/-- A walk of a partition's tables as far as the entries read go (R265, R266); `acc` as in `accOk`. -/
def State.walkVa (s : State) (die p va acc : Nat) (known : List (Nat × W64)) : WalkRes :=
  if 2 ^ 48 ≤ va then .fail 1 false
  else match s.rootOf p with
    | none => .fail 3 false
    | some root =>
      let k1 := walkKey1 va
      match s.entryFor die p known k1 with
      | none => .need k1 (root + 8 * k1)
      | some e1 =>
        if !pteV e1 then .fail 3 false
        else if pteLEAF e1 ∨ !nonLeafOk e1 12 then .fail 4 false
        else if inMeta (pteNEXT e1) then .fail 5 false
        else
          let k2 := walkKey2 va
          match s.entryFor die p known k2 with
          | none => .need k2 (pteNEXT e1 + 8 * bits va 29 9)
          | some e2 =>
            if !pteV e2 then .fail 3 false
            else if pteLEAF e2 then s.leafCheck p acc e2 true [(k1, e1), (k2, e2)]
            else if !nonLeafOk e2 16 then .fail 4 false
            else if inMeta (pteNEXT e2) then .fail 5 false
            else match s.entryFor die p known (walkKey3 va) with
              | none => .need (walkKey3 va) (pteNEXT e2 + 8 * bits va 16 13)
              | some e3 =>
                if !pteV e3 then .fail 3 false
                else if !pteLEAF e3 then .fail 4 false
                else s.leafCheck p acc e3 false [(k1, e1), (k2, e2)]

/-- The physical address of a virtual address under a leaf entry. -/
def paOf (e : W64) (big : Bool) (va : Nat) : Nat :=
  if big then ptePA e / 2 ^ 29 * 2 ^ 29 + va % 2 ^ 29 else ptePA e + va % 2 ^ 16

/-- The page of an address. -/
def pageOf (big : Bool) (va : Nat) : Nat := if big then va / 2 ^ 29 else va / 2 ^ 16

/-- An engine's translation of an address (R268). -/
def Burin.hit (b : Burin) (p va : Nat) : Option TlbEnt :=
  b.tlb.find? fun x => x.part == p && x.page == pageOf x.big va

/-- A translation held: 64 entries of small and 16 of large pages, newest first (R268). -/
def Burin.addTlb (b : Burin) (x : TlbEnt) : Burin :=
  let l := x :: b.tlb.filter fun y => y != x
  { b with tlb := (l.filter fun y => !y.big).take 64 ++ (l.filter fun y => y.big).take 16 }

/-- The walk cache of a die takes entries, 256 at most (R268). -/
def Die.addWalks (d : Die) (p : Nat) (l : List (Nat × W64)) : Die :=
  { d with walks := (l.map (fun x => (p, x.1, x.2)) ++ d.walks.filter fun y =>
      !(y.1 == p && l.any fun x => x.1 == y.2.1)).take 256 }

namespace State

/-- An engine's translation after a walk answered a page. -/
def learn (s : State) (t e p va : Nat) (pte : W64) (big : Bool) (seen : List (Nat × W64)) : State :=
  (s.modDie (dieOf t) fun d => d.addWalks p seen).modBurin t e fun b =>
    b.addTlb { part := p, page := pageOf big va, big := big, pte := pte }

end State

/-! ## The schedulers of a stack (R252 to R263) -/

/-- The gateway of die `st` through which requests from another die come in (R374, R376). -/
def gatewayIn (die st : Nat) : Nat := if die / 4 ≠ st / 4 then 2 else if die % 4 < st % 4 then 0 else 1

/-- The requester of a line request: 0 to 63 a tile of the home die, 64 to 67 a gateway (R255). -/
def LineReq.src (st : Nat) (r : LineReq) : Nat :=
  if dieOf r.tile = st then r.tile % 64 else 64 + gatewayIn (dieOf r.tile) st

/-- Greatest hint of a thermal state (R259). -/
def maxHint (k : Stack) : Nat := if k.tstate = 0 then 4 else if k.tstate = 1 then 8 else 15

/-- The share scale of a thermal state (R259). -/
def shareScale (n : Nat) : Nat := if n = 0 then 64 else if n = 1 then 60 else 56

/-- Slots stolen in each rotation (R259). -/
def stealCount (k : Stack) : Nat := if k.tstate = 0 then 0 else if k.tstate = 1 then 4 else 8

/-- Gateway `g` of a die is powered: G0 of CD0 and CD4 and G1 of CD3 and CD7 are not (R3). -/
def gatewayThere (die g : Nat) : Bool := decide (g < 4) && !(die % 4 == 0 && g == 0) && !(die % 4 == 3 && g == 1)

/-- A calendar's number: pseudo-channel and direction. -/
def calCode (pc : Nat) (wr : Bool) : Nat := pc * 2 + ofBool wr

/-- A calendar of a stack. -/
def Stack.cal (k : Stack) (c : Nat) : Calendar := ((k.cals.find? fun x => x.1 == c).map (·.2)).getD {}

/-- A calendar of a stack changed. -/
def Stack.modCal (k : Stack) (c : Nat) (f : Calendar → Calendar) : Stack :=
  { k with cals := (c, f (k.cal c)) :: k.cals.filter fun x => x.1 != c }

/-- The owner entries in force in the present rotation of a calendar (R254). -/
def Stack.owners (k : Stack) (pc : Nat) (wr : Bool) : List (BitVec 8) :=
  (k.cal (calCode pc wr)).old.getD (if wr then k.ownWr else k.ownRd)

/-- The requester that owns a slot, 68 the die walker; none when the slot is open (R254). -/
def State.slotOwner (s : State) (st pc slot : Nat) (wr : Bool) : Option Nat :=
  let o := (((s.stackAt st).owners pc wr).getD slot 0).toNat
  let i := o % 64
  if o / 64 = 1 then (if (s.tileAt (64 * st + i)).fenced then none else some i)
  else if o / 64 = 2 ∧ gatewayThere st i then some (64 + i)
  else if o / 64 = 3 then some 68
  else none

/-- Whether a request takes part in a slot; in its own slot only while it has not been refused (R255, R258). -/
def LineReq.elig (pc : Nat) (wr own : Bool) (r : LineReq) : Bool :=
  r.pc == pc && r.wr == wr && !r.held && match r.st with
    | .waiting => true
    | .refused _ _ => !own
    | _ => false

/-- Positions of the requests that a predicate admits. -/
def reqIdx (k : Stack) (f : LineReq → Bool) : List Nat := (k.reqs.zipIdx.filter fun x => f x.1).map (·.2)

/-- The request of the die walker that goes first: one that a tile of the home die made (R255, R268). -/
def pickWalker (k : Stack) (st pc : Nat) (wr own : Bool) : Option Nat :=
  (reqIdx k fun r => r.elig pc wr own && r.walker && dieOf r.tile == st).head?

/-- The request of one requester that goes first: a line of a re-seal (R284), then a table read (R268), then its two engines in turn, an
engine's oldest request first (R254). -/
def pickOf (k : Stack) (st pc : Nat) (wr own : Bool) (src : Nat) : Option Nat :=
  let mine := fun r : LineReq => r.elig pc wr own && r.src st == src
  if src = 68 then pickWalker k st pc wr own
  else
    let first := (reqIdx k fun r => mine r && r.reseal).head?.or (reqIdx k fun r => mine r && r.walker).head?
    let other := if 64 ≤ src then none else (reqIdx k fun r => mine r && r.eng != k.alt.getD src 0).head?
    first.or (other.or (reqIdx k mine).head?)

/-- The requesters in round-robin order from a turn. -/
def turnOrder (n : Nat) : List Nat := (List.range 69).map fun i => (n + i) % 69

/-! ### Rotations, stolen and refused slots (R253, R258 to R260, R329) -/

/-- The slot with which the rotations of a pseudo-channel begin (R253). -/
def rotStart (pc : Nat) : Nat := (64 - pc % 64) % 64

/-- The slots of a pseudo-channel from one on to the end of its rotation. -/
def slotsFrom (pc slot : Nat) : List Nat :=
  (List.range (64 - (slot + pc) % 64)).map fun i => (slot + i) % 64

/-- No two neighbours of a list are stolen (R260). -/
def noPair : List Fate → Bool
  | .stolen :: .stolen :: _ => false
  | _ :: r => noPair r
  | [] => true

/-- Any 64 consecutive slots lose at most `cap` (R329). -/
def inCap (cap : Nat) : List Fate → Bool
  | [] => true
  | f :: r => decide (((f :: r).take 64).countP (· != .kept) ≤ cap) && inCap cap r

/-- How many of 64 consecutive slots an owner may lose: a tile's bound (R329); none is given for another owner. -/
def lossCap (k : Stack) (owner : Nat) : Nat :=
  if 64 ≤ owner then 64 else if k.tstate = 0 then 2 else if k.tstate = 1 then 6 else 10

/-- What became of an owner's last slots. -/
def Calendar.fates (c : Calendar) (owner : Nat) : List Fate := ((c.lost.find? fun x => x.1 == owner).map (·.2)).getD []

/-- A slot of an owner has passed: its last 63 are kept, if any of them was lost. -/
def Calendar.record (c : Calendar) (owner : Option Nat) (f : Fate) : Calendar :=
  match owner with
  | none => c
  | some o =>
    let l := c.fates o ++ [f]
    let l := l.drop (l.length - 63)
    let rest := c.lost.filter fun x => x.1 != o
    { c with lost := if l.all (· == .kept) then rest else (o, l) :: rest }

/-- What the slots of an owner become from a slot to the end of the rotation, with some of them stolen. -/
def comingFates (own : Nat → Option Nat) (slots steals : List Nat) (owner : Nat) : List Fate :=
  (slots.filter fun i => own i == some owner).map fun i => if steals.contains i then .stolen else .kept

/-- A position may be stolen along with others: its owner loses no two slots in a row, and no more than its bound (R260, R329). -/
def mayLose (k : Stack) (c : Calendar) (own : Nat → Option Nat) (slots steals : List Nat) (slot : Nat) : Bool :=
  match own slot with
  | none => true
  | some o =>
    let l := c.fates o ++ comingFates own slots (slot :: steals) o
    noPair l && inCap (lossCap k o) l

/-- `n` positions to steal in a rotation: the first of an order that may be lost, and that `kept` does not reserve. -/
def chooseSteals (ok : List Nat → Nat → Bool) : Nat → List Nat → List Nat → List Nat
  | 0, _, l => l
  | _, [], l => l
  | n + 1, i :: r, l => if ok l i then chooseSteals ok n r (i :: l) else chooseSteals ok (n + 1) r l

/-- A slot of the coming rotation is reserved for a request that was refused (R258). -/
def Stack.reserved (k : Stack) (pc slot : Nat) (wr : Bool) (left : Nat) : Bool :=
  k.reqs.any fun r => r.pc == pc && r.wr == wr && (r.st == .hinted slot left || r.st == .refused slot left)

/-- A rotation of a calendar begins (R254, R259, R260): the owner entries of today are in force, and the base die takes its slots in turn,
those first that it took longest ago, except one whose owner would lose two in a row (DEDUCED, log 28). -/
def State.beginRotation (s : State) (st pc : Nat) (wr : Bool) : State :=
  let s := s.modStack st fun k => k.modCal (calCode pc wr) fun c => { c with old := none, steals := [] }
  let k := s.stackAt st
  let c := k.cal (calCode pc wr)
  let own := fun i => s.slotOwner st pc i wr
  let slots := slotsFrom pc (rotStart pc)
  let l := chooseSteals (fun l i => !k.reserved pc i wr 1 && mayLose k c own slots l i) (stealCount k) c.order []
  s.modStack st fun k => k.modCal (calCode pc wr) fun c =>
    { c with steals := l, order := (c.order.filter fun i => !l.contains i) ++ l.reverse }

/-- A slot of a calendar has closed, and this became of it: the next one follows. -/
def State.passSlot (s : State) (st pc : Nat) (wr : Bool) (f : Fate) : State :=
  let c := (s.stackAt st).cal (calCode pc wr)
  let n := (c.next + 1) % 64
  let o := s.slotOwner st pc c.next wr
  let s := s.modStack st fun k => k.modCal (calCode pc wr) fun c => { c.record o f with next := n }
  if n = rotStart pc then s.beginRotation st pc wr else s

/-- The slot that closes next is stolen in the present rotation. -/
def Stack.stolen (k : Stack) (pc : Nat) (wr : Bool) : Bool :=
  let c := k.cal (calCode pc wr)
  c.steals.contains c.next

/-- Slots that pass while a calendar has no request. -/
def State.passIdle (s : State) (st pc : Nat) (wr : Bool) : Nat → State
  | 0 => s
  | n + 1 => (s.passSlot st pc wr (if (s.stackAt st).stolen pc wr then .stolen else .kept)).passIdle st pc wr n

/-- A request at the scheduler of a calendar: not held back, and not served yet. -/
def LineReq.at1 (pc : Nat) (wr : Bool) (r : LineReq) : Bool := r.pc == pc && r.wr == wr && !r.held && r.st != .served

/-- No request of a calendar has met a closing point: any number of slots may have passed before the first of them came. -/
def Stack.idle (k : Stack) (pc : Nat) (wr : Bool) : Bool := k.reqs.all fun r => !r.at1 pc wr || r.fresh

/-- The calendar as slot `slot` closes: of an idle one `slot / 64` whole rotations and the slots before have passed; otherwise it must be
the next slot. -/
def State.toSlot (s : State) (st pc slot : Nat) (wr : Bool) : Option State :=
  let k := s.stackAt st
  let n := (k.cal (calCode pc wr)).next
  if k.idle pc wr then some (s.passIdle st pc wr (slot / 64 * 64 + (slot % 64 + 64 - n) % 64))
  else if slot = n then some s
  else none

/-- What a closing point chooses: the request, whether it is in its own slot, whether the slot was reserved for it, and its requester when
source 3 chose it (R255, R258). -/
def State.closingPick (s : State) (st pc : Nat) (wr : Bool) : Option (Nat × Bool × Bool × Option Nat) :=
  let k := s.stackAt st
  let slot := (k.cal (calCode pc wr)).next
  match (reqIdx k fun r => r.pc == pc && r.wr == wr && !r.held && r.st == .hinted slot 1).head? with
  | some i => some (i, true, true, none)
  | none =>
    if k.stolen pc wr then none
    else match (s.slotOwner st pc slot wr).bind fun o => pickOf k st pc wr true o with
      | some i => some (i, true, false, none)
      | none => match pickWalker k st pc wr false with
        | some i => some (i, false, false, none)
        | none => (turnOrder (k.rr.getD pc 0)).findSome? fun q =>
            (pickOf k st pc wr false q).map fun i => (i, false, false, some q)

/-- A request of a slot whose RETRY answer is under way: the answer comes before the slot closes again (R258). -/
def Stack.answering (k : Stack) (pc slot : Nat) (wr : Bool) : Bool :=
  k.reqs.any fun r => r.pc == pc && r.wr == wr && match r.st with
    | .refused n _ => n == slot
    | _ => false

/-- A closing of a slot brings its hinted requests nearer to theirs (R258). -/
def ReqSt.nearer (slot : Nat) : ReqSt → ReqSt
  | .hinted n left => if n = slot ∧ 1 < left then .hinted n (left - 1) else .hinted n left
  | x => x

/-- The requests of a calendar after a closing of a slot (R258). -/
def Stack.metSlot (k : Stack) (pc slot : Nat) (wr : Bool) : Stack :=
  { k with reqs := k.reqs.map fun r => if r.at1 pc wr then { r with st := r.st.nearer slot, fresh := false } else r }

/-- The request in its own slot may be refused with a hint (R258, R259, R329): the hint is admitted, the slot that it names is not reserved
for another, and the owner loses no more slots than its bound. -/
def State.mayRefuse (s : State) (st pc : Nat) (wr : Bool) (hint : Nat) : Bool :=
  let k := s.stackAt st
  let c := k.cal (calCode pc wr)
  decide (0 < hint) && decide (hint ≤ maxHint k) && !k.reserved pc c.next wr hint &&
  match s.slotOwner st pc c.next wr with
  | none => false
  | some o => inCap (lossCap k o) (c.fates o ++ .refused ::
      comingFates (fun i => s.slotOwner st pc i wr) (slotsFrom pc c.next).tail c.steals o)

/-- A request takes a slot: the engines of a tile take its slots in turn, on whatever pseudo-channel and calendar (R254; DEDUCED,
log 101). -/
def Stack.takeTurn (k : Stack) (st : Nat) (r : LineReq) : Stack :=
  if r.src st < 64 ∧ !r.walker ∧ !r.reseal then { k with alt := k.alt.set (r.src st) r.eng } else k

/-- What a closing point does with the request that it has chosen: in a slot of its own it is served, or refused with a hint, except in
one reserved for it; elsewhere it is served, or left as it is (R255, R258). The round-robin of source 3 goes on from the requester served,
with one turn for both calendars of a pseudo-channel (DEDUCED, log 100). -/
def State.fillSlot (s : State) (st pc slot : Nat) (wr : Bool) (hint : Nat) (x : Nat × Bool × Bool × Option Nat) : State × Fate :=
  let refuse := x.2.1 && !x.2.2.1 && s.mayRefuse st pc wr hint
  let r := (s.stackAt st).reqs.getD x.1 { tile := 0, eng := 0, uid := 0, line := 0, pc := 0, wr := false }
  let put := fun (k : Stack) (q : ReqSt) => { k with reqs := updAt (fun r => { r with st := q }) x.1 k.reqs }
  if refuse then (s.modStack st fun k => (put k (.refused slot hint)).takeTurn st r, .refused)
  else if x.2.1 then (s.modStack st fun k => (put k .served).takeTurn st r, .kept)
  else if 0 < hint then (s, .kept)
  else (s.modStack st fun k =>
    { put k .served with rr := match x.2.2.2 with
        | some q => k.rr.set pc ((q + 1) % 69)
        | none => k.rr }, .kept)

/-- CLOSING_POINT (R253, R255, R258, R260, R329): the next slot of a calendar closes, and the request that it chooses takes it; a slot that
does not come now, or whose RETRY answer is under way, does not close. -/
def execClosingPoint (st pc slot : Nat) (wr : Bool) (hint : Nat) (s : State) : Host.Outcome State Fault Refusal :=
  if 64 ≤ pc ∨ (s.stackAt st).answering pc (slot % 64) wr = true then .next s
  else match s.toSlot st pc slot wr with
    | none => .next s
    | some s =>
      let k := s.stackAt st
      let x := match s.closingPick st pc wr with
        | none => (s, if k.stolen pc wr then Fate.stolen else .kept)
        | some x => s.fillSlot st pc (slot % 64) wr hint x
      .next ((x.1.modStack st fun k => k.metSlot pc (slot % 64) wr).passSlot st pc wr x.2)

/-! ## Thermal states, owner entries and quiesce (R254, R259 to R263) -/

/-- The partitions that own a slot on a stack (R261). -/
def State.slotParts (s : State) (st : Nat) : List Nat :=
  let k := s.stackAt st
  (List.range 32).filter fun p => (k.ownRd ++ k.ownWr).any fun o =>
    let x := s.tileAt (64 * st + o.toNat % 64)
    o.toNat / 64 == 1 && x.partid == some p && !x.fenced

/-- DERATE (R261, R406): cause 1 doubled refresh, 2 activation cap, 3 quiesce; `on` when the state begins. -/
def State.derate (s : State) (st cause scale : Nat) (on : Bool) : State :=
  (s.slotParts st).foldl (fun s p => s.event 1 p st st 0 (cause + scale * 2 ^ 8 + ofBool on * 2 ^ 16)) s

/-- The thermal state after a reading, with the thresholds of R259 and their hysteresis. -/
def nextTstate (cur temp : Nat) : Nat :=
  if 95 < temp then 2
  else if cur = 2 then (if 92 ≤ temp then 2 else 1)
  else if 85 < temp then 1
  else if cur = 1 ∧ 82 ≤ temp then 1
  else 0

/-- THERMAL_STATE_CHANGE (R259, R261): the hottest sensor reads `temp` °C. -/
def execThermalStateChange (st temp : Nat) (s : State) : Host.Outcome State Fault Refusal :=
  let k := s.stackAt st
  let n := nextTstate k.tstate.toNat temp
  let s1 := s.modStack st fun k => { k with temp := BitVec.ofNat 8 temp, tstate := BitVec.ofNat 2 n }
  if n = k.tstate.toNat then .next s1
  else
    let s2 := if k.tstate = 0 then s1 else s1.derate st k.tstate.toNat (shareScale k.tstate.toNat) false
    .next (if n = 0 then s2 else s2.derate st n (shareScale n) true)

/-- An owner entry comes into force. -/
def Stack.setOwner (k : Stack) (x : Bool × Nat × BitVec 8) : Stack :=
  if x.1 then { k with ownWr := k.ownWr.set x.2.1 x.2.2 } else { k with ownRd := k.ownRd.set x.2.1 x.2.2 }

/-- The calendars of a direction that are within a rotation keep its owner entries until it ends (R254). -/
def Stack.keepOwners (k : Stack) (wr : Bool) : Stack :=
  { k with cals := k.cals.map fun x =>
      if x.1 % 2 = ofBool wr ∧ x.2.next ≠ rotStart (x.1 / 2) ∧ !k.idle (x.1 / 2) wr then
        (x.1, { x.2 with old := some (x.2.old.getD (if wr then k.ownWr else k.ownRd)) })
      else x }

/-- OWNER_ENTRY_EFFECT (R254): a rotation of a direction begins, more than 24 ns after the `n` oldest entries of the direction were written,
and they come into force. -/
def execOwnerEntryEffect (x : CalTurn) (s : State) : Host.Outcome State Fault Refusal :=
  .next (s.modStack x.st fun k =>
    let l := (k.ownNew.filter fun y => y.1 == x.wr).take x.n
    let k := l.foldl Stack.setOwner (if l.isEmpty then k else k.keepOwners x.wr)
    { k with ownNew := (k.ownNew.filter fun y => y.1 != x.wr) ++ (k.ownNew.filter fun y => y.1 == x.wr).drop x.n })

/-- SCTL_QUIESCE (R263): new requests are held at the schedulers from now on. -/
def execSctlQuiesce (st : Nat) (s : State) : Host.Outcome State Fault Refusal :=
  .next (s.modStack st fun k => { k with quiesce := true })

/-- QUIESCE cleared: requests held are eligible, and QUIESCED falls (R263). -/
def State.unquiesce (s : State) (st : Nat) : State :=
  let was := (s.stackAt st).quiesced
  let s := s.modStack st fun k =>
    { k with quiesce := false, quiesced := false, reqs := k.reqs.map fun r => { r with held := false } }
  if was then s.derate st 3 (shareScale (s.stackAt st).tstate.toNat) false else s

/-- QUIESCED (R263): every request in flight has been served. -/
def execQuiesced (st : Nat) (s : State) : Host.Outcome State Fault Refusal :=
  let k := s.stackAt st
  if k.quiesce ∧ !k.quiesced ∧ (k.reqs.all fun r => r.held || r.st == .served) = true then
    .next ((s.modStack st fun k => { k with quiesced := true }).derate st 3 (shareScale k.tstate.toNat) true)
  else .next s

/-- A write of RATIO (R263): lane retraining starts, only while QUIESCED is set; 0b11 is outside the set. -/
def State.setRatio (s : State) (st ratio : Nat) : State :=
  let k := s.stackAt st
  if k.quiesced ∧ ratio < 3 ∧ ratio ≠ k.ratio.toNat then
    s.modStack st fun k => { k with retrain := some (BitVec.ofNat 2 ratio) }
  else s

/-- SCTL_RATIO (R263). -/
def execSctlRatio (st ratio : Nat) (s : State) : Host.Outcome State Fault Refusal := .next (s.setRatio st ratio)

/-- The calendars of a stack start again with a rotation (R253, R263). -/
def State.restartCals (s : State) (st : Nat) : State :=
  (s.stackAt st).cals.foldl (fun s x =>
    (s.modStack st fun k => k.modCal x.1 fun c => { c with next := rotStart (x.1 / 2) }).beginRotation st (x.1 / 2) (x.1 % 2 == 1)) s

/-- LANE_RETRAIN_COMPLETE (R263): a new epoch, and QUIESCE is cleared. -/
def execLaneRetrainComplete (st : Nat) (s : State) : Host.Outcome State Fault Refusal :=
  match (s.stackAt st).retrain with
  | none => .next s
  | some r => .next (((s.modStack st fun k => { k with ratio := r, retrain := none, epoch := s.time }).restartCals st).unquiesce st)

end Sys2Proof.Machine
end

