-- ==== Sys2Proof/Machine/Copy.lean ====
section
/-! DEFINITION. The Burin copy engines: commands and units (R307 to R322), the four copy words (R325 to R328), and the steps of
lines, plates and commands (R256, R258, R266, R277 to R283, R308). -/

namespace Sys2Proof.Machine

/-! ## The copy descriptor (R311, R312) -/

def cpSRC (d : BitVec 512) : Nat := bits d.toNat 0 64
def cpDST (d : BitVec 512) : Nat := bits d.toNat 64 64
def cpLEN (d : BitVec 512) : Nat := bits d.toNat 128 24
def cpOC (d : BitVec 512) : Nat := bits d.toNat 156 4
def cpCRCMODE (d : BitVec 512) : Nat := bits d.toNat 202 2
def cpORDER (d : BitVec 512) : Bool := bit d.toNat 204
def cpRECEN (d : BitVec 512) : Bool := bit d.toNat 205
def cpINTEN (d : BitVec 512) : Bool := bit d.toNat 206
def cpBAREN (d : BitVec 512) : Bool := bit d.toNat 207
def cpSEMEN (d : BitVec 512) : Bool := bit d.toNat 208
def cpSEM (d : BitVec 512) : Nat := bits d.toNat 209 5
def cpSEMGANG (d : BitVec 512) : Nat := bits d.toNat 214 10
def cpBARK (d : BitVec 512) : Nat := bits d.toNat 224 16
def cpBAROBJ (d : BitVec 512) : Nat := bits d.toNat 256 64
def cpSEED (d : BitVec 512) : Nat := bits d.toNat 320 32
def cpEXPECT (d : BitVec 512) : Nat := bits d.toNat 352 32
def cpMCMASK (d : BitVec 512) : Nat := bits d.toNat 384 32
def cpMCBASE (d : BitVec 512) : Nat := bits d.toNat 416 10
def cpBANKMASK (d : BitVec 512) : Nat := bits d.toNat 160 32

/-- The command reads HBM, or writes it. -/
def cpFill (d : BitVec 512) : Bool := cpKIND d == 0 || cpKIND d == 4
def cpWrite (d : BitVec 512) : Bool := cpKIND d == 1

/-- The members that a MULTICAST names, ascending (R311, R314). -/
def cpMembers (d : BitVec 512) : List Nat :=
  ((List.range 32).filter fun i => bit (cpMCMASK d) i).map fun i => cpMCBASE d + i

/-- BAROBJ is aligned, outside the accumulator range and within R29 (R312). -/
def barObjOk (a gangsize : Nat) : Bool :=
  a % 16 == 0 && (decide (a < 0x800000) || (decide (gangBase ≤ a) && decide ((a - gangBase) / 2 ^ 23 < gangsize)))

/-- The checks of CPY (R312). -/
def cpyOk (d : BitVec 512) (gangsize : Nat) : Bool :=
  bits d.toNat 155 1 == 0 && bits d.toNat 192 10 == 0 && bits d.toNat 240 16 == 0 && bits d.toNat 426 22 == 0 &&
  decide (cpKIND d ≤ 4) && !(cpBAREN d && cpBARK d == 0) && (!cpSEMEN d || decide (cpSEMGANG d < gangsize)) &&
  (cpKIND d != 4 || (cpMCMASK d != 0 && (cpMembers d).all fun g => decide (g < gangsize))) &&
  (!cpBAREN d || barObjOk (cpBAROBJ d) gangsize)

/-! ## Status (R319, R322) -/

namespace State

/-- The command of a tag in an engine's queue. -/
def copyOf (s : State) (t e : Nat) (tag : BitVec 32) : Option Copy := (s.burinAt t e).q.find? fun c => c.tag == tag

/-- The command of a tag changed. -/
def modCopy (s : State) (t e : Nat) (tag : BitVec 32) (f : Copy → Copy) : State :=
  s.modBurin t e fun b => { b with q := b.q.map fun c => if c.tag == tag then f c else c }

end State

/-- The running value of a command so far, from the register after the commands before it (R322); a continuation of a stopped command goes
on from its value (R348), and the writes that outlive a command come after its other bytes (R344). -/
def Copy.crcFrom (c : Copy) (r : BitVec 32) : BitVec 32 :=
  c.late.foldl (fun r x => crcBytes x.1 x.2 r) (c.crc.getD (crcStart (cpCRCMODE c.d) (cpSEED c.d) r))

/-- The running register before the first byte of a command, from the register after the commands before it (R322). -/
def crcFold (slot : Nat) (tag : BitVec 32) : List Copy → BitVec 32 → BitVec 32
  | [], r => r
  | c :: l, r =>
    if c.tag = tag then r
    else crcFold slot tag l (if c.slot = slot ∧ cpCRCMODE c.d ≠ 0 then c.crcFrom r else r)

/-- The running value of a command so far (R322). -/
def State.crcOf (s : State) (t e : Nat) (c : Copy) : BitVec 32 :=
  c.crcFrom (crcFold c.slot c.tag (s.burinAt t e).q ((s.ctxAt t c.slot).crc.getD e 0))

/-- The tag of a command with the banks that it reserves (R244, R309); one that has been stopped reserves none. -/
def Copy.banks (c : Copy) : BitVec 32 × Nat := (c.tag, if c.stop.isSome then 0 else cpBANKMASK c.d)

/-- The command has reached its end and CRCMODE 3 finds a mismatch (R322); one that a write outlives goes on after its resumption
(R344). -/
def State.crcBad (s : State) (t e : Nat) (c : Copy) : Bool :=
  cpCRCMODE c.d == 3 && c.err == 0 && !c.cut && c.doneb == cpLEN c.d && (~~~(s.crcOf t e c)).toNat != cpEXPECT c.d

/-- STATE of a command that is complete (R316, R328, R344): one that pre-emption stopped is STOPPED unless its every unit has completed
and its actions are still to come. -/
def Copy.endState (c : Copy) (crcBad : Bool) : Nat :=
  if c.stop = some 5 then 5
  else if c.stop = some 6 ∧ (c.err ≠ 0 ∨ c.doneb ≠ cpLEN c.d ∨ c.cut ∨ c.phase ≠ 0) then 6
  else if c.err ≠ 0 ∨ crcBad = true then 4
  else 3

/-- The status word of a command in a state (R319). -/
def State.copyStatus (s : State) (t e : Nat) (c : Copy) (st : Nat) (crcBad : Bool) : W64 :=
  let crc := if cpCRCMODE c.d = 0 then 0 else (~~~(s.crcOf t e c)).toNat
  BitVec.ofNat 64 (crc + Nat.min c.retries 255 * 2 ^ 32 + st * 2 ^ 40 + (if crcBad then 5 else c.err) * 2 ^ 44 +
    c.pout * 2 ^ 48 + c.walk * 2 ^ 52 + c.barc * 2 ^ 56)

/-- The status that CSTAT reports for a tag of a context (R319, R327). -/
def State.tagStatus (s : State) (t slot e : Nat) (tag : BitVec 32) : W64 :=
  let c := s.ctxAt t slot
  match s.copyOf t e tag with
  | some m => if m.slot = slot then s.copyStatus t e m (if m.began then 2 else if m.stop.isSome then 5 else 1) false else 0
  | none => (((c.kept.getD e []).find? fun k => k.tag == tag).map (·.status)).getD 0

/-! ## The local side (R313, R316, R317) -/

/-- Another member's part of the gang window. -/
def isOther (c : Ctx) (a : Nat) : Bool := decide (gangBase ≤ a) && (a - gangBase) / 2 ^ 23 != c.gangidx

/-- The end of the space that holds an address (R29). -/
def spaceEnd (a : Nat) : Nat :=
  if a < 0x800000 then 0x800000
  else if a < 0xB00000 then 0xB00000
  else if a < gangBase then 0
  else gangBase + ((a - gangBase) / 2 ^ 23 + 1) * 2 ^ 23

/-- Why a copy does not go on: an error of R316, or a stall at a tile's entry. -/
inductive CStop where
  | err (code : Nat)
  | stall (tile addr : Nat) (store : Bool)
  deriving DecidableEq, Repr

/-- The place of `n` bytes at `a` on a side that starts at `start`; `peer` admits another member's part. -/
def copyLoc (s : State) (t slot start a n : Nat) (store peer : Bool) : Except CStop Loc :=
  let c := s.ctxAt t slot
  if spaceEnd start < a + n ∨ (isOther c a ∧ !peer) then .error (.err 2)
  else match s.engLoc t slot a n store true true with
    | .access => .error (.err 2)
    | .stall => .error (.stall (if isOther c a then (s.memberTile c ((a - gangBase) / 2 ^ 23)).getD t else t) a store)
    | .ok l => .ok l

/-- The place of `n` bytes at scratchpad address `a` of a member's tile (R313, R314). -/
def memberLoc (s : State) (t slot h a n : Nat) : Except CStop Loc :=
  if 0x800000 < a + n then .error (.err 2)
  else match s.engRegion slot h (s.ctxAt t slot) (h != t) a true with
    | .access => .error (.err 2)
    | .stall => .error (.stall h a true)
    | .ok l => .ok l

/-- A range cut at 64-byte lines: address and length of each part. -/
def lineSplit : Nat → Nat → Nat → List (Nat × Nat)
  | 0, _, _ => []
  | f + 1, a, n => if n = 0 then [] else
      let m := Nat.min n (64 - a % 64)
      (a, m) :: lineSplit f (a + m) (n - m)

/-- The lines of a range of at most 4 KiB. -/
def linesOf (a n : Nat) : List (Nat × Nat) := lineSplit 66 a n

/-- A value of `n` bytes at a key cut at doublewords. -/
def dwPieces : Nat → Nat → Nat → Nat → List (Nat × Nat × Nat)
  | 0, _, _, _ => []
  | f + 1, key, n, x => if n = 0 then [] else
      let m := Nat.min n (8 - key % 8)
      (key, m, x % 2 ^ (8 * m)) :: dwPieces f (key + m) (n - m) (x / 2 ^ (8 * m))

/-- Results of a list in order, or the first failure. -/
def inOrder {α β : Type} (f : α → Except CStop β) : List α → Except CStop (List β)
  | [] => .ok []
  | a :: r => match f a with
    | .error e => .error e
    | .ok b => match inOrder f r with
      | .error e => .error e
      | .ok l => .ok (b :: l)

/-- Some doubleword of `n` bytes from a key is poisoned. -/
def State.anyPoison (s : State) (key n : Nat) : Bool := (dwsOf key n).any fun d => s.poisoned (8 * d)

/-- The bytes of a local source range, read by engine `e` for a context (R301, R313), which sees the writes `more` of its own too: the
state after the reads and the bytes. -/
def readSide (s : State) (t slot e start a n : Nat) (peer : Bool) (more : List PortW) : State × Except CStop Nat :=
  match inOrder (fun x : Nat × Nat => (copyLoc s t slot start x.1 x.2 false peer).map fun l => (l.key, x.2)) (linesOf a n) with
  | .error x => (s, .error x)
  | .ok ls =>
    let r := s.sramReads (ls.flatMap fun l => dwsOf l.1 l.2)
    let v := ({ r.1 with portE := r.1.portE ++ more } : State).seen t e (s.ownerAt t slot)
    (r.2, if ls.any fun l => v.anyPoison l.1 l.2 then .error (.err 3)
      else .ok (ls.foldr (fun l x => v.rd l.1 l.2 + x * 2 ^ (8 * l.2)) 0))

/-- The writes of a range to local memory: home and pieces of each line. -/
def linePieces (places : List (Loc × Nat)) : Nat → List (Nat × List (Nat × Nat × Nat))
  | x => match places with
    | [] => []
    | (l, n) :: r => (l.home, dwPieces 9 l.key n (x % 2 ^ (8 * n))) :: linePieces r (x / 2 ^ (8 * n))

/-- Lines as writes of an engine for a context (R301). -/
def lineWrites (t e : Nat) (own : Option (Nat × BitVec 32)) (c : BitVec 32 × Nat) (l : List (Nat × List (Nat × Nat × Nat))) :
    List PortW :=
  l.map fun x =>
    { home := x.1, src := t, eng := e, pieces := x.2, marks := List.replicate x.2.length false, own := own, cmd := c.1, banks := c.2 }

/-- Writes queued at their banks (R301). -/
def State.queueAll (s : State) (l : List PortW) : State := { s with portE := s.portE ++ l.filter fun w => !w.pieces.isEmpty }

/-- The places of a command's destination range, member by member (R313, R314). -/
def destPlaces (s : State) (t : Nat) (c : Copy) (off n : Nat) : Except CStop (List (List (Loc × Nat))) :=
  let a := cpDST c.d + off
  if cpKIND c.d = 4 then
    inOrder (fun g => match s.memberTile (s.ctxAt t c.slot) g with
      | none => .error (.err 2)
      | some h => inOrder (fun x : Nat × Nat => (memberLoc s t c.slot h x.1 x.2).map fun l => (l, x.2)) (linesOf a n))
      (cpMembers c.d)
  else
    (inOrder (fun x : Nat × Nat =>
      (copyLoc s t c.slot (cpDST c.d) x.1 x.2 true (cpKIND c.d == 3)).map fun l => (l, x.2)) (linesOf a n)).map fun l => [l]

/-- Every line of a destination range with its length, each placed or not (R281). -/
def markLines (s : State) (t : Nat) (c : Copy) (off n : Nat) : List (Except CStop (Loc × Nat)) :=
  let a := cpDST c.d + off
  if cpKIND c.d = 4 then
    (cpMembers c.d).flatMap fun g => match s.memberTile (s.ctxAt t c.slot) g with
      | none => []
      | some h => (linesOf a n).map fun x => (memberLoc s t c.slot h x.1 x.2).map fun l => (l, x.2)
  else (linesOf a n).map fun x => (copyLoc s t c.slot (cpDST c.d) x.1 x.2 true false).map fun l => (l, x.2)

/-- The first line of a list that stalls (R317). -/
def firstStall : List (Except CStop (Loc × Nat)) → Option (Nat × Nat × Bool)
  | [] => none
  | .error (.stall h a w) :: _ => some (h, a, w)
  | _ :: r => firstStall r

/-- TAG_FAIL (R281): the doublewords of the destination bytes that a plate would have supplied are marked, wherever they have a place. -/
def State.poisonDest (s : State) (t e : Nat) (c : Copy) (off n : Nat) : State :=
  (markLines s t c off n).foldl (fun s x => match x with
    | .error _ => s
    | .ok (l, m) =>
      let ds := dwsOf l.key m
      s.queueFor l.home t e (s.ownerAt t c.slot) c.banks (ds.map fun d => (8 * d, 0, 0)) (ds.map fun _ => true)) s

/-! ## Units (R308, R314) -/

/-- Every unit of an engine: those of its commands and the fills that no command makes. -/
def Burin.flights (b : Burin) : List CUnit := b.units ++ b.fetch

/-- A list of units with one of them changed. -/
def unitSet (uid : Nat) (f : CUnit → CUnit) (l : List CUnit) : List CUnit := l.map fun u => if u.uid == uid then f u else u

namespace State

/-- A unit of an engine changed. -/
def modUnit (s : State) (t e uid : Nat) (f : CUnit → CUnit) : State :=
  s.modBurin t e fun b => { b with units := unitSet uid f b.units, fetch := unitSet uid f b.fetch }

/-- A unit that fails gives back its plate and its lines. -/
def failUnit (s : State) (t e uid err walk pout : Nat) : State :=
  let s := s.modUnit t e uid fun u => { u with st := .failed err walk pout }
  { s with hbm := s.hbm.map fun k =>
      { k with reqs := k.reqs.filter fun r => r.tile != t || r.eng != e || r.uid != uid || r.reseal,
               holds := k.holds.filter fun h => h.2 != (t, e, uid) } }

/-- Partition of a tile; a tile of no partition has the firmware's number, 32 (R265). -/
def partOf (s : State) (t : Nat) : Nat := (s.tileAt t).partid.getD 32

/-- A unit has its translation and reaches the counter unit (R280). -/
def reachUnit (s : State) (t e uid : Nat) (pte : W64) (big : Bool) (pa : Nat) : State :=
  { s.modUnit t e uid fun u => { u with st := .wait, pte := pte, big := big, pa := pa, age := s.reached } with reached := s.reached + 1 }

/-- A unit looked up in its engine's translation cache (R266, R268). -/
def lookup (s : State) (t e : Nat) (u : CUnit) : State :=
  if 2 ^ 48 ≤ u.va then s.failUnit t e u.uid 1 1 0
  else match (s.burinAt t e).hit (s.partOf t) u.va with
    | none => s
    | some x =>
      if accOk x.pte u.acc then s.reachUnit t e u.uid x.pte x.big (paOf x.pte x.big u.va)
      else (s.failUnit t e u.uid 1 7 0).modUnit t e u.uid fun u => { u with big := x.big }

/-- The number of an engine's next unit used up. -/
def nextUid (s : State) (t e : Nat) : State := s.modBurin t e fun b => { b with uid := b.uid + 1 }

end State

/-- Rights that a unit of a command needs (R266, R279). -/
def unitAcc (d : BitVec 512) (len : Nat) : Nat := if cpWrite d then (if len = 4096 then 2 else 3) else 1

/-- The next unit of a command: offset, length and the base of its plate (R308, R314). -/
def Copy.nextUnit (c : Copy) : Nat × Nat × Nat :=
  let left := cpLEN c.d - c.next
  if cpFill c.d ∨ cpWrite c.d then
    let a := (if cpWrite c.d then cpDST c.d else cpSRC c.d) + c.next
    (c.next, Nat.min left (4096 - a % 4096), a / 4096 * 4096)
  else (c.next, Nat.min left 4096, 0)

/-- A command that issues requests: begun, with bytes left, neither stopped nor failed, its context not pre-empted. -/
def State.issuing (s : State) (t : Nat) (c : Copy) : Bool :=
  c.began && !c.fin && c.stop.isNone && c.err == 0 && decide (c.next < cpLEN c.d) && (s.ctxAt t c.slot).preStep == 0

/-- The engine issues its next unit, if one may be in flight (R308). -/
def State.issueUnit (s : State) (t e : Nat) : State :=
  let b := s.burinAt t e
  match b.q.find? (s.issuing t) with
  | none => s
  | some c =>
    if 16 ≤ b.units.length then s
    else
      let n := c.nextUnit
      let hbm := cpFill c.d || cpWrite c.d
      let u : CUnit :=
        { uid := b.uid, tag := c.tag, off := n.1, len := n.2.1, va := n.2.2, acc := unitAcc c.d n.2.1, wr := cpWrite c.d,
          st := if hbm then .walk else .ready 0 }
      let s := ((s.modBurin t e fun b => { b with units := b.units ++ [u] }).nextUid t e).modCopy t e c.tag fun c =>
        { c with next := c.next + n.2.1 }
      if hbm then s.lookup t e u else s

/-- The stages of lines of a unit's fill, from the next one on (R277). -/
def State.openStage (s : State) (t e : Nat) (u : CUnit) (img out : Nat) : List (List Nat) → State
  | [] => s.modUnit t e u.uid fun u => { u with st := .lines img 0 out, more := [] }
  | l :: r =>
    (s.modUnit t e u.uid fun u => { u with st := .lines img l.length out, more := r }).modStack (stkOf u.pa) fun k =>
      { k with reqs := k.reqs ++ lineReqs k t e u.uid (permOf k (pteHSEL u.pte) (stkOff u.pa)) false (u.kind == .table) false l }

/-- A counter block on a plate's path that does not verify marks its group or its node FAILED (R275, R282). -/
def State.markBlocks (s : State) (pa : Nat) : State :=
  let k := s.stackAt (stkOf pa)
  match k.span? pa with
  | none => s
  | some sp =>
    if !s.macOk k sp.part (k.node pa) (k.root pa) (nodePa pa) (inSpan pa) then s.modStack (stkOf pa) fun k => k.failBlock true pa
    else if !s.macOk k sp.part (k.leaf pa) (k.node pa) (leafPa pa) (inNode pa) then s.modStack (stkOf pa) fun k => k.failBlock false pa
    else s

/-- The counter unit grants a unit that waits (R280, R289): the plate as it stands is what a fill returns; a partial write holds
the plate from here. None while the plate is held. -/
def State.grantUnit (s : State) (t e : Nat) (u : CUnit) : Option State :=
  let st := stkOf u.pa
  let k := s.stackAt st
  let out := s.plateOut (s.partOf t) (pteKEY u.pte) (pteHSEL u.pte) u.pa
  if out = 2 then some ((s.markBlocks u.pa).failUnit t e u.uid 4 0 2)
  else if out = 4 then some (s.failUnit t e u.uid 4 0 4)
  else if k.heldFor u.pa t e u.uid then none
  else
    let s := s.modStack st fun k => k.settleBlock u.pa (permOf k (pteHSEL u.pte) (stkOff u.pa))
    if u.wr ∧ u.len = 4096 then some (s.modUnit t e u.uid fun u => { u with st := .ready 0 })
    else
      let s := if u.wr then s.modStack st fun k => { k with holds := k.holds ++ [(stkOff u.pa / 4096, t, e, u.uid)] } else s
      let ctr := (s.burinAt t e).ctr
      let s := s.modUnit t e u.uid fun u => { u with ctrs := verified ctr u.pa }
      some (s.openStage t e u (s.rd u.pa 4096) out (readStages ctr u.pa))

/-! ### Writes at their counter unit (R279, R280, R283, R285, R286) -/

/-- A write under way elsewhere than in unit (t, e, uid) whose plate lies in the same 2^n bytes. -/
def State.busyIn (s : State) (pa n t e uid : Nat) : Bool :=
  s.tiles.zipIdx.any fun x => x.1.burin.zipIdx.any fun b => b.1.units.any fun w =>
    (match w.st with
      | .sealing _ => true
      | .writing _ _ => true
      | _ => false) && (x.2, b.2, w.uid) != (t, e, uid) && w.pa / 2 ^ n == pa / 2 ^ n

/-- The plates of a re-seal of a group, the leaf blocks of a node's, the node blocks of a span's. -/
def Reseal.items (r : Reseal) : Nat := if r.level = 2 then 32 else 64

/-- Address of item `i`, and of the whole. -/
def Reseal.pa (r : Reseal) (st i : Nat) : Nat :=
  st * 2 ^ 36 + if r.level = 0 then r.idx * 2 ^ 18 + i * 2 ^ 12 else if r.level = 1 then r.idx * 2 ^ 24 + i * 2 ^ 18
    else r.idx * 2 ^ 29 + i * 2 ^ 24

/-- The lines of item `i`; after the last item come the blocks that hold the new counters. -/
def Reseal.lines (r : Reseal) (st i : Nat) : List Nat :=
  let pa := r.pa st i
  if i < r.items then
    if r.level = 0 then plateLines pa else if r.level = 1 then blockLines (leafPa pa) else blockLines (nodePa pa)
  else
    let own := r.pa st 0
    if r.level = 0 then blockLines (leafPa own) ++ blockLines (nodePa own) else if r.level = 1 then blockLines (nodePa own) else []

/-- Items that a re-seal reads, or writes. -/
def Reseal.steps (r : Reseal) : Nat := if r.wr ∧ r.level < 2 then r.items + 1 else r.items

/-- Every line of the re-seal is performed, or a check has failed and nothing is written (R283). -/
def Reseal.over (r : Reseal) : Bool := r.wr && decide (r.steps ≤ r.i)

/-- The name of a re-seal on its stack: the group, 2^18 plus the node, or 2^19 plus the span. -/
def Reseal.code (r : Reseal) : Nat := if r.level = 0 then r.idx else if r.level = 1 then 2 ^ 18 + r.idx else 2 ^ 19 + r.idx

/-- A re-seal takes up item `i`: its lines are requested in the slots of the requester that triggered it (R284). -/
def State.resealItem (s : State) (st : Nat) (r : Reseal) : State :=
  let l := if r.over then [] else r.lines st r.i
  s.modStack st fun k =>
    let perm := match (k.sealOf (r.pa st r.i)).perm with
      | some p => p
      | none => 0
    { k with
      reqs := k.reqs ++ lineReqs k r.tile r.eng r.code perm r.wr false true l,
      reseals := (k.reseals.filter fun y => y.code != r.code) ++ [{ r with left := l.length }] }

/-- A re-seal of an address's group, node or span is under way, or of something within it. -/
def Stack.resealsIn (k : Stack) (pa n : Nat) : Bool :=
  k.reseals.any fun r => r.pa (stkOf pa) 0 / 2 ^ n == pa / 2 ^ n

/-- Size of what a level re-seals, as a power of two. -/
def levelBits (level : Nat) : Nat := if level = 0 then 18 else if level = 1 then 24 else 29

/-- A re-seal may begin: no write and no re-seal in its group, node or span is under way. -/
def State.resealFree (s : State) (t e : Nat) (u : CUnit) (level : Nat) : Bool :=
  !s.busyIn u.pa (levelBits level) t e u.uid && !(s.stackAt (stkOf u.pa)).resealsIn u.pa (levelBits level)

/-- The block of a level in a state. -/
def Stack.setSt (k : Stack) (level pa : Nat) (g : GroupSt) : Stack :=
  if level = 0 then k.setLeaf pa { k.leaf pa with st := g }
  else if level = 1 then k.setNode pa { k.node pa with st := g }
  else k.setRoot pa { k.root pa with st := g }

/-- A re-seal begins (R283, R285): its group, node or span is held. -/
def State.beginReseal (s : State) (t e : Nat) (u : CUnit) (level : Nat) : State :=
  let st := stkOf u.pa
  let r : Reseal := { level := level, idx := stkOff u.pa / 2 ^ levelBits level, tile := t, eng := e, uid := u.uid }
  (s.modStack st fun k => k.setSt level u.pa .resealing).resealItem st r

/-- The commit of a write begins (R279): the counter unit raises the minors, and the lines go out. -/
def State.beginWrite (s : State) (t e : Nat) (u : CUnit) (img : Nat) : State :=
  ((s.dropCounters u.pa).modStack (stkOf u.pa) fun k =>
    let k := k.raiseAll u.pa
    { k with
      holds := (k.holds.filter fun h => h.2 != (t, e, u.uid)) ++ [(stkOff u.pa / 4096, t, e, u.uid)],
      reqs := k.reqs ++ lineReqs k t e u.uid (permOf k (pteHSEL u.pte) (stkOff u.pa)) true false false (writeLines u.pa) }).modUnit t e u.uid
    fun u => { u with st := .writing img (writeLines u.pa).length }

/-- A write begins the re-seal of its group (R283): the plate is held, and its bytes wait for the group's commit. -/
def State.sealWrite (s : State) (t e : Nat) (u : CUnit) (img : Nat) : State :=
  ((s.modStack (stkOf u.pa) fun k =>
    { k with holds := (k.holds.filter fun h => h.2 != (t, e, u.uid)) ++ [(stkOff u.pa / 4096, t, e, u.uid)] }).beginReseal t e u 0).modUnit
    t e u.uid fun u => { u with st := .sealing img }

/-- A unit is committed. -/
def CUnit.isCommitted (u : CUnit) : Bool :=
  match u.st with
  | .committed _ => true
  | _ => false

/-- Every earlier unit of the command is committed. -/
def earlierDone (u : CUnit) (l : List CUnit) : Bool :=
  (l.takeWhile fun x => x.uid != u.uid).all fun x => x.tag != u.tag || x.isCommitted

/-- A write of a plate's new bytes at its counter unit (R279, R283, R285, R286): its commit begins, a minor that is full begins a re-seal
at its level, and an exhausted MAJOR refuses it. None while its plate or group is held. -/
def State.putWrite (s : State) (t e : Nat) (u : CUnit) (img : Nat) : Option State :=
  let st := stkOf u.pa
  let k := s.stackAt st
  let out := s.plateOut (s.partOf t) (pteKEY u.pte) (pteHSEL u.pte) u.pa
  let need := k.needs u.pa
  if out = 2 ∨ out = 4 then some (s.failUnit t e u.uid 4 0 out)
  else if k.heldFor u.pa t e u.uid then none
  else match k.exhaust u.pa with
    | some k' =>
      let s := (s.modStack st fun _ => k').failUnit t e u.uid 4 0 3
      some (match s.copyOf t e u.tag with
        | some c => s.postTrap t c.slot cPLATE_COUNTER (BitVec.ofNat 64 u.va)
        | none => s)
    | none =>
      if (need.any fun n => !s.resealFree t e u n || (n == 0 && !earlierDone u (s.burinAt t e).units)) then none
      else match need with
        | none => some (s.beginWrite t e u img)
        | some 0 => some (s.sealWrite t e u img)
        | some n => some (s.beginReseal t e u n)

/-- What the counter unit does for a unit that asks it. -/
def State.answerUnit (s : State) (t e : Nat) (u : CUnit) : Option State :=
  match u.st with
  | .held img => s.putWrite t e u img
  | _ => s.grantUnit t e u

/-- The first unit of the commands that is not yet granted, when its translation is known. -/
def nextGrant : List CUnit → Option CUnit
  | [] => none
  | u :: r => match u.st with
    | .walk => none
    | .wait => some u
    | _ => nextGrant r

/-- A write that its counter unit holds. -/
def CUnit.isHeld (u : CUnit) : Bool :=
  match u.st with
  | .held _ => true
  | _ => false

/-- A fill that waits for more than its translation (R49). -/
def CUnit.wantsPlate (u : CUnit) : Bool := u.st == .wait && u.len != 0

/-- The units of an engine that ask the counter units: the first of its commands, its writes that are held, and its other fills. -/
def Burin.asking (b : Burin) : List CUnit :=
  (nextGrant b.units).toList ++ b.units.filter CUnit.isHeld ++ b.fetch.filter CUnit.wantsPlate

/-- A unit put in its place among others, in the order in which they reached the counter units. -/
def byAge (x : Nat × Nat × CUnit) : List (Nat × Nat × CUnit) → List (Nat × Nat × CUnit)
  | [] => [x]
  | y :: r => if x.2.2.age < y.2.2.age then x :: y :: r else y :: byAge x r

/-- Every unit that asks, in the order in which they reached the counter units (R280, R283). -/
def State.asking (s : State) : List (Nat × Nat × CUnit) :=
  (s.tiles.zipIdx.flatMap fun x => x.1.burin.zipIdx.flatMap fun b => b.1.asking.map fun u => (x.2, b.2, u)).foldr byAge []

/-- Units granted in order of arrival, as many as can be. -/
def State.grants (s : State) : Nat → State
  | 0 => s
  | n + 1 => match s.asking.findSome? fun x => s.answerUnit x.1 x.2.1 x.2.2 with
    | none => s
    | some s' => s'.grants n

/-- Units that have not been granted. -/
def State.waiters (s : State) : Nat :=
  (s.tiles.map fun x => (x.burin.map fun b => (b.flights.filter fun u => u.st == .wait || u.isHeld).length).sum).sum

/-- The counter units grant what they can. -/
def State.grantAll (s : State) : State := s.grants s.waiters

/-- Units issued, as many as can be. -/
def State.issues (s : State) (t e : Nat) : Nat → State
  | 0 => s
  | n + 1 => (s.issueUnit t e).issues t e n

/-- An engine issues and the counter units grant what they can. -/
def State.pump (s : State) (t e : Nat) : State := (s.issues t e 16).grantAll

/-- Every engine that has something to do goes on, after a plate or a group is released. -/
def State.pumpAll (s : State) : State :=
  ((s.tiles.zipIdx).foldl (fun s x => (x.1.burin.zipIdx).foldl (fun s b =>
    if b.1.q.isEmpty then s else s.issues x.2 b.2 16) s) s).grantAll

/-! ## Fills that no command makes (R49, R183, R268) -/

/-- A fill of a kind under way for an address. -/
def Burin.fetchOf (b : Burin) (kind : FillKind) (va : Nat) : Option CUnit := b.fetch.find? fun u => u.kind == kind && u.va == va

/-- A fill leaves its engine. -/
def State.dropFetch (s : State) (t e uid : Nat) : State :=
  s.modBurin t e fun b => { b with fetch := b.fetch.filter fun u => u.uid != uid }

/-- Engine 0 of a tile begins the fill of a plate, or with `len` 0 no more than its translation (R49, R183). -/
def State.startFetch (s : State) (t : Nat) (kind : FillKind) (va acc len : Nat) : State :=
  let u : CUnit := { uid := (s.burinAt t 0).uid, kind := kind, va := va, acc := acc, len := len, st := .walk }
  (((s.modBurin t 0 fun b => { b with fetch := b.fetch ++ [u] }).nextUid t 0).lookup t 0 u).grantAll

/-! ## CPY, CWAIT, CSTAT and CCAN (R307, R325 to R328) -/

/-- An engine's command queue is full (R307). -/
def Burin.full (b : Burin) : Bool := decide (16 ≤ (b.q.filter fun c => !c.began && c.stop.isNone).length)

/-- CPY (R325). -/
def cpy (i : Instr) (f : FCopy) (s : State) : WordRes :=
  let e := f.e.toNat
  let t := s.iss.tile
  let a := s.srcS i 0
  if (s.burinAt t e).full then .hold
  else match readDesc s a 64 true with
    | (.error x, s) => .trap x.1 x.2 s
    | (.ok x, s) =>
      let d := BitVec.ofNat 512 x
      if !cpyOk d s.iss.pre.gangsize then .trap cILLEGAL_STATE 0 s
      else
        let tag := (s.burinAt t e).seq + 1
        let s := s.modBurin t e fun b =>
          { b with seq := tag, q := b.q ++ [{ tag := tag, slot := s.iss.slot, d := d, da := a.v.toNat }] }
        .ok (s.resNoLatch f.d true { v := tag.setWidth 64 })

/-- CWAIT (R326): its completion is a context switch (R341). -/
def cwait (i : Instr) (f : FCopy) (s : State) : WordRes :=
  let e := f.e.toNat
  let a := s.srcS i 0
  if a.p then .trap cPOISON 0 s
  else
    let tag := s.iss.pre.alias1 e (a.v.setWidth 32)
    let s := s.modIss fun x => { x with switch := true }
    let done := (s.burinAt s.iss.tile e).done
    if decide ((done - tag).toNat < 2 ^ 31) then
      .ok (s.resNoLatch f.d true { v := s.tagStatus s.iss.tile s.iss.slot e tag })
    else .wait (.cwait f.d e tag) s

/-- CSTAT (R327). -/
def cstat (i : Instr) (f : FCopy) (s : State) : WordRes :=
  let e := f.e.toNat
  let a := s.srcS i 0
  if a.p then .trap cPOISON 0 s
  else .ok (s.resNoLatch f.d true
    { v := s.tagStatus s.iss.tile s.iss.slot e (s.iss.pre.alias1 e (a.v.setWidth 32)) })

/-- CCAN (R328). -/
def ccan (i : Instr) (f : FCopy) (s : State) : WordRes :=
  let e := f.e.toNat
  let t := s.iss.tile
  let slot := s.iss.slot
  let a := s.srcS i 0
  if a.p then .trap cPOISON 0 s
  else
    let tag := s.iss.pre.alias1 e (a.v.setWidth 32)
    let s := s.stopCopies t e (fun c => c.tag == tag && c.slot == slot) 5
    .ok (s.resNoLatch f.d true { v := s.tagStatus t slot e tag })

def execCpy (f : FCopy) (s : State) := runWord (.cpy f) (cpy (.cpy f) f) s
def execCwait (f : FCopy) (s : State) := runWord (.cwait f) (cwait (.cwait f) f) s
def execCstat (f : FCopy) (s : State) := runWord (.cstat f) (cstat (.cstat f) f) s
def execCcan (f : FCopy) (s : State) := runWord (.ccan f) (ccan (.ccan f) f) s

/-! ## Walks (R265 to R269) -/

/-- The units of an engine that wait for the translation of a page; of a large page, those of all its parts. -/
def CUnit.wants (u : CUnit) (va : Nat) (big : Bool) : Bool := u.st == .walk && pageOf big u.va == pageOf big va

/-- A unit takes the result of a walk under its own rights (R266). -/
def State.walkOne (s0 s : State) (w : Walk) (bad : Bool) (t e : Nat) (u : CUnit) : State :=
  match if bad then .fail 2 false else s0.walkVa (dieOf w.tile) w.part u.va u.acc w.known with
  | .fail n big => (s.failUnit t e u.uid 1 n 0).modUnit t e u.uid fun u => { u with big := big }
  | .ok pte big seen => (s.learn t e w.part u.va pte big seen).reachUnit t e u.uid pte big (paOf pte big u.va)
  | .need _ _ => s

/-- A walk ends: every unit on the die that waits for its page gets the result (R268); `bad` tells a table read that failed. -/
def State.endWalk (s : State) (w : Walk) (bad : Bool) : State :=
  let va := w.page * 65536
  let big := match s.walkVa (dieOf w.tile) w.part va 0 w.known with
    | .ok _ b _ => !bad && b
    | _ => false
  let die := dieOf w.tile
  let engines := (List.range 64).flatMap fun i => [(64 * die + i, 0), (64 * die + i, 1)]
  (engines.foldl (fun s1 x =>
    if s.partOf x.1 = w.part then
      ((s.burinAt x.1 x.2).flights.filter fun u => u.wants va big).foldl (fun s1 u => s.walkOne s1 w bad x.1 x.2 u) s1
    else s1) s).pumpAll

/-- A table read under the partition's own key, of the plate that holds an entry; tables lie under hash set 0 (R266, R268; DEDUCED,
log 28). -/
def State.readTable (s : State) (w : Walk) (key pa : Nat) : State :=
  let b := s.burinAt w.tile w.eng
  let u : CUnit :=
    { uid := b.uid, kind := .table, va := w.page * 65536, off := pa % 4096, pte := BitVec.ofNat 64 (w.part * 2 ^ 53), pa := pa / 4096 * 4096,
      st := .wait, age := s.reached }
  let s : State := { s with reached := s.reached + 1 }
  (((s.modBurin w.tile w.eng fun b => { b with fetch := b.fetch ++ [u] }).nextUid w.tile w.eng).modDie (dieOf w.tile) fun d =>
    { d with walking := d.walking ++ [{ w with need := key }] }).grantAll

/-- A walk goes on as far as the entries read allow. -/
def State.walkOn (s : State) (w : Walk) : State :=
  let s := s.modDie (dieOf w.tile) fun d => { d with walking := d.walking.filter fun x => !(x.part == w.part && x.page == w.page) }
  match s.walkVa (dieOf w.tile) w.part (w.page * 65536) 0 w.known with
  | .need key pa => s.readTable w key pa
  | _ => s.endWalk w false

/-- The walk under way for a page of a partition (R268). -/
def Die.walkOf (d : Die) (p page : Nat) : Option Walk := d.walking.find? fun w => w.part == p && w.page == page

/-- The table read of a walk. -/
def State.tableUnit (s : State) (w : Walk) : Option CUnit := (s.burinAt w.tile w.eng).fetchOf .table (w.page * 65536)

/-- WALK (R266, R268, R269): the walk for one page of one partition on the tile's die begins, or takes the entry that its table read
brought and goes on; its end serves every unit that waits for the page. -/
def execWalk (t e va acc : Nat) (s : State) : Host.Outcome State Fault Refusal :=
  let p := s.partOf t
  let d := s.dieAt (dieOf t)
  match d.walkOf p (va / 65536) with
  | none =>
    if ((s.burinAt t e).flights.any fun u => u.wants va false && u.acc == acc) ∧ d.walking.length < 64 then
      .next (s.walkOn { part := p, page := va / 65536, tile := t, eng := e })
    else .next s
  | some w => match s.tableUnit w with
    | none => .next (s.walkOn w)
    | some u => match u.st with
      | .ready img =>
        .next ((s.dropFetch w.tile w.eng u.uid).walkOn { w with known := (w.need, BitVec.ofNat 64 (bits img (8 * u.off) 64)) :: w.known })
      | .failed _ _ _ =>
        let s := s.dropFetch w.tile w.eng u.uid
        .next ((s.modDie (dieOf t) fun d => { d with walking := d.walking.filter fun x => !(x.part == p && x.page == va / 65536) }).endWalk
          w true)
      | _ => .next s

/-! ## Lines (R256, R258, R264) -/

/-- What a metadata line holds: a line of a leaf block, of a node block, or neither (R273). -/
def blockLine (line : Nat) : Option Bool :=
  if 64 * line < 0xFF0000000 then none else some (decide (0xFF4000000 ≤ 64 * line))

/-- A line joins the unit that reads it; `bad` tells an error that the base die could not correct: in a plate or its tag the check of the
plate will fail, in a counter block the block's MAC does (R264, R277, R281, R282). -/
def State.lineIn (s : State) (st : Nat) (r : LineReq) (bad : Bool) : State :=
  match (s.burinAt r.tile r.eng).flights.find? fun u => u.uid == r.uid with
  | none => s
  | some u => match u.st with
    | .lines img left out =>
      let block := blockLine r.line
      let s := match bad, block with
        | true, some node => s.modStack st fun k => k.failBlock node u.pa
        | _, _ => s
      let out := if bad ∧ out ≠ 2 then (if block.isSome then 2 else 1) else out
      if 1 < left then s.modUnit r.tile r.eng r.uid fun u => { u with st := .lines img (left - 1) out }
      else s.openStage r.tile r.eng u img out (if out = 2 then [] else u.more)
    | _ => s

/-! ## Re-seals (R283 to R285) -/

/-- The item after the one that is done; the writes follow the last read, unless a check has failed. -/
def Reseal.next (r : Reseal) : Reseal :=
  if r.wr ∨ r.i + 1 < r.steps then { r with i := r.i + 1 }
  else if r.bad then { r with wr := true, i := 65 }
  else { r with wr := true, i := 0 }

/-- A line of a re-seal has come, or is performed. -/
def State.resealLine (s : State) (st : Nat) (q : LineReq) (bad : Bool) : State :=
  match (s.stackAt st).reseals.find? fun r => r.code == q.uid with
  | none => s
  | some r =>
    let s := if bad && r.level != 0 then s.modStack st fun k => k.failBlock (r.level == 2) (r.pa st r.i) else s
    let r := { r with bad := r.bad || (bad && r.level == 0) }
    if 1 < r.left then s.modStack st fun k =>
      { k with reseals := k.reseals.map fun y => if y.code = r.code then { r with left := r.left - 1 } else y }
    else s.resealItem st r.next

/-- Some plate of a group fails its check (R283 step 2). -/
def Stack.groupBad (k : Stack) (pa : Nat) : Bool :=
  (List.range 64).any fun i =>
    let x := pa / 2 ^ 18 * 2 ^ 18 + 4096 * i
    !k.tagOk x (((k.sealOf x).perm).getD 0)

/-- The plates of a group sealed again under its counters (R283 step 4). -/
def Stack.sealGroup (k : Stack) (pa : Nat) : Stack :=
  let n := stkOff pa / 2 ^ 18
  { k with
    seals := (k.seals.filter fun x => x.1 / 64 != n) ++ (List.range 64).map fun i =>
      let x := pa / 2 ^ 18 * 2 ^ 18 + 4096 * i
      (64 * n + i, { k.sealNow x 0 with perm := (k.sealOf x).perm }) }

/-- The leaf blocks of a node MACed again under its counters; one that does not verify leaves its group FAILED (R282, R285). -/
def Stack.remacLeaves (k : Stack) (node : CBlock) (pa : Nat) : Stack :=
  (List.range 64).foldl (fun k i =>
    let x := pa / 2 ^ 24 * 2 ^ 24 + i * 2 ^ 18
    k.setLeaf x ((k.leaf x).remac (leafPa x) node i)) k

/-- The node blocks of a span MACed again under its root (R285). -/
def Stack.remacNodes (k : Stack) (root : CBlock) (pa : Nat) : Stack :=
  (List.range 32).foldl (fun k i =>
    let x := pa / 2 ^ 29 * 2 ^ 29 + i * 2 ^ 24
    k.setNode x ((k.node x).remac (nodePa x) root i)) k

/-- The counters of a stack after a re-seal commits (R283 steps 3 and 4, R285). -/
def Stack.resealed (k : Stack) (level pa : Nat) : Stack :=
  if level = 0 then
    let k := k.raiseUpper pa
    (k.setLeaf pa ((k.leaf pa).rollOver.remac (leafPa pa) (k.node pa) (inNode pa))).sealGroup pa
  else if level = 1 then
    let r := (k.root pa).raise (inSpan pa)
    let n := (k.node pa).rollOver.remac (nodePa pa) r (inSpan pa)
    ((k.setRoot pa r).setNode pa n).remacLeaves n pa
  else
    let r := (k.root pa).rollOver
    (k.setRoot pa r).remacNodes r pa

/-- The blocks whose counters a re-seal changes, with those that it MACs again (R278). -/
def resealBlocks (level pa : Nat) : List Nat :=
  if level = 0 then ctrBlocks pa
  else if level = 1 then nodePa pa :: (List.range 64).map fun i => leafPa (pa / 2 ^ 24 * 2 ^ 24 + i * 2 ^ 18)
  else (List.range 32).map fun i => nodePa (pa / 2 ^ 29 * 2 ^ 29 + i * 2 ^ 24)

/-! ## Arrivals of lines -/

/-- READ_LINE_ARRIVAL (R256, R264): the line joins its unit or its re-seal; a correctable error is corrected and counted, an injected error
is uncorrectable (R371). -/
def execReadLineArrival (st k : Nat) (s : State) : Host.Outcome State Fault Refusal :=
  match (s.stackAt st).reqs[k]? with
  | none => .next s
  | some r =>
    if r.wr ∨ r.st ≠ .served then .next s
    else
      let flaw := (s.stackAt st).flaws.find? fun x => x.1 == r.line
      let fixed := flaw == some (r.line, true)
      let s := s.modStack st fun x => { x with reqs := x.reqs.eraseIdx k, corrected := x.corrected + ofBool fixed }
      let i := if dieOf r.tile = st then s.inject r.tile 3 else (false, s)
      let bad := i.1 || flaw == some (r.line, false)
      .next (if r.reseal then i.2.resealLine st r bad else i.2.lineIn st r bad)

/-- WRITE_PERFORMED (R256): a line written holds no error any more. -/
def execWritePerformed (st k : Nat) (s : State) : Host.Outcome State Fault Refusal :=
  match (s.stackAt st).reqs[k]? with
  | none => .next s
  | some r =>
    if !r.wr ∨ r.st ≠ .served then .next s
    else
      let s := s.modStack st fun x => { x with reqs := x.reqs.eraseIdx k, flaws := x.flaws.filter fun y => y.1 != r.line }
      .next (if r.reseal then s.resealLine st r false
        else s.modUnit r.tile r.eng r.uid fun u => match u.st with
          | .writing img left => { u with st := .writing img (left - 1) }
          | _ => u)

/-- RETRY (R258): the refused request is counted (R319) and takes its hinted slot, as many rotations later as the hint says. -/
def execRetry (st k : Nat) (s : State) : Host.Outcome State Fault Refusal :=
  match (s.stackAt st).reqs[k]? with
  | none => .next s
  | some r => match r.st with
    | .refused slot hint =>
      let s := s.modStack st fun x => { x with reqs := updAt (fun r => { r with st := .hinted slot hint }) k x.reqs }
      match if r.reseal then none else (s.burinAt r.tile r.eng).units.find? fun u => u.uid == r.uid with
      | none => .next s
      | some u => .next (s.modCopy r.tile r.eng u.tag fun c => { c with retries := c.retries + 1 })
    | _ => .next s

/-! ## Plates -/

/-- A plate whose lines are all in the engine (R277). -/
def CUnit.filled (u : CUnit) : Bool :=
  match u.st with
  | .lines _ 0 _ => true
  | _ => false

/-- PLATE_FILL (R277, R281): the tag of the plate is checked; `err` tells an error that the base die could not correct (R264). -/
def execPlateFill (t e : Nat) (err : Bool) (s : State) : Host.Outcome State Fault Refusal :=
  match (s.burinAt t e).flights.find? CUnit.filled with
  | none => .next s
  | some u => match u.st with
    | .lines img _ out =>
      let i := s.inject t 4
      if out = 2 then .next (i.2.failUnit t e u.uid 4 0 2).pumpAll
      else if out ≠ 0 ∨ err = true ∨ i.1 = true then .next (i.2.failUnit t e u.uid 4 0 1).pumpAll
      else .next ((i.2.modUnit t e u.uid fun u => { u with st := .ready img }).modBurin t e fun b => b.holdCounters u.ctrs)
    | _ => .next s

/-- The first write of an engine that may begin its commit: it has its plate, every earlier unit of its command has begun, and none of
them waits for a re-seal. -/
def nextWrite (wr : BitVec 32 → Bool) : List CUnit → List (BitVec 32) → Option CUnit
  | [], _ => none
  | u :: r, late =>
    if !wr u.tag || late.contains u.tag then nextWrite wr r late
    else match u.st with
      | .ready _ => some u
      | .writing _ _ => nextWrite wr r late
      | .committed _ => nextWrite wr r late
      | _ => nextWrite wr r (u.tag :: late)

/-- Commands of an engine that write HBM and may go on. -/
def Burin.writers (b : Burin) (tag : BitVec 32) : Bool :=
  b.q.any fun c => c.tag == tag && cpWrite c.d && c.stall.isNone && c.err == 0 && c.stop.isNone

/-- The copy's stall, reported to its context (R159, R317). -/
def State.stallCopy (s : State) (t e : Nat) (c : Copy) (x : Nat × Nat × Bool) : State :=
  (s.modCopy t e c.tag fun c => { c with stall := some x }).postTrap t c.slot cREGION_FAULT (BitVec.ofNat 64 x.2.1)

/-- The new bytes of a plate that a unit writes: those of the command merged into what the plate held (R279). -/
def CUnit.merged (u : CUnit) (c : Copy) (x : Nat) : Nat :=
  setBits (match u.st with | .ready img => img | _ => 0) (8 * ((cpDST c.d + u.off) % 4096)) (8 * u.len) x

/-- A write with its new bytes reaches its counter unit, which serves it in the order of arrival (R280, R283). -/
def State.askWrite (s : State) (t e uid img : Nat) : State :=
  ({ s.modUnit t e uid fun u => { u with st := .held img, age := s.reached } with reached := s.reached + 1 }).pumpAll

/-- A command makes a scratchpad access: from the first one on it reserves its banks (R244, R309). -/
def State.touch (s : State) (t e : Nat) (tag : BitVec 32) : State := s.modCopy t e tag fun c => { c with acc := true }

/-- PLATE_WRITE (R279, R280): the source is read, the bytes are merged, and the counter unit takes the write up, at once or when its plate
and its group are released. A write that its translation, or the state of its group, already refuses reads nothing. -/
def execPlateWrite (t e : Nat) (s : State) : Host.Outcome State Fault Refusal :=
  let b := s.burinAt t e
  match nextWrite b.writers b.units [] with
  | none => .next s
  | some u => match s.copyOf t e u.tag with
    | none => .next s
    | some c =>
      let out := s.plateOut (s.partOf t) (pteKEY u.pte) (pteHSEL u.pte) u.pa
      if out = 2 ∨ out = 4 then .next (s.failUnit t e u.uid 4 0 out).pumpAll
      else match readSide s t c.slot e (cpSRC c.d) (cpSRC c.d + u.off) u.len false [] with
        | (s, .error (.stall h a w)) => .next (s.stallCopy t e c (h, a, w))
        | (s, .error (.err n)) => .next (s.failUnit t e u.uid n 0 0).pumpAll
        | (s, .ok x) => .next ((s.touch t e c.tag).askWrite t e u.uid (u.merged c x))

/-- A begun write whose lines are all performed. -/
def CUnit.performed (u : CUnit) : Bool :=
  match u.st with
  | .writing _ 0 => true
  | _ => false

/-- Bytes of a command delivered, with its checksum (R320, R322). -/
def State.deliverBytes (s : State) (t e : Nat) (c : Copy) (n x : Nat) : State :=
  let r := s.crcOf t e c
  s.modCopy t e c.tag fun c =>
    { c with doneb := c.doneb + n, crc := if cpCRCMODE c.d = 0 then none else some (crcBytes n x r), late := [] }

/-- Bytes of a write that goes on after its command has been cut count as delivered (R344); its checksum takes them in its turn (R322). -/
def State.deliverLate (s : State) (t e : Nat) (c : Copy) (n x : Nat) : State :=
  s.modCopy t e c.tag fun c =>
    { c with doneb := c.doneb + n, late := if cpCRCMODE c.d = 0 then [] else c.late ++ [(n, x)], cut := true, fin := true }

/-- A plate's commit (R280): its bytes take their place, its tag is that of its counters and of the page's hash set, twin-run counts it
(R391), and the plate is released. -/
def State.commitPlate (s : State) (t e : Nat) (u : CUnit) (img : Nat) : State :=
  let st := stkOf u.pa
  let s := (s.wr u.pa 4096 img).modStack st fun k =>
    let k := k.sealPlate u.pa (permOf k (pteHSEL u.pte) (stkOff u.pa))
    { k with holds := k.holds.filter fun h => h.2 != (t, e, u.uid) }
  (s.contribute (s.partOf t) u.va 4096 img).modUnit t e u.uid fun u => { u with st := .committed img }

/-- PLATE_COMMIT (R280, R314): a write whose lines are performed, after every earlier plate of its command. -/
def execPlateCommit (t e : Nat) (s : State) : Host.Outcome State Fault Refusal :=
  let b := s.burinAt t e
  match b.units.find? fun u => u.performed && earlierDone u b.units with
  | none => .next s
  | some u => match u.st with
    | .writing img _ => .next (s.commitPlate t e u img).pumpAll
    | _ => .next s

/-- The write that waits for a re-seal of its group. -/
def State.sealUnit (s : State) (r : Reseal) : Option CUnit :=
  if r.level = 0 then (s.burinAt r.tile r.eng).units.find? fun u => u.uid == r.uid else none

/-- The group or node that a re-seal is of has been marked FAILED (R282). -/
def Stack.resealFailed (k : Stack) (level pa : Nat) : Bool :=
  (level == 0 && (k.leaf pa).st == .failed) || (decide (level ≤ 1) && (k.node pa).st == .failed)

/-- RESEAL_COMMIT (R282, R283, R285): the re-seal commits as one, the triggering write of a group with it; a plate that fails its check
makes the group FAILED, and a group or node that has become FAILED meanwhile stays so: nothing of it is written. `code` is a group, or
names a node or a span (`Reseal.code`). -/
def execResealCommit (st code : Nat) (s : State) : Host.Outcome State Fault Refusal :=
  match (s.stackAt st).reseals.find? fun x => x.code == code && x.over with
  | none => .next s
  | some r =>
    let pa := r.pa st 0
    let fails := (r.level == 0 && (r.bad || (s.stackAt st).groupBad pa)) || (s.stackAt st).resealFailed r.level pa
    let s := s.modStack st fun k => { k with reseals := k.reseals.filter fun y => y.code != code }
    if fails then
      if r.level = 0 then
        let s := s.modStack st fun k => k.setLeaf pa { k.leaf pa with st := .failed }
        .next (s.failUnit r.tile r.eng r.uid 4 0 2).pumpAll
      else .next s.pumpAll
    else
      let s := (s.dropBlocks (resealBlocks r.level pa)).modStack st fun k => k.resealed r.level pa
      match s.sealUnit r with
      | some u => match u.st with
        | .sealing img => .next (s.commitPlate r.tile r.eng u img).pumpAll
        | _ => .next s.pumpAll
      | none => .next s.pumpAll

/-! ## Key rotation (R287) -/

/-- Some of these lines holds an error that the base die cannot correct (R264). -/
def Stack.flawed (k : Stack) (l : List Nat) : Bool := k.flaws.any fun x => !x.2 && l.contains x.1

/-- Lines are read, and written anew: the errors that the base die corrects are counted, and none stands in them any more (R264). -/
def Stack.rewrite (k : Stack) (l : List Nat) : Stack :=
  { k with
    corrected := k.corrected + k.flaws.countP fun x => x.2 && l.contains x.1,
    flaws := k.flaws.filter fun x => !l.contains x.1 }

/-- A block of a level above that is EXHAUSTED hands that on to a block below it, which ends it when its groups are re-sealed (R286, R287). -/
def CBlock.inherit (b above : CBlock) : CBlock := if above.st = .exhausted ∧ b.st = .normal then { b with st := .exhausted } else b

/-- The root of a span with every counter 0 again, its node blocks MACed under it. -/
def Stack.clearRoot (k : Stack) (pa : Nat) : Stack :=
  let old := k.root pa
  let r : CBlock := {}
  let k := (List.range 32).foldl (fun k i =>
    let x := pa / 2 ^ 29 * 2 ^ 29 + i * 2 ^ 24
    k.setNode x ((k.node x).inherit old)) k
  (k.setRoot pa r).remacNodes r pa

/-- A node with every counter 0 again, MACed under the new key, its leaf blocks MACed under it. It is FAILED where its block does not verify
as it is read (R282). -/
def Stack.clearNode (k : Stack) (pa no : Nat) : Stack :=
  let old := k.node pa
  let lines := blockLines (nodePa pa)
  if old.st = .failed ∨ k.flawed lines = true then k.setNode pa { old with st := .failed }
  else
    let n : CBlock := { mac := { key := no } }
    let n := n.remac (nodePa pa) (k.root pa) (inSpan pa)
    let k := (List.range 64).foldl (fun k i =>
      let x := pa / 2 ^ 24 * 2 ^ 24 + i * 2 ^ 18
      k.setLeaf x ((k.leaf x).inherit old)) k
    ((k.rewrite lines).setNode pa n).remacLeaves n pa

/-- The lines of a group: its plates with their tags, and its leaf block. -/
def groupLines (pa : Nat) : List Nat :=
  ((List.range 64).flatMap fun i => plateLines (pa / 2 ^ 18 * 2 ^ 18 + 4096 * i)) ++ blockLines (leafPa pa)

/-- A group sealed under the key that its slot now holds, its counters 0 and its block MACed with the owner's key; a plate or a leaf block
that fails its check as it is read makes it FAILED, and a FAILED group stays so (R282, R283). -/
def Stack.clearGroup (k : Stack) (pa kno no : Nat) : Stack :=
  let g := k.leaf pa
  if g.st = .failed ∨ (k.node pa).st = .failed then k
  else if k.groupBad pa || k.flawed (groupLines pa) then k.setLeaf pa { g with st := .failed }
  else
    let n : CBlock := { key := g.key, kno := kno, mac := { key := no } }
    ((k.rewrite (groupLines pa)).setLeaf pa (n.remac (leafPa pa) (k.node pa) (inNode pa))).sealGroup pa

/-- A rotation of a slot of a partition runs on some stack. -/
def State.rotating (s : State) (p key : Nat) : Bool :=
  s.hbm.any fun k => match k.rotate with
    | some r => r.part == p && r.key == key
    | none => false

/-- The rotation of a stack with some groups left; with none left it ends there, and the last stack's end is reported. -/
def State.rotateLeft (s : State) (st : Nat) (r : Rotate) : State :=
  let s := s.modStack st fun k => { k with rotate := if r.groups.isEmpty then none else some r }
  if r.groups.isEmpty && !s.rotating r.part r.key then s.event 2 r.part 0 r.key 0 0 else s

/-- KEY_ROTATION_GROUP (R287): one group under the new key, its counters 0, no write of it being under way; the first group of a node or of
a span takes the counters of the node or the root to 0. The last group ends the rotation. -/
def execKeyRotationGroup (st grp : Nat) (s : State) : Host.Outcome State Fault Refusal :=
  let k := s.stackAt st
  match k.rotate with
  | none => .next s
  | some r =>
    let pa := st * 2 ^ 36 + grp * 2 ^ 18
    if !r.groups.contains grp || s.busyIn pa 18 512 0 0 || k.heldFor pa 512 0 0 then .next s
    else
      let node := grp / 64
      let root := grp / 2048
      let no := s.keySlots.getD (((k.span? pa).map (·.part)).getD r.part) 0
      let kno := s.keySlots.getD (k.leaf pa).key 0
      let s := (s.dropBlocks (resealBlocks 1 pa ++ resealBlocks 2 pa)).modStack st fun k =>
        let k := if r.roots.contains root then k else k.clearRoot pa
        let k := if r.nodes.contains node then k else k.clearNode pa no
        k.clearGroup pa kno no
      .next (s.rotateLeft st { r with groups := r.groups.filter fun g => g != grp, nodes := node :: r.nodes, roots := root :: r.roots }).pumpAll

/-! ## Commands: begin, retire, stall, complete -/

/-- The command that begins next: the first of the queue that has not begun (R308). -/
def Burin.nextBegin (b : Burin) : Option Copy := b.q.find? fun c => !c.began && c.stop.isNone

/-- A write runs on after its command has gone: commands that were not stopped complete after it (R308, R344). -/
def Burin.orphans (b : Burin) : Bool := b.units.any fun u => !b.q.any fun c => c.tag == u.tag

/-- A command may begin: those before it have issued all their requests, under ORDER have completed with their writes applied, and its
first unit may be in flight; the writes that outlive a stopped command are among those (R308, R344). -/
def State.mayBegin (s : State) (t e : Nat) (c : Copy) : Bool :=
  let b := s.burinAt t e
  let before := b.q.takeWhile fun x => x.tag != c.tag
  (before.all fun x => x.fin || x.stop.isSome || x.err != 0 || (x.began && x.next == cpLEN x.d)) &&
  (s.ctxAt t c.slot).preStep == 0 && (cpLEN c.d == 0 || decide (b.units.length < 16)) &&
  (!cpORDER c.d || (before.isEmpty && !b.orphans && !s.portE.any fun w => w.src == t && w.eng == e))

/-- COPY_BEGIN (R308): the command's first request is issued. -/
def execCopyBegin (t e : Nat) (s : State) : Host.Outcome State Fault Refusal :=
  match (s.burinAt t e).nextBegin with
  | none => .next s
  | some c =>
    if s.mayBegin t e c then
      .next ((s.modCopy t e c.tag fun c => { c with began := true, fin := cpLEN c.d == 0 }).pump t e)
    else .next s

/-- The last unit of a command has gone. -/
def Copy.settled (c : Copy) (more : Bool) : Copy :=
  { c with fin := c.cut || (!more && (c.next == cpLEN c.d || c.stop.isSome || c.err != 0)) }

/-- A unit leaves its engine; its command is finished with its last unit. -/
def State.retireUnit (s : State) (t e : Nat) (u : CUnit) : State :=
  let s := s.modBurin t e fun b => { b with units := b.units.filter fun x => x.uid != u.uid }
  let more := (s.burinAt t e).units.any fun x => x.tag == u.tag
  (s.modCopy t e u.tag fun c => c.settled more).pump t e

/-- Units of an engine dropped with their line requests and held plates. -/
def State.dropUnits (s : State) (t e : Nat) (gone : CUnit → Bool) : State :=
  let s := s.modBurin t e fun b => { b with units := b.units.filter fun x => !gone x }
  let us := (s.burinAt t e).flights
  { s with hbm := s.hbm.map fun k : Stack => k.dropReqs t e us }

/-- A command fails at a unit: what follows is discarded (R316). -/
def State.failCopy (s : State) (t e : Nat) (c : Copy) (u : CUnit) (err walk pout : Nat) : State :=
  let s := s.dropUnits t e fun x => x.tag == u.tag
  let s := if pout = 1 ∧ cpFill c.d then (s.poisonDest t e c u.off u.len).touch t e c.tag else s
  (s.modCopy t e c.tag fun c =>
    { c with fin := true, err := err, walk := walk, pout := pout, stall := none,
             fpn := if err = 1 ∨ err = 4 then u.va / 4096 % 2 ^ 36 else 0 }).pumpAll

/-- A stalled access met again: of a command that has been stopped the unit and those after it are discarded, otherwise it waits
(R317, R328, R344). -/
def State.stallUnit (s : State) (t e : Nat) (c : Copy) (x : Nat × Nat × Bool) : State :=
  if c.stop.isSome then
    let s := s.dropUnits t e fun u => u.tag == c.tag && !u.st.begun
    let more := (s.burinAt t e).units.any fun u => u.tag == c.tag
    (s.modCopy t e c.tag fun c => c.settled more).pumpAll
  else s.stallCopy t e c x

/-- A unit of an on-chip copy fails at a chunk (R315, R316): the chunks before it are written. -/
def State.failChunk (s : State) (t e : Nat) (c : Copy) (u : CUnit) (img err : Nat) : State :=
  ((s.queueAll u.buf).deliverBytes t e c u.pos img).failCopy t e c u err 0 0

/-- One chunk of a LOCAL or PEER unit, or its end (R315): the writes of its chunks are queued once the last of them has been read. -/
def State.copyChunk (s : State) (t e : Nat) (c : Copy) (u : CUnit) (img : Nat) : State :=
  let o := u.off + u.pos
  let n := Nat.min 64 (cpLEN c.d - o)
  let peer := cpKIND c.d == 3
  let x := s.ctxAt t c.slot
  let bothSides := isOther x (cpSRC c.d) != isOther x (cpDST c.d)
  if peer && !bothSides then s.failChunk t e c u img 2
  else match readSide s t c.slot e (cpSRC c.d) (cpSRC c.d + o) n peer u.buf with
    | (s, .error (.err k)) => s.failChunk t e c u img k
    | (s, .error (.stall h a w)) => s.stallUnit t e c (h, a, w)
    | (s, .ok y) =>
      let s := s.touch t e c.tag
      match destPlaces s t c o n with
      | .error (.err k) => s.failChunk t e c u img k
      | .error (.stall h a w) => s.stallUnit t e c (h, a, w)
      | .ok ps =>
        let buf := u.buf ++ ps.flatMap fun p => lineWrites t e (s.ownerAt t c.slot) c.banks (linePieces p y)
        let img := img + y * 2 ^ (8 * u.pos)
        if u.pos + n < u.len then
          s.modUnit t e u.uid fun u => { u with pos := u.pos + n, buf := buf, st := .ready img, det := 0 }
        else ((s.queueAll buf).deliverBytes t e c u.len img).retireUnit t e u

/-- Nothing of a unit is under way any more. -/
def UnitSt.isOver : UnitSt → Bool
  | .committed _ => true
  | .failed _ _ _ => true
  | _ => false

/-- A failed unit ends its command (R316); the marks of a TAG_FAIL wait for an entry that does not serve them (R281, R317). -/
def State.retireFailed (s : State) (t e : Nat) (c : Copy) (u : CUnit) (err walk pout : Nat) : State :=
  match if pout = 1 ∧ cpFill c.d then firstStall (markLines s t c u.off u.len) else none with
  | some x => s.stallUnit t e c x
  | none => s.failCopy t e c u err walk pout

/-- COPY_UNIT_RETIRE (R308, R314 to R317): the engine's oldest unit is delivered, or its failure ends the command. -/
def execCopyUnitRetire (t e : Nat) (s : State) : Host.Outcome State Fault Refusal :=
  match (s.burinAt t e).units.head? with
  | none => .next s
  | some u => match s.copyOf t e u.tag with
    | none => if u.st.isOver || u.st.kept then .next (s.retireUnit t e u) else .next s
    | some c =>
      if c.stall.isSome then .next s
      else match u.st with
        | .failed err walk pout => .next (s.retireFailed t e c u err walk pout)
        | .committed img =>
          let s := if c.cut then s else s.deliverBytes t e c u.len (bits img (8 * ((cpDST c.d + u.off) % 4096)) (8 * u.len))
          .next (s.retireUnit t e u)
        | .ready img =>
          if cpWrite c.d then .next s
          else if !cpFill c.d then .next (s.copyChunk t e c u img)
          else match destPlaces s t c u.off u.len with
            | .error (.err k) => .next (s.failCopy t e c u k 0 0)
            | .error (.stall h a w) => .next (s.stallUnit t e c (h, a, w))
            | .ok ps =>
              let x := bits img (8 * ((cpSRC c.d + u.off) % 4096)) (8 * u.len)
              let s := (s.queueAll (ps.flatMap fun p => lineWrites t e (s.ownerAt t c.slot) c.banks (linePieces p x))).touch t e c.tag
              .next ((s.deliverBytes t e c u.len x).retireUnit t e u)
        | _ => .next s

/-- The entry of a stalled access serves it now. -/
def State.stallServed (s : State) (t slot : Nat) (x : Nat × Nat × Bool) : Bool :=
  let r := if x.1 = t ∨ gangBase ≤ x.2.1 then s.engLoc t slot x.2.1 1 x.2.2 true true
    else s.engRegion slot x.1 (s.ctxAt t slot) true x.2.1 x.2.2
  r != .stall

/-- COPY_STALL_RESUME (R317). -/
def execCopyStallResume (t e : Nat) (s : State) : Host.Outcome State Fault Refusal :=
  .next (s.modBurin t e fun b => { b with q := b.q.map fun c => match c.stall with
    | some x => if s.stallServed t c.slot x then { c with stall := none } else c
    | none => c })

/-- COMPLETION_RECORD (R320): doubleword 7 of the descriptor. A record that its place does not admit is not written (DEDUCED, log 29). -/
def State.writeRecord (s : State) (t e : Nat) (c : Copy) : State :=
  match s.engLoc t c.slot (c.da + 56) 8 true true true with
  | .ok l => s.queueFor l.home t e (s.ownerAt t c.slot) c.banks [(l.key, 8, (c.base + c.doneb) % 2 ^ 24 + c.fpn * 2 ^ 24)] [false]
  | _ => s

/-- COMPLETION_ARRIVAL (R321): a BARV of count BARK at BAROBJ, or its stall; a read-only region does not stop it, since no other failure
of the arrival can arise. -/
def State.arriveCopy (s : State) (t e : Nat) (c : Copy) : Except (Nat × Nat × Bool) State :=
  let a := cpBAROBJ c.d
  let x := s.ctxAt t c.slot
  match s.engLoc t c.slot a 16 false true false with
  | .stall => .error (if isOther x a then (s.memberTile x ((a - gangBase) / 2 ^ 23)).getD t else t, a, false)
  | .access => .ok s
  | .ok l =>
    let r := s.apply l.home (.barv l.key (cpBARK c.d) x.gangidx)
    let code := match r.2 with | .s y => bits y.v.toNat 56 2 | _ => 0
    .ok (r.1.modCopy t e c.tag fun c => { c with barc := code })

/-- A command as it is kept: its checksum covers what it has delivered (R322, R345). -/
def Copy.summed (c : Copy) (crc : BitVec 32) : Copy :=
  { c with crc := if c.doneb = 0 ∨ cpCRCMODE c.d = 0 then c.crc else some crc, late := [] }

/-- A STOPPED command is kept for the resumption of its context, in acceptance order (R345, R348). -/
def State.keepStopped (s : State) (t e : Nat) (c : Copy) : State :=
  s.modGang (s.ctxAt t c.slot).gang fun g =>
    { g with members := g.members.map fun m =>
        if m.isAt t c.slot then { m with reissue := m.reissue ++ [(e, c)] } else m }

/-- Actions 3 to 6 of R321. -/
def State.endCopy (s : State) (t e : Nat) (c : Copy) (st : Nat) (bad : Bool) : State :=
  let status := s.copyStatus t e c st bad
  let crc := s.crcOf t e c
  let s := s.modCtx t c.slot fun x =>
    { x with
      kept := updAt (fun l => ({ tag := c.tag, status := status } :: l).take 16) e x.kept,
      crc := if cpCRCMODE c.d = 0 then x.crc else x.crc.set e crc }
  let s := s.modBurin t e fun b => { b with done := c.tag, q := b.q.tail }
  let s := if st = 6 then s.keepStopped t e (c.summed crc) else s
  let told := st == 3 || st == 4
  let s := if told && cpSEMEN c.d then s.sendSig (s.ctxAt t c.slot).gang (cpSEMGANG c.d) (cpSEM c.d) 1 else s
  let s := if told && cpINTEN c.d then s.setPend t c.slot e else s
  (s.setEvent t c.slot (1 + e)).pumpAll

/-- The head command of an engine may complete. -/
def Burin.mayComplete (b : Burin) (c : Copy) : Bool := c.fin && c.stall.isNone && (c.stop.isSome || !b.orphans)

/-- COPY_COMPLETION (R321): the head command's actions, in order; its arrival may stall. -/
def execCopyCompletion (t e : Nat) (s : State) : Host.Outcome State Fault Refusal :=
  match (s.burinAt t e).q.head? with
  | none => .next s
  | some c =>
    if !(s.burinAt t e).mayComplete c then .next s
    else
      let bad := s.crcBad t e c
      let st := c.endState bad
      let c := { c with err := if bad then 5 else c.err }
      let s := if c.phase = 0 && cpRECEN c.d then s.writeRecord t e c else s
      let s := s.modCopy t e c.tag fun c => { c with phase := Nat.max c.phase 1 }
      let go := fun (s : State) => match s.copyOf t e c.tag with
        | some c' => s.endCopy t e c' st bad
        | none => s
      if st = 3 ∧ cpBAREN c.d then
        match s.arriveCopy t e c with
        | .error x => .next (s.stallCopy t e c x)
        | .ok s => .next (go s)
      else .next (go s)

end Sys2Proof.Machine
end

