-- ==== Sys2Proof/Machine/Matrix.lean ====
section
/-! DEFINITION. The matrix engine: the nine M words (R147 to R151, R160 to R172) and its device steps (R152 to R160, R167 to
R171), with the arithmetic of R118 to R121. -/

namespace Sys2Proof.Machine

/-! ## Descriptors -/

/-- A mask of ones at [lo + n - 1 : lo] for each pair (lo, n). -/
def fieldMask : List (Nat × Nat) → Nat
  | [] => 0
  | (lo, n) :: r => (2 ^ n - 1) * 2 ^ lo + fieldMask r

/-- Every bit outside the listed fields is zero. -/
def rzOk (x : Nat) (fields : List (Nat × Nat)) : Bool := x - (x &&& fieldMask fields) == 0

/-- The fields of the nest descriptor (R150). -/
def mdFields : List (Nat × Nat) :=
  ((List.range 6).map fun l => (128 * l, 112)) ++
  [(768, 23), (800, 23), (832, 23), (864, 22), (896, 3), (899, 3), (904, 4), (908, 4), (912, 1), (913, 1), (928, 16),
   (960, 32), (1024, 6), (1032, 6), (1040, 6), (1048, 6), (1088, 5), (1093, 1), (1094, 1), (1104, 10)]

def mdACCOFF (d : Vec) : Nat := bits d.toNat 864 22
def mdAMODE (d : Vec) : Nat := bits d.toNat 896 3
def mdBMODE (d : Vec) : Nat := bits d.toNat 899 3
def mdFMTA (d : Vec) : Nat := bits d.toNat 904 4
def mdFMTB (d : Vec) : Nat := bits d.toNat 908 4
def mdACCM (d : Vec) : Bool := bit d.toNat 912
def mdZSKIP (d : Vec) : Bool := bit d.toNat 913
def mdWPITCH (d : Vec) : Nat := bits d.toNat 928 16
def mdBANKMASK (d : Vec) : Nat := bits d.toNat 960 32
def mdROWM1 (d : Vec) : Nat := bits d.toNat 1024 6
def mdCOLM1 (d : Vec) : Nat := bits d.toNat 1032 6
def mdPRA (d : Vec) : Nat := bits d.toNat 1040 6
def mdPRB (d : Vec) : Nat := bits d.toNat 1048 6
def mdSEM (d : Vec) : Nat := bits d.toNat 1088 5
def mdSEMEN (d : Vec) : Bool := bit d.toNat 1093
def mdINTEN (d : Vec) : Bool := bit d.toNat 1094
def mdSEMGANG (d : Vec) : Nat := bits d.toNat 1104 10

/-- COUNT of level l. -/
def mdCOUNT (d : Vec) (l : Nat) : Nat := bits d.toNat (128 * l + 48) 16

/-- A base with a stride of each level: bit `lo` of a level begins the stride (R152). -/
def mdAddr (d : Vec) (base lo : Nat) (idx : List Nat) : Int :=
  (base : Int) + (idx.zipIdx.map fun x => (x.1 : Int) * signed (bits d.toNat (128 * x.2 + lo) 24) 24).foldl (· + ·) 0

/-- The step width k of an accepted pair of formats (R147). -/
def stepK (fa fb : Nat) (rns : Bool) : Option Nat :=
  if rns then (if fa == fmtINT8 && fb == fmtINT8 then some 4 else none)
  else if (fa == fmtE4M3 || fa == fmtE5M2) && (fb == fmtE4M3 || fb == fmtE5M2) then some 4
  else if fa == fmtMXFP4 && fb == fmtMXFP4 then some 8
  else if (fa == fmtBF16 || fa == fmtFP16) && (fb == fmtBF16 || fb == fmtFP16) then some 2
  else none

/-- The shadow checks of MGO (R151). -/
def shadowOk (d : Vec) (gangsize : Nat) : Bool :=
  rzOk d.toNat mdFields && decide (mdAMODE d ≤ 2) && decide (mdBMODE d ≤ 2) &&
  (stepK (mdFMTA d) (mdFMTB d) (mdACCM d)).isSome &&
  (mdBMODE d == 0 || (mdFMTB d != fmtMXFP4 && fmtBits (mdFMTB d) == 8 * mdBMODE d)) &&
  decide (mdCOLM1 d ≤ if mdACCM d then 15 else 47) &&
  mdACCOFF d % 64 == 0 && decide (mdACCOFF d < 0x300000) &&
  (!mdSEMEN d || decide (mdSEMGANG d < gangsize))

/-- The fields of the split descriptor (R172). -/
def splitFields : List (Nat × Nat) := [(0, 3), (3, 3), (8, 4), (64, 24), (88, 24), (128, 64), (192, 64)]

/-- Row part and column part of a split (R172). -/
def splitPart (d : BitVec 512) : Nat × Nat :=
  let c := bits d.toNat 3 3
  (bits d.toNat 8 4 / 2 ^ c, bits d.toNat 8 4 % 2 ^ c)

/-- The checks of MSPLIT (R172). -/
def splitOk (d : BitVec 512) (gangsize : Nat) : Bool :=
  let n := bits d.toNat 0 3 + bits d.toNat 3 3
  rzOk d.toNat splitFields && decide (n ≤ 4) && decide (bits d.toNat 8 4 < 2 ^ n) && decide (2 ^ n ≤ gangsize)

/-- The descriptor that MGO queues: the split offsets added to its bases (R165, R172). A sum may take the reserved bits above
its base, so none of it is lost. -/
def splitDesc (d : Vec) (sp : BitVec 512) : Vec :=
  let p := splitPart sp
  let a := p.1 * bits sp.toNat 64 24
  let b := p.2 * bits sp.toNat 88 24
  BitVec.ofNat 2048 (d.toNat + b * 2 ^ 800 + a * 2 ^ (if mdAMODE d = 1 then 832 else 768))

/-- Bases of a queued descriptor, with the split offsets. -/
def mdABASE (d : Vec) : Nat := bits d.toNat 768 32
def mdBBASE (d : Vec) : Nat := bits d.toNat 800 32
def mdIBASE (d : Vec) : Nat := bits d.toNat 832 32

/-- The fields of the write-back descriptor (R170). -/
def wbFields : List (Nat × Nat) :=
  [(0, 22), (32, 10), (48, 10), (64, 64), (128, 24), (152, 4), (156, 6), (162, 1), (163, 1), (192, 5), (197, 1), (198, 1),
   (208, 10)]

def wbSRCOFF (d : BitVec 512) : Nat := bits d.toNat 0 22
def wbROWM1 (d : BitVec 512) : Nat := bits d.toNat 32 10
def wbCOLM1 (d : BitVec 512) : Nat := bits d.toNat 48 10
def wbDST (d : BitVec 512) : Nat := bits d.toNat 64 64
def wbDPITCH (d : BitVec 512) : Nat := bits d.toNat 128 24
def wbDFMT (d : BitVec 512) : Nat := bits d.toNat 152 4
def wbPR (d : BitVec 512) : Nat := bits d.toNat 156 6
def wbRNS (d : BitVec 512) : Bool := bit d.toNat 162
def wbSPLIT (d : BitVec 512) : Bool := bit d.toNat 163
def wbSEM (d : BitVec 512) : Nat := bits d.toNat 192 5
def wbSEMEN (d : BitVec 512) : Bool := bit d.toNat 197
def wbINTEN (d : BitVec 512) : Bool := bit d.toNat 198
def wbSEMGANG (d : BitVec 512) : Nat := bits d.toNat 208 10

/-- The checks of MWB (R170). The list of checks has none of ROWM1, so a value above the 511 of the field table is accepted, and its rows
are written like any others (DEDUCED, log 98). -/
def wbOk (d : BitVec 512) (gangsize : Nat) : Bool :=
  rzOk d.toNat wbFields && decide (1 ≤ wbDFMT d) && decide (wbDFMT d ≤ fmtRNS3) &&
  (wbDFMT d != fmtRNS3 || wbRNS d) && (wbDFMT d != fmtMXFP4 || (wbCOLM1 d + 1) % 32 == 0) &&
  wbSRCOFF d % 64 == 0 && (!wbSEMEN d || decide (wbSEMGANG d < gangsize))

/-! ## Accepting commands (R148) -/

/-- A matrix queue entry is free (R148). -/
def State.matrixRoom (s : State) (t : Nat) : Bool := decide ((s.tileAt t).mq.length < 4)

/-- A command accepted: the next sequence number and the queue (R148). -/
def State.acceptMatrix (s : State) (t slot : Nat) (k : MKind) : BitVec 32 × State :=
  let n := (s.tileAt t).mseq + 1
  (n, s.modTile t fun x => { x with mseq := n, mq := x.mq ++ [{ seq := n, slot := slot, kind := k }] })

/-- The matrix status word of a context (R160); it names a command that pre-emption has renumbered as the program does (R350). -/
def matStatus (x : Tile) (slot : Nat) (c : Ctx) : W64 :=
  let pend := (x.mq.filter fun m => m.slot == slot && m.err != 4).length
  BitVec.ofNat 64 ((c.firstTag 3 x.mdone).toNat + c.mflags.toNat * 2 ^ 32 + pend % 8 * 2 ^ 37 + c.merr.toNat * 2 ^ 40 +
    ofBool c.mrstall * 2 ^ 44)

namespace State

/-- The status word of the context in issue. -/
def matStat (s : State) : W64 := matStatus (s.tileAt s.iss.tile) s.iss.slot s.cur

/-- The matrix engine of the tile accepts no command now. -/
def matrixFull (s : State) : Bool := !s.matrixRoom s.iss.tile

end State

/-! ## The M words -/

/-- MLDT, scalar form (R163). -/
def mldtS (i : Instr) (s : State) : WordRes :=
  match readDesc s (s.srcS i 0) 256 true with
  | (.error e, s) => .trap e.1 e.2 s
  | (.ok x, s) => .ok (s.modCur fun c => { c with shadow := BitVec.ofNat 2048 x })

/-- MLDT, vector form (R163). -/
def mldtV (i : Instr) (s : State) : WordRes :=
  let x := s.srcV i 0
  if anyP x then .trap cPOISON 0 s else .ok (s.modCur fun c => { c with shadow := x.v })

/-- MSET (R164). -/
def mset (i : Instr) (s : State) : WordRes :=
  let a := s.srcS i 0
  if a.p then .trap cPOISON 0 s
  else
    let n := s.immU i
    .ok (s.modCur fun c =>
      { c with shadow := BitVec.ofNat 2048 (setBits c.shadow.toNat (64 * n) 64 a.v.toNat) })

/-- MGO (R165): the shadow and the split state as they stood before the bundle. -/
def mgo (f : FD) (s : State) : WordRes :=
  let c := s.iss.pre
  if s.matrixFull then .hold
  else if !shadowOk c.shadow c.gangsize then .trap cILLEGAL_STATE 0 s
  else
    let r := s.acceptMatrix s.iss.tile s.iss.slot
      (.go (splitDesc c.shadow c.split) (c.recs.getD (mdPRA c.shadow) 0) (c.recs.getD (mdPRB c.shadow) 0))
    .ok (r.2.resNoLatch f.d true { v := r.1.setWidth 64 })

/-- MSTAT (R166). -/
def mstat (f : FD) (s : State) : WordRes :=
  .ok ((s.resNoLatch f.d true { v := s.matStat }).modCur fun c => { c with mflags := 0, merr := 0 })

/-- DONE has reached a sequence number (R167, R326). -/
def reached (done a : BitVec 32) : Bool := decide ((done - a).toNat < 2 ^ 31)

/-- MWAIT (R167): its completion is a context switch (R341). -/
def mwait (i : Instr) (f : FAd) (s : State) : WordRes :=
  let a := s.srcS i 0
  if a.p then .trap cPOISON 0 s
  else
    let n := s.iss.pre.alias1 3 (a.v.setWidth 32)
    let s := s.modIss fun x => { x with switch := true }
    if reached (s.tileAt s.iss.tile).mdone n then .ok (s.resNoLatch f.d true { v := s.matStat })
    else .wait (.mwait f.d n) s

/-- MCLR (R168). -/
def mclr (i : Instr) (f : FMclr) (s : State) : WordRes :=
  let a := s.srcS i 0
  let n := s.srcS i 1
  if s.matrixFull then .hold
  else if a.p || n.p then .trap cPOISON 0 s
  else if a.v.toNat < 0x800000 ∨ 0xB00000 ≤ a.v.toNat then .trap cACCESS a.v.toNat s
  else if a.v.toNat % 64 ≠ 0 ∨ n.v.toNat % 64 ≠ 0 then .trap cMISALIGNED a.v.toNat s
  else if 0xB00000 < a.v.toNat + n.v.toNat then .trap cACCESS a.v.toNat s
  else .ok (s.acceptMatrix s.iss.tile s.iss.slot (.clr (a.v.toNat - 0x800000) n.v.toNat (f.z == 1))).2

/-- MABORT (R169): commands end in acceptance order, so an aborted command behind one of another context sets DONE when that one
has completed (DEDUCED, log 27). -/
def mabort (f : FD) (s : State) : WordRes :=
  let s := s.abortMatrix s.iss.tile s.iss.slot
  .ok (s.resNoLatch f.d true { v := s.matStat })

/-- MSPLIT (R172). -/
def msplit (i : Instr) (s : State) : WordRes :=
  match readDesc s (s.srcS i 0) 64 false with
  | (.error e, s) => .trap e.1 e.2 s
  | (.ok x, s) =>
    let d := BitVec.ofNat 512 x
    if splitOk d s.iss.pre.gangsize then .ok (s.modCur fun c => { c with split := d }) else .trap cILLEGAL_STATE 0 s

/-- The descriptor that MWB queues: the split destination offset added to DST (R172). -/
def wbDesc (d sp : BitVec 512) : BitVec 512 :=
  let p := splitPart sp
  let add := if wbSPLIT d then p.1 * bits sp.toNat 128 64 + p.2 * bits sp.toNat 192 64 else 0
  BitVec.ofNat 512 (setBits d.toNat 64 64 (wbDST d + add))

/-- MWB (R170). -/
def mwb (i : Instr) (f : FAd) (s : State) : WordRes :=
  let c := s.iss.pre
  if s.matrixFull then .hold
  else match readDesc s (s.srcS i 0) 64 false with
    | (.error e, s) => .trap e.1 e.2 s
    | (.ok x, s) =>
      let d := BitVec.ofNat 512 x
      if !wbOk d c.gangsize then .trap cILLEGAL_STATE 0 s
      else
        let r := s.acceptMatrix s.iss.tile s.iss.slot (.wb (wbDesc d c.split) (c.recs.getD (wbPR d) 0))
        .ok (r.2.resNoLatch f.d true { v := r.1.setWidth 64 })

def execMldtScalar (f : FA) (s : State) := runWord (.mldtScalar f) (mldtS (.mldtScalar f)) s
def execMldtVector (f : FA) (s : State) := runWord (.mldtVector f) (mldtV (.mldtVector f)) s
def execMset (f : FMset) (s : State) := runWord (.mset f) (mset (.mset f)) s
def execMgo (f : FD) (s : State) := runWord (.mgo f) (mgo f) s
def execMstat (f : FD) (s : State) := runWord (.mstat f) (mstat f) s
def execMwait (f : FAd) (s : State) := runWord (.mwait f) (mwait (.mwait f) f) s
def execMclr (f : FMclr) (s : State) := runWord (.mclr f) (mclr (.mclr f) f) s
def execMabort (f : FD) (s : State) := runWord (.mabort f) (mabort f) s
def execMsplit (f : FA) (s : State) := runWord (.msplit f) (msplit (.msplit f)) s
def execMwb (f : FAd) (s : State) := runWord (.mwb f) (mwb (.mwb f) f) s

/-! ## Streams (R152 to R154) -/

/-- How a command stops before a step or a row (R158, R159). -/
inductive MStop where
  | err (code : Nat)
  | stall (addr : Nat) (store : Bool)
  deriving DecidableEq, Repr

/-- A matrix operand element: a floating-point value, or an INT8 integer. -/
structure MEl where
  f : Fv
  i : Int
  deriving DecidableEq, Repr

/-- An element of a stream from its bits and its scale byte. -/
def elOf (fmt x scale : Nat) : MEl :=
  if fmt = fmtINT8 then { f := .fin false 0 0, i := signed x 8 } else { f := elemValue fmt x scale, i := 0 }

/-- A zero of either sign (R120). -/
def MEl.isZero (e : MEl) : Bool :=
  match e.f with
  | .fin _ m _ => m == 0 && e.i == 0
  | _ => false

/-- Neither NaN nor infinite. -/
def MEl.finite (e : MEl) : Bool :=
  match e.f with
  | .fin _ _ _ => true
  | _ => false

/-- A stream read of `n` bytes within one doubleword: its bytes and its poison mark; `fmt` 0 for an index, whose region may have any
code that is not reserved (R109, R154). -/
def streamRead (s : State) (t slot : Nat) (a : Int) (n fmt : Nat) : Except MStop (Nat × Bool) :=
  if a < 0 ∨ 0x800000 < a + n then .error (.err 1)
  else match s.engLoc t slot a.toNat n false false false with
    | .access => .error (.err 1)
    | .stall => .error (.stall a.toNat false)
    | .ok l =>
      let k := entFMT l.entry
      if fmtReserved k ∨ (fmt ≠ 0 ∧ k ≠ fmtRAW ∧ k ≠ fmt) then .error (.err 2)
      else .ok (s.rd l.key n, s.poisoned l.key)

/-- The scale byte of the MXFP4 block that holds address `a` (R101). -/
def scaleRead (s : State) (t slot : Nat) (r : BitVec 512) (a : Int) : Except MStop (Nat × Bool) :=
  let eb := recEBASE r
  if a < eb ∨ eb % 32 ≠ 0 then .error (.err 2)
  else streamRead s t slot ((recSPBASE r + (a.toNat - eb) / 16 : Nat) : Int) 1 fmtMXFP4

/-- The row length in bytes of the geometry of the region that holds an address (R108, R153). -/
def rowBytes (s : State) (t : Nat) (a : Int) (fmt : Nat) : Nat :=
  32 * 2 ^ entGEOM ((s.tileAt t).entry a.toNat) * fmtBits fmt / 8

/-- The k elements of an A row at address `a`, and whether a chunk read for them is poisoned (R153). -/
def readARow (s : State) (t slot fmt k : Nat) (r : BitVec 512) (a : Int) : Except MStop (List MEl × Bool) :=
  if a % 4 ≠ 0 then .error (.err 1)
  else match streamRead s t slot a 4 fmt with
    | .error e => .error e
    | .ok (x, p) =>
      let b := 32 / k
      if fmt = fmtMXFP4 then
        match scaleRead s t slot r a with
        | .error e => .error e
        | .ok (sc, q) => .ok ((List.range k).map fun j => elOf fmt (bits x (b * j) b) sc, p || q)
      else .ok ((List.range k).map fun j => elOf fmt (bits x (b * j) b) 0, p)

/-- Results of a list of reads, or the first failure. -/
def collect {α β : Type} (f : α → Except MStop β) : List α → Except MStop (List β)
  | [] => .ok []
  | a :: r => match f a with
    | .error e => .error e
    | .ok b => match collect f r with
      | .error e => .error e
      | .ok l => .ok (b :: l)

/-- The A rows of a step (R153). -/
def readA (s : State) (t slot : Nat) (d : Vec) (ra : BitVec 512) (aoff ioff : Int) (k : Nat) :
    Except MStop (List (List MEl × Bool)) :=
  let fmt := mdFMTA d
  let rows := List.range (mdROWM1 d + 1)
  if aoff < 0 ∨ 0x800000 ≤ aoff then .error (.err 1)
  else
    let pa := rowBytes s t aoff fmt
    if mdAMODE d = 1 then
      if ioff < 0 ∨ ioff % 4 ≠ 0 ∨ ioff / 65536 ≠ (ioff + 255) / 65536 then .error (.err 1)
      else match collect (fun r : Nat => match streamRead s t slot (ioff + 4 * r) 4 0 with
          | .error e => .error e
          | .ok (x, p) => if p then .error (.err 3) else .ok x) rows with
        | .error e => .error e
        | .ok xs => collect (fun x : Nat =>
            if x = 0xFFFFFFFF then .ok (List.replicate k (elOf fmt 0 127), false)
            else readARow s t slot fmt k ra (aoff + x * pa)) xs
    else
      let pitch := if mdAMODE d = 2 then mdWPITCH d else pa
      collect (fun r : Nat => readARow s t slot fmt k ra (aoff + r * pitch)) rows

/-- The address of a B element (R154). -/
def bAddr (d : Vec) (boff : Int) (pb row c : Nat) : Int :=
  if mdBMODE d = 1 then boff + c * pb + row
  else if mdBMODE d = 2 then boff + c * pb + 2 * row
  else boff + row * pb + (c * fmtBits (mdFMTB d) / 8 : Nat)

/-- One B element (R154). -/
def readBEl (s : State) (t slot : Nat) (d : Vec) (rb : BitVec 512) (boff : Int) (pb row c : Nat) :
    Except MStop (MEl × Bool) :=
  let fmt := mdFMTB d
  let b := fmtBits fmt
  let a := bAddr d boff pb row c
  if b = 16 ∧ a % 2 ≠ 0 then .error (.err 1)
  else match streamRead s t slot a ((b + 7) / 8) fmt with
    | .error e => .error e
    | .ok (x, p) =>
      if fmt = fmtMXFP4 then
        match scaleRead s t slot rb a with
        | .error e => .error e
        | .ok (sc, q) => .ok (elOf fmt (bits x (4 * (c % 2)) 4) sc, p || q)
      else .ok (elOf fmt x 0, p)

/-- The B columns of a step, k elements each. -/
def readB (s : State) (t slot : Nat) (d : Vec) (rb : BitVec 512) (boff : Int) (k : Nat) :
    Except MStop (List (List MEl × Bool)) :=
  if boff < 0 ∨ 0x800000 ≤ boff then .error (.err 1)
  else
    let pb := rowBytes s t boff (mdFMTB d)
    let rows := collect (fun row => collect (fun c => readBEl s t slot d rb boff pb row c)
      (List.range (mdCOLM1 d + 1))) (List.range k)
    match rows with
    | .error e => .error e
    | .ok rs => .ok ((List.range (mdCOLM1 d + 1)).map fun c =>
        let col := rs.map fun r => r.getD c ({ f := .fin false 0 0, i := 0 }, false)
        (col.map (·.1), col.any (·.2)))

/-- The doubleword of a stream read, where it has a place. -/
def streamDw (s : State) (t slot n : Nat) (a : Int) : List Nat :=
  if a < 0 ∨ 0x800000 < a + n then []
  else match s.engLoc t slot a.toNat n false false false with
    | .ok l => [l.key / 8]
    | _ => []

/-- The doublewords that a step reads, each once: indices, A rows and B elements, with their scales, and the accumulator slots that it
updates (R153 to R155, R237; DEDUCED, log 58). -/
def stepReads (s : State) (t slot : Nat) (d : Vec) (ra rb : BitVec 512) (idx : List Nat) : List Nat :=
  let k := (stepK (mdFMTA d) (mdFMTB d) (mdACCM d)).getD 4
  let aoff := mdAddr d (mdABASE d) 0 idx
  let boff := mdAddr d (mdBBASE d) 24 idx
  let rows := List.range (mdROWM1 d + 1)
  let pa := rowBytes s t aoff (mdFMTA d)
  let ix : List Int := if mdAMODE d = 1 then rows.map fun r : Nat => mdAddr d (mdIBASE d) 88 idx + 4 * r else []
  let as : List Int :=
    if mdAMODE d = 1 then ix.filterMap fun a => match streamRead s t slot a 4 0 with
      | .ok (x, _) => if x = 0xFFFFFFFF then none else some (aoff + x * pa)
      | .error _ => none
    else rows.map fun r : Nat => aoff + r * (if mdAMODE d = 2 then mdWPITCH d else pa)
  let bs := (List.range k).flatMap fun row =>
    (List.range (mdCOLM1 d + 1)).map fun c => bAddr d boff (rowBytes s t boff (mdFMTB d)) row c
  let scales := fun (fmt : Nat) (r : BitVec 512) (l : List Int) =>
    if fmt = fmtMXFP4 then l.flatMap fun a => streamDw s t slot 1 (recSPBASE r + (a - recEBASE r) / 16) else []
  let coff := mdAddr d (mdACCOFF d) 64 idx
  let tw : Nat := if mdACCM d then 16 else 48
  let acc := if coff < 0 ∨ 0x300000 < coff + 256 * tw then []
    else rows.flatMap fun r : Nat => dwsOf (accKey t (coff.toNat + r * tw * 4)) (4 * (mdCOLM1 d + 1))
  (ix.flatMap (streamDw s t slot 4) ++ as.flatMap (streamDw s t slot 4) ++ scales (mdFMTA d) ra as ++
    bs.flatMap (streamDw s t slot ((fmtBits (mdFMTB d) + 7) / 8)) ++ scales (mdFMTB d) rb bs ++ acc).eraseDups

/-! ## Accumulation (R118 to R121) -/

/-- The exact sum of finite values. -/
def sumFin : List Fv → Int × Int
  | [] => (0, 0)
  | .fin n m e :: r =>
    let x := sumFin r
    let q := if e < x.2 then e else x.2
    (x.1 * (2 ^ (x.2 - q).toNat : Nat) + (if n then -(rescale m e q : Int) else rescale m e q), q)
  | _ :: r => sumFin r

/-- Some value is an infinity of a sign. -/
def hasInf (n : Bool) (l : List Fv) : Bool := l.any fun x => match x with
  | .inf k => k == n
  | _ => false

/-- One FP32 slot after a step (R118, R119). -/
def slotStep (acc : Nat) (ps : List Fv) : Nat × Flags :=
  let a := fp32.decode acc
  let all := a :: ps
  if ps.any Fv.isNan || (hasInf false all && hasInf true all) then (0x7FC00000, fNV)
  else if hasInf false ps then fpAdd fp32 0 a (.inf false)
  else if hasInf true ps then fpAdd fp32 0 a (.inf true)
  else
    let x := sumFin ps
    if x.1 = 0 then (acc, 0) else fpAdd fp32 0 a (.fin (decide (x.1 < 0)) x.1.natAbs x.2)

/-- One RNS3 slot after a step (R121). -/
def rnsStep (acc : Nat) (l : List (MEl × MEl)) : Nat :=
  l.foldl (fun x e => rnsAdd x (rnsMul (rnsOf e.1.i) (rnsOf e.2.i))) acc

/-- The pieces that write the slots of one row from key `k`: whole doublewords where both slots are written. -/
def slotPieces (k : Nat) : List (Nat × Bool) → List ((Nat × Nat × Nat) × Bool)
  | [] => []
  | [(x, p)] => [((k, 4, x), p)]
  | (x, p) :: (y, q) :: r => ((k, 8, x + y * 2 ^ 32), p || q) :: slotPieces (k + 8) r

/-- One step of an MGO command at its present indices: the pieces of each row, the flags; no piece for a skipped step
(R152 to R156). The engine reads the earlier writes of its context's commands that wait at their banks (R290). Of several failures of one
step the first counts, the accumulator base before the indices and A rows, and those before B (DEDUCED, log 99). -/
def mstepRows (s : State) (t slot : Nat) (d : Vec) (ra rb : BitVec 512) (idx : List Nat) :
    Except MStop (List (List ((Nat × Nat × Nat) × Bool)) × Flags) :=
  let s := s.seen t 3 (s.ownerAt t slot)
  let rns := mdACCM d
  let tw : Nat := if rns then 16 else 48
  let k := (stepK (mdFMTA d) (mdFMTB d) rns).getD 4
  let coff := mdAddr d (mdACCOFF d) 64 idx
  if coff < 0 ∨ coff % 64 ≠ 0 ∨ 0x300000 < coff + 256 * tw then .error (.err 1)
  else match readA s t slot d ra (mdAddr d (mdABASE d) 0 idx) (mdAddr d (mdIBASE d) 88 idx) k with
    | .error e => .error e
    | .ok a => match readB s t slot d rb (mdAddr d (mdBBASE d) 24 idx) k with
      | .error e => .error e
      | .ok b =>
        if mdZSKIP d && a.all (fun r => !r.2 && r.1.all MEl.isZero) && b.all (fun c => c.1.all MEl.finite) then .ok ([], 0)
        else
          let rows := a.zipIdx.map fun ar =>
            let key := accKey t (coff.toNat + ar.2 * tw * 4)
            let row := s.rd key (4 * b.length)
            let out := b.zipIdx.map fun bc =>
              let acc := elem row 4 bc.2
              let p := ar.1.2 || bc.1.2 || s.poisoned (key + 4 * bc.2)
              if rns then ((rnsStep acc (ar.1.1.zip bc.1.1), (0 : Flags)), p)
              else (slotStep acc ((ar.1.1.zip bc.1.1).map fun e => (mulExact e.1.f e.2.f).1), p)
            (slotPieces key (out.map fun o => (o.1.1, o.2)), orAll (out.map fun o => o.1.2))
          .ok (rows.map (·.1), orAll (rows.map (·.2)))

/-- The indices of the next step, level 0 fastest; none after the last (R152). -/
def nextIdx (d : Vec) : Nat → List Nat → Option (List Nat)
  | _, [] => none
  | l, i :: r => if i + 1 < mdCOUNT d l then some ((i + 1) :: r) else (nextIdx d (l + 1) r).map (0 :: ·)

/-- The nest has a step. -/
def nestAny (d : Vec) : Bool := (List.range 6).all fun l => mdCOUNT d l != 0

/-! ## Write-back (R171) -/

/-- Bytes of a row gathered into pieces: eight bytes that fill an aligned doubleword form one piece, which replaces its mark
(R91); the others are pieces of one byte. `fuel` bounds the number of pieces. -/
def groupBytes : Nat → List (Nat × Nat × Bool) → List ((Nat × Nat × Nat) × Bool)
  | 0, _ => []
  | _, [] => []
  | fuel + 1, (k, x, p) :: r =>
    let g := ((k, x, p) :: r).take 8
    if k % 8 = 0 ∧ g.length = 8 ∧ (g.zipIdx.all fun b => b.1.1 == k + b.2) = true then
      ((k, 8, ofElems 1 (g.map fun b => b.2.1)), g.any fun b => b.2.2) :: groupBytes fuel (r.drop 7)
    else ((k, 1, x % 256), p) :: groupBytes fuel r

/-- The bytes of a value of `n` bytes at a key. -/
def bytesAt (k n x : Nat) (p : Bool) : List (Nat × Nat × Bool) :=
  (List.range n).map fun j => (k + j, bits x (8 * j) 8, p)

/-- The place of a store of MWB, checked (R90, R109, R158, R159). -/
def wbLoc (s : State) (t slot a n fmt align : Nat) : Except MStop Loc :=
  if a % align ≠ 0 then .error (.err 1)
  else match s.engLoc t slot a n true true true with
    | .access => .error (.err 1)
    | .stall => .error (.stall a true)
    | .ok l =>
      let k := if l.acc then fmtFP32 else entFMT l.entry
      if fmtReserved k ∨ (k ≠ fmtRAW ∧ k ≠ fmt) then .error (.err 2) else .ok l

/-- x · SCALE of R171 as an exact value, with its flag: NV for any NaN, quiet ones too, as R171 says of this product, where R99 and R113
give a quiet NaN no flag (DEDUCED, log 94). -/
def scaleVal (r : BitVec 512) (x : Fv) : Fv × Flags :=
  let y := if recSCALE r = 0 then (x, 0) else mulExact x (fp32.decode (recSCALE r))
  if y.1.isNan then (.nan false, fNV) else (y.1, 0)

/-- The element that MWB writes from a slot, to a format other than MXFP4 (R171). -/
def wbElem (d r : BitVec 512) (slot : Nat) : Nat × Flags :=
  let fmt := wbDFMT d
  let n := fmtBits fmt
  if fmt = fmtRNS3 then (slot, 0)
  else if wbRNS d && (recSCALE r == 0 || recSCALE r == 0x3F800000) then
    if fmtIsInt fmt then (encodeIntI n r (rnsCrt slot), 0) else encodeFP fmt r (recERM r) (Fv.ofInt (rnsCrt slot))
  else
    let x := if wbRNS d then Fv.ofInt (rnsCrt slot) else fp32.decode slot
    let y := scaleVal r x
    let z := if fmtIsInt fmt then encodeIntF n r (recERM r) y.1 else encodeFP fmt r (recERM r) y.1
    (z.1, y.2 ||| z.2)

/-- The accumulator offset of result element (i, j) (R171). -/
def wbSlotOff (d : BitVec 512) (i j : Nat) : Nat :=
  let tw := if wbRNS d then 16 else 48
  let tc := (wbCOLM1 d + 1 + tw - 1) / tw
  wbSRCOFF d + (i / 64 * tc + j / tw) * 256 * tw + (i % 64 * tw + j % tw) * 4

/-- The slot of result element (i, j): its value and its mark (R171). -/
def wbSlot (v : State) (t : Nat) (d : BitVec 512) (i j : Nat) : Except MStop (Nat × Bool) :=
  let o := wbSlotOff d i j
  if 0x300000 ≤ o then .error (.err 1) else .ok (v.rd (accKey t o) 4, v.poisoned (accKey t o))

/-- One element of a row, to a format other than MXFP4: its home and its bytes. -/
def wbOne (s v : State) (t slot : Nat) (d r : BitVec 512) (i j : Nat) :
    Except MStop (Nat × List (Nat × Nat × Bool) × Flags) :=
  let n := fmtBits (wbDFMT d) / 8
  match wbSlot v t d i j with
  | .error e => .error e
  | .ok (x, p) =>
    match wbLoc s t slot ((wbDST d + i * wbDPITCH d + j * n) % 2 ^ 64) n (wbDFMT d) n with
    | .error e => .error e
    | .ok l =>
      if p && l.remote then .error (.err 3)
      else let y := wbElem d r x; .ok (l.home, bytesAt l.key n y.1 p, y.2)

/-- The byte pairs of 4-bit codes. -/
def nibbles (l : List Nat) : Nat := l.foldr (fun c acc => acc * 16 + c % 16) 0

/-- One block of 32 elements of a row, to MXFP4 (R117, R171): element bytes and scale byte, each with its home; the scale byte's checks
follow all of the element bytes' (R101). A block that does not lie on a multiple of 16 bytes from EBASE has no scale byte of its own and is
FORMAT (DEDUCED, log 96). -/
def wbBlock (s v : State) (t slot : Nat) (d r : BitVec 512) (i b : Nat) :
    Except MStop ((Nat × List (Nat × Nat × Bool)) × (Nat × List (Nat × Nat × Bool)) × Flags) :=
  match collect (fun j => wbSlot v t d i (32 * b + j)) (List.range 32) with
  | .error e => .error e
  | .ok xs =>
    let a := (wbDST d + i * wbDPITCH d + 16 * b) % 2 ^ 64
    match wbLoc s t slot a 16 fmtMXFP4 1 with
    | .error e => .error e
    | .ok l =>
      let eb := recEBASE r
      let p := xs.any (·.2)
      if p && l.remote then .error (.err 3)
      else if a < eb ∨ eb % 32 ≠ 0 ∨ (a - eb) % 16 ≠ 0 then .error (.err 2)
      else match wbLoc s t slot (recSPBASE r + (a - eb) / 16) 1 fmtMXFP4 1 with
        | .error e => .error e
        | .ok l2 =>
          if p && l2.remote then .error (.err 3)
          else
            let ys := xs.map fun x => scaleVal r (if wbRNS d then Fv.ofInt (rnsCrt x.1) else fp32.decode x.1)
            let e := encodeMX r (recERM r) (ys.map (·.1))
            let dw := fun k => (xs.drop (16 * k)).take 16 |>.any (·.2)
            let x := nibbles e.1
            .ok ((l.home, bytesAt l.key 8 x (dw 0) ++ bytesAt (l.key + 8) 8 (x / 2 ^ 64) (dw 1)),
                 (l2.home, bytesAt l2.key 1 e.2.1 p), orAll (ys.map (·.2)) ||| e.2.2)

/-- The doublewords of the slots that one row reads, each once (R171, R237). -/
def wbReads (t : Nat) (d : BitVec 512) (i : Nat) : List Nat :=
  ((List.range (wbCOLM1 d + 1)).flatMap fun j =>
    let o := wbSlotOff d i j
    if 0x300000 ≤ o then [] else dwsOf (accKey t o) 4).eraseDups

/-- The writes of one row: home and pieces, in order, and the flags (R171). -/
def wbRow (s : State) (t slot : Nat) (d r : BitVec 512) (i : Nat) :
    Except MStop (List (Nat × List (Nat × Nat × Bool)) × Flags) :=
  let v := s.seen t 3 (s.ownerAt t slot)
  let c := wbCOLM1 d + 1
  if wbDFMT d = fmtMXFP4 then
    match collect (fun b => wbBlock s v t slot d r i b) (List.range (c / 32)) with
    | .error e => .error e
    | .ok l => .ok (l.map (·.1) ++ l.map (·.2.1), orAll (l.map (·.2.2)))
  else
    match collect (fun j => wbOne s v t slot d r i j) (List.range c) with
    | .error e => .error e
    | .ok l =>
      let hs := (l.map (·.1)).eraseDups
      .ok (hs.map fun h => (h, ((l.filter fun x => x.1 == h).map (·.2.1)).flatten), orAll (l.map (·.2.2)))

/-! ## Device steps of the engine -/

namespace State

/-- The command at the head of a tile's matrix queue. -/
def mhead (s : State) (t : Nat) : Option MCmd := (s.tileAt t).mq.head?

/-- The head command changed. -/
def modMhead (s : State) (t : Nat) (f : MCmd → MCmd) : State :=
  s.modTile t fun x => { x with mq := updAt f 0 x.mq }

/-- A command stops (R158, R159): an error ends it; a stall waits, and is reported to its context. -/
def mstop (s : State) (t : Nat) (m : MCmd) (e : MStop) : State :=
  match e with
  | .err code =>
    ((s.engReset t).modMhead t fun m => { m with fin := true, err := code }).modCtx t m.slot fun c =>
      { c with merr := BitVec.ofNat 4 code }
  | .stall a st =>
    (((s.modMhead t fun m => { m with stall := some (a, st) }).modCtx t m.slot fun c => { c with mrstall := true }).postTrap
      t m.slot cREGION_FAULT (BitVec.ofNat 64 a))

/-- Flags of a step or row ORed into FLAGS of the issuing context (R155, R171). -/
def orMflags (s : State) (t slot : Nat) (f : Flags) : State :=
  s.modCtx t slot fun c => { c with mflags := c.mflags ||| f }

end State

/-- A head command that runs: begun, not finished, not stalled. -/
def MCmd.runs (m : MCmd) : Bool := m.began && !m.fin && m.stall.isNone

/-- MATRIX_COMMAND_START (R152, R173): the head command begins; one with no step has nothing to do. -/
def execMatrixCommandStart (t : Nat) (s : State) : Host.Outcome State Fault Refusal :=
  match s.mhead t with
  | none => .next s
  | some m =>
    if m.began || m.fin then .next s
    else .next (s.modMhead t fun m =>
      { m with began := true, fin := match m.kind with
          | .go d _ _ => !nestAny d
          | .clr _ n _ => n == 0
          | .wb _ _ => false })

/-- What the next step or row of the command that leads the queue reads, as its context sees the memory (R290). -/
def State.matrixReads (s : State) (t : Nat) (m : MCmd) : List Nat :=
  match m.kind with
  | .go d ra rb => stepReads (s.seen t 3 (s.ownerAt t m.slot)) t m.slot d ra rb m.idx
  | .clr _ _ _ => []
  | .wb d _ => wbReads t d m.row

/-- The step or row of a command waits for writes of earlier commands of other contexts, which it must observe (R148). -/
def State.matrixWaits (s : State) (t : Nat) (m : MCmd) : Bool := s.unapplied t 3 (s.ownerAt t m.slot) (s.matrixReads t m)

/-- MATRIX_STEP (R152 to R156); the reads of its streams check their doublewords (R237). -/
def execMatrixStep (t : Nat) (s : State) : Host.Outcome State Fault Refusal :=
  match s.mhead t with
  | none => .next s
  | some m => match m.kind with
    | .go d ra rb =>
      if !m.runs || s.matrixWaits t m then .next s
      else
        let x := s.sramReads (s.matrixReads t m)
        match mstepRows x.1 t m.slot d ra rb m.idx with
        | .error e => .next (x.2.mstop t m e)
        | .ok (rows, fl) =>
          let s := rows.foldl (fun s r => s.queueW t t 3 (r.map (·.1)) (r.map (·.2))) x.2
          let s := s.orMflags t m.slot fl
          .next ((s.engReset t).modMhead t fun m => match nextIdx d 0 m.idx with
            | some i => { m with idx := i, acc := true }
            | none => { m with fin := true })
    | _ => .next s

/-- MATRIX_STALL_RESUME (R159): the entry serves the stalled access. -/
def execMatrixStallResume (t : Nat) (s : State) : Host.Outcome State Fault Refusal :=
  match s.mhead t with
  | none => .next s
  | some m => match m.stall with
    | none => .next s
    | some (a, st) => match s.engLoc t m.slot a 1 st true true with
      | .stall => .next s
      | _ => .next ((s.modMhead t fun m => { m with stall := none }).modCtx t m.slot fun c => { c with mrstall := false })

/-- MWB_ROW (R171); the reads of its slots check their doublewords (R237). -/
def execMwbRow (t : Nat) (s : State) : Host.Outcome State Fault Refusal :=
  match s.mhead t with
  | none => .next s
  | some m => match m.kind with
    | .wb d r =>
      if !m.runs || s.matrixWaits t m then .next s
      else
        let x := s.sramReads (s.matrixReads t m)
        match wbRow x.1 t m.slot d r m.row with
        | .error e => .next (x.2.mstop t m e)
        | .ok (ws, fl) =>
          let s := ws.foldl (fun s w =>
            let ps := groupBytes w.2.length w.2
            s.queueW w.1 t 3 (ps.map (·.1)) (ps.map (·.2))) x.2
          let s := s.orMflags t m.slot fl
          .next ((s.engReset t).modMhead t fun m => { m with row := m.row + 1, fin := m.row == wbROWM1 d })
    | _ => .next s

/-- MATRIX_CLEAR_RUN (R168): the range is written and its marks cleared. -/
def execMatrixClearRun (t : Nat) (s : State) : Host.Outcome State Fault Refusal :=
  match s.mhead t with
  | none => .next s
  | some m => match m.kind with
    | .clr off n z =>
      if !m.runs then .next s
      else
        let x := if z then 0x8000000080000000 else 0
        let s := (List.range (n / 64)).foldl (fun s j => s.queueW t t 3
          ((List.range 8).map fun k => (accKey t (off + 64 * j + 8 * k), 8, x)) (List.replicate 8 false)) s
        .next ((s.engReset t).modMhead t fun m => { m with fin := true })
    | _ => .next s

/-- Semaphore, member and enables of a command (R160). -/
def mActions : MKind → Bool × Nat × Nat × Bool
  | .go d _ _ => (mdSEMEN d, mdSEMGANG d, mdSEM d, mdINTEN d)
  | .clr _ _ _ => (false, 0, 0, false)
  | .wb d _ => (wbSEMEN d, wbSEMGANG d, wbSEM d, wbINTEN d)

/-- MATRIX_COMPLETION (R160): DONE, the signal, the handler source and the event; an aborted command sets DONE only. -/
def execMatrixCompletion (t : Nat) (s : State) : Host.Outcome State Fault Refusal :=
  match s.mhead t with
  | none => .next s
  | some m =>
    if !m.fin then .next s
    else
      let s := s.modTile t fun x => ({ x with mdone := m.seq, mq := x.mq.tail }).popMatrix
      if m.err = 4 then .next s
      else
        let a := mActions m.kind
        let s := if a.1 then s.sendSig (s.ctxAt t m.slot).gang a.2.1 a.2.2.1 1 else s
        let s := if a.2.2.2 then s.setPend t m.slot 2 else s
        .next (s.setEvent t m.slot 3)

end Sys2Proof.Machine
end

