-- ==== Sys2Proof/Machine/Link.lean ====
section
/-! DEFINITION. Meridian ports (R377 to R380) and the link engine (R381 to R386): transfers, their flits and their completion.
Collective schedules are in Collective.lean. -/

namespace Sys2Proof.Machine

/-! ## Descriptors (R382) -/

def lkLADDR (d : BitVec 512) : Nat := bits d.toNat 0 23
def lkLEN (d : BitVec 512) : Nat := bits d.toNat 64 24
def lkKEY (d : BitVec 512) : Nat := bits d.toNat 96 16
def lkPEER (d : BitVec 512) : Nat := bits d.toNat 112 16
def lkFMT (d : BitVec 512) : Nat := bits d.toNat 132 4
def lkPR (d : BitVec 512) : Nat := bits d.toNat 136 6
def lkCRCMODE (d : BitVec 512) : Nat := bits d.toNat 142 2
def lkRECEN (d : BitVec 512) : Bool := bit d.toNat 144
def lkINTEN (d : BitVec 512) : Bool := bit d.toNat 145
def lkSEMEN (d : BitVec 512) : Bool := bit d.toNat 146
def lkSEM (d : BitVec 512) : Nat := bits d.toNat 147 5
def lkSEMGANG (d : BitVec 512) : Nat := bits d.toNat 152 10
def lkSEED (d : BitVec 512) : Nat := bits d.toNat 192 32
def lkEXPECT (d : BitVec 512) : Nat := bits d.toNat 224 32
def lkBANKMASK (d : BitVec 512) : Nat := bits d.toNat 256 32

/-- Fields of the transfer descriptor; the completion record lies above bit 448 (R382). -/
def lkFields : List (Nat × Nat) :=
  [(0, 23), (64, 24), (96, 16), (112, 16), (128, 4), (132, 4), (136, 6), (142, 2), (144, 1), (145, 1), (146, 1), (147, 5),
   (152, 10), (192, 32), (224, 32), (256, 32), (448, 64)]

/-- The checks of LSEND, LRECV and LRADD (R382); kind 2 is LRADD. -/
def linkOk (d : BitVec 512) (kind gangsize : Nat) : Bool :=
  rzOk d.toNat lkFields && decide (lkLADDR d + lkLEN d ≤ 0x800000) && (!lkSEMEN d || decide (lkSEMGANG d < gangsize)) &&
  (kind != 2 || (lkFMT d != fmtRAW && lkFMT d != fmtMXFP4 && !fmtReserved (lkFMT d) &&
    lkLEN d % (fmtBits (lkFMT d) / 8) == 0))

/-- A command that sends, one that receives, and one that adds what it receives. -/
def LCmd.sends (m : LCmd) : Bool := m.kind == 0 || m.kind == 4
def LCmd.receives (m : LCmd) : Bool := m.kind == 1 || m.kind == 2 || m.kind == 5 || m.kind == 6
def LCmd.adds (m : LCmd) : Bool := m.kind == 2 || m.kind == 6

/-- The tag of a command with the banks that it reserves; a schedule's descriptor has no mask (R244, R382, R388). -/
def LCmd.banks (m : LCmd) : BitVec 32 × Nat := (m.tag, if m.kind = 3 then 0 else lkBANKMASK m.d)

/-- A transfer of a schedule's step. -/
def LCmd.sub (m : LCmd) : Bool := decide (4 ≤ m.kind)

/-! ## Flits (R377) -/

/-- TYPE of a body. -/
def flitType : FlitBody → Nat
  | .data _ => 1
  | .last _ => 2
  | .clear _ _ _ => 3
  | .done _ => 4
  | .idle _ => 6
  | .other t _ => t % 16
  | _ => 5

/-- The payload: the data, or a message whose layout the spec leaves open (log 30). -/
def flitPayload : FlitBody → Nat
  | .data x => x
  | .last x => x
  | .clear len id run => Config.message ([3, len, id] ++ match run with | none => [] | some x => [x.1, x.2])
  | .done id => Config.message [4, id]
  | .abort key id => Config.message [5, key, id]
  | .lengthError key id => Config.message [6, key, id]
  | .hold => Config.message [7]
  | .idle c => Config.message [8, ofBool c]
  | .memberDone b e r => Config.message [9, b, e, r]
  | .commit b e => Config.message [10, b, e]
  | .fail b e l => Config.message (11 :: b :: e :: l)
  | .restart b e l => Config.message (12 :: b :: e :: l)
  | .query b e r => Config.message [13, b, e, r]
  | .answer b e r c => Config.message [14, b, e, r, ofBool c]
  | .unreachable x => Config.message [17, x]
  | .leave key id => Config.message [18, key, id]
  | .twinDigest p w d => Config.message [15, p, w, d]
  | .twinInterim p w d => Config.message [16, p, w, d]
  | .other _ x => x

/-- Bytes 0 to 11. -/
def flitHead (f : Flit) : Nat :=
  ofBool f.nak * 2 ^ 11 + flitType f.body * 2 ^ 12 + f.seq % 2 ^ 12 * 2 ^ 16 + f.ack % 2 ^ 12 * 2 ^ 28 + f.lenb % 2 ^ 8 * 2 ^ 40 +
    f.key % 2 ^ 16 * 2 ^ 48 + f.dest % 2 ^ 16 * 2 ^ 64 + f.src % 2 ^ 16 * 2 ^ 80

/-- One byte through the CRC-32 of flits. -/
def flitByte (r : BitVec 32) (x : Nat) : BitVec 32 :=
  Nat.rec (r ^^^ BitVec.ofNat 32 (x % 256)) (fun _ r => if r.getLsbD 0 then (r >>> 1) ^^^ 0xEDB88320 else r >>> 1) 8

/-- The running CRC-32 over the `n` lowest bytes of `x`. -/
def flitBytes : Nat → Nat → BitVec 32 → BitVec 32
  | 0, _, r => r
  | n + 1, x, r => flitBytes n (x / 256) (flitByte r x)

/-- The CRC field that a flit must hold. -/
def flitCheck (f : Flit) : Nat :=
  (~~~(flitBytes 252 (flitHead f + flitPayload f.body % 2 ^ 1920 * 2 ^ 96) 0xFFFFFFFF)).toNat

/-- A flit with its CRC. -/
def flitSealed (f : Flit) : Flit := { f with crc := flitCheck f }

/-- A flit with the CRC error that the injector gives its first transmission (R371; DESIGN CHOICE, log 30). -/
def flitDamaged (f : Flit) : Flit := { f with crc := flitCheck f ^^^ 1 }

/-! ## Ports (R377 to R380) -/

namespace State

/-- Port `p`. -/
def portAt (s : State) (p : Nat) : Port := s.ports.getD p {}

/-- Port `p` changed. -/
def modPort (s : State) (p : Nat) (f : Port → Port) : State := { s with ports := updAt f p s.ports }

/-- The port is UP and may send one more flit: its replay buffer has room and its peer grants credits (R378, R380). -/
def portOpen (s : State) (p : Nat) : Bool :=
  let x := s.portAt p
  x.en && x.state == 2 && decide (x.replay.length < 256) && !x.peerHeld && !s.gated

/-- The port may send one more flit and none waits before it. -/
def portRoom (s : State) (p : Nat) : Bool := s.portOpen p && (s.portAt p).out.isEmpty

/-- A flit that goes out now (R377, R378): it takes the next sequence number and stays in the replay buffer. -/
def putFlit (s : State) (p : Nat) (f : Flit) (hurt : Bool) : State :=
  s.modPort p fun x =>
    let f := flitSealed { f with ack := x.rxSeq, seq := x.txSeq }
    { x with txSeq := (x.txSeq + 1) % 4096, replay := x.replay ++ [f], sent := x.sent ++ [if hurt then flitDamaged f else f] }

/-- Flits that wait go out while there is room. -/
def flushN : Nat → State → Nat → State
  | 0, s, _ => s
  | n + 1, s, p => match (s.portAt p).out with
    | [] => s
    | f :: r => if s.portOpen p then flushN n ((s.modPort p fun x => { x with out := r }).putFlit p f false) p else s

/-- Flits that wait at a port go out while there is room. -/
def flushPort (s : State) (p : Nat) : State := flushN (s.portAt p).out.length s p

/-- A flit of this package; the header of a CONTROL flit holds no KEY (R377). -/
def flitOf (s : State) (dest key lenb : Nat) (body : FlitBody) : Flit :=
  { src := s.pkgId, dest := dest, key := if flitType body ≤ 4 then key else 0, lenb := lenb, ack := 0, seq := 0, nak := false, body := body }

/-- A flit sent: it goes out at once, or waits at its port for room or for credits (R378, R380). -/
def sendFlit (s : State) (p dest key lenb : Nat) (body : FlitBody) : State :=
  (s.modPort p fun x => { x with out := x.out ++ [s.flitOf dest key lenb body] }).flushPort p

/-- An IDLE flit, which has no number of its own, from a port that is UP (R380; DEDUCED, log 30). -/
def sendIdle (s : State) (p : Nat) (nak : Bool) : State :=
  let x := s.portAt p
  if x.en ∧ x.state = 2 then
    s.modPort p fun x => { x with sent := x.sent ++
      [flitSealed { s.flitOf x.peer.toNat 0 0 (.idle (!s.gated)) with ack := x.rxSeq, seq := x.txSeq, nak := nak }] }
  else s

/-- IDLE from every port: the package grants credits or no longer does (R380). -/
def idleAll (s : State) : State := (List.range 12).foldl (fun s p => s.sendIdle p false) s

/-- A link command of a tile changed. -/
def modLink (s : State) (t : Nat) (age : Nat) (f : LCmd → LCmd) : State :=
  s.modTile t fun x => { x with link := { x.link with q := x.link.q.map fun m => if m.age == age then f m else m } }

/-- Every link command of the package with its tile. -/
def linkCmds (s : State) : List (Nat × LCmd) :=
  s.tiles.zipIdx.flatMap fun x => x.1.link.q.map fun m => (x.2, m)

end State

/-- A command put among others by age. -/
def insertAge (x : Nat × LCmd) : List (Nat × LCmd) → List (Nat × LCmd)
  | [] => [x]
  | y :: r => if x.2.age < y.2.age then x :: y :: r else y :: insertAge x r

/-- The oldest of some commands. -/
def oldest : List (Nat × LCmd) → Option (Nat × LCmd)
  | [] => none
  | x :: r => match oldest r with
    | none => some x
    | some y => if y.2.age < x.2.age then some y else some x

/-! ## Matching (R383) -/

/-- A send and a CLEAR meet: the lengths are compared. The CLEAR's number names its receiver (log 51). -/
def State.meet (s : State) (t : Nat) (m : LCmd) (len id : Nat) : State :=
  if len < lkLEN m.d then
    (s.sendFlit m.port (lkPEER m.d) 0 0 (.lengthError (lkKEY m.d) id)).modLink t m.age fun m =>
      { m with fin := true, err := if m.err = 0 then 4 else m.err }
  else s.modLink t m.age fun m => { m with st := 3, mate := id }

/-- KEYBASE and EPOCH name an epoch that a schedule of this package with a member in a package has left (R390). -/
def State.leftEpoch (s : State) (src : Nat) (x : Nat × Nat) : Bool :=
  s.linkCmds.any fun y => !y.2.fin && bits y.2.d.toNat 240 16 == x.1 && match y.2.sched with
    | none => false
    | some k => (k.members.any fun z => z.1 == src) && x.2 != k.epoch && decide ((k.epoch + 2 ^ 16 - x.2 % 2 ^ 16) % 2 ^ 16 < 2 ^ 15)

/-- A CLEAR from a receiver: it matches the oldest send that waits with its key, a step of a schedule one of its own epoch, or waits
itself. One of an epoch that the schedule here has left is told that nothing comes for it (R390; DESIGN CHOICE, log 102). -/
def State.takeClear (s : State) (p src key len id : Nat) (run : Option (Nat × Nat)) : State :=
  if run.any (s.leftEpoch src) then s.sendFlit p src 0 0 (.leave key id)
  else match oldest (s.linkCmds.filter fun x =>
      x.2.sends && x.2.st == 2 && !x.2.fin && x.2.port == p && lkPEER x.2.d == src && lkKEY x.2.d == key && x.2.run == run) with
  | some x => s.meet x.1 x.2 len id
  | none => s.modPort p fun y => { y with clears := y.clears ++ [{ src := src, key := key, len := len, id := id, run := run }] }

/-- A command that is QUEUED starts on its port once the port is UP: a receiver sends its CLEAR, a sender looks for one; on a port
that is DOWN it ends with LINKDOWN (R378, R383). -/
def State.startLink (s : State) (t : Nat) (m : LCmd) : State :=
  if m.st ≠ 1 ∨ m.kind = 3 ∨ m.fin then s
  else
    let x := s.portAt m.port
    if x.state = 0 ∨ !x.en then s.modLink t m.age fun m => { m with fin := true, err := 6 }
    else if x.state ≠ 2 then s
    else if m.receives then
      (s.sendFlit m.port (lkPEER m.d) (lkKEY m.d) 0 (.clear (lkLEN m.d) m.age m.run)).modLink t m.age fun m => { m with st := 2 }
    else
      let s := s.modLink t m.age fun m => { m with st := 2 }
      match x.clears.find? fun c => c.src == lkPEER m.d && c.key == lkKEY m.d && c.run == m.run with
      | none => s
      | some c => (s.modPort m.port fun y => { y with clears := y.clears.erase c }).meet t m c.len c.id

/-- A port is DOWN: what waits there is gone and its commands end with LINKDOWN (R378). -/
def State.downCmds (s : State) (p : Nat) : State :=
  (s.modPort p fun x => { x with out := [], ghosts := [] }).linkCmds.foldl (fun s x =>
    if x.2.port = p ∧ x.2.kind ≠ 3 ∧ !x.2.fin then s.modLink x.1 x.2.age fun m => { m with fin := true, err := 6, stall := none }
    else s) (s.modPort p fun x => { x with out := [], ghosts := [] })

/-- Every command that can start starts, oldest first (R383). -/
def State.startLinks (s : State) : State := (s.linkCmds.foldr insertAge []).foldl (fun s x => s.startLink x.1 x.2) s

/-! ## The link words (R381, R386) -/

/-- Commands of a tile that hold an entry of its queue of 8. -/
def LinkEng.full (x : LinkEng) : Bool := decide (8 ≤ (x.q.filter fun m => !m.sub).length)

/-- A command accepted: the next tag and a queue entry (R381). -/
def State.acceptLink (s : State) (m : LCmd) : State :=
  let t := s.iss.tile
  ({ s with linkAge := s.linkAge + 1 }).modTile t fun x => { x with link := { x.link with seq := m.tag, q := x.link.q ++ [m] } }

/-- LSEND, LRECV and LRADD. -/
def linkWord (kind : Nat) (i : Instr) (f : FLink) (s : State) : WordRes :=
  let t := s.iss.tile
  let a := s.srcS i 0
  if (s.tileAt t).link.full then .hold
  else match readDesc s a 64 true with
    | (.error e, s) => .trap e.1 e.2 s
    | (.ok x, s) =>
      let d := BitVec.ofNat 512 x
      let c := s.iss.pre
      if !linkOk d kind c.gangsize then .trap cILLEGAL_STATE 0 s
      else
        let m : LCmd := { tag := (s.tileAt t).link.seq + 1, age := s.linkAge, gang := c.gang, task := c.taskid, kind := kind,
                          port := f.p.toNat, d := d, da := a.v.toNat, r := c.recs.getD (lkPR d) 0 }
        .ok (((s.acceptLink m).startLink t m).resNoLatch f.d true { v := m.tag.setWidth 64 })

def execLsend (f : FLink) (s : State) := runWord (.lsend f) (linkWord 0 (.lsend f) f) s
def execLrecv (f : FLink) (s : State) := runWord (.lrecv f) (linkWord 1 (.lrecv f) f) s
def execLradd (f : FLink) (s : State) := runWord (.lradd f) (linkWord 2 (.lradd f) f) s

/-! ## Checksums and status (R384, R385) -/

/-- The running register after the bytes of a command, from the register before them: a CRC is linear in its start. -/
def LCmd.after (m : LCmd) (r : BitVec 32) : BitVec 32 := crcBytes m.pos 0 (crcStart (lkCRCMODE m.d) (lkSEED m.d) r) ^^^ m.crc

/-- The running register after the commands of a context that were accepted before one of them (R322, R385). -/
def lcrcFold (m : LCmd) : List LCmd → BitVec 32 → BitVec 32
  | [], r => r
  | c :: l, r =>
    if c.age = m.age then r
    else lcrcFold m l (if c.gang = m.gang ∧ c.task = m.task ∧ c.kind ≤ 2 ∧ lkCRCMODE c.d ≠ 0 then c.after r else r)

/-- The context's own register, wherever the context is (R381). -/
def State.linkReg (s : State) (t : Nat) (m : LCmd) : BitVec 32 :=
  match s.linkAt t m with
  | some k => k.2.crc.getD 2 0
  | none => 0xFFFFFFFF

/-- The running value of a transfer so far. -/
def State.lcrcOf (s : State) (t : Nat) (m : LCmd) : BitVec 32 := m.after (lcrcFold m (s.tileAt t).link.q (s.linkReg t m))

/-- The link status word in a state, with an error code (R384). -/
def State.linkStatus (s : State) (t : Nat) (m : LCmd) (st err : Nat) : W64 :=
  let crc := if m.kind = 3 ∨ lkCRCMODE m.d = 0 then 0 else (~~~(s.lcrcOf t m)).toNat
  BitVec.ofNat 64 (crc + Nat.min m.retries 255 * 2 ^ 32 + st * 2 ^ 40 + err * 2 ^ 44 + m.flags.toNat * 2 ^ 48)

/-- LSTAT (R386). -/
def lstat (i : Instr) (f : FAd) (s : State) : WordRes :=
  let t := s.iss.tile
  let c := s.iss.pre
  let a := s.srcS i 0
  if a.p then .trap cPOISON 0 s
  else
    let tag := a.v.setWidth 32
    let v := match (s.tileAt t).link.q.find? fun m => m.tag == tag && !m.sub with
      | some m => if m.gang = c.gang ∧ m.task = c.taskid then s.linkStatus t m m.st 0 else 0
      | none => (((c.kept.getD 2 []).find? fun k => k.tag == tag).map (·.status)).getD 0
    .ok (s.resNoLatch f.d true { v := v })

def execLstat (f : FAd) (s : State) := runWord (.lstat f) (lstat (.lstat f) f) s

/-! ## Receiving flits (R377, R378) -/

/-- Sequence number `a` lies before `b` in the window of a replay buffer. -/
def seqBefore (a b : Nat) : Bool := decide (0 < (b + 4096 - a) % 4096) && decide ((b + 4096 - a) % 4096 < 2048)

/-- Flits that a cumulative acknowledgement covers leave the replay buffer. -/
def Port.acked (x : Port) (ack : Nat) : Port :=
  { x with replay := x.replay.filter fun f => !seqBefore f.seq ack, naks := if seqBefore x.nakSeq ack then 0 else x.naks }

/-- The bytes of a DATA or LAST flit, and whether it is the last. -/
def dataOf : FlitBody → Option (Nat × Bool)
  | .data x => some (x, false)
  | .last x => some (x, true)
  | _ => none

/-- A retry counted at a command (R384). -/
def State.countRetry (s : State) (x : Option (Nat × LCmd)) : State :=
  match x with
  | some x => s.modLink x.1 x.2.age fun m => { m with retries := m.retries + 1 }
  | none => s

/-- The send whose flit had a sequence number on a port. -/
def State.sentBy (s : State) (p seq : Nat) : Option (Nat × LCmd) :=
  oldest (s.linkCmds.filter fun x => x.2.sends && !x.2.fin && x.2.port == p && x.2.seqs.contains seq)

/-- The receivers of a peer and key on a port that are not finished. -/
def State.receivers (s : State) (p src key : Nat) : List (Nat × LCmd) :=
  s.linkCmds.filter fun x =>
    x.2.receives && !x.2.fin && x.2.st != 1 && x.2.port == p && lkPEER x.2.d == src && lkKEY x.2.d == key

/-- The receiver that the next flit to arrive with a peer and key is for: each LAST that waits ends one before it. -/
def State.awaiting (s : State) : Nat → List (Nat × LCmd) → Option (Nat × LCmd)
  | 0, l => oldest l
  | n + 1, l => match oldest l with
    | none => none
    | some x => s.awaiting n (l.filter fun y => y.2.age != x.2.age)

/-- A port begins retraining (R378, R379). -/
def State.retrainPort (s : State) (p : Nat) : State :=
  s.modPort p fun x => { x with state := 1, retrain := Nat.min (x.retrain + 1) 255, fails := 0, naks := 0 }

/-- A NAK at a sequence number: everything before it has arrived, and the port resends from it; the eighth in a row makes the port
retrain (R378). -/
def State.resend (s : State) (p seq : Nat) : State :=
  let x := s.portAt p
  let y := x.acked seq
  let n := if x.nakSeq = seq then x.naks + 1 else 1
  let s := s.countRetry (s.sentBy p seq)
  if 8 ≤ n then (s.modPort p fun _ => y).retrainPort p
  else s.modPort p fun _ => { y with sent := y.sent ++ y.replay, nakSeq := seq, naks := n }

/-- NAK (R378). -/
def execNak (port seq : Nat) (s : State) : Host.Outcome State Fault Refusal :=
  if (s.portAt port).state = 2 then .next ((s.resend port seq).flushPort port) else .next s

/-- Whether a port holds its flits back after one from its peer (R380). -/
def heldAfter (held : Bool) : FlitBody → Bool
  | .hold => true
  | .idle c => !c
  | _ => held

/-- What a port learns from a flit of its peer (R380, R390): credits, HOLD of a package, and that a package is reachable. -/
def Port.learn (x : Port) (f : Flit) : Port :=
  { x with
    peerHeld := heldAfter x.peerHeld f.body, lost := x.lost.filter fun q => q != f.src,
    holds := if f.body = .hold then f.src :: x.holds.filter fun q => q != f.src else x.holds }

/-- NAK goes out for the flit awaited, and `n` is the number that the next flit on its way has (R378). -/
def State.sendNak (s : State) (p n : Nat) : State :=
  (s.sendIdle p true).modPort p fun x => { x with nakOut := true, rxPos := n % 4096 }

/-- A numbered flit that comes while a NAK is out is one that was on its way: its number lies after the one awaited and does not fall back
behind those that came before it (R378; DEDUCED, log 103). -/
def Port.onWay (x : Port) (f : Flit) : Bool := x.nakOut && seqBefore x.rxSeq f.seq && !seqBefore f.seq x.rxPos

/-- A flit that failed its check (R378, R379): it is counted. NAK is sent for the flit awaited, and at its eighth failure in a row the port
retrains; a flit that was on its way behind it is discarded. A damaged IDLE flit has no number: IDLE answers it, with the NAK that is
out, so that a NAK that was lost is sent again (DEDUCED, log 103). -/
def State.failFlit (s : State) (p : Nat) (f : Flit) : State :=
  let s := s.modPort p fun x => { x with crcerr := Nat.min (x.crcerr + 1) 65535 }
  let x := s.portAt p
  if flitType f.body = 6 then s.sendIdle p x.nakOut
  else if x.onWay f then s.modPort p fun x => { x with rxPos := (f.seq + 1) % 4096 }
  else
    let lasts := (x.rx.filter fun y => y.src == f.src && y.key == f.key &&
      match dataOf y.body with | some x => x.2 | none => false).length
    let s := if (dataOf f.body).isSome then s.countRetry (s.awaiting lasts (s.receivers p f.src f.key)) else s
    let s := (s.sendNak p (x.rxSeq + 1)).modPort p fun x => { x with fails := x.fails + 1 }
    if 8 ≤ (s.portAt p).fails then s.retrainPort p else s

/-- A flit with a good check but out of its order (R378): one that was on its way, or one that came before, is discarded; another shows
that the flit awaited was lost, which NAK asks for again (DEDUCED, log 103). -/
def State.strayFlit (s : State) (p : Nat) (f : Flit) : State :=
  let x := s.portAt p
  if x.onWay f then s.modPort p fun x => { x with rxPos := (f.seq + 1) % 4096 }
  else if seqBefore x.rxSeq f.seq then s.sendNak p (f.seq + 1)
  else s

/-- The flit awaited has come (R378); where a NAK was out, IDLE tells the peer, which repeats a NAK of its own that may have been lost. -/
def State.takeSeq (s : State) (p : Nat) : State :=
  let s' := s.modPort p fun x => { x with rxSeq := (x.rxSeq + 1) % 4096, fails := 0, nakOut := false }
  if (s.portAt p).nakOut then s'.sendIdle p false else s'

/-- An IDLE flit while a NAK is out, other than one that changes the credits, shows that the peer may not have had that NAK (DEDUCED,
log 103). -/
def State.answerIdle (s : State) (p : Nat) (x : Port) (f : Flit) : State :=
  if flitType f.body = 6 ∧ x.nakOut ∧ (f.nak ∨ heldAfter x.peerHeld f.body = x.peerHeld) then s.sendIdle p true else s

/-- KEYBASE and EPOCH of a schedule's message (R390). -/
def flitSched : FlitBody → Option (Nat × Nat)
  | .memberDone b e _ => some (b, e)
  | .commit b e => some (b, e)
  | .fail b e _ => some (b, e)
  | .restart b e _ => some (b, e)
  | .query b e _ => some (b, e)
  | .answer b e _ _ => some (b, e)
  | _ => none

/-- A message of an epoch that a schedule of this package has left (R390). -/
def State.stale (s : State) (f : Flit) : Bool := (flitSched f.body).any (s.leftEpoch f.src)

/-- A flit in its place: it is handed to the engines, or used up by the port itself; codes of TYPE that the table does not list are
counted and discarded (R377). -/
def State.acceptFlit (s : State) (p : Nat) (f : Flit) : State :=
  match f.body with
  | .other _ _ => { s with flitDrops := s.flitDrops + 1 }
  | .hold => s
  | .idle _ => s
  | .unreachable q => s.modPort p fun x => { x with lost := q :: x.lost, ghosts := x.ghosts.filter fun g => g.1 != q }
  | _ => if s.stale f then s else s.modPort p fun x => { x with rx := x.rx ++ [f] }

/-- FLIT_RECEIVE (R377, R378, R380): a flit is checked, discarded or taken in SEQ order; IDLE flits carry no number of their own
(DEDUCED, log 30). -/
def execFlitReceive (port : Nat) (f : Flit) (bad : Bool) (s : State) : Host.Outcome State Fault Refusal :=
  let x := s.portAt port
  let idle := flitType f.body == 6
  if x.state ≠ 2 ∨ !x.en then .next s
  else if bad || f.crc != flitCheck f then .next (s.failFlit port f)
  else if !idle && f.seq != x.rxSeq then .next (s.strayFlit port f)
  else
    let s := if idle then s else s.takeSeq port
    if f.dest ≠ s.pkgId then .next { s with flitDrops := s.flitDrops + 1 }
    else
      let s := s.modPort port fun x => (x.acked f.ack).learn f
      let s := (if f.nak then s.resend port f.ack else s).answerIdle port x f
      .next (((s.acceptFlit port f).flushPort port).startLinks)

/-- RETRAIN_COMPLETE (R378, R379): the port measures its latency and goes on from its replay buffer, or is DOWN and its commands
end. -/
def execRetrainComplete (port : Nat) (lt : Option Nat) (s : State) : Host.Outcome State Fault Refusal :=
  if (s.portAt port).state ≠ 1 then .next s
  else match lt with
    | some n =>
      .next (((s.modPort port fun x =>
        { x with state := 2, lt := BitVec.ofNat 16 n, sent := x.sent ++ x.replay, fails := 0, naks := 0, nakOut := false }).flushPort
          port).startLinks)
    | none => .next ((s.modPort port fun x => { x with state := 0 }).downCmds port)

/-- LINK_TRAINING (R379): the port learns its peer, measures its latency and is UP. -/
def execLinkTraining (port peer lt : Nat) (s : State) : Host.Outcome State Fault Refusal :=
  if (s.portAt port).state = 1 ∧ (s.portAt port).en then
    .next (((s.modPort port fun x =>
      { x with state := 2, peer := BitVec.ofNat 16 peer, lt := BitVec.ofNat 16 lt, ghosts := [], lost := [] }).flushPort port).startLinks)
  else .next s

/-- HOLD (R380): a gated package's port sends HOLD. -/
def execPortHold (port : Nat) (s : State) : Host.Outcome State Fault Refusal :=
  let x := s.portAt port
  if s.gated ∧ x.en ∧ x.state = 2 ∧ x.replay.length < 256 then
    .next (s.putFlit port (s.flitOf x.peer.toNat 0 0 .hold) false)
  else .next s

/-! ## Transfers (R383, R384) -/

/-- The exact sum of two values with the sign of a zero sum under a rounding mode (R384). -/
def exactSum (rm : Nat) (a b : Fv) : Fv × Flags :=
  if a.isNan || b.isNan then (.nan false, sigFlags [a, b])
  else match a, b with
    | .inf n, .inf k => if n == k then (.inf n, 0) else (.nan false, fNV)
    | .inf n, _ => (.inf n, 0)
    | _, .inf n => (.inf n, 0)
    | .fin n1 m1 e1, .fin n2 m2 e2 =>
      let x := addExact n1 m1 e1 n2 m2 e2
      if x.1 = 0 then (.fin (if m1 = 0 && m2 = 0 && n1 == n2 then n1 else rm == 3) 0 0, 0)
      else (.fin (decide (x.1 < 0)) x.1.natAbs x.2, 0)
    | _, _ => (.nan false, 0)

/-- One element that LRADD writes (R384). A signalling NaN of BF16, FP16 or E5M2 sets NV where it is added, as R99 says, though Decode of R114
gives the quiet NaN with no flag (DEDUCED, log 95). -/
def addElem (fmt : Nat) (r : BitVec 512) (loc e : Nat) : Nat × Flags :=
  if fmt = fmtRNS3 then (rnsAdd loc e, 0)
  else if fmtIsInt fmt then
    (encodeIntI (fmtBits fmt) r (signed loc (fmtBits fmt) + signed e (fmtBits fmt)), 0)
  else
    let y := elemValue fmt e 0
    let p := if recSCALE r = 0 then (y, (0 : Flags)) else mulExact y (fp32.decode (recSCALE r))
    let x := exactSum (recERM r) (elemValue fmt loc 0) p.1
    let z := encodeFP fmt r (recERM r) x.1
    (z.1, (if x.1.isNan then p.2 ||| x.2 ||| sigFlags [y] else x.2) ||| z.2)

/-- The context of a link command as engine 2 names it. -/
def LCmd.own (m : LCmd) : Option (Nat × BitVec 32) := some (m.gang, m.task)

/-- Where an access of a link command goes (R317, R383). -/
def State.linkLoc (s : State) (t : Nat) (m : LCmd) (a n : Nat) (store window : Bool) : EngLoc :=
  match s.linkAt t m with
  | none => .stall
  | some (slot, c) => s.engAt t slot c a n store window false

/-- The lines of a link access on its own scratchpad, or why it stops (R317, R383). -/
def linkLines (s : State) (t : Nat) (m : LCmd) (a n : Nat) (store : Bool) : Except CStop (List (Loc × Nat)) :=
  inOrder (fun x : Nat × Nat => match s.linkLoc t m x.1 x.2 store false with
    | .access => .error (.err 1)
    | .stall => .error (.stall t x.1 store)
    | .ok l => .ok (l, x.2)) (linesOf a n)

/-- The stall of a command is over, or there is none. -/
def State.linkServed (s : State) (t : Nat) (m : LCmd) : Bool :=
  match m.stall with
  | none => true
  | some (a, w) => s.linkLoc t m a 1 w true != .stall

/-- A link command stalls (R317): REGION_FAULT is raised on its context, once for an access. A region that is only parked while the
context is off its tile is no fault of it (R346; DEDUCED, log 51). -/
def State.stallLink (s : State) (t : Nat) (m : LCmd) (a : Nat) (w : Bool) : State :=
  let s := s.modLink t m.age fun m => { m with stall := some (a, w) }
  if m.stall = some (a, w) ∨ ((s.linkSlot t m).isNone ∧ entPARK ((s.tileAt t).entry a)) then s
  else s.modTask t m fun c => { c with asyncTraps := c.asyncTraps ++ [(cREGION_FAULT, BitVec.ofNat 64 a)] }

/-- The bytes of some lines. -/
def rdLines (v : State) (ls : List (Loc × Nat)) : Nat := ls.foldr (fun l x => v.rd l.1.key l.2 + x * 2 ^ (8 * l.2)) 0

/-- The memory as a link command reads it: with the writes of the engine for its context that are complete (R290). -/
def State.linkSeen (s : State) (t : Nat) (m : LCmd) : State := s.seen t 2 m.own

/-- Bytes read by a link command: the state after the reads, and the bytes or why it stops. -/
def linkRead (s : State) (t : Nat) (m : LCmd) (a n : Nat) : State × Except CStop Nat :=
  match linkLines s t m a n false with
  | .error e => (s, .error e)
  | .ok ls =>
    let r := s.sramReads (ls.flatMap fun l => dwsOf l.1.key l.2)
    let v := r.1.linkSeen t m
    (r.2, if ls.any fun l => v.anyPoison l.1.key l.2 then .error (.err 2) else .ok (rdLines v ls))

/-- Pieces of some lines with the place of each in the range. -/
def placed : Nat → List (Nat × Nat × Nat) → List (Nat × Nat × Nat)
  | _, [] => []
  | o, (k, n, _) :: r => (o, n, k) :: placed (o + n) r

/-- Two pieces of a range hold bytes of one element of `w` bytes. -/
def shareElem (w : Nat) (a b : Nat × Nat × Nat) : Bool :=
  decide (a.1 / w ≤ (b.1 + b.2.1 - 1) / w) && decide (b.1 / w ≤ (a.1 + a.2.1 - 1) / w)

/-- Elements in a range of a command's scratchpad written anew, each from its old value and its number; a poisoned element keeps its
mark, and a format that a region does not admit stops the command (R109, R384). Bytes at the end that make no whole element get a
free value (log 51). -/
def elemRange (s : State) (t : Nat) (m : LCmd) (fmt a n : Nat) (f : Nat → Nat → Nat × Flags) : Except CStop (State × Flags) :=
  let w := fmtBits fmt / 8
  match linkLines s t m a n true with
  | .error e => .error e
  | .ok ls =>
    if ls.any fun l => fmtReserved (entFMT l.1.entry) || (entFMT l.1.entry != fmtRAW && entFMT l.1.entry != fmt) then .error (.err 3)
    else
      let r := s.sramReads (ls.flatMap fun l => dwsOf l.1.key l.2)
      let v := r.1.linkSeen t m
      let old := rdLines v ls
      let es := (List.range (n / w)).map fun j => f (elem old w j) j
      let part := if n % w = 0 then (0, r.2) else (Config.partSum r.2.fresh.1, r.2.fresh.2)
      let lines := linePieces ls (ofElems w (es.map (·.1)) + part.1 * 2 ^ (8 * (n / w * w)))
      let ps := placed 0 (lines.flatMap (·.2))
      let mark := fun p : Nat × Nat × Nat => ps.any fun q => v.poisoned q.2.2 && shareElem w p q
      let ms := ps.map mark
      let ws := lines.zipIdx.map fun x =>
        ({ home := x.1.1, src := t, eng := 2, pieces := x.1.2,
           marks := (ms.drop ((lines.take x.2).map (·.2.length)).sum).take x.1.2.length, own := m.own, cmd := m.tag,
           banks := m.banks.2 } : PortW)
      .ok (part.2.queueAll ws, orAll (es.map (·.2)))

/-- Bytes received by a command written at its place (R383, R384). -/
def receiveBytes (s : State) (t : Nat) (m : LCmd) (n x : Nat) : Except CStop State :=
  let a := lkLADDR m.d + m.pos
  if m.adds then
    let w := fmtBits (lkFMT m.d) / 8
    (elemRange s t m (lkFMT m.d) a n fun old j => addElem (lkFMT m.d) m.r old (elem x w j)).map fun z =>
      z.1.modLink t m.age fun m => { m with flags := m.flags ||| z.2 }
  else (linkLines s t m a n true).map fun ls => s.queueAll (lineWrites t 2 m.own m.banks (linePieces ls x))

/-- The checksum of a transfer after `n` more bytes (R385). -/
def State.linkCount (s : State) (t : Nat) (m : LCmd) (n x : Nat) : State :=
  s.modLink t m.age fun m =>
    { m with det := 0, pos := m.pos + n, crc := if m.kind ≤ 2 ∧ lkCRCMODE m.d ≠ 0 then crcBytes n x m.crc else m.crc }

/-- The receiver that a flit of a peer and key belongs to: the oldest one that is not finished. -/
def State.receiverOf (s : State) (p src key : Nat) : Option (Nat × LCmd) := oldest (s.receivers p src key)

/-- The stream of a flit: flits of one source and one stream are taken in their order. -/
def flitStream (f : Flit) : Nat :=
  match f.body with
  | .data _ => 4 * f.key
  | .last _ => 4 * f.key
  | .abort key _ => 4 * key
  | .leave key _ => 4 * key
  | .clear _ _ _ => 4 * f.key + 1
  | .done _ => 4 * f.key + 2
  | .lengthError key _ => 4 * key + 3
  | .twinDigest p _ _ => 2 ^ 40 + p
  | .twinInterim p _ _ => 2 ^ 40 + p
  | b => match flitSched b with
    | some (b, e) => 2 ^ 20 + b * 2 ^ 16 + e
    | none => 2 ^ 48

/-- The position of the first received flit that a predicate admits and that no earlier flit of its source and stream precedes. -/
def rxFirst (l : List Flit) (q : Flit → Bool) : Option Nat :=
  (l.zipIdx.find? fun x => q x.1 && !(l.take x.2).any fun y => y.src == x.1.src && flitStream y == flitStream x.1).map (·.2)

/-- The oldest transfer of a left epoch to which a peer's flits with a key still belong (R390). -/
def Port.ghost (x : Port) (src key : Nat) : Option (Nat × Nat × Nat) := x.ghosts.find? fun g => g.1 == src && g.2.1 == key

/-- A received DATA or LAST flit can be delivered now: its receiver does not wait for a region. -/
def State.canDeliver (s : State) (p : Nat) (last : Bool) (f : Flit) : Bool :=
  match dataOf f.body with
  | none => false
  | some (_, l) => l == last && (((s.portAt p).ghost f.src f.key).isSome || match s.receiverOf p f.src f.key with
    | none => true
    | some (t, m) => m.err != 0 || s.linkServed t m)

/-- DONE to the sender of a receiver that has had its LAST, once it is complete (R383). -/
def State.sendDone (s : State) (m : LCmd) : State :=
  if m.receives && m.last then s.sendFlit m.port (lkPEER m.d) (lkKEY m.d) 0 (.done m.age) else s

/-- LAST has come to a receiver (R383): a step of a schedule is complete, as its writes are (R301), and returns DONE; another command
returns it when it completes. -/
def State.lastCame (s : State) (t : Nat) (m : LCmd) : State :=
  let s := s.modLink t m.age fun m => { m with fin := true, last := true }
  if m.sub then s.sendDone { m with last := true } else s

/-- A DATA or LAST flit taken from a port: its bytes are delivered, and LAST finishes the receiver. A receiver that has failed discards
what still comes (DEDUCED, log 51); so do flits of a left epoch end with their LAST (R390). -/
def State.deliverFlit (s : State) (p k : Nat) (f : Flit) (x : Nat) (last : Bool) : State :=
  let drop := fun (s : State) => s.modPort p fun y => { y with rx := y.rx.eraseIdx k }
  let finish := fun (s : State) (t : Nat) (m : LCmd) => if last then s.lastCame t m else s
  match (s.portAt p).ghost f.src f.key with
  | some g => drop (if last then s.modPort p fun y => { y with ghosts := y.ghosts.erase g } else s)
  | none => match s.receiverOf p f.src f.key with
  | none => drop s
  | some (t, m) =>
    let s := s.modLink t m.age fun m => { m with st := 3 }
    if m.err ≠ 0 then drop (finish s t m)
    else match receiveBytes s t m f.lenb (x % 2 ^ (8 * f.lenb)) with
      | .error (.stall _ a w) => s.stallLink t m a w
      | .error (.err e) => drop (finish (s.modLink t m.age fun m => { m with err := e, stall := none }) t m)
      | .ok s =>
        let s := (s.modLink t m.age fun m => { m with stall := none }).linkCount t m f.lenb (x % 2 ^ (8 * f.lenb))
        drop (finish s t m)

/-- The sends that may go on at a port: matched, not finished, first of their peer and key, and not stalled. -/
def State.sendersOf (s : State) (p : Nat) : List (Nat × LCmd) :=
  let l := s.linkCmds.filter fun x => x.2.sends && x.2.st == 3 && !x.2.fin && !x.2.last && x.2.port == p
  l.filter fun x =>
    (l.all fun y => !(y.2.age < x.2.age && lkPEER y.2.d == lkPEER x.2.d && lkKEY y.2.d == lkKEY x.2.d)) && s.linkServed x.1 x.2

/-- The send whose turn it is: round-robin by age (R381). -/
def State.nextSend (s : State) (p : Nat) : Option (Nat × LCmd) :=
  let l := s.sendersOf p
  (oldest (l.filter fun x => decide ((s.portAt p).turn < x.2.age))).or (oldest l)

/-- The next flit of a send is its LAST. -/
def LCmd.atLast (m : LCmd) : Bool := decide (lkLEN m.d - m.pos ≤ 240)

/-- A send stops before a flit: it sends ABORT and fails (R383). -/
def State.abortSend (s : State) (t : Nat) (m : LCmd) (err : Nat) : State :=
  (s.sendFlit m.port (lkPEER m.d) 0 0 (.abort (lkKEY m.d) m.mate)).modLink t m.age fun m =>
    { m with fin := true, err := err, stall := none }

/-- One DATA or LAST flit of a send (R383): its bytes are read, counted for twin-run (R391), and sent; its first transmission is an
opportunity of the injector (R371). -/
def State.sendOne (s : State) (t : Nat) (m : LCmd) : State :=
  let n := Nat.min 240 (lkLEN m.d - m.pos)
  match linkRead s t m (lkLADDR m.d + m.pos) n with
  | (s, .error (.stall _ b w)) => s.stallLink t m b w
  | (s, .error (.err e)) => s.abortSend t m e
  | (s, .ok x) =>
    let last := m.atLast
    let i := s.inject t 5
    let seq := (s.portAt m.port).txSeq
    let s := i.2.putFlit m.port (s.flitOf (lkPEER m.d) (lkKEY m.d) n (if last then .last x else .data x)) i.1
    let s := if (s.portAt m.port).twin then s
      else s.contribute (s.partOf t) (m.port * 2 ^ 56 + lkKEY m.d * 2 ^ 40 + m.pos) n x
    let s := (s.linkCount t m n x).modLink t m.age fun m =>
      { m with last := last, stall := none, seqs := (m.seqs ++ [seq]).drop (m.seqs.length - 255) }
    s.modPort m.port fun y => { y with turn := m.age }

/-- A DATA or LAST flit: a received one is delivered, or else the next one of a send goes out. -/
def State.moveFlit (s : State) (p : Nat) (last : Bool) : State :=
  match rxFirst (s.portAt p).rx (s.canDeliver p last) with
  | some k => match (s.portAt p).rx[k]? with
    | none => s
    | some f => match dataOf f.body with
      | some (x, _) => s.deliverFlit p k f x last
      | none => s
  | none =>
    if !s.portRoom p then s
    else match s.nextSend p with
      | none => s
      | some (t, m) => if m.atLast != last then s else s.sendOne t m

/-- DATA_FLIT (R383). -/
def execDataFlit (port : Nat) (s : State) : Host.Outcome State Fault Refusal := .next (s.moveFlit port false)

/-- LAST_FLIT (R383). -/
def execLastFlit (port : Nat) (s : State) : Host.Outcome State Fault Refusal := .next (s.moveFlit port true)

/-- A received flit of one kind that is first of its source and key, taken from its port. -/
def State.takeRx (s : State) (p : Nat) (q : Flit → Bool) : Option (Flit × State) :=
  match rxFirst (s.portAt p).rx q with
  | none => none
  | some k => ((s.portAt p).rx[k]?).map fun f => (f, s.modPort p fun y => { y with rx := y.rx.eraseIdx k })

/-- CLEAR_FLIT (R383). -/
def execClearFlit (port : Nat) (s : State) : Host.Outcome State Fault Refusal :=
  match s.takeRx port fun f => match f.body with | .clear _ _ _ => true | _ => false with
  | none => .next s
  | some (f, s) => match f.body with
    | .clear len id run => .next (s.takeClear port f.src f.key len id run)
    | _ => .next s

/-- The number of the CLEAR that a DONE names. -/
def doneOf : FlitBody → Option Nat
  | .done id => some id
  | _ => none

/-- DONE_FLIT (R383): the send that has sent its LAST for the CLEAR that DONE names completes. -/
def execDoneFlit (port : Nat) (s : State) : Host.Outcome State Fault Refusal :=
  match s.takeRx port fun f => (doneOf f.body).isSome with
  | none => .next s
  | some (f, s) => match oldest (s.linkCmds.filter fun x =>
      x.2.sends && x.2.last && !x.2.fin && x.2.port == port && lkPEER x.2.d == f.src && lkKEY x.2.d == f.key &&
        doneOf f.body == some x.2.mate) with
    | none => .next s
    | some (t, m) => .next (s.modLink t m.age fun m => { m with fin := true })

/-- The flits that CONTROL_FLIT takes. -/
def isControl : FlitBody → Bool
  | .abort _ _ => true
  | .lengthError _ _ => true
  | .leave _ _ => true
  | .query _ _ _ => true
  | .answer _ _ _ _ => true
  | _ => false

/-- No data come any more for a transfer of a left epoch (R390). -/
def State.noGhost (s : State) (p src key id : Nat) : State :=
  s.modPort p fun x => { x with ghosts := x.ghosts.filter fun g => g != (src, key, id) }

/-- The sender of a step has left its epoch (R390): its receiver waits for RESTART. -/
def State.left1 (s : State) (p src key id : Nat) : State :=
  match (s.receivers p src key).find? fun x => x.2.age == id with
  | none => s.noGhost p src key id
  | some (t, m) => s.modLink t m.age fun m => { m with last := true }

/-- The receiver that a CLEAR's number names ends FAILED, with the first error it met (R383). -/
def State.endReceiver (s : State) (p src key id err : Nat) : State :=
  let s := s.noGhost p src key id
  match (s.receivers p src key).find? fun x => x.2.age == id with
  | none => s
  | some (t, m) => s.modLink t m.age fun m => { m with fin := true, stall := none, err := if m.err ≠ 0 then m.err else err }

/-- The live members in table order: package and port. The rank of a member is its position (R387). -/
def Sched.live (k : Sched) : List (Nat × Nat) := (k.members.filter fun m => m.2.2).map fun m => (m.1, m.2.1)

/-- The rank of a package. -/
def Sched.rankOf (k : Sched) (pkg : Nat) : Option Nat := k.live.findIdx? fun m => m.1 == pkg

/-- A member's query (R390): the survivor answers whether it had COMMIT, and from then on heeds no member before the one that asks. -/
def State.heed (s : State) (port src base epoch rank : Nat) : State :=
  let old := s.tiles.any fun x => x.link.past.any fun y => y.2.2.1 == base && y.2.2.2.epoch == epoch
  let s := match s.linkCmds.find? fun x => !x.2.fin && bits x.2.d.toNat 240 16 == base &&
      match x.2.sched with | some k => k.epoch == epoch && (k.rankOf src).isSome | none => false with
    | none => s
    | some (t, m) => s.modLink t m.age fun m => { m with sched := m.sched.map fun k : Sched =>
        let older := (k.live.take rank).map Prod.fst
        { k with deaf := k.deaf ++ older, failed := k.failed ++ older.filter fun y => !k.failed.contains y } }
  s.sendFlit port src 0 0 (.answer base epoch 0 old)

/-- A survivor's answer reaches the member that asked (R390). -/
def State.answered1 (s : State) (src base epoch : Nat) (committed : Bool) : State :=
  match s.linkCmds.find? fun x => !x.2.fin && bits x.2.d.toNat 240 16 == base &&
      match x.2.sched with | some k => k.epoch == epoch && k.queried | none => false with
  | none => s
  | some (t, m) => s.modLink t m.age fun m => { m with sched := m.sched.map fun k =>
      { k with answers := k.answers ++ [(src, committed)] } }

/-- CONTROL_FLIT (R383, R390): ABORT ends the receiver with PEER, a length error with LENGTH; a query is answered; a receiver of a left
epoch gets nothing more. -/
def execControlFlit (port : Nat) (s : State) : Host.Outcome State Fault Refusal :=
  match s.takeRx port fun f => isControl f.body with
  | none => .next s
  | some (f, s) => match f.body with
    | .abort key id => .next (s.endReceiver port f.src key id 7)
    | .lengthError key id => .next (s.endReceiver port f.src key id 4)
    | .leave key id => .next (s.left1 port f.src key id)
    | .query base epoch rank => .next (s.heed port f.src base epoch rank)
    | .answer base epoch _ committed => .next (s.answered1 f.src base epoch committed)
    | _ => .next s

/-! ## Completion (R385) -/

/-- Semaphore, member and enables of a command (R382, R388). -/
def LCmd.actions (m : LCmd) : Bool × Nat × Nat × Bool :=
  if m.kind = 3 then (bit m.d.toNat 274, bits m.d.toNat 280 10, bits m.d.toNat 275 5, bit m.d.toNat 273)
  else (lkSEMEN m.d, lkSEMGANG m.d, lkSEM m.d, lkINTEN m.d)

/-- CRCMODE 3 finds a mismatch at the end of a transfer (R322, R385). -/
def State.lcrcBad (s : State) (t : Nat) (m : LCmd) : Bool :=
  m.kind != 3 && lkCRCMODE m.d == 3 && m.err == 0 && (~~~(s.lcrcOf t m)).toNat != lkEXPECT m.d

/-- Doubleword 7 of a schedule's descriptor: NFINAL, the scale used and EPOCH (R388). -/
def schedRecord (m : LCmd) : Nat :=
  match m.sched with
  | none => 0
  | some k =>
    let n := (k.members.filter fun y => y.2.2).length
    let avg := bit m.d.toNat 232
    n + (if avg then (fpDiv fp32 0 (Fv.ofInt 1) (Fv.ofInt n)).1 else 0x3F800000) * 2 ^ 16 + k.epoch % 2 ^ 16 * 2 ^ 48

/-- A command with a checksum. -/
def LCmd.sums (m : LCmd) : Bool := decide (m.kind ≤ 2) && lkCRCMODE m.d != 0

/-- No command of the same context that must complete first was accepted before and is still there: one on the same port, or one that
updates the same running register (R322, R381, R385). -/
def linkFirst (q : List LCmd) (m : LCmd) : Bool :=
  m.kind == 3 || q.all fun y =>
    !(y.age < m.age && y.gang == m.gang && y.task == m.task && y.kind ≤ 2 && (y.port == m.port || (y.sums && m.sums)))

/-- The completion record of a command, when it writes one: its place, or why it waits or is not written (R382, R385, R388). -/
def State.linkRecord (s : State) (t : Nat) (m : LCmd) : Option EngLoc :=
  if m.kind = 3 || lkRECEN m.d then some (s.linkLoc t m (m.da + 56) 8 true true) else none

/-- A command that has ended can complete: those before it have, and its record is not held by a region (R317, R381, R385). -/
def State.linkReady (s : State) (t : Nat) (m : LCmd) : Bool :=
  m.fin && linkFirst (s.tileAt t).link.q m && (m.stall.isNone || s.linkServed t m)

/-- The actions of a command that has ended, after its record (R385): its status and register are kept, its signal, PLINK and the LINK
event follow; those that target a context off its tile wait there for its return (R343), and a context that is stopped gets none
(R336). -/
def State.endLink (s : State) (t : Nat) (m : LCmd) : State :=
  let err := if s.lcrcBad t m then 5 else m.err
  let w := s.linkStatus t m (if err = 0 then 4 else 5) err
  let crc := s.lcrcOf t m
  let a := m.actions
  let s := s.modTask t m fun c =>
    { c with
      kept := updAt (fun l => ({ tag := m.tag, status := w } :: l).take 16) 2 c.kept,
      crc := if m.kind = 3 ∨ lkCRCMODE m.d = 0 then c.crc else c.crc.set 2 crc }
  let s := if a.1 then s.sendSig m.gang a.2.1 a.2.2.1 1 else s
  let s := s.modTask t m fun c =>
    if c.stopped then c
    else { c with events := c.events ||| BitVec.ofNat 6 16, chPend := if a.2.2.2 then c.chPend ||| BitVec.ofNat 4 8 else c.chPend }
  s.modTile t fun x => { x with link := { x.link with q := x.link.q.filter fun y => y.tag != m.tag } }

/-- A command that has ended completes (R383, R385): its record, its other actions and DONE to its sender; only the report of a stall while
its record is held by a region. -/
def State.completeLink (s : State) (t : Nat) (m : LCmd) : State :=
  match s.linkRecord t m with
  | some .stall => s.stallLink t m (m.da + 56) true
  | some (.ok l) =>
    ((s.queueFor l.home t 2 m.own m.banks [(l.key, 8, if m.kind = 3 then schedRecord m else m.pos)] [false]).endLink t m).sendDone m
  | some .access => (s.endLink t m).sendDone m
  | none => (s.endLink t m).sendDone m

end Sys2Proof.Machine
end

