-- ==== Sys2Proof/Machine/Collective.lean ====
section
/-! DEFINITION. Collective schedules (R387 to R390): LSCHED, the steps of a schedule and the agreement of its members. -/

namespace Sys2Proof.Machine

/-! ## The schedule descriptor and the membership table (R387, R388) -/

def scBUF (d : BitVec 512) : Nat := bits d.toNat 0 23
def scSAVE (d : BitVec 512) : Nat := bits d.toNat 64 23
def scMTAB (d : BitVec 512) : Nat := bits d.toNat 128 23
def scCOUNT (d : BitVec 512) : Nat := bits d.toNat 192 32
def scFMT (d : BitVec 512) : Nat := bits d.toNat 224 4
def scKIND (d : BitVec 512) : Nat := bits d.toNat 228 4
def scAVG (d : BitVec 512) : Bool := bit d.toNat 232
def scPR (d : BitVec 512) : Nat := bits d.toNat 233 6
def scKEYBASE (d : BitVec 512) : Nat := bits d.toNat 240 16
def scSEMEN (d : BitVec 512) : Bool := bit d.toNat 274
def scSEMGANG (d : BitVec 512) : Nat := bits d.toNat 280 10
def scMYID (d : BitVec 512) : Nat := bits d.toNat 304 16

def scFields : List (Nat × Nat) :=
  [(0, 23), (64, 23), (128, 23), (192, 32), (224, 4), (228, 4), (232, 1), (233, 6), (240, 16), (273, 1), (274, 1), (275, 5),
   (280, 10), (290, 14), (304, 16), (448, 64)]

/-- Bytes of an element. -/
def scSize (d : BitVec 512) : Nat := fmtBits (scFMT d) / 8

/-- The checks of LSCHED that the descriptor decides (R382, R388). -/
def schedOk (d : BitVec 512) (gangsize : Nat) : Bool :=
  rzOk d.toNat scFields && decide (scKIND d < 3) &&
  (scFMT d == fmtFP32 || scFMT d == fmtBF16 || scFMT d == fmtINT32 || scFMT d == fmtRNS3) &&
  !(scAVG d && (scFMT d == fmtINT32 || scFMT d == fmtRNS3)) && (!scSEMEN d || decide (scSEMGANG d < gangsize)) &&
  decide (scBUF d + scCOUNT d * scSize d ≤ 0x800000) && decide (scSAVE d + scCOUNT d * scSize d ≤ 0x800000)

/-- A table entry: package ID, port and LIVE. -/
def memberOf (x : Nat) : Nat × Nat × Bool := (bits x 0 16, bits x 16 4, bit x 20)

/-- A doubleword of the membership table, read as a TILE load (R387): its value or the trap, and the state after the read. -/
def tableDw (s : State) (a i : Nat) : Except (Nat × Nat) Nat × State := readDesc s { v := BitVec.ofNat 64 (a + 8 * i) } 8 true

/-- The first `n` entries of the table. -/
def tableEntries (s : State) (a : Nat) : Nat → Except (Nat × Nat) (List (Nat × Nat × Bool)) × State
  | 0 => (.ok [], s)
  | k + 1 => match tableEntries s a k with
    | (.error e, s) => (.error e, s)
    | (.ok l, s) => match tableDw s a (k + 1) with
      | (.error e, s) => (.error e, s)
      | (.ok x, s) => (.ok (l ++ [memberOf x]), s)

/-- The membership table: EPOCH and entries, none when N is out of range, or the trap (R387). -/
def readTable (s : State) (a : Nat) : Except (Nat × Nat) (Option (Nat × List (Nat × Nat × Bool))) × State :=
  match tableDw s a 0 with
  | (.error e, s) => (.error e, s)
  | (.ok h, s) =>
    if bits h 0 11 = 0 ∨ 1024 < bits h 0 11 then (.ok none, s)
    else match tableEntries s a (bits h 0 11) with
      | (.error e, s) => (.error e, s)
      | (.ok l, s) => (.ok (some (bits h 16 16, l)), s)

/-- LSCHED (R388). -/
def lsched (i : Instr) (f : FAd) (s : State) : WordRes :=
  let t := s.iss.tile
  let a := s.srcS i 0
  if (s.tileAt t).link.full then .hold
  else match readDesc s a 64 true with
    | (.error e, s) => .trap e.1 e.2 s
    | (.ok x, s) =>
      let d := BitVec.ofNat 512 x
      let c := s.iss.pre
      if !schedOk d c.gangsize then .trap cILLEGAL_STATE 0 s
      else match readTable s (scMTAB d) with
        | (.error e, s) => .trap e.1 e.2 s
        | (.ok none, s) => .trap cILLEGAL_STATE 0 s
        | (.ok (some (epoch, ms)), s) =>
          let k : Sched := { members := ms, epoch := epoch }
          if (k.rankOf (scMYID d)).isNone then .trap cILLEGAL_STATE 0 s
          else
            let m : LCmd := { tag := (s.tileAt t).link.seq + 1, age := s.linkAge, gang := c.gang, task := c.taskid, kind := 3,
                              port := 0, d := d, da := a.v.toNat, r := c.recs.getD (scPR d) 0, st := 3, sched := some k }
            .ok ((s.acceptLink m).resNoLatch f.d true { v := m.tag.setWidth 64 })

def execLsched (f : FAd) (s : State) := runWord (.lsched f) (lsched (.lsched f) f) s

/-! ## Steps (R389) -/

/-- Rounds of a tree over N members: the number of powers of two below N. -/
def treeRounds (n : Nat) : Nat := ((List.range 11).filter fun i => decide (2 ^ i < n)).length

/-- Steps of a kind over N members. -/
def stepCount (kind n : Nat) : Nat :=
  if n ≤ 1 then 0 else if kind = 0 then 2 * (n - 1) else if kind = 1 then 2 * treeRounds n else treeRounds n

/-- Elements of chunk c (R389). -/
def chunkOf (count n c : Nat) : Nat × Nat := (c * count / n, (c + 1) * count / n)

/-- What one rank does in a step: the rank it sends to and the elements, the rank it receives from, the elements, and whether they
are added. -/
def stepOf (kind count n r s : Nat) : Option (Nat × Nat × Nat) × Option (Nat × (Nat × Nat) × Bool) :=
  if kind = 0 then
    let right := (r + 1) % n
    let left := (r + n - 1) % n
    if s < n - 1 then
      (some (right, chunkOf count n ((r + n - s % n) % n)),
       some (left, chunkOf count n ((r + 2 * n - s % n - 1) % n), true))
    else
      let t := s - (n - 1)
      (some (right, chunkOf count n ((r + 1 + n - t % n) % n)), some (left, chunkOf count n ((r + n - t % n) % n), false))
  else
    let rounds := treeRounds n
    let b := if kind = 1 then rounds else 0
    if s < b then
      let d := 2 ^ s
      (if r % (2 * d) = d then some (r - d, (0, count)) else none,
       if r % (2 * d) = 0 ∧ r + d < n then some (r + d, (0, count), true) else none)
    else
      let d := 2 ^ (rounds - 1 - (s - b))
      (if r % (2 * d) = 0 ∧ r + d < n then some (r + d, (0, count)) else none,
       if r % (2 * d) = d then some (r - d, (0, count), false) else none)

/-- The elements that a rank scales after a step under AVG (R389). -/
def scaleAfter (kind count n r s : Nat) : Option (Nat × Nat) :=
  if kind = 0 then (if s + 1 = n - 1 then some (chunkOf count n ((r + 1) % n)) else none)
  else if kind = 1 then (if s + 1 = treeRounds n ∧ r = 0 then some (0, count) else none)
  else none

/-- The descriptor of a step's transfer. -/
def subDesc (d : BitVec 512) (lo hi peer step : Nat) : BitVec 512 :=
  let w := scSize d
  BitVec.ofNat 512 (scBUF d + lo * w + (hi - lo) * w * 2 ^ 64 + (scKEYBASE d + step) % 2 ^ 16 * 2 ^ 96 + peer * 2 ^ 112 +
    scFMT d * 2 ^ 132)

/-- The parameter record of a schedule's additions: SCALE 1.0 (R389). -/
def unitScale (r : BitVec 512) : BitVec 512 := BitVec.ofNat 512 (setBits r.toNat 64 32 0)

/-- A range of a tile's scratchpad copied by the link engine, a line at a time. -/
def linkCopy (t : Nat) (m : LCmd) : Nat → State → Nat → Nat → Nat → Except CStop State
  | 0, s, _, _, _ => .ok s
  | f + 1, s, src, dst, n =>
    if n = 0 then .ok s
    else
      let k := Nat.min n 64
      match linkRead s t m src k with
      | (_, .error e) => .error e
      | (s, .ok x) => match linkLines s t m dst k true with
        | .error e => .error e
        | .ok ld => linkCopy t m f (s.queueAll (lineWrites t 2 m.own m.banks (linePieces ld x))) (src + k) (dst + k) (n - k)

/-- `n` times 64 bytes of BUF from an address, or what is left of `len`, scaled by RoundFP32(1/N) (R389). -/
def linkScale (t : Nat) (m : LCmd) (members : Nat) : Nat → State → Nat → Nat → Except CStop (State × Flags)
  | 0, s, _, _ => .ok (s, 0)
  | f + 1, s, a, len =>
    if len = 0 then .ok (s, 0)
    else
      let k := Nat.min len 64
      let sc := fp32.decode (fpDiv fp32 0 (Fv.ofInt 1) (Fv.ofInt members)).1
      let scale := fun old (_ : Nat) =>
        let p := mulExact (elemValue (scFMT m.d) old 0) sc
        let y := encodeFP (scFMT m.d) m.r (recERM m.r) p.1
        (y.1, p.2 ||| y.2)
      match elemRange s t m (scFMT m.d) a k scale with
      | .error e => .error e
      | .ok z => (linkScale t m members f z.1 (a + k) (len - k)).map fun y => (y.1, z.2 ||| y.2)

namespace State

/-- A schedule changed. -/
def modSched (s : State) (t age : Nat) (f : Sched → Sched) : State :=
  s.modLink t age fun m => { m with sched := m.sched.map f }

/-- The transfers of a schedule's present step. -/
def subsOf (s : State) (t : Nat) (m : LCmd) : List LCmd :=
  (s.tileAt t).link.q.filter fun y => y.sub && y.tag == m.tag

/-- A transfer of a schedule is left before it has ended (R390): a send that has matched tells its receiver that nothing more comes, and
what still comes for a receiver is discarded (DESIGN CHOICE, log 102). -/
def leaveSub (s : State) (y : LCmd) : State :=
  if y.fin then s
  else if y.receives then
    (if y.st = 1 ∨ y.last then s else s.modPort y.port fun x => { x with ghosts := x.ghosts ++ [(lkPEER y.d, lkKEY y.d, y.age)] })
  else if y.st = 3 ∧ !y.last then s.sendFlit y.port (lkPEER y.d) 0 0 (.leave (lkKEY y.d) y.mate)
  else s

/-- The transfers of a schedule's present step removed; their flags and failed flits count for the schedule (R384). -/
def dropSubs (s : State) (t : Nat) (m : LCmd) : State :=
  let l := s.subsOf t m
  ((l.foldl leaveSub s).modTile t fun x => { x with link := { x.link with q := x.link.q.filter fun y => !(y.sub && y.tag == m.tag) } }).modLink
    t m.age fun m => { m with flags := m.flags ||| orAll (l.map (·.flags)), retries := m.retries + (l.map (·.retries)).sum, det := 0 }

/-- A link command fails for good. -/
def failLink (s : State) (t : Nat) (m : LCmd) (err : Nat) : State :=
  (s.dropSubs t m).modLink t m.age fun m => { m with fin := true, err := err, stall := none }

/-- A stop of one of the schedule's own accesses (R317). -/
def stopSched (s : State) (t : Nat) (m : LCmd) (e : CStop) : State :=
  match e with
  | .err k => s.failLink t m k
  | .stall _ a w => s.stallLink t m a w

/-- A control flit to a member's package; it waits while the port trains. -/
def tell (s : State) (x : Nat × Nat) (body : FlitBody) : State :=
  let p := s.portAt x.2
  if p.state ≠ 0 ∧ p.en then s.sendFlit x.2 x.1 0 0 body else s

/-- A control flit to every live member but this one and the members of some packages. -/
def tellAll (s : State) (k : Sched) (me : Nat) (but : List Nat) (body : FlitBody) : State :=
  k.live.foldl (fun s x => if x.1 == me || but.contains x.1 then s else s.tell x body) s

/-- A schedule's COMMIT reaches a member: it completes, and the member keeps that it had COMMIT (R390). -/
def commitSched (s : State) (t : Nat) (m : LCmd) (k : Sched) : State :=
  ((s.dropSubs t m).modLink t m.age fun m => { m with fin := true, sched := m.sched.map fun k => { k with committed := true } }).modTile t
    fun x => { x with link := { x.link with
      past := ((m.tag, scMYID m.d, scKEYBASE m.d, { k with committed := true }) :: x.link.past).take 16 } }

/-- The coordinator commits once it has DONE from every live member (R390). -/
def tryCommit (s : State) (t : Nat) (m : LCmd) : State :=
  match (s.tileAt t).link.q.find? fun y => y.age == m.age with
  | none => s
  | some m => match m.sched with
    | none => s
    | some k =>
      if !m.fin && k.stepsDone && k.failed.isEmpty && k.rankOf (scMYID m.d) == some 0 &&
          (List.range k.live.length).all (fun r => r == 0 || k.dones.contains r) then
        (s.tellAll k (scMYID m.d) [] (.commit (scKEYBASE m.d) k.epoch)).commitSched t m k
      else s

end State

/-- Messages of an epoch of a schedule among the flits received on a port (R390). -/
def schedFlit (d : BitVec 512) (k : Sched) (f : Flit) : Bool :=
  (k.members.any fun m => m.1 == f.src) && flitSched f.body == some (scKEYBASE d, k.epoch)

/-- The flits of an epoch that a schedule leaves are discarded (R390): its messages go from the ports, the CLEARs of its transfers that wait
are told that nothing comes, and those of its transfers still to come are known as they come (State.takeClear, Port.ghost). -/
def State.dropEpoch (s : State) (d : BitVec 512) (k : Sched) : State :=
  let mine := fun c : Clear => c.run == some (scKEYBASE d, k.epoch) && k.members.any fun y => y.1 == c.src
  (List.range 12).foldl (fun s p =>
    let x := s.portAt p
    (x.clears.filter mine).foldl (fun s c => s.sendFlit p c.src 0 0 (.leave c.key c.id))
      (s.modPort p fun x => { x with rx := x.rx.filter fun f => !schedFlit d k f, clears := x.clears.filter fun c => !mine c })) s

/-- A doubleword of the membership table written by the engine (R387). -/
def putTable (t : Nat) (m : LCmd) (s : State) (x : Nat × Nat) : Except CStop State :=
  match s.linkLoc t m x.1 8 true false with
  | .access => .error (.err 1)
  | .stall => .error (.stall t x.1 true)
  | .ok l => .ok (s.queueFor l.home t 2 m.own m.banks [(l.key, 8, x.2)] [false])

/-- RESTART at a member (R390): the removed members lose LIVE, in the table too, the transfers and flits of the old epoch go, BUF is restored from
SAVE and the steps begin again; a member that is removed itself ends EXCLUDED with BUF restored. Nothing of it happens while an access
stops. -/
def State.restart (s : State) (t : Nat) (m : LCmd) (k : Sched) (epoch : Nat) (removed : List Nat) : Except CStop State :=
  let w := scSize m.d
  match (if k.saved then linkCopy t m (scCOUNT m.d * w / 64 + 1) s (scSAVE m.d) (scBUF m.d) (scCOUNT m.d * w) else .ok s) with
  | .error e => .error e
  | .ok s =>
    let ms := (k.members.zipIdx).map fun y => (y.1.1, y.1.2.1, y.1.2.2 && !removed.contains y.2)
    let dws := (scMTAB m.d, k.members.length + epoch % 2 ^ 16 * 2 ^ 16) ::
      (ms.zipIdx.filter fun y => removed.contains y.2).map fun y =>
        (scMTAB m.d + 8 * (y.2 + 1), y.1.1 + y.1.2.1 * 2 ^ 16 + ofBool y.1.2.2 * 2 ^ 20)
    (dws.foldlM (putTable t m) s).map fun s =>
      let s := (s.dropSubs t m).dropEpoch m.d k
      let k' : Sched := { members := ms, epoch := epoch, saved := k.saved, deaf := k.deaf }
      let out := (k'.rankOf (scMYID m.d)).isNone
      s.modLink t m.age fun m =>
        { m with st := 6, stall := none, sched := some k', fin := out, err := if out then 8 else 0 }

/-- The packages that FAIL messages received and not yet taken report (R390). -/
def State.reported (s : State) (d : BitVec 512) (k : Sched) : List Nat :=
  s.ports.flatMap fun p => p.rx.flatMap fun f => match f.body with
    | .fail b e ranks => if b = scKEYBASE d ∧ e = k.epoch ∧ !k.deaf.contains f.src then
        ranks.filterMap fun r => (k.live[r]?).map Prod.fst else []
    | _ => []

/-- RESTART by the coordinator (R390): every failure that it knows of is in the one removed set. -/
def State.restartAll (s : State) (t : Nat) (m : LCmd) (k : Sched) : Except CStop State :=
  let gone := k.failed ++ s.reported m.d k
  let removed := ((k.members.zipIdx).filter fun y => y.1.2.2 && gone.contains y.1.1 && y.1.1 != scMYID m.d).map (·.2)
  let epoch := (k.epoch + 1) % 2 ^ 16
  (s.restart t m k epoch removed).map fun s => s.tellAll k (scMYID m.d) [] (.restart (scKEYBASE m.d) k.epoch removed)

/-- The lowest rank that a member does not count as failed: the coordinator (R390). -/
def Sched.lead (k : Sched) : Nat := (k.live.findIdx? fun x => !k.failed.contains x.1).getD 0

/-- This member counts some ranks as failed (R390): as the coordinator that every member knew it answers with RESTART; another member
tells its coordinator; one that becomes the coordinator queries the others first (State.queryAll). -/
def State.suspect (s : State) (t : Nat) (m : LCmd) (k : Sched) (ranks : List Nat) : Except CStop State :=
  let new := (ranks.filterMap fun r => (k.live[r]?).map Prod.fst).filter fun x => x != scMYID m.d && !k.failed.contains x
  let k : Sched := { k with failed := k.failed ++ new }
  let s := s.modSched t m.age fun k => { k with failed := k.failed ++ new }
  if new.isEmpty then .ok s
  else match k.rankOf (scMYID m.d) with
    | none => .ok s
    | some me =>
      if k.lead = me then (if me = 0 then s.restartAll t m k else .ok s)
      else match k.live[k.lead]? with
        | none => .ok s
        | some x => .ok (s.tell x (.fail (scKEYBASE m.d) k.epoch (k.failed.filterMap k.rankOf)))

/-- What a schedule's action answers: the state after it, or the stop of its access. -/
def State.orStop (s : State) (t : Nat) (m : LCmd) : Except CStop State → State
  | .ok s => s
  | .error e => s.stopSched t m e

/-- The rank that a transfer of a schedule goes to or comes from. -/
def Sched.rankOfSub (k : Sched) (y : LCmd) : Nat := (k.rankOf (lkPEER y.d)).getD k.live.length

/-- The ranks of the members whose ports are DOWN or that a switch has reported unreachable, other than those already counted as failed
(R390). -/
def State.silent (s : State) (d : BitVec 512) (k : Sched) : List Nat :=
  (k.live.zipIdx.filter fun x =>
    let p := s.portAt x.1.2
    x.1.1 != scMYID d && !k.failed.contains x.1.1 && (p.state == 0 || !p.en || p.lost.contains x.1.1)).map (·.2)

/-- The transfers of a step posted (R389). -/
def State.postStep (s : State) (t : Nat) (m : LCmd) (k : Sched) (me : Nat) : State :=
  let act := stepOf (scKIND m.d) (scCOUNT m.d) k.live.length me k.step
  let mk := fun (age knd : Nat) (x : Nat × Nat) (lo hi : Nat) =>
    ({ tag := m.tag, age := age, gang := m.gang, task := m.task, kind := knd, port := x.2,
       d := subDesc m.d lo hi x.1 k.step, da := m.da, r := unitScale m.r, run := some (scKEYBASE m.d, k.epoch) } : LCmd)
  let peer := fun r => k.live.getD r (0, 0)
  let a := match act.1 with
    | some (r, lo, hi) => [mk s.linkAge 4 (peer r) lo hi]
    | none => []
  let b := match act.2 with
    | some (r, (lo, hi), add) => [mk (s.linkAge + 1) (if add then 6 else 5) (peer r) lo hi]
    | none => []
  let s := ({ s with linkAge := s.linkAge + 2 }).modTile t fun x => { x with link := { x.link with q := x.link.q ++ (a ++ b) } }
  let s := s.modLink t m.age fun m => { m with st := 3, sched := m.sched.map fun k => { k with posted := true } }
  (a ++ b).foldl (fun s y => s.startLink t y) s

/-- A step whose transfers have ended (R389): its scaling, if it has one, and the next step. -/
def State.endStep (s : State) (t : Nat) (m : LCmd) (k : Sched) (me : Nat) : State :=
  let n := k.live.length
  let w := scSize m.d
  let r : Except CStop (State × Flags) :=
    match (if scAVG m.d then scaleAfter (scKIND m.d) (scCOUNT m.d) n me k.step else none) with
    | none => .ok (s, 0)
    | some (lo, hi) => linkScale t m n ((hi - lo) * w / 64 + 1) s (scBUF m.d + lo * w) ((hi - lo) * w)
  match r with
  | .error e => s.stopSched t m e
  | .ok (s, fl) => (s.dropSubs t m).modLink t m.age fun m =>
      { m with flags := m.flags ||| fl, sched := m.sched.map fun k => { k with step := k.step + 1, posted := false } }

/-- One thing that a schedule does next: the SAVE copy, the transfers of a step posted, a step ended with its scaling, or DONE
sent. -/
def State.advance (s : State) (t : Nat) (m : LCmd) (k : Sched) (me : Nat) : State :=
  let w := scSize m.d
  if !(s.silent m.d k).isEmpty then s.orStop t m (s.suspect t m k (s.silent m.d k))
  else if !k.failed.isEmpty then s
  else if !k.saved then
    s.orStop t m ((linkCopy t m (scCOUNT m.d * w / 64 + 1) s (scBUF m.d) (scSAVE m.d) (scCOUNT m.d * w)).map fun s =>
      s.modLink t m.age fun m => { m with det := 0, sched := m.sched.map fun k => { k with saved := true } })
  else if k.stepsDone then
    if k.told then s
    else
      let s := s.modSched t m.age fun k => { k with told := true }
      if me = 0 then s.tryCommit t m
      else match k.live[0]? with
        | some x => s.tell x (.memberDone (scKEYBASE m.d) k.epoch me)
        | none => s
  else if stepCount (scKIND m.d) k.live.length ≤ k.step then s.modSched t m.age fun k => { k with stepsDone := true }
  else if !k.posted then s.postStep t m k me
  else
    let subs := s.subsOf t m
    match subs.find? fun y => y.fin && y.err == 6 with
    | some y => s.orStop t m ((s.dropSubs t m).suspect t m k [k.rankOfSub y])
    | none => match subs.find? fun y => y.fin && y.err != 0 with
      | some y => s.failLink t m y.err
      | none => if subs.any fun y => !y.fin then s else s.endStep t m k me

/-- The schedule of a tag, while it has not ended. -/
def State.schedOf (s : State) (t tag : Nat) : Option (LCmd × Sched) :=
  match (s.tileAt t).link.q.find? fun m => m.kind == 3 && m.tag.toNat == tag && !m.fin with
  | none => none
  | some m => m.sched.map fun k => (m, k)

/-- SCHEDULE_STEP (R389). -/
def execScheduleStep (t tag : Nat) (s : State) : Host.Outcome State Fault Refusal :=
  match s.schedOf t tag with
  | none => .next s
  | some (m, k) =>
    if !s.linkServed t m then .next s
    else match k.rankOf (scMYID m.d) with
      | none => .next s
      | some me => .next (s.advance t m k me)

/-! ## Agreement (R390) -/

/-- A message of a schedule's member, in its epoch, taken from the port that reaches it; a member that this one no longer heeds is not
heard. -/
def State.takeFrom (s : State) (d : BitVec 512) (k : Sched) (q : FlitBody → Bool) : Option (Flit × State) :=
  (k.members.map (·.2.1)).findSome? fun p =>
    s.takeRx p fun f => q f.body && flitSched f.body == some (scKEYBASE d, k.epoch) && !k.deaf.contains f.src &&
      k.members.any fun m => m.1 == f.src

/-- The message is DONE of a rank. -/
def isDone (rank : Nat) : FlitBody → Bool
  | .memberDone _ _ r => r == rank
  | _ => false

/-- The message is COMMIT. -/
def isCommit : FlitBody → Bool
  | .commit _ _ => true
  | _ => false

/-- The ranks that a FAIL message reports. -/
def failRanks : FlitBody → List Nat
  | .fail _ _ l => l
  | _ => []

/-- The message is RESTART with an epoch and a removed set; it names the epoch that it ends. -/
def isRestart (epoch : Nat) (removed : List Nat) : FlitBody → Bool
  | .restart _ e l => (e + 1) % 2 ^ 16 == epoch && l == removed
  | _ => false

/-- DONE (R390): the coordinator takes a member's DONE. -/
def execMemberDone (t tag rank : Nat) (s : State) : Host.Outcome State Fault Refusal :=
  match s.schedOf t tag with
  | none => .next s
  | some (m, k) => match s.takeFrom m.d k (isDone rank) with
    | none => .next s
    | some (_, s) => .next ((s.modSched t m.age fun k => { k with dones := rank :: k.dones }).tryCommit t m)

/-- COMMIT (R390). -/
def execMemberCommit (t tag : Nat) (s : State) : Host.Outcome State Fault Refusal :=
  match s.schedOf t tag with
  | none => .next s
  | some (m, k) => match s.takeFrom m.d k isCommit with
    | none => .next s
    | some (_, s) => .next (s.commitSched t m k)

/-- COMMIT sent again by a member whose schedule has committed, in answer to a FAIL (R390). -/
def State.recommit (s : State) (t tag rank : Nat) : State :=
  match (s.tileAt t).link.past.find? fun y => y.1.toNat == tag with
  | none => s
  | some (_, me, base, k) => match (k.members.map (·.2.1)).findSome? fun p => s.takeRx p fun f =>
      (failRanks f.body).contains rank && flitSched f.body == some (base, k.epoch) && k.members.any fun m => m.1 == f.src with
    | none => s
    | some (f, s) => s.tellAll k me ((failRanks f.body).filterMap fun r => (k.live[r]?).map Prod.fst) (.commit base k.epoch)

/-- FAIL (R390): the ranks that it reports are counted as failed; a schedule that has committed answers COMMIT. A stop of the restart
leaves the message. -/
def execMemberFail (t tag rank : Nat) (s : State) : Host.Outcome State Fault Refusal :=
  match s.schedOf t tag with
  | none => .next (s.recommit t tag rank)
  | some (m, k) => match s.takeFrom m.d k fun b => (failRanks b).contains rank with
    | none => .next s
    | some (f, s') => .next (s.orStop t m (s'.suspect t m k (failRanks f.body)))

/-- RESTART (R390). A stop of an access leaves the message. -/
def execScheduleRestart (t tag epoch : Nat) (removed : List Nat) (s : State) : Host.Outcome State Fault Refusal :=
  match s.schedOf t tag with
  | none => .next s
  | some (m, k) => match s.takeFrom m.d k (isRestart epoch removed) with
    | none => .next s
    | some (_, s') => .next (s.orStop t m (s'.restart t m k epoch removed))

/-- COORDINATOR_QUERY (R390): a member that has become the coordinator asks every survivor; once it has every answer it sends COMMIT when
one of them had it, and RESTART otherwise. -/
def execCoordinatorQuery (t tag rank : Nat) (s : State) : Host.Outcome State Fault Refusal :=
  match s.schedOf t tag with
  | none => .next s
  | some (m, k) =>
    if rank = 0 ∨ k.lead ≠ rank ∨ k.rankOf (scMYID m.d) ≠ some rank then .next s
    else if !k.queried then
      .next ((s.modSched t m.age fun k => { k with queried := true }).tellAll k (scMYID m.d) k.failed
        (.query (scKEYBASE m.d) k.epoch rank))
    else if k.live.all fun x => x.1 == scMYID m.d || k.failed.contains x.1 || k.answers.any fun y => y.1 == x.1 then
      if k.answers.any fun y => y.2 then
        .next ((s.tellAll k (scMYID m.d) k.failed (.commit (scKEYBASE m.d) k.epoch)).commitSched t m k)
      else .next (s.orStop t m (s.restartAll t m k))
    else .next s

/-- A schedule waits on a rank (R390): for a transfer of its step, for a member's DONE, or for its coordinator. -/
def State.waitsOn (s : State) (t : Nat) (m : LCmd) (k : Sched) (rank : Nat) : Bool :=
  ((s.subsOf t m).any fun y => !y.fin && k.rankOfSub y == rank) ||
  (k.told && k.rankOf (scMYID m.d) == some 0 && rank != 0 && !k.dones.contains rank) ||
  ((k.told || !k.failed.isEmpty) && k.rankOf (scMYID m.d) != some k.lead && rank == k.lead) ||
  (k.queried && !k.answers.any fun y => k.rankOf y.1 == some rank)

/-- MEMBER_TIMEOUT (R390): a wait on a member has lasted TMO; a time in which HOLD has come from the member's package does not count, and
the wait is timed again (R380; DESIGN CHOICE, log 104). -/
def execMemberTimeout (t tag rank : Nat) (s : State) : Host.Outcome State Fault Refusal :=
  match s.schedOf t tag with
  | none => .next s
  | some (m, k) => match k.live[rank]? with
    | none => .next s
    | some x =>
      if !s.waitsOn t m k rank then .next s
      else if (s.portAt x.2).holds.contains x.1 then
        .next (s.modPort x.2 fun p => { p with holds := p.holds.filter fun q => q != x.1 })
      else .next (s.orStop t m (s.suspect t m k [rank]))

end Sys2Proof.Machine
end

