-- ==== Sys2Proof/Machine/Control.lean ====
section
/-! DEFINITION. The C class and the X class: R44, R47, R42, R78 to R82 and R340. -/

namespace Sys2Proof.Machine

/-- Target(d) (R35, R52). -/
def target (pc : W64) (d : Int) : W64 := pc + BitVec.ofInt 64 (4 * d)

/-- A complete C word that is taken records its target (R78, R333). -/
def State.take (s : State) (a : W64) : State := s.modIss fun x => { x with npc := some a }

/-- A branch on a scalar (R78). -/
def branchS (i : Instr) (q : W64 → Bool) (s : State) : WordRes :=
  let a := s.srcS i 0
  if a.p then .trap cPOISON 0 s
  else if q a.v then .ok (s.take (target s.iss.pre.pc (s.immS i))) else .ok s

/-- A branch on a predicate (R78). -/
def branchP (i : Instr) (q : Pred → Bool) (s : State) : WordRes :=
  if q (s.srcP i 0) then .ok (s.take (target s.iss.pre.pc (s.immS i))) else .ok s

/-- JR and JRL: the link register is written when there is one (R78). -/
def jump (i : Instr) (link : Option (BitVec 5)) (s : State) : WordRes :=
  let a := s.srcS i 0
  if a.p then .trap cPOISON 0 s
  else if a.v.toNat % 4 ≠ 0 then .trap cMISALIGNED a.v.toNat s
  else
    let s := match link with
      | none => s
      | some d => s.resNoLatch d true { v := linkOf s.iss.pre.pc (s.words i) }
    .ok (s.take a.v)

def execNop (s : State) := runWord .nop .ok s
def execBr (f : FDisp) (s : State) :=
  runWord (.br f) (fun s => .ok (s.take (target s.iss.pre.pc (s.immS (.br f))))) s
def execBrl (f : FDisp) (s : State) :=
  runWord (.brl f) (fun s =>
    .ok ((s.resNoLatch 31 true { v := linkOf s.iss.pre.pc (s.words (.brl f)) }).take
      (target s.iss.pre.pc (s.immS (.brl f))))) s
def execJr (f : FA) (s : State) := runWord (.jr f) (jump (.jr f) none) s
def execJrl (f : FJrl) (s : State) := runWord (.jrl f) (jump (.jrl f) (some f.d)) s
def execBz (f : FCc) (s : State) := runWord (.bz f) (branchS (.bz f) fun a => a == 0) s
def execBnz (f : FCc) (s : State) := runWord (.bnz f) (branchS (.bnz f) fun a => a != 0) s
def execBltz (f : FCc) (s : State) := runWord (.bltz f) (branchS (.bltz f) fun a => a.slt 0) s
def execBgez (f : FCc) (s : State) := runWord (.bgez f) (branchS (.bgez f) fun a => !a.slt 0) s
def execBp (f : FCp) (s : State) := runWord (.bp f) (branchP (.bp f) fun p => bit p.toNat 0) s
def execBnp (f : FCp) (s : State) := runWord (.bnp f) (branchP (.bnp f) fun p => !bit p.toNat 0) s
def execBany (f : FCp) (s : State) := runWord (.bany f) (branchP (.bany f) fun p => p != 0) s
def execBnone (f : FCp) (s : State) := runWord (.bnone f) (branchP (.bnone f) fun p => p == 0) s

/-- BLOOP (R79). -/
def bloop (i : Instr) (s : State) : WordRes :=
  let c := s.iss.pre
  if 2 ≤ c.lc.toNat then
    .ok ((s.modCur fun x => { x with lc := c.lc - 1, vrb := c.vrb - 1, prb := c.prb - 1 }).take
      (target c.pc (s.immS i)))
  else .ok (s.modCur fun x => { x with lc := 0 })

def execBloop (f : FDisp) (s : State) := runWord (.bloop f) (bloop (.bloop f)) s

/-- LCSET (R79). -/
def lcset (i : Instr) (s : State) : WordRes :=
  let a := s.srcS i 0
  if a.p then .trap cPOISON 0 s
  else
    let n := BitVec.ofNat 64 (s.immU i)
    .ok (s.modCur fun x => { x with lc := a.v + n })

def execLcset (f : FCc) (s : State) := runWord (.lcset f) (lcset (.lcset f)) s
def execHalt (s : State) := runWord .halt .ends s
def execTrap (f : FDisp) (s : State) := runWord (.trap f) (fun s => .brk cTRAP (s.immU (.trap f)) s) s
def execBrk (f : FDisp) (s : State) := runWord (.brk f) (fun s => .brk cBRK (s.immU (.brk f)) s) s

/-- CRET (R82): its effect falls at the commit of its bundle. -/
def cret (s : State) : WordRes :=
  if s.iss.pre.chActive then .ok (s.modIss fun x => { x with ret := 2 }) else .trap cILLEGAL_STATE 0 s

def execCret (s : State) := runWord .cret cret s

/-- XRET (R340): its effect falls at the commit of its bundle. -/
def execXret (s : State) := runWord .xret (fun s => .ok (s.modIss fun x => { x with ret := 1 })) s

/-- Whether a WAITEV of mask `m` completes (R81). -/
def evReady (c : Ctx) (m : BitVec 6) : Bool := m == 0 || c.events &&& m != 0

/-- The event bits that a completing WAITEV clears (R81). -/
def Ctx.clearEvents (c : Ctx) (m : BitVec 6) : Ctx := { c with events := c.events &&& ~~~m }

/-- WAITEV (R81). -/
def waitev (m : BitVec 6) (s : State) : WordRes :=
  if evReady s.cur m then .ok (s.modCur fun c => c.clearEvents m) else .wait (.waitev m) s

def execWaitev (f : FMask) (s : State) := runWord (.waitev f) (waitev f.m) s

/-- PBLK acts at its bundle's commit (R44). -/
def execPblk (f : FPblk) (s : State) := runWord (.pblk f) .ok s

/-- LIMM acts through its bundle's immediates (R47); its turn in the bundle does what NOP's does. -/
def execLimm (_ : FLimm) (s : State) := runWord .nop .ok s

/-- PMAP acts through its bundle's read ports (R42); its turn in the bundle does what NOP's does. -/
def execPmap (_ : FPmap) (s : State) := runWord .nop .ok s

end Sys2Proof.Machine
end

