-- ==== Sys2Proof/Machine/Csr.lean ====
section
/-! DEFINITION. The CSR words and the two CSR banks: R8, R9, R26 to R28, R87, R177, R210, R241 and R342. -/

namespace Sys2Proof.Machine

/-- Doubleword `k` of a parameter record (R27). -/
def recDw (r : BitVec 512) (k : Nat) : W64 := BitVec.ofNat 64 (bits r.toNat (64 * k) 64)

/-- The bits of a parameter record that are not RZ (R110). -/
def recMask : Nat :=
  (2 ^ 98 - 1) + (2 ^ 48 - 1) * 2 ^ 128 + (2 ^ 48 - 1) * 2 ^ 192

/-- Doubleword `k` of a parameter record written (R27, R110). -/
def recSet (r : BitVec 512) (k : Nat) (v : W64) : BitVec 512 :=
  BitVec.ofNat 512 (setBits r.toNat (64 * k) 64 v.toNat &&& recMask)

/-- CHCTL (R26). -/
def Ctx.chctl (c : Ctx) : Nat := ofBool c.chEn + c.chPend.toNat * 2 + ofBool c.chActive * 2 ^ 5

/-- TSR (R26). -/
def Ctx.tsr (c : Ctx) : Nat := ofBool c.pwoob + ofBool c.poisonSeen * 2

/-- A user CSR as it reads (R26), the tile-wide ones given: `raf`, `cyc` and `time`. -/
def userRead (c : Ctx) (raf : BitVec 5) (cyc time : W64) (tile x : Nat) : W64 :=
  match x with
  | 0x00 => c.fcsr
  | 0x01 => c.lc
  | 0x02 => BitVec.ofNat 64 (c.vrb.toNat + c.prb.toNat * 2 ^ 8)
  | 0x03 => c.prsel.setWidth 64
  | 0x04 => BitVec.ofNat 64 (c.sigClasses.toNat + c.sigScope.toNat * 2 ^ 16)
  | 0x05 => BitVec.ofNat 64 (c.heapsel.toNat + c.heapDie * 2 ^ 4)
  | 0x06 => BitVec.ofNat 64 c.tsr
  | 0x07 => BitVec.ofNat 64 (raf.toNat * 2 ^ 4)
  | 0x08 => c.chvec
  | 0x09 => BitVec.ofNat 64 c.chctl
  | 0x10 => cyc
  | 0x11 => c.bundles
  | 0x12 => c.replays
  | 0x13 => time
  | 0x18 => c.taskid.setWidth 64
  | 0x19 => BitVec.ofNat 64 c.gangidx
  | 0x1A => BitVec.ofNat 64 c.gangsize
  | 0x1B => c.jobh
  | 0x1C => BitVec.ofNat 64 (tile % 64)
  | 0x1D => BitVec.ofNat 64 (dieOf tile)
  | 0x30 => c.pridx.setWidth 64
  | 0x31 => recDw (c.recs.getD (bits c.pridx.toNat 0 6) 0) (bits c.pridx.toNat 6 3)
  | _ =>
    if 0x20 ≤ x ∧ x < 0x28 then c.pwb.getD (x - 0x20) 0
    else if 0x28 ≤ x ∧ x < 0x30 then c.pws.getD (x - 0x28) 0
    else 0

/-- A user CSR written: `v` is the value of its RW fields and `clr` the ones written to its W1C fields (R8, R9, R26, R87);
`pre` is the context before the bundle. -/
def userWrite (pre c : Ctx) (x : Nat) (v clr : W64) : Ctx :=
  let n := v.toNat
  match x with
  | 0x00 => { c with fcsr := (v &&& 0x1F3) ||| (c.newFlags.setWidth 64 <<< 4) }
  | 0x01 => { c with lc := v }
  | 0x02 => { c with vrb := BitVec.ofNat 4 n, prb := BitVec.ofNat 2 (bits n 8 2) }
  | 0x03 => { c with prsel := BitVec.ofNat 6 n }
  | 0x04 => { c with sigClasses := BitVec.ofNat 16 n,
                     sigScope := if bits n 16 2 = 3 then c.sigScope else BitVec.ofNat 2 (bits n 16 2) }
  | 0x05 => { c with heapsel := BitVec.ofNat 4 n, heapDie := bits n 4 3 }
  | 0x06 => { c with pwoob := (pre.pwoob && !bit clr.toNat 0) || c.newPwoob,
                     poisonSeen := (pre.poisonSeen && !bit clr.toNat 1) || c.newPoison }
  | 0x08 => { c with chvec := v &&& 0xFFFFFFFFFFFC }
  | 0x09 => { c with chEn := bit n 0, chPend := c.chPend &&& ~~~(BitVec.ofNat 4 (bits clr.toNat 1 4)) }
  | 0x30 => { c with pridx := BitVec.ofNat 9 n }
  | 0x31 => { c with recs := updAt (fun r => recSet r (bits pre.pridx.toNat 6 3) v) (bits pre.pridx.toNat 0 6) c.recs }
  | _ => c

/-- PREEMPT (R342). -/
def Ctx.preempt (c : Ctx) : Nat :=
  ofBool c.preReq + c.preDrain.toNat * 2 ^ 4 + c.preCount.toNat * 2 ^ 16 + c.preState.toNat * 2 ^ 32

/-- A supervisor CSR as it reads (R28). -/
def supRead (c : Ctx) (x : Tile) (slot k : Nat) : W64 :=
  match k with
  | 0x00 => BitVec.ofNat 64 (ofBool c.mode + ofBool c.pmode * 2 + slot * 2 ^ 4)
  | 0x01 => c.tvec
  | 0x02 => c.epc
  | 0x03 => c.cause
  | 0x04 => c.faddr
  | 0x05 => c.proof
  | 0x08 => c.cbase
  | 0x09 => c.clim
  | 0x0A => c.rmapidx.setWidth 64
  | 0x0B => x.rmap.getD c.rmapidx.toNat 0
  | 0x0C => BitVec.ofNat 64 (x.partid.getD 0)
  | 0x0D => BitVec.ofNat 64 c.preempt
  | 0x0E => BitVec.ofNat 64 (ofBool c.v32 + c.sems.length * 2)
  | _ => 0

/-- A supervisor CSR of the context written (R28); a write of RMAPDATA waits for the bundle's commit (R243), and the cache's
invalidation belongs to the tile. CAUSE.CODE takes any value, and EPC holds all 64 bits (DEDUCED, log 82). -/
def supWriteCtx (c : Ctx) (k : Nat) (v : W64) : Ctx :=
  match k with
  | 0x00 => { c with pmode := bit v.toNat 1 }
  | 0x01 => { c with tvec := v &&& 0xFFFFFFFFFFFC }
  | 0x02 => { c with epc := v }
  | 0x03 => { c with cause := v &&& 0xFFF }
  | 0x04 => { c with faddr := v }
  | 0x05 => { c with proof := v &&& 0xFFFFFFFFFFFFFF00 }
  | 0x08 => { c with cbase := v &&& 0xFFFFFFFFFFFFFFFC }
  | 0x09 => { c with clim := v &&& 0xFFFFFFFFFFFFFFFC }
  | 0x0A => { c with rmapidx := BitVec.ofNat 7 v.toNat }
  | 0x0B => { c with mapNew := c.mapNew ++ [(c.rmapidx.toNat, v)] }
  | 0x0D => { c with preDrain := BitVec.ofNat 4 (bits v.toNat 4 4), preReq := c.preReq || bit v.toNat 0 }
  | _ => c

/-- What a supervisor CSR write changes at the tile at once: the instruction cache, which a write of CBASE or CLIM invalidates (R50). -/
def supWriteTile (k : Nat) (x : Tile) : Tile :=
  match k with
  | 0x08 => { x with icache := [] }
  | 0x09 => { x with icache := [] }
  | _ => x

/-- The fields of a user CSR taken from its image in a pre-emption record (R338, R348); CYCLE, TIME, RAFLAGS and the names of the tile stay
the tile's, PRDATA is a window on the records, and an RZ bit stays zero (R8). -/
def Ctx.loadUser (c : Ctx) (x : Nat) (v : W64) : Ctx :=
  let n := v.toNat
  match x with
  | 0x00 => { c with fcsr := v &&& 0x1F3 }
  | 0x01 => { c with lc := v }
  | 0x02 => { c with vrb := BitVec.ofNat 4 n, prb := BitVec.ofNat 2 (bits n 8 2) }
  | 0x03 => { c with prsel := BitVec.ofNat 6 n }
  | 0x04 => { c with sigClasses := BitVec.ofNat 16 n,
                     sigScope := if bits n 16 2 = 3 then c.sigScope else BitVec.ofNat 2 (bits n 16 2) }
  | 0x05 => { c with heapsel := BitVec.ofNat 4 n, heapDie := bits n 4 3 }
  | 0x06 => { c with pwoob := bit n 0, poisonSeen := bit n 1 }
  | 0x08 => { c with chvec := v &&& 0xFFFFFFFFFFFC }
  | 0x09 => { c with chEn := bit n 0, chPend := BitVec.ofNat 4 (bits n 1 4), chActive := bit n 5 }
  | 0x11 => { c with bundles := v }
  | 0x12 => { c with replays := v }
  | 0x18 => { c with taskid := BitVec.ofNat 32 n }
  | 0x19 => { c with gangidx := n }
  | 0x1A => { c with gangsize := n }
  | 0x1B => { c with jobh := v }
  | 0x30 => { c with pridx := BitVec.ofNat 9 n }
  | _ =>
    if 0x20 ≤ x ∧ x < 0x28 then { c with pwb := c.pwb.set (x - 0x20) v }
    else if 0x28 ≤ x ∧ x < 0x30 then { c with pws := c.pws.set (x - 0x28) v }
    else c

/-- The fields of a supervisor CSR taken from its image in a pre-emption record (R338, R348): STATE and REQ of PREEMPT are over, and the
semaphores of ALLOT stay the member's. -/
def Ctx.loadSup (c : Ctx) (k : Nat) (v : W64) : Ctx :=
  let n := v.toNat
  match k with
  | 0x00 => { c with mode := bit n 0, pmode := bit n 1 }
  | 0x01 => supWriteCtx c 0x01 v
  | 0x02 => supWriteCtx c 0x02 v
  | 0x03 => supWriteCtx c 0x03 v
  | 0x04 => supWriteCtx c 0x04 v
  | 0x05 => supWriteCtx c 0x05 v
  | 0x08 => supWriteCtx c 0x08 v
  | 0x09 => supWriteCtx c 0x09 v
  | 0x0A => { c with rmapidx := BitVec.ofNat 7 n }
  | 0x0D => { c with preDrain := BitVec.ofNat 4 (bits n 4 4), preCount := BitVec.ofNat 16 (bits n 16 16) }
  | 0x0E => { c with v32 := bit n 0 }
  | _ => c

namespace State

/-- A CSR as it stood before the bundle. -/
def csrOld (s : State) (sup : Bool) (x : Nat) : W64 :=
  let t := s.iss.tile
  if sup then supRead s.iss.pre (s.tileAt t) s.iss.slot x
  else userRead s.iss.pre s.iss.preRaf (s.tileAt t).cycle s.time t x

/-- A CSR write of the word in issue. -/
def csrPut (s : State) (sup : Bool) (x : Nat) (v clr : W64) : State :=
  let pre := s.iss.pre
  if sup then (s.modCur fun c => supWriteCtx c x v).modTile s.iss.tile (supWriteTile x)
  else if x = 0x07 then
    s.modTile s.iss.tile fun t => { t with raflags := t.raflags &&& ~~~(BitVec.ofNat 5 (bits clr.toNat 4 5)) }
  else s.modCur fun c => userWrite pre c x v clr

end State

/-- CSRR and SCSRR (R87). -/
def csrRead (i : Instr) (sup : Bool) (f : FCsrR) (s : State) : WordRes :=
  .ok (s.resS i f.d f.w { v := s.csrOld sup f.x.toNat })

/-- CSRW, CSRS, CSRC and their supervisor forms (R26, R87): `rw` gives the RW fields from old and x, `clr` the W1C fields
cleared. -/
def csrModify (i : Instr) (sup : Bool) (f : FCsrW) (rw clr : W64 → W64 → W64) (s : State) : WordRes :=
  let a := s.srcS i 0
  if a.p then .trap cPOISON 0 s
  else
    let old := s.csrOld sup f.x.toNat
    .ok ((s.csrPut sup f.x.toNat (rw old a.v) (clr old a.v)).resNoLatch f.d f.w { v := old })

def execCsrr (f : FCsrR) (s : State) := runWord (.csrr f) (csrRead (.csrr f) false f) s
def execCsrw (f : FCsrW) (s : State) :=
  runWord (.csrw f) (csrModify (.csrw f) false f (fun _ x => x) fun _ x => x) s
def execCsrs (f : FCsrW) (s : State) :=
  runWord (.csrs f) (csrModify (.csrs f) false f (fun o x => o ||| x) fun _ _ => 0) s
def execCsrc (f : FCsrW) (s : State) :=
  runWord (.csrc f) (csrModify (.csrc f) false f (fun o x => o &&& ~~~x) fun _ x => x) s
def execScsrr (f : FCsrR) (s : State) := runWord (.scsrr f) (csrRead (.scsrr f) true f) s
def execScsrw (f : FCsrW) (s : State) :=
  runWord (.scsrw f) (csrModify (.scsrw f) true f (fun _ x => x) fun _ x => x) s
def execScsrs (f : FCsrW) (s : State) :=
  runWord (.scsrs f) (csrModify (.scsrs f) true f (fun o x => o ||| x) fun _ _ => 0) s
def execScsrc (f : FCsrW) (s : State) :=
  runWord (.scsrc f) (csrModify (.scsrc f) true f (fun o x => o &&& ~~~x) fun _ x => x) s

end Sys2Proof.Machine
end

