-- ==== Sys2Proof/Machine/Tasks.lean ====
section
/-! DEFINITION. The semaphore words (R201 to R203) and the job and task words (R182 to R200). -/

namespace Sys2Proof.Machine

/-! ## Semaphores (R201 to R203) -/

namespace State

/-- The SEM event bit of every context of a tile (R81, R201). -/
def semEvent (s : State) (t : Nat) : State :=
  s.modTile t fun x => { x with ctx := x.ctx.map fun o => o.map fun c => { c with events := c.events ||| 1 } }

/-- The count of semaphore `k` of a tile. -/
def semCount (s : State) (t k : Nat) : Nat := ((s.tileAt t).sem.getD k 0).toNat

/-- The count of a semaphore changed, with its event (R201). -/
def setSem (s : State) (t k n : Nat) : State :=
  (s.modTile t fun x => { x with sem := x.sem.set k (BitVec.ofNat 32 n) }).semEvent t

/-- An increment, saturating at 2^32 - 1 (R201). -/
def addSem (s : State) (t k n : Nat) : State := s.setSem t k (Nat.min (s.semCount t k + n) (2 ^ 32 - 1))

/-- The semaphore of the tile that a word's index names (R177). -/
def ownSem (s : State) (i : Instr) : Nat := s.iss.pre.sems.getD (s.immU i) 0

end State

/-- SIG (R203): the signal leaves once the bundle commits. -/
def sigWord (i : Instr) (s : State) : WordRes :=
  let g := s.srcS i 0
  let n := s.srcS i 1
  let c := s.iss.pre
  if g.p || n.p then .trap cPOISON 0 s
  else if c.gangsize ≤ g.v.toNat then .trap cACCESS g.v.toNat s
  else if 2 ^ 32 ≤ n.v.toNat then .trap cILLEGAL_OPERAND 0 s
  else match s.gangOf c.gang with
    | none => .ok s
    | some x => match x.members[g.v.toNat]? with
      | none => .ok s
      | some m => match m.sems[s.immU i]? with
        | none => .ok s
        | some k => .ok { s with sigs := s.sigs ++
            [{ tile := m.tile, sem := k, gang := c.gang, n := n.v.toNat,
               src := some (s.iss.tile, s.iss.slot, c.taskid, c.bundles) }] }

/-- SWAIT (R203); its completion is a context switch (R341). -/
def swait (i : Instr) (s : State) : WordRes :=
  let n := s.srcS i 0
  let t := s.iss.tile
  let k := s.ownSem i
  if n.p then .trap cPOISON 0 s
  else if 2 ^ 32 ≤ n.v.toNat then .trap cILLEGAL_OPERAND 0 s
  else
    let s := s.modIss fun x => { x with switch := true }
    if n.v.toNat ≤ s.semCount t k then
      .ok (if n.v = 0 then s else s.setSem t k (s.semCount t k - n.v.toNat))
    else .wait (.swait k n.v.toNat) s

/-- STRY (R203). -/
def stry (i : Instr) (f : FAdi) (s : State) : WordRes :=
  let n := s.srcS i 0
  let t := s.iss.tile
  let k := s.ownSem i
  if n.p then .trap cPOISON 0 s
  else if 2 ^ 32 ≤ n.v.toNat then .trap cILLEGAL_OPERAND 0 s
  else if n.v.toNat ≤ s.semCount t k then
    .ok ((if n.v = 0 then s else s.setSem t k (s.semCount t k - n.v.toNat)).resNoLatch f.d true { v := 1 })
  else .ok (s.resNoLatch f.d true {})

/-- SSET (R203). -/
def sset (i : Instr) (s : State) : WordRes :=
  let n := s.srcS i 0
  if n.p then .trap cPOISON 0 s
  else if 2 ^ 32 ≤ n.v.toNat then .trap cILLEGAL_OPERAND 0 s
  else .ok (s.setSem s.iss.tile (s.ownSem i) n.v.toNat)

def execSig (f : FAbi) (s : State) := runWord (.sig f) (sigWord (.sig f)) s
def execSwait (f : FAi) (s : State) := runWord (.swait f) (swait (.swait f)) s
def execStry (f : FAdi) (s : State) := runWord (.stry f) (stry (.stry f) f) s
def execSset (f : FAi) (s : State) := runWord (.sset f) (sset (.sset f)) s

/-! ## Queueing a job (R182 to R186, R189) -/

namespace State

/-- Jobs of a die that have instances not yet dispatched: the queue of R185. -/
def queued (s : State) (die : Nat) : Nat := ((s.dieAt die).jobs.filter fun j => decide (0 < j.left) && !j.complete).length

/-- A control block of a die that is free (R185, R189): one never used, else the complete one accepted first (DEDUCED, log 31). -/
def freeBlock (s : State) (die : Nat) : Option (Nat × BitVec 32) :=
  let d := s.dieAt die
  if d.nextSlot < 4096 then some (d.nextSlot, 1)
  else ((d.jobs.filter fun j => j.complete).foldl (fun (b : Option Job) j => match b with
    | none => some j
    | some x => if j.age < x.age then some j else some x) none).map fun j => (j.slot, j.gen + 1)

/-- The codes PACKET, SHAPE and PARENT of R184; 0 where none applies. -/
def launchCode (s : State) (part : Nat) (p : BitVec 512) : Nat :=
  if !pktOk p then 1
  else if !s.shapeFits part p then 2
  else if pktPARENT p = 0 then 0
  else match s.jobOf (BitVec.ofNat 64 (pktPARENT p)) with
    | some j => if j.part = part ∧ !j.complete then 0 else 3
    | none => 3

/-- The queue order of a die after its occupancy changed (R185): at 3,072 jobs depth-first, below 2,048 breadth-first and no
context throttled. -/
def settleQueue (s : State) (die : Nat) : State :=
  let n := s.queued die
  if 3072 ≤ n then s.modDie die fun d => { d with deep := true }
  else if n < 2048 ∧ (s.dieAt die).deep then
    { (s.modDie die fun d => { d with deep := false }) with
      tiles := s.tiles.zipIdx.map fun x =>
        if dieOf x.2 = die then { x.1 with ctx := x.1.ctx.map fun o => o.map fun c => { c with throttled := false } }
        else x.1 }
  else s

/-- A job queued on a die in a control block; its handle (R185, R187, R189). -/
def enqueue (s : State) (die part slot : Nat) (gen : BitVec 32) (p : BitVec 512)
    (origin : Option (Nat × Nat × BitVec 32 × Nat)) (vf : Option Nat) : State × W64 :=
  let d := s.dieAt die
  let j : Job :=
    { slot := slot, gen := gen, pkt := p, part := part, origin := origin, vf := vf,
      e := if pktEXPECTED p = 0 then pktINST p * pktSize p else pktEXPECTED p, left := pktINST p, age := d.nextAge,
      pool := if pktKIND p = 1 then (pktRLO p, pktRHI p) else (0, 0) }
  let s := s.modDie die fun d =>
    { d with jobs := d.jobs.filter (fun x => x.slot != slot) ++ [j], nextAge := d.nextAge + 1,
             nextSlot := if slot = d.nextSlot then slot + 1 else d.nextSlot }
  (s.settleQueue die, handleOf die j)

end State

/-- LAUNCH (R184, R185, R194): the packet's own codes come before QUEUE_FULL (DEDUCED, log 32). -/
def launch (i : Instr) (f : FAd) (s : State) : WordRes :=
  let a := s.srcS i 0
  let t := s.iss.tile
  let die := dieOf t
  match readDesc s a 64 true with
  | (.error e, s) => .trap e.1 e.2 s
  | (.ok x, s) =>
    let p := BitVec.ofNat 512 x
    let part := (s.tileAt t).partid.getD 32
    let code := s.launchCode part p
    if code ≠ 0 then .ok (s.resNoLatch f.d true { v := BitVec.ofNat 64 (2 ^ 63 + code) })
    else match s.freeBlock die with
      | none => .trap cQUEUE_FULL 0 s
      | some (slot, gen) =>
        if 4096 ≤ s.queued die then .trap cQUEUE_FULL 0 s
        else
          let r := s.enqueue die part slot gen p (some (t, s.iss.slot, s.iss.pre.taskid, s.iss.pre.gang)) none
          let s := r.1.modCur fun c => { c with throttled := c.throttled || (r.1.dieAt die).deep }
          .ok (s.resNoLatch f.d true { v := r.2 })

/-- EXPECT (R187, R195). -/
def expectAdd (i : Instr) (s : State) : WordRes :=
  let a := s.srcS i 0
  let c := s.cur
  if a.p then .trap cPOISON 0 s
  else match s.jobOf c.jobh with
    | none => .trap cILLEGAL_STATE 0 s
    | some j =>
      if 2 ^ 32 ≤ a.v.toNat ∨ 2 ^ 32 ≤ j.e + a.v.toNat ∨ c.posted then .trap cILLEGAL_STATE 0 s
      else .ok (s.modJob c.jobh fun j => { j with e := j.e + a.v.toNat })

/-- POST (R187, R195); a POST to the task's own job posts its completion, but a count of 0 changes nothing (log 33). -/
def post (i : Instr) (s : State) : WordRes :=
  let h := s.srcS i 0
  let n := s.srcS i 1
  let part := (s.tileAt s.iss.tile).partid.getD 32
  if h.p || n.p then .trap cPOISON 0 s
  else if 2 ^ 32 ≤ n.v.toNat then .trap cILLEGAL_OPERAND 0 s
  else match s.jobOf h.v with
    | none => .trap cILLEGAL_STATE 0 s
    | some j =>
      if j.part ≠ part then .trap cILLEGAL_STATE 0 s
      else
        let s := s.modJob h.v fun j => j.post n.v.toNat
        .ok (if h.v = s.cur.jobh ∧ n.v ≠ 0 then s.modCur fun c => { c with posted := true } else s)

namespace State

/-- A job is another or one of its ancestors (R196). -/
def isAncestor (s : State) (h : W64) : Nat → W64 → Bool
  | 0, _ => false
  | n + 1, j =>
    j == h || match s.jobOf j with
      | none => false
      | some x => pktPARENT x.pkt != 0 && s.isAncestor h n (BitVec.ofNat 64 (pktPARENT x.pkt))

/-- The status that JWAIT answers at once, if the job is complete (R189). -/
def jobStatus (s : State) (h : W64) : Option Nat :=
  match s.blockOf h with
  | none => none
  | some j =>
    if bits h.toNat 16 32 < j.gen.toNat then some 2
    else if j.complete then some j.status
    else none

end State

/-- JWAIT (R189, R196); its completion is a context switch (R341). A handle of an earlier use of its block is STALE, whoever
uses the block now (DEDUCED, log 34). -/
def jwait (i : Instr) (f : FAd) (s : State) : WordRes :=
  let h := s.srcS i 0
  if h.p then .trap cPOISON 0 s
  else match s.blockOf h.v with
    | none => .trap cILLEGAL_STATE 0 s
    | some j =>
      let gen := bits h.v.toNat 16 32
      if gen = 0 ∨ j.gen.toNat < gen ∨
          (gen = j.gen.toNat ∧ some j.part ≠ (s.tileAt s.iss.tile).partid) ∨ s.isAncestor h.v 32768 s.iss.pre.jobh then
        .trap cILLEGAL_STATE 0 s
      else
        let s := s.modIss fun x => { x with switch := true }
        match s.jobStatus h.v with
        | some k => .ok (s.resNoLatch f.d true { v := BitVec.ofNat 64 k })
        | none => .wait (.jwait f.d h.v) s

/-- RGET (R190, R197). -/
def rget (f : FD) (s : State) : WordRes :=
  let h := s.iss.pre.jobh
  match s.jobOf h with
  | none => .trap cILLEGAL_STATE 0 s
  | some j =>
    if pktKIND j.pkt ≠ 1 then .trap cILLEGAL_STATE 0 s
    else
      let r := j.rget s.iss.pre.taskid
      .ok (((s.modJob h fun _ => r.2).resNoLatch f.d true { v := r.1.1 }).resNoLatch (f.d + 1) true { v := r.1.2 })

/-- SUSPEND (R198): it checks its record's place, and acts once the context's commands are complete. -/
def suspend (i : Instr) (s : State) : WordRes :=
  let a := s.srcS i 0
  if a.p then .trap cPOISON 0 s
  else if a.v.toNat % 64 ≠ 0 then .trap cMISALIGNED a.v.toNat s
  else if 0x800000 ≤ a.v.toNat then .trap cACCESS a.v.toNat s
  else match s.locate s.iss.tile s.iss.slot s.iss.pre a.v.toNat 64 true with
    | .error e => .trap e.1 e.2 s
    | .ok _ => .ends s

/-- HANDOFF (R193, R200); a parked entry belongs to the pre-empted context that parked it (R346; log 25). -/
def handoff (i : Instr) (s : State) : WordRes :=
  let r := s.srcS i 0
  let x := s.srcS i 1
  let c := s.iss.pre
  let t := s.tileAt s.iss.tile
  let n := r.v.toNat
  let e := t.rmap.getD n 0
  if r.p || x.p then .trap cPOISON 0 s
  else if 127 < n ∨ !entVALID e ∨ entPARK e ∨ entOWNER e ≠ s.iss.slot ∨ x.v.setWidth 32 = c.taskid ∨ t.handoffs.any (fun h => h.1 == n)
  then .trap cILLEGAL_STATE 0 s
  else if 16 ≤ t.handoffs.length then .trap cQUEUE_FULL 0 s
  else .ok (s.modTile s.iss.tile fun t => { t with handoffs := t.handoffs ++ [(n, x.v.setWidth 32, c.jobh)] })

def execLaunch (f : FAd) (s : State) := runWord (.launch f) (launch (.launch f) f) s
def execExpectAdd (f : FA) (s : State) := runWord (.expectAdd f) (expectAdd (.expectAdd f)) s
def execPost (f : FAb) (s : State) := runWord (.post f) (post (.post f)) s
def execJwait (f : FAd) (s : State) := runWord (.jwait f) (jwait (.jwait f) f) s
def execRget (f : FD) (s : State) := runWord (.rget f) (rget f) s
def execSuspend (f : FA) (s : State) := runWord (.suspend f) (suspend (.suspend f)) s
def execTdone (s : State) := runWord .tdone .ends s
def execHandoff (f : FAb) (s : State) := runWord (.handoff f) (handoff (.handoff f)) s

end Sys2Proof.Machine
end

