-- ==== Sys2Proof/Machine/Heap.lean ====
section
/-! DEFINITION. The Zenith gain heap (R210 to R228). -/

namespace Sys2Proof.Machine

/-! ## Instances -/

/-- Entries that the instances of a die hold (R210). -/
def Die.heapUsed (d : Die) : Nat := (d.heap.map fun x => x.entries.length).sum

/-- An instance after CheckClose (R213), and whether it closed. -/
def HeapInst.close (x : HeapInst) : HeapInst :=
  { x with st := .closed, entries := x.entries.map fun e => if e.st = .queued then { e with st := .retired } else e }

/-- CheckClose (R213): the instance and whether its HEAP event is raised. -/
def HeapInst.checkClose (x : HeapInst) : HeapInst × Bool :=
  if x.st = .opened ∧ x.sum < x.tol then (x.close, true) else (x, false)

/-- SetGain (R213): the instance and whether its HEAP event is raised. -/
def HeapInst.setGain (x : HeapInst) (e new : Nat) : HeapInst × Bool :=
  let old := x.entries.getD e {}
  let st : EntryState :=
    if x.st = .opened then
      (if old.st = .queued ∧ new = 0 then .idle else if old.st = .idle ∧ 0 < new then .queued else old.st)
    else old.st
  ({ x with sum := x.sum + new - old.gain, entries := x.entries.set e { old with gain := new, st := st } },
   x.st == .opened && old.st == .idle && decide (0 < new))

/-- The queued entry of greatest gain, the lowest among equals (R215): its number and its gain; `n` is the first one's number. -/
def topQueued : Nat → List HeapEntry → Option (Nat × Nat)
  | _, [] => none
  | n, e :: r => match topQueued (n + 1) r with
    | none => if e.st = .queued then some (n, e.gain) else none
    | some b => if e.st = .queued ∧ b.2 ≤ e.gain then some (n, e.gain) else some b

/-- The lowest FREE entry. -/
def firstFree : Nat → List HeapEntry → Option Nat
  | _, [] => none
  | n, e :: r => if e.st = .free then some n else firstFree (n + 1) r

namespace State

/-- Instance `k` of a die's heap unit. -/
def heapAt (s : State) (die k : Nat) : HeapInst := (s.dieAt die).heap.getD k {}

/-- Instance `k` written, with its HEAP event (R219), which a pre-empted context receives when it resumes (R343). -/
def putHeap (s : State) (die k : Nat) (x : HeapInst) (ev : Bool) : State :=
  let s := s.modDie die fun d => { d with heap := d.heap.set k x }
  if ev then
    let tell := fun c : Ctx => if c.heapsel.toNat = k ∧ c.heapDie = die then { c with events := c.events ||| 32 } else c
    { s with
      tiles := s.tiles.map fun t => if t.partid = x.owner then { t with ctx := t.ctx.map fun o => o.map tell } else t,
      gangs := s.gangs.map fun g => { g with members := g.members.map fun m =>
        if (s.tileAt m.tile).partid = x.owner then { m with saved := m.saved.map tell } else m } }
  else s

end State

/-! ## The heap words -/

/-- What a heap operation answers: a trap, or the instance after it, whether it raises the event, and its result. -/
inductive HeapRes where
  | trap (cause : Nat)
  | done (x : HeapInst) (ev : Bool) (r : Option (W64 × Option W64))

/-- A heap operation sent to the unit that HEAPSEL names (R210, R211, R217): an instance of another partition raises ACCESS,
and an UNUSED one ILLEGAL_STATE. -/
def heapWord (d : Option (BitVec 5)) (op : HeapInst → HeapRes) (s : State) : WordRes :=
  let c := s.iss.pre
  let die := c.heapDie
  let k := c.heapsel.toNat
  let x := s.heapAt die k
  if x.st ≠ .unused ∧ x.owner ≠ (s.tileAt s.iss.tile).partid then .trap cACCESS 0 s
  else if x.st = .unused then .trap cILLEGAL_STATE 0 s
  else match op x with
    | .trap e => .trap e 0 s
    | .done y ev r =>
      let s := s.putHeap die k y ev
      match d, r with
      | some d, some (a, some b) => .ok ((s.resNoLatch d true { v := a }).resNoLatch (d + 1) true { v := b })
      | some d, some (a, none) => .ok (s.resNoLatch d true { v := a })
      | _, _ => .ok s

/-- HPUSH at the unit (R222). -/
def hpushOp (t g : Nat) (x : HeapInst) : HeapRes :=
  if x.st = .closed then .done x false (some (BitVec.ofNat 64 (2 ^ 63 + 1), none))
  else match firstFree 0 x.entries with
    | none => .trap cHEAP_FULL
    | some e =>
      let x := { x with entries := x.entries.set e { task := BitVec.ofNat 32 t, gain := 0, st := .idle } }
      let r := x.setGain e g
      .done r.1 r.2 (some (BitVec.ofNat 64 e, none))

/-- HPOP at the unit (R223). -/
def hpopOp (x : HeapInst) : HeapRes :=
  if x.st = .closed then .done x false (some (BitVec.allOnes 64, some 0))
  else match topQueued 0 x.entries with
    | none => .done x false (some (BitVec.ofNat 64 (2 ^ 64 - 2), some 0))
    | some (e, g) =>
      let en := x.entries.getD e {}
      let r := ({ x with sum := x.sum - g, entries := x.entries.set e { en with gain := 0, st := .running } }).checkClose
      .done r.1 r.2 (some (BitVec.ofNat 64 (en.task.toNat * 2 ^ 32 + e), some (BitVec.ofNat 64 g)))

/-- New gain of HUPD (R224). -/
def hupdGain (n old x : Nat) : Nat :=
  if n = 0 then Nat.min (old + x) (2 ^ 32 - 1) else if n = 1 then x else if n = 2 then Nat.max old x else old - x

/-- HUPD at the unit (R224). -/
def hupdOp (e n v : Nat) (x : HeapInst) : HeapRes :=
  match x.entries[e]? with
  | none => .trap cILLEGAL_STATE
  | some en =>
    if en.st = .free then .trap cILLEGAL_STATE
    else
      let a := x.setGain e (hupdGain n en.gain v)
      let b := a.1.checkClose
      .done b.1 (a.2 || b.2) none

/-- HDONE at the unit (R225). -/
def hdoneOp (e : Nat) (x : HeapInst) : HeapRes :=
  match x.entries[e]? with
  | none => .trap cILLEGAL_STATE
  | some en =>
    if en.st ≠ .running then .trap cILLEGAL_STATE
    else
      let q := x.st == .opened && decide (0 < en.gain)
      .done { x with entries := x.entries.set e { en with st := if q then .queued else .idle } } q none

/-- State codes of HREAD (R226). -/
def EntryState.code : EntryState → Nat
  | .free => 0
  | .queued => 1
  | .running => 2
  | .idle => 3
  | .retired => 4

/-- HREAD at the unit (R226). -/
def hreadOp (e : Nat) (x : HeapInst) : HeapRes :=
  match x.entries[e]? with
  | none => .trap cILLEGAL_STATE
  | some en => .done x false (some (BitVec.ofNat 64 (en.st.code * 2 ^ 32 + en.gain), none))

/-- HCLOSE at the unit (R228). -/
def hcloseOp (x : HeapInst) : HeapRes :=
  if x.st = .closed then .done x false (some (1, none)) else .done x.close true (some (0, none))

/-- A source register's value, or POISON (R217). -/
def heapSrc (i : Instr) (s : State) (k : Nat) : Option Nat :=
  let a := s.srcS i k
  if a.p then none else some a.v.toNat

/-- HPUSH (R222). -/
def hpush (i : Instr) (f : FAbd) (s : State) : WordRes :=
  match heapSrc i s 0, heapSrc i s 1 with
  | some t, some g =>
    if 2 ^ 32 ≤ t ∨ 2 ^ 32 ≤ g then .trap cILLEGAL_OPERAND 0 s else heapWord (some f.d) (hpushOp t g) s
  | _, _ => .trap cPOISON 0 s

/-- HUPD (R224). -/
def hupd (i : Instr) (s : State) : WordRes :=
  match heapSrc i s 0, heapSrc i s 1 with
  | some e, some x =>
    if 2 ^ 32 ≤ x then .trap cILLEGAL_OPERAND 0 s else heapWord none (hupdOp e (s.immU i) x) s
  | _, _ => .trap cPOISON 0 s

/-- HDONE (R225) and HREAD (R226). -/
def heapOne (i : Instr) (d : Option (BitVec 5)) (op : Nat → HeapInst → HeapRes) (s : State) : WordRes :=
  match heapSrc i s 0 with
  | some e => heapWord d (op e) s
  | none => .trap cPOISON 0 s

/-- HSUM (R227): an UNUSED instance reads zero. -/
def hsum (f : FD) (s : State) : WordRes :=
  let c := s.iss.pre
  let x := s.heapAt c.heapDie c.heapsel.toNat
  let r := fun (n : Nat) => WordRes.ok (s.resNoLatch f.d true { v := BitVec.ofNat 64 n })
  match x.st with
  | .unused => r 0
  | .opened => if x.owner ≠ (s.tileAt s.iss.tile).partid then .trap cACCESS 0 s else r (2 ^ 62 + x.sum)
  | .closed => if x.owner ≠ (s.tileAt s.iss.tile).partid then .trap cACCESS 0 s else r (2 * 2 ^ 62 + x.sum)

/-! ## HOPEN (R221) -/

/-- The fields of a heap descriptor that are not RZ. -/
def heapMask : Nat := (2 ^ 17 - 1) + (2 ^ 17 - 1) * 2 ^ 32 + (2 ^ 48 - 1) * 2 ^ 64 + (2 ^ 23 - 1) * 2 ^ 128

/-- The keys of the list's doublewords, or none when one of them fails a check of R90. -/
def listKeys (s : State) (lst : Nat) : Nat → Option (List Nat)
  | 0 => some []
  | n + 1 =>
    let a := lst + 8 * n
    match listKeys s lst n with
    | none => none
    | some l =>
      if a % 8 ≠ 0 then none
      else match s.locate s.iss.tile s.iss.slot s.iss.pre a 8 false with
        | .error _ => none
        | .ok x => some (l ++ [x.key])

/-- The instance that HOPEN leaves, from the list's items (R221). -/
def openInst (owner : Option Nat) (n tol : Nat) (items : List Nat) : HeapInst × Bool :=
  let es : List HeapEntry := items.map fun x =>
    { task := BitVec.ofNat 32 x, gain := x / 2 ^ 32 % 2 ^ 32, st := if x / 2 ^ 32 % 2 ^ 32 = 0 then .idle else .queued }
  ({ st := .opened, entries := es ++ List.replicate (n - es.length) {}, sum := (es.map (·.gain)).sum, tol := tol,
     owner := owner } : HeapInst).checkClose

/-- HOPEN at the unit (R221): the state after it and its status. -/
def hopenOp (d : Nat) (s : State) : State × Nat :=
  let c := s.iss.pre
  let die := c.heapDie
  let k := c.heapsel.toNat
  let x := s.heapAt die k
  let n := bits d 0 17
  let init := bits d 32 17
  let lst := bits d 128 23
  let own := (s.tileAt s.iss.tile).partid
  if x.st = .opened then (s, 3)
  else if n = 0 then ((if x.st = .closed then s.putHeap die k {} false else s), 2)
  else if 65536 + x.entries.length < (s.dieAt die).heapUsed + n then (s, 4)
  else if 0x800000 < lst + 8 * init then (s, 5)
  else match listKeys s lst init with
    | none => (s, 5)
    | some ks =>
      let r := s.sramReads (ks.map fun a => a / 8)
      if ks.any r.1.poisoned then (r.2, 5)
      else
        let y := openInst own n (bits d 64 48) (ks.map fun a => r.1.rd a 8)
        (r.2.putHeap die k y.1 y.2, ofBool y.2)

/-- HOPEN (R221). -/
def hopen (i : Instr) (f : FAd) (s : State) : WordRes :=
  match readDesc s (s.srcS i 0) 64 true with
  | (.error e, s) => .trap e.1 e.2 s
  | (.ok d, s) =>
    let c := s.iss.pre
    let x := s.heapAt c.heapDie c.heapsel.toNat
    if d &&& heapMask ≠ d ∨ 65536 < bits d 0 17 ∨ bits d 0 17 < bits d 32 17 then .trap cILLEGAL_STATE 0 s
    else if x.st ≠ .unused ∧ x.owner ≠ (s.tileAt s.iss.tile).partid then .trap cACCESS 0 s
    else
      let r := hopenOp d s
      .ok (r.1.resNoLatch f.d true { v := BitVec.ofNat 64 r.2 })

def execHpush (f : FAbd) (s : State) := runWord (.hpush f) (hpush (.hpush f) f) s
def execHpop (f : FD) (s : State) := runWord (.hpop f) (heapWord (some f.d) hpopOp) s
def execHupd (f : FAbi) (s : State) := runWord (.hupd f) (hupd (.hupd f)) s
def execHread (f : FAd) (s : State) := runWord (.hread f) (heapOne (.hread f) (some f.d) hreadOp) s
def execHsum (f : FD) (s : State) := runWord (.hsum f) (hsum f) s
def execHclose (f : FD) (s : State) := runWord (.hclose f) (heapWord (some f.d) hcloseOp) s
def execHdone (f : FA) (s : State) := runWord (.hdone f) (heapOne (.hdone f) none hdoneOp) s
def execHopen (f : FAd) (s : State) := runWord (.hopen f) (hopen (.hopen f) f) s

/-! ## TLBINV (R349) -/

/-- A translation is one that TLBINV removes: every one of the partition, or those of the page of an address. -/
def tlbHit (p : Nat) (va : Option W64) (x : TlbEnt) : Bool :=
  x.part == p && match va with
    | none => true
    | some a => if x.big then x.page == a.toNat / 2 ^ 29 else x.page == a.toNat / 2 ^ 16

/-- A walk-cache entry of the partition on the path of an address (R268, R349). -/
def walkHit (p : Nat) (va : Option W64) (x : Nat × Nat × W64) : Bool :=
  x.1 == p && match va with
    | none => true
    | some a => x.2.1 == a.toNat / 2 ^ 38 || x.2.1 == 2 ^ 20 + a.toNat / 2 ^ 29

/-- An engine without the entries that TLBINV removes; units that they translated are marked. -/
def Burin.invalidate (b : Burin) (p : Nat) (va : Option W64) : Burin :=
  let gone := b.tlb.filter (tlbHit p va)
  let mine := fun (u : CUnit) => u.st != .walk && u.pte != 0 && u.kind != .table &&
    (gone.any (fun x => x.page == (if x.big then u.va / 2 ^ 29 else u.va / 2 ^ 16)) || match va with
      | none => true
      | some a => u.va / 2 ^ 16 == a.toNat / 2 ^ 16)
  let mark := fun (u : CUnit) => if mine u then { u with inv := true } else u
  { b with tlb := b.tlb.filter (fun x => !tlbHit p va x), units := b.units.map mark, fetch := b.fetch.map mark }

/-- The walks under way that a predicate admits are given up with their table reads; what waits for them walks again. -/
def State.dropWalks (s : State) (q : Walk → Bool) : State :=
  let gone := s.dies.flatMap fun d => d.walking.filter q
  let s := gone.foldl (fun s w => match s.tableUnit w with
    | none => s
    | some u => (s.failUnit w.tile w.eng u.uid 0 0 0).dropFetch w.tile w.eng u.uid) s
  { s with dies := s.dies.map fun d : Die => { d with walking := d.walking.filter fun w => !q w } }

/-- A walk reads entries that TLBINV removes: it is one of the partition, on the path of the address (R349). -/
def walkStale (p : Nat) (va : Option W64) (w : Walk) : Bool :=
  w.part == p && match va with
    | none => true
    | some a => w.page / 2 ^ 22 == a.toNat / 2 ^ 38

/-- TLBINV across the device for a partition (R349). -/
def State.tlbInvalidate (s : State) (p : Nat) (va : Option W64) : State :=
  let s := s.dropWalks (walkStale p va)
  { s with
    dies := s.dies.map fun d => { d with walks := d.walks.filter fun x => !walkHit p va x },
    tiles := s.tiles.map fun x => if x.partid = some p then { x with burin := x.burin.map fun b => b.invalidate p va } else x }

/-- TLBINV (R349): later bundles of the context wait for TLBINV_COMPLETE. -/
def tlbinv (i : Instr) (s : State) : WordRes :=
  let a := s.srcS i 0
  let all := s.immU i = 1
  let t := s.iss.tile
  if !all && a.p then .trap cPOISON 0 s
  else if !all && decide (2 ^ 48 ≤ a.v.toNat) then .trap cILLEGAL_OPERAND 0 s
  else
    let va := if all then none else some a.v
    let s := s.tlbInvalidate ((s.tileAt t).partid.getD 32) va
    .ok ((s.modTile t fun x => { x with icache := [] }).modCur fun c => { c with tlb := some va })

def execTlbinv (f : FTlb) (s : State) := runWord (.tlbinv f) (tlbinv (.tlbinv f)) s

end Sys2Proof.Machine
end

