-- ==== Sys2Proof/Machine/Gangs.lean ====
section
/-! DEFINITION. The Orrery: placement and dispatch of gangs (R178 to R181, R185, R186, R193), parameter blocks (R183), completion of
jobs (R187, R189), continuations (R192), and how a gang instance is stopped (R336, R362, R400). -/

namespace Sys2Proof.Machine

/-! ## Clusters and placement (R179, R181, R368) -/

/-- The cluster of a tile (R368). -/
def clusterOf (t : Nat) : Nat := (xyOf t).2 / 2 * 16 + (xyOf t).1 / 2

/-- The neighbours of a tile on the grid (R178). -/
def neighbours (t : Nat) : List Nat :=
  let x := (xyOf t).1
  let y := (xyOf t).2
  (if 0 < x then [tileAtXY (x - 1) y] else []) ++ (if x < 31 then [tileAtXY (x + 1) y] else []) ++
    (if 0 < y then [tileAtXY x (y - 1)] else []) ++ if y < 15 then [tileAtXY x (y + 1)] else []

namespace State

/-- Headroom of a cluster (R368). -/
def headroom (s : State) (c : Nat) : Nat := 105 - s.tfc.getD c 0

/-- A tile committed a bundle in the last 1 ms (R368). -/
def tileActive (s : State) (t : Nat) : Bool :=
  match (s.tileAt t).seen with
  | none => false
  | some x => decide (s.time.toNat - x.toNat < 1000000)

/-- The active clusters. -/
def activeClusters (s : State) : List Nat := ((List.range 512).filter s.tileActive).map clusterOf

/-- An idle tile outside the active clusters with a neighbour in one of them (R181). -/
def nearActive (s : State) (act : List Nat) (t : Nat) : Bool :=
  ((s.tileAt t).ctx.all fun o => o.isNone) && !act.contains (clusterOf t) &&
  (neighbours t).any fun n => act.contains (clusterOf n)

/-- Tiles that a pre-empted instance of a priority of at least `prio` waits for (R348). -/
def reserved (s : State) (prio : Nat) : List Nat :=
  (s.gangs.filter fun g => g.off && decide (prio ≤ pktPRIO g.pkt)).flatMap fun g =>
    (g.members.filter fun m => m.saved.isSome).map (·.tile)

/-- A tile can take one more context of a packet's tasks (R179, R368). -/
def tileFree (s : State) (j : Job) (t : Nat) : Bool :=
  s.inService j.part t && (s.freeSlot t).isSome && decide (s.vregsUsed t + (if pktV32 j.pkt then 32 else 16) ≤ 128) &&
  decide (pktSEMS j.pkt ≤ (s.freeSems t).length) && decide (s.tfc.getD (clusterOf t) 0 < 100)

end State

/-- TASKID of a member of a job's instance (DEDUCED, log 38). -/
def taskOf (p : BitVec 512) (inst g : Nat) : BitVec 32 := BitVec.ofNat 32 (inst * pktSize p + g)

namespace State

/-- A task with a pending handoff is placed on the tile of the handoff (R193). -/
def handoffsFit (s : State) (die : Nat) (j : Job) (ts : List Nat) : Bool :=
  ts.zipIdx.all fun x => s.tiles.zipIdx.all fun y =>
    x.1 == y.2 || y.1.handoffs.all fun h => h.2.1 != taskOf j.pkt j.sent x.2 || h.2.2 != handleOf die j

/-- A candidate's rank: its least headroom, and the idle tiles next to active clusters that it takes (R181). -/
def rankOf (s : State) (act : List Nat) (ts : List Nat) : Nat × Nat :=
  ((ts.map fun t => s.headroom (clusterOf t)).foldl Nat.min 105, (ts.filter (s.nearActive act)).length)

/-- The best of ranked candidates; among equals the first (R181). -/
def bestOf : List ((Nat × Nat) × List Nat) → Option ((Nat × Nat) × List Nat)
  | [] => none
  | x :: r => match bestOf r with
    | none => some x
    | some y => if x.1.1 < y.1.1 ∨ (x.1.1 = y.1.1 ∧ y.1.2 < x.1.2) then some y else some x

/-- The tiles that the Orrery takes for a job's next instance, if it can be placed (R179, R181). -/
def placeJob (s : State) (die : Nat) (j : Job) : Option (List Nat) :=
  let held := s.reserved (pktPRIO j.pkt)
  let act := s.activeClusters
  let cands := ((origins j.pkt).map fun o => placeTiles j.pkt o.1 o.2).filter fun ts =>
    (ts.all fun t => s.tileFree j t && !held.contains t) && s.handoffsFit die j ts
  (bestOf (cands.map fun ts => (s.rankOf act ts, ts))).map (·.2)

end State

/-- The order of R185: the higher priority, then the older, or in depth-first order the newer. -/
def Job.before (deep : Bool) (a b : Job) : Bool :=
  decide (pktPRIO b.pkt < pktPRIO a.pkt) || (pktPRIO a.pkt == pktPRIO b.pkt && if deep then decide (b.age < a.age) else decide (a.age < b.age))

/-- The first in that order of the jobs that can be placed, with their tiles. -/
def firstJob (deep : Bool) : List (Job × List Nat) → Option (Job × List Nat)
  | [] => none
  | x :: r => match firstJob deep r with
    | none => some x
    | some y => if x.1.before deep y.1 then some x else some y

namespace State

/-- The gang instance that a die's Orrery dispatches next, with its tiles (R185). -/
def nextDispatch (s : State) (die : Nat) : Option (Job × List Nat) :=
  let d := s.dieAt die
  firstJob d.deep ((d.jobs.filter fun j => decide (0 < j.left) && !j.complete).filterMap fun j =>
    (s.placeJob die j).map fun ts => (j, ts))

/-! ## Dispatch (R175 to R177, R193, R210) -/

/-- The start state of a task in a slot of a tile (R20, the table after R21, R177, R210, R337). -/
def startCtx (s : State) (job : W64) (p : BitVec 512) (inst g gang t slot : Nat) (sems : List Nat) : Ctx :=
  let sup := (s.tileAt t).suptab.getD slot (0, 0)
  { pc := BitVec.ofNat 64 (pktENTRY p), cbase := BitVec.ofNat 64 (pktCBASE p), clim := BitVec.ofNat 64 (pktCLIM p),
    v32 := pktV32 p, sems := sems, taskid := taskOf p inst g, gangidx := g, gangsize := pktSize p, jobh := job,
    heapsel := BitVec.ofNat 4 (if pktKIND p = 2 then pktHEAP p else 0), heapDie := if pktKIND p = 2 then bits job.toNat 12 3 else dieOf t,
    tvec := sup.1, proof := sup.2, gang := gang }

end State

/-- HANDOFF_TRANSFER (R193, R346): the entries handed off to a task pass to the slot where it is dispatched. -/
def Tile.takeHandoffs (slot : Nat) (task : BitVec 32) (job : W64) (x : Tile) : Tile :=
  let mine := x.handoffs.filter fun h => h.2.1 == task && h.2.2 == job
  { x with
    rmap := mine.foldl (fun m h => updAt (fun e => entSetOwner (entSet (entSet e 60 false) 59 false) slot) h.1 m) x.rmap,
    handoffs := x.handoffs.filter fun h => !(h.2.1 == task && h.2.2 == job) }

namespace State

/-- One member of a new instance takes its context, its registers and its semaphores (R19, R175, R177). -/
def placeMember (s : State) (die : Nat) (j : Job) (inst gang : Nat) (x : Nat × Nat) : State × Member :=
  let t := x.1
  let slot := (s.freeSlot t).getD 0
  let sems := (s.freeSems t).take (pktSEMS j.pkt)
  let c := s.startCtx (handleOf die j) j.pkt inst x.2 gang t slot sems
  (s.modTile t fun y => Tile.takeHandoffs slot c.taskid c.jobh
      { y with
        ctx := y.ctx.set slot (some c),
        sem := sems.foldl (fun l k => l.set k 0) y.sem, semGang := sems.foldl (fun l k => l.set k (some gang)) y.semGang },
   { tile := t, sems := sems, slot := some slot, filled := pktPARAMS j.pkt == 0 })

/-- Every member placed. -/
def placeMembers (s : State) (die : Nat) (j : Job) (inst gang : Nat) : List (Nat × Nat) → State × List Member
  | [] => (s, [])
  | x :: r =>
    let a := s.placeMember die j inst gang x
    let b := a.1.placeMembers die j inst gang r
    (b.1, a.2 :: b.2)

/-- A gang instance is dispatched on its tiles as a whole (R175, R185). -/
def dispatch (s : State) (die : Nat) (j : Job) (ts : List Nat) : State :=
  let r := s.placeMembers die j j.sent s.nextGang ts.zipIdx
  let h := handleOf die j
  let s : State :=
    { r.1 with
      nextGang := s.nextGang + 1,
      gangs := r.1.gangs ++ [{ id := s.nextGang, job := h, inst := j.sent, pkt := j.pkt, members := r.2 }] }
  (s.modJob h fun j => { j with left := j.left - 1, sent := j.sent + 1 }).settleQueue die

end State

/-- GANG_DISPATCH (R185): the next instance, when its tiles all lie on the die. -/
def execGangDispatch (die : Nat) (s : State) : Host.Outcome State Fault Refusal :=
  match s.nextDispatch die with
  | none => .next s
  | some (j, ts) => if ts.all fun t => dieOf t == die then .next (s.dispatch die j ts) else .next s

/-- CLAIM (R186): the next instance, when the candidate takes tiles of other dies; the claim is granted whole (DEDUCED, log 39). -/
def execTileClaim (die job : Nat) (s : State) : Host.Outcome State Fault Refusal :=
  match s.nextDispatch die with
  | none => .next s
  | some (j, ts) =>
    if j.slot = job ∧ (ts.any fun t => dieOf t != die) = true then .next (s.dispatch die j ts) else .next s

/-! ## Completion of a job (R187, R189, R193) -/

/-- The regions handed off within a job and not taken are freed (R193). -/
def Tile.freeHandoffs (job : W64) (x : Tile) : Tile :=
  { x with
    rmap := (x.handoffs.filter fun h => h.2.2 == job).foldl (fun m h => updAt (fun _ => (0 : W64)) h.1 m) x.rmap,
    handoffs := x.handoffs.filter fun h => h.2.2 != job }

namespace State

/-- The member of a gang whose task runs, on its tile or pre-empted (R187). -/
def runningMember (s : State) (g : Gang) (task : BitVec 32) : Option Nat :=
  (g.members.zipIdx.find? fun m => match m.1.saved, m.1.slot with
    | some c, _ => c.taskid == task
    | none, some k => (match s.ctx? m.1.tile k with | some c => c.taskid == task && c.gang == g.id | none => false)
    | none, none => false).map (·.2)

/-- The completion target of a job's packet is performed (R187, R396); a message of a job that a context launched goes to every VF of
its partition (DEDUCED, log 40). -/
def performTarget (s : State) (j : Job) : State :=
  if pktCTKIND j.pkt = 1 then
    match j.origin with
    | none => s
    | some (_, _, task, gang) => match s.gangOf gang with
      | none => s
      | some g => match s.runningMember g task with
        | none => s
        | some k => s.sendSig gang k (pktCTSEM j.pkt) 1
  else if pktCTKIND j.pkt = 2 then
    s.signal j.part (match j.vf with | some v => [v] | none => s.vfsOf j.part) false 2 j.status 0
  else s

/-- A job ends: its block is marked complete, its queued instances are dropped, the regions handed off within it are freed, and its
target is performed unless `quiet` (R187, R193, R400). -/
def endJob (s : State) (h : W64) (refused faulted quiet : Bool) : State :=
  match s.jobOf h with
  | none => s
  | some j =>
    if j.complete then s
    else
      let j' : Job := { j with complete := true, left := 0, refused := refused, faulted := faulted }
      let s := { (s.modJob h fun _ => j') with tiles := s.tiles.map (Tile.freeHandoffs h) }
      let s := s.settleQueue (bits h.toNat 12 3)
      if quiet then s else s.performTarget j'

/-- Every child of a job is complete (R187). -/
def childrenDone (s : State) (h : W64) : Bool :=
  s.dies.all fun d => d.jobs.all fun j => j.complete || pktPARENT j.pkt != h.toNat

/-- The conditions of R187 and R220. -/
def jobDone (s : State) (die : Nat) (j : Job) : Bool :=
  let h := handleOf die j
  j.p == j.e && j.left == 0 && !(s.gangs.any fun g => g.job == h) && s.childrenDone h &&
  (pktKIND j.pkt != 2 || (s.heapAt die (pktHEAP j.pkt)).st == .closed)

end State

/-- JOB_COMPLETION (R187, R180): the job in a control block meets the conditions, or has lost its last placement. -/
def execJobCompletion (die slot : Nat) (s : State) : Host.Outcome State Fault Refusal :=
  match (s.dieAt die).jobs.find? fun j => j.slot == slot && !j.complete with
  | none => .next s
  | some j =>
    if s.jobDone die j then .next (s.endJob (handleOf die j) false false false)
    else if 0 < j.left ∧ !s.shapeFits j.part j.pkt then .next (s.endJob (handleOf die j) true false false)
    else .next s

/-! ## Stopping a gang instance (R336, R362, R400) -/

/-- The commands of a slot leave an engine; DONE is that of the commands before the next one. -/
def Burin.forget (slot : Nat) (b : Burin) : Burin :=
  let q := b.q.filter fun c => c.slot != slot
  { b with q := q, done := match q.head? with | none => b.seq | some c => c.tag - 1 }

namespace State

/-- The records of the commands of a slot show what they have delivered (R320, R321). -/
def recordCopies (s : State) (t e slot : Nat) : State :=
  ((s.burinAt t e).q.filter fun c => c.slot == slot && cpRECEN c.d).foldl (fun s c => s.writeRecord t e c) s

/-- A context stops and leaves its tile: its matrix commands are aborted, its copies cancelled, its link commands dropped, its
answers discarded (R336, R362; DEDUCED, log 41). -/
def evict (s : State) (t slot : Nat) : State :=
  let c := s.ctxAt t slot
  let s := s.abortMatrix t slot
  let s := (s.recordCopies t 0 slot).recordCopies t 1 slot
  let s := (s.stopCopies t 0 (fun c => c.slot == slot) 5).stopCopies t 1 (fun c => c.slot == slot) 5
  let s := s.modTile t fun x =>
    { x with
      burin := x.burin.map (Burin.forget slot), ctx := x.ctx.set slot none,
      link := { x.link with q := x.link.q.filter fun m => !(m.gang == c.gang && m.task == c.taskid) } }
  { s with mesh := (s.mesh.filter fun r => !(r.tile == t && r.slot == slot && r.res.isSome)).map fun r =>
      if r.tile == t && r.slot == slot then { r with dst := .none, latch := false } else r }

/-- The parameter fills of a tile are given up. -/
def dropParams (s : State) (t : Nat) : State :=
  ((s.burinAt t 0).fetch.filter fun u => u.kind == .params).foldl (fun s u => (s.failUnit t 0 u.uid 0 0 0).dropFetch t 0 u.uid) s

/-- A gang instance is stopped on every tile it holds and frees them (R336, R362). -/
def stopGang (s : State) (id : Nat) : State :=
  match s.gangOf id with
  | none => s
  | some g =>
    let s := g.members.foldl (fun s m => ((match m.slot with | some k => s.evict m.tile k | none => s).dropParams m.tile).modTile m.tile fun x =>
      freeGangSems id { x with link := { x.link with q := x.link.q.filter fun l => l.gang != id } }) s
    ({ s with gangs := s.gangs.filter fun x => x.id != id }).pumpAll

end State

/-! ## The parameter block (R183) -/

/-- What a plate-checked read of a virtual range answers. -/
inductive FillRes where
  /-- the plate at an address is not read yet -/
  | need (base : Nat)
  | bad
  | ok (x : Nat)
  deriving DecidableEq, Repr

namespace State

/-- `n` bytes at a virtual address from the plates read so far, `k` plates at most. -/
def paramBytes (ps : List (Nat × Nat)) (va n : Nat) : Nat → FillRes
  | 0 => .ok 0
  | k + 1 =>
    if n = 0 then .ok 0
    else
      let m := Nat.min n (4096 - va % 4096)
      let base := va / 4096 * 4096
      match ps.find? fun p => p.1 == base with
      | none => .need base
      | some (_, img) => match paramBytes ps (va + m) (n - m) k with
        | .ok r => .ok (bits img (8 * (va % 4096)) (8 * m) + r * 2 ^ (8 * m))
        | r => r

/-- The destination of an entry of kind 0 lies in the task's own scratchpad in regions that serve it: its pieces, one region after
another (R183, R242). -/
def paramPlaces (s : State) (t slot dst n : Nat) : Nat → Option (List (Nat × Nat))
  | 0 => some []
  | k + 1 =>
    if n = 0 then some []
    else
      let m := Nat.min n (65536 - dst % 65536)
      let x := s.tileAt t
      let e := x.entry dst
      if 0x800000 < dst + m || !servesCtx x slot (s.ctxAt t slot) e then none
      else (s.paramPlaces t slot (dst + m) (n - m) k).map fun l => (spKey t (physSp e dst), m) :: l

end State

/-- Bytes as pieces of single doublewords, each with its key, size and value. -/
def spread (l : List (Nat × Nat)) (x : Nat) : List (Nat × Nat × Nat) :=
  match l with
  | [] => []
  | (k, n) :: r => dwPieces (n / 8 + 2) k n (x % 2 ^ (8 * n)) ++ spread r (x / 2 ^ (8 * n))

/-- Parameter records written from index `i` on; their reserved bits stay zero (R8, R110). -/
def putRecs (l : List (BitVec 512)) (i n x : Nat) : List (BitVec 512) :=
  (List.range n).foldl (fun l j => l.set (i + j) (BitVec.ofNat 512 (bits x (512 * j) 512 &&& recMask))) l

namespace State

/-- One entry of the parameter block (R183). -/
def paramEntry (s : State) (ps : List (Nat × Nat)) (t slot e : Nat) : State × FillRes :=
  let src := bits e 0 48
  let dst := bits e 64 23
  let len := bits e 96 24
  if bits e 48 16 ≠ 0 ∨ bits e 87 9 ≠ 0 ∨ bits e 120 7 ≠ 0 then (s, .bad)
  else if bit e 127 then
    if len % 64 ≠ 0 ∨ 64 < dst + len / 64 then (s, .bad)
    else match paramBytes ps src len (len / 4096 + 2) with
      | .ok x => (s.modCtx t slot fun c => { c with recs := putRecs c.recs dst (len / 64) x }, .ok 0)
      | r => (s, r)
  else match s.paramPlaces t slot dst len (len / 65536 + 2) with
    | none => (s, .bad)
    | some l => match paramBytes ps src len (len / 4096 + 2) with
      | .ok x => (s.storeAll (spread l x) [], .ok 0)
      | r => (s, r)

/-- The entries in order. -/
def paramEntries (s : State) (ps : List (Nat × Nat)) (t slot : Nat) : List Nat → State × FillRes
  | [] => (s, .ok 0)
  | e :: r => match s.paramEntry ps t slot e with
    | (s, .ok _) => s.paramEntries ps t slot r
    | x => x

/-- The parameter block of a task performed as far as its plates are read (R183). -/
def paramBlock (s : State) (ps : List (Nat × Nat)) (t slot va : Nat) : State × FillRes :=
  match paramBytes ps va 80 2 with
  | .ok x =>
    let n := bits x 512 7
    let binds := (List.range 8).map fun w => dwOf x w
    if (binds.any fun d => bits d 23 9 != 0 || bits d 56 8 != 0) ∨ bits x 519 57 ≠ 0 ∨ dwOf x 9 ≠ 0 ∨ 64 < n then (s, .bad)
    else
      let s := s.modCtx t slot fun c =>
        { c with pwb := binds.map (fun d => BitVec.ofNat 64 (bits d 0 23)), pws := binds.map fun d => BitVec.ofNat 64 (bits d 32 24) }
      match paramBytes ps (va + 80) (16 * n) 2 with
      | .ok y => s.paramEntries ps t slot ((List.range n).map fun i => bits y (128 * i) 128)
      | r => (s, r)
  | r => (s, r)

/-- The member of a gang in a slot has its parameters. -/
def setFilled (s : State) (t slot : Nat) : State :=
  let s := s.modCtx t slot fun c => { c with start := { pwb := c.pwb, pws := c.pws, recs := c.recs } }
  s.modGang (s.ctxAt t slot).gang fun g =>
    { g with members := g.members.map fun m => if m.isAt t slot then { m with filled := true, plates := [] } else m }

/-- A plate of its parameters has been read for the member in a slot. -/
def addPlate (s : State) (t slot base img : Nat) : State :=
  s.modGang (s.ctxAt t slot).gang fun g =>
    { g with members := g.members.map fun m => if m.isAt t slot then { m with plates := (base, img) :: m.plates } else m }

end State

/-- PARAMETER_BLOCK_FILL (R183, R277, R280): engine 0 reads the plates of the block and of its sources one after another, each in its own
lines; once they are there the entries are performed. After a failed fill the instance does not start, and its job completes REFUSED
(DEDUCED, log 42). -/
def execParameterBlockFill (t slot : Nat) (s : State) : Host.Outcome State Fault Refusal :=
  let c := s.ctxAt t slot
  match s.gangOf c.gang with
  | none => .next s
  | some g => match g.members.find? fun m => m.isAt t slot && !m.filled with
    | none => .next s
    | some m =>
      let fail := fun s : State => (s.stopGang g.id).endJob g.job true false false
      match s.paramBlock m.plates t slot (pktPARAMS g.pkt) with
      | (s', .ok _) => .next (s'.setFilled t slot)
      | (s', .bad) => .next (fail s')
      | (s', .need base) => match (s.burinAt t 0).fetchOf .params base with
        | none => .next (s.startFetch t .params base 1 4096)
        | some u => match u.st with
          | .ready img => .next ((s.dropFetch t 0 u.uid).addPlate t slot base img)
          | .failed _ _ _ => .next (fail (s'.dropFetch t 0 u.uid))
          | _ => .next s

/-! ## Continuations (R192) -/

/-- The record of a continuation can be read by the context of a gang that takes it in a slot of tile `t`: on the suspending tile as an
access of its own, elsewhere through the gang window (R30, R192, R242, R364). -/
def State.contServed (s : State) (k : Cont) (t slot gang : Nat) : Bool :=
  let x := s.tileAt k.tile
  s.reachable k.tile && if k.tile = t then servesCtx x slot { gang := gang } (x.entry k.addr) else servesGang (x.entry k.addr)

/-- The slot in which a tile takes a continuation (R192): on the suspending tile the one that owns the record's region, where it is free
(DEDUCED, log 43). -/
def State.contSlot (s : State) (k : Cont) (t : Nat) : Option Nat :=
  let o := entOWNER ((s.tileAt t).entry k.addr)
  if k.tile = t ∧ (s.freeSlot t).isSome ∧ (s.ctx? t o).isNone then some o else s.freeSlot t

/-- CONTINUATION_RESUME (R192): an idle tile of the gang takes the continuation at the head of the resume queue, once it has a slot
and registers for it (R19); its record is read once the region map of the suspending tile serves that (R242; DEDUCED, log 43). -/
def execContinuationResume (gang t : Nat) (s : State) : Host.Outcome State Fault Refusal :=
  match s.gangOf gang with
  | none => .next s
  | some g => match g.resumeQ, g.members.zipIdx.find? fun m => m.1.tile == t with
    | k :: rest, some (m, idx) =>
      let going := g.off || g.members.any fun m => m.saved.isSome || (match m.slot with
        | some n => (s.ctxAt m.tile n).preState != 0
        | none => false)
      match s.contSlot k t with
      | some slot =>
        if going || m.slot.isSome || (s.tileAt t).fenced || !s.contServed k t slot gang || decide (128 < s.vregsUsed t + (if pktV32 g.pkt then 32 else 16)) then .next s
        else
          let key := spKey k.tile (physSp ((s.tileAt k.tile).entry k.addr) k.addr)
          let r := s.sramReads (dwsOf key 64)
          let x := r.1.rd key 64
          let c := s.startCtx g.job g.pkt g.inst idx gang t slot m.sems
          let c : Ctx :=
            { c with
              pc := BitVec.ofNat 64 (bits x 0 48), taskid := BitVec.ofNat 32 (bits x 448 32), posted := k.posted, start := k.start,
              pwb := k.start.pwb, pws := k.start.pws, recs := k.start.recs,
              s := (List.range 32).map fun i =>
                if 1 ≤ i ∧ i ≤ 6 then { v := BitVec.ofNat 64 (bits x (64 * i) 64), p := bit x (479 + i) || r.1.poisoned (key + 8 * i) }
                else ({} : SVal) }
          .next ((r.2.modTile t fun y => { y with ctx := y.ctx.set slot (some c) }).modGang gang fun g =>
            { g with resumeQ := rest, members := g.members.set idx { m with slot := some slot, filled := true } })
      | none => .next s
    | _, _ => .next s

end Sys2Proof.Machine
end

