-- ==== Sys2Proof/WellFormed.lean ====
section
/-! DEFINITION. Which words the formats of R36 to R38, R42, R44, R55 and R58 to R61 allow: the field values whose breach is
ILLEGAL_WORD at step 3 of R48. A field declared zero has no place in the syntax; the decoder checks it. -/

namespace Sys2Proof

/-- R37: with W = 0 the destination field is zero. -/
def wfDest (w : Bool) (d : BitVec 5) : Bool := w || d == 0

/-- R42, R44: the PBLK mask bits n to 7 are zero, where N holds n - 1. -/
def FPblk.wf (f : FPblk) : Bool := decide (f.m.toNat < 2 ^ (f.n.toNat + 1))

/-- R42: 7 is reserved in every PMAP field. -/
def FPmap.wf (f : FPmap) : Bool :=
  f.a != 7 && f.b != 7 && f.c != 7 && f.d != 7 && f.e != 7 && f.f != 7 && f.g != 7 && f.h != 7

/-- R55: the scope 0b11 is reserved. -/
def FFence.wf (f : FFence) : Bool := f.s != 3

/-- R55, R58: the scope, and two distinct path codes of 0 to 4. -/
def FXfence.wf (f : FXfence) : Bool := f.s != 3 && decide (f.a.toNat < 5) && decide (f.b.toNat < 5) && f.a != f.b

/-- R61: a link port number is 0 to 11. -/
def FLink.wf (f : FLink) : Bool := decide (f.p.toNat < 12)

/-- The field values that step 3 of R48 accepts. -/
def Instr.wf : Instr → Bool
  | .add f | .sub f | .and f | .or f | .xor f | .andn f | .sll f | .srl f | .sra f | .mul f | .mulh f | .mulhu f
  | .div f | .divu f | .rem f | .remu f | .min f | .max f | .minu f | .maxu f | .slt f | .sltu f | .seq f | .sne f
  | .addw f | .subw f | .mulw f | .cmovz f | .cmovnz f | .bfx f | .bfi f | .fadd f | .fsub f | .fmul f | .fma f
  | .fmin f | .fmax f | .feq f | .flt f | .fle f | .fdiv f => wfDest f.w f.d
  | .clz f | .ctz f | .popc f | .sextb f | .sexth f | .sextw f | .zextw f | .bswap f | .fsqrt f | .fcvtif f
  | .fcvtfi f => wfDest f.w f.d
  | .addi f | .andi f | .ori f | .xori f | .slli f | .srli f | .srai f | .slti f | .sltiu f | .muli f => wfDest f.w f.d
  | .li f | .lui f => wfDest f.w f.d
  | .csrr f | .scsrr f => wfDest f.w f.d
  | .csrw f | .csrs f | .csrc f | .scsrw f | .scsrs f | .scsrc f => wfDest f.w f.d
  | .ldb f | .ldbu f | .ldh f | .ldhu f | .ldw f | .ldwu f | .ldd f | .ldv f | .ldvf f | .ldvb f => wfDest f.w f.d
  | .ldvg f | .aadd f | .amin f | .amax f | .aminu f | .amaxu f | .aand f | .aor f | .axor f | .aswp f | .acas f
  | .afadd f | .barv f | .bwait f => wfDest f.w f.d
  | .ldp f => wfDest f.w f.d
  | .fence f => f.wf
  | .xfence f => f.wf
  | .vadd f | .vsub f | .vmul f | .vmulh f | .vmulhu f | .vand f | .vor f | .vxor f | .vshl f | .vshr f | .vsra f
  | .vmin f | .vmax f | .vminu f | .vmaxu f | .vadds f | .vsubs f | .vmac f | .vceq f | .vcne f | .vclt f | .vcle f
  | .vcltu f | .vcleu f | .vslup f | .vsldn f | .vperm f | .vtos f | .vins f => wfDest f.w f.d
  -- R59, the es the row accepts
  | .vdot4 f => wfDest f.w f.d && decide (2 ≤ f.e.toNat)
  -- R59, the es the row accepts
  | .vmulw f | .vaddw f | .vfadd f | .vfsub f | .vfmul f | .vfma f | .vfms f | .vfmin f | .vfmax f | .vfceq f
  | .vfclt f | .vfcle f | .vfcun f | .vfdiv f => wfDest f.w f.d && f.e != 3
  | .vabs f | .vneg f | .vmov f | .vbcast f | .vradd f | .vrmax f | .vrmin f => wfDest f.w f.d
  -- R59, the es the row accepts
  | .vrfadd f | .vrfmax f | .vfabs f | .vfneg f | .vfsqrt f | .vfrsq f | .vcvtif f | .vcvtfi f | .vpack8 f
  | .vunpk8 f | .vpack16 f | .vunpk16 f => wfDest f.w f.d && f.e != 3
  | .vshli f | .vshri f | .vsrai f | .vaddi f => wfDest f.w f.d
  | .pand f | .por f | .pxor f | .pandn f | .vrnsadd f | .vrnsmul f | .vrnsmac f => wfDest f.w f.d
  | .pnot f | .pany f | .ppopc f | .pfirst f | .vrnse f | .vrnsd f => wfDest f.w f.d
  | .lsend f | .lrecv f | .lradd f => f.wf
  | .sig _ => true
  -- R61, the update codes
  | .hupd f => decide (f.i.toNat < 4)
  | .pblk f => f.wf
  | .pmap f => f.wf
  | .br _ | .brl _ | .bloop _ | .trap _ | .brk _ => true
  | .jr _ | .mldtScalar _ | .mldtVector _ | .msplit _ | .hdone _ | .expectAdd _ | .suspend _ => true
  | .jrl _ => true
  | .bz _ | .bnz _ | .bltz _ | .bgez _ | .lcset _ => true
  | .bp _ | .bnp _ | .bany _ | .bnone _ => true
  | .waitev _ => true
  | .stb _ | .sth _ | .stw _ | .std _ | .stv _ | .stvf _ => true
  | .stvs _ => true
  | .binit _ => true
  | .mset _ => true
  | .mgo _ | .mstat _ | .mabort _ | .hpop _ | .hsum _ | .hclose _ | .rget _ => true
  | .mwait _ | .mwb _ | .lsched _ | .lstat _ | .hread _ | .hopen _ | .launch _ | .jwait _ => true
  | .mclr _ => true
  | .cpy _ | .cwait _ | .cstat _ | .ccan _ => true
  | .swait _ | .sset _ => true
  | .stry _ => true
  | .hpush _ => true
  | .post _ | .handoff _ => true
  | .tlbinv _ => true
  | .limm _ => true
  | .nop | .halt | .cret | .xret | .tdone => true
  -- the device steps have no encoding
  | .transitDetection .. | .engineRecomputation .. | .halfRateEnd .. | .asyncTrapDelivery ..
  | .completionHandlerEntry .. | .swaitWake .. | .cwaitWake .. | .mwaitWake .. | .jwaitWake .. | .waitevWake ..
  | .bwaitRead .. | .bwaitLimit .. | .heldEndingWordRelease .. | .instructionCacheFill .. | .parameterBlockFill ..
  | .matrixCommandStart .. | .matrixStep .. | .matrixStallResume .. | .mwbRow .. | .matrixClearRun ..
  | .matrixCompletion .. | .copyBegin .. | .copyUnitRetire .. | .copyStallResume .. | .copyCompletion .. | .walk ..
  | .tlbinvComplete .. | .closingPoint .. | .readLineArrival .. | .writePerformed .. | .retry ..
  | .thermalStateChange .. | .ownerEntryEffect .. | .sctlQuiesce .. | .quiesced .. | .sctlRatio ..
  | .laneRetrainComplete .. | .plateFill .. | .plateWrite .. | .plateCommit .. | .resealCommit ..
  | .keyRotationGroup .. | .patrolScrub .. | .meshArrival .. | .sigDelivery .. | .portEWriteApply ..
  | .gangDispatch .. | .tileClaim .. | .jobCompletion .. | .continuationResume .. | .preemptReq .. | .preemption ..
  | .drainLimit .. | .proofRecordWrite .. | .resumption .. | .windowCrossing .. | .monitorWindowEnd ..
  | .windowRestart .. | .vtgtRaise .. | .vtgtLower .. | .operatingPointChange .. | .almanacWrite ..
  | .ldoTrimUpdate .. | .railStep .. | .railHoldExpiry .. | .vminSample .. | .vminRearm ..
  | .thermalObserverUpdate .. | .injctlEn .. | .flitReceive .. | .nak .. | .retrainComplete .. | .portHold ..
  | .clearFlit .. | .dataFlit .. | .lastFlit .. | .doneFlit .. | .controlFlit .. | .linkCompletion ..
  | .scheduleStep .. | .memberDone .. | .memberCommit .. | .memberFail .. | .scheduleRestart ..
  | .coordinatorQuery .. | .memberTimeout .. | .twinWindowClose .. | .twinDigest .. | .interimDigest ..
  | .twinLost .. | .launchWindowWrite .. | .functionLevelReset .. | .partCreate .. | .partDestroy ..
  | .tileAssign .. | .vfBind .. | .suptab .. | .spanGrant .. | .keyRotate .. | .grantMask .. | .railVote ..
  | .preemptCmd .. | .stackCtl .. | .almanacCmd .. | .twinSetup .. | .injectCmd .. | .powerState .. | .handover ..
  | .accept .. | .rootSet .. | .ownerClaim .. | .drvfeat .. | .coldStart .. | .warmStart .. | .registerWrite ..
  | .resultDelivery .. | .linkTraining .. | .debugPortRequest .. | .msiXCoalescingTimeout .. => true
  | .emergencyGating | .gatingEnd | .handoverExpiry | .powerLoss => true

end Sys2Proof
end

