-- ==== Sys2Proof/Decode.lean ====
section
/-! DEFINITION. The decoder of R32, R36, R37 and R53 to R62, total on every word and rejecting by name, and the encoder of
the same tables. Every rejection is ILLEGAL_WORD at step 3 of R48. The decoder is marked noncomputable for one reason: the
objects of Lean's compiled code have room for 244 constructors with operands, and the words of the table with operands are 246; the kernel
evaluates the decoder on numerals. -/

namespace Sys2Proof

/-- Why a word decodes to nothing (R53). -/
inductive DecodeError where
  /-- The class 0b111 (R32). -/
  | reservedClass
  /-- An op value that no table lists (R53). -/
  | reservedOp
  /-- A zero field that holds a one, or a reserved value of a fixed field (R37, R53). -/
  | zeroField
  /-- A field value outside the set that its row accepts (R37, R38, R42, R44, R55, R58 to R61). -/
  | fieldValue
  deriving DecidableEq, Repr

/-- The instruction `i`, if the bits [lo + n - 1 : lo] of `w` hold `v`. -/
def fixedField (w lo n v : Nat) (i : Except DecodeError Instr) : Except DecodeError Instr :=
  if bits w lo n = v then i else .error .zeroField

/-- The fields of FDisp in the word `w`. -/
def getFDisp (w : Nat) : FDisp where
  i := BitVec.ofNat 22 (bits w 0 22)

/-- The fields of FA in the word `w`. -/
def getFA (w : Nat) : FA where
  a := BitVec.ofNat 6 (bits w 16 6)

/-- The fields of FJrl in the word `w`. -/
def getFJrl (w : Nat) : FJrl where
  a := BitVec.ofNat 6 (bits w 16 6)
  d := BitVec.ofNat 5 (bits w 11 5)

/-- The fields of FCc in the word `w`. -/
def getFCc (w : Nat) : FCc where
  a := BitVec.ofNat 6 (bits w 16 6)
  i := BitVec.ofNat 16 (bits w 0 16)

/-- The fields of FCp in the word `w`. -/
def getFCp (w : Nat) : FCp where
  p := BitVec.ofNat 3 (bits w 19 3)
  i := BitVec.ofNat 16 (bits w 0 16)

/-- The fields of FMask in the word `w`. -/
def getFMask (w : Nat) : FMask where
  m := BitVec.ofNat 6 (bits w 0 6)

/-- The fields of FSr in the word `w`. -/
def getFSr (w : Nat) : FSr where
  d := BitVec.ofNat 5 (bits w 15 5)
  w := bit w 14
  a := BitVec.ofNat 6 (bits w 8 6)
  b := BitVec.ofNat 6 (bits w 2 6)

/-- The fields of FS1 in the word `w`. -/
def getFS1 (w : Nat) : FS1 where
  d := BitVec.ofNat 5 (bits w 15 5)
  w := bit w 14
  a := BitVec.ofNat 6 (bits w 8 6)

/-- The fields of FSi in the word `w`. -/
def getFSi (w : Nat) : FSi where
  d := BitVec.ofNat 5 (bits w 15 5)
  w := bit w 14
  a := BitVec.ofNat 6 (bits w 8 6)
  i := BitVec.ofNat 8 (bits w 0 8)

/-- The fields of FSl in the word `w`. -/
def getFSl (w : Nat) : FSl where
  d := BitVec.ofNat 5 (bits w 15 5)
  w := bit w 14
  i := BitVec.ofNat 14 (bits w 0 14)

/-- The fields of FCsrR in the word `w`. -/
def getFCsrR (w : Nat) : FCsrR where
  d := BitVec.ofNat 5 (bits w 15 5)
  w := bit w 14
  x := BitVec.ofNat 8 (bits w 0 8)

/-- The fields of FCsrW in the word `w`. -/
def getFCsrW (w : Nat) : FCsrW where
  d := BitVec.ofNat 5 (bits w 15 5)
  w := bit w 14
  a := BitVec.ofNat 6 (bits w 8 6)
  x := BitVec.ofNat 8 (bits w 0 8)

/-- The fields of FLm in the word `w`. -/
def getFLm (w : Nat) : FLm where
  o := BitVec.ofNat 4 (bits w 18 4)
  w := bit w 17
  d := BitVec.ofNat 5 (bits w 12 5)
  b := BitVec.ofNat 6 (bits w 6 6)
  f := BitVec.ofNat 6 (bits w 0 6)

/-- The fields of FSt in the word `w`. -/
def getFSt (w : Nat) : FSt where
  o := BitVec.ofNat 4 (bits w 18 4)
  r := BitVec.ofNat 5 (bits w 12 5)
  b := BitVec.ofNat 6 (bits w 6 6)
  f := BitVec.ofNat 6 (bits w 0 6)

/-- The fields of FLx in the word `w`. -/
def getFLx (w : Nat) : FLx where
  o := BitVec.ofNat 4 (bits w 18 4)
  w := bit w 17
  d := BitVec.ofNat 5 (bits w 12 5)
  b := BitVec.ofNat 6 (bits w 6 6)
  x := BitVec.ofNat 6 (bits w 0 6)

/-- The fields of FStx in the word `w`. -/
def getFStx (w : Nat) : FStx where
  o := BitVec.ofNat 4 (bits w 18 4)
  r := BitVec.ofNat 5 (bits w 12 5)
  b := BitVec.ofNat 6 (bits w 6 6)
  x := BitVec.ofNat 6 (bits w 0 6)

/-- The fields of FLp in the word `w`. -/
def getFLp (w : Nat) : FLp where
  n := BitVec.ofNat 3 (bits w 19 3)
  w := bit w 17
  d := BitVec.ofNat 5 (bits w 12 5)
  b := BitVec.ofNat 6 (bits w 6 6)
  z := BitVec.ofNat 2 (bits w 4 2)
  f := BitVec.ofNat 4 (bits w 0 4)

/-- The fields of FBinit in the word `w`. -/
def getFBinit (w : Nat) : FBinit where
  o := BitVec.ofNat 4 (bits w 18 4)
  b := BitVec.ofNat 6 (bits w 6 6)
  x := BitVec.ofNat 6 (bits w 0 6)

/-- The fields of FFence in the word `w`. -/
def getFFence (w : Nat) : FFence where
  s := BitVec.ofNat 2 (bits w 16 2)
  m := BitVec.ofNat 16 (bits w 0 16)

/-- The fields of FXfence in the word `w`. -/
def getFXfence (w : Nat) : FXfence where
  s := BitVec.ofNat 2 (bits w 16 2)
  a := BitVec.ofNat 3 (bits w 13 3)
  b := BitVec.ofNat 3 (bits w 10 3)

/-- The fields of FVr in the word `w`. -/
def getFVr (w : Nat) : FVr where
  e := BitVec.ofNat 2 (bits w 19 2)
  d := BitVec.ofNat 5 (bits w 14 5)
  w := bit w 13
  a := BitVec.ofNat 6 (bits w 7 6)
  b := BitVec.ofNat 6 (bits w 1 6)

/-- The fields of FV1 in the word `w`. -/
def getFV1 (w : Nat) : FV1 where
  e := BitVec.ofNat 2 (bits w 19 2)
  d := BitVec.ofNat 5 (bits w 14 5)
  w := bit w 13
  a := BitVec.ofNat 6 (bits w 7 6)

/-- The fields of FVi in the word `w`. -/
def getFVi (w : Nat) : FVi where
  e := BitVec.ofNat 2 (bits w 19 2)
  d := BitVec.ofNat 5 (bits w 14 5)
  w := bit w 13
  a := BitVec.ofNat 6 (bits w 7 6)
  i := BitVec.ofNat 6 (bits w 1 6)

/-- The fields of FVp in the word `w`. -/
def getFVp (w : Nat) : FVp where
  d := BitVec.ofNat 5 (bits w 14 5)
  w := bit w 13
  a := BitVec.ofNat 6 (bits w 7 6)
  b := BitVec.ofNat 6 (bits w 1 6)

/-- The fields of FVp1 in the word `w`. -/
def getFVp1 (w : Nat) : FVp1 where
  d := BitVec.ofNat 5 (bits w 14 5)
  w := bit w 13
  a := BitVec.ofNat 6 (bits w 7 6)

/-- The fields of FMset in the word `w`. -/
def getFMset (w : Nat) : FMset where
  a := BitVec.ofNat 6 (bits w 16 6)
  n := BitVec.ofNat 10 (bits w 0 10)

/-- The fields of FD in the word `w`. -/
def getFD (w : Nat) : FD where
  d := BitVec.ofNat 5 (bits w 5 5)

/-- The fields of FAd in the word `w`. -/
def getFAd (w : Nat) : FAd where
  a := BitVec.ofNat 6 (bits w 16 6)
  d := BitVec.ofNat 5 (bits w 5 5)

/-- The fields of FMclr in the word `w`. -/
def getFMclr (w : Nat) : FMclr where
  a := BitVec.ofNat 6 (bits w 16 6)
  b := BitVec.ofNat 6 (bits w 10 6)
  z := BitVec.ofNat 1 (bits w 0 1)

/-- The fields of FCopy in the word `w`. -/
def getFCopy (w : Nat) : FCopy where
  a := BitVec.ofNat 6 (bits w 16 6)
  d := BitVec.ofNat 5 (bits w 5 5)
  e := BitVec.ofNat 1 (bits w 0 1)

/-- The fields of FLink in the word `w`. -/
def getFLink (w : Nat) : FLink where
  a := BitVec.ofNat 6 (bits w 16 6)
  d := BitVec.ofNat 5 (bits w 5 5)
  p := BitVec.ofNat 5 (bits w 0 5)

/-- The fields of FAbi in the word `w`. -/
def getFAbi (w : Nat) : FAbi where
  a := BitVec.ofNat 6 (bits w 16 6)
  b := BitVec.ofNat 6 (bits w 10 6)
  i := BitVec.ofNat 5 (bits w 0 5)

/-- The fields of FAi in the word `w`. -/
def getFAi (w : Nat) : FAi where
  a := BitVec.ofNat 6 (bits w 16 6)
  i := BitVec.ofNat 5 (bits w 0 5)

/-- The fields of FAdi in the word `w`. -/
def getFAdi (w : Nat) : FAdi where
  a := BitVec.ofNat 6 (bits w 16 6)
  d := BitVec.ofNat 5 (bits w 5 5)
  i := BitVec.ofNat 5 (bits w 0 5)

/-- The fields of FAbd in the word `w`. -/
def getFAbd (w : Nat) : FAbd where
  a := BitVec.ofNat 6 (bits w 16 6)
  b := BitVec.ofNat 6 (bits w 10 6)
  d := BitVec.ofNat 5 (bits w 5 5)

/-- The fields of FAb in the word `w`. -/
def getFAb (w : Nat) : FAb where
  a := BitVec.ofNat 6 (bits w 16 6)
  b := BitVec.ofNat 6 (bits w 10 6)

/-- The fields of FTlb in the word `w`. -/
def getFTlb (w : Nat) : FTlb where
  a := BitVec.ofNat 6 (bits w 16 6)
  e := BitVec.ofNat 1 (bits w 0 1)

/-- The fields of FPblk in the word `w`. -/
def getFPblk (w : Nat) : FPblk where
  p := BitVec.ofNat 3 (bits w 21 3)
  n := BitVec.ofNat 3 (bits w 18 3)
  m := BitVec.ofNat 8 (bits w 10 8)

/-- The fields of FLimm in the word `w`. -/
def getFLimm (w : Nat) : FLimm where
  p := BitVec.ofNat 24 (bits w 0 24)

/-- The fields of FPmap in the word `w`. -/
def getFPmap (w : Nat) : FPmap where
  a := BitVec.ofNat 3 (bits w 21 3)
  b := BitVec.ofNat 3 (bits w 18 3)
  c := BitVec.ofNat 3 (bits w 15 3)
  d := BitVec.ofNat 3 (bits w 12 3)
  e := BitVec.ofNat 3 (bits w 9 3)
  f := BitVec.ofNat 3 (bits w 6 3)
  g := BitVec.ofNat 3 (bits w 3 3)
  h := BitVec.ofNat 3 (bits w 0 3)

/-- The C class (R56): the instruction of op value `op`. -/
def decodeC (op w : Nat) : Except DecodeError Instr :=
  match op with
  | 0x01 => fixedField w 0 22 0 (.ok (.nop))
  | 0x02 => .ok (.br (getFDisp w))
  | 0x03 => .ok (.brl (getFDisp w))
  | 0x04 => fixedField w 0 16 0 (.ok (.jr (getFA w)))
  | 0x05 => fixedField w 0 11 0 (.ok (.jrl (getFJrl w)))
  | 0x06 => .ok (.bz (getFCc w))
  | 0x07 => .ok (.bnz (getFCc w))
  | 0x08 => .ok (.bltz (getFCc w))
  | 0x09 => .ok (.bgez (getFCc w))
  | 0x0A => fixedField w 16 3 0 (.ok (.bp (getFCp w)))
  | 0x0B => fixedField w 16 3 0 (.ok (.bnp (getFCp w)))
  | 0x0C => fixedField w 16 3 0 (.ok (.bany (getFCp w)))
  | 0x0D => fixedField w 16 3 0 (.ok (.bnone (getFCp w)))
  | 0x0E => .ok (.bloop (getFDisp w))
  | 0x0F => .ok (.lcset (getFCc w))
  | 0x10 => fixedField w 0 22 0 (.ok (.halt))
  | 0x11 => .ok (.trap (getFDisp w))
  | 0x12 => fixedField w 0 22 0 (.ok (.cret))
  | 0x13 => fixedField w 0 22 0 (.ok (.xret))
  | 0x14 => fixedField w 6 16 0 (.ok (.waitev (getFMask w)))
  | 0x15 => .ok (.brk (getFDisp w))
  | _ => .error .reservedOp

/-- The S class (R57): the instruction of op value `op`. -/
def decodeS (op w : Nat) : Except DecodeError Instr :=
  match op with
  | 0x01 => fixedField w 0 2 0 (.ok (.add (getFSr w)))
  | 0x02 => fixedField w 0 2 0 (.ok (.sub (getFSr w)))
  | 0x03 => fixedField w 0 2 0 (.ok (.and (getFSr w)))
  | 0x04 => fixedField w 0 2 0 (.ok (.or (getFSr w)))
  | 0x05 => fixedField w 0 2 0 (.ok (.xor (getFSr w)))
  | 0x06 => fixedField w 0 2 0 (.ok (.andn (getFSr w)))
  | 0x07 => fixedField w 0 2 0 (.ok (.sll (getFSr w)))
  | 0x08 => fixedField w 0 2 0 (.ok (.srl (getFSr w)))
  | 0x09 => fixedField w 0 2 0 (.ok (.sra (getFSr w)))
  | 0x0A => fixedField w 0 2 0 (.ok (.mul (getFSr w)))
  | 0x0B => fixedField w 0 2 0 (.ok (.mulh (getFSr w)))
  | 0x0C => fixedField w 0 2 0 (.ok (.mulhu (getFSr w)))
  | 0x0D => fixedField w 0 2 0 (.ok (.div (getFSr w)))
  | 0x0E => fixedField w 0 2 0 (.ok (.divu (getFSr w)))
  | 0x0F => fixedField w 0 2 0 (.ok (.rem (getFSr w)))
  | 0x10 => fixedField w 0 2 0 (.ok (.remu (getFSr w)))
  | 0x11 => fixedField w 0 2 0 (.ok (.min (getFSr w)))
  | 0x12 => fixedField w 0 2 0 (.ok (.max (getFSr w)))
  | 0x13 => fixedField w 0 2 0 (.ok (.minu (getFSr w)))
  | 0x14 => fixedField w 0 2 0 (.ok (.maxu (getFSr w)))
  | 0x15 => fixedField w 0 2 0 (.ok (.slt (getFSr w)))
  | 0x16 => fixedField w 0 2 0 (.ok (.sltu (getFSr w)))
  | 0x17 => fixedField w 0 2 0 (.ok (.seq (getFSr w)))
  | 0x18 => fixedField w 0 2 0 (.ok (.sne (getFSr w)))
  | 0x19 => fixedField w 0 2 0 (.ok (.addw (getFSr w)))
  | 0x1A => fixedField w 0 2 0 (.ok (.subw (getFSr w)))
  | 0x1B => fixedField w 0 2 0 (.ok (.mulw (getFSr w)))
  | 0x1C => fixedField w 0 2 0 (.ok (.cmovz (getFSr w)))
  | 0x1D => fixedField w 0 2 0 (.ok (.cmovnz (getFSr w)))
  | 0x1E => fixedField w 0 2 0 (.ok (.bfx (getFSr w)))
  | 0x1F => fixedField w 0 2 0 (.ok (.bfi (getFSr w)))
  | 0x20 => fixedField w 0 8 0 (.ok (.clz (getFS1 w)))
  | 0x21 => fixedField w 0 8 0 (.ok (.ctz (getFS1 w)))
  | 0x22 => fixedField w 0 8 0 (.ok (.popc (getFS1 w)))
  | 0x23 => fixedField w 0 8 0 (.ok (.sextb (getFS1 w)))
  | 0x24 => fixedField w 0 8 0 (.ok (.sexth (getFS1 w)))
  | 0x25 => fixedField w 0 8 0 (.ok (.sextw (getFS1 w)))
  | 0x26 => fixedField w 0 8 0 (.ok (.zextw (getFS1 w)))
  | 0x27 => fixedField w 0 8 0 (.ok (.bswap (getFS1 w)))
  | 0x40 => .ok (.addi (getFSi w))
  | 0x41 => .ok (.andi (getFSi w))
  | 0x42 => .ok (.ori (getFSi w))
  | 0x43 => .ok (.xori (getFSi w))
  | 0x44 => .ok (.slli (getFSi w))
  | 0x45 => .ok (.srli (getFSi w))
  | 0x46 => .ok (.srai (getFSi w))
  | 0x47 => .ok (.slti (getFSi w))
  | 0x48 => .ok (.sltiu (getFSi w))
  | 0x49 => .ok (.muli (getFSi w))
  | 0x60 => .ok (.li (getFSl w))
  | 0x61 => .ok (.lui (getFSl w))
  | 0x80 => fixedField w 0 2 0 (.ok (.fadd (getFSr w)))
  | 0x81 => fixedField w 0 2 0 (.ok (.fsub (getFSr w)))
  | 0x82 => fixedField w 0 2 0 (.ok (.fmul (getFSr w)))
  | 0x83 => fixedField w 0 2 0 (.ok (.fma (getFSr w)))
  | 0x84 => fixedField w 0 2 0 (.ok (.fmin (getFSr w)))
  | 0x85 => fixedField w 0 2 0 (.ok (.fmax (getFSr w)))
  | 0x86 => fixedField w 0 2 0 (.ok (.feq (getFSr w)))
  | 0x87 => fixedField w 0 2 0 (.ok (.flt (getFSr w)))
  | 0x88 => fixedField w 0 2 0 (.ok (.fle (getFSr w)))
  | 0x89 => fixedField w 0 2 0 (.ok (.fdiv (getFSr w)))
  | 0x8A => fixedField w 0 8 0 (.ok (.fsqrt (getFS1 w)))
  | 0x8B => fixedField w 0 8 0 (.ok (.fcvtif (getFS1 w)))
  | 0x8C => fixedField w 0 8 0 (.ok (.fcvtfi (getFS1 w)))
  | 0xC0 => fixedField w 8 6 0 (.ok (.csrr (getFCsrR w)))
  | 0xC1 => .ok (.csrw (getFCsrW w))
  | 0xC2 => .ok (.csrs (getFCsrW w))
  | 0xC3 => .ok (.csrc (getFCsrW w))
  | 0xC4 => fixedField w 8 6 0 (.ok (.scsrr (getFCsrR w)))
  | 0xC5 => .ok (.scsrw (getFCsrW w))
  | 0xC6 => .ok (.scsrs (getFCsrW w))
  | 0xC7 => .ok (.scsrc (getFCsrW w))
  | _ => .error .reservedOp

/-- The L class (R58): the instruction of op value `op`. -/
def decodeL (op w : Nat) : Except DecodeError Instr :=
  match op with
  | 0x01 => .ok (.ldb (getFLm w))
  | 0x02 => .ok (.ldbu (getFLm w))
  | 0x03 => .ok (.ldh (getFLm w))
  | 0x04 => .ok (.ldhu (getFLm w))
  | 0x05 => .ok (.ldw (getFLm w))
  | 0x06 => .ok (.ldwu (getFLm w))
  | 0x07 => .ok (.ldd (getFLm w))
  | 0x08 => fixedField w 17 1 0 (.ok (.stb (getFSt w)))
  | 0x09 => fixedField w 17 1 0 (.ok (.sth (getFSt w)))
  | 0x0A => fixedField w 17 1 0 (.ok (.stw (getFSt w)))
  | 0x0B => fixedField w 17 1 0 (.ok (.std (getFSt w)))
  | 0x0C => .ok (.ldv (getFLm w))
  | 0x0D => fixedField w 17 1 0 (.ok (.stv (getFSt w)))
  | 0x0E => .ok (.ldvf (getFLm w))
  | 0x0F => fixedField w 17 1 0 (.ok (.stvf (getFSt w)))
  | 0x10 => .ok (.ldvg (getFLx w))
  | 0x11 => fixedField w 17 1 0 (.ok (.stvs (getFStx w)))
  | 0x12 => .ok (.ldvb (getFLm w))
  | 0x14 => fixedField w 18 1 0 (.ok (.ldp (getFLp w)))
  | 0x18 => .ok (.aadd (getFLx w))
  | 0x19 => .ok (.amin (getFLx w))
  | 0x1A => .ok (.amax (getFLx w))
  | 0x1B => .ok (.aminu (getFLx w))
  | 0x1C => .ok (.amaxu (getFLx w))
  | 0x1D => .ok (.aand (getFLx w))
  | 0x1E => .ok (.aor (getFLx w))
  | 0x1F => .ok (.axor (getFLx w))
  | 0x20 => .ok (.aswp (getFLx w))
  | 0x21 => .ok (.acas (getFLx w))
  | 0x22 => .ok (.afadd (getFLx w))
  | 0x24 => .ok (.barv (getFLx w))
  | 0x25 => .ok (.bwait (getFLx w))
  | 0x26 => fixedField w 12 6 0 (.ok (.binit (getFBinit w)))
  | 0x28 => fixedField w 18 4 0 (.ok (.fence (getFFence w)))
  | 0x29 => fixedField w 0 10 0 (fixedField w 18 4 0 (.ok (.xfence (getFXfence w))))
  | _ => .error .reservedOp

/-- The V class (R59): the instruction of op value `op`. -/
def decodeV (op w : Nat) : Except DecodeError Instr :=
  match op with
  | 0x01 => fixedField w 0 1 0 (.ok (.vadd (getFVr w)))
  | 0x02 => fixedField w 0 1 0 (.ok (.vsub (getFVr w)))
  | 0x03 => fixedField w 0 1 0 (.ok (.vmul (getFVr w)))
  | 0x04 => fixedField w 0 1 0 (.ok (.vmulh (getFVr w)))
  | 0x05 => fixedField w 0 1 0 (.ok (.vmulhu (getFVr w)))
  | 0x06 => fixedField w 0 1 0 (.ok (.vand (getFVr w)))
  | 0x07 => fixedField w 0 1 0 (.ok (.vor (getFVr w)))
  | 0x08 => fixedField w 0 1 0 (.ok (.vxor (getFVr w)))
  | 0x09 => fixedField w 0 1 0 (.ok (.vshl (getFVr w)))
  | 0x0A => fixedField w 0 1 0 (.ok (.vshr (getFVr w)))
  | 0x0B => fixedField w 0 1 0 (.ok (.vsra (getFVr w)))
  | 0x0C => fixedField w 0 1 0 (.ok (.vmin (getFVr w)))
  | 0x0D => fixedField w 0 1 0 (.ok (.vmax (getFVr w)))
  | 0x0E => fixedField w 0 1 0 (.ok (.vminu (getFVr w)))
  | 0x0F => fixedField w 0 1 0 (.ok (.vmaxu (getFVr w)))
  | 0x10 => fixedField w 0 7 0 (.ok (.vabs (getFV1 w)))
  | 0x11 => fixedField w 0 7 0 (.ok (.vneg (getFV1 w)))
  | 0x12 => fixedField w 0 1 0 (.ok (.vadds (getFVr w)))
  | 0x13 => fixedField w 0 1 0 (.ok (.vsubs (getFVr w)))
  | 0x14 => fixedField w 0 1 0 (.ok (.vmac (getFVr w)))
  | 0x15 => fixedField w 0 1 0 (.ok (.vdot4 (getFVr w)))
  | 0x16 => fixedField w 0 1 0 (.ok (.vmulw (getFVr w)))
  | 0x17 => fixedField w 0 1 0 (.ok (.vaddw (getFVr w)))
  | 0x18 => fixedField w 0 1 0 (.ok (.vshli (getFVi w)))
  | 0x19 => fixedField w 0 1 0 (.ok (.vshri (getFVi w)))
  | 0x1A => fixedField w 0 1 0 (.ok (.vsrai (getFVi w)))
  | 0x1B => fixedField w 0 1 0 (.ok (.vaddi (getFVi w)))
  | 0x20 => fixedField w 0 1 0 (.ok (.vceq (getFVr w)))
  | 0x21 => fixedField w 0 1 0 (.ok (.vcne (getFVr w)))
  | 0x22 => fixedField w 0 1 0 (.ok (.vclt (getFVr w)))
  | 0x23 => fixedField w 0 1 0 (.ok (.vcle (getFVr w)))
  | 0x24 => fixedField w 0 1 0 (.ok (.vcltu (getFVr w)))
  | 0x25 => fixedField w 0 1 0 (.ok (.vcleu (getFVr w)))
  | 0x28 => fixedField w 0 1 0 (fixedField w 19 2 0 (.ok (.pand (getFVp w))))
  | 0x29 => fixedField w 0 1 0 (fixedField w 19 2 0 (.ok (.por (getFVp w))))
  | 0x2A => fixedField w 0 1 0 (fixedField w 19 2 0 (.ok (.pxor (getFVp w))))
  | 0x2B => fixedField w 0 1 0 (fixedField w 19 2 0 (.ok (.pandn (getFVp w))))
  | 0x2C => fixedField w 0 7 0 (fixedField w 19 2 0 (.ok (.pnot (getFVp1 w))))
  | 0x2D => fixedField w 0 7 0 (fixedField w 19 2 0 (.ok (.pany (getFVp1 w))))
  | 0x2E => fixedField w 0 7 0 (fixedField w 19 2 0 (.ok (.ppopc (getFVp1 w))))
  | 0x2F => fixedField w 0 7 0 (fixedField w 19 2 0 (.ok (.pfirst (getFVp1 w))))
  | 0x30 => fixedField w 0 7 0 (.ok (.vmov (getFV1 w)))
  | 0x31 => fixedField w 0 7 0 (.ok (.vbcast (getFV1 w)))
  | 0x32 => fixedField w 0 1 0 (.ok (.vslup (getFVr w)))
  | 0x33 => fixedField w 0 1 0 (.ok (.vsldn (getFVr w)))
  | 0x34 => fixedField w 0 1 0 (.ok (.vperm (getFVr w)))
  | 0x35 => fixedField w 0 1 0 (.ok (.vtos (getFVr w)))
  | 0x36 => fixedField w 0 1 0 (.ok (.vins (getFVr w)))
  | 0x38 => fixedField w 0 7 0 (.ok (.vradd (getFV1 w)))
  | 0x39 => fixedField w 0 7 0 (.ok (.vrmax (getFV1 w)))
  | 0x3A => fixedField w 0 7 0 (.ok (.vrmin (getFV1 w)))
  | 0x3B => fixedField w 0 7 0 (.ok (.vrfadd (getFV1 w)))
  | 0x3C => fixedField w 0 7 0 (.ok (.vrfmax (getFV1 w)))
  | 0x40 => fixedField w 0 1 0 (.ok (.vfadd (getFVr w)))
  | 0x41 => fixedField w 0 1 0 (.ok (.vfsub (getFVr w)))
  | 0x42 => fixedField w 0 1 0 (.ok (.vfmul (getFVr w)))
  | 0x43 => fixedField w 0 1 0 (.ok (.vfma (getFVr w)))
  | 0x44 => fixedField w 0 1 0 (.ok (.vfms (getFVr w)))
  | 0x45 => fixedField w 0 1 0 (.ok (.vfmin (getFVr w)))
  | 0x46 => fixedField w 0 1 0 (.ok (.vfmax (getFVr w)))
  | 0x47 => fixedField w 0 7 0 (.ok (.vfabs (getFV1 w)))
  | 0x48 => fixedField w 0 7 0 (.ok (.vfneg (getFV1 w)))
  | 0x49 => fixedField w 0 1 0 (.ok (.vfceq (getFVr w)))
  | 0x4A => fixedField w 0 1 0 (.ok (.vfclt (getFVr w)))
  | 0x4B => fixedField w 0 1 0 (.ok (.vfcle (getFVr w)))
  | 0x4C => fixedField w 0 1 0 (.ok (.vfcun (getFVr w)))
  | 0x4D => fixedField w 0 1 0 (.ok (.vfdiv (getFVr w)))
  | 0x4E => fixedField w 0 7 0 (.ok (.vfsqrt (getFV1 w)))
  | 0x4F => fixedField w 0 7 0 (.ok (.vfrsq (getFV1 w)))
  | 0x50 => fixedField w 0 7 0 (.ok (.vcvtif (getFV1 w)))
  | 0x51 => fixedField w 0 7 0 (.ok (.vcvtfi (getFV1 w)))
  | 0x52 => fixedField w 0 7 0 (.ok (.vpack8 (getFV1 w)))
  | 0x53 => fixedField w 0 7 0 (.ok (.vunpk8 (getFV1 w)))
  | 0x54 => fixedField w 0 7 0 (.ok (.vpack16 (getFV1 w)))
  | 0x55 => fixedField w 0 7 0 (.ok (.vunpk16 (getFV1 w)))
  | 0x58 => fixedField w 0 7 0 (fixedField w 19 2 2 (.ok (.vrnse (getFVp1 w))))
  | 0x59 => fixedField w 0 7 0 (fixedField w 19 2 2 (.ok (.vrnsd (getFVp1 w))))
  | 0x5A => fixedField w 0 1 0 (fixedField w 19 2 2 (.ok (.vrnsadd (getFVp w))))
  | 0x5B => fixedField w 0 1 0 (fixedField w 19 2 2 (.ok (.vrnsmul (getFVp w))))
  | 0x5C => fixedField w 0 1 0 (fixedField w 19 2 2 (.ok (.vrnsmac (getFVp w))))
  | _ => .error .reservedOp

/-- The M class (R60): the instruction of op value `op`. -/
def decodeM (op w : Nat) : Except DecodeError Instr :=
  match op with
  | 0x01 => fixedField w 5 11 0 <|
    if bits w 0 5 = 0 then .ok (.mldtScalar (getFA w)) else fixedField w 0 5 1 (.ok (.mldtVector (getFA w)))
  | 0x02 => fixedField w 10 6 0 (.ok (.mset (getFMset w)))
  | 0x03 => fixedField w 0 5 0 (fixedField w 10 12 0 (.ok (.mgo (getFD w))))
  | 0x04 => fixedField w 0 5 0 (fixedField w 10 12 0 (.ok (.mstat (getFD w))))
  | 0x05 => fixedField w 0 5 0 (fixedField w 10 6 0 (.ok (.mwait (getFAd w))))
  | 0x06 => fixedField w 1 9 0 (.ok (.mclr (getFMclr w)))
  | 0x07 => fixedField w 0 5 0 (fixedField w 10 12 0 (.ok (.mabort (getFD w))))
  | 0x08 => fixedField w 0 16 0 (.ok (.msplit (getFA w)))
  | 0x09 => fixedField w 0 5 0 (fixedField w 10 6 0 (.ok (.mwb (getFAd w))))
  | _ => .error .reservedOp

/-- The E class (R61): the instruction of op value `op`. -/
def decodeE (op w : Nat) : Except DecodeError Instr :=
  match op with
  | 0x01 => fixedField w 1 4 0 (fixedField w 10 6 0 (.ok (.cpy (getFCopy w))))
  | 0x02 => fixedField w 1 4 0 (fixedField w 10 6 0 (.ok (.cwait (getFCopy w))))
  | 0x03 => fixedField w 1 4 0 (fixedField w 10 6 0 (.ok (.cstat (getFCopy w))))
  | 0x04 => fixedField w 1 4 0 (fixedField w 10 6 0 (.ok (.ccan (getFCopy w))))
  | 0x08 => fixedField w 10 6 0 (.ok (.lsend (getFLink w)))
  | 0x09 => fixedField w 10 6 0 (.ok (.lrecv (getFLink w)))
  | 0x0A => fixedField w 10 6 0 (.ok (.lradd (getFLink w)))
  | 0x0B => fixedField w 0 5 0 (fixedField w 10 6 0 (.ok (.lsched (getFAd w))))
  | 0x0C => fixedField w 0 5 0 (fixedField w 10 6 0 (.ok (.lstat (getFAd w))))
  | 0x10 => fixedField w 5 5 0 (.ok (.sig (getFAbi w)))
  | 0x11 => fixedField w 5 11 0 (.ok (.swait (getFAi w)))
  | 0x12 => fixedField w 10 6 0 (.ok (.stry (getFAdi w)))
  | 0x13 => fixedField w 5 11 0 (.ok (.sset (getFAi w)))
  | 0x18 => fixedField w 0 5 0 (.ok (.hpush (getFAbd w)))
  | 0x19 => fixedField w 0 5 0 (fixedField w 10 12 0 (.ok (.hpop (getFD w))))
  | 0x1A => fixedField w 5 5 0 (.ok (.hupd (getFAbi w)))
  | 0x1B => fixedField w 0 5 0 (fixedField w 10 6 0 (.ok (.hread (getFAd w))))
  | 0x1C => fixedField w 0 5 0 (fixedField w 10 12 0 (.ok (.hsum (getFD w))))
  | 0x1D => fixedField w 0 5 0 (fixedField w 10 12 0 (.ok (.hclose (getFD w))))
  | 0x1E => fixedField w 0 16 0 (.ok (.hdone (getFA w)))
  | 0x1F => fixedField w 0 5 0 (fixedField w 10 6 0 (.ok (.hopen (getFAd w))))
  | 0x20 => fixedField w 0 5 0 (fixedField w 10 6 0 (.ok (.launch (getFAd w))))
  | 0x21 => fixedField w 0 16 0 (.ok (.expectAdd (getFA w)))
  | 0x22 => fixedField w 0 10 0 (.ok (.post (getFAb w)))
  | 0x23 => fixedField w 0 5 0 (fixedField w 10 6 0 (.ok (.jwait (getFAd w))))
  | 0x24 => fixedField w 0 5 0 (fixedField w 10 12 0 (.ok (.rget (getFD w))))
  | 0x25 => fixedField w 0 16 0 (.ok (.suspend (getFA w)))
  | 0x26 => fixedField w 0 22 0 (.ok (.tdone))
  | 0x27 => fixedField w 0 10 0 (.ok (.handoff (getFAb w)))
  | 0x30 => fixedField w 1 15 0 (.ok (.tlbinv (getFTlb w)))
  | _ => .error .reservedOp

/-- The X class (R62): the instruction of op value `op`. -/
noncomputable def decodeX (op w : Nat) : Except DecodeError Instr :=
  match op with
  | 0x01 => fixedField w 0 10 0 (.ok (.pblk (getFPblk w)))
  | 0x02 => .ok (.limm (getFLimm w))
  | 0x03 => .ok (.pmap (getFPmap w))
  | _ => .error .reservedOp

/-- The instruction that the low 31 bits of `w` name, before the field values are checked (R32). -/
noncomputable def decodeFields (w : Nat) : Except DecodeError Instr :=
  match bits w 28 3 with
  | 0 => decodeC (bits w 22 6) w
  | 1 => decodeS (bits w 20 8) w
  | 2 => decodeL (bits w 22 6) w
  | 3 => decodeV (bits w 21 7) w
  | 4 => decodeM (bits w 22 6) w
  | 5 => decodeE (bits w 22 6) w
  | 6 => decodeX (bits w 24 4) w
  | _ => .error .reservedClass

/-- The decoder of one 32-bit word. The chain bit [31] is not looked at. -/
noncomputable def decodeWord (w : Nat) : Except DecodeError Instr :=
  match decodeFields w with
  | .error e => .error e
  | .ok i => if i.wf then .ok i else .error .fieldValue

/-- The chain bit C of a word (R32). -/
def chainBit (w : Nat) : Bool := bit w 31

/-- The fields of FDisp in their places. -/
def putFDisp (f : FDisp) : Nat :=
  f.i.toNat

/-- The fields of FA in their places. -/
def putFA (f : FA) : Nat :=
  f.a.toNat * 2 ^ 16

/-- The fields of FJrl in their places. -/
def putFJrl (f : FJrl) : Nat :=
  f.a.toNat * 2 ^ 16 + f.d.toNat * 2 ^ 11

/-- The fields of FCc in their places. -/
def putFCc (f : FCc) : Nat :=
  f.a.toNat * 2 ^ 16 + f.i.toNat

/-- The fields of FCp in their places. -/
def putFCp (f : FCp) : Nat :=
  f.p.toNat * 2 ^ 19 + f.i.toNat

/-- The fields of FMask in their places. -/
def putFMask (f : FMask) : Nat :=
  f.m.toNat

/-- The fields of FSr in their places. -/
def putFSr (f : FSr) : Nat :=
  f.d.toNat * 2 ^ 15 + ofBool f.w * 2 ^ 14 + f.a.toNat * 2 ^ 8 + f.b.toNat * 2 ^ 2

/-- The fields of FS1 in their places. -/
def putFS1 (f : FS1) : Nat :=
  f.d.toNat * 2 ^ 15 + ofBool f.w * 2 ^ 14 + f.a.toNat * 2 ^ 8

/-- The fields of FSi in their places. -/
def putFSi (f : FSi) : Nat :=
  f.d.toNat * 2 ^ 15 + ofBool f.w * 2 ^ 14 + f.a.toNat * 2 ^ 8 + f.i.toNat

/-- The fields of FSl in their places. -/
def putFSl (f : FSl) : Nat :=
  f.d.toNat * 2 ^ 15 + ofBool f.w * 2 ^ 14 + f.i.toNat

/-- The fields of FCsrR in their places. -/
def putFCsrR (f : FCsrR) : Nat :=
  f.d.toNat * 2 ^ 15 + ofBool f.w * 2 ^ 14 + f.x.toNat

/-- The fields of FCsrW in their places. -/
def putFCsrW (f : FCsrW) : Nat :=
  f.d.toNat * 2 ^ 15 + ofBool f.w * 2 ^ 14 + f.a.toNat * 2 ^ 8 + f.x.toNat

/-- The fields of FLm in their places. -/
def putFLm (f : FLm) : Nat :=
  f.o.toNat * 2 ^ 18 + ofBool f.w * 2 ^ 17 + f.d.toNat * 2 ^ 12 + f.b.toNat * 2 ^ 6 + f.f.toNat

/-- The fields of FSt in their places. -/
def putFSt (f : FSt) : Nat :=
  f.o.toNat * 2 ^ 18 + f.r.toNat * 2 ^ 12 + f.b.toNat * 2 ^ 6 + f.f.toNat

/-- The fields of FLx in their places. -/
def putFLx (f : FLx) : Nat :=
  f.o.toNat * 2 ^ 18 + ofBool f.w * 2 ^ 17 + f.d.toNat * 2 ^ 12 + f.b.toNat * 2 ^ 6 + f.x.toNat

/-- The fields of FStx in their places. -/
def putFStx (f : FStx) : Nat :=
  f.o.toNat * 2 ^ 18 + f.r.toNat * 2 ^ 12 + f.b.toNat * 2 ^ 6 + f.x.toNat

/-- The fields of FLp in their places. -/
def putFLp (f : FLp) : Nat :=
  f.n.toNat * 2 ^ 19 + ofBool f.w * 2 ^ 17 + f.d.toNat * 2 ^ 12 + f.b.toNat * 2 ^ 6 + f.z.toNat * 2 ^ 4 + f.f.toNat

/-- The fields of FBinit in their places. -/
def putFBinit (f : FBinit) : Nat :=
  f.o.toNat * 2 ^ 18 + f.b.toNat * 2 ^ 6 + f.x.toNat

/-- The fields of FFence in their places. -/
def putFFence (f : FFence) : Nat :=
  f.s.toNat * 2 ^ 16 + f.m.toNat

/-- The fields of FXfence in their places. -/
def putFXfence (f : FXfence) : Nat :=
  f.s.toNat * 2 ^ 16 + f.a.toNat * 2 ^ 13 + f.b.toNat * 2 ^ 10

/-- The fields of FVr in their places. -/
def putFVr (f : FVr) : Nat :=
  f.e.toNat * 2 ^ 19 + f.d.toNat * 2 ^ 14 + ofBool f.w * 2 ^ 13 + f.a.toNat * 2 ^ 7 + f.b.toNat * 2 ^ 1

/-- The fields of FV1 in their places. -/
def putFV1 (f : FV1) : Nat :=
  f.e.toNat * 2 ^ 19 + f.d.toNat * 2 ^ 14 + ofBool f.w * 2 ^ 13 + f.a.toNat * 2 ^ 7

/-- The fields of FVi in their places. -/
def putFVi (f : FVi) : Nat :=
  f.e.toNat * 2 ^ 19 + f.d.toNat * 2 ^ 14 + ofBool f.w * 2 ^ 13 + f.a.toNat * 2 ^ 7 + f.i.toNat * 2 ^ 1

/-- The fields of FVp in their places. -/
def putFVp (f : FVp) : Nat :=
  f.d.toNat * 2 ^ 14 + ofBool f.w * 2 ^ 13 + f.a.toNat * 2 ^ 7 + f.b.toNat * 2 ^ 1

/-- The fields of FVp1 in their places. -/
def putFVp1 (f : FVp1) : Nat :=
  f.d.toNat * 2 ^ 14 + ofBool f.w * 2 ^ 13 + f.a.toNat * 2 ^ 7

/-- The fields of FMset in their places. -/
def putFMset (f : FMset) : Nat :=
  f.a.toNat * 2 ^ 16 + f.n.toNat

/-- The fields of FD in their places. -/
def putFD (f : FD) : Nat :=
  f.d.toNat * 2 ^ 5

/-- The fields of FAd in their places. -/
def putFAd (f : FAd) : Nat :=
  f.a.toNat * 2 ^ 16 + f.d.toNat * 2 ^ 5

/-- The fields of FMclr in their places. -/
def putFMclr (f : FMclr) : Nat :=
  f.a.toNat * 2 ^ 16 + f.b.toNat * 2 ^ 10 + f.z.toNat

/-- The fields of FCopy in their places. -/
def putFCopy (f : FCopy) : Nat :=
  f.a.toNat * 2 ^ 16 + f.d.toNat * 2 ^ 5 + f.e.toNat

/-- The fields of FLink in their places. -/
def putFLink (f : FLink) : Nat :=
  f.a.toNat * 2 ^ 16 + f.d.toNat * 2 ^ 5 + f.p.toNat

/-- The fields of FAbi in their places. -/
def putFAbi (f : FAbi) : Nat :=
  f.a.toNat * 2 ^ 16 + f.b.toNat * 2 ^ 10 + f.i.toNat

/-- The fields of FAi in their places. -/
def putFAi (f : FAi) : Nat :=
  f.a.toNat * 2 ^ 16 + f.i.toNat

/-- The fields of FAdi in their places. -/
def putFAdi (f : FAdi) : Nat :=
  f.a.toNat * 2 ^ 16 + f.d.toNat * 2 ^ 5 + f.i.toNat

/-- The fields of FAbd in their places. -/
def putFAbd (f : FAbd) : Nat :=
  f.a.toNat * 2 ^ 16 + f.b.toNat * 2 ^ 10 + f.d.toNat * 2 ^ 5

/-- The fields of FAb in their places. -/
def putFAb (f : FAb) : Nat :=
  f.a.toNat * 2 ^ 16 + f.b.toNat * 2 ^ 10

/-- The fields of FTlb in their places. -/
def putFTlb (f : FTlb) : Nat :=
  f.a.toNat * 2 ^ 16 + f.e.toNat

/-- The fields of FPblk in their places. -/
def putFPblk (f : FPblk) : Nat :=
  f.p.toNat * 2 ^ 21 + f.n.toNat * 2 ^ 18 + f.m.toNat * 2 ^ 10

/-- The fields of FLimm in their places. -/
def putFLimm (f : FLimm) : Nat :=
  f.p.toNat

/-- The fields of FPmap in their places. -/
def putFPmap (f : FPmap) : Nat :=
  f.a.toNat * 2 ^ 21 + f.b.toNat * 2 ^ 18 + f.c.toNat * 2 ^ 15 + f.d.toNat * 2 ^ 12 + f.e.toNat * 2 ^ 9 + f.f.toNat * 2 ^ 6 + f.g.toNat * 2 ^ 3 + f.h.toNat

/-- The encoder: the 32-bit word of an instruction with chain bit 0 (R36, R55 to R62); a device step has none. -/
def encodeWord : Instr → Option Nat
  | .nop => some 0x00400000
  | .br f => some (0x00800000 + putFDisp f)
  | .brl f => some (0x00C00000 + putFDisp f)
  | .jr f => some (0x01000000 + putFA f)
  | .jrl f => some (0x01400000 + putFJrl f)
  | .bz f => some (0x01800000 + putFCc f)
  | .bnz f => some (0x01C00000 + putFCc f)
  | .bltz f => some (0x02000000 + putFCc f)
  | .bgez f => some (0x02400000 + putFCc f)
  | .bp f => some (0x02800000 + putFCp f)
  | .bnp f => some (0x02C00000 + putFCp f)
  | .bany f => some (0x03000000 + putFCp f)
  | .bnone f => some (0x03400000 + putFCp f)
  | .bloop f => some (0x03800000 + putFDisp f)
  | .lcset f => some (0x03C00000 + putFCc f)
  | .halt => some 0x04000000
  | .trap f => some (0x04400000 + putFDisp f)
  | .cret => some 0x04800000
  | .xret => some 0x04C00000
  | .waitev f => some (0x05000000 + putFMask f)
  | .brk f => some (0x05400000 + putFDisp f)
  | .add f => some (0x10100000 + putFSr f)
  | .sub f => some (0x10200000 + putFSr f)
  | .and f => some (0x10300000 + putFSr f)
  | .or f => some (0x10400000 + putFSr f)
  | .xor f => some (0x10500000 + putFSr f)
  | .andn f => some (0x10600000 + putFSr f)
  | .sll f => some (0x10700000 + putFSr f)
  | .srl f => some (0x10800000 + putFSr f)
  | .sra f => some (0x10900000 + putFSr f)
  | .mul f => some (0x10A00000 + putFSr f)
  | .mulh f => some (0x10B00000 + putFSr f)
  | .mulhu f => some (0x10C00000 + putFSr f)
  | .div f => some (0x10D00000 + putFSr f)
  | .divu f => some (0x10E00000 + putFSr f)
  | .rem f => some (0x10F00000 + putFSr f)
  | .remu f => some (0x11000000 + putFSr f)
  | .min f => some (0x11100000 + putFSr f)
  | .max f => some (0x11200000 + putFSr f)
  | .minu f => some (0x11300000 + putFSr f)
  | .maxu f => some (0x11400000 + putFSr f)
  | .slt f => some (0x11500000 + putFSr f)
  | .sltu f => some (0x11600000 + putFSr f)
  | .seq f => some (0x11700000 + putFSr f)
  | .sne f => some (0x11800000 + putFSr f)
  | .addw f => some (0x11900000 + putFSr f)
  | .subw f => some (0x11A00000 + putFSr f)
  | .mulw f => some (0x11B00000 + putFSr f)
  | .cmovz f => some (0x11C00000 + putFSr f)
  | .cmovnz f => some (0x11D00000 + putFSr f)
  | .bfx f => some (0x11E00000 + putFSr f)
  | .bfi f => some (0x11F00000 + putFSr f)
  | .clz f => some (0x12000000 + putFS1 f)
  | .ctz f => some (0x12100000 + putFS1 f)
  | .popc f => some (0x12200000 + putFS1 f)
  | .sextb f => some (0x12300000 + putFS1 f)
  | .sexth f => some (0x12400000 + putFS1 f)
  | .sextw f => some (0x12500000 + putFS1 f)
  | .zextw f => some (0x12600000 + putFS1 f)
  | .bswap f => some (0x12700000 + putFS1 f)
  | .addi f => some (0x14000000 + putFSi f)
  | .andi f => some (0x14100000 + putFSi f)
  | .ori f => some (0x14200000 + putFSi f)
  | .xori f => some (0x14300000 + putFSi f)
  | .slli f => some (0x14400000 + putFSi f)
  | .srli f => some (0x14500000 + putFSi f)
  | .srai f => some (0x14600000 + putFSi f)
  | .slti f => some (0x14700000 + putFSi f)
  | .sltiu f => some (0x14800000 + putFSi f)
  | .muli f => some (0x14900000 + putFSi f)
  | .li f => some (0x16000000 + putFSl f)
  | .lui f => some (0x16100000 + putFSl f)
  | .fadd f => some (0x18000000 + putFSr f)
  | .fsub f => some (0x18100000 + putFSr f)
  | .fmul f => some (0x18200000 + putFSr f)
  | .fma f => some (0x18300000 + putFSr f)
  | .fmin f => some (0x18400000 + putFSr f)
  | .fmax f => some (0x18500000 + putFSr f)
  | .feq f => some (0x18600000 + putFSr f)
  | .flt f => some (0x18700000 + putFSr f)
  | .fle f => some (0x18800000 + putFSr f)
  | .fdiv f => some (0x18900000 + putFSr f)
  | .fsqrt f => some (0x18A00000 + putFS1 f)
  | .fcvtif f => some (0x18B00000 + putFS1 f)
  | .fcvtfi f => some (0x18C00000 + putFS1 f)
  | .csrr f => some (0x1C000000 + putFCsrR f)
  | .csrw f => some (0x1C100000 + putFCsrW f)
  | .csrs f => some (0x1C200000 + putFCsrW f)
  | .csrc f => some (0x1C300000 + putFCsrW f)
  | .scsrr f => some (0x1C400000 + putFCsrR f)
  | .scsrw f => some (0x1C500000 + putFCsrW f)
  | .scsrs f => some (0x1C600000 + putFCsrW f)
  | .scsrc f => some (0x1C700000 + putFCsrW f)
  | .ldb f => some (0x20400000 + putFLm f)
  | .ldbu f => some (0x20800000 + putFLm f)
  | .ldh f => some (0x20C00000 + putFLm f)
  | .ldhu f => some (0x21000000 + putFLm f)
  | .ldw f => some (0x21400000 + putFLm f)
  | .ldwu f => some (0x21800000 + putFLm f)
  | .ldd f => some (0x21C00000 + putFLm f)
  | .stb f => some (0x22000000 + putFSt f)
  | .sth f => some (0x22400000 + putFSt f)
  | .stw f => some (0x22800000 + putFSt f)
  | .std f => some (0x22C00000 + putFSt f)
  | .ldv f => some (0x23000000 + putFLm f)
  | .stv f => some (0x23400000 + putFSt f)
  | .ldvf f => some (0x23800000 + putFLm f)
  | .stvf f => some (0x23C00000 + putFSt f)
  | .ldvg f => some (0x24000000 + putFLx f)
  | .stvs f => some (0x24400000 + putFStx f)
  | .ldvb f => some (0x24800000 + putFLm f)
  | .ldp f => some (0x25000000 + putFLp f)
  | .aadd f => some (0x26000000 + putFLx f)
  | .amin f => some (0x26400000 + putFLx f)
  | .amax f => some (0x26800000 + putFLx f)
  | .aminu f => some (0x26C00000 + putFLx f)
  | .amaxu f => some (0x27000000 + putFLx f)
  | .aand f => some (0x27400000 + putFLx f)
  | .aor f => some (0x27800000 + putFLx f)
  | .axor f => some (0x27C00000 + putFLx f)
  | .aswp f => some (0x28000000 + putFLx f)
  | .acas f => some (0x28400000 + putFLx f)
  | .afadd f => some (0x28800000 + putFLx f)
  | .barv f => some (0x29000000 + putFLx f)
  | .bwait f => some (0x29400000 + putFLx f)
  | .binit f => some (0x29800000 + putFBinit f)
  | .fence f => some (0x2A000000 + putFFence f)
  | .xfence f => some (0x2A400000 + putFXfence f)
  | .vadd f => some (0x30200000 + putFVr f)
  | .vsub f => some (0x30400000 + putFVr f)
  | .vmul f => some (0x30600000 + putFVr f)
  | .vmulh f => some (0x30800000 + putFVr f)
  | .vmulhu f => some (0x30A00000 + putFVr f)
  | .vand f => some (0x30C00000 + putFVr f)
  | .vor f => some (0x30E00000 + putFVr f)
  | .vxor f => some (0x31000000 + putFVr f)
  | .vshl f => some (0x31200000 + putFVr f)
  | .vshr f => some (0x31400000 + putFVr f)
  | .vsra f => some (0x31600000 + putFVr f)
  | .vmin f => some (0x31800000 + putFVr f)
  | .vmax f => some (0x31A00000 + putFVr f)
  | .vminu f => some (0x31C00000 + putFVr f)
  | .vmaxu f => some (0x31E00000 + putFVr f)
  | .vabs f => some (0x32000000 + putFV1 f)
  | .vneg f => some (0x32200000 + putFV1 f)
  | .vadds f => some (0x32400000 + putFVr f)
  | .vsubs f => some (0x32600000 + putFVr f)
  | .vmac f => some (0x32800000 + putFVr f)
  | .vdot4 f => some (0x32A00000 + putFVr f)
  | .vmulw f => some (0x32C00000 + putFVr f)
  | .vaddw f => some (0x32E00000 + putFVr f)
  | .vshli f => some (0x33000000 + putFVi f)
  | .vshri f => some (0x33200000 + putFVi f)
  | .vsrai f => some (0x33400000 + putFVi f)
  | .vaddi f => some (0x33600000 + putFVi f)
  | .vceq f => some (0x34000000 + putFVr f)
  | .vcne f => some (0x34200000 + putFVr f)
  | .vclt f => some (0x34400000 + putFVr f)
  | .vcle f => some (0x34600000 + putFVr f)
  | .vcltu f => some (0x34800000 + putFVr f)
  | .vcleu f => some (0x34A00000 + putFVr f)
  | .pand f => some (0x35000000 + putFVp f)
  | .por f => some (0x35200000 + putFVp f)
  | .pxor f => some (0x35400000 + putFVp f)
  | .pandn f => some (0x35600000 + putFVp f)
  | .pnot f => some (0x35800000 + putFVp1 f)
  | .pany f => some (0x35A00000 + putFVp1 f)
  | .ppopc f => some (0x35C00000 + putFVp1 f)
  | .pfirst f => some (0x35E00000 + putFVp1 f)
  | .vmov f => some (0x36000000 + putFV1 f)
  | .vbcast f => some (0x36200000 + putFV1 f)
  | .vslup f => some (0x36400000 + putFVr f)
  | .vsldn f => some (0x36600000 + putFVr f)
  | .vperm f => some (0x36800000 + putFVr f)
  | .vtos f => some (0x36A00000 + putFVr f)
  | .vins f => some (0x36C00000 + putFVr f)
  | .vradd f => some (0x37000000 + putFV1 f)
  | .vrmax f => some (0x37200000 + putFV1 f)
  | .vrmin f => some (0x37400000 + putFV1 f)
  | .vrfadd f => some (0x37600000 + putFV1 f)
  | .vrfmax f => some (0x37800000 + putFV1 f)
  | .vfadd f => some (0x38000000 + putFVr f)
  | .vfsub f => some (0x38200000 + putFVr f)
  | .vfmul f => some (0x38400000 + putFVr f)
  | .vfma f => some (0x38600000 + putFVr f)
  | .vfms f => some (0x38800000 + putFVr f)
  | .vfmin f => some (0x38A00000 + putFVr f)
  | .vfmax f => some (0x38C00000 + putFVr f)
  | .vfabs f => some (0x38E00000 + putFV1 f)
  | .vfneg f => some (0x39000000 + putFV1 f)
  | .vfceq f => some (0x39200000 + putFVr f)
  | .vfclt f => some (0x39400000 + putFVr f)
  | .vfcle f => some (0x39600000 + putFVr f)
  | .vfcun f => some (0x39800000 + putFVr f)
  | .vfdiv f => some (0x39A00000 + putFVr f)
  | .vfsqrt f => some (0x39C00000 + putFV1 f)
  | .vfrsq f => some (0x39E00000 + putFV1 f)
  | .vcvtif f => some (0x3A000000 + putFV1 f)
  | .vcvtfi f => some (0x3A200000 + putFV1 f)
  | .vpack8 f => some (0x3A400000 + putFV1 f)
  | .vunpk8 f => some (0x3A600000 + putFV1 f)
  | .vpack16 f => some (0x3A800000 + putFV1 f)
  | .vunpk16 f => some (0x3AA00000 + putFV1 f)
  | .vrnse f => some (0x3B100000 + putFVp1 f)
  | .vrnsd f => some (0x3B300000 + putFVp1 f)
  | .vrnsadd f => some (0x3B500000 + putFVp f)
  | .vrnsmul f => some (0x3B700000 + putFVp f)
  | .vrnsmac f => some (0x3B900000 + putFVp f)
  | .mldtScalar f => some (0x40400000 + putFA f)
  | .mldtVector f => some (0x40400001 + putFA f)
  | .mset f => some (0x40800000 + putFMset f)
  | .mgo f => some (0x40C00000 + putFD f)
  | .mstat f => some (0x41000000 + putFD f)
  | .mwait f => some (0x41400000 + putFAd f)
  | .mclr f => some (0x41800000 + putFMclr f)
  | .mabort f => some (0x41C00000 + putFD f)
  | .msplit f => some (0x42000000 + putFA f)
  | .mwb f => some (0x42400000 + putFAd f)
  | .cpy f => some (0x50400000 + putFCopy f)
  | .cwait f => some (0x50800000 + putFCopy f)
  | .cstat f => some (0x50C00000 + putFCopy f)
  | .ccan f => some (0x51000000 + putFCopy f)
  | .lsend f => some (0x52000000 + putFLink f)
  | .lrecv f => some (0x52400000 + putFLink f)
  | .lradd f => some (0x52800000 + putFLink f)
  | .lsched f => some (0x52C00000 + putFAd f)
  | .lstat f => some (0x53000000 + putFAd f)
  | .sig f => some (0x54000000 + putFAbi f)
  | .swait f => some (0x54400000 + putFAi f)
  | .stry f => some (0x54800000 + putFAdi f)
  | .sset f => some (0x54C00000 + putFAi f)
  | .hpush f => some (0x56000000 + putFAbd f)
  | .hpop f => some (0x56400000 + putFD f)
  | .hupd f => some (0x56800000 + putFAbi f)
  | .hread f => some (0x56C00000 + putFAd f)
  | .hsum f => some (0x57000000 + putFD f)
  | .hclose f => some (0x57400000 + putFD f)
  | .hdone f => some (0x57800000 + putFA f)
  | .hopen f => some (0x57C00000 + putFAd f)
  | .launch f => some (0x58000000 + putFAd f)
  | .expectAdd f => some (0x58400000 + putFA f)
  | .post f => some (0x58800000 + putFAb f)
  | .jwait f => some (0x58C00000 + putFAd f)
  | .rget f => some (0x59000000 + putFD f)
  | .suspend f => some (0x59400000 + putFA f)
  | .tdone => some 0x59800000
  | .handoff f => some (0x59C00000 + putFAb f)
  | .tlbinv f => some (0x5C000000 + putFTlb f)
  | .pblk f => some (0x61000000 + putFPblk f)
  | .limm f => some (0x62000000 + putFLimm f)
  | .pmap f => some (0x63000000 + putFPmap f)
  | .transitDetection .. | .engineRecomputation .. | .halfRateEnd .. | .asyncTrapDelivery ..
  | .completionHandlerEntry .. | .swaitWake .. | .cwaitWake .. | .mwaitWake .. | .jwaitWake .. | .waitevWake ..
  | .bwaitRead .. | .bwaitLimit .. | .heldEndingWordRelease .. | .instructionCacheFill .. | .parameterBlockFill ..
  | .matrixCommandStart .. | .matrixStep .. | .matrixStallResume .. | .mwbRow .. | .matrixClearRun ..
  | .matrixCompletion .. | .copyBegin .. | .copyUnitRetire .. | .copyStallResume .. | .copyCompletion .. | .walk ..
  | .tlbinvComplete .. | .closingPoint .. | .readLineArrival .. | .writePerformed .. | .retry ..
  | .thermalStateChange .. | .ownerEntryEffect .. | .sctlQuiesce .. | .quiesced .. | .sctlRatio ..
  | .laneRetrainComplete .. | .plateFill .. | .plateWrite .. | .plateCommit .. | .resealCommit ..
  | .keyRotationGroup .. | .patrolScrub .. | .meshArrival .. | .sigDelivery .. | .portEWriteApply ..
  | .gangDispatch .. | .tileClaim .. | .jobCompletion .. | .continuationResume .. | .preemptReq .. | .preemption ..
  | .drainLimit .. | .proofRecordWrite .. | .resumption .. | .windowCrossing .. | .monitorWindowEnd ..
  | .windowRestart .. | .vtgtRaise .. | .vtgtLower .. | .operatingPointChange .. | .almanacWrite ..
  | .ldoTrimUpdate .. | .railStep .. | .railHoldExpiry .. | .vminSample .. | .vminRearm ..
  | .thermalObserverUpdate .. | .injctlEn .. | .flitReceive .. | .nak .. | .retrainComplete .. | .portHold ..
  | .clearFlit .. | .dataFlit .. | .lastFlit .. | .doneFlit .. | .controlFlit .. | .linkCompletion ..
  | .scheduleStep .. | .memberDone .. | .memberCommit .. | .memberFail .. | .scheduleRestart ..
  | .coordinatorQuery .. | .memberTimeout .. | .twinWindowClose .. | .twinDigest .. | .interimDigest ..
  | .twinLost .. | .launchWindowWrite .. | .functionLevelReset .. | .partCreate .. | .partDestroy ..
  | .tileAssign .. | .vfBind .. | .suptab .. | .spanGrant .. | .keyRotate .. | .grantMask .. | .railVote ..
  | .preemptCmd .. | .stackCtl .. | .almanacCmd .. | .twinSetup .. | .injectCmd .. | .powerState .. | .handover ..
  | .accept .. | .rootSet .. | .ownerClaim .. | .drvfeat .. | .coldStart .. | .warmStart .. | .registerWrite ..
  | .resultDelivery .. | .linkTraining .. | .debugPortRequest .. | .msiXCoalescingTimeout .. => none
  | .emergencyGating | .gatingEnd | .handoverExpiry | .powerLoss => none

/-- An instruction read from the low `nbits` bits of `w` as the opcode table numbers them: one little-endian 32-bit word
(R32). -/
noncomputable def decodeTableWord (nbits w : Nat) : Option Instr :=
  match decodeWord (w % 2 ^ nbits % 2 ^ 32) with
  | .ok i => some i
  | .error _ => none

end Sys2Proof
end

