-- ==== Sys2Proof/Machine/Local.lean ====
section
/-! DEFINITION. The L class: R88 to R97, R100 to R102, R109, R142 to R146, R205 to R208, R296 and R302. -/

namespace Sys2Proof.Machine

/-- Base plus a scaled signed offset, modulo 2^64 (R88). -/
def lmAddr (s : State) (i : Instr) (scale : Nat) : Nat :=
  ((s.srcS i 0).v + BitVec.ofInt 64 (s.immS i * scale)).toNat

/-! ## Scalar loads and stores (R93, R94) -/

/-- A scalar load of `n` bytes. -/
def loadS (i : Instr) (f : FLm) (n : Nat) (sext : Bool) (s : State) : WordRes :=
  match s.check (s.srcS i 0).p (lmAddr s i n) n n false false false with
  | .error e => .trap e.1 e.2 s
  | .ok l => .ok (s.issueAct l f.o (.load l.key n sext) (.s f.d f.w) true)

/-- A scalar store of `n` bytes. -/
def storeS (i : Instr) (f : FSt) (n : Nat) (s : State) : WordRes :=
  let d := s.srcS i 2
  match s.check (s.srcS i 0).p (lmAddr s i n) n n true false d.p with
  | .error e => .trap e.1 e.2 s
  | .ok l => .ok (s.issueAct l f.o (.write [(l.key, n, d.v.toNat)] [d.p]) .none false)

def execLdb (f : FLm) (s : State) := runWord (.ldb f) (loadS (.ldb f) f 1 true) s
def execLdbu (f : FLm) (s : State) := runWord (.ldbu f) (loadS (.ldbu f) f 1 false) s
def execLdh (f : FLm) (s : State) := runWord (.ldh f) (loadS (.ldh f) f 2 true) s
def execLdhu (f : FLm) (s : State) := runWord (.ldhu f) (loadS (.ldhu f) f 2 false) s
def execLdw (f : FLm) (s : State) := runWord (.ldw f) (loadS (.ldw f) f 4 true) s
def execLdwu (f : FLm) (s : State) := runWord (.ldwu f) (loadS (.ldwu f) f 4 false) s
def execLdd (f : FLm) (s : State) := runWord (.ldd f) (loadS (.ldd f) f 8 false) s
def execStb (f : FSt) (s : State) := runWord (.stb f) (storeS (.stb f) f 1) s
def execSth (f : FSt) (s : State) := runWord (.sth f) (storeS (.sth f) f 2) s
def execStw (f : FSt) (s : State) := runWord (.stw f) (storeS (.stw f) f 4) s
def execStd (f : FSt) (s : State) := runWord (.std f) (storeS (.std f) f 8) s

/-! ## Vector loads and stores (R95) -/

/-- Lane bits 4j spread over the four bytes of lane j (R45, R95). -/
def laneMask (m : Pred) : Pred :=
  BitVec.ofNat 256 ((m.toNat &&& 0x1111111111111111111111111111111111111111111111111111111111111111) * 15)

/-- The destination of a vector load. -/
def vdst (s : State) (d : BitVec 5) (w : Bool) (m : Pred) : MemDst := .v (physV s.iss.pre.vrb d.toNat) w m

/-- A vector load all of whose lanes are masked off: no access, the old value or zero (R14, R45). -/
def noLanes (i : Instr) (d : BitVec 5) (w : Bool) (s : State) : WordRes := .ok (s.resV i d w (s.oldV d w))

/-- LDV (R95). -/
def ldv (i : Instr) (f : FLm) (s : State) : WordRes :=
  if s.mask = 0 then noLanes i f.d f.w s
  else match s.check (s.srcS i 0).p (lmAddr s i 256) 256 256 false false false with
    | .error e => .trap e.1 e.2 s
    | .ok l => .ok (s.issueAct l f.o (.loadV l.key s.mask) (vdst s f.d f.w s.mask) true)

/-- LDVB (R95). -/
def ldvb (i : Instr) (f : FLm) (s : State) : WordRes :=
  if s.mask = 0 then noLanes i f.d f.w s
  else match s.check (s.srcS i 0).p (lmAddr s i 256) 64 64 false false false with
    | .error e => .trap e.1 e.2 s
    | .ok l => .ok (s.issueAct l f.o (.loadB l.key s.mask) (vdst s f.d f.w s.mask) true)

/-- The bytes of one doubleword that a mask selects, one piece each. -/
def dwBytes (key x m : Nat) : Nat → List (Nat × Nat × Nat)
  | 0 => []
  | n + 1 => dwBytes key x m n ++ (if bit m n then [(key + n, 1, bits x (8 * n) 8)] else [])

/-- The pieces of a masked write of `n` doublewords from `key`: bit i of `m` selects byte i, bit k of `marks` is the mark of
doubleword k (R91, R239). -/
def pieces (key x m marks : Nat) : Nat → List ((Nat × Nat × Nat) × Bool)
  | 0 => []
  | n + 1 =>
    let dm := bits m (8 * n) 8
    let dx := bits x (64 * n) 64
    pieces key x m marks n ++
      (if dm = 255 then [((key + 8 * n, 8, dx), bit marks n)]
       else (dwBytes (key + 8 * n) dx dm 8).map fun p => (p, bit marks n))

/-- Whether a selected byte lies in a marked doubleword. -/
def maskedPoison (m marks : Nat) (n : Nat) : Bool :=
  (List.range n).any fun k => bits m (8 * k) 8 != 0 && bit marks k

/-- A masked write issued as one access. -/
def writeAct (l : List ((Nat × Nat × Nat) × Bool)) : MemAct := .write (l.map (·.1)) (l.map (·.2))

/-- STV (R95). -/
def stv (i : Instr) (f : FSt) (s : State) : WordRes :=
  let d := s.srcV i 2
  let m := s.mask
  if m = 0 then .ok s
  else match s.check (s.srcS i 0).p (lmAddr s i 256) 256 256 true false (maskedPoison m.toNat d.p.toNat 32) with
    | .error e => .trap e.1 e.2 s
    | .ok l => .ok (s.issueAct l f.o (writeAct (pieces l.key d.v.toNat m.toNat d.p.toNat 32)) .none false)

/-- Bytes of one chunk of a format (R95). -/
def chunkBytes (fmt : Nat) : Nat := 64 * fmtBits fmt / 8

/-- The format that LDVF and STVF use at a place: FP32 in the accumulator store, the region's elsewhere, RAW moving
bytes unchanged in chunks of 256 (R90, R95). -/
def locFmt (l : Loc) : Nat :=
  let k := if l.acc then fmtFP32 else entFMT l.entry
  if k = fmtRAW then fmtFP32 else k

/-- The parameter record of LDVF and STVF at a place (R241). -/
def locRec (c : Ctx) (l : Loc) : BitVec 512 :=
  if !l.acc && entPRUSE l.entry then c.recs.getD (entPR l.entry) 0 else c.recs.getD c.prsel.toNat 0

/-- The active lanes of a block of 32: none, all or some. -/
def blockOn (m : Pred) (blk : Nat) : Option Bool :=
  let l := (List.range 32).map fun j => laneOn m (32 * blk + j)
  if l.all id then some true else if l.any id then none else some false

/-- Some active lane of a block of 32 of a register is poisoned. -/
def blockP (x : VVal) (m : Pred) (blk : Nat) : Bool :=
  (List.range 32).any fun j => laneOn m (32 * blk + j) && bit x.p.toNat ((32 * blk + j) / 2)

/-- The checks of one scale byte, in the order of its element's (R90, R101): its place, its format and, where the block `p`oisons it,
that it lies in the tile. -/
def scaleCheck (s : State) (b : Nat) (store p : Bool) : Except (Nat × Nat) Loc :=
  match s.locate s.iss.tile s.iss.slot s.iss.pre b 1 store with
  | .error e => .error e
  | .ok l =>
    if !l.acc && fmtReserved (entFMT l.entry) then .error (cFORMAT, b)
    else if store && p && l.remote then .error (cPOISON, b)
    else .ok l

/-- The checks of the scale bytes of the blocks with an active lane, at `b` and `b + 1`: where each block has its byte; a block
without an active lane makes no access (R45, R101). -/
def scaleChecks (s : State) (b : Nat) (store : Bool) (x : VVal) (l : Loc) : Except (Nat × Nat) (Loc × Loc) :=
  match (if blockOn1 s.mask 0 then scaleCheck s b store (blockP x s.mask 0) else .ok l) with
  | .error e => .error e
  | .ok l0 => match (if blockOn1 s.mask 1 then scaleCheck s (b + 1) store (blockP x s.mask 1) else .ok l) with
    | .error e => .error e
    | .ok l1 => .ok (l0, l1)

/-- The address of a chunk's first scale byte (R101). -/
def scaleAddr (c : Ctx) (l : Loc) (a : Nat) : Nat := recSPBASE (locRec c l) + (a - recEBASE (locRec c l)) / 16

/-- The checks of the elements of LDVF and STVF in the order 1, 2, 4, 5, 6, 7, 3, 8 (R90): their place and format. A store's block of
MXFP4 with some of its lanes active is FORMAT (R95), after the alignment (DEDUCED, log 80). -/
def elemCheck (s : State) (i : Instr) (store : Bool) : Except (Nat × Nat) (Loc × Nat) :=
  let a := lmAddr s i 256
  if (s.srcS i 0).p then .error (cPOISON, 0)
  else match s.locate s.iss.tile s.iss.slot s.iss.pre a 1 store with
    | .error e => .error e
    | .ok l =>
      let fmt := locFmt l
      if fmtReserved fmt then .error (cFORMAT, a)
      else if a % chunkBytes fmt ≠ 0 then .error (cMISALIGNED, a)
      else if store && fmt == fmtMXFP4 && ((blockOn s.mask 0).isNone || (blockOn s.mask 1).isNone) then .error (cFORMAT, a)
      else if store && l.remote && (blockP (s.srcV i 2) s.mask 0 || blockP (s.srcV i 2) s.mask 1) then .error (cPOISON, a)
      else .ok (l, fmt)

/-- The checks of LDVF and STVF: those of the elements, and after them, for MXFP4, EBASE and those of the scale accesses (R101; DEDUCED,
log 80): the place, the format and the places of the scale bytes. -/
def chunkCheck (s : State) (i : Instr) (store : Bool) : Except (Nat × Nat) (Loc × Nat × Loc × Loc) :=
  match elemCheck s i store with
  | .error e => .error e
  | .ok (l, fmt) =>
    if fmt = fmtMXFP4 then
      let a := lmAddr s i 256
      let eb := recEBASE (locRec s.iss.pre l)
      if a < eb ∨ eb % 32 ≠ 0 then .error (cFORMAT, a)
      else match scaleChecks s (scaleAddr s.iss.pre l a) store (if store then s.srcV i 2 else {}) l with
        | .error e => .error e
        | .ok (x, y) => .ok (l, fmt, x, y)
    else .ok (l, fmt, l, l)

/-- A chunk whose elements are 32 bits moves unchanged (R95). -/
def plainFmt (fmt : Nat) : Bool := fmtBits fmt == 32

/-- LDVF (R95, R101, R102). -/
def ldvf (i : Instr) (f : FLm) (s : State) : WordRes :=
  let m := laneMask s.mask
  if m = 0 then noLanes i f.d f.w s
  else match chunkCheck s i false with
    | .error e => .trap e.1 e.2 s
    | .ok (l, fmt, x, y) =>
      let act := if plainFmt fmt then .loadV l.key m else .loadF l.key x.key y.key fmt m
      .ok (s.issueAct { l with remote := l.remote || x.remote || y.remote } f.o act (vdst s f.d f.w m) true)

/-- Encode_f of one 32-bit lane for STVF, VPACK8 and VPACK16 (R115, R116): an INT32 lane that narrows to INT8 or INT16 is an integer
source, clamped without NV (DEDUCED, log 91). -/
def encodeLane (fmt : Nat) (r : BitVec 512) (rm x : Nat) : Nat × Flags :=
  if fmtIsInt fmt then (encodeIntI (fmtBits fmt) r (signed x 32), 0)
  else encodeFP fmt r rm (fp32.decode x)

/-- Marks of the doublewords of a chunk whose element `j` of `b` bits comes from register chunk j / 2, active lanes only. -/
def chunkMarks (x : VVal) (m : Pred) (b : Nat) : Nat :=
  (List.range 64).foldl (fun acc j =>
    if laneOn m j && bit x.p.toNat (j / 2) then acc ||| 2 ^ (j * b / 64) else acc) 0

/-- The bytes that the active lanes of a chunk occupy. -/
def chunkMask (m : Pred) (bytes : Nat) : Nat :=
  ofBools ((List.range 64).flatMap fun j => List.replicate bytes (laneOn m j))

/-- A scale byte written by STVF beside its elements: an access of its own where it lies in another tile. -/
def scaleWrite (f : FSt) (on : Bool) (l : Loc) (v : Nat) (p : Bool) (s : State) : State :=
  if on then s.issueAct l f.o (.write [(l.key, 1, v)] [p]) .none false else s

/-- STVF to MXFP4 (R95, R100, R117): each block whose lanes are active, with its scale byte. -/
def stvfMx (f : FSt) (l l0 l1 : Loc) (x : VVal) (r : BitVec 512) (s : State) : WordRes :=
  let m := s.mask
  let b0 := blockOn1 m 0
  let b1 := blockOn1 m 1
  let lanes := elems x.v.toNat 4 64
  let enc := fun (on : Bool) (k : Nat) =>
    if on then encodeMX r s.iss.pre.rm (((lanes.drop (32 * k)).take 32).map fp32.decode)
    else (List.replicate 32 0, 0, 0)
  let e0 := enc b0 0
  let e1 := enc b1 1
  let nib := fun (l : List Nat) => l.foldr (fun n acc => acc * 16 + n % 16) 0
  let marks := (if blockP x m 0 then 3 else 0) + (if blockP x m 1 then 12 else 0)
  let bm := (if b0 then 0xFFFF else 0) + (if b1 then 0xFFFF0000 else 0)
  let s1 := s.issueAct l f.o (writeAct (pieces l.key (nib e0.1 + nib e1.1 * 2 ^ 128) bm marks 4)) .none false
  .ok ((scaleWrite f b1 l1 e1.2.1 (blockP x m 1) (scaleWrite f b0 l0 e0.2.1 (blockP x m 0) s1)).orFcsr (e0.2.2 ||| e1.2.2))

/-- STVF (R95). -/
def stvf (i : Instr) (f : FSt) (s : State) : WordRes :=
  let m := s.mask
  if laneMask m = 0 then .ok s
  else match chunkCheck s i true with
    | .error e => .trap e.1 e.2 s
    | .ok (l, fmt, l0, l1) =>
      let x := s.srcV i 2
      let r := locRec s.iss.pre l
      if fmt = fmtMXFP4 then stvfMx f l l0 l1 x r s
      else
        let b := fmtBits fmt
        let enc := (elems x.v.toNat 4 64).map fun y =>
          if plainFmt fmt then (y, (0 : Flags)) else encodeLane fmt r s.iss.pre.rm y
        let fl := orAll (enc.zipIdx.map fun e => if laneOn m e.2 then e.1.2 else 0)
        .ok ((s.issueAct l f.o
          (writeAct (pieces l.key (ofElems (b / 8) (enc.map (·.1))) (chunkMask m (b / 8)) (chunkMarks x m b) b)) .none
          false).orFcsr fl)

def execLdv (f : FLm) (s : State) := runWord (.ldv f) (ldv (.ldv f) f) s
def execStv (f : FSt) (s : State) := runWord (.stv f) (stv (.stv f) f) s
def execLdvf (f : FLm) (s : State) := runWord (.ldvf f) (ldvf (.ldvf f) f) s
def execStvf (f : FSt) (s : State) := runWord (.stvf f) (stvf (.stvf f) f) s
def execLdvb (f : FLm) (s : State) := runWord (.ldvb f) (ldvb (.ldvb f) f) s

/-! ## Gather and scatter (R96) -/

/-- Lanes performed in order until one fails: the state, the lanes performed so far, and the failure. -/
def runLanes (act : State → Nat → Except (Nat × Nat) State) :
    List Nat → State → Nat → State × Nat × Option (Nat × Nat)
  | [], s, done => (s, done, none)
  | j :: r, s, done =>
    match act s j with
    | .error e => (s, done, some e)
    | .ok s' => runLanes act r s' (done ||| 2 ^ j)

/-- The lanes that a gather or scatter performs: active, and not performed before the resumption (R96, R340). -/
def lanesOf (s : State) : List Nat :=
  (List.range 64).filter fun j => laneOn s.mask j && !bit s.iss.lmask.toNat j

/-- The address of lane j (R88) and whether its base or index is poisoned. -/
def laneAddr (s : State) (i : Instr) (j : Nat) : Nat × Bool :=
  let b := s.srcS i 0
  let x := s.srcV i 1
  ((b.v.toNat + elem x.v.toNat 4 j) % 2 ^ 64, b.p || chunkP x (4 * j))

/-- One gather lane. -/
def gatherLane (i : Instr) (f : FLx) (s : State) (j : Nat) : Except (Nat × Nat) State :=
  let a := laneAddr s i j
  match s.check a.2 a.1 4 4 false false false with
  | .error e => .error e
  | .ok l => .ok (s.issueLane l f.o (.lanes [(l.key, j)]) (.lane (if f.w then physV s.iss.pre.vrb f.d.toNat else 32) f.w) true)

/-- The chunks of which a bit of `m` selects every lane. -/
def wholeChunks (m : Nat) : BitVec 32 := BitVec.ofNat 32 (ofBools ((List.range 32).map fun c => bits m (2 * c) 2 == 3))

/-- What a gather finds in its destination: a chunk both of whose lanes are to be performed keeps no mark of what it held (R125). -/
def gatherOld (s : State) (f : FLx) : VVal :=
  let old := if f.w then s.cur.v.getD (physV s.iss.pre.vrb f.d.toNat) {} else {}
  { old with p := old.p &&& ~~~wholeChunks ((lanesOf s).foldl (fun x j => x ||| 2 ^ j) 0) }

/-- A gather begins: its destination and the latch hold what its lanes then replace. -/
def gatherStart (s : State) (f : FLx) : State :=
  let old := gatherOld s f
  s.modCur fun c => { c with v := if f.w then c.v.set (physV s.iss.pre.vrb f.d.toNat) old else c.v }.push 1 (.vector old)

/-- A gather stops at a lane: the latches stand as before, and each chunk with a lane that is not performed has its old mark (R96, R125). -/
def gatherStop (s : State) (f : FLx) (done : Nat) (c : Ctx) : Ctx :=
  let d := physV s.iss.pre.vrb f.d.toNat
  let back := (s.cur.v.getD d {}).p &&& ~~~(gatherOld s f).p &&& ~~~wholeChunks done
  { c with v := if f.w then c.v.modify d fun x => { x with p := x.p ||| back } else c.v, lat := s.cur.lat, pendL := false }

/-- LDVG (R96): the latch holds the result only when every lane is performed; a latch-only result that is resumed starts from zero
again (DEDUCED, log 81). -/
def ldvg (i : Instr) (f : FLx) (s : State) : WordRes :=
  let r := runLanes (gatherLane i f) (lanesOf s) (gatherStart s f) s.iss.lmask.toNat
  match r.2.2 with
  | none => .ok r.1
  | some e => .trap e.1 e.2
      (((r.1.modCur (gatherStop s f r.2.1)).dropLatch s.iss.tile s.iss.slot).modIss fun x =>
        { x with lmask := BitVec.ofNat 64 r.2.1 })

/-- One scatter lane. -/
def scatterLane (i : Instr) (f : FStx) (s : State) (j : Nat) : Except (Nat × Nat) State :=
  let a := laneAddr s i j
  let d := s.srcV i 2
  let p := chunkP d (4 * j)
  match s.check a.2 a.1 4 4 true false p with
  | .error e => .error e
  | .ok l => .ok (s.issueLane l f.o (.write [(l.key, 4, elem d.v.toNat 4 j)] [p]) .none false)

/-- STVS (R96). -/
def stvs (i : Instr) (f : FStx) (s : State) : WordRes :=
  let r := runLanes (scatterLane i f) (lanesOf s) s s.iss.lmask.toNat
  match r.2.2 with
  | none => .ok r.1
  | some e => .trap e.1 e.2 (r.1.modIss fun x => { x with lmask := BitVec.ofNat 64 r.2.1 })

def execLdvg (f : FLx) (s : State) := runWord (.ldvg f) (ldvg (.ldvg f) f) s
def execStvs (f : FStx) (s : State) := runWord (.stvs f) (stvs (.stvs f) f) s

/-! ## Parameter windows (R31, R97) -/

/-- The bytes of a window read one by one: value, poison, and whether one lay at or beyond the size. -/
def ldpBytes (s : State) (base o size : Nat) : Nat → Except (Nat × Nat) (Nat × Bool × Bool)
  | 0 => .ok (0, false, false)
  | n + 1 =>
    match ldpBytes s base o size n with
    | .error e => .error e
    | .ok (x, p, out) =>
      if o + n < size then
        match s.locate s.iss.tile s.iss.slot s.iss.pre (base + o + n) 1 false with
        | .error e => .error e
        | .ok l => .ok (x + s.rd l.key 1 * 2 ^ (8 * n), p || s.poisoned l.key, out)
      else .ok (x, p, true)

/-- The doublewords that a window read touches. -/
def ldpDws (s : State) (base o size n : Nat) : List Nat :=
  ((List.range n).filterMap fun i =>
    if o + i < size then
      match s.locate s.iss.tile s.iss.slot s.iss.pre (base + o + i) 1 false with
      | .error _ => none
      | .ok l => some (l.key / 8)
    else none).eraseDups

/-- LDP (R97); the offset is not reduced modulo 2^64 (DEDUCED, log 11). -/
def ldp (i : Instr) (f : FLp) (s : State) : WordRes :=
  let c := s.iss.pre
  let w := f.n.toNat
  let size := (c.pws.getD w 0).toNat
  let base := (c.pwb.getD w 0).toNat
  let b := s.srcS i 0
  let n := 2 ^ f.z.toNat
  let o := b.v.toNat + s.immU i * n
  if size = 0 then .trap cPARAM_UNBOUND w s
  else if b.p then .trap cPOISON 0 s
  else if o % n ≠ 0 then .trap cMISALIGNED (base + o) s
  else
    let r := s.sramReads (ldpDws s base o size n)
    match ldpBytes r.1 base o size n with
    | .error e => .trap e.1 e.2 s
    | .ok (x, p, out) =>
      let s := r.2
      let s := if out then s.modCur fun c => { c with pwoob := true, newPwoob := true } else s
      .ok (s.resS i f.d f.w { v := BitVec.ofNat 64 x, p := p })

def execLdp (f : FLp) (s : State) := runWord (.ldp f) (ldp (.ldp f) f) s

/-! ## Atomics (R142 to R146) -/

/-- An atomic on a unit of `n` bytes. -/
def atomic (i : Instr) (f : FLx) (op : AtomicOp) (n : Nat) (s : State) : WordRes :=
  let x := s.srcS i 1
  let k := s.srcS i 2
  let b := s.srcS i 0
  match s.check b.p b.v.toNat n n true true (x.p || k.p) with
  | .error e => .trap e.1 e.2 s
  | .ok l => .ok (s.issueAct l f.o (.atomic op l.key x k f.w) (if f.w then .s f.d true else .none) f.w)

def execAadd (f : FLx) (s : State) := runWord (.aadd f) (atomic (.aadd f) f .add 8) s
def execAmin (f : FLx) (s : State) := runWord (.amin f) (atomic (.amin f) f .min 8) s
def execAmax (f : FLx) (s : State) := runWord (.amax f) (atomic (.amax f) f .max 8) s
def execAminu (f : FLx) (s : State) := runWord (.aminu f) (atomic (.aminu f) f .minu 8) s
def execAmaxu (f : FLx) (s : State) := runWord (.amaxu f) (atomic (.amaxu f) f .maxu 8) s
def execAand (f : FLx) (s : State) := runWord (.aand f) (atomic (.aand f) f .and 8) s
def execAor (f : FLx) (s : State) := runWord (.aor f) (atomic (.aor f) f .or 8) s
def execAxor (f : FLx) (s : State) := runWord (.axor f) (atomic (.axor f) f .xor 8) s
def execAswp (f : FLx) (s : State) := runWord (.aswp f) (atomic (.aswp f) f .swp 8) s
def execAcas (f : FLx) (s : State) := runWord (.acas f) (atomic (.acas f) f .cas 8) s
def execAfadd (f : FLx) (s : State) := runWord (.afadd f) (atomic (.afadd f) f .fadd 4) s

/-! ## Barrier objects (R204 to R208) -/

/-- BARV (R207). -/
def barv (i : Instr) (f : FLx) (s : State) : WordRes :=
  let b := s.srcS i 0
  let x := s.srcS i 1
  match s.check (b.p || x.p) b.v.toNat 16 16 true true false with
  | .error e => .trap e.1 e.2 s
  | .ok l => .ok (s.issueAct l f.o (.barv l.key x.v.toNat s.iss.pre.gangidx) (if f.w then .s f.d true else .none) f.w)

/-- BINIT (R206); the checks of R90 come before the operand's (DEDUCED, log 23). -/
def binit (i : Instr) (f : FBinit) (s : State) : WordRes :=
  let b := s.srcS i 0
  let x := s.srcS i 1
  match s.check (b.p || x.p) b.v.toNat 16 16 true true false with
  | .error e => .trap e.1 e.2 s
  | .ok l =>
    if x.v = 0 ∨ 65536 ≤ x.v.toNat then .trap cILLEGAL_OPERAND 0 s
    else .ok (s.issueAct l f.o (.binit l.key x.v.toNat) .none false)

/-- The code of a BWAIT that has read word 0, if it ends (R208). -/
def bwaitCode (w0 phase : Nat) : Option Nat :=
  if !bit w0 37 then some 3 else if bits w0 32 4 ≠ phase then some 0 else none

/-- BWAIT (R208): a local object is read at once; a remote one is read by BWAIT_READ. -/
def bwait (i : Instr) (f : FLx) (s : State) : WordRes :=
  let b := s.srcS i 0
  let x := s.srcS i 1
  match s.check (b.p || x.p) b.v.toNat 16 16 false true false with
  | .error e => .trap e.1 e.2 s
  | .ok l =>
    let ph := bits x.v.toNat 0 4
    let lim := x.v.toNat / 2 ^ 8
    let r := if l.remote then (s, s) else s.sramReads [l.key / 8]
    let v := r.1
    let s := r.2
    let w0 := v.rd l.key 8
    let k := fun (last : Option SVal) => WaitKind.bwait f.d f.w b.v f.o (BitVec.ofNat 4 ph)
      (s.tileAt s.iss.tile).cycle.toNat lim last
    if l.remote then .wait (k none) s
    else match bwaitCode w0 ph with
      | some code => .ok (s.resS i f.d f.w { v := barStatus code w0, p := v.poisoned l.key })
      | none =>
        if lim = 0 then .ok (s.resS i f.d f.w { v := barStatus 1 w0, p := v.poisoned l.key })
        else .wait (k (some { v := BitVec.ofNat 64 w0, p := v.poisoned l.key })) s

def execBarv (f : FLx) (s : State) := runWord (.barv f) (barv (.barv f) f) s
def execBwait (f : FLx) (s : State) := runWord (.bwait f) (bwait (.bwait f) f) s
def execBinit (f : FBinit) (s : State) := runWord (.binit f) (binit (.binit f) f) s

/-! ## Fences (R295, R296, R302) -/

/-- A home lies within a scope of a tile (R295). -/
def inScope (scope tile home : Nat) : Bool :=
  if scope = 0 then home == tile else if scope = 1 then dieOf home == dieOf tile else true

/-- FENCE (R296): every access under way of a class in the mask and within the scope holds later accesses of the mask's
classes until what of it lies within the scope is applied. -/
def fence (f : FFence) (s : State) : WordRes :=
  let t := s.iss.tile
  .ok { s with mesh := s.mesh.map fun r =>
    if r.tile == t && r.slot == s.iss.slot && r.res.isNone && bit f.m.toNat r.cls.toNat && r.homes.any (inScope f.s.toNat t)
    then { r with holds := r.holds ++ [(f.s.toNat, f.m)] } else r }

def execFence (f : FFence) (s : State) := runWord (.fence f) (fence f) s

/-- XFENCE (R302): its bundle issues once its before-set is applied, and then nothing is left to order. -/
def execXfence (f : FXfence) (s : State) := runWord (.xfence f) .ok s

end Sys2Proof.Machine
end

