-- ==== Sys2Proof/Machine/Issue.lean ====
section
/-! DEFINITION. How a context comes to issue its next bundle: fetch (R32, R33, R49 to R51), the checks of R48, the holds of R22,
R292 to R298 and R302, and what a context does next at a bundle boundary (R323, R336, R341). -/

namespace Sys2Proof.Machine

/-! ## Fetch -/

/-- What fetch answers: the words, the address of a word whose plate is not in the instruction cache with its position and
whether it lies in the second packet, or a trap. -/
inductive Fetched where
  | words (l : List Nat)
  | miss (va pos : Nat) (second : Bool)
  | trap (tr : Trap)
  deriving DecidableEq, Repr

/-- The plate of a virtual address in the instruction cache (R49). -/
def Tile.plate? (x : Tile) (va : Nat) : Option Nat := (x.icache.find? fun e => e.1 == va / 4096 * 4096).map (·.2)

/-- The words of a bundle from position `pos` on, `n` more at most (R33, R51): limits bind in user mode only (R335). -/
def fetchFrom (x : Tile) (c : Ctx) : Nat → Nat → Nat → Fetched
  | 0, _, _ => .words []
  | n + 1, pos, a =>
    let sec := decide (a / 16 ≠ c.pc.toNat / 16)
    if !c.mode && pos == 0 && !(decide (c.cbase.toNat ≤ a) && decide (a < c.clim.toNat)) then
      .trap { cause := cFETCH_LIMIT, word := 0, second := false, faddr := BitVec.ofNat 64 a }
    else match x.plate? a with
      | none => .miss a pos sec
      | some d =>
        if !c.mode && decide (c.clim.toNat ≤ a) then
          .trap { cause := cFETCH_LIMIT, word := pos, second := sec, faddr := BitVec.ofNat 64 a }
        else
          let w := bits d (8 * (a % 4096)) 32
          if chainBit w then
            match fetchFrom x c n (pos + 1) ((a + 4) % 2 ^ 64) with
            | .words l => .words (w :: l)
            | r => r
          else .words [w]

/-- The words that fetch has got before it misses, faults or ends. -/
def fetchedFrom (x : Tile) (c : Ctx) : Nat → Nat → Nat → List Nat
  | 0, _, _ => []
  | n + 1, pos, a =>
    match fetchFrom x c 1 pos a with
    | .words (w :: _) => w :: if chainBit w then fetchedFrom x c n (pos + 1) ((a + 4) % 2 ^ 64) else []
    | _ => []

/-- Fetch of the bundle at PC (R33, R51): at most 8 - k words from word k of its packet. -/
def fetchBundle (x : Tile) (c : Ctx) : Fetched :=
  fetchFrom x c (8 - bits c.pc.toNat 2 2) 0 c.pc.toNat

/-! ## The checks of R48 -/

/-- The instructions of some words, or the position of the first that has none. -/
noncomputable def decodeAll : List Nat → Nat → Except Nat (List Instr)
  | [], _ => .ok []
  | w :: r, pos => match decodeWord (w % 2 ^ 31) with
    | .error _ => .error pos
    | .ok i => match decodeAll r (pos + 1) with
      | .error p => .error p
      | .ok l => .ok (i :: l)

/-- The first word that fails a check, with its cause. -/
def firstBad (f : Nat → Instr → Option Nat) : List Instr → Nat → Option (Nat × Nat)
  | [], _ => none
  | i :: r, pos => match f pos i with
    | some c => some (c, pos)
    | none => firstBad f r (pos + 1)

/-- A word of the bundle executes: not complete before a resumption, and not suppressed by its guard (R45, R340). -/
def Ctx.executes (c : Ctx) (pos : Nat) (i : Instr) : Bool :=
  let v := viewOf i
  !bit ((c.resume.map (·.done)).getD 0) pos && !(v.cls != 6 && !v.lane && !c.guardRuns)

/-- A source is an L latch that a result under way has still to fill (R17, R22). -/
def Ctx.latchDue (c : Ctx) : Opd → Bool
  | .s f => c.pendL && f.toNat / 2 == 17
  | .v f => c.pendL && f.toNat / 2 == 17
  | _ => false

/-- A word that executes reads such a latch: step 6 waits for it. -/
def latchesDue (c : Ctx) : Nat → List Instr → Bool
  | _, [] => false
  | pos, i :: r =>
    let v := viewOf i
    (c.executes pos i && (c.latchDue v.a || c.latchDue v.b || c.latchDue v.c)) || latchesDue c (pos + 1) r

/-- Steps 4 to 6 of R48 on a decoded bundle. -/
def bundleFault (c : Ctx) (ws : List Instr) : Option (Nat × Nat) :=
  match bundleBreak c ws with
  | some p => some (cILLEGAL_BUNDLE, p)
  | none => match firstBad (fun _ i => wordCheck c (limmOf ws) i) ws 0 with
    | some x => some x
    | none =>
      if (c.resume.map (·.done)).getD 0 = 0 && !latchesDue c 0 ws then
        firstBad (fun pos i => if c.executes pos i then issueCheck c.lat i else none) ws 0
      else none

/-- What fetch and the checks of R48 make of a fetched chain: its instructions, or a trap. SECOND stays 0 where the cause is no fault of
fetch, wherever the word lies (R51; DEDUCED, log 84). -/
noncomputable def checkBundle (c : Ctx) (l : List Nat) : Except Trap (List Instr) :=
  let trap := fun (cause pos : Nat) => ({ cause := cause, word := pos, second := false, faddr := 0 } : Trap)
  match l.getLast? with
  | none => .error (trap cILLEGAL_BUNDLE 0)
  | some w =>
    if chainBit w then .error (trap cILLEGAL_BUNDLE (l.length - 1))
    else match decodeAll l 0 with
      | .error p => .error (trap cILLEGAL_WORD p)
      | .ok ws => match bundleFault c ws with
        | some (cause, p) => .error (trap cause p)
        | none => .ok ws

/-! ## What accesses touch -/

/-- Two ranges share a byte. -/
def shares (a b : Nat × Nat) : Bool := decide (a.1 < b.1 + b.2) && decide (b.1 < a.1 + a.2)

/-- Some bytes of two accesses are common. -/
def overlap (a b : List (Nat × Nat)) : Bool := a.any fun x => b.any (shares x)

/-- A TILE access that a word is about to make: its class, its homes with their bytes, and whether it loads and stores. -/
structure Access where
  cls : BitVec 4
  spans : List (Nat × Nat × Nat)
  load : Bool
  store : Bool
  deriving DecidableEq, Repr

/-- Home and key of an address range, where the checks of R90 find a place. -/
def spanAt (s : State) (a n : Nat) : List (Nat × Nat × Nat) :=
  match s.locate s.iss.tile s.iss.slot s.iss.pre a n false with
  | .ok l => [(l.home, l.key, n)]
  | .error _ => []

/-- Home and key of each byte that LDP reads: those of the window below its size, one by one (R97). -/
def paramSpans (s : State) (base o size n : Nat) : List (Nat × Nat × Nat) :=
  ((List.range n).filter fun k => o + k < size).flatMap fun k => spanAt s (base + o + k) 1

/-- Home and key of each doubleword of the membership table that an LSCHED descriptor at an address names (R387). -/
def tableSpans (s : State) (a : Nat) : List (Nat × Nat × Nat) :=
  match spanAt s a 64 with
  | [] => []
  | x :: _ =>
    let m := scMTAB (BitVec.ofNat 512 (s.rd x.2.1 64))
    match spanAt s m 8 with
    | [] => []
    | y :: _ => y :: (List.range (min 1024 (bits (s.rd y.2.1 8) 0 11))).flatMap fun k => spanAt s (m + 8 * (k + 1)) 8

/-- An ACAS that is applied as it issues writes: its unit holds the comparand. One that is applied later is held as a load here and as a
store, if it writes, at its bank (R143, R292). -/
def casNow (s : State) (a : Nat) (cmp : W64) : Bool :=
  match s.locate s.iss.tile s.iss.slot s.iss.pre a 8 true with
  | .error _ => false
  | .ok l => !l.remote && !s.iss.late && s.rd l.key 8 == cmp.toNat

/-- The access of an L word, or of a word that reads a descriptor (R289, R292, R301); the issue record of `s` names the
bundle. -/
def accessOf (s : State) (i : Instr) : Option Access :=
  let lm := fun (o : BitVec 4) (n sc : Nat) (st : Bool) =>
    some { cls := o, spans := spanAt s (lmAddr s i sc) n, load := !st, store := st : Access }
  let at0 := fun (o : BitVec 4) (n : Nat) =>
    some { cls := o, spans := spanAt s (s.srcS i 0).v.toNat n, load := true, store := true : Access }
  let cas := fun (o : BitVec 4) =>
    some { cls := o, spans := spanAt s (s.srcS i 0).v.toNat 8, load := true, store := casNow s (s.srcS i 0).v.toNat (s.srcS i 2).v : Access }
  let desc := fun (n : Nat) =>
    some { cls := 0, spans := spanAt s (s.srcS i 0).v.toNat n, load := true, store := false : Access }
  let lanes := fun (o : BitVec 4) (st : Bool) =>
    some { cls := o, spans := (lanesOf s).flatMap fun j => spanAt s (laneAddr s i j).1 4, load := !st, store := st : Access }
  let chunk := fun (o : BitVec 4) (st : Bool) => match chunkCheck s i st with
    | .ok (l, fmt, x, y) =>
      some { cls := o, spans := (l.home, l.key, chunkBytes fmt) ::
               (if fmt = fmtMXFP4 then [(x.home, x.key, 1), (y.home, y.key, 1)] else []), load := !st, store := st : Access }
    | .error _ => none
  match i with
  | .ldb f => lm f.o 1 1 false
  | .ldbu f => lm f.o 1 1 false
  | .ldh f => lm f.o 2 2 false
  | .ldhu f => lm f.o 2 2 false
  | .ldw f => lm f.o 4 4 false
  | .ldwu f => lm f.o 4 4 false
  | .ldd f => lm f.o 8 8 false
  | .stb f => lm f.o 1 1 true
  | .sth f => lm f.o 2 2 true
  | .stw f => lm f.o 4 4 true
  | .std f => lm f.o 8 8 true
  | .ldv f => lm f.o 256 256 false
  | .ldvb f => lm f.o 64 256 false
  | .stv f => lm f.o 256 256 true
  | .ldvf f => chunk f.o false
  | .stvf f => chunk f.o true
  | .ldvg f => lanes f.o false
  | .stvs f => lanes f.o true
  | .ldp f =>
    let n := 2 ^ f.z.toNat
    let o := (s.srcS i 0).v.toNat + s.immU i * n
    some { cls := 0, spans := paramSpans s (s.iss.pre.pwb.getD f.n.toNat 0).toNat o (s.iss.pre.pws.getD f.n.toNat 0).toNat n,
           load := true, store := false }
  | .aadd f => at0 f.o 8
  | .amin f => at0 f.o 8
  | .amax f => at0 f.o 8
  | .aminu f => at0 f.o 8
  | .amaxu f => at0 f.o 8
  | .aand f => at0 f.o 8
  | .aor f => at0 f.o 8
  | .axor f => at0 f.o 8
  | .aswp f => at0 f.o 8
  | .acas f => cas f.o
  | .afadd f => at0 f.o 4
  | .barv f => at0 f.o 16
  | .bwait f => at0 f.o 16
  | .binit f => at0 f.o 16
  | .mldtScalar _ => desc 256
  | .mwb _ => desc 64
  | .msplit _ => desc 64
  | .cpy _ => desc 64
  | .lsend _ => desc 64
  | .lrecv _ => desc 64
  | .lradd _ => desc 64
  | .lsched _ =>
    let a := (s.srcS i 0).v.toNat
    some { cls := 0, spans := spanAt s a 64 ++ tableSpans s a, load := true, store := false }
  | .launch _ => desc 64
  | .hopen _ => desc 64
  | _ => none

/-- A request `r` of the context, not yet applied, precedes the access `a` in application order (R292 to R294, R296). -/
def holdsAccess (tile : Nat) (r : MeshReq) (a : Access) : Bool :=
  let x := r.act.spans
  let local1 := fun (h : Nat) => dieOf h == dieOf tile
  let near := a.spans.any fun y => local1 y.1
  let common := overlap r.rest (a.spans.map fun y => (y.2.1, y.2.2))
  let buffered := x.2.2 && !x.2.1 && a.load && !a.store && !common
  r.cls == 15 || a.cls == 15 || (r.holds.any fun h => bit h.2.toNat a.cls.toNat && r.homes.any (inScope h.1 tile)) ||
  (r.cls == a.cls && r.homes.any local1 && near && !buffered) ||
  (common && (x.2.2 || a.store || r.cls == a.cls))

/-- The classes and the scope that a word releases (R188, R202, R218, R298); none where it is no release. -/
def releaseOf (c : Ctx) : Instr → Option (BitVec 16 × Nat)
  | .sig _ => some (c.sigClasses, c.sigScope.toNat)
  | .hpush _ => some (c.sigClasses, c.sigScope.toNat)
  | .hupd _ => some (c.sigClasses, c.sigScope.toNat)
  | .hdone _ => some (c.sigClasses, c.sigScope.toNat)
  | .hopen _ => some (c.sigClasses, c.sigScope.toNat)
  | .hclose _ => some (c.sigClasses, c.sigScope.toNat)
  | .post _ => some (0xFFFF, 2)
  | .tdone => some (0xFFFF, 2)
  | .halt => some (0xFFFF, 2)
  | .suspend _ => some (0xFFFF, 2)
  | _ => none

/-- An engine's path (R301). -/
def pathOf (eng : Nat) : Nat := if eng = 3 then 1 else if eng = 2 then 3 else 2

/-- A signal comes from a SIG of the context in a slot (R203). -/
def SigReq.isFrom (r : SigReq) (t slot : Nat) : Bool :=
  match r.src with
  | some (a, b, _) => a == t && b == slot
  | none => false

/-- The homes of the signals of the context in issue that no semaphore has taken (R203): releases are TILE accesses (R301). -/
def State.ownSigs (s : State) : List Nat :=
  (s.sigs.filter fun r => match r.src with
    | some (t, slot, task, _) => t == s.iss.tile && slot == s.iss.slot && task == s.iss.pre.taskid
    | none => false).map (·.tile)

/-- A word's turn must wait for an access of its context that is not yet applied, or, at an XFENCE, for a write of an engine path
(R292 to R298, R302). -/
def wordHeld (s : State) (own : List MeshReq) (i : Instr) : Bool :=
  let t := s.iss.tile
  (match accessOf s i with
    | some a => own.any fun r => holdsAccess t r a
    | none => false) ||
  (match releaseOf s.iss.pre i with
    | some (m, sc) => own.any fun r => bit m.toNat r.cls.toNat && r.homes.any (inScope sc t)
    | none => false) ||
  (match i with
    | .xfence f =>
      ((f.a == 0 || f.b == 0) && ((own.any fun r => r.homes.any (inScope f.s.toNat t)) || s.ownSigs.any fun h => inScope f.s.toNat t h)) ||
      s.portE.any fun w => (pathOf w.eng == f.a.toNat || pathOf w.eng == f.b.toNat) && inScope f.s.toNat t w.home
    | _ => false)

/-! ## Reservations (R244) -/

/-- The bank of a key of the scratchpad (R234). -/
def bankOf (key : Nat) : Nat := key / 64 % 32

/-- The banks of some bytes of a tile's scratchpad. -/
def banksOf (key n : Nat) : List Nat := (List.range ((key % 64 + n + 63) / 64)).map fun i => bankOf (key + 64 * i)

/-- A unit whose source the engine has still to read. -/
def CUnit.unread (u : CUnit) : Bool :=
  match u.st with
  | .walk => true
  | .wait => true
  | .lines _ _ _ => true
  | .ready _ => true
  | _ => false

/-- A copy has scratchpad accesses to make still: bytes to deliver or, of a write, to read; its record; its arrival (R309, R320, R321). -/
def Copy.accesses (c : Copy) (b : Burin) : Bool :=
  (!c.fin && (!cpWrite c.d || decide (c.next < cpLEN c.d) || b.units.any fun u => u.tag == c.tag && u.unread)) ||
  (c.phase == 0 && cpRECEN c.d) || (c.err == 0 && cpBAREN c.d)

/-- A link command has accessed the scratchpad and has accesses to make still: bytes to move, or its record (R244, R383, R384). -/
def LCmd.accesses (m : LCmd) : Bool :=
  m.st == 3 && m.kind != 3 && decide (0 < m.pos) && ((!m.fin && decide (m.pos < lkLEN m.d)) || lkRECEN m.d)

/-- The reservation table of a tile (R244, R309): the bank masks of the running matrix command, of each Burin command in flight and of the
link command that moves bytes, each from its first scratchpad access to its last. -/
def Tile.bankMasks (x : Tile) : List Nat :=
  (match x.mq.head? with
    | some m => match m.kind with
      | .go d _ _ => if m.acc && !m.fin then [mdBANKMASK d] else []
      | _ => []
    | none => []) ++
  (x.burin.flatMap fun b => (b.q.filter fun c => c.acc && c.accesses b).map fun c => c.banks.2) ++
  (x.link.q.filter LCmd.accesses).map fun m => m.banks.2

/-- The banks of a tile that its commands reserve: those that have more accesses to make, and those whose writes are still queued at
their banks (R244, R309). -/
def State.reservedAt (s : State) (t : Nat) : Nat :=
  ((s.tileAt t).bankMasks ++ (s.portE.filter fun w => w.src == t).map (·.banks)).foldl (fun a m => a ||| m) 0

/-- A bundle is held for an L word that touches a bank of its own tile that a running command reserves (R22, R235, R244). -/
def bankHeld (s : State) (i : Instr) : Bool :=
  let t := s.iss.tile
  let m := s.reservedAt t
  m != 0 && (viewOf i).cls == 2 && match accessOf s i with
    | none => false
    | some a => a.spans.any fun x =>
        x.1 == t && x.2.1 % 2 ^ 24 < 2 ^ 23 && (banksOf x.2.1 x.2.2).any fun b => bit m b

/-- The tile holds a command while its engine's queue is full (R148, R307, R381). -/
def queueHeld (s : State) (t : Nat) : Instr → Bool
  | .mgo _ => !s.matrixRoom t
  | .mclr _ => !s.matrixRoom t
  | .mwb _ => !s.matrixRoom t
  | .cpy f => (s.burinAt t f.e.toNat).full
  | .lsend _ => (s.tileAt t).link.full
  | .lrecv _ => (s.tileAt t).link.full
  | .lradd _ => (s.tileAt t).link.full
  | .lsched _ => (s.tileAt t).link.full
  | _ => false

/-! ## The scoreboard (R22, R23) -/

/-- A source has its final value. -/
def srcReady (c : Ctx) : Opd → Bool
  | .no => true
  | .s f => if f.toNat < 32 then !c.pendS.contains (f.setWidth 5) else !c.latchDue (.s f)
  | .v f => if f.toNat < 32 then !c.pendV.any (fun x => x.1 == physV c.vrb f.toNat) else !c.latchDue (.v f)
  | .p _ => true

/-- A destination is free of earlier writes still in flight. -/
def dstReady (c : Ctx) : Dst → Bool
  | .s d => !c.pendS.contains d
  | .v d => !c.pendV.any fun x => x.1 == physV c.vrb d.toNat
  | .sPair d => !c.pendS.contains d && !c.pendS.contains (d + 1)
  | .vPair d => !c.pendV.any fun x => x.1 == physV c.vrb d.toNat || x.1 == physV c.vrb (d.toNat + 1)
  | _ => true

/-- A word meets the register conditions of R22; an L word also waits for a result under way to latch L0, and XRET and CRET, which
rewrite registers and latches, wait for every result (R22, R82, R340). -/
def wordReady (c : Ctx) (i : Instr) : Bool :=
  let v := viewOf i
  srcReady c v.a && srcReady c v.b && srcReady c v.c && dstReady c v.d && !(v.cls == 2 && c.pendL) &&
  (v.names.all fun n => match n with
    | .s d => !c.pendS.contains (BitVec.ofNat 5 d)
    | _ => true) &&
  (match i with
    | .xret => !c.pending
    | .cret => !c.pending
    | _ => true)

/-- A word reads or writes FCSR (R77). -/
def namesFcsr (i : Instr) : Bool := (viewOf i).csr == some (false, 0x00)

/-- A floating-point word of a context still owes its flags (R77, R144): the answer of a returning AFADD or of a chunk that may round. -/
def MeshReq.owesFlags (r : MeshReq) : Bool :=
  match r.act with
  | .atomic .fadd _ _ _ ret => ret
  | .loadF _ _ _ _ _ => true
  | _ => false

/-- The flags of FCSR are not final for a word that names it (R77). -/
def flagsHeld (s : State) (i : Instr) : Bool :=
  namesFcsr i && s.mesh.any fun r =>
    r.tile == s.iss.tile && r.slot == s.iss.slot && r.task == s.iss.pre.taskid && r.owesFlags

/-- The requests of a context that no home bank has applied. -/
def State.ownReqs (s : State) (t slot : Nat) (c : Ctx) : List MeshReq :=
  s.mesh.filter fun r => r.tile == t && r.slot == slot && r.task == c.taskid && r.res.isNone

/-- The device as it stands when a bundle of a context is about to issue. -/
def State.atIssue (s : State) (t slot : Nat) (c : Ctx) (ws : List Instr) : State :=
  { s with iss := { tile := t, slot := slot, words := ws, pre := c, preRaf := (s.tileAt t).raflags } }

/-- Every word from position `pos` on may take its turn. -/
def wordsGo (s : State) (c : Ctx) (own : List MeshReq) : Nat → List Instr → Bool
  | _, [] => true
  | pos, i :: r =>
    (!c.executes pos i || (wordReady c i && !queueHeld s s.iss.tile i && !flagsHeld s i &&
      !bankHeld { s with iss := { s.iss with pos := pos } } i && !wordHeld { s with iss := { s.iss with pos := pos } } own i)) &&
    wordsGo s c own (pos + 1) r

/-! ## What a context does next -/

/-- What a context does at its bundle boundary. -/
inductive Plan where
  | idle
  /-- an event of its own: a fill, an asynchronous trap, a completion handler -/
  | event (i : Instr)
  /-- the trap of a bundle that cannot issue -/
  | trap (tr : Trap)
  | run (ws : List Instr)
  deriving DecidableEq, Repr

/-- The member of the gang that a context is has its parameters (R183). -/
def State.filled (s : State) (t slot : Nat) (c : Ctx) : Bool :=
  match s.gangOf c.gang with
  | none => true
  | some g => !g.members.any fun m => m.isAt t slot && !m.filled

/-- The tile runs its contexts: the device is started and ACTIVE, its clocks run, the tile is in service, and its partition is
not halted (R362, R369, R392, R402, R404). -/
def State.tileRuns (s : State) (t : Nat) : Bool :=
  let x := s.tileAt t
  s.started && (s.power == .active || s.power == .idle) && !s.gated && !x.fenced && (!x.debugStop || x.debugStep) &&
  match x.partid with
  | none => false
  | some p => (match s.part? p with | some y => !y.halted | none => false)

/-- No issue of the bundle at PC has been squashed: a bundle that has begun its issues finishes them (R24, R343). -/
def Ctx.fresh1 (c : Ctx) : Bool := c.issueNo == 1 || c.held.isSome

/-- A completion handler may be entered (R323). -/
def Ctx.mayHandle (c : Ctx) : Bool := c.chEn && !c.chActive && !c.mode && c.chPend != 0 && c.fresh1

/-- The context may take a step at a bundle boundary: no bundle of it waits, it is not stopped, held by TLBINV or being
pre-empted (R336, R343, R349). -/
def Ctx.atBoundary (c : Ctx) : Bool := c.held.isNone && !c.stopped && c.preStep == 0 && c.tlb.isNone

/-- An asynchronous trap is due at the context's boundary: in user mode, no bundle resumed by XRET or a handler being under way (R336). -/
def Ctx.asyncDue (c : Ctx) : Bool := !c.mode && c.resume.isNone && !c.afterXret && !c.asyncTraps.isEmpty && c.fresh1

/-- What a context does next (R336, R323, R51, R48, R22): a trap of the bundle at the boundary goes before an asynchronous one. -/
noncomputable def State.plan (s : State) (t slot : Nat) : Plan :=
  match s.ctx? t slot with
  | none => .idle
  | some c =>
    if !c.atBoundary || !s.filled t slot c then .idle
    else if c.mayHandle && !c.asyncDue then .idle
    else match fetchBundle (s.tileAt t) c with
      | .miss va _ _ => .event (.instructionCacheFill t va)
      | .trap tr => .trap tr
      | .words l => match checkBundle c l with
        | .error tr => .trap tr
        | .ok ws =>
          if !c.asyncDue && wordsGo (s.atIssue t slot c ws) c (s.ownReqs t slot c) 0 ws then .run ws else .idle

/-- A word as the snapshot sees it: an X word names no register, so it counts as NOP. -/
def decodeSources (w : Nat) : Option Instr :=
  let r := match bits w 28 3 with
    | 0 => decodeC (bits w 22 6) w
    | 1 => decodeS (bits w 20 8) w
    | 2 => decodeL (bits w 22 6) w
    | 3 => decodeV (bits w 21 7) w
    | 4 => decodeM (bits w 22 6) w
    | 5 => decodeE (bits w 22 6) w
    | 6 => .ok .nop
    | _ => .error .reservedClass
  match r with
  | .ok i => if i.wf then some i else none
  | .error _ => none

/-- The words of the bundle at PC of a context for its snapshot, as far as they can be fetched now (R334, R336); one that has no meaning
names no register. -/
def State.snapWords (s : State) (t slot : Nat) : List Instr :=
  let c := s.ctxAt t slot
  (fetchedFrom (s.tileAt t) c (8 - bits c.pc.toNat 2 2) 0 c.pc.toNat).map fun w => (decodeSources (w % 2 ^ 31)).getD .nop

/-- The words of the bundle at PC of a context, if all of them can be fetched and decoded now. -/
def State.snapNow (s : State) (t slot : Nat) : Option (List Instr) :=
  match fetchBundle (s.tileAt t) (s.ctxAt t slot) with
  | .words l =>
    let ws := l.filterMap fun w => decodeSources (w % 2 ^ 31)
    if ws.length = l.length then some ws else none
  | _ => none

/-- The bundle at PC of a context as it is left before it issues: the snapshot holds the sources of the words that can be fetched, and a
resumed bundle of which fewer can be fetched now keeps the snapshot that it resumed with (R334; DEDUCED, log 35). -/
def State.leftNow (s : State) (t slot : Nat) : Held :=
  let c := s.ctxAt t slot
  let ws := s.snapWords t slot
  let done := (c.resume.map (·.done)).getD 0
  let old := match c.resume with
    | some r => if ws.length < r.known then some r else none
    | none => none
  { words := ws, done := done, npc := c.resume.bind (·.npc), waits := [], ending := none, trap := none, brk := none,
    snap := (old.map (·.snap)).getD (snapOf c ws done), known := (old.map (·.known)).getD ws.length,
    lmask := (c.resume.map (·.lmask)).getD 0, switch := false, ret := 0 }

/-- The trap of a bundle that did not issue (R333 to R335): every word is incomplete; once every result has arrived it is entered. -/
def State.trapEarly (s : State) (t slot : Nat) (tr : Trap) : State := s.settle t slot { s.leftNow t slot with trap := some tr }

/-! ## Instruction-cache fills (R49 to R51) -/

/-- The first context of a tile that waits for the plate of an address, with the address and the position of its word there. -/
def State.fillFor (s : State) (t va : Nat) : Option (Nat × Nat × Nat × Bool) :=
  (List.range 8).findSome? fun slot => match s.ctx? t slot with
    | none => none
    | some c =>
      if !c.atBoundary || !s.filled t slot c then none
      else match fetchBundle (s.tileAt t) c with
        | .miss a pos sec => if a / 4096 = va / 4096 then some (slot, a, pos, sec) else none
        | _ => none

/-- The page of an address that an instruction fetch names in FADDR (R51): a large one where the walk reached its leaf. -/
def faultPage (big : Bool) (va : Nat) : Nat := if big then va / 2 ^ 29 * 2 ^ 29 else va / 2 ^ 16 * 2 ^ 16

/-- The fault of a fetch that a failed fill ends (R51): FETCH_FAULT where the translation failed, otherwise POISON. -/
def fillFault (u : CUnit) (pos : Nat) (sec : Bool) (va : Nat) : Trap :=
  match u.st with
  | .failed 1 _ _ => { cause := cFETCH_FAULT, word := pos, second := sec, faddr := BitVec.ofNat 64 (faultPage u.big va) }
  | _ => { cause := cPOISON, word := pos, second := sec, faddr := BitVec.ofNat 64 u.va }

/-- The first of some context's fills, of the plate of an address, for which engine 0 has the translation (R51). -/
def CUnit.translated (u : CUnit) : Bool :=
  match u.st with
  | .walk => false
  | .failed 1 _ _ => false
  | _ => true

/-- A word at an address lies at or above the limit of its context (R49, R335). -/
def Ctx.beyond (c : Ctx) (a : Nat) : Bool := !c.mode && decide (c.clim.toNat ≤ a)

/-- INSTRUCTION_CACHE_FILL (R49, R51, R280): the fill of one plate by engine 0 begins, or, once it is over, fills the cache or faults the
context that waits for it. For a word at or above CLIM nothing of the plate is read: the fill ends with the translation of its page. -/
def execInstructionCacheFill (t va : Nat) (s : State) : Host.Outcome State Fault Refusal :=
  let base := va / 4096 * 4096
  match (s.burinAt t 0).fetchOf .code base with
  | none => match s.fillFor t va with
    | none => .next s
    | some (slot, a, _, _) => .next (s.startFetch t .code base 4 (if (s.ctxAt t slot).beyond a then 0 else 4096))
  | some u =>
    let gone := s.dropFetch t 0 u.uid
    match s.fillFor t va with
    | none => match u.st with
      | .failed _ _ _ => .next gone
      | .ready _ => .next gone
      | _ => .next s
    | some (slot, a, pos, sec) =>
      if (s.ctxAt t slot).beyond a && u.translated then
        .next ((if u.len = 0 then gone else s).trapEarly t slot
          { cause := cFETCH_LIMIT, word := pos, second := sec, faddr := BitVec.ofNat 64 a })
      else if u.len = 0 && !(s.ctxAt t slot).beyond a && u.translated then
        .next (s.modUnit t 0 u.uid fun u => { u with len := 4096 }).grantAll
      else match u.st with
        | .ready img => .next (gone.modTile t fun x => { x with icache := ((base, img) :: x.icache).take 32 })
        | .failed _ _ _ => .next (gone.trapEarly t slot (fillFault u pos sec a))
        | _ => .next s

end Sys2Proof.Machine
end

