-- ==== Sys2Proof/Machine/Wake.lean ====
section
/-! DEFINITION. How waiting bundles go on (R81, R167, R196, R203, R208, R324, R326), asynchronous traps and completion handlers
(R323, R336), and the arrivals of accesses, signals and queued writes (R203, R238, R246, R301). -/

namespace Sys2Proof.Machine

/-! ## Waiting words -/

/-- The first wait of a held bundle that a predicate admits. -/
def Held.waitFor (h : Held) (q : WaitKind → Bool) : Option (Nat × WaitKind) := h.waits.find? fun x => q x.2

/-- The words of a list of waits marked complete. -/
def addDone (d : Nat) (l : List (Nat × WaitKind)) : Nat := l.foldl (fun d x => d ||| 2 ^ x.1) d

namespace State

/-- A waiting word of a held bundle is complete: the bundle goes on (R80). -/
def endWait (s : State) (t slot : Nat) (h : Held) (pos : Nat) : State :=
  s.settle t slot { h with done := h.done ||| 2 ^ pos, waits := h.waits.filter fun x => x.1 != pos }

/-- The held bundle of a context. -/
def heldOf (s : State) (t slot : Nat) : Option Held := (s.ctxAt t slot).held

/-- The code with which a BWAIT ends now (R208): what its last read shows, or code 1 once its limit has passed; none while it waits or has
not read yet. -/
def bwaitEnd (s : State) (t ph start lim : Nat) : Option SVal → Option Nat
  | none => none
  | some x => (bwaitCode x.v.toNat ph).or
    (if lim = 0 ∨ lim ≤ ((s.tileAt t).cycle.toNat + 2 ^ 64 - start) % 2 ^ 64 then some 1 else none)

/-- What a waiting word does once what it waits for has come; none while it waits: WAITEV (R81), SWAIT (R203), CWAIT (R326), MWAIT (R167),
JWAIT (R196) and BWAIT (R208). Its scalar result fills no latch, but for BWAIT's (R54). -/
def waitEnds (s : State) (t slot : Nat) : WaitKind → Option State
  | .waitev m => if evReady (s.ctxAt t slot) m then some (s.modCtx t slot fun c => c.clearEvents m) else none
  | .swait k n => if n ≤ s.semCount t k then some (s.setSem t k (s.semCount t k - n)) else none
  | .cwait d e tag =>
    if Machine.reached (s.burinAt t e).done tag then some (s.modCtx t slot fun c => c.setS d.toNat { v := s.tagStatus t slot e tag }) else none
  | .mwait d seq =>
    if Machine.reached (s.tileAt t).mdone seq then
      some (s.modCtx t slot fun c => c.setS d.toNat { v := matStatus (s.tileAt t) slot (s.ctxAt t slot) })
    else none
  | .jwait d job => (s.jobStatus job).map fun k => s.modCtx t slot fun c => c.setS d.toNat { v := BitVec.ofNat 64 k }
  | .bwait d w _ _ ph start lim last => (s.bwaitEnd t ph.toNat start lim last).map fun code =>
    let x := last.getD {}
    let r : SVal := { v := barStatus code x.v.toNat, p := x.p }
    s.modCtx t slot fun c => (if w then c.setS d.toNat r else c).push 1 (.scalar r)

/-- All of some waits end together, in the order of their words; none where one of them goes on. -/
def endWaits (s : State) (t slot : Nat) : List (Nat × WaitKind) → Option State
  | [] => some s
  | x :: r => (s.waitEnds t slot x.2).bind fun u => u.endWaits t slot r

/-- The waits of a held bundle end once all of them can, since the bundle commits as a unit (R23); the bundle then goes on. -/
def wake (s : State) (t slot : Nat) (h : Held) : State :=
  match s.endWaits t slot h.waits with
  | none => s
  | some u => u.settle t slot { h with done := addDone h.done h.waits, waits := [] }

/-- An event on which a wait of some kind may end. -/
def wakeOn (s : State) (t slot : Nat) (q : WaitKind → Bool) : State :=
  match s.heldOf t slot with
  | none => s
  | some h => if (h.waitFor q).isSome then s.wake t slot h else s

end State

/-- SWAIT_WAKE (R203). -/
def execSwaitWake (t slot : Nat) (s : State) : Host.Outcome State Fault Refusal :=
  .next (s.wakeOn t slot fun | .swait _ _ => true | _ => false)

/-- CWAIT_WAKE (R326). -/
def execCwaitWake (t slot : Nat) (s : State) : Host.Outcome State Fault Refusal :=
  .next (s.wakeOn t slot fun | .cwait _ _ _ => true | _ => false)

/-- MWAIT_WAKE (R167). -/
def execMwaitWake (t slot : Nat) (s : State) : Host.Outcome State Fault Refusal :=
  .next (s.wakeOn t slot fun | .mwait _ _ => true | _ => false)

/-- JWAIT_WAKE (R196). -/
def execJwaitWake (t slot : Nat) (s : State) : Host.Outcome State Fault Refusal :=
  .next (s.wakeOn t slot fun | .jwait _ _ => true | _ => false)

/-- WAITEV_WAKE (R81). -/
def execWaitevWake (t slot : Nat) (s : State) : Host.Outcome State Fault Refusal :=
  .next (s.wakeOn t slot fun | .waitev _ => true | _ => false)

/-- Whether a wait is a BWAIT's. -/
def WaitKind.isBwait : WaitKind → Bool
  | .bwait _ _ _ _ _ _ _ _ => true
  | _ => false

/-- A wait of a held bundle replaced. -/
def Held.setWait (h : Held) (pos : Nat) (k : WaitKind) : Held :=
  { h with waits := h.waits.map fun y => if y.1 = pos then (pos, k) else y }

/-- BWAIT_READ (R208, R237): one read, after which the waits of the bundle end if they can. A read that a check now refuses is the word's
trap (DEDUCED, log 36): a word of a bundle whose other words have still to run traps when they run (R333). -/
def execBwaitRead (t slot : Nat) (s : State) : Host.Outcome State Fault Refusal :=
  match s.heldOf t slot with
  | none => .next s
  | some h => match h.waitFor WaitKind.isBwait with
    | some (pos, .bwait d w addr cls ph start lim _) =>
      match s.locate t slot (s.ctxAt t slot) addr.toNat 16 false with
      | .error e =>
        let h' := { h with waits := h.waits.filter fun x => x.1 != pos }
        .next (s.settle t slot (if h.todo then h' else
          { h' with trap := h.trap.or (some { cause := e.1, word := pos, second := false, faddr := BitVec.ofNat 64 e.2 }) }))
      | .ok l =>
        let r := s.sramReads [l.key / 8]
        let x : SVal := { v := BitVec.ofNat 64 (r.1.rd l.key 8), p := r.1.poisoned l.key }
        let h' := h.setWait pos (.bwait d w addr cls ph start lim (some x))
        .next ((r.2.modCtx t slot fun c => { c with held := some h' }).wake t slot h')
    | _ => .next s

/-- BWAIT_LIMIT (R208): the limit counts cycles of CYCLE from issue, and at least one read has been made. -/
def execBwaitLimit (t slot : Nat) (s : State) : Host.Outcome State Fault Refusal := .next (s.wakeOn t slot WaitKind.isBwait)

/-- HELD_ENDING_WORD_RELEASE (R80, R162, R198). -/
def execHeldEndingWordRelease (t slot : Nat) (s : State) : Host.Outcome State Fault Refusal :=
  match s.heldOf t slot with
  | none => .next s
  | some h =>
    if h.ending.isSome ∧ h.trap.isNone ∧ h.brk.isNone ∧ h.waits.isEmpty = true then .next (s.settle t slot h) else .next s

/-- TLBINV_COMPLETE (R349): no unit that a removed entry translated is in flight. -/
def execTlbinvComplete (t slot : Nat) (s : State) : Host.Outcome State Fault Refusal :=
  let p := (s.tileAt t).partid
  let busy := s.tiles.any fun x => x.partid == p && x.burin.any fun b => b.flights.any fun u => u.inv
  if busy then .next s else .next (s.modCtx t slot fun c => { c with tlb := none })

/-! ## Asynchronous traps (R336) -/

/-- The context may leave its held bundle: words of it wait, or its ending word is held, and no trap of it waits to be entered
(R324, R336). -/
def Held.leavable (h : Held) : Bool := h.trap.isNone && (!h.waits.isEmpty || (h.ending.isSome && h.brk.isNone))

/-- The words of a held bundle that are complete as its context leaves it: TRAP and BRK have not acted (R80). -/
def Held.left (h : Held) : Nat := dropBit h.done (h.brk.map (·.word))

/-- The bundle to which a context that leaves it comes back (R324, R340): one of which no word is complete issues anew. -/
def Held.back (h : Held) : Option Resume :=
  if h.left = 0 then none else some { done := h.left, snap := h.snap, lmask := h.lmask, npc := h.npc, known := h.known }

/-- An asynchronous trap can be delivered to a context now. -/
def Ctx.asyncReady (c : Ctx) : Bool :=
  !c.asyncTraps.isEmpty && c.fresh1 && !c.mode && !c.stopped && c.preStep == 0 && !c.pending && c.resume.isNone &&
  match c.held with
  | none => !c.afterXret
  | some h => h.leavable

/-- ASYNC_TRAP_DELIVERY (R335, R336): the oldest asynchronous trap; a bundle that waits or is held at its ending word is left with
those words incomplete, and its issues are credited (R353). -/
def execAsyncTrapDelivery (t slot : Nat) (s : State) : Host.Outcome State Fault Refusal :=
  let c := s.ctxAt t slot
  match c.asyncTraps with
  | [] => .next s
  | (cause, addr) :: rest =>
    if !c.asyncReady then .next s
    else
      let tr : Trap := { cause := cause, word := 0, second := false, faddr := addr }
      let s := if c.held.isSome then s.credit t slot false else s
      let h : Held := match c.held with
        | some h => { h with done := h.left, waits := [], ending := none, brk := none }
        | none => s.leftNow t slot
      .next ((s.modCtx t slot fun c => { c with asyncTraps := rest }).enterHeld t slot h tr)

/-! ## Completion handlers (R323, R324) -/

/-- The context as the handler starts (R323), with the bundle to which CRET returns. -/
def Ctx.enterHandler (c : Ctx) (r : Option Resume) : Ctx :=
  { c with
    hsS := c.s.drop 24, hsP := (c.p.drop 1).take 3, hsLat := c.lat, hsG := (c.gcount, c.gmask, c.gpred), hsPc := c.pc,
    hsResume := r, chActive := true, s := c.s.set 24 { v := c.chPend.setWidth 64 }, pc := c.chvec,
    lat := List.replicate 8 .empty, gcount := 0, gmask := 0, gpred := 0, held := none, resume := none,
    hsIssue := (c.issueNo, c.detections, c.injDet, c.firstHalf), issueNo := 1, detections := 0, injDet := 0 }

/-- A handler can be entered now: at a bundle boundary, or out of a wait (R324), with no result under way (DEDUCED, log 37). -/
def Ctx.handlerReady (c : Ctx) : Bool :=
  c.mayHandle && !c.stopped && c.preStep == 0 && !c.pending &&
  match c.held with
  | none => true
  | some h => h.leavable && !h.waits.isEmpty

/-- COMPLETION_HANDLER_ENTRY (R81, R323, R324): a waiting WAITEV completes, and its event bits are cleared as at any completion of it
(DEDUCED, log 72); a bundle with any other wait is left, its complete words complete. -/
def execCompletionHandlerEntry (t slot : Nat) (s : State) : Host.Outcome State Fault Refusal :=
  let c := s.ctxAt t slot
  if !c.handlerReady then .next s
  else match c.held with
    | none => .next (s.modCtx t slot fun c => c.enterHandler c.resume)
    | some h => match h.waitFor fun | .waitev _ => true | _ => false with
      | some (pos, .waitev m) =>
        let s1 := (s.modCtx t slot fun c => c.clearEvents m).endWait t slot h pos
        .next (if (s1.ctxAt t slot).handlerReady then s1.modCtx t slot fun c => match c.held with
            | none => c.enterHandler c.resume
            | some g => c.enterHandler g.back
          else s1)
      | _ => .next (s.modCtx t slot fun c => c.enterHandler h.back)

/-! ## Arrivals -/

/-- Whether a request stores as the memory stands: an ACAS whose comparand differs does not (R143). -/
def MeshReq.stores (s : State) (r : MeshReq) : Bool :=
  match r.act with
  | .atomic .cas key _ cmp _ => s.rd key 8 == cmp.v.toNat
  | a => a.spans.2.2

/-- The bytes of a request among those of doubleword `d`, for a vector load; all of them for another access. -/
def MeshReq.part (r : MeshReq) (d : Nat) : List (Nat × Nat) :=
  if r.act.units.isEmpty then r.act.spans.1 else r.act.spans.1.filter fun x => x.1 / 8 == d

/-- An earlier request of the same context that must be applied before part `d` of request `b`: one that shares a byte with it, of the
same class or with a store (R246, R293); and, where `b` is an ACAS that writes, one that a store of its class follows (R143, R292). -/
def reqBefore (s : State) (a b : MeshReq) (d : Nat) : Bool :=
  a.tile == b.tile && a.slot == b.slot && a.task == b.task && a.res.isNone &&
  ((overlap a.rest (b.part d) && (a.cls == b.cls || a.act.spans.2.2 || b.stores s)) ||
    match b.act with
    | .atomic .cas key _ _ _ =>
      b.stores s && holdsAccess b.tile a { cls := b.cls, spans := [(b.home, key, 8)], load := true, store := true }
    | _ => false)

/-- The memory with the doublewords that a vector load has read as it found them (R289). -/
def State.overlay (s : State) (l : List (Nat × Nat × Bool)) : State :=
  l.foldl (fun s x => (s.wr (8 * x.1) 8 x.2.1).mark (8 * x.1) x.2.2) s

/-- The parts of the requests under way that wait at their banks: each request, or each doubleword of a vector load, with its place
(R289). -/
def State.arrivals (s : State) : List (Nat × Nat) :=
  s.mesh.zipIdx.flatMap fun x =>
    if x.1.res.isSome then []
    else if x.1.act.units.isEmpty then [(x.2, 0)]
    else (x.1.act.units.filter fun d => !x.1.got.any fun g => g.1 == d).map fun d => (x.2, d)

/-- A request that is one access is applied at its home bank. -/
def State.arriveWhole (s : State) (n : Nat) (r : MeshReq) : State :=
  let x := s.apply r.home r.act
  { x.1 with mesh := if r.dst = .none then s.mesh.eraseIdx n else s.mesh.set n { r with res := some x.2, holds := [] } }

/-- One doubleword of a vector load is read at its bank; with the last one the load has its answer. -/
def State.arrivePart (s : State) (n : Nat) (r : MeshReq) (d : Nat) : State :=
  let x := s.sramReads [d]
  let got := r.got ++ [(d, x.1.rd (8 * d) 8, x.1.poisoned (8 * d))]
  if got.length < r.act.units.length then { x.2 with mesh := s.mesh.set n { r with got := got } }
  else { x.2 with mesh := s.mesh.set n { r with got := got, res := some (x.2.applyAs (x.2.overlay got) r.home r.act).2, holds := [] } }

/-- The home of part `d` of a request. -/
def MeshReq.homeOf (r : MeshReq) (d : Nat) : Nat := if r.act.units.isEmpty then r.home else (dwHome d).1

/-- MESH_ARRIVAL (R245 to R247, R289): the `k`-th part under way is applied at its home bank; a fenced tile takes none (R364). -/
def execMeshArrival (k : Nat) (s : State) : Host.Outcome State Fault Refusal :=
  match s.arrivals[k]? with
  | none => .next s
  | some (n, d) => match s.mesh[n]? with
    | none => .next s
    | some r =>
      if (s.mesh.take n).any fun a => reqBefore s a r d then .next s
      else if !s.reachable (r.homeOf d) then .next { s with mesh := s.mesh.eraseIdx n }
      else if r.act.units.isEmpty then .next (s.arriveWhole n r)
      else .next (s.arrivePart n r d)

/-- Positions of the answered requests of a context. -/
def State.answered (s : State) (t slot : Nat) : List Nat :=
  (s.mesh.zipIdx.filter fun x => x.1.tile == t && x.1.slot == slot && x.1.res.isSome).map (·.2)

/-- RESULT_DELIVERY (R17, R22, R23): the `k`-th answer for a context reaches its register and its latch; a bundle held for it
goes on. -/
def execResultDelivery (t slot k : Nat) (s : State) : Host.Outcome State Fault Refusal :=
  match (s.answered t slot)[k]? with
  | none => .next s
  | some n => match s.mesh[n]? with
    | none => .next s
    | some r =>
      let s1 := { s with mesh := s.mesh.eraseIdx n }
      let s2 := s1.modCtx t slot fun c =>
        if c.taskid = r.task then c.deliver r.dst (r.res.getD .none) true r.latch else c
      match s2.heldOf t slot with
      | some h => .next (s2.settle t slot h)
      | none => .next s2

/-- The bundle of a SIG has committed (R203). -/
def State.sigGone (s : State) (r : SigReq) : Bool :=
  match r.src with
  | none => true
  | some (t, slot, task, n) => match s.ctx? t slot with
    | none => true
    | some c => !(c.taskid == task && c.bundles == n && c.held.isSome)

/-- SIG_DELIVERY (R177, R201, R203): the increment reaches its semaphore, while the gang still holds it and the tile is in service
(R364). -/
def execSigDelivery (k : Nat) (s : State) : Host.Outcome State Fault Refusal :=
  match s.sigs[k]? with
  | none => .next s
  | some r =>
    if !s.sigGone r then .next s
    else
      let s1 := { s with sigs := s.sigs.eraseIdx k }
      if s.reachable r.tile && (s.tileAt r.tile).semGang.getD r.sem none == some r.gang then .next (s1.addSem r.tile r.sem r.n) else .next s1

/-- Doublewords that a queued write reads before it writes a part of them (R239). -/
def PortW.reads (w : PortW) : List Nat := partDws w.pieces

/-- A queued write applied: what it writes in part is merged into the doubleword as read (R239). -/
def State.applyW (s : State) (w : PortW) : State :=
  let r := s.sramReads w.reads
  (r.2.takeRead r.1 w.reads).storeAll w.pieces w.marks

/-- Positions of the writes queued at a tile's banks. -/
def State.queuedAt (s : State) (t : Nat) : List Nat := (s.portE.zipIdx.filter fun x => x.1.home == t).map (·.2)

/-- PORT_E_WRITE_APPLY (R235, R239, R301): the `k`-th write queued at a tile's banks is applied; writes to one doubleword keep
their order, and a fenced tile takes none (R364). -/
def execPortEWriteApply (t k : Nat) (s : State) : Host.Outcome State Fault Refusal :=
  match (s.queuedAt t)[k]? with
  | none => .next s
  | some n => match s.portE[n]? with
    | none => .next s
    | some w =>
      if (s.portE.take n).any fun v => v.home == t && v.dws.any fun d => w.dws.contains d then .next s
      else if !s.reachable t then .next { s with portE := s.portE.eraseIdx n }
      else .next (({ s with portE := s.portE.eraseIdx n } : State).applyW w)

/-- Key of doubleword `j` of a bank: 0 to 31 of the scratchpad, 32 to 223 of the accumulator store (R234, R236). -/
def bankKey (t bank j : Nat) : Nat :=
  if bank < 32 then spKey t (j / 256 * 65536 + j / 8 % 32 * 2048 + bank * 64 + j % 8 * 8)
  else accKey t ((j / 8 * 192 + (bank - 32)) * 64 + j % 8 * 8)

/-- PATROL_SCRUB (R237, R238): one doubleword of a bank, at which the scrubber finds nothing (0), a single-bit error (1) or an
uncorrectable one (2). -/
def execPatrolScrub (t bank line err : Nat) (s : State) : Host.Outcome State Fault Refusal :=
  let n := if bank < 32 then 32768 else 2048
  if 224 ≤ bank ∨ (s.tileAt t).scrub.getD bank 0 ≠ line then .next s
  else
    let key := bankKey t bank line
    let s := s.modTile t fun x => { x with scrub := x.scrub.set bank ((line + 1) % n) }
    let s := (s.sramReads [key / 8]).2
    if err = 1 then .next (s.sramCorrect t (key / 8))
    else if err = 2 then .next (s.sramSpoil t (key / 8))
    else .next s

end Sys2Proof.Machine
end

