-- ==== Sys2Proof/Machine/Preempt.lean ====
section
/-! DEFINITION. Pre-emption of gang instances and their resumption: R342 to R348. Resumption reads the record back; what the record has no
place for is kept with the member of the gang (DEDUCED, log 44). -/

namespace Sys2Proof.Machine

/-! ## The request and the stop of issue (R342, R343) -/

/-- Pre-emption of a gang instance requested: at every member that has a task on its tile (R342). -/
def State.requestPreempt (s : State) (id : Nat) : State :=
  match s.gangOf id with
  | none => s
  | some g => g.members.foldl (fun s m => match m.slot with
    | none => s
    | some k => s.modCtx m.tile k fun c => if c.preState = 0 ∧ !c.stopped then { c with preReq := true, preState := 1 } else c) s

/-- PREEMPT_REQ (R342): a member's supervisor code has written PREEMPT.REQ. -/
def execPreemptReq (t slot : Nat) (s : State) : Host.Outcome State Fault Refusal :=
  let c := s.ctxAt t slot
  if c.preReq ∧ c.preState = 0 then .next (s.requestPreempt c.gang) else .next s

/-- What is left of a held bundle when its context leaves it: its waiting words, and TRAP or BRK, are incomplete (R343). -/
def Held.leave (h : Held) : Resume :=
  { done := match h.brk with
      | some b => if bit h.done b.word then h.done - 2 ^ b.word else h.done
      | none => h.done,
    snap := h.snap, lmask := h.lmask, npc := h.npc, known := h.known }

/-- A context can be stopped now (R343): at a bundle boundary, or out of a wait; a bundle whose trap waits for results is entered
first. -/
def Ctx.stoppable (c : Ctx) : Bool :=
  c.preState == 1 && c.preStep == 0 && !c.stopped && c.fresh1 &&
  match c.held with
  | none => true
  | some h => h.trap.isNone && (!h.waits.isEmpty || h.ending.isSome)

/-- The member of a gang in a slot changed. -/
def State.modMember (s : State) (t slot : Nat) (f : Member → Member) : State :=
  s.modGang (s.ctxAt t slot).gang fun g => { g with members := g.members.map fun m => if m.isAt t slot then f m else m }

/-- A copy that waits in its queue (R344). -/
def Copy.waits (c : Copy) (slot : Nat) : Bool := c.slot == slot && !c.began && c.stop.isNone

/-- PREEMPTION (R343 steps 1 to 4, R344): issue stops, the matrix commands and the copies that have not begun leave their queues. -/
def execPreemption (t slot : Nat) (s : State) : Host.Outcome State Fault Refusal :=
  let c := s.ctxAt t slot
  if (s.ctx? t slot).isNone || !c.stoppable then .next s
  else
    let x := s.tileAt t
    let mine := fun m : MCmd => m.slot == slot && !m.fin
    let copies := fun e => ((s.burinAt t e).q.filter fun q => q.waits slot).map fun q => (e, q)
    let s := s.modMember t slot fun m =>
      { m with mx := x.mq.filter mine, reissue := m.reissue ++ copies 0 ++ copies 1 }
    .next (s.modTile t fun x =>
      { x with
        mq := x.mq.filter fun m => !mine m,
        burin := x.burin.map fun b => { b with q := b.q.filter fun q => !q.waits slot },
        ctx := updAt (fun o => o.map fun c =>
          { c with preStep := 1, preState := 2, held := none,
                   resume := match c.held with | some h => some h.leave | none => c.resume }) slot x.ctx })

/-- The new bytes of a plate whose write has begun. -/
def UnitSt.image : UnitSt → Nat
  | .sealing img => img
  | .writing img _ => img
  | .committed img => img
  | _ => 0

/-- Begun writes of a stopped command count as delivered, in order: their commits run on in the engine without it (R344). -/
def State.detachWrites (s : State) (t e : Nat) : List CUnit → State
  | [] => s
  | u :: r => match s.copyOf t e u.tag with
    | none => s.detachWrites t e r
    | some c =>
      if u.st.begun && c.stop == some 6 then
        (s.deliverLate t e c u.len (bits u.st.image (8 * ((cpDST c.d + u.off) % 4096)) (8 * u.len))).detachWrites t e r
      else s.detachWrites t e r

/-- The commands of a context on one engine stop at the drain limit (R344). -/
def State.drainEngine (s : State) (t slot e : Nat) : State :=
  let hit := fun c : Copy => c.slot == slot && c.began && !c.cut && (c.stop.isNone || c.stop == some 6)
  let s := s.stopCopies t e hit 6
  s.detachWrites t e ((s.burinAt t e).units.filter fun u => (s.burinAt t e).q.any fun c => hit c && c.tag == u.tag)

/-- DRAIN_LIMIT (R344): units that are not far enough are discarded, and commands that have begun end STOPPED. -/
def execDrainLimit (t slot : Nat) (s : State) : Host.Outcome State Fault Refusal :=
  if (s.ctxAt t slot).preStep ≠ 1 then .next s else .next ((s.drainEngine t slot 0).drainEngine t slot 1)

/-! ## The record (R338, R345 to R347) -/

/-- A copy as it goes on: its addresses and length past what it has delivered (R345, R348). -/
def Copy.rest (c : Copy) : Copy :=
  let d := c.d.toNat
  let n := c.doneb
  { c with
    d := BitVec.ofNat 512 (setBits (setBits (setBits d 0 64 (bits d 0 64 + n)) 64 64 (bits d 64 64 + n)) 128 24 (bits d 128 24 - n)),
    began := false, next := 0, doneb := 0, base := c.base + n, err := 0, walk := 0, pout := 0, fpn := 0, stop := none, fin := false,
    phase := 0, stall := none }

/-- A reissue entry (R345). -/
def Copy.entry (c : Copy) (name : BitVec 32) : Nat :=
  setBits c.rest.d.toNat 448 64 (name.toNat + (if c.began then 6 else 1) * 2 ^ 32 + (c.base + c.doneb) % 2 ^ 24 * 2 ^ 40)

/-- A copy put in its place among others, in acceptance order. -/
def insertCopy (c : Nat × Copy) : List (Nat × Copy) → List (Nat × Copy)
  | [] => [c]
  | x :: r => if (x.2.tag - c.2.tag).toNat < 2 ^ 31 ∧ x.2.tag ≠ c.2.tag then c :: x :: r else x :: insertCopy c r

/-- The copies to accept again of one engine, in acceptance order. -/
def Member.copies (m : Member) (e : Nat) : List (Nat × Copy) :=
  (m.reissue.filter fun x => x.1 == e).foldl (fun l c => insertCopy c l) []

/-- The Burin part of an engine (R345): statuses oldest first (DEDUCED, log 44). -/
def burinPart (c : Ctx) (m : Member) (e : Nat) : Nat :=
  let l := m.copies e
  ofElems 16 (((c.kept.getD e []).reverse).map fun k => k.tag.toNat + k.status.toNat * 2 ^ 64) +
  (c.crc.getD e 0).toNat * 2 ^ (8 * 0x100) + l.length * 2 ^ (8 * 0x108) +
  ofElems 64 (l.map fun x => x.2.entry (c.firstTag e x.2.tag)) * 2 ^ (8 * 0x200)

/-- A matrix command as an entry of 256 bytes (R347; DEDUCED, log 45). -/
def MKind.entry : MKind → Nat
  | .go d _ _ => d.toNat
  | .clr off len z => off + len * 2 ^ 64 + ofBool z * 2 ^ 128
  | .wb d _ => d.toNat

/-- The matrix part (R347). -/
def matrixPart (c : Ctx) (m : Member) : Nat :=
  let lead := match m.mx.head? with
    | some x => x.began
    | none => false
  let f := (m.mx.head?).getD { seq := 0, slot := 0, kind := .clr 0 0 false }
  let i := fun k => f.idx.getD k 0 % 2 ^ 16
  c.shadow.toNat + c.split.toNat * 2 ^ (8 * 0x100) + (c.mflags.toNat * 2 ^ 32 + c.merr.toNat * 2 ^ 40) * 2 ^ (8 * 0x140) +
  ((if lead then f.seq.toNat + f.row % 2 ^ 10 * 2 ^ 32 + 2 ^ 63 else 0) + m.mx.length % 8 * 2 ^ 48) * 2 ^ (8 * 0x148) +
  (if lead then (i 0 + i 1 * 2 ^ 16 + i 2 * 2 ^ 32 + i 3 * 2 ^ 48) * 2 ^ (8 * 0x150) + (i 4 + i 5 * 2 ^ 16) * 2 ^ (8 * 0x158) else 0) +
  ofElems 256 (m.mx.map fun x => x.kind.entry) * 2 ^ (8 * 0x200)

/-- Offsets 0x1400 to 0x6FFF of a pre-emption record, and its poison marks (R338). -/
def restImage (s : State) (t slot : Nat) (c : Ctx) (m : Member) (parked : List Nat) : Nat × Nat :=
  let x := s.tileAt t
  let put := fun (off v : Nat) => v * 2 ^ (8 * (off - 0x1400))
  (put 0x1400 (ofElems 8 ((List.range 64).map fun i => (userRead c x.raflags x.cycle s.time t i).toNat)) +
   put 0x1600 (ofElems 8 (c.hsS.map (·.v.toNat))) + put 0x1640 (ofElems 32 (c.hsP.map (·.toNat))) +
   put 0x1700 (ofElems 8 ((List.range 32).map fun i => (supRead c x slot i).toNat)) +
   put 0x1800 (matrixPart c m) + put 0x2000 (burinPart c m 0) + put 0x2C00 (burinPart c m 1) +
   put 0x3800 (parked.map fun i => 2 ^ i).sum + put 0x4000 (ofElems 256 (c.v.map (·.v.toNat))) +
   put 0x6000 (ofElems 64 (c.recs.map (·.toNat))),
   ofBools (c.hsS.map (·.p)) * 2 ^ 64 + ofElems 4 (c.v.map (·.p.toNat)) * 2 ^ 1408)

/-- The entries that a context parks: every one whose OWNER it is (R346). -/
def Tile.toPark (x : Tile) (slot : Nat) : List Nat := (x.rmap.zipIdx.filter fun e => entOWNER e.1 == slot).map (·.2)

/-- The front part of a pre-emption record (R338, R339). -/
def State.preFront (s : State) (t slot : Nat) (c : Ctx) : Front :=
  let r := c.resume.getD { done := 0, snap := snapOf c (s.snapWords t slot) 0, lmask := 0, npc := none }
  { kind := 2, done := r.done, npc := r.npc, cause := c.cause, faddr := c.faddr, lmask := r.lmask, snap := r.snap, bpc := c.pc,
    nest := c.mode }

/-- Nothing of a stopped context is under way: its results have arrived, its accesses and its signals are applied, its matrix commands and copies are
over (R343 steps 2 to 4). -/
def State.drained (s : State) (t slot : Nat) (c : Ctx) : Bool :=
  let x := s.tileAt t
  c.held.isNone && !c.pending && !(s.mesh.any fun r => r.tile == t && r.slot == slot) && !(s.sigs.any fun r => r.isFrom t slot) &&
  !(x.mq.any fun m => m.slot == slot) && !(x.burin.any fun b => b.q.any fun q => q.slot == slot)

/-- PROOF_RECORD_WRITE (R336, R343 steps 5 and 6, R346): the record is written, the context's entries are parked, and its slot and
registers are free; a save area that fails R337 is a proof fault. -/
def execProofRecordWrite (t slot : Nat) (s : State) : Host.Outcome State Fault Refusal :=
  match s.ctx? t slot with
  | none => .next s
  | some c =>
    if c.preStep ≠ 1 ∨ c.stopped ∨ !s.drained t slot c then .next s
    else
      let x := s.tileAt t
      if !saveAreaOk x slot c then
        let k := s.fresh
        .next (k.2.proofFault t slot (Config.proofCause k.1).toNat)
      else match (s.gangOf c.gang).bind fun g => g.members.find? fun m => m.isAt t slot with
        | none => .next s
        | some m =>
          let parked := x.toPark slot
          let im := restImage s t slot c m parked
          let s := s.writeFront t slot (if c.mode then 0x7000 else 0) (s.preFront t slot c)
          let s := s.storeDws (proofKey t x c 0x1400) ((0x7000 - 0x1400) / 8) im.1 im.2
          let s := s.modTile t fun x => { x with rmap := parked.foldl (fun l i => updAt (fun e => entSet e 59 true) i l) x.rmap }
          .next ((s.modMember t slot fun m =>
            { m with saved := some { c with preState := 0, preReq := false, preStep := 0, events := 0, chPend := 0 } }).freeCtx t slot)

/-! ## Resumption (R348) -/

/-- A saved member can enter its tile: the tile is in service with a free slot and room for its registers (R19, R348). -/
def State.canReturn (s : State) (m : Member) : Bool :=
  match m.saved with
  | none => true
  | some c =>
    !(s.tileAt m.tile).fenced && (s.freeSlot m.tile).isSome && decide (s.vregsUsed m.tile + (if c.v32 then 32 else 16) ≤ 128)

/-- A placeable job of higher priority waits on the die of the instance's job (R348). -/
def State.outranked (s : State) (g : Gang) : Bool :=
  let die := bits g.job.toNat 12 3
  (s.dieAt die).jobs.any fun j =>
    decide (0 < j.left) && !j.complete && decide (pktPRIO g.pkt < pktPRIO j.pkt) && (s.placeJob die j).isSome

/-- The names of a context's tags after one of its copies got a new tag (R348). -/
def newNames (l : List (Nat × BitVec 32 × BitVec 32)) (e : Nat) (old new : BitVec 32) : List (Nat × BitVec 32 × BitVec 32) :=
  if l.any fun x => x.1 == e && x.2.2 == old then
    l.map fun x => if x.1 = e ∧ x.2.2 = old then (e, x.2.1, new) else x
  else l ++ [(e, old, new)]

/-- A copy as its reissue entry gives it back (R345): the rest of its descriptor, and DONEB. -/
def Copy.reissued (c : Copy) (entry : Nat) : Copy :=
  { c.rest with d := BitVec.ofNat 512 (setBits entry 448 64 (bits c.d.toNat 448 64)), base := bits entry 488 24 }

/-- The recorded copies of an engine accepted again, from the entry at a key on (R348). -/
def State.acceptCopies (s : State) (t slot e key : Nat) : List (Nat × Copy) → State
  | [] => s
  | c :: r =>
    let tag := (s.burinAt t e).seq + 1
    let new : Copy := { c.2.reissued (s.rd key 64) with tag := tag, slot := slot }
    let s := s.modBurin t e fun b => { b with seq := tag, q := b.q ++ [new] }
    (s.modCtx t slot fun x => { x with aliases := newNames x.aliases e c.2.tag tag }).acceptCopies t slot e (key + 64) r

/-- A matrix command as its entry gives it back, with the records that it took at its acceptance (R110, R347). -/
def MKind.reload (x : Nat) : MKind → MKind
  | .go _ ra rb => .go (BitVec.ofNat 2048 x) ra rb
  | .clr _ _ _ => .clr (bits x 0 64) (bits x 64 64) (bit x 128)
  | .wb _ r => .wb (BitVec.ofNat 512 x) r

/-- The recorded matrix commands (R347, R348): the first goes on at its recorded step or row when it was stopped. -/
def State.loadMatrix (s : State) (base : Nat) (l : List MCmd) : List MCmd :=
  l.zipIdx.map fun m =>
    let k := m.1.kind.reload (s.rd (base + 0x1A00 + 256 * m.2) 256)
    if m.2 = 0 ∧ m.1.began then
      { m.1 with kind := k, row := bits (s.rd (base + 0x1948) 8) 32 10,
                 idx := (List.range 6).map fun i => bits (s.rd (base + 0x1950) 16) (16 * i) 16 }
    else { m.1 with kind := k }

/-- The statuses that an engine's part of a record holds, newest first (R345); one that is not kept reads zero. -/
def State.loadKept (s : State) (key : Nat) : List Kept :=
  (((List.range 16).map fun i =>
    ({ tag := BitVec.ofNat 32 (s.rd (key + 16 * i) 8), status := BitVec.ofNat 64 (s.rd (key + 16 * i + 8) 8) } : Kept)).filter fun k =>
      k.status != 0).reverse

/-- A context read back from its record (R348 step 1): the supervisor and user CSRs, the front part, at 0x7000 for a context that left in
supervisor mode, vector registers, parameter records, the handler's save, the engines' statuses and checksums, and what the matrix part
holds. Events that came meanwhile are added (R343). -/
def State.loadRecord (s : State) (t : Nat) (c : Ctx) : Ctx :=
  let base := proofKey t (s.tileAt t) c 0
  let dw := fun off => BitVec.ofNat 64 (s.rd (base + off) 8)
  let c1 := (List.range 32).foldl (fun c k => c.loadSup k (dw (0x1700 + 8 * k)))
    ((List.range 64).foldl (fun c x => c.loadUser x (dw (0x1400 + 8 * x))) c)
  let f := base + if c1.mode then 0x7000 else 0
  let m := s.rd (base + 0x1940) 8
  { s.loadLatches f (s.loadRegs f c1) with
    pc := BitVec.ofNat 64 (s.rd (f + 8) 8), events := c.events ||| BitVec.ofNat 6 (s.rd (f + 0x30) 8), chPend := c1.chPend ||| c.chPend,
    resume := c.resume.map fun r => s.loadResume f r.known,
    hsS := (List.range 8).map fun i => s.rdS (base + 0x1600 + 8 * i),
    hsP := (List.range 3).map fun i => BitVec.ofNat 256 (s.rd (base + 0x1640 + 32 * i) 32),
    shadow := BitVec.ofNat 2048 (s.rd (base + 0x1800) 256), split := BitVec.ofNat 512 (s.rd (base + 0x1900) 64),
    mflags := BitVec.ofNat 5 (bits m 32 5), merr := BitVec.ofNat 4 (bits m 40 4),
    kept := s.loadKept (base + 0x2000) :: s.loadKept (base + 0x2C00) :: c.kept.drop 2,
    crc := BitVec.ofNat 32 (s.rd (base + 0x2100) 4) :: BitVec.ofNat 32 (s.rd (base + 0x2D00) 4) :: c.crc.drop 2,
    v := (List.range 32).map fun i => s.rdV (base + 0x4000 + 256 * i),
    recs := (List.range 64).map fun i => BitVec.ofNat 512 (s.rd (base + 0x6000 + 64 * i) 64 &&& recMask) }

/-- One member of an instance returns to its tile (R348). -/
def State.returnMember (s : State) (m : Member) : State :=
  match m.saved with
  | none => s
  | some c =>
    let t := m.tile
    let slot := (s.freeSlot t).getD 0
    let base := proofKey t (s.tileAt t) c 0
    let r := s.sramReads (dwsOf base 0x8400)
    let v := r.1
    let s := r.2
    let n := v.loadRecord t c
    let mask := v.rd (base + 0x3800) 16
    let mx := (v.loadMatrix base m.mx).zipIdx.map fun q : MCmd × Nat =>
      (q.1.seq, { q.1 with seq := (s.tileAt t).mseq + BitVec.ofNat 32 (q.2 + 1), slot := slot })
    let s := s.modTile t fun x =>
      { x with
        ctx := x.ctx.set slot (some { n with
          preCount := if n.preCount = 0xFFFF then n.preCount else n.preCount + 1,
          aliases := mx.foldl (fun l q => newNames l 3 q.1 q.2.seq) n.aliases }),
        rmap := ((List.range 128).filter (bit mask)).foldl (fun l i =>
          updAt (fun e => if entPARK e then entSetOwner (entSet e 59 false) slot else e) i l) x.rmap,
        mq := x.mq ++ mx.map (·.2), mseq := x.mseq + BitVec.ofNat 32 mx.length }
    let s := (s.acceptCopies t slot 0 (base + 0x2200) (m.copies 0)).acceptCopies t slot 1 (base + 0x2E00) (m.copies 1)
    s.modGang c.gang fun g => { g with members := g.members.map fun y =>
      if y.tile = t then { y with slot := some slot, saved := none, mx := [], reissue := [] } else y }

/-- RESUMPTION (R348): a pre-empted instance resumes as a whole on its tiles. -/
def execResumption (gang : Nat) (s : State) : Host.Outcome State Fault Refusal :=
  match s.gangOf gang with
  | none => .next s
  | some g =>
    if g.off && !g.isBarred && (g.members.all s.canReturn) && !s.outranked g then .next (g.members.foldl State.returnMember s) else .next s

end Sys2Proof.Machine
end

