-- ==== Sys2Proof/Machine/Margin.lean ====
section
/-! DEFINITION. Timing margin, power and heat: detections and replay (R24, R351, R352), the tile's voltage and Gnomon (R354 to R358),
the Almanac (R359 to R361), margin faults and fencing (R362 to R364), rails (R365 to R367), the thermal observer (R368, R369) and the
injector's registers (R370, R371). -/

namespace Sys2Proof.Machine

/-! ## Fields of an Almanac entry (R360) -/

/-- A field of an entry. -/
def almGet (e : BitVec 2048) (lo n : Nat) : Nat := bits e.toNat lo n

/-- A field of an entry set. -/
def almSet (e : BitVec 2048) (lo n v : Nat) : BitVec 2048 := BitVec.ofNat 2048 (setBits e.toNat lo n v)

/-- The floor of an operating point. -/
def almFloor (e : BitVec 2048) (k : Nat) : Nat := almGet e (64 + 16 * k) 16

/-- The effective floor of an operating point (R358). -/
def feff (e : BitVec 2048) (k : Nat) : Nat :=
  almFloor e k + 5 * ((almGet e 448 16 * (almGet e 512 32 - almGet e 464 32) + 4999) / 5000)

namespace State

/-- The margin state of a tile changed. -/
def modMargin (s : State) (t : Nat) (f : Margin → Margin) : State := s.modTile t fun x => { x with margin := f x.margin }

/-- Whether the tile's partition carries the test flag. -/
def inTest (s : State) (t : Nat) : Bool :=
  match (s.tileAt t).partid with
  | none => false
  | some p => (match s.part? p with | some x => x.test | none => false)

/-- The thermal observer throttles the tile's issue (R368). -/
def throttledTile (s : State) (t : Nat) : Bool := (s.tileAt t).margin.throt || s.powThrot.contains (clusterOf t)

/-! ## Rails (R365, R366) -/

/-- The target of a rail: the greatest of the votes, the lower limit and, for VMX and VCO, the VTGTs of the tiles in service. -/
def railTarget (s : State) (r : Nat) : Nat :=
  let v := s.parts.foldl (fun m o => match o with | some p => Nat.max m (p.votes.getD r 0) | none => m) (if r < 2 then 600 else 650)
  if r < 2 then s.tiles.foldl (fun m x => if x.fenced then m else Nat.max m x.margin.vtgt) v else v

end State

/-- A rail after its target was set anew (R366): a rise above the level ends the hold and the descent; a fall starts the hold unless
one runs. -/
def Rail.retarget (x : Rail) (n : Nat) : Rail :=
  if x.level ≤ n then { x with target := n, hold := false, falling := false }
  else { x with target := n, hold := !x.falling }

/-- TRIM (R354). -/
def trimOf (rail vtgt : Nat) : Nat := Nat.min 15 ((rail - vtgt) / 5)

namespace State

/-- Every rail takes its present target. -/
def settleRails (s : State) : State :=
  { s with rails := s.rails.zipIdx.map fun x => if s.railTarget x.2 = x.1.target then x.1 else x.1.retarget (s.railTarget x.2) }

/-- The level of VMX. -/
def vmx (s : State) : Nat := (s.rails.getD 0 {}).level

/-- VTGT of a tile set, with its TRIM (R354) and the rails' targets. -/
def setVtgt (s : State) (t mv : Nat) (f : Margin → Margin) : State :=
  (s.modMargin t fun m => f { m with vtgt := mv, trim := trimOf s.vmx mv }).settleRails

/-! ## Margin faults and fencing (R362 to R364) -/

/-- TILE_FENCE (R362, R364): the tile leaves service; the entry records why and when. -/
def fenceTile (s : State) (t code : Nat) : State :=
  (s.modTile t fun x =>
    { x with
      fenced := true,
      margin := { x.margin with
        dirty := true, work := almSet (almSet x.margin.work 560 2 code) 576 64 s.time.toNat } }).settleRails

/-- The instances that have a task on a tile, resident or pre-empted. -/
def gangsOn (s : State) (t : Nat) : List Gang :=
  s.gangs.filter fun g => g.members.any fun m => m.tile == t && (m.slot.isSome || m.saved.isSome)

/-- Instances stopped, their jobs FAULTED (R362, R363). -/
def faultGangs (s : State) (gs : List Gang) : State :=
  gs.foldl (fun s g => (s.stopGang g.id).endJob g.job false true false) s

/-- MARGIN_FAULT (R362): the tile is stopped and fenced. -/
def marginFault (s : State) (t addr : Nat) : State :=
  let code := if s.inTest t then 3 else 1
  let part := (s.tileAt t).partid
  let s := s.faultGangs (s.gangsOn t)
  let s := s.modMargin t fun m => { m with work := almSet m.work 544 16 (Nat.min (almGet m.work 544 16 + 1) 65535) }
  let s := s.fenceTile t code
  s.tileEvent 5 part t addr 0x19

/-- TMARG as it reads (R354). -/
def tmarg (s : State) (t : Nat) : W64 :=
  let x := s.tileAt t
  let m := x.margin
  BitVec.ofNat 64 (Nat.min m.wRp 65535 + m.vtgt % 2 ^ 16 * 2 ^ 16 + m.trim % 2 ^ 4 * 2 ^ 32 + m.op.toNat * 2 ^ 36 +
    ofBool (s.throttledTile t) * 2 ^ 38 + ofBool m.slow * 2 ^ 39 + ofBool x.fenced * 2 ^ 40)

/-! ## Detections (R24, R351, R352) -/

/-- The bundle at PC of a context issues now: it is fetched, and nothing holds it (R22) or it traps at its decode, which the sensors
watch too (R351). -/
def issuesNow (s : State) (t slot : Nat) : Bool :=
  match s.ctx? t slot with
  | none => false
  | some c =>
    s.tileRuns t && c.atBoundary && s.filled t slot c &&
    match fetchBundle (s.tileAt t) c with
    | .words _ => (match s.snapNow t slot with
      | some ws => (bundleFault c ws).isSome || wordsGo (s.atIssue t slot c ws) c (s.ownReqs t slot c) 0 ws
      | none => true)
    | _ => false

/-- A detection on the present issue of a context's bundle; on its last allowed issue it is a margin fault (R24, R362). -/
def detect (s : State) (t slot inj : Nat) : State :=
  let c := s.ctxAt t slot
  let first := if c.issueNo = 1 then (s.tileAt t).margin.slow || s.throttledTile t else c.firstHalf
  if (if first then 2 else 3) ≤ c.issueNo then s.marginFault t c.pc.toNat
  else
    (s.modCtx t slot fun c =>
      { c with issueNo := c.issueNo + 1, detections := c.detections + 1, injDet := c.injDet + inj, firstHalf := first }).modMargin t
      fun m => { m with half := true, clean := 0 }

/-- The injector's transit kind at an issue of a context (R370, R371): whether it hits, and the state with the LFSR stepped. -/
def injectIssue (s : State) (t slot : Nat) : Bool × State :=
  if bit (s.dieAt (dieOf t)).injCtl.toNat (16 + (s.ctxAt t slot).issueNo) then s.inject t 0 else (false, s)

/-- How many computations of an operation that is under way in an engine have failed: of the matrix engine, of a link command by its age,
or of a unit of a Burin engine (R351); none where it is not under way. -/
def engDets (s : State) (t : Nat) (e : EngOp) : Option Nat :=
  let x := s.tileAt t
  if e.eng = 3 then (x.mq.head?).bind fun m => if m.began && !m.fin && m.stall.isNone then some x.margin.engDet else none
  else if e.eng = 2 then (x.link.q.find? fun m => m.age == e.op && m.st == 3 && !m.fin).map (·.det)
  else if e.eng < 2 then ((s.burinAt t e.eng).flights.find? fun u => u.uid == e.op).map (·.det)
  else none

/-- One more computation of an operation has failed. -/
def engDetect (s : State) (t : Nat) (e : EngOp) : State :=
  if e.eng = 3 then s.modMargin t fun m => { m with engDet := m.engDet + 1 }
  else if e.eng = 2 then s.modLink t e.op fun m => { m with det := m.det + 1 }
  else s.modUnit t e.eng e.op fun u => { u with det := u.det + 1 }

end State

/-- TRANSIT_DETECTION (R24, R351): the issue that it hits is an opportunity of the injector all the same (R371). -/
def execTransitDetection (t slot : Nat) (s : State) : Host.Outcome State Fault Refusal :=
  if s.issuesNow t slot then .next ((s.injectIssue t slot).2.detect t slot 0) else .next s

/-- ENGINE_RECOMPUTATION (R351, R352): the operation is computed again and counts as a replay; a third detection is a margin
fault. -/
def execEngineRecomputation (t : Nat) (e : EngOp) (s : State) : Host.Outcome State Fault Refusal :=
  match s.engDets t e with
  | none => .next s
  | some n => .next (if 2 ≤ n then s.marginFault t 0 else (s.modMargin t fun m => m.count 0 1 0).engDetect t e)

/-- HALF_RATE_END (R352). -/
def execHalfRateEnd (t : Nat) (s : State) : Host.Outcome State Fault Refusal :=
  let m := (s.tileAt t).margin
  if m.half ∧ 8 ≤ m.clean then .next (s.modMargin t fun m => { m with half := false, clean := 0 }) else .next s

/-! ## Gnomon (R355 to R358) -/

/-- WINDOW_CROSSING (R356). -/
def execWindowCrossing (t : Nat) (s : State) : Host.Outcome State Fault Refusal :=
  let m := (s.tileAt t).margin
  if m.crossed ∧ !m.frozen then .next (s.modMargin t fun m => { m with frozen := true, answered := false }) else .next s

/-- MONITOR_WINDOW_END (R356). -/
def execMonitorWindowEnd (t : Nat) (s : State) : Host.Outcome State Fault Refusal :=
  let m := (s.tileAt t).margin
  if m.ended then .next (s.modMargin t Margin.newWindow) else .next s

/-- WINDOW_RESTART (R356): 1 ms after the new VTGT. -/
def execWindowRestart (t : Nat) (s : State) : Host.Outcome State Fault Refusal :=
  let m := (s.tileAt t).margin
  if m.frozen ∧ m.answered then .next (s.modMargin t Margin.newWindow) else .next s

/-- A floor update of the present operating point with its slope (R357, R358). -/
def Margin.floorUpdate (m : Margin) (old : Nat) : Margin :=
  let e := m.work
  let lo := 64 + 16 * m.op.toNat
  let slope := Nat.min 65535 ((almGet e 448 16 + 5000 / Nat.max 1 (almGet e 512 32 - almGet e 464 32)) / 2)
  { m with work := almSet (almSet (almSet e lo 16 (Nat.max (almGet e lo 16) (old + 5))) 448 16 slope) 464 32 (almGet e 512 32) }

/-- A raise recorded (R360). -/
def Margin.raised (time : W64) (inj : Bool) (m : Margin) : Margin :=
  let e := m.work
  { m with
    dirty := true,
    work := almSet (almSet (almSet e 192 32 ((almGet e 192 32 + 1) % 2 ^ 32)) 384 64 time.toNat) 150 1 (ofBool inj) }

/-- VTGT_RAISE (R357): the answer to a crossing. A tile at 750 mV is first rid of its gang instances, then fenced, and their jobs end
FAULTED. -/
def execVtgtRaise (t : Nat) (s : State) : Host.Outcome State Fault Refusal :=
  let m := (s.tileAt t).margin
  if !m.frozen || m.answered then .next s
  else if m.vtgt < 750 then
    let inj := m.wInj == m.wRp
    .next (s.setVtgt t (m.vtgt + 5) fun m => Margin.raised s.time inj
      { (if inj then m else m.floorUpdate (m.vtgt - 5)) with answered := true })
  else if (s.tileAt t).ctx.any fun o => match o with | some c => !c.stopped | none => false then
    .next ((s.gangsOn t).foldl (fun s g => s.requestPreempt g.id) s)
  else
    let code := if s.inTest t then 3 else 1
    .next ((((s.faultGangs (s.gangsOn t)).modMargin t fun m => { m with answered := true }).fenceTile t code).tileEvent 4
      (s.tileAt t).partid t 0 m.vtgt)

/-- VTGT_LOWER (R358). -/
def execVtgtLower (t : Nat) (s : State) : Host.Outcome State Fault Refusal :=
  let m := (s.tileAt t).margin
  if m.run < 2 ^ 30 then .next s
  else if feff m.work m.op.toNat ≤ m.vtgt - 5 ∧ 605 ≤ m.vtgt then
    .next (s.setVtgt t (m.vtgt - 5) fun m =>
      { m with run := 0, dirty := true, work := almSet m.work 224 32 ((almGet m.work 224 32 + 1) % 2 ^ 32) })
  else .next (s.modMargin t fun m => { m with run := 0 })

/-- The operating point of a temperature (R355). -/
def opOf (temp : Nat) : Nat := if temp < 50 then 0 else if temp < 70 then 1 else if temp < 90 then 2 else 3

/-- The temperature that counts for a tile (R355). -/
def State.tileTemp (s : State) (t : Nat) : Nat := Nat.max (s.tnow.getD (clusterOf t) 0) (s.tfc.getD (clusterOf t) 0)

/-- OPERATING_POINT_CHANGE (R355): VTGT reaches the new point's floor first. -/
def execOperatingPointChange (t op : Nat) (s : State) : Host.Outcome State Fault Refusal :=
  let m := (s.tileAt t).margin
  if op = m.op.toNat ∨ op ≠ opOf (s.tileTemp t) then .next s
  else
    let n := Nat.min 750 (Nat.max m.vtgt (feff m.work op))
    if n = m.vtgt then .next (s.modMargin t fun m => { m with op := BitVec.ofNat 2 op })
    else .next (s.setVtgt t n fun m => Margin.raised s.time false { m with op := BitVec.ofNat 2 op })

/-! ## The Almanac (R359 to R361) -/

/-- The CRC field that bytes 0 to 247 of an entry call for (R359). -/
def almCrc (e : BitVec 2048) : Nat := (~~~(crcBytes 248 (bits e.toNat 0 1984) 0xFFFFFFFF)).toNat

/-- A copy is valid (R359). -/
def almValid (e : BitVec 2048) : Bool := almGet e 1984 32 == almCrc e

/-- The SEQ of a copy is greater than another's, modulo 2^16 (R359). -/
def seqAfter (a b : BitVec 2048) : Bool :=
  let d := (almGet a 0 16 + 65536 - almGet b 0 16) % 65536
  decide (0 < d) && decide (d < 32768)

/-- The copy in force: true for A (R359). -/
def Margin.inForce (m : Margin) : Option Bool :=
  match almValid m.almA, almValid m.almB with
  | true, true => some (!seqAfter m.almB m.almA)
  | true, false => some true
  | false, true => some false
  | false, false => none

/-- The entry of a tile as it is read (R361): the copy in force; that of an unknown tile has no floors and 750 mV (R359). -/
def Margin.stored (t : Nat) (m : Margin) : BitVec 2048 :=
  match m.inForce with
  | some true => m.almA
  | some false => m.almB
  | none => BitVec.ofNat 2048 (750 * 2 ^ 128 + 2 ^ 32 + t * 2 ^ 16)

/-- The entry that Gnomon writes for a tile (R360, R361). -/
def Margin.entry (t : Nat) (m : Margin) (seq : Nat) : BitVec 2048 :=
  let w := if m.relearn then almSet m.work 64 64 0 else m.work
  let l : List (Nat × Nat × Nat) :=
    [(0, 16, seq), (16, 9, t), (32, 8, 1), (128, 16, m.vtgt), (144, 4, m.trim), (148, 2, m.op.toNat), (256, 64, m.repl.toNat),
     (320, 64, m.bund.toNat)]
  let w := l.foldl (fun w f => almSet w f.1 f.2.1 f.2.2) w
  almSet w 1984 32 (almCrc w)

/-- The older copy of a tile's entry written with what Gnomon holds (R359 to R361). -/
def Margin.written (t : Nat) (m : Margin) : Margin :=
  let last := match m.inForce with
    | some true => almGet m.almA 0 16
    | some false => almGet m.almB 0 16
    | none => 65535
  let e := m.entry t ((last + 1) % 65536)
  let m := { m with work := if m.relearn then almSet m.work 64 64 0 else m.work, dirty := false, relearn := false }
  if m.inForce = some true then { m with almB := e } else { m with almA := e }

/-- ALMANAC_WRITE (R359 to R361): the older copy is written; a write with nothing to record is the hourly one and counts the hour
(DEDUCED, log 46). -/
def execAlmanacWrite (t : Nat) (s : State) : Host.Outcome State Fault Refusal :=
  .next (s.modMargin t fun m =>
    (if m.dirty then m else { m with work := almSet m.work 512 32 ((almGet m.work 512 32 + 1) % 2 ^ 32) }).written t)

/-! ## LDOs and rails (R354, R366, R367) -/

/-- LDO_TRIM_UPDATE (R354). -/
def execLdoTrimUpdate (t : Nat) (s : State) : Host.Outcome State Fault Refusal :=
  .next (s.modMargin t fun m => { m with trim := trimOf s.vmx m.vtgt })

/-- A rail changed. -/
def State.modRail (s : State) (r : Nat) (f : Rail → Rail) : State := { s with rails := updAt f r s.rails }

/-- RAIL_STEP (R366): 5 mV toward the target; before VMX falls, each LDO raises its output (R354). -/
def execRailStep (r : Nat) (s : State) : Host.Outcome State Fault Refusal :=
  match s.rails[r]? with
  | none => .next s
  | some x =>
    if x.level < x.target then .next (s.modRail r fun x => { x with level := x.level + 5 })
    else if x.target < x.level ∧ x.falling then
      let n := x.level - 5
      let s := s.modRail r fun x => { x with level := n, falling := decide (x.target < n) }
      .next (if r = 0 then { s with tiles := s.tiles.map fun x =>
          { x with margin := { x.margin with trim := Nat.min x.margin.trim (trimOf n x.margin.vtgt) } } } else s)
    else .next s

/-- RAIL_HOLD_EXPIRY (R366): 20 ms after the fall the descent begins. -/
def execRailHoldExpiry (r : Nat) (s : State) : Host.Outcome State Fault Refusal :=
  match s.rails[r]? with
  | none => .next s
  | some x => if x.hold then .next (s.modRail r fun x => { x with hold := false, falling := true }) else .next s

/-- VMIN with a sample and TIME (R367). -/
def vminWord (mv : Nat) (time : W64) : W64 := BitVec.ofNat 64 (mv % 2 ^ 12 * 2 ^ 52 + time.toNat % 2 ^ 52)

/-- VMIN of a rail at a die: compute dies 0 to 7, and 8 for the I/O die (R367). -/
def State.vmin (s : State) (die r : Nat) : W64 := (if die = 8 then s.ioVmin else (s.dieAt die).vmin).getD r 0

/-- VMIN of a rail at a die written with a sample and TIME (R367). -/
def State.putVmin (s : State) (die r mv : Nat) : State :=
  if die = 8 then { s with ioVmin := s.ioVmin.set r (vminWord mv s.time) }
  else s.modDie die fun d => { d with vmin := d.vmin.set r (vminWord mv s.time) }

/-- VMIN_SAMPLE (R367): a sample below the lowest one is kept. -/
def execVminSample (die r mv : Nat) (s : State) : Host.Outcome State Fault Refusal :=
  if mv < bits (s.vmin die r).toNat 52 12 then .next (s.putVmin die r mv) else .next s

/-- VMIN_REARM (R367): a write keeps the present sample and TIME. -/
def execVminRearm (die r mv : Nat) (s : State) : Host.Outcome State Fault Refusal := .next (s.putVmin die r mv)

/-! ## Heat (R368, R369) -/

/-- The cluster of least headroom among those not in a list, 0 to 127. -/
def leastHeadroom (tfc : List Nat) (l : List Nat) : Option Nat :=
  (List.range 128).foldl (fun b c =>
    if l.contains c then b
    else match b with
      | none => some c
      | some d => if tfc.getD d 0 < tfc.getD c 0 then some c else b) none

/-- THERMAL_OBSERVER_UPDATE (R368): the forecasts of the last millisecond and the actions that follow from them. -/
def execThermalObserverUpdate (tnow tfc : List Nat) (watts : Nat) (s : State) : Host.Outcome State Fault Refusal :=
  if tnow.length ≠ 128 ∨ tfc.length ≠ 128 then .next s
  else
    let pow := if 2400 < watts then (match leastHeadroom tfc s.powThrot with | some c => s.powThrot ++ [c] | none => s.powThrot)
      else if watts < 2300 then [] else s.powThrot
    .next { s with
      tnow := tnow, tfc := tfc, watts := watts, powThrot := pow,
      tiles := s.tiles.zipIdx.map fun x =>
        let f := tfc.getD (clusterOf x.2) 0
        { x.1 with margin := { x.1.margin with throt := if 105 ≤ f then true else if f < 100 then false else x.1.margin.throt } } }

/-- EMERGENCY_GATING (R369, R380): every compute clock stops and the ports grant no credits; TIME counts on. -/
def execEmergencyGating (s : State) : Host.Outcome State Fault Refusal := .next ({ s with gated := true } : State).idleAll

/-- GATING_END (R369, R380): execution resumes where it stopped, and the flits that waited go out. -/
def execGatingEnd (s : State) : Host.Outcome State Fault Refusal :=
  .next (((List.range 12).foldl State.flushPort ({ s with gated := false } : State).idleAll).startLinks)

/-! ## The injector's registers (R370, R371) -/

/-- Every target tile's LFSR loaded (R371). -/
def State.loadLfsr (s : State) (die : Nat) : State :=
  let d := s.dieAt die
  { s with tiles := s.tiles.zipIdx.map fun x =>
      if dieOf x.2 = die ∧ bit d.injTiles.toNat (x.2 % 64) then
        let l := d.injSeed ^^^ BitVec.ofNat 64 x.2
        { x.1 with margin := { x.1.margin with lfsr := if l = 0 then 1 else l } }
      else x.1 }

/-- INJCTL written (R370): a RATE above 0x1_0000 leaves RATE as it is (R9); EN rising loads the LFSRs. -/
def State.writeInjCtl (s : State) (die : Nat) (v : W64) : State :=
  let old := (s.dieAt die).injCtl.toNat
  let rate := if bits v.toNat 0 17 ≤ 0x10000 then bits v.toNat 0 17 else bits old 0 17
  let s := s.modDie die fun d => { d with injCtl := BitVec.ofNat 64 (bits v.toNat 17 10 * 2 ^ 17 + rate) }
  if bit v.toNat 26 ∧ !bit old 26 then s.loadLfsr die else s

/-- INJCTL_EN (R370): EN is set. -/
def execInjctlEn (die : Nat) (s : State) : Host.Outcome State Fault Refusal :=
  .next (s.writeInjCtl die ((s.dieAt die).injCtl ||| 0x4000000))

end Sys2Proof.Machine
end

