-- ==== Sys2Proof/Machine/Twin.lean ====
section
/-! DEFINITION. Twin-run windows: R391 and R392. A signal of the partition closes its window and waits in `held` (State.signal); the
events here send digests, compare them, release signals and halt the partition. -/

namespace Sys2Proof.Machine

namespace State

/-- The twin-run state of a partition. -/
def twinOf (s : State) (p : Nat) : Option Twin := (s.part? p).bind (·.twin)

/-- The twin-run state of a partition changed. -/
def modTwin (s : State) (p : Nat) (f : Twin → Twin) : State := s.modPart p fun x => { x with twin := x.twin.map f }

/-- A message to the twin over the first TWIN port that may send (R379, R391). -/
def sendTwin (s : State) (body : FlitBody) : Option State :=
  match (List.range 12).find? fun p => (s.portAt p).twin && s.portRoom p with
  | none => none
  | some p => some (s.sendFlit p (s.portAt p).peer.toNat 0 0 body)

/-- A held message is sent: to a VF, or to the owner (R396, R399). -/
def releaseMsg (s : State) (m : Nat × BitVec 512) : State :=
  let x := m.2.toNat
  if m.1 = 0 then (match s.owner with | some a => s.answer a (bits x 0 8) (bits x 64 64) (bits x 128 384) | none => s)
  else s.sendVf (m.1 - 1) (bits x 0 8) (bits x 64 64) (bits x 128 384)

/-- The gang instances of a partition. -/
def gangsOf (s : State) (p : Nat) : List Gang := s.gangs.filter fun g => g.members.any fun m => (s.tileAt m.tile).partid == some p

/-- A partition halts (R392): every context of its tiles stops as a proof fault stops one, and none that is off its tile comes back. -/
def haltPart (s : State) (p : Nat) : State :=
  let s := s.modPart p fun x => { x with halted := true }
  let s := (s.gangsOf p).foldl (fun s g => s.modGang g.id Gang.bar) s
  (List.range 512).foldl (fun s t =>
    if (s.tileAt t).partid = some p then
      (List.range 8).foldl (fun s k => if (s.ctx? t k).isSome then s.stopCtx t k else s) s
    else s) s

/-- An event of a halted partition, which no digest can release (R392, R406). -/
def haltEvent (s : State) (code p data : Nat) : State :=
  s.signalNow (s.vfsOf p) true 3 0 (eventBody code p 0 0 s.time 0 data)

/-- A partition is halted (R392). -/
def halted (s : State) (p : Nat) : Bool := ((s.part? p).map (·.halted)).getD false

/-- The oldest held signal against the twin's digest for its window, once its own digest has gone to the twin: equal digests release
it, different ones halt the partition (R392). -/
def compareTwin (s : State) (p : Nat) : State :=
  match s.twinOf p with
  | none => s
  | some tw => match (if s.halted p then [] else tw.held) with
    | [] => s
    | (win, own, msgs) :: rest => match tw.theirs.find? fun x => x.1 == win && decide (win < tw.sent) with
      | none => s
      | some x =>
        let s := s.modTwin p fun tw => { tw with theirs := tw.theirs.filter fun y => y.1 != win, last := win }
        if x.2 = own then msgs.foldl releaseMsg (s.modTwin p fun tw => { tw with held := rest })
        else (s.haltPart p).haltEvent 6 p (win % 2 ^ 64 + own.toNat * 2 ^ 64 + x.2.toNat * 2 ^ 128)

end State

/-- TWIN_WINDOW_CLOSE (R392): the digest of the oldest window closed and not yet sent goes to the twin. -/
def execTwinWindowClose (p : Nat) (s : State) : Host.Outcome State Fault Refusal :=
  match s.twinOf p with
  | none => .next s
  | some tw => match tw.held.find? fun h => h.1 == tw.sent with
    | none => .next s
    | some (win, own, _) => match s.sendTwin (.twinDigest p win own.toNat) with
      | none => .next s
      | some s => .next ((s.modTwin p fun tw => { tw with sent := tw.sent + 1 }).compareTwin p)

/-- The first received flit of a TWIN port that a predicate admits, taken from it. -/
def State.takeTwin (s : State) (q : Flit → Bool) : Option (Flit × State) :=
  (List.range 12).findSome? fun p => if (s.portAt p).twin then s.takeRx p q else none

/-- TWIN_DIGEST (R392): the twin's digest arrives and is compared once the window is closed here. -/
def execTwinDigest (p win digest : Nat) (s : State) : Host.Outcome State Fault Refusal :=
  match s.twinOf p with
  | none => .next s
  | some _ => match s.takeTwin fun f => f.body == .twinDigest p win digest with
    | none => .next s
    | some (_, s) =>
      if s.halted p then .next s
      else .next ((s.modTwin p fun tw => { tw with theirs := tw.theirs ++ [(win, BitVec.ofNat 64 digest)] }).compareTwin p)

/-- INTERIM_DIGEST (R392): an interim digest of the twin is kept for diagnosis, or else the open window's is sent. -/
def execInterimDigest (p : Nat) (s : State) : Host.Outcome State Fault Refusal :=
  match s.twinOf p with
  | none => .next s
  | some tw => match s.takeTwin fun f => match f.body with | .twinInterim q _ _ => q == p | _ => false with
    | some (f, s) => match f.body with
      | .twinInterim _ w d => .next (s.modTwin p fun tw => { tw with interims := tw.interims ++ [(false, w, BitVec.ofNat 64 d)] })
      | _ => .next s
    | none => match s.sendTwin (.twinInterim p tw.win tw.digest.toNat) with
      | none => .next s
      | some s => .next (s.modTwin p fun tw => { tw with interims := tw.interims ++ [(true, tw.win, tw.digest)] })

/-- TWIN_LOST (R392): 300 µs without a message halt the partition. -/
def execTwinLost (p : Nat) (s : State) : Host.Outcome State Fault Refusal :=
  match s.twinOf p with
  | none => .next s
  | some tw =>
    if s.halted p then .next s else .next ((s.haltPart p).haltEvent 7 p (tw.last % 2 ^ 64))

end Sys2Proof.Machine
end

