-- ==== Sys2Proof/Machine/Manage.lean ====
section
/-! DEFINITION. Partitions, virtual functions, the owner's management commands: R391, R394 to R401 and R406. -/

namespace Sys2Proof.Machine

/-! ## Commands (R397 to R399) -/

namespace State

/-- A management command: the owner's is applied and answered with its VALUE, another agent's is answered REFUSED (R397, R399). -/
def command (s : State) (ag : Agent) (act : State → State × Nat) : State :=
  if s.owner = some ag then
    let r := act s
    r.1.answer ag 4 r.2 0
  else s.answer ag 4 1 0

/-- The teardown of a partition is under way (R400). -/
def isClosing (s : State) (p : Nat) : Bool := ((s.part? p).bind (·.closing)).isSome

/-- A command to an active partition; another number is REFUSED (DEDUCED, log 47), and during a teardown it is BUSY (R400). -/
def partCommand (s : State) (ag : Agent) (p : Nat) (act : Part → State → State × Nat) : State :=
  s.command ag fun s => match s.part? p with
    | none => (s, 1)
    | some x => if s.isClosing p then (s, 2) else act x s

end State

/-- PART_CREATE (R399). -/
def execPartCreate (ag : Agent) (p : Nat) (test : Bool) (s : State) : Host.Outcome State Fault Refusal :=
  .next (s.command ag fun s =>
    if 32 ≤ p ∨ (s.part? p).isSome then (s, 1) else ({ s with parts := s.parts.set p (some { test := test }) }, 0))

/-- A line of a span: of its plates, their tags or its counter blocks (R273). -/
def inSpanLines (span line : Nat) : Bool :=
  let a := 64 * line
  let within := fun (base n : Nat) => decide (base + span * n ≤ a) && decide (a < base + (span + 1) * n)
  within 0 (2 ^ 29) || within 0xFE0000000 (2 ^ 21) || within 0xFF0000000 (2 ^ 19) || within 0xFF4000000 (2 ^ 13)

/-- A span's counters, tags and states as a new grant leaves them: its lines are written anew, so no error stands in them (R264, R276). -/
def Stack.clearSpan (k : Stack) (span : Nat) : Stack :=
  { k with
    spans := k.spans.filter fun x => x.idx != span,
    groups := k.groups.filter fun x => x.1 / 2048 != span,
    nodes := k.nodes.filter fun x => x.1 / 32 != span,
    roots := k.roots.filter fun x => x.1 != span,
    seals := k.seals.filter fun x => x.1 / 2 ^ 17 != span,
    bad := k.bad.filter fun x => x / 2 ^ 17 != span,
    flaws := k.flaws.filter fun x => !inSpanLines span x.1 }

/-- A write or a re-seal in a span is under way (R276). -/
def Stack.spanBusy (k : Stack) (st span : Nat) : Bool :=
  (k.holds.any fun h => h.1 / 2 ^ 17 == span) || k.resealsIn (st * 2 ^ 36 + span * 2 ^ 29) 29

/-- The heap instances of a partition return to UNUSED (R211, R400). -/
def Die.freeHeap (p : Nat) (d : Die) : Die := { d with heap := d.heap.map fun h => if h.owner = some p then {} else h }

/-- A VF of a partition is unbound. -/
def unbindVf (p : Nat) (v : Nat × Vf) : Nat × Vf := if v.2.part = some p then (v.1, { v.2 with part := none }) else v

/-- An engine drops what it holds for a partition (R268, R277). -/
def Burin.dropPart (p : Nat) (b : Burin) : Burin := { b with tlb := b.tlb.filter (fun y => y.part != p), ctr := [], fetch := [] }

/-- A tile leaves its partition (R26, R364, R400): a fence of a test partition is lifted. -/
def Tile.leavePart (p : Nat) (y : Tile) : Tile :=
  if y.partid = some p then
    let x := { y with burin := y.burin.map (Burin.dropPart p) }
    let lift := x.fenced && almGet x.margin.work 560 2 == 3
    { x with
      partid := none, raflags := 0, semGang := x.semGang.map fun _ => none, handoffs := [], icache := [],
      fenced := x.fenced && !lift,
      margin := if lift then { x.margin with work := almSet x.margin.work 560 2 0, dirty := true } else x.margin }
  else { y with burin := y.burin.map fun b => { b with tlb := b.tlb.filter fun e => e.part != p } }

/-- What the tiles of a partition have under way in the mesh, at banks and toward semaphores is gone (R400). -/
def State.dropTraffic (s : State) (p : Nat) : State :=
  let mine := fun t => (s.tileAt t).partid == some p
  { s with
    mesh := s.mesh.filter fun r => !mine r.tile, portE := s.portE.filter fun w => !mine w.src, sigs := s.sigs.filter fun r => !mine r.tile,
    hbm := s.hbm.map fun k : Stack => { k with reqs := k.reqs.filter fun r => !mine r.tile || r.reseal ||
      !((s.burinAt r.tile r.eng).fetch.any fun u => u.uid == r.uid) } }

/-- The context of a member stops as R336 stops one. -/
def State.stopMember (s : State) (m : Member) : State :=
  match m.slot with
  | some k => s.stopCtx m.tile k
  | none => s

/-- PART_DESTROY begins (R336, R400): every gang instance stops, while its link commands go on, and the jobs complete with no message. -/
def State.beginTeardown (s : State) (ag : Agent) (p : Nat) : State :=
  let gs := s.gangsOf p
  let s := gs.foldl (fun s g => (g.members.foldl State.stopMember s).modGang g.id Gang.bar) s
  let jobs := s.dies.zipIdx.flatMap fun d => (d.1.jobs.filter fun j => j.part == p && !j.complete).map fun j => handleOf d.2 j
  (jobs.foldl (fun s h => s.endJob h false false true) s).modPart p fun x => { x with closing := some ag }

/-- A link command of a partition's tiles has not completed. -/
def State.linksBusy (s : State) (p : Nat) : Bool := s.tiles.any fun x => x.partid == some p && !x.link.q.isEmpty

/-- A teardown ends once the link commands of its instances are complete (R336, R400; DEDUCED, log 48): all that the partition had is free,
and PART_DESTROY is answered. Writes and re-seals that have begun go on in their spans (R276, R283). -/
def State.endTeardown (s : State) (p : Nat) : State :=
  match (s.part? p).bind (·.closing) with
  | none => s
  | some ag =>
    if s.linksBusy p then s
    else
      let s := (s.gangsOf p).foldl (fun s g => s.stopGang g.id) s
      let s := (s.dropWalks fun w => w.part == p).dropTraffic p
      (State.settleRails { s with
        dies := s.dies.map (Die.freeHeap p), tiles := s.tiles.map (Tile.leavePart p), vfs := s.vfs.map (unbindVf p),
        hbm := s.hbm.map fun k : Stack => { k with spans := k.spans.filter fun x => x.part != p }, parts := s.parts.set p none,
        keys := s.keys + 1, keySlots := s.keySlots.set p (s.keys + 1) }).answer ag 4 0 0

/-- PART_DESTROY (R400): the teardown begins, and ends at once where no link command is under way. -/
def execPartDestroy (ag : Agent) (p : Nat) (s : State) : Host.Outcome State Fault Refusal :=
  if s.owner ≠ some ag ∨ (s.part? p).isNone then .next (s.answer ag 4 1 0)
  else if s.isClosing p then .next (s.answer ag 4 2 0)
  else .next ((s.beginTeardown ag p).endTeardown p)

/-- LINK_COMPLETION (R383, R385): a command that has ended completes; the last one of a partition in teardown ends that (R400). -/
def execLinkCompletion (t tag : Nat) (s : State) : Host.Outcome State Fault Refusal :=
  match (s.tileAt t).link.q.find? fun m => m.tag.toNat == tag && !m.sub with
  | none => .next s
  | some m =>
    if !s.linkReady t m then .next s
    else .next (match (s.tileAt t).partid with
      | none => s.completeLink t m
      | some p => (s.completeLink t m).endTeardown p)

/-- A free tile of a mask joins a partition, and its RAFLAGS is cleared (R26). -/
def Tile.join (p die : Nat) (mask : BitVec 64) (x : Tile × Nat) : Tile :=
  if dieOf x.2 == die && bit mask.toNat (x.2 % 64) && x.1.partid.isNone then { x.1 with partid := some p, raflags := 0 } else x.1

/-- TILE_ASSIGN (R399): the free tiles of the mask join the partition. -/
def execTileAssign (ag : Agent) (p die : Nat) (mask : BitVec 64) (s : State) : Host.Outcome State Fault Refusal :=
  .next (s.partCommand ag p fun _ s =>
    if 8 ≤ die then (s, 1)
    else ({ s with tiles := s.tiles.zipIdx.map (Tile.join p die mask) }, 0))

/-- VF_BIND (R395, R399, R401): a VF belongs to one partition at most; the first bind locks the feature vector. -/
def execVfBind (ag : Agent) (p vf : Nat) (on : Bool) (s : State) : Host.Outcome State Fault Refusal :=
  .next (s.partCommand ag p fun _ s =>
    let x := s.vfAt vf
    if 1024 ≤ vf then (s, 1)
    else if on then
      if x.part = none ∨ x.part = some p then ({ s.modVf vf fun x => { x with part := some p } with featLock := true }, 0) else (s, 1)
    else if x.part = some p then (s.modVf vf fun x => { x with part := none }, 0)
    else (s, 1))

/-- SUPTAB (R337, R399), for a tile of the partition; the values take the form that TVEC and PROOF have (R28). -/
def execSuptab (ag : Agent) (p t slot : Nat) (tvec proof : BitVec 64) (s : State) : Host.Outcome State Fault Refusal :=
  .next (s.partCommand ag p fun _ s =>
    if (s.tileAt t).partid ≠ some p ∨ 8 ≤ slot then (s, 1)
    else (s.modTile t fun x =>
      { x with suptab := x.suptab.set slot (tvec &&& 0xFFFFFFFFFFFC, proof &&& 0xFFFFFFFFFFFFFF00) }, 0))

/-- A rotation has nothing to do in a span that is granted again (R276, R287). -/
def State.rotateWithout (s : State) (st span : Nat) : State :=
  match (s.stackAt st).rotate with
  | none => s
  | some r => s.rotateLeft st { r with groups := r.groups.filter fun g => g / 2048 != span }

/-- SPAN_GRANT (R276): the span's plates hold zeros, its counters are 0 and its blocks carry the slot; BUSY while a write of the span
has begun (DEDUCED, log 49). -/
def execSpanGrant (ag : Agent) (p st span key : Nat) (s : State) : Host.Outcome State Fault Refusal :=
  .next (s.partCommand ag p fun _ s =>
    let k := s.stackAt st
    if 8 ≤ st ∨ 127 ≤ span ∨ 32 ≤ key ∨ !s.maskHas p key then (s, 1)
    else if k.spanBusy st span then (s, 2)
    else
      let lo := st * 2 ^ 36 + span * 2 ^ 29
      ((({ s with
        mem := s.mem.filter fun c => !(decide (lo ≤ c.1) && decide (c.1 < lo + 2 ^ 29)),
        tiles := s.tiles.map fun x : Tile => { x with burin := x.burin.map fun b : Burin => { b with ctr := [] } } } : State).modStack
        st fun k =>
        let k := k.clearSpan span
        { k with spans := k.spans ++
          [{ idx := span, part := p, key := key, kno := s.keySlots.getD key 0, mno := s.keySlots.getD p 0 }] }).rotateWithout st span, 0))

/-- The groups that a rotation of a slot of a partition re-seals on a stack (R287). -/
def Stack.rotateGroups (k : Stack) (p key : Nat) : List Nat :=
  (k.spans.filter fun x => x.part == p || x.key == key).flatMap fun x => (List.range 2048).map fun i => x.idx * 2048 + i

/-- A stack begins its part of a rotation. -/
def Stack.startRotate (p key old : Nat) (k : Stack) : Stack :=
  { k with rotate := match k.rotateGroups p key with
      | [] => none
      | l => some { part := p, key := key, old := old, groups := l } }

/-- KEY_ROTATE (R287): the slot gets a new key, and the old one serves until its last group is sealed anew; BUSY while another rotation runs. -/
def execKeyRotate (ag : Agent) (p k : Nat) (s : State) : Host.Outcome State Fault Refusal :=
  .next (s.partCommand ag p fun _ s =>
    if 32 ≤ k ∨ !s.maskHas p k then (s, 1)
    else if s.hbm.any fun x => x.rotate.isSome then (s, 2)
    else
      let s : State := { s with
        keys := s.keys + 1, keySlots := s.keySlots.set k (s.keys + 1),
        hbm := s.hbm.map (Stack.startRotate p k (s.keySlots.getD k 0)) }
      (if s.hbm.all fun x => x.rotate.isNone then s.event 2 p 0 k 0 0 else s, 0))

/-- GRANT_MASK (R267). -/
def execGrantMask (ag : Agent) (p : Nat) (mask : BitVec 32) (s : State) : Host.Outcome State Fault Refusal :=
  .next (s.partCommand ag p fun _ s => (s.modPart p fun x => { x with mask := mask }, 0))

/-- A vote within the set of R365. -/
def voteOk (rail mv : Nat) : Bool :=
  mv == 0 || (mv % 5 == 0 && decide ((if rail < 2 then 600 else 650) ≤ mv) && decide (mv ≤ 750))

/-- RAIL_VOTE (R365): a vote outside the set leaves the vote unchanged (R9). -/
def execRailVote (ag : Agent) (p rail mv : Nat) (s : State) : Host.Outcome State Fault Refusal :=
  .next (s.partCommand ag p fun _ s =>
    if voteOk rail mv then ((s.modPart p fun x => { x with votes := x.votes.set rail mv }).settleRails, 0) else (s, 0))

/-- PREEMPT (R342, R399): a running instance of a job of the partition. -/
def execPreemptCmd (ag : Agent) (p : Nat) (job : BitVec 64) (gi : Nat) (s : State) : Host.Outcome State Fault Refusal :=
  .next (s.partCommand ag p fun _ s =>
    match s.jobOf job with
    | none => (s, 1)
    | some j =>
      if j.part ≠ p then (s, 1)
      else match s.gangs.find? fun g => g.job == job && g.inst == gi && !g.off with
        | none => (s, 1)
        | some g => (s.requestPreempt g.id, 0))

/-- INDEX of an owner entry lies in the set that KIND gives it (R254). -/
def ownerOk (v : BitVec 8) : Bool :=
  let k := v.toNat / 64
  k == 1 || (k == 2 && decide (v.toNat % 64 < 4)) || ((k == 0 || k == 3) && v.toNat % 64 == 0)

/-- An owner entry as written last. -/
def Stack.ownerEntry (k : Stack) (wr : Bool) (i : Nat) : BitVec 8 :=
  match (k.ownNew.filter fun x => x.1 == wr && x.2.1 == i).getLast? with
  | some x => x.2.2
  | none => (if wr then k.ownWr else k.ownRd).getD i 0

/-- A write of an owner entry: KIND is set, and INDEX unless it lies outside the set that the new KIND gives it (R9, R254; DEDUCED,
log 83). -/
def Stack.writeOwner (k : Stack) (wr : Bool) (i : Nat) (v : BitVec 8) : Stack :=
  let x := if ownerOk v then v else BitVec.ofNat 8 (v.toNat / 64 * 64 + (k.ownerEntry wr i).toNat % 64)
  if i < 64 then { k with ownNew := k.ownNew ++ [(wr, i, x)] } else k

/-- SCTL written (R263): RATIO while QUIESCED, then QUIESCE. -/
def State.writeSctl (s : State) (st : Nat) (v : BitVec 64) : State :=
  let s := s.setRatio st (bits v.toNat 0 2)
  if bit v.toNat 2 then s.modStack st fun k => { k with quiesce := true }
  else if (s.stackAt st).quiesce ∧ (s.stackAt st).retrain = none then s.unquiesce st
  else s

/-- STACK_CTL (R250, R251, R254, R263, R399). -/
def execStackCtl (ag : Agent) (p st : Nat) (w : StackWrite) (s : State) : Host.Outcome State Fault Refusal :=
  .next (s.partCommand ag p fun _ s =>
    if 8 ≤ st then (s, 1)
    else match w with
      | .hmsk n j v =>
        if n = 0 ∨ 3 < n then (s, 0)
        else (s.modStack st fun k => { k with hmsk := updAt (fun l => l.set j (BitVec.ofNat 22 (bits v.toNat 14 22))) (n - 1) k.hmsk }, 0)
      | .ownRd i v => (s.modStack st fun k => k.writeOwner false i v, 0)
      | .ownWr i v => (s.modStack st fun k => k.writeOwner true i v, 0)
      | .sctl v => (s.writeSctl st v, 0))

/-- ALMANAC (R361): an entry that is read is that of the copy in force; how it reaches the agent is left open (DEDUCED, log 50). -/
def execAlmanacCmd (ag : Agent) (p t : Nat) (op : AlmanacOp) (s : State) : Host.Outcome State Fault Refusal :=
  .next (s.partCommand ag p fun _ s =>
    if 512 ≤ t then (s, 1)
    else match op with
      | .read => ({ s with almRead := s.almRead ++ [(ag, t, (s.tileAt t).margin.stored t)] }, 0)
      | .relearn => (s.modMargin t fun m => { m with relearn := true, dirty := true }, 0)
      | .unfence => (s.modMargin t fun m => { m with unfence := true }, 0))

/-- TWIN (R391, R401). -/
def execTwinSetup (ag : Agent) (p : Nat) (on : Bool) (s : State) : Host.Outcome State Fault Refusal :=
  .next (s.partCommand ag p fun _ s =>
    if !s.featOn 1 then (s, 3) else (s.modPart p fun x => { x with twin := if on then some {} else none }, 0))

/-- INJECT (R370, R399, R401). -/
def execInjectCmd (ag : Agent) (p die : Nat) (seed tiles ctl : BitVec 64) (s : State) : Host.Outcome State Fault Refusal :=
  .next (s.partCommand ag p fun x s =>
    if !s.featOn 2 then (s, 3)
    else if !x.test ∨ 8 ≤ die then (s, 1)
    else ((s.modDie die fun d => { d with injSeed := seed, injTiles := tiles }).writeInjCtl die ctl, 0))

/-- ROOT (R265, R399). -/
def execRootSet (ag : Agent) (p : Nat) (set : Bool) (pa : Nat) (s : State) : Host.Outcome State Fault Refusal :=
  .next (s.partCommand ag p fun _ s =>
    if !set then (s.modPart p fun x => { x with root := none }, 0)
    else if pa % 8192 ≠ 0 ∨ inMeta pa ∨ 2 ^ 39 ≤ pa then (s, 1)
    else (s.modPart p fun x => { x with root := some pa }, 0))

/-! ## The owner (R397, R398) -/

/-- OWNER_CLAIM (R397): the first claim after a start; of claims in one cycle the host's. -/
def execOwnerClaim (host board : Bool) (s : State) : Host.Outcome State Fault Refusal :=
  if !s.started || s.owner.isSome then .next s
  else .next { s with owner := if host then some .host else if board then some .board else none }

/-- HANDOVER (R398): the other agent holds the offer. -/
def execHandover (ag : Agent) (s : State) : Host.Outcome State Fault Refusal :=
  .next (s.command ag fun s => ({ s with offer := some (match ag with | .host => .board | .board => .host) }, 0))

/-- ACCEPT (R398), within 100 ms of the offer. -/
def execAccept (ag : Agent) (s : State) : Host.Outcome State Fault Refusal :=
  if s.offer = some ag then .next ({ s with owner := some ag, offer := none }.answer ag 4 0 0)
  else .next (s.answer ag 4 1 0)

/-- HANDOVER_EXPIRY (R398). -/
def execHandoverExpiry (s : State) : Host.Outcome State Fault Refusal := .next { s with offer := none }

/-- DRVFEAT (R401): writes after the lock are ignored. -/
def execDrvfeat (v : BitVec 128) (s : State) : Host.Outcome State Fault Refusal :=
  .next (if s.featLock then s else { s with drvfeat := v })

/-! ## Virtual functions (R394 to R396, R401) -/

/-- The die on which a partition's posted packets are queued: that of its lowest tile in service (R186). -/
def State.postDie (s : State) (p : Nat) : Option Nat := ((List.range 512).find? fun t => s.inService p t).map dieOf

/-- An access through a function's window answered: with data, or with Unsupported Request (R394, R395). -/
def State.complete (s : State) (fn : Option Nat) (off : Nat) (data : Option Nat) : State :=
  { s with completions := s.completions ++ [{ fn := fn, off := off, data := data }] }

/-- LAUNCH_WINDOW_WRITE (R184, R185, R396): a packet posted through a VF, which is discarded during a teardown (R400); an unbound VF
answers Unsupported Request (R395). -/
def execLaunchWindowWrite (vf off len : Nat) (pkt : BitVec 512) (s : State) : Host.Outcome State Fault Refusal :=
  match (s.vfAt vf).part with
  | none => .next (s.complete (some vf) off none)
  | some p =>
    if off ≠ 0 ∨ len ≠ 64 then .next { s with drops := s.drops + 1 }
    else if s.isClosing p then .next s
    else
      let refuse := fun c => Host.Outcome.next (s.sendVf vf 1 (2 ^ 63 + c) 0)
      let code := s.launchCode p pkt
      if code ≠ 0 then refuse code
      else match s.postDie p with
        | none => refuse 2
        | some die => match s.freeBlock die with
          | none => refuse 4
          | some (slot, gen) =>
            if 4096 ≤ s.queued die then refuse 4
            else
              let r := s.enqueue die p slot gen pkt none (some vf)
              .next (r.1.sendVf vf 1 r.2.toNat 0)

/-- FUNCTION_LEVEL_RESET (R396). -/
def execFunctionLevelReset (vf : Nat) (s : State) : Host.Outcome State Fault Refusal :=
  .next (s.modVf vf fun x => { x with base := 0, n := 0, q := 0, pend := 0 })

/-- MSI_X_COALESCING_TIMEOUT (R401). -/
def execMsiXCoalescingTimeout (vf : Nat) (s : State) : Host.Outcome State Fault Refusal :=
  if s.featOn 5 ∧ 0 < (s.vfAt vf).pend then .next (s.modVf vf fun x => { x with pend := 0, vectors := x.vectors + 1 }) else .next s

end Sys2Proof.Machine
end

