-- ==== Sys2Proof/Machine/Start.lean ====
section
/-! DEFINITION. Power and start: R271, R361, R364, R397 and R402 to R404. -/

namespace Sys2Proof.Machine

/-- An entry of an unknown tile (R359, R360). -/
def almUnknown (t : Nat) : BitVec 2048 := BitVec.ofNat 2048 (750 * 2 ^ 128 + 2 ^ 32 + t * 2 ^ 16)

/-- What of a tile's Almanac outlives a loss of power (R359, R361, R364): the two copies and the requests that wait, with a change of the
fence that was still to be written (DESIGN CHOICE, log 105). -/
def Margin.kept (t : Nat) (m : Margin) : Margin :=
  let m := if m.dirty && almGet m.work 560 2 != almGet (m.stored t) 560 2 then m.written t else m
  { almA := m.almA, almB := m.almB, unfence := m.unfence, relearn := m.relearn, work := almUnknown t }

/-- What a start reads of a tile's Almanac entry (R359, R402): VTGT, the lifetime counts and the fence. -/
def Margin.atStart (t : Nat) (m : Margin) : Margin :=
  let e := match m.inForce with
    | some true => m.almA
    | some false => m.almB
    | none => almUnknown t
  { almA := m.almA, almB := m.almB, unfence := m.unfence, relearn := m.relearn, dirty := m.relearn, vtgt := almGet e 128 16, work := e,
    repl := BitVec.ofNat 64 (almGet e 256 64), bund := BitVec.ofNat 64 (almGet e 320 64), trim := trimOf 750 (almGet e 128 16) }

namespace State

/-- What outlives a loss of power: the Almanac and the requests kept with it, START_FAIL, the recovery, the firmware image and the fuses
(R359, R402 to R404); what the outside world does next and the model's own counter go on. -/
def powerDown (s : State) : State :=
  { reset with
    inputs := s.inputs, freeCount := s.freeCount, pkgId := s.pkgId, startFail := s.startFail, recov := s.recov, accepted := s.accepted,
    hostUpload := if s.started then s.featOn 4 else s.hostUpload, image := s.image, fuseRsa := s.fuseRsa, fuseSlh := s.fuseSlh,
    security := s.security, keys := s.keys, keySlots := s.keySlots,
    tiles := s.tiles.zipIdx.map fun x => { margin := x.1.margin.kept x.2 } }

/-- What the Almanac has still to record is written. -/
def flushAlmanac (s : State) : State :=
  { s with tiles := s.tiles.zipIdx.map fun x : Tile × Nat =>
      if x.1.margin.dirty then { x.1 with margin := x.1.margin.written x.2 } else x.1 }

/-- An image whose two signatures verify under the keys that the fuses name (R403). -/
def imageSigned (s : State) (x : FwImage) : Bool := x.rsaOk && x.slhOk && x.rsaKey == s.fuseRsa && x.slhKey == s.fuseSlh

/-- The tiles after steps 6 and 7 of a start (R361, R364, R402): `cold` runs the self-test, whose failures are `bad`; `read` tells that step 7
has set VTGT. -/
def startTiles (s : State) (cold : Bool) (bad : List Nat) (read : Bool) : List Tile :=
  s.tiles.zipIdx.map fun x =>
    let t := x.2
    let m := x.1.margin.atStart t
    let m := if read then m else { m with vtgt := 750, trim := trimOf 750 750 }
    if cold && bad.contains t then
      { fenced := true, margin := { m with unfence := false, dirty := true, work := almSet (almSet m.work 560 2 2) 576 64 s.time.toNat } }
    else if cold && m.unfence then { margin := { m with unfence := false, dirty := true, work := almSet m.work 560 2 0 } }
    else { fenced := almGet m.work 560 2 != 0, margin := m }

/-- A start that runs its steps from 1 on (R402): `failing` names the step that fails, 0 for none, and step 4 fails where the image's
signatures do not verify (R403). What the steps before it have done stays; the stacks `sts` are given as step 5 leaves them, or as a warm
start finds them. -/
def runStart (s : State) (cold : Bool) (failing : Nat) (bad : List Nat) (sts : List Stack) : State :=
  let n := if (failing = 0 ∨ 4 < failing) ∧ !s.imageSigned s.image then 4 else failing
  let done := fun k : Nat => n = 0 || decide (k < n)
  let s : State := { s with startFail := (s.startFail + 1) % 256, startCode := 0, warm := !cold, started := false, accepted := false }
  let s : State := if done 3 then { s with keys := s.keys + 33, keySlots := (List.range 33).map fun i => s.keys + 1 + i } else s
  let s : State := { s with
    hbm := if !cold || done 5 then sts else s.hbm,
    tiles := if done 6 then s.startTiles cold bad (done 7) else s.tiles }
  if n ≠ 0 ∧ n ≤ 9 then { s with startCode := n, recov := false }
  else
    let v := List.replicate 4 (vminWord 750 s.time)
    State.settleRails { s with
      startFail := 0, started := true, recov := false, power := .active,
      rails := List.replicate 4 {}, ioVmin := v, dies := s.dies.map fun d : Die => { d with vmin := v } }

/-- A start that follows a reset, with the stacks given (R402): when START_FAIL has reached 3 it enters recovery, which waits for an image
and then starts again. -/
def startAgain (s s0 : State) (cold : Bool) (failing : Nat) (bad : List Nat) (sts : List Stack) : State :=
  if 3 ≤ s.startFail ∧ !s.recov then { s0 with recov := true, accepted := false, hbm := if cold then s0.hbm else sts }
  else if s.recov ∧ !s.accepted then s
  else s0.runStart cold failing bad sts

end State

/-- COLD_START (R402): a start of a device that has power and has not started. -/
def execColdStart (failing : Nat) (bad : List Nat) (s : State) : Host.Outcome State Fault Refusal :=
  if s.started then .next s
  else .next (s.startAgain { s.powerDown with time := s.time } true failing bad (List.replicate 8 { epoch := s.time }))

/-- The owner may have a warm start, and so may the host by its function-level reset of the PF (R397, R402). -/
def State.mayWarm (s : State) : Option Agent → Bool
  | none => true
  | some ag => s.owner == some ag

/-- What a stack keeps over a warm start (R253, R402). -/
def Stack.atWarm (k : Stack) : Stack :=
  { epoch := k.epoch, ratio := k.ratio, tstate := k.tstate, temp := k.temp, corrected := k.corrected }

/-- WARM_START (R361, R364, R402): a reset with power kept, requested by the owner or by the host's reset of the PF; training, epochs and
lane ratios stay, and what the Almanac has still to record is written first. -/
def execWarmStart (w : WarmReq) (s : State) : Host.Outcome State Fault Refusal :=
  if s.power = .off then .next s
  else if !s.mayWarm w.asker then .next (match w.asker with | some ag => s.answer ag 4 1 0 | none => s)
  else .next (s.startAgain { s.flushAlmanac.powerDown with time := s.time } false w.failing [] (s.hbm.map Stack.atWarm))

/-- POWER_LOSS (R359, R402): the device stops; a start under way counts as failed. -/
def execPowerLoss (s : State) : Host.Outcome State Fault Refusal :=
  let n := if s.started ∨ s.startCode ≠ 0 ∨ s.recov then s.startFail else (s.startFail + 1) % 256
  .next { s.powerDown with startFail := n }

/-- POWER (R401, R404): retention only with feature 3, no resident context and no invasive debug; OFF loses what a loss of power
loses. -/
def execPowerState (ag : Agent) (_p : Nat) (w : PowerState) (s : State) : Host.Outcome State Fault Refusal :=
  .next (s.command ag fun s => match w with
    | .retention =>
      if !s.featOn 3 then (s, 3)
      else if s.debug = .invasive ∨ (s.tiles.any fun x => x.ctx.any fun o => o.isSome) then (s, 1)
      else ({ s with power := .retention }, 0)
    | .off => ({ s.flushAlmanac.powerDown with power := .off, answers := s.answers }, 0)
    | x => ({ s with power := x }, 0))

end Sys2Proof.Machine
end

