-- ==== Sys2Proof/Machine/Window.lean ====
section
/-! DEFINITION. The windows of the physical function and of the virtual functions: the capability block, the register mirror, the words of
management commands, and registers without a row of their own (R1 to R3, R8, R394 to R399, R401, R403). -/

namespace Sys2Proof.Machine

/-- Tiles in service, wherever they are assigned (R1, R2, R364). -/
def State.tilesInService (s : State) : Nat := (s.tiles.filter fun x => !x.fenced).length

/-- The gateways reported absent: bit 4 · die + gateway (R3). -/
def gatewaysAbsent : Nat := ((List.range 32).filter fun i => !gatewayThere (i / 4) (i % 4)).foldl (fun a i => a + 2 ^ i) 0

/-- What the capability block reports (R1 to R3, R396, R401), once a start has published it (R402 step 8): 0 the tiles in service, 1 the
gateways absent, 2 and 3 DEVFEAT, 4 the launch-window writes discarded. -/
def State.capability (s : State) (i : Nat) : Nat :=
  if !s.started then 0
  else match i with
    | 0 => s.tilesInService
    | 1 => gatewaysAbsent
    | 2 => 0x3F
    | 4 => s.drops
    | _ => 0

/-- MPST as it reads (R379). -/
def State.mpst (s : State) (p : Nat) : Nat :=
  let x := s.portAt p
  ofBool x.en + ofBool x.twin * 2 + x.state * 2 ^ 2 + x.retrain * 2 ^ 8 + x.crcerr * 2 ^ 16 + x.lt.toNat * 2 ^ 32 + x.peer.toNat * 2 ^ 48

/-- STST as it reads (R403). -/
def State.stst (s : State) : Nat :=
  s.startCode % 16 + ofBool s.started * 2 ^ 5 + ofBool s.warm * 2 ^ 6 + ofBool s.recov * 2 ^ 7 + s.startFail % 256 * 2 ^ 8

/-- A register of the mirror as it reads, by its kind and number (R394): 0 MPST, 1 TMARG, 2 SCTL, 3 HMSK, 4 and 5 the owner entries, 6 to 8
the injector's, 9 VMIN (four to a die, the I/O die last), 10 and 11 the observer's TNOW and TFC. -/
def State.mirror (s : State) (kind n : Nat) : Nat :=
  let k := s.stackAt (n / 64)
  match kind with
  | 0 => s.mpst n
  | 1 => (s.tmarg n).toNat
  | 2 =>
    let k := s.stackAt n
    k.ratio.toNat + ofBool k.quiesce * 2 ^ 2 + ofBool k.quiesced * 2 ^ 3 + k.temp.toNat * 2 ^ 8 + k.tstate.toNat * 2 ^ 16
  | 3 => let i := n % 24
    let h := (s.stackAt (n / 24))
    2 ^ (8 + i % 6) + (if i / 6 = 0 then 2 ^ (14 + i % 6) else ((h.hmsk.getD (i / 6 - 1) []).getD (i % 6) 0).toNat * 2 ^ 14)
  | 4 => (k.ownerEntry false (n % 64)).toNat
  | 5 => (k.ownerEntry true (n % 64)).toNat
  | 6 => (s.dieAt n).injSeed.toNat
  | 7 => (s.dieAt n).injTiles.toNat
  | 8 => (s.dieAt n).injCtl.toNat
  | 9 => (s.vmin (n / 4) (n % 4)).toNat
  | 10 => s.tnow.getD n 0
  | 11 => s.tfc.getD n 0
  | _ => 0

/-- A read of the PF's window (R394): the capability block from 0x1_0000, the start status at 0x2_0000, the register mirror from
0x10_0000; the command window reads zero. -/
def State.pfWindow (s : State) (off : Nat) : Nat :=
  if off = 0x20000 then s.stst
  else if 0x10000 ≤ off ∧ off < 0x20000 then s.capability (Config.windowReg off).2
  else if 0x100000 ≤ off then s.mirror (Config.windowReg off).1 (Config.windowReg off).2
  else 0

/-- A read of a VF's window (R394, R396): MSGBASE at 0x40 and MSGN at 0x48; an unbound VF answers Unsupported Request (R395). -/
def State.vfWindow (s : State) (vf off : Nat) : Option Nat :=
  let x := s.vfAt vf
  if x.part.isNone then none else some (if off = 0x40 then x.base.toNat else if off = 0x48 then x.n.toNat else 0)

/-- What STACK_CTL writes, by its number (log 79). -/
def stackWriteOf (n i j v : Nat) : StackWrite :=
  match n with
  | 0 => .hmsk i j (BitVec.ofNat 64 v)
  | 1 => .ownRd i (BitVec.ofNat 8 v)
  | 2 => .ownWr i (BitVec.ofNat 8 v)
  | _ => .sctl (BitVec.ofNat 64 v)

/-- The word of a management command (R399): its code and its partition, with the fields that the spec lays out; the places of the others
are left open (DESIGN CHOICE, log 79). Another code is answered UNSUPPORTED, or REFUSED to an agent that is not the owner (R397). -/
def execCommandWord (ag : Agent) (w : BitVec 512) (s : State) : Host.Outcome State Fault Refusal :=
  let x := w.toNat
  let code := bits x 0 8
  let p := bits x 8 5
  let f := fun i => Config.commandField code i x
  let d := fun i => BitVec.ofNat 64 (f i)
  match code with
  | 0x01 => execPartCreate ag p (bit x 16) s
  | 0x02 => execPartDestroy ag p s
  | 0x03 => execTileAssign ag p (f 0) (d 1) s
  | 0x04 => execVfBind ag p (f 0) (f 1 % 2 == 1) s
  | 0x05 => execSuptab ag p (f 0) (f 1) (d 2) (d 3) s
  | 0x06 => execSpanGrant ag p (f 0) (f 1) (f 2) s
  | 0x07 => execKeyRotate ag p (f 0) s
  | 0x08 => execGrantMask ag p (BitVec.ofNat 32 (f 0)) s
  | 0x09 => execRailVote ag p (f 0) (f 1) s
  | 0x0A => execPreemptCmd ag p (BitVec.ofNat 64 (bits x 64 64)) (bits x 128 24) s
  | 0x0B => execStackCtl ag p (f 0) (stackWriteOf (f 1) (f 2) (f 3) (f 4)) s
  | 0x0C => execAlmanacCmd ag p (f 0) (if f 1 = 0 then .read else if f 1 = 1 then .relearn else .unfence) s
  | 0x0D => execTwinSetup ag p (f 0 % 2 == 1) s
  | 0x0E => execInjectCmd ag p (f 0) (d 1) (d 2) (d 3) s
  | 0x0F => execPowerState ag p (if f 0 = 0 then .active else if f 0 = 1 then .idle else if f 0 = 2 then .retention else .off) s
  | 0x10 => execHandover ag s
  | 0x11 => execAccept ag s
  | 0x12 => execRootSet ag p (bit x 103) (bits x 64 39) s
  | _ => .next (s.answer ag 4 (if s.owner = some ag then 3 else 1) 0)

/-- A firmware image in recovery (R402, R403): over I3C, or over the host port where bit 4 of the features was active; it is accepted if both
its signatures verify. -/
def State.takeImage (s : State) (host : Bool) (img : FwImage) : State :=
  if s.recov && !s.accepted && (!host || s.hostUpload) && s.imageSigned img then { s with image := img, accepted := true } else s

/-- REGISTER_WRITE (R8, R9, R354, R379, R395, R396, R403), and the accesses through the windows that no other row makes: a read is
answered, and the word of a command acts as its code's row does (R394, R399). A fuse moves the security state on, and debug ends with it
(R404). The first training of a port is no retraining (R379). -/
def execRegisterWrite (r : MgmtReg) (v : BitVec 64) (s : State) : Host.Outcome State Fault Refusal :=
  match r with
  | .msgBase vf =>
    if (s.vfAt vf).part.isNone then .next (s.complete (some vf) 0x40 none)
    else if v.toNat % 64 = 0 then .next (s.modVf vf fun x => { x with base := v })
    else .next s
  | .msgN vf =>
    if (s.vfAt vf).part.isNone then .next (s.complete (some vf) 0x48 none) else .next (s.modVf vf fun x => { x with n := v })
  | .mpst port =>
    let x := s.portAt port
    let s := s.modPort port fun x => { x with en := bit v.toNat 0, twin := bit v.toNat 1 }
    if bit v.toNat 0 then
      .next (if x.en then s else s.modPort port fun x => { x with state := 1 })
    else .next ((s.modPort port fun x => { x with state := 0 }).downCmds port)
  | .tmarg t =>
    let mv := bits v.toNat 16 16
    if mv % 5 = 0 ∧ 600 ≤ mv ∧ mv ≤ 750 ∧ t < 512 then .next (s.setVtgt t mv id) else .next s
  | .stst => .next s
  | .securityFuse => .next (if s.security < 2 then { s with security := s.security + 1, debug := .none, token := [] } else s)
  | .upload host img => .next (s.takeImage host img)
  | .command ag w => execCommandWord ag w s
  | .pfRead off => .next (s.complete none off (some (s.pfWindow off)))
  | .vfRead vf off => .next (s.complete (some vf) off (s.vfWindow vf off))

end Sys2Proof.Machine
end

