-- ==== Sys2Proof/Machine/Debug.lean ====
section
/-! DEFINITION. The debug port (R404): its states, what it reads, and what it does to a tile. -/

namespace Sys2Proof.Machine

namespace State

/-- The security state and the token admit debug at all (R404). -/
def debugOpen (s : State) : Bool := s.security == 0 || (s.security == 1 && !s.token.isEmpty)

/-- A debug state may be set (R404). -/
def debugAllowed (s : State) (d : DebugState) : Bool :=
  match d with
  | .none => true
  | .nonInvasive => s.debugOpen && s.power != .off
  | .invasive => s.debugOpen && s.power != .retention && s.power != .off

/-- The debug port reads what belongs to a tile (R404). -/
def debugSees (s : State) (t : Nat) : Bool := s.debug != .none && s.debugCovers (s.tileAt t).partid

end State

/-- The key of the doubleword at a local address of a tile's memories (R234, R236). -/
def tileDw (t off : Nat) : Nat := if off < 0x800000 then spKey t (off / 8 * 8) else accKey t ((off - 0x800000) / 8 * 8)

/-- The predicate block as one number: count, mask from bit 4, predicate from bit 12 (log 106). -/
def Ctx.blockWord (c : Ctx) : Nat := c.gcount % 16 + c.gmask.toNat * 2 ^ 4 + c.gpred.toNat * 2 ^ 12

/-- A latch as one number. -/
def Latch.bits : Latch → Nat
  | .empty => 0
  | .scalar x => x.v.toNat
  | .vector x => x.v.toNat

/-- What the debug port reads of a tile's state (R404). -/
def State.debugRead (s : State) (t slot : Nat) (r : DebugReg) : Nat :=
  let c := s.ctxAt t slot
  let x := s.tileAt t
  match r with
  | .scalar i => (c.s.getD i {}).v.toNat
  | .vector i => (c.v.getD i {}).v.toNat
  | .pred i => (c.p.getD i 0).toNat
  | .pc => c.pc.toNat
  | .latch i => (c.lat.getD i .empty).bits
  | .block => c.blockWord
  | .user n => (userRead c x.raflags x.cycle s.time t n).toNat
  | .sup n => (supRead c x slot n).toNat
  | .dw off => s.rd (tileDw t off) 8

/-- A register of a context written by the debug port (R404): s0 and p0 discard (R13, R14), a CSR takes the fields that the value gives it, and
what is written has no poison mark. -/
def Ctx.debugWrite (c : Ctx) (r : DebugReg) (v : Nat) : Ctx :=
  match r with
  | .scalar i => c.setS i { v := BitVec.ofNat 64 v }
  | .vector i => { c with v := c.v.set i { v := BitVec.ofNat 2048 v } }
  | .pred i => if i = 0 then c else { c with p := c.p.set i (BitVec.ofNat 256 v) }
  | .pc => { c with pc := BitVec.ofNat 64 v }
  | .latch i => { c with lat := c.lat.set i (if i < 4 then .scalar { v := BitVec.ofNat 64 v } else .vector { v := BitVec.ofNat 2048 v }) }
  | .block => { c with gcount := v % 16, gmask := BitVec.ofNat 8 (v / 2 ^ 4), gpred := BitVec.ofNat 3 (v / 2 ^ 12) }
  | .user n => c.loadUser n (BitVec.ofNat 64 v)
  | .sup n => c.loadSup n (BitVec.ofNat 64 v)
  | .dw _ => c

/-- What the debug port writes of a tile's state (R404). -/
def State.debugPut (s : State) (t slot : Nat) (r : DebugReg) (v : Nat) : State :=
  match r with
  | .dw off => (s.wr (tileDw t off) 8 (v % 2 ^ 64)).mark (tileDw t off) false
  | r => s.modCtx t slot fun c => c.debugWrite r v

/-- The debug port answers (R404). -/
def State.debugAnswer (s : State) (x : Option Nat) : State := { s with debugOut := s.debugOut ++ [x] }

/-- DEBUG_PORT_REQUEST (R404): a token counts if its signature verifies; what is read goes out by the port, and a request that the state does
not allow is refused; a device that is off hears none. -/
def execDebugPortRequest (r : DebugReq) (s : State) : Host.Outcome State Fault Refusal :=
  if s.power = .off then .next s
  else
    let read := fun (b : Bool) (x : Nat) => Host.Outcome.next (s.debugAnswer (if b then some x else none))
    let act := fun (t : Nat) (u : State) => Host.Outcome.next (if s.debugTakes t then u else s.debugAnswer none)
    match r with
    | .setState d => .next (if s.debugAllowed d then { s with debug := d } else s.debugAnswer none)
    | .unlock l signed => .next (if s.security = 1 ∧ signed then { s with token := l } else s.debugAnswer none)
    | .stop t => act t (s.modTile t fun x => { x with debugStop := true })
    | .go t => act t (s.modTile t fun x => { x with debugStop := false, debugStep := false })
    | .step t => act t (s.modTile t fun x => { x with debugStep := x.debugStop })
    | .readReg t slot r => read (s.debugTakes t) (s.debugRead t slot r)
    | .writeReg t slot r v => act t (s.debugPut t slot r v)
    | .counter t slot x => read (s.debugSees t && decide (0x10 ≤ x) && decide (x ≤ 0x13)) (s.debugRead t slot (.user x))
    | .tmarg t => read (s.debugSees t) (s.tmarg t).toNat
    | .trace t => read (s.debugSees t) (Config.traceWord t s.freeCount)
    | .mirror kind n => read (s.debug != .none) (s.mirror kind n)
    | .keySlot p => read (s.debug == .invasive && s.debugCovers (some p)) (Config.keyCipher (s.keySlots.getD p 0))

end Sys2Proof.Machine
end

