-- ==== Sys2Proof/Machine/Scalar.lean ====
section
/-! DEFINITION. The S class but for the CSR words: R83 to R86. -/

namespace Sys2Proof.Machine

/-! ## Integer results (R83, R84) -/

/-- Signed value of the low `n` bits, sign-extended to 64 bits. -/
def sext64 (x n : Nat) : W64 := BitVec.ofInt 64 (signed x n)

/-- Leading zeros of an `n`-bit number. -/
def clzN : Nat → Nat → Nat
  | 0, _ => 0
  | n + 1, x => if bit x n then 0 else 1 + clzN n x

/-- Trailing zeros of an `n`-bit number. -/
def ctzN : Nat → Nat → Nat
  | 0, _ => 0
  | n + 1, x => if x % 2 = 1 then 0 else 1 + ctzN n (x / 2)

/-- One bits of an `n`-bit number. -/
def popN : Nat → Nat → Nat
  | 0, _ => 0
  | n + 1, x => x % 2 + popN n (x / 2)

/-- Signed quotient rounded toward zero, all ones for a zero divisor (R83). -/
def divS (a b : W64) : W64 := if b = 0 then BitVec.allOnes 64 else BitVec.ofInt 64 (Int.tdiv a.toInt b.toInt)

/-- Signed remainder with the dividend's sign, the dividend for a zero divisor (R83). -/
def remS (a b : W64) : W64 := if b = 0 then a else BitVec.ofInt 64 (Int.tmod a.toInt b.toInt)

/-- Unsigned quotient (R83). -/
def divU (a b : W64) : W64 := if b = 0 then BitVec.allOnes 64 else BitVec.ofNat 64 (a.toNat / b.toNat)

/-- Unsigned remainder (R83). -/
def remU (a b : W64) : W64 := if b = 0 then a else BitVec.ofNat 64 (a.toNat % b.toNat)

/-- 1 or 0. -/
def truth (b : Bool) : W64 := if b then 1 else 0

/-- BFX (R83). -/
def bfx (a b : W64) : W64 :=
  BitVec.ofNat 64 (bits a.toNat (bits b.toNat 0 6) (bits b.toNat 8 6 + 1))

/-- BFI (R83). -/
def bfi (a b c : W64) : W64 :=
  BitVec.ofNat 64 (setBits c.toNat (bits b.toNat 0 6) (bits b.toNat 8 6 + 1) a.toNat)

/-- BSWAP (R83). -/
def bswap (a : W64) : W64 := BitVec.ofNat 64 (ofElems 1 (elems a.toNat 1 8).reverse)

/-- An S word of two sources. -/
def alu2 (i : Instr) (f : FSr) (op : W64 → W64 → W64) (s : State) : WordRes :=
  let a := s.srcS i 0
  let b := s.srcS i 1
  .ok (s.resS i f.d f.w { v := op a.v b.v, p := a.p || b.p })

/-- An S word that also reads sd (R57, R75). -/
def alu3 (i : Instr) (f : FSr) (op : W64 → W64 → W64 → W64) (s : State) : WordRes :=
  let a := s.srcS i 0
  let b := s.srcS i 1
  let c := s.srcS i 2
  .ok (s.resS i f.d f.w { v := op a.v b.v c.v, p := a.p || b.p || c.p })

/-- An S word of one source. -/
def alu1 (i : Instr) (f : FS1) (op : W64 → W64) (s : State) : WordRes :=
  let a := s.srcS i 0
  .ok (s.resS i f.d f.w { v := op a.v, p := a.p })

/-- An SI word whose immediate is signed (R84). -/
def aluI (i : Instr) (f : FSi) (op : W64 → W64 → W64) (s : State) : WordRes :=
  let a := s.srcS i 0
  .ok (s.resS i f.d f.w { v := op a.v (BitVec.ofInt 64 (s.immS i)), p := a.p })

/-- A shift by an immediate (R84). -/
def aluSh (i : Instr) (f : FSi) (op : W64 → Nat → W64) (s : State) : WordRes :=
  let a := s.srcS i 0
  .ok (s.resS i f.d f.w { v := op a.v (s.immU i), p := a.p })

/-- The shift count b[5:0]. -/
def shCount (b : W64) : Nat := bits b.toNat 0 6

def execAdd (f : FSr) (s : State) := runWord (.add f) (alu2 (.add f) f (· + ·)) s
def execSub (f : FSr) (s : State) := runWord (.sub f) (alu2 (.sub f) f (· - ·)) s
def execAnd (f : FSr) (s : State) := runWord (.and f) (alu2 (.and f) f (· &&& ·)) s
def execOr (f : FSr) (s : State) := runWord (.or f) (alu2 (.or f) f (· ||| ·)) s
def execXor (f : FSr) (s : State) := runWord (.xor f) (alu2 (.xor f) f (· ^^^ ·)) s
def execAndn (f : FSr) (s : State) := runWord (.andn f) (alu2 (.andn f) f fun a b => a &&& ~~~b) s
def execSll (f : FSr) (s : State) := runWord (.sll f) (alu2 (.sll f) f fun a b => a <<< shCount b) s
def execSrl (f : FSr) (s : State) := runWord (.srl f) (alu2 (.srl f) f fun a b => a >>> shCount b) s
def execSra (f : FSr) (s : State) := runWord (.sra f) (alu2 (.sra f) f fun a b => a.sshiftRight (shCount b)) s
def execMul (f : FSr) (s : State) := runWord (.mul f) (alu2 (.mul f) f (· * ·)) s
def execMulh (f : FSr) (s : State) :=
  runWord (.mulh f) (alu2 (.mulh f) f fun a b => BitVec.ofInt 64 (a.toInt * b.toInt / 2 ^ 64)) s
def execMulhu (f : FSr) (s : State) :=
  runWord (.mulhu f) (alu2 (.mulhu f) f fun a b => BitVec.ofNat 64 (a.toNat * b.toNat / 2 ^ 64)) s
def execDiv (f : FSr) (s : State) := runWord (.div f) (alu2 (.div f) f divS) s
def execDivu (f : FSr) (s : State) := runWord (.divu f) (alu2 (.divu f) f divU) s
def execRem (f : FSr) (s : State) := runWord (.rem f) (alu2 (.rem f) f remS) s
def execRemu (f : FSr) (s : State) := runWord (.remu f) (alu2 (.remu f) f remU) s
def execMin (f : FSr) (s : State) := runWord (.min f) (alu2 (.min f) f fun a b => if b.slt a then b else a) s
def execMax (f : FSr) (s : State) := runWord (.max f) (alu2 (.max f) f fun a b => if a.slt b then b else a) s
def execMinu (f : FSr) (s : State) := runWord (.minu f) (alu2 (.minu f) f fun a b => if b.ult a then b else a) s
def execMaxu (f : FSr) (s : State) := runWord (.maxu f) (alu2 (.maxu f) f fun a b => if a.ult b then b else a) s
def execSlt (f : FSr) (s : State) := runWord (.slt f) (alu2 (.slt f) f fun a b => truth (a.slt b)) s
def execSltu (f : FSr) (s : State) := runWord (.sltu f) (alu2 (.sltu f) f fun a b => truth (a.ult b)) s
def execSeq (f : FSr) (s : State) := runWord (.seq f) (alu2 (.seq f) f fun a b => truth (a == b)) s
def execSne (f : FSr) (s : State) := runWord (.sne f) (alu2 (.sne f) f fun a b => truth (a != b)) s
def execAddw (f : FSr) (s : State) := runWord (.addw f) (alu2 (.addw f) f fun a b => sext64 (a + b).toNat 32) s
def execSubw (f : FSr) (s : State) := runWord (.subw f) (alu2 (.subw f) f fun a b => sext64 (a - b).toNat 32) s
def execMulw (f : FSr) (s : State) := runWord (.mulw f) (alu2 (.mulw f) f fun a b => sext64 (a * b).toNat 32) s
def execCmovz (f : FSr) (s : State) := runWord (.cmovz f) (alu3 (.cmovz f) f fun a b c => if b = 0 then a else c) s
def execCmovnz (f : FSr) (s : State) := runWord (.cmovnz f) (alu3 (.cmovnz f) f fun a b c => if b = 0 then c else a) s
def execBfx (f : FSr) (s : State) := runWord (.bfx f) (alu2 (.bfx f) f bfx) s
def execBfi (f : FSr) (s : State) := runWord (.bfi f) (alu3 (.bfi f) f bfi) s
def execClz (f : FS1) (s : State) := runWord (.clz f) (alu1 (.clz f) f fun a => BitVec.ofNat 64 (clzN 64 a.toNat)) s
def execCtz (f : FS1) (s : State) := runWord (.ctz f) (alu1 (.ctz f) f fun a => BitVec.ofNat 64 (ctzN 64 a.toNat)) s
def execPopc (f : FS1) (s : State) := runWord (.popc f) (alu1 (.popc f) f fun a => BitVec.ofNat 64 (popN 64 a.toNat)) s
def execSextb (f : FS1) (s : State) := runWord (.sextb f) (alu1 (.sextb f) f fun a => sext64 a.toNat 8) s
def execSexth (f : FS1) (s : State) := runWord (.sexth f) (alu1 (.sexth f) f fun a => sext64 a.toNat 16) s
def execSextw (f : FS1) (s : State) := runWord (.sextw f) (alu1 (.sextw f) f fun a => sext64 a.toNat 32) s
def execZextw (f : FS1) (s : State) :=
  runWord (.zextw f) (alu1 (.zextw f) f fun a => BitVec.ofNat 64 (a.toNat % 2 ^ 32)) s
def execBswap (f : FS1) (s : State) := runWord (.bswap f) (alu1 (.bswap f) f bswap) s

def execAddi (f : FSi) (s : State) := runWord (.addi f) (aluI (.addi f) f (· + ·)) s
def execAndi (f : FSi) (s : State) := runWord (.andi f) (aluI (.andi f) f (· &&& ·)) s
def execOri (f : FSi) (s : State) := runWord (.ori f) (aluI (.ori f) f (· ||| ·)) s
def execXori (f : FSi) (s : State) := runWord (.xori f) (aluI (.xori f) f (· ^^^ ·)) s
def execSlli (f : FSi) (s : State) := runWord (.slli f) (aluSh (.slli f) f (· <<< ·)) s
def execSrli (f : FSi) (s : State) := runWord (.srli f) (aluSh (.srli f) f (· >>> ·)) s
def execSrai (f : FSi) (s : State) := runWord (.srai f) (aluSh (.srai f) f BitVec.sshiftRight) s
def execSlti (f : FSi) (s : State) := runWord (.slti f) (aluI (.slti f) f fun a b => truth (a.slt b)) s
def execSltiu (f : FSi) (s : State) := runWord (.sltiu f) (aluI (.sltiu f) f fun a b => truth (a.ult b)) s
def execMuli (f : FSi) (s : State) := runWord (.muli f) (aluI (.muli f) f (· * ·)) s

/-- LI and LUI (R85). -/
def loadImm (i : Instr) (f : FSl) (v : State → W64) (s : State) : WordRes :=
  .ok (s.resS i f.d f.w { v := v s })

def execLi (f : FSl) (s : State) := runWord (.li f) (loadImm (.li f) f fun s => BitVec.ofInt 64 (s.immS (.li f))) s
def execLui (f : FSl) (s : State) :=
  runWord (.lui f) (loadImm (.lui f) f fun s => BitVec.ofNat 64 (s.immU (.lui f) * 2 ^ 26)) s

/-! ## Scalar floating point (R86) -/

/-- F(x): the binary32 value of bits [31:0]. -/
def f32 (x : W64) : Fv := fp32.decode (x.toNat % 2 ^ 32)

/-- An FP result: its pattern zero-extended, with the flags ORed into FCSR (R76). -/
def fpRes (i : Instr) (d : BitVec 5) (w : Bool) (p : Bool) (r : Nat × Flags) (s : State) : WordRes :=
  .ok ((s.resS i d w { v := BitVec.ofNat 64 r.1, p := p }).orFcsr r.2)

/-- A scalar FP word of two sources, given the rounding mode. -/
def fp2 (i : Instr) (f : FSr) (op : Nat → W64 → W64 → Nat × Flags) (s : State) : WordRes :=
  let a := s.srcS i 0
  let b := s.srcS i 1
  fpRes i f.d f.w (a.p || b.p) (op s.iss.pre.rm a.v b.v) s

/-- A scalar FP word of one source. -/
def fp1 (i : Instr) (f : FS1) (op : Nat → W64 → Nat × Flags) (s : State) : WordRes :=
  let a := s.srcS i 0
  fpRes i f.d f.w a.p (op s.iss.pre.rm a.v) s

/-- A compare as 1 or 0 with its flags. -/
def cmpRes (r : Bool × Flags) : Nat × Flags := (ofBool r.1, r.2)

def execFadd (f : FSr) (s : State) := runWord (.fadd f) (fp2 (.fadd f) f fun rm a b => fpAdd fp32 rm (f32 a) (f32 b)) s
def execFsub (f : FSr) (s : State) :=
  runWord (.fsub f) (fp2 (.fsub f) f fun rm a b => fpAdd fp32 rm (f32 a) (f32 b).negate) s
def execFmul (f : FSr) (s : State) := runWord (.fmul f) (fp2 (.fmul f) f fun rm a b => fpMul fp32 rm (f32 a) (f32 b)) s

/-- FMA (R86). -/
def fmaRes (i : Instr) (f : FSr) (s : State) : WordRes :=
  let a := s.srcS i 0
  let b := s.srcS i 1
  let c := s.srcS i 2
  fpRes i f.d f.w (a.p || b.p || c.p) (fpFma fp32 s.iss.pre.rm (f32 a.v) (f32 b.v) (f32 c.v)) s

def execFma (f : FSr) (s : State) := runWord (.fma f) (fmaRes (.fma f) f) s
def execFmin (f : FSr) (s : State) :=
  runWord (.fmin f) (fp2 (.fmin f) f fun _ a b => fpMinMax fp32 true (a.toNat % 2 ^ 32) (b.toNat % 2 ^ 32)) s
def execFmax (f : FSr) (s : State) :=
  runWord (.fmax f) (fp2 (.fmax f) f fun _ a b => fpMinMax fp32 false (a.toNat % 2 ^ 32) (b.toNat % 2 ^ 32)) s
def execFeq (f : FSr) (s : State) := runWord (.feq f) (fp2 (.feq f) f fun _ a b => cmpRes (fpEq (f32 a) (f32 b))) s
def execFlt (f : FSr) (s : State) := runWord (.flt f) (fp2 (.flt f) f fun _ a b => cmpRes (fpLt (f32 a) (f32 b))) s
def execFle (f : FSr) (s : State) := runWord (.fle f) (fp2 (.fle f) f fun _ a b => cmpRes (fpLe (f32 a) (f32 b))) s
def execFdiv (f : FSr) (s : State) := runWord (.fdiv f) (fp2 (.fdiv f) f fun rm a b => fpDiv fp32 rm (f32 a) (f32 b)) s
def execFsqrt (f : FS1) (s : State) := runWord (.fsqrt f) (fp1 (.fsqrt f) f fun rm a => fpSqrt fp32 rm (f32 a)) s
def execFcvtif (f : FS1) (s : State) :=
  runWord (.fcvtif f) (fp1 (.fcvtif f) f fun rm a => fpOfInt fp32 rm (signed a.toNat 32)) s
def execFcvtfi (f : FS1) (s : State) :=
  runWord (.fcvtfi f) (fp1 (.fcvtfi f) f fun rm a =>
    let r := fpToInt rm (-2147483648) 2147483647 (f32 a)
    (narrow r.1 64, r.2)) s

end Sys2Proof.Machine
end

