-- ==== Sys2Proof/Machine/VectorOps.lean ====
section
/-! DEFINITION. The V class: R122 to R141. -/

namespace Sys2Proof.Machine

/-! ## Shared forms -/

/-- A vector result from its elements of width `w`, element j governed by predicate bit j · step. -/
def putEls (i : Instr) (d : BitVec 5) (wr : Bool) (step w : Nat) (l : List El) (s : State) : WordRes :=
  .ok (s.resV i d wr (mergeV s.mask step w (s.oldV d wr) l))

/-- The flags of active elements ORed together (R136). -/
def activeFlags (mask : Pred) (step : Nat) (l : List Flags) : Flags :=
  orAll (l.zipIdx.map fun x => if bit mask.toNat (x.2 * step) then x.1 else 0)

/-- One source, elements of width `w`. -/
def lanes1 (s : State) (i : Instr) (w : Nat) (op : Nat → Nat) : List El :=
  (elsOf (s.srcV i 0) w).map fun a => { v := op a.v, p := a.p }

/-- Two sources, elements of width `w`. -/
def lanes2 (s : State) (i : Instr) (w : Nat) (op : Nat → Nat → Nat) : List El :=
  List.zipWith (fun a b => { v := op a.v b.v, p := a.p || b.p }) (elsOf (s.srcV i 0) w) (elsOf (s.srcV i 1) w)

/-- Three sources a, b and acc, elements of width `w`. -/
def lanes3 (s : State) (i : Instr) (w : Nat) (op : Nat → Nat → Nat → Nat) : List El :=
  List.zipWith (fun ab c => { v := op ab.1.v ab.2.v c.v, p := ab.1.p || ab.2.p || c.p })
    ((elsOf (s.srcV i 0) w).zip (elsOf (s.srcV i 1) w)) (elsOf (s.srcV i 2) w)

/-! ## Integer elements (R128 to R131) -/

/-- Element width in bytes of an integer word (R123). -/
def ew (e : BitVec 2) : Nat := 2 ^ e.toNat

/-- An integer word of two sources; `op` takes the width in bits. -/
def int2 (i : Instr) (f : FVr) (op : Nat → Nat → Nat → Nat) (s : State) : WordRes :=
  putEls i f.d f.w (ew f.e) (ew f.e) (lanes2 s i (ew f.e) (op (8 * ew f.e))) s

/-- An integer word of one source. -/
def int1 (i : Instr) (f : FV1) (op : Nat → Nat → Nat) (s : State) : WordRes :=
  putEls i f.d f.w (ew f.e) (ew f.e) (lanes1 s i (ew f.e) (op (8 * ew f.e))) s

/-- A VI word; `op` takes the width in bits and the element. -/
def intI (i : Instr) (f : FVi) (op : Nat → Nat → Nat) (s : State) : WordRes :=
  putEls i f.d f.w (ew f.e) (ew f.e) (lanes1 s i (ew f.e) (op (8 * ew f.e))) s

/-- Sum, difference and product modulo 2^n. -/
def addN (n a b : Nat) : Nat := (a + b) % 2 ^ n
def subN (n a b : Nat) : Nat := (a + 2 ^ n - b % 2 ^ n) % 2 ^ n
def mulN (n a b : Nat) : Nat := a * b % 2 ^ n

/-- Arithmetic right shift of an n-bit element. -/
def sraN (n a k : Nat) : Nat := narrow (signed a n / (2 ^ k : Nat)) n

/-- An integer saturated to n signed bits (R128). -/
def satN (n : Nat) (x : Int) : Nat :=
  let hi : Int := (2 ^ (n - 1) : Nat) - 1
  let lo : Int := -((2 ^ (n - 1) : Nat) : Int)
  narrow (if x < lo then lo else if hi < x then hi else x) n

/-- Signed and unsigned selection. -/
def sltN (n a b : Nat) : Bool := decide (signed a n < signed b n)

def execVadd (f : FVr) (s : State) := runWord (.vadd f) (int2 (.vadd f) f addN) s
def execVsub (f : FVr) (s : State) := runWord (.vsub f) (int2 (.vsub f) f subN) s
def execVmul (f : FVr) (s : State) := runWord (.vmul f) (int2 (.vmul f) f mulN) s
def execVmulh (f : FVr) (s : State) :=
  runWord (.vmulh f) (int2 (.vmulh f) f fun n a b => narrow (signed a n * signed b n / (2 ^ n : Nat)) n) s
def execVmulhu (f : FVr) (s : State) := runWord (.vmulhu f) (int2 (.vmulhu f) f fun n a b => a * b / 2 ^ n) s
def execVand (f : FVr) (s : State) := runWord (.vand f) (int2 (.vand f) f fun _ a b => a &&& b) s
def execVor (f : FVr) (s : State) := runWord (.vor f) (int2 (.vor f) f fun _ a b => a ||| b) s
def execVxor (f : FVr) (s : State) := runWord (.vxor f) (int2 (.vxor f) f fun _ a b => a ^^^ b) s
def execVshl (f : FVr) (s : State) := runWord (.vshl f) (int2 (.vshl f) f fun n a b => a * 2 ^ (b % n) % 2 ^ n) s
def execVshr (f : FVr) (s : State) := runWord (.vshr f) (int2 (.vshr f) f fun n a b => a / 2 ^ (b % n)) s
def execVsra (f : FVr) (s : State) := runWord (.vsra f) (int2 (.vsra f) f fun n a b => sraN n a (b % n)) s
def execVmin (f : FVr) (s : State) := runWord (.vmin f) (int2 (.vmin f) f fun n a b => if sltN n b a then b else a) s
def execVmax (f : FVr) (s : State) := runWord (.vmax f) (int2 (.vmax f) f fun n a b => if sltN n a b then b else a) s
def execVminu (f : FVr) (s : State) := runWord (.vminu f) (int2 (.vminu f) f fun _ a b => Nat.min a b) s
def execVmaxu (f : FVr) (s : State) := runWord (.vmaxu f) (int2 (.vmaxu f) f fun _ a b => Nat.max a b) s
def execVabs (f : FV1) (s : State) := runWord (.vabs f) (int1 (.vabs f) f fun n a => narrow (signed a n).natAbs n) s
def execVneg (f : FV1) (s : State) := runWord (.vneg f) (int1 (.vneg f) f fun n a => subN n 0 a) s
def execVadds (f : FVr) (s : State) :=
  runWord (.vadds f) (int2 (.vadds f) f fun n a b => satN n (signed a n + signed b n)) s
def execVsubs (f : FVr) (s : State) :=
  runWord (.vsubs f) (int2 (.vsubs f) f fun n a b => satN n (signed a n - signed b n)) s

/-- A word that accumulates into vd, integer elements. -/
def int3 (i : Instr) (f : FVr) (op : Nat → Nat → Nat → Nat → Nat) (s : State) : WordRes :=
  putEls i f.d f.w (ew f.e) (ew f.e) (lanes3 s i (ew f.e) (op (8 * ew f.e))) s

/-- VDOT4 on one lane of n bits: four products of signed quarters (R129). -/
def dot4 (n a b c : Nat) : Nat :=
  let q := n / 4
  let p := fun t => signed (bits a (q * t) q) q * signed (bits b (q * t) q) q
  narrow ((c : Int) + p 0 + p 1 + p 2 + p 3) n

def execVmac (f : FVr) (s : State) := runWord (.vmac f) (int3 (.vmac f) f fun n a b c => (c + a * b) % 2 ^ n) s
def execVdot4 (f : FVr) (s : State) := runWord (.vdot4 f) (int3 (.vdot4 f) f dot4) s

/-- VMULW and VADDW (R127, R130): the low half of the results goes to vd, the high half to vd + 1. -/
def widen (i : Instr) (f : FVr) (op : Int → Int → Int) (s : State) : WordRes :=
  let w := ew f.e
  let n := 8 * w
  let l := lanes2 s i w fun a b => narrow (op (signed a n) (signed b n)) (2 * n)
  let h := 256 / w / 2
  let d1 := f.d + 1
  let lo := mergeV s.mask w (2 * w) (s.oldV f.d f.w) (l.take h)
  let hi := mergeV (s.mask >>> 128) w (2 * w) (s.oldV d1 f.w) (l.drop h)
  .ok ((s.resV i f.d f.w lo).resV i d1 f.w hi)

def execVmulw (f : FVr) (s : State) := runWord (.vmulw f) (widen (.vmulw f) f (· * ·)) s
def execVaddw (f : FVr) (s : State) := runWord (.vaddw f) (widen (.vaddw f) f (· + ·)) s
def execVshli (f : FVi) (s : State) :=
  runWord (.vshli f) (fun s => intI (.vshli f) f (fun n a => a * 2 ^ s.immU (.vshli f) % 2 ^ n) s) s
def execVshri (f : FVi) (s : State) :=
  runWord (.vshri f) (fun s => intI (.vshri f) f (fun _ a => a / 2 ^ s.immU (.vshri f)) s) s
def execVsrai (f : FVi) (s : State) :=
  runWord (.vsrai f) (fun s => intI (.vsrai f) f (fun n a => sraN n a (s.immU (.vsrai f))) s) s
def execVaddi (f : FVi) (s : State) :=
  runWord (.vaddi f) (fun s => intI (.vaddi f) f (fun n a => narrow ((a : Int) + s.immS (.vaddi f)) n) s) s

/-! ## Compares and predicates (R124, R132, R133, R138) -/

/-- A number from groups of `w` bits, the first lowest. -/
def ofGroups (w : Nat) : List Nat → Nat
  | [] => 0
  | e :: r => e % 2 ^ w + 2 ^ w * ofGroups w r

/-- The groups of a compare's destination: active elements all ones or zeros, the rest kept (R124). -/
def cmpGroups (mask old : Pred) (w : Nat) (l : List Bool) : Pred :=
  BitVec.ofNat 256 (ofGroups w (l.zipIdx.map fun x =>
    if bit mask.toNat (x.2 * w) then (if x.1 then 2 ^ w - 1 else 0) else bits old.toNat (x.2 * w) w))

/-- An active element of width `w` reads a poisoned chunk (R125). -/
def anyActiveP (mask : Pred) (w : Nat) (l : List El) : Bool :=
  l.zipIdx.any fun x => bit mask.toNat (x.2 * w) && x.1.p

/-- Operand k of the word in issue is a poisoned scalar: it names a scalar-valued latch (R40), which counts as read whenever the word
executes (R125). -/
def scalarPoison (s : State) (i : Instr) (k : Nat) : Bool :=
  match State.opd i k with
  | .v f => match latchNo f with
    | none => false
    | some q => match s.iss.pre.lat.getD q .empty with
      | .scalar _ => anyP (s.srcV i k)
      | _ => false
  | _ => false

/-- A compare: POISON on a poisoned active element or a poisoned scalar, otherwise the predicate and its flags (R125, R132, R138). -/
def compare2 (i : Instr) (d : BitVec 5) (w : Nat) (op : Nat → Nat → Bool × Flags) (s : State) : WordRes :=
  let l := List.zipWith (fun a b => (({ v := 0, p := a.p || b.p } : El), op a.v b.v))
    (elsOf (s.srcV i 0) w) (elsOf (s.srcV i 1) w)
  if anyActiveP s.mask w (l.map (·.1)) || scalarPoison s i 0 || scalarPoison s i 1 then .trap cPOISON 0 s
  else .ok ((s.resP d (cmpGroups s.mask (s.iss.pre.preg d.toNat) w (l.map (·.2.1)))).orFcsr
    (activeFlags s.mask w (l.map (·.2.2))))

/-- An integer compare. -/
def icmp (i : Instr) (f : FVr) (op : Nat → Nat → Nat → Bool) (s : State) : WordRes :=
  compare2 i f.d (ew f.e) (fun a b => (op (8 * ew f.e) a b, 0)) s

def execVceq (f : FVr) (s : State) := runWord (.vceq f) (icmp (.vceq f) f fun _ a b => a == b) s
def execVcne (f : FVr) (s : State) := runWord (.vcne f) (icmp (.vcne f) f fun _ a b => a != b) s
def execVclt (f : FVr) (s : State) := runWord (.vclt f) (icmp (.vclt f) f sltN) s
def execVcle (f : FVr) (s : State) := runWord (.vcle f) (icmp (.vcle f) f fun n a b => !sltN n b a) s
def execVcltu (f : FVr) (s : State) := runWord (.vcltu f) (icmp (.vcltu f) f fun _ a b => decide (a < b)) s
def execVcleu (f : FVr) (s : State) := runWord (.vcleu f) (icmp (.vcleu f) f fun _ a b => decide (a ≤ b)) s

/-- A predicate result under the guard, bit by bit (R124). -/
def putPred (d : BitVec 5) (r : Pred) (s : State) : WordRes :=
  let m := s.mask
  .ok (s.resP d ((s.iss.pre.preg d.toNat &&& ~~~m) ||| (r &&& m)))

/-- A predicate word of two sources. -/
def pred2 (i : Instr) (f : FVp) (op : Pred → Pred → Pred) (s : State) : WordRes :=
  putPred f.d (op (s.srcP i 0) (s.srcP i 1)) s

def execPand (f : FVp) (s : State) := runWord (.pand f) (pred2 (.pand f) f (· &&& ·)) s
def execPor (f : FVp) (s : State) := runWord (.por f) (pred2 (.por f) f (· ||| ·)) s
def execPxor (f : FVp) (s : State) := runWord (.pxor f) (pred2 (.pxor f) f (· ^^^ ·)) s
def execPandn (f : FVp) (s : State) := runWord (.pandn f) (pred2 (.pandn f) f fun a b => a &&& ~~~b) s
def execPnot (f : FVp1) (s : State) := runWord (.pnot f) (fun s => putPred f.d (~~~(s.srcP (.pnot f) 0)) s) s
def execPany (f : FVp1) (s : State) :=
  runWord (.pany f) (fun s => putPred f.d (if s.srcP (.pany f) 0 = 0 then 0 else allLanes) s) s

/-- Number of ones of an n-bit number. -/
def onesN : Nat → Nat → Nat
  | 0, _ => 0
  | n + 1, x => x % 2 + onesN n (x / 2)

/-- Index of the lowest one of an n-bit number, or n. -/
def firstN : Nat → Nat → Nat
  | 0, _ => 0
  | n + 1, x => if x % 2 = 1 then 0 else 1 + firstN n (x / 2)

def execPpopc (f : FVp1) (s : State) :=
  runWord (.ppopc f) (fun s =>
    .ok (s.resS (.ppopc f) f.d f.w { v := BitVec.ofNat 64 (onesN 256 (s.srcP (.ppopc f) 0).toNat) })) s
def execPfirst (f : FVp1) (s : State) :=
  runWord (.pfirst f) (fun s =>
    .ok (s.resS (.pfirst f) f.d f.w { v := BitVec.ofNat 64 (firstN 256 (s.srcP (.pfirst f) 0).toNat) })) s

/-! ## Moves (R134) -/

/-- Elements of a width of source a. -/
def srcEls (s : State) (i : Instr) (w : Nat) : List El := elsOf (s.srcV i 0) w

def execVmov (f : FV1) (s : State) := runWord (.vmov f) (int1 (.vmov f) f fun _ a => a) s

/-- VBCAST. -/
def vbcast (i : Instr) (f : FV1) (s : State) : WordRes :=
  let a := s.srcS i 0
  putEls i f.d f.w (ew f.e) (ew f.e) (List.replicate (256 / ew f.e) { v := a.v.toNat % 2 ^ (8 * ew f.e), p := a.p }) s

def execVbcast (f : FV1) (s : State) := runWord (.vbcast f) (vbcast (.vbcast f) f) s

/-- VSLUP and VSLDN: `sel` gives the source index of element j under count n, if there is one. -/
def slide (i : Instr) (f : FVr) (sel : Nat → Nat → Option Nat) (s : State) : WordRes :=
  let w := ew f.e
  let l := srcEls s i w
  let b := s.srcS i 1
  putEls i f.d f.w w w ((List.range (256 / w)).map fun j =>
    match sel b.v.toNat j with
    | none => { v := 0, p := b.p }
    | some k => let e := l.getD k { v := 0 }; { v := e.v, p := e.p || b.p }) s

def execVslup (f : FVr) (s : State) :=
  runWord (.vslup f) (slide (.vslup f) f fun n j => if n ≤ j then some (j - n) else none) s
def execVsldn (f : FVr) (s : State) := runWord (.vsldn f) (slide (.vsldn f) f fun n j => some (j + n)) s

/-- VPERM. -/
def vperm (i : Instr) (f : FVr) (s : State) : WordRes :=
  let w := ew f.e
  let l := srcEls s i w
  putEls i f.d f.w w w ((elsOf (s.srcV i 1) w).map fun x =>
    let e := l.getD (x.v % (256 / w)) { v := 0 }
    { v := e.v, p := e.p || x.p }) s

def execVperm (f : FVr) (s : State) := runWord (.vperm f) (vperm (.vperm f) f) s

/-- VTOS. -/
def vtos (i : Instr) (f : FVr) (s : State) : WordRes :=
  let w := ew f.e
  let b := s.srcS i 1
  let e := (srcEls s i w).getD (b.v.toNat % (256 / w)) { v := 0 }
  .ok (s.resS i f.d f.w { v := BitVec.ofInt 64 (signed e.v (8 * w)), p := e.p || b.p })

def execVtos (f : FVr) (s : State) := runWord (.vtos f) (vtos (.vtos f) f) s

/-- VINS: every element but one behaves as masked off (R59). -/
def vins (i : Instr) (f : FVr) (s : State) : WordRes :=
  let w := ew f.e
  let a := s.srcS i 0
  let b := s.srcS i 1
  let j := b.v.toNat % (256 / w)
  let m := s.mask &&& BitVec.ofNat 256 (2 ^ (j * w))
  .ok (s.resV i f.d f.w (mergeV m w w (s.oldV f.d f.w)
    (List.replicate (256 / w) { v := a.v.toNat % 2 ^ (8 * w), p := a.p || b.p })))

def execVins (f : FVr) (s : State) := runWord (.vins f) (vins (.vins f) f) s

/-! ## Reductions (R135) -/

/-- One level of the pairwise tree. -/
def level {α : Type} (op : α → α → α) : List α → List α
  | a :: b :: r => op a b :: level op r
  | l => l

/-- The pairwise tree of `k` levels. -/
def tree {α : Type} (op : α → α → α) : Nat → List α → List α
  | 0, l => l
  | k + 1, l => tree op k (level op l)

/-- An integer reduction: elements sign-extended to 64 bits. -/
def redI (i : Instr) (f : FV1) (op : Int → Int → Int) (s : State) : WordRes :=
  let w := ew f.e
  let a := s.srcV i 0
  let l := (elsOf a w).map fun e => signed e.v (8 * w)
  .ok (s.resS i f.d f.w { v := BitVec.ofInt 64 ((tree op 8 l).headD 0), p := anyP a })

def execVradd (f : FV1) (s : State) := runWord (.vradd f) (redI (.vradd f) f (· + ·)) s
def execVrmax (f : FV1) (s : State) := runWord (.vrmax f) (redI (.vrmax f) f fun a b => if a < b then b else a) s
def execVrmin (f : FV1) (s : State) := runWord (.vrmin f) (redI (.vrmin f) f fun a b => if b < a then b else a) s

/-- A floating-point reduction: each node rounds on its own and the flags of all nodes are ORed. -/
def redF (i : Instr) (f : FV1) (op : FpFmt → Nat → Nat → Nat → Nat × Flags) (s : State) : WordRes :=
  let w := fpWidth f.e
  let a := s.srcV i 0
  let node := fun (x y : Nat × Flags) =>
    let r := op (fpOfEs f.e) s.iss.pre.rm x.1 y.1
    (r.1, x.2 ||| y.2 ||| r.2)
  let r := (tree node 7 ((elsOf a w).map fun e => (e.v, 0))).headD (0, 0)
  .ok ((s.resS i f.d f.w { v := BitVec.ofNat 64 r.1, p := anyP a }).orFcsr r.2)

def execVrfadd (f : FV1) (s : State) :=
  runWord (.vrfadd f) (redF (.vrfadd f) f fun g rm x y => fpAdd g rm (g.decode x) (g.decode y)) s
def execVrfmax (f : FV1) (s : State) :=
  runWord (.vrfmax f) (redF (.vrfmax f) f fun g _ x y => fpMinMax g false x y) s

/-! ## Floating point (R136, R137) -/

/-- Elements with flags put under the guard (R136). -/
def putFp (i : Instr) (d : BitVec 5) (wr : Bool) (w : Nat) (l : List (El × Flags)) (s : State) : WordRes :=
  .ok ((s.resV i d wr (mergeV s.mask w w (s.oldV d wr) (l.map (·.1)))).orFcsr (activeFlags s.mask w (l.map (·.2))))

/-- A floating-point word of two sources on patterns. -/
def vfp2 (i : Instr) (f : FVr) (op : FpFmt → Nat → Nat → Nat → Nat × Flags) (s : State) : WordRes :=
  let w := fpWidth f.e
  putFp i f.d f.w w (List.zipWith (fun a b =>
    let r := op (fpOfEs f.e) s.iss.pre.rm a.v b.v
    ({ v := r.1, p := a.p || b.p }, r.2)) (elsOf (s.srcV i 0) w) (elsOf (s.srcV i 1) w)) s

/-- A floating-point word of one source on patterns. -/
def vfp1 (i : Instr) (f : FV1) (op : FpFmt → Nat → Nat → Nat × Flags) (s : State) : WordRes :=
  let w := fpWidth f.e
  putFp i f.d f.w w ((elsOf (s.srcV i 0) w).map fun a =>
    let r := op (fpOfEs f.e) s.iss.pre.rm a.v
    ({ v := r.1, p := a.p }, r.2)) s

/-- VFMA and VFMS: `neg` negates the addend. -/
def vfp3 (i : Instr) (f : FVr) (neg : Bool) (s : State) : WordRes :=
  let w := fpWidth f.e
  let g := fpOfEs f.e
  putFp i f.d f.w w (List.zipWith (fun ab c =>
    let z := g.decode c.v
    let r := fpFma g s.iss.pre.rm (g.decode ab.1.v) (g.decode ab.2.v) (if neg then z.negate else z)
    ({ v := r.1, p := ab.1.p || ab.2.p || c.p }, r.2))
    ((elsOf (s.srcV i 0) w).zip (elsOf (s.srcV i 1) w)) (elsOf (s.srcV i 2) w)) s

def execVfadd (f : FVr) (s : State) :=
  runWord (.vfadd f) (vfp2 (.vfadd f) f fun g rm a b => fpAdd g rm (g.decode a) (g.decode b)) s
def execVfsub (f : FVr) (s : State) :=
  runWord (.vfsub f) (vfp2 (.vfsub f) f fun g rm a b => fpAdd g rm (g.decode a) (g.decode b).negate) s
def execVfmul (f : FVr) (s : State) :=
  runWord (.vfmul f) (vfp2 (.vfmul f) f fun g rm a b => fpMul g rm (g.decode a) (g.decode b)) s
def execVfma (f : FVr) (s : State) := runWord (.vfma f) (vfp3 (.vfma f) f false) s
def execVfms (f : FVr) (s : State) := runWord (.vfms f) (vfp3 (.vfms f) f true) s
def execVfmin (f : FVr) (s : State) := runWord (.vfmin f) (vfp2 (.vfmin f) f fun g _ a b => fpMinMax g true a b) s
def execVfmax (f : FVr) (s : State) := runWord (.vfmax f) (vfp2 (.vfmax f) f fun g _ a b => fpMinMax g false a b) s
def execVfabs (f : FV1) (s : State) :=
  runWord (.vfabs f) (vfp1 (.vfabs f) f fun g _ a => (a % 2 ^ (g.e + g.m), 0)) s
def execVfneg (f : FV1) (s : State) :=
  runWord (.vfneg f) (vfp1 (.vfneg f) f fun g _ a => (a ^^^ 2 ^ (g.e + g.m), 0)) s
def execVfdiv (f : FVr) (s : State) :=
  runWord (.vfdiv f) (vfp2 (.vfdiv f) f fun g rm a b => fpDiv g rm (g.decode a) (g.decode b)) s
def execVfsqrt (f : FV1) (s : State) :=
  runWord (.vfsqrt f) (vfp1 (.vfsqrt f) f fun g rm a => fpSqrt g rm (g.decode a)) s
def execVfrsq (f : FV1) (s : State) :=
  runWord (.vfrsq f) (vfp1 (.vfrsq f) f fun g rm a => fpRsqrt g rm (g.decode a)) s

/-- A floating-point compare (R138). -/
def fcmp (i : Instr) (f : FVr) (op : Fv → Fv → Bool × Flags) (s : State) : WordRes :=
  let g := fpOfEs f.e
  compare2 i f.d (fpWidth f.e) (fun a b => op (g.decode a) (g.decode b)) s

def execVfceq (f : FVr) (s : State) := runWord (.vfceq f) (fcmp (.vfceq f) f fpEq) s
def execVfclt (f : FVr) (s : State) := runWord (.vfclt f) (fcmp (.vfclt f) f fpLt) s
def execVfcle (f : FVr) (s : State) := runWord (.vfcle f) (fcmp (.vfcle f) f fpLe) s
def execVfcun (f : FVr) (s : State) := runWord (.vfcun f) (fcmp (.vfcun f) f fpUn) s

/-! ## Conversions (R139, R140) -/

/-- VCVTIF (R139). An INT16 value that FP16 does not hold exactly, of more than 11 significant bits (R98), rounds with RoundE and sets NX, as the
rule's own sentence says; its other sentence, that FP16 holds every INT16 value exactly, cannot be met (DEDUCED, log 97). -/
def execVcvtif (f : FV1) (s : State) :=
  runWord (.vcvtif f) (vfp1 (.vcvtif f) f fun g rm a => fpOfInt g rm (signed a (8 * fpWidth f.e))) s

/-- VCVTFI on one element of n bits. -/
def cvtfi (g : FpFmt) (n rm a : Nat) : Nat × Flags :=
  let r := fpToInt rm (-((2 ^ (n - 1) : Nat) : Int)) ((2 ^ (n - 1) : Nat) - 1) (g.decode a)
  (narrow r.1 n, r.2)

def execVcvtfi (f : FV1) (s : State) :=
  runWord (.vcvtfi f) (vfp1 (.vcvtfi f) f fun g rm a => cvtfi g (8 * fpWidth f.e) rm a) s

/-- Formats of VPACK8 and VUNPK8, and of VPACK16 and VUNPK16 (R140). -/
def pack8Fmt (e : BitVec 2) : Nat := if e = 0 then fmtE4M3 else if e = 1 then fmtE5M2 else fmtINT8
def pack16Fmt (e : BitVec 2) : Nat := if e = 0 then fmtBF16 else if e = 1 then fmtFP16 else fmtINT16

/-- One lane packed (R115, R116, R140). -/
def packLane (fmt : Nat) (r : BitVec 512) (rm x : Nat) : Nat × Flags :=
  if fmtIsInt fmt then (encodeIntI (fmtBits fmt) r (signed x 32), 0)
  else encodeFP fmt r rm (fp32.decode x)

/-- VPACK8 and VPACK16: 64 lanes to elements of `w` bytes, lane j governed by predicate bit 4j. -/
def pack (i : Instr) (f : FV1) (fmt w : Nat) (s : State) : WordRes :=
  let c := s.iss.pre
  let r := c.recs.getD c.prsel.toNat 0
  let l := (elsOf (s.srcV i 0) 4).map fun a =>
    let y := packLane fmt r c.rm a.v
    (({ v := y.1, p := a.p } : El), y.2)
  .ok ((s.resV i f.d f.w (mergeV s.mask 4 w (s.oldV f.d f.w) (l.map (·.1)))).orFcsr
    (activeFlags s.mask 4 (l.map (·.2))))

/-- VUNPK8 and VUNPK16: 64 elements of `w` bytes to 32-bit lanes. -/
def unpack (i : Instr) (f : FV1) (fmt w : Nat) (s : State) : WordRes :=
  putEls i f.d f.w 4 4 (((elsOf (s.srcV i 0) w).take 64).map fun a => { v := (decodeElem fmt a.v 0).1, p := a.p }) s

def execVpack8 (f : FV1) (s : State) := runWord (.vpack8 f) (pack (.vpack8 f) f (pack8Fmt f.e) 1) s
def execVunpk8 (f : FV1) (s : State) := runWord (.vunpk8 f) (unpack (.vunpk8 f) f (pack8Fmt f.e) 1) s
def execVpack16 (f : FV1) (s : State) := runWord (.vpack16 f) (pack (.vpack16 f) f (pack16Fmt f.e) 2) s
def execVunpk16 (f : FV1) (s : State) := runWord (.vunpk16 f) (unpack (.vunpk16 f) f (pack16Fmt f.e) 2) s

/-! ## Residue words (R141) -/

/-- A residue word of one source. -/
def rns1 (i : Instr) (f : FVp1) (op : Nat → Nat) (s : State) : WordRes :=
  putEls i f.d f.w 4 4 (lanes1 s i 4 op) s

/-- A residue word of two sources. -/
def rns2 (i : Instr) (f : FVp) (op : Nat → Nat → Nat) (s : State) : WordRes :=
  putEls i f.d f.w 4 4 (lanes2 s i 4 op) s

def execVrnse (f : FVp1) (s : State) := runWord (.vrnse f) (rns1 (.vrnse f) f fun a => rnsOf (signed a 32)) s
def execVrnsd (f : FVp1) (s : State) := runWord (.vrnsd f) (rns1 (.vrnsd f) f fun a => narrow (rnsCrt a) 32) s
def execVrnsadd (f : FVp) (s : State) := runWord (.vrnsadd f) (rns2 (.vrnsadd f) f rnsAdd) s
def execVrnsmul (f : FVp) (s : State) := runWord (.vrnsmul f) (rns2 (.vrnsmul f) f rnsMul) s

/-- VRNSMAC. -/
def rnsmac (i : Instr) (f : FVp) (s : State) : WordRes :=
  putEls i f.d f.w 4 4 (lanes3 s i 4 fun a b c => rnsAdd c (rnsMul a b)) s

def execVrnsmac (f : FVp) (s : State) := runWord (.vrnsmac f) (rnsmac (.vrnsmac f) f) s

end Sys2Proof.Machine
end

