-- ==== Sys2Proof/Machine/Dispatch.lean ====
section
/-! DEFINITION. The dispatch: one arm per constructor of Instr, each a direct call of its meaning. -/

namespace Sys2Proof.Machine

def exec (i : Instr) (s : State) : Host.Outcome State Fault Refusal :=
  match i with
  | .br f => Sys2Proof.Machine.execBr f s
  | .brl f => Sys2Proof.Machine.execBrl f s
  | .jr f => Sys2Proof.Machine.execJr f s
  | .jrl f => Sys2Proof.Machine.execJrl f s
  | .bz f => Sys2Proof.Machine.execBz f s
  | .bnz f => Sys2Proof.Machine.execBnz f s
  | .bltz f => Sys2Proof.Machine.execBltz f s
  | .bgez f => Sys2Proof.Machine.execBgez f s
  | .bp f => Sys2Proof.Machine.execBp f s
  | .bnp f => Sys2Proof.Machine.execBnp f s
  | .bany f => Sys2Proof.Machine.execBany f s
  | .bnone f => Sys2Proof.Machine.execBnone f s
  | .bloop f => Sys2Proof.Machine.execBloop f s
  | .lcset f => Sys2Proof.Machine.execLcset f s
  | .trap f => Sys2Proof.Machine.execTrap f s
  | .waitev f => Sys2Proof.Machine.execWaitev f s
  | .brk f => Sys2Proof.Machine.execBrk f s
  | .add f => Sys2Proof.Machine.execAdd f s
  | .sub f => Sys2Proof.Machine.execSub f s
  | .and f => Sys2Proof.Machine.execAnd f s
  | .or f => Sys2Proof.Machine.execOr f s
  | .xor f => Sys2Proof.Machine.execXor f s
  | .andn f => Sys2Proof.Machine.execAndn f s
  | .sll f => Sys2Proof.Machine.execSll f s
  | .srl f => Sys2Proof.Machine.execSrl f s
  | .sra f => Sys2Proof.Machine.execSra f s
  | .mul f => Sys2Proof.Machine.execMul f s
  | .mulh f => Sys2Proof.Machine.execMulh f s
  | .mulhu f => Sys2Proof.Machine.execMulhu f s
  | .div f => Sys2Proof.Machine.execDiv f s
  | .divu f => Sys2Proof.Machine.execDivu f s
  | .rem f => Sys2Proof.Machine.execRem f s
  | .remu f => Sys2Proof.Machine.execRemu f s
  | .min f => Sys2Proof.Machine.execMin f s
  | .max f => Sys2Proof.Machine.execMax f s
  | .minu f => Sys2Proof.Machine.execMinu f s
  | .maxu f => Sys2Proof.Machine.execMaxu f s
  | .slt f => Sys2Proof.Machine.execSlt f s
  | .sltu f => Sys2Proof.Machine.execSltu f s
  | .seq f => Sys2Proof.Machine.execSeq f s
  | .sne f => Sys2Proof.Machine.execSne f s
  | .addw f => Sys2Proof.Machine.execAddw f s
  | .subw f => Sys2Proof.Machine.execSubw f s
  | .mulw f => Sys2Proof.Machine.execMulw f s
  | .cmovz f => Sys2Proof.Machine.execCmovz f s
  | .cmovnz f => Sys2Proof.Machine.execCmovnz f s
  | .bfx f => Sys2Proof.Machine.execBfx f s
  | .bfi f => Sys2Proof.Machine.execBfi f s
  | .clz f => Sys2Proof.Machine.execClz f s
  | .ctz f => Sys2Proof.Machine.execCtz f s
  | .popc f => Sys2Proof.Machine.execPopc f s
  | .sextb f => Sys2Proof.Machine.execSextb f s
  | .sexth f => Sys2Proof.Machine.execSexth f s
  | .sextw f => Sys2Proof.Machine.execSextw f s
  | .zextw f => Sys2Proof.Machine.execZextw f s
  | .bswap f => Sys2Proof.Machine.execBswap f s
  | .addi f => Sys2Proof.Machine.execAddi f s
  | .andi f => Sys2Proof.Machine.execAndi f s
  | .ori f => Sys2Proof.Machine.execOri f s
  | .xori f => Sys2Proof.Machine.execXori f s
  | .slli f => Sys2Proof.Machine.execSlli f s
  | .srli f => Sys2Proof.Machine.execSrli f s
  | .srai f => Sys2Proof.Machine.execSrai f s
  | .slti f => Sys2Proof.Machine.execSlti f s
  | .sltiu f => Sys2Proof.Machine.execSltiu f s
  | .muli f => Sys2Proof.Machine.execMuli f s
  | .li f => Sys2Proof.Machine.execLi f s
  | .lui f => Sys2Proof.Machine.execLui f s
  | .fadd f => Sys2Proof.Machine.execFadd f s
  | .fsub f => Sys2Proof.Machine.execFsub f s
  | .fmul f => Sys2Proof.Machine.execFmul f s
  | .fma f => Sys2Proof.Machine.execFma f s
  | .fmin f => Sys2Proof.Machine.execFmin f s
  | .fmax f => Sys2Proof.Machine.execFmax f s
  | .feq f => Sys2Proof.Machine.execFeq f s
  | .flt f => Sys2Proof.Machine.execFlt f s
  | .fle f => Sys2Proof.Machine.execFle f s
  | .fdiv f => Sys2Proof.Machine.execFdiv f s
  | .fsqrt f => Sys2Proof.Machine.execFsqrt f s
  | .fcvtif f => Sys2Proof.Machine.execFcvtif f s
  | .fcvtfi f => Sys2Proof.Machine.execFcvtfi f s
  | .csrr f => Sys2Proof.Machine.execCsrr f s
  | .csrw f => Sys2Proof.Machine.execCsrw f s
  | .csrs f => Sys2Proof.Machine.execCsrs f s
  | .csrc f => Sys2Proof.Machine.execCsrc f s
  | .scsrr f => Sys2Proof.Machine.execScsrr f s
  | .scsrw f => Sys2Proof.Machine.execScsrw f s
  | .scsrs f => Sys2Proof.Machine.execScsrs f s
  | .scsrc f => Sys2Proof.Machine.execScsrc f s
  | .ldb f => Sys2Proof.Machine.execLdb f s
  | .ldbu f => Sys2Proof.Machine.execLdbu f s
  | .ldh f => Sys2Proof.Machine.execLdh f s
  | .ldhu f => Sys2Proof.Machine.execLdhu f s
  | .ldw f => Sys2Proof.Machine.execLdw f s
  | .ldwu f => Sys2Proof.Machine.execLdwu f s
  | .ldd f => Sys2Proof.Machine.execLdd f s
  | .stb f => Sys2Proof.Machine.execStb f s
  | .sth f => Sys2Proof.Machine.execSth f s
  | .stw f => Sys2Proof.Machine.execStw f s
  | .std f => Sys2Proof.Machine.execStd f s
  | .ldv f => Sys2Proof.Machine.execLdv f s
  | .stv f => Sys2Proof.Machine.execStv f s
  | .ldvf f => Sys2Proof.Machine.execLdvf f s
  | .stvf f => Sys2Proof.Machine.execStvf f s
  | .ldvg f => Sys2Proof.Machine.execLdvg f s
  | .stvs f => Sys2Proof.Machine.execStvs f s
  | .ldvb f => Sys2Proof.Machine.execLdvb f s
  | .ldp f => Sys2Proof.Machine.execLdp f s
  | .aadd f => Sys2Proof.Machine.execAadd f s
  | .amin f => Sys2Proof.Machine.execAmin f s
  | .amax f => Sys2Proof.Machine.execAmax f s
  | .aminu f => Sys2Proof.Machine.execAminu f s
  | .amaxu f => Sys2Proof.Machine.execAmaxu f s
  | .aand f => Sys2Proof.Machine.execAand f s
  | .aor f => Sys2Proof.Machine.execAor f s
  | .axor f => Sys2Proof.Machine.execAxor f s
  | .aswp f => Sys2Proof.Machine.execAswp f s
  | .acas f => Sys2Proof.Machine.execAcas f s
  | .afadd f => Sys2Proof.Machine.execAfadd f s
  | .barv f => Sys2Proof.Machine.execBarv f s
  | .bwait f => Sys2Proof.Machine.execBwait f s
  | .binit f => Sys2Proof.Machine.execBinit f s
  | .fence f => Sys2Proof.Machine.execFence f s
  | .xfence f => Sys2Proof.Machine.execXfence f s
  | .vadd f => Sys2Proof.Machine.execVadd f s
  | .vsub f => Sys2Proof.Machine.execVsub f s
  | .vmul f => Sys2Proof.Machine.execVmul f s
  | .vmulh f => Sys2Proof.Machine.execVmulh f s
  | .vmulhu f => Sys2Proof.Machine.execVmulhu f s
  | .vand f => Sys2Proof.Machine.execVand f s
  | .vor f => Sys2Proof.Machine.execVor f s
  | .vxor f => Sys2Proof.Machine.execVxor f s
  | .vshl f => Sys2Proof.Machine.execVshl f s
  | .vshr f => Sys2Proof.Machine.execVshr f s
  | .vsra f => Sys2Proof.Machine.execVsra f s
  | .vmin f => Sys2Proof.Machine.execVmin f s
  | .vmax f => Sys2Proof.Machine.execVmax f s
  | .vminu f => Sys2Proof.Machine.execVminu f s
  | .vmaxu f => Sys2Proof.Machine.execVmaxu f s
  | .vabs f => Sys2Proof.Machine.execVabs f s
  | .vneg f => Sys2Proof.Machine.execVneg f s
  | .vadds f => Sys2Proof.Machine.execVadds f s
  | .vsubs f => Sys2Proof.Machine.execVsubs f s
  | .vmac f => Sys2Proof.Machine.execVmac f s
  | .vdot4 f => Sys2Proof.Machine.execVdot4 f s
  | .vmulw f => Sys2Proof.Machine.execVmulw f s
  | .vaddw f => Sys2Proof.Machine.execVaddw f s
  | .vshli f => Sys2Proof.Machine.execVshli f s
  | .vshri f => Sys2Proof.Machine.execVshri f s
  | .vsrai f => Sys2Proof.Machine.execVsrai f s
  | .vaddi f => Sys2Proof.Machine.execVaddi f s
  | .vceq f => Sys2Proof.Machine.execVceq f s
  | .vcne f => Sys2Proof.Machine.execVcne f s
  | .vclt f => Sys2Proof.Machine.execVclt f s
  | .vcle f => Sys2Proof.Machine.execVcle f s
  | .vcltu f => Sys2Proof.Machine.execVcltu f s
  | .vcleu f => Sys2Proof.Machine.execVcleu f s
  | .pand f => Sys2Proof.Machine.execPand f s
  | .por f => Sys2Proof.Machine.execPor f s
  | .pxor f => Sys2Proof.Machine.execPxor f s
  | .pandn f => Sys2Proof.Machine.execPandn f s
  | .pnot f => Sys2Proof.Machine.execPnot f s
  | .pany f => Sys2Proof.Machine.execPany f s
  | .ppopc f => Sys2Proof.Machine.execPpopc f s
  | .pfirst f => Sys2Proof.Machine.execPfirst f s
  | .vmov f => Sys2Proof.Machine.execVmov f s
  | .vbcast f => Sys2Proof.Machine.execVbcast f s
  | .vslup f => Sys2Proof.Machine.execVslup f s
  | .vsldn f => Sys2Proof.Machine.execVsldn f s
  | .vperm f => Sys2Proof.Machine.execVperm f s
  | .vtos f => Sys2Proof.Machine.execVtos f s
  | .vins f => Sys2Proof.Machine.execVins f s
  | .vradd f => Sys2Proof.Machine.execVradd f s
  | .vrmax f => Sys2Proof.Machine.execVrmax f s
  | .vrmin f => Sys2Proof.Machine.execVrmin f s
  | .vrfadd f => Sys2Proof.Machine.execVrfadd f s
  | .vrfmax f => Sys2Proof.Machine.execVrfmax f s
  | .vfadd f => Sys2Proof.Machine.execVfadd f s
  | .vfsub f => Sys2Proof.Machine.execVfsub f s
  | .vfmul f => Sys2Proof.Machine.execVfmul f s
  | .vfma f => Sys2Proof.Machine.execVfma f s
  | .vfms f => Sys2Proof.Machine.execVfms f s
  | .vfmin f => Sys2Proof.Machine.execVfmin f s
  | .vfmax f => Sys2Proof.Machine.execVfmax f s
  | .vfabs f => Sys2Proof.Machine.execVfabs f s
  | .vfneg f => Sys2Proof.Machine.execVfneg f s
  | .vfceq f => Sys2Proof.Machine.execVfceq f s
  | .vfclt f => Sys2Proof.Machine.execVfclt f s
  | .vfcle f => Sys2Proof.Machine.execVfcle f s
  | .vfcun f => Sys2Proof.Machine.execVfcun f s
  | .vfdiv f => Sys2Proof.Machine.execVfdiv f s
  | .vfsqrt f => Sys2Proof.Machine.execVfsqrt f s
  | .vfrsq f => Sys2Proof.Machine.execVfrsq f s
  | .vcvtif f => Sys2Proof.Machine.execVcvtif f s
  | .vcvtfi f => Sys2Proof.Machine.execVcvtfi f s
  | .vpack8 f => Sys2Proof.Machine.execVpack8 f s
  | .vunpk8 f => Sys2Proof.Machine.execVunpk8 f s
  | .vpack16 f => Sys2Proof.Machine.execVpack16 f s
  | .vunpk16 f => Sys2Proof.Machine.execVunpk16 f s
  | .vrnse f => Sys2Proof.Machine.execVrnse f s
  | .vrnsd f => Sys2Proof.Machine.execVrnsd f s
  | .vrnsadd f => Sys2Proof.Machine.execVrnsadd f s
  | .vrnsmul f => Sys2Proof.Machine.execVrnsmul f s
  | .vrnsmac f => Sys2Proof.Machine.execVrnsmac f s
  | .mldtScalar f => Sys2Proof.Machine.execMldtScalar f s
  | .mldtVector f => Sys2Proof.Machine.execMldtVector f s
  | .mset f => Sys2Proof.Machine.execMset f s
  | .mgo f => Sys2Proof.Machine.execMgo f s
  | .mstat f => Sys2Proof.Machine.execMstat f s
  | .mwait f => Sys2Proof.Machine.execMwait f s
  | .mclr f => Sys2Proof.Machine.execMclr f s
  | .mabort f => Sys2Proof.Machine.execMabort f s
  | .msplit f => Sys2Proof.Machine.execMsplit f s
  | .mwb f => Sys2Proof.Machine.execMwb f s
  | .cpy f => Sys2Proof.Machine.execCpy f s
  | .cwait f => Sys2Proof.Machine.execCwait f s
  | .cstat f => Sys2Proof.Machine.execCstat f s
  | .ccan f => Sys2Proof.Machine.execCcan f s
  | .lsend f => Sys2Proof.Machine.execLsend f s
  | .lrecv f => Sys2Proof.Machine.execLrecv f s
  | .lradd f => Sys2Proof.Machine.execLradd f s
  | .lsched f => Sys2Proof.Machine.execLsched f s
  | .lstat f => Sys2Proof.Machine.execLstat f s
  | .sig f => Sys2Proof.Machine.execSig f s
  | .swait f => Sys2Proof.Machine.execSwait f s
  | .stry f => Sys2Proof.Machine.execStry f s
  | .sset f => Sys2Proof.Machine.execSset f s
  | .hpush f => Sys2Proof.Machine.execHpush f s
  | .hpop f => Sys2Proof.Machine.execHpop f s
  | .hupd f => Sys2Proof.Machine.execHupd f s
  | .hread f => Sys2Proof.Machine.execHread f s
  | .hsum f => Sys2Proof.Machine.execHsum f s
  | .hclose f => Sys2Proof.Machine.execHclose f s
  | .hdone f => Sys2Proof.Machine.execHdone f s
  | .hopen f => Sys2Proof.Machine.execHopen f s
  | .launch f => Sys2Proof.Machine.execLaunch f s
  | .expectAdd f => Sys2Proof.Machine.execExpectAdd f s
  | .post f => Sys2Proof.Machine.execPost f s
  | .jwait f => Sys2Proof.Machine.execJwait f s
  | .rget f => Sys2Proof.Machine.execRget f s
  | .suspend f => Sys2Proof.Machine.execSuspend f s
  | .handoff f => Sys2Proof.Machine.execHandoff f s
  | .tlbinv f => Sys2Proof.Machine.execTlbinv f s
  | .pblk f => Sys2Proof.Machine.execPblk f s
  | .limm f => Sys2Proof.Machine.execLimm f s
  | .pmap f => Sys2Proof.Machine.execPmap f s
  | .nop => Sys2Proof.Machine.execNop s
  | .halt => Sys2Proof.Machine.execHalt s
  | .cret => Sys2Proof.Machine.execCret s
  | .xret => Sys2Proof.Machine.execXret s
  | .tdone => Sys2Proof.Machine.execTdone s
  | .transitDetection t slot => Sys2Proof.Machine.execTransitDetection t slot s
  | .engineRecomputation t e => Sys2Proof.Machine.execEngineRecomputation t e s
  | .halfRateEnd t => Sys2Proof.Machine.execHalfRateEnd t s
  | .asyncTrapDelivery t slot => Sys2Proof.Machine.execAsyncTrapDelivery t slot s
  | .completionHandlerEntry t slot => Sys2Proof.Machine.execCompletionHandlerEntry t slot s
  | .swaitWake t slot => Sys2Proof.Machine.execSwaitWake t slot s
  | .cwaitWake t slot => Sys2Proof.Machine.execCwaitWake t slot s
  | .mwaitWake t slot => Sys2Proof.Machine.execMwaitWake t slot s
  | .jwaitWake t slot => Sys2Proof.Machine.execJwaitWake t slot s
  | .waitevWake t slot => Sys2Proof.Machine.execWaitevWake t slot s
  | .bwaitRead t slot => Sys2Proof.Machine.execBwaitRead t slot s
  | .bwaitLimit t slot => Sys2Proof.Machine.execBwaitLimit t slot s
  | .heldEndingWordRelease t slot => Sys2Proof.Machine.execHeldEndingWordRelease t slot s
  | .instructionCacheFill t va => Sys2Proof.Machine.execInstructionCacheFill t va s
  | .parameterBlockFill t slot => Sys2Proof.Machine.execParameterBlockFill t slot s
  | .matrixCommandStart t => Sys2Proof.Machine.execMatrixCommandStart t s
  | .matrixStep t => Sys2Proof.Machine.execMatrixStep t s
  | .matrixStallResume t => Sys2Proof.Machine.execMatrixStallResume t s
  | .mwbRow t => Sys2Proof.Machine.execMwbRow t s
  | .matrixClearRun t => Sys2Proof.Machine.execMatrixClearRun t s
  | .matrixCompletion t => Sys2Proof.Machine.execMatrixCompletion t s
  | .copyBegin t e => Sys2Proof.Machine.execCopyBegin t e s
  | .copyUnitRetire t e => Sys2Proof.Machine.execCopyUnitRetire t e s
  | .copyStallResume t e => Sys2Proof.Machine.execCopyStallResume t e s
  | .copyCompletion t e => Sys2Proof.Machine.execCopyCompletion t e s
  | .walk t e va acc => Sys2Proof.Machine.execWalk t e va acc s
  | .tlbinvComplete t slot => Sys2Proof.Machine.execTlbinvComplete t slot s
  | .closingPoint st pc slot wr hint => Sys2Proof.Machine.execClosingPoint st pc slot wr hint s
  | .readLineArrival st k => Sys2Proof.Machine.execReadLineArrival st k s
  | .writePerformed st k => Sys2Proof.Machine.execWritePerformed st k s
  | .retry st k => Sys2Proof.Machine.execRetry st k s
  | .thermalStateChange st temp => Sys2Proof.Machine.execThermalStateChange st temp s
  | .ownerEntryEffect x => Sys2Proof.Machine.execOwnerEntryEffect x s
  | .sctlQuiesce st => Sys2Proof.Machine.execSctlQuiesce st s
  | .quiesced st => Sys2Proof.Machine.execQuiesced st s
  | .sctlRatio st ratio => Sys2Proof.Machine.execSctlRatio st ratio s
  | .laneRetrainComplete st => Sys2Proof.Machine.execLaneRetrainComplete st s
  | .plateFill t e err => Sys2Proof.Machine.execPlateFill t e err s
  | .plateWrite t e => Sys2Proof.Machine.execPlateWrite t e s
  | .plateCommit t e => Sys2Proof.Machine.execPlateCommit t e s
  | .resealCommit st grp => Sys2Proof.Machine.execResealCommit st grp s
  | .keyRotationGroup st grp => Sys2Proof.Machine.execKeyRotationGroup st grp s
  | .patrolScrub t bank line err => Sys2Proof.Machine.execPatrolScrub t bank line err s
  | .meshArrival k => Sys2Proof.Machine.execMeshArrival k s
  | .sigDelivery k => Sys2Proof.Machine.execSigDelivery k s
  | .portEWriteApply t k => Sys2Proof.Machine.execPortEWriteApply t k s
  | .gangDispatch die => Sys2Proof.Machine.execGangDispatch die s
  | .tileClaim die job => Sys2Proof.Machine.execTileClaim die job s
  | .jobCompletion die slot => Sys2Proof.Machine.execJobCompletion die slot s
  | .continuationResume gang t => Sys2Proof.Machine.execContinuationResume gang t s
  | .preemptReq t slot => Sys2Proof.Machine.execPreemptReq t slot s
  | .preemption t slot => Sys2Proof.Machine.execPreemption t slot s
  | .drainLimit t slot => Sys2Proof.Machine.execDrainLimit t slot s
  | .proofRecordWrite t slot => Sys2Proof.Machine.execProofRecordWrite t slot s
  | .resumption gang => Sys2Proof.Machine.execResumption gang s
  | .windowCrossing t => Sys2Proof.Machine.execWindowCrossing t s
  | .monitorWindowEnd t => Sys2Proof.Machine.execMonitorWindowEnd t s
  | .windowRestart t => Sys2Proof.Machine.execWindowRestart t s
  | .vtgtRaise t => Sys2Proof.Machine.execVtgtRaise t s
  | .vtgtLower t => Sys2Proof.Machine.execVtgtLower t s
  | .operatingPointChange t op => Sys2Proof.Machine.execOperatingPointChange t op s
  | .almanacWrite t => Sys2Proof.Machine.execAlmanacWrite t s
  | .ldoTrimUpdate t => Sys2Proof.Machine.execLdoTrimUpdate t s
  | .railStep r => Sys2Proof.Machine.execRailStep r s
  | .railHoldExpiry r => Sys2Proof.Machine.execRailHoldExpiry r s
  | .vminSample die r mv => Sys2Proof.Machine.execVminSample die r mv s
  | .vminRearm die r mv => Sys2Proof.Machine.execVminRearm die r mv s
  | .thermalObserverUpdate tnow tfc watts => Sys2Proof.Machine.execThermalObserverUpdate tnow tfc watts s
  | .emergencyGating => Sys2Proof.Machine.execEmergencyGating s
  | .gatingEnd => Sys2Proof.Machine.execGatingEnd s
  | .injctlEn die => Sys2Proof.Machine.execInjctlEn die s
  | .flitReceive port f bad => Sys2Proof.Machine.execFlitReceive port f bad s
  | .nak port seq => Sys2Proof.Machine.execNak port seq s
  | .retrainComplete port lt => Sys2Proof.Machine.execRetrainComplete port lt s
  | .portHold port => Sys2Proof.Machine.execPortHold port s
  | .clearFlit port => Sys2Proof.Machine.execClearFlit port s
  | .dataFlit port => Sys2Proof.Machine.execDataFlit port s
  | .lastFlit port => Sys2Proof.Machine.execLastFlit port s
  | .doneFlit port => Sys2Proof.Machine.execDoneFlit port s
  | .controlFlit port => Sys2Proof.Machine.execControlFlit port s
  | .linkCompletion t tag => Sys2Proof.Machine.execLinkCompletion t tag s
  | .scheduleStep t tag => Sys2Proof.Machine.execScheduleStep t tag s
  | .memberDone t tag rank => Sys2Proof.Machine.execMemberDone t tag rank s
  | .memberCommit t tag => Sys2Proof.Machine.execMemberCommit t tag s
  | .memberFail t tag rank => Sys2Proof.Machine.execMemberFail t tag rank s
  | .scheduleRestart t tag epoch removed => Sys2Proof.Machine.execScheduleRestart t tag epoch removed s
  | .coordinatorQuery t tag rank => Sys2Proof.Machine.execCoordinatorQuery t tag rank s
  | .memberTimeout t tag rank => Sys2Proof.Machine.execMemberTimeout t tag rank s
  | .twinWindowClose p => Sys2Proof.Machine.execTwinWindowClose p s
  | .twinDigest p win digest => Sys2Proof.Machine.execTwinDigest p win digest s
  | .interimDigest p => Sys2Proof.Machine.execInterimDigest p s
  | .twinLost p => Sys2Proof.Machine.execTwinLost p s
  | .launchWindowWrite vf off len pkt => Sys2Proof.Machine.execLaunchWindowWrite vf off len pkt s
  | .functionLevelReset vf => Sys2Proof.Machine.execFunctionLevelReset vf s
  | .partCreate ag p test => Sys2Proof.Machine.execPartCreate ag p test s
  | .partDestroy ag p => Sys2Proof.Machine.execPartDestroy ag p s
  | .tileAssign ag p die mask => Sys2Proof.Machine.execTileAssign ag p die mask s
  | .vfBind ag p vf on => Sys2Proof.Machine.execVfBind ag p vf on s
  | .suptab ag p t slot tvec proof => Sys2Proof.Machine.execSuptab ag p t slot tvec proof s
  | .spanGrant ag p st span key => Sys2Proof.Machine.execSpanGrant ag p st span key s
  | .keyRotate ag p k => Sys2Proof.Machine.execKeyRotate ag p k s
  | .grantMask ag p mask => Sys2Proof.Machine.execGrantMask ag p mask s
  | .railVote ag p rail mv => Sys2Proof.Machine.execRailVote ag p rail mv s
  | .preemptCmd ag p job gi => Sys2Proof.Machine.execPreemptCmd ag p job gi s
  | .stackCtl ag p st w => Sys2Proof.Machine.execStackCtl ag p st w s
  | .almanacCmd ag p t op => Sys2Proof.Machine.execAlmanacCmd ag p t op s
  | .twinSetup ag p on => Sys2Proof.Machine.execTwinSetup ag p on s
  | .injectCmd ag p die seed tiles ctl => Sys2Proof.Machine.execInjectCmd ag p die seed tiles ctl s
  | .powerState ag p w => Sys2Proof.Machine.execPowerState ag p w s
  | .handover ag => Sys2Proof.Machine.execHandover ag s
  | .accept ag => Sys2Proof.Machine.execAccept ag s
  | .handoverExpiry => Sys2Proof.Machine.execHandoverExpiry s
  | .rootSet ag p set pa => Sys2Proof.Machine.execRootSet ag p set pa s
  | .ownerClaim host board => Sys2Proof.Machine.execOwnerClaim host board s
  | .drvfeat v => Sys2Proof.Machine.execDrvfeat v s
  | .coldStart failing bad => Sys2Proof.Machine.execColdStart failing bad s
  | .warmStart w => Sys2Proof.Machine.execWarmStart w s
  | .registerWrite r v => Sys2Proof.Machine.execRegisterWrite r v s
  | .resultDelivery t slot k => Sys2Proof.Machine.execResultDelivery t slot k s
  | .linkTraining port peer lt => Sys2Proof.Machine.execLinkTraining port peer lt s
  | .powerLoss => Sys2Proof.Machine.execPowerLoss s
  | .debugPortRequest r => Sys2Proof.Machine.execDebugPortRequest r s
  | .msiXCoalescingTimeout vf => Sys2Proof.Machine.execMsiXCoalescingTimeout vf s

end Sys2Proof.Machine
end

