-- ==== Sys2Proof/Machine/Moves.lean ====
section
/-! DEFINITION. What can happen next in the device: the bundles that contexts can issue and the events that are enabled
(DESIGN CHOICE, log 4). -/

namespace Sys2Proof.Machine

/-- One thing that can happen next: the next bundle of a context, or an event of the device. -/
inductive Move where
  | bundle (t slot : Nat)
  | event (i : Instr)
  deriving DecidableEq, Repr

/-- What a waiting word waits for, as the event that ends the wait. -/
noncomputable def WaitKind.moves (t slot : Nat) : WaitKind → List Instr
  | .waitev _ => [.waitevWake t slot]
  | .swait _ _ => [.swaitWake t slot]
  | .cwait _ _ _ => [.cwaitWake t slot]
  | .mwait _ _ => [.mwaitWake t slot]
  | .jwait _ _ => [.jwaitWake t slot]
  | .bwait _ _ _ _ _ _ _ _ => [.bwaitRead t slot, .bwaitLimit t slot]

/-- An event that is a move when a condition holds. -/
def when1 (b : Bool) (i : Instr) : List Instr := if b then [i] else []

/-- Events of a context at its boundary or in its wait. -/
noncomputable def Ctx.moves (c : Ctx) (t slot : Nat) : List Instr :=
  (match c.held with
    | none => []
    | some h => (h.waits.flatMap fun w => w.2.moves t slot) ++
        when1 h.ending.isSome (.heldEndingWordRelease t slot)) ++
  when1 c.handlerReady (.completionHandlerEntry t slot) ++
  when1 c.tlb.isSome (.tlbinvComplete t slot) ++ when1 (c.preReq && c.preState == 0) (.preemptReq t slot) ++
  when1 c.stoppable (.preemption t slot) ++
  (if c.preStep = 1 ∧ !c.stopped then [.drainLimit t slot, .proofRecordWrite t slot] else [])

/-- An instruction-cache fill goes on: its plate is not asked for yet, or engine 0 is done with it, or its word lies at or above CLIM and
the translation is known (R51). -/
def State.fillActs (s : State) (t va : Nat) : Bool :=
  match (s.burinAt t 0).fetchOf .code (va / 4096 * 4096) with
  | none => true
  | some u => u.st.isOver || u.st.kept || (u.translated && match s.fillFor t va with
      | none => false
      | some (slot, a, _, _) => !(s.ctxAt t slot).mode && decide ((s.ctxAt t slot).clim.toNat ≤ a))

/-- Engine 0 has no plate of a parameter block under way (R183). -/
def State.paramActs (s : State) (t : Nat) : Bool :=
  (s.burinAt t 0).fetch.all fun u => u.kind != .params || u.st.isOver || u.st.kept

/-- Events of the context in a slot of a tile that runs; its next bundle is in `State.nextIssue`. A trap of the bundle at its boundary goes
before an asynchronous one (R336). -/
noncomputable def State.ctxMoves (s : State) (t slot : Nat) (c : Ctx) : List Instr :=
  c.moves t slot ++ when1 (!s.filled t slot c && c.preStep == 0 && s.paramActs t) (.parameterBlockFill t slot) ++
  ((List.range (s.answered t slot).length).map fun k => .resultDelivery t slot k) ++
  match s.plan t slot with
  | .event (.instructionCacheFill t va) => when1 (s.fillActs t va) (.instructionCacheFill t va)
  | .trap _ => []
  | _ => when1 c.asyncReady (.asyncTrapDelivery t slot)

/-- A context is ready: its next bundle can issue, or traps (R22, R341). -/
noncomputable def State.ready (s : State) (t slot : Nat) : Bool :=
  match s.plan t slot with
  | .trap _ => true
  | .run _ => true
  | _ => false

/-- The context of a tile whose turn it is: the first ready one after the one that issued last, round-robin (R341). -/
noncomputable def State.nextIssue (s : State) (t : Nat) : Option Nat :=
  ((List.range 8).map fun i => ((s.tileAt t).turn + 1 + i) % 8).find? (s.ready t)

/-- Events of the matrix engine of a tile. -/
noncomputable def matrixMoves (s : State) (t : Nat) (x : Tile) : List Instr :=
  match x.mq.head? with
  | none => []
  | some m =>
    if m.fin then [.matrixCompletion t]
    else if !m.began then [.matrixCommandStart t]
    else if m.stall.isSome then [.matrixStallResume t]
    else if s.matrixWaits t m then []
    else match m.kind with
      | .go _ _ _ => [.matrixStep t]
      | .clr _ _ _ => [.matrixClearRun t]
      | .wb _ _ => [.mwbRow t]

/-- A walk for an address's page can begin on a tile's die: none is under way for it, and fewer than 64 are (R268). -/
def State.walkStarts (s : State) (t va : Nat) : Bool :=
  let d := s.dieAt (dieOf t)
  (d.walkOf (s.partOf t) (va / 65536)).isNone && decide (d.walking.length < 64)

/-- Events of a Burin engine of a tile. -/
noncomputable def burinMoves (s : State) (t e : Nat) (b : Burin) : List Instr :=
  if b.q.isEmpty && b.flights.isEmpty then []
  else
    when1 (match b.nextBegin with | some c => s.mayBegin t e c | none => false) (.copyBegin t e) ++
    when1 (!b.units.isEmpty) (.copyUnitRetire t e) ++
    when1 (b.q.any fun c => match c.stall with | some x => s.stallServed t c.slot x | none => false) (.copyStallResume t e) ++
    when1 (match b.q.head? with | some c => b.mayComplete c | none => false) (.copyCompletion t e) ++
    when1 (b.flights.any CUnit.filled) (.plateFill t e false) ++ when1 (nextWrite b.writers b.units []).isSome (.plateWrite t e) ++
    when1 (b.units.any CUnit.performed) (.plateCommit t e) ++
    (b.flights.filter fun u => u.st == .walk && s.walkStarts t u.va).map fun u => .walk t e u.va u.acc

/-- Events of the link engine of a tile, with the messages of its schedules that the ports hold (R390). -/
noncomputable def linkMoves (s : State) (t : Nat) (x : Tile) : List Instr :=
  let heard := fun (f : FlitBody → List Instr) => s.ports.flatMap fun p => p.rx.flatMap fun y => f y.body
  (x.link.past.flatMap fun y => heard fun b => (failRanks b).map fun r => .memberFail t y.1.toNat r) ++
  x.link.q.flatMap fun m =>
    when1 (!m.sub && s.linkReady t m) (.linkCompletion t m.tag.toNat) ++
    match m.sched with
    | none => []
    | some k =>
      if m.fin then []
      else
        when1 (s.linkServed t m) (.scheduleStep t m.tag.toNat) ++
        when1 (k.lead != 0 && k.rankOf (scMYID m.d) == some k.lead) (.coordinatorQuery t m.tag.toNat k.lead) ++
        heard fun
          | .memberDone _ _ r => [.memberDone t m.tag.toNat r]
          | .commit _ _ => [.memberCommit t m.tag.toNat]
          | .fail _ _ l => l.map fun r => .memberFail t m.tag.toNat r
          | .restart _ e l => [.scheduleRestart t m.tag.toNat ((e + 1) % 2 ^ 16) l]
          | _ => []

/-- Events of Gnomon and of the LDO of a tile. -/
noncomputable def marginMoves (s : State) (t : Nat) (m : Margin) : List Instr :=
  when1 (m.half && decide (8 ≤ m.clean)) (.halfRateEnd t) ++ when1 (m.crossed && !m.frozen) (.windowCrossing t) ++
  when1 m.ended (.monitorWindowEnd t) ++
  (if m.frozen then [if m.answered then .windowRestart t else .vtgtRaise t] else []) ++
  when1 (decide (2 ^ 30 ≤ m.run)) (.vtgtLower t) ++
  (if m.op.toNat = opOf (s.tileTemp t) then [] else [.operatingPointChange t (opOf (s.tileTemp t))]) ++
  when1 m.dirty (.almanacWrite t) ++ when1 (m.trim != trimOf s.vmx m.vtgt) (.ldoTrimUpdate t)

/-- Moves of a tile: `on` tells that the compute clocks run. -/
noncomputable def State.tileMoves (s : State) (on : Bool) (t : Nat) (x : Tile) : List Move :=
  if !on then (marginMoves s t x.margin).map Move.event
  else
    (if (x.ctx.all fun o => o.isNone) || !s.tileRuns t then []
     else
      (match s.nextIssue t with
        | none => []
        | some slot => [Move.bundle t slot]) ++
      ((x.ctx.zipIdx).flatMap fun o => match o.1 with
        | none => []
        | some c => (s.ctxMoves t o.2 c).map Move.event)) ++
    (matrixMoves s t x ++ ((x.burin.zipIdx).flatMap fun b => burinMoves s t b.2 b.1) ++ linkMoves s t x ++
      marginMoves s t x.margin).map Move.event

/-- The table read of a walk has come, or none is under way for it. -/
def State.walkGoes (s : State) (w : Walk) : Bool :=
  match s.tableUnit w with
  | none => true
  | some u => u.st.isOver || u.st.kept

/-- Events of a die: its walks (R268) and its Orrery. -/
noncomputable def dieMoves (s : State) (d : Nat) (x : Die) : List Instr :=
  ((x.walking.filter s.walkGoes).map fun w => .walk w.tile w.eng (w.page * 65536) 0) ++
  if x.jobs.all fun j => j.complete then []
  else
    (match s.nextDispatch d with
      | none => []
      | some (j, ts) => [if ts.all fun t => dieOf t == d then .gangDispatch d else .tileClaim d j.slot]) ++
    (x.jobs.filter fun j => !j.complete && (s.jobDone d j || (decide (0 < j.left) && !s.shapeFits j.part j.pkt))).map fun j =>
      .jobCompletion d j.slot

/-- Events of gang instances. -/
noncomputable def gangMoves (g : Gang) : List Instr :=
  when1 (g.off && !g.isBarred) (.resumption g.id) ++
  if g.resumeQ.isEmpty then []
  else (g.members.filter fun m => m.slot.isNone && m.saved.isNone).map fun m => .continuationResume g.id m.tile

/-- Events of a stack: which slot closes next, and a refusal's hint, are free (DESIGN CHOICE, log 4). -/
noncomputable def stackMoves (s : State) (st : Nat) (k : Stack) : List Instr :=
  (k.reqs.zipIdx.flatMap fun r => match r.1.st with
    | .served => [if r.1.wr then .writePerformed st r.2 else .readLineArrival st r.2]
    | .refused _ _ => [.retry st r.2]
    | _ => when1 (!r.1.held) (.closingPoint st r.1.pc
        (if k.idle r.1.pc r.1.wr then Config.schedule (s.freeCount + 1) else (k.cal (calCode r.1.pc r.1.wr)).next) r.1.wr
        (Config.schedule (s.freeCount + 2) % 16))) ++
  ([false, true].flatMap fun wr =>
    (List.range (k.ownNew.countP fun x => x.1 == wr)).map fun n => .ownerEntryEffect { st := st, wr := wr, n := n + 1 }) ++
  when1 (k.quiesce && !k.quiesced) (.quiesced st) ++
  when1 k.retrain.isSome (.laneRetrainComplete st) ++ ((k.reseals.filter Reseal.over).map fun r => .resealCommit st r.code) ++
  match k.rotate with
  | none => []
  | some r => r.groups.map fun g => .keyRotationGroup st g

/-- Events of a port. -/
noncomputable def portMoves (s : State) (p : Nat) (x : Port) : List Instr :=
  (x.rx.flatMap fun f => match f.body with
    | .clear _ _ _ => [.clearFlit p]
    | .data _ => when1 (s.canDeliver p false f) (.dataFlit p)
    | .last _ => when1 (s.canDeliver p true f) (.lastFlit p)
    | .done _ => [.doneFlit p]
    | .twinDigest q w d => [.twinDigest q w d]
    | .twinInterim q _ _ => [.interimDigest q]
    | b => when1 (isControl b) (.controlFlit p)) ++
  if x.en && x.state == 2 && s.portRoom p then
    match s.nextSend p with
    | none => []
    | some (_, m) => [if m.atLast then .lastFlit p else .dataFlit p]
  else []

/-- Events of a rail. -/
noncomputable def railMoves (r : Nat) (x : Rail) : List Instr :=
  when1 (decide (x.level < x.target) || (decide (x.target < x.level) && x.falling)) (.railStep r) ++ when1 x.hold (.railHoldExpiry r)

/-- Events of the mesh, of the banks and of the links between tiles. -/
noncomputable def State.meshMoves (s : State) : List Instr :=
  ((List.range s.arrivals.length).map fun k => .meshArrival k) ++
  ((s.sigs.zipIdx.filter fun r => s.sigGone r.1).map fun r => .sigDelivery r.2) ++
  ((s.portE.map (·.home)).eraseDups.flatMap fun t => (List.range (s.queuedAt t).length).map fun k => .portEWriteApply t k)

/-- Events of partitions and virtual functions. -/
noncomputable def State.partMoves (s : State) : List Instr :=
  (s.parts.zipIdx.flatMap fun p => match p.1.bind (·.twin) with
    | none => []
    | some tw => when1 (tw.held.any fun h => h.1 == tw.sent) (.twinWindowClose p.2)) ++
  if s.featOn 5 then (s.vfs.filter fun v => 0 < v.2.pend).map fun v => .msiXCoalescingTimeout v.1 else []

/-- What can happen next: the start of a device that has not started; otherwise what its parts do, the compute side only while its
clocks run (R369, R404). -/
noncomputable def State.moves (s : State) : List Move :=
  if !s.started then (if s.power = .off ∨ (s.recov ∧ !s.accepted) then [] else [.event (.coldStart 0 [])])
  else
    let on := !s.gated && (s.power == .active || s.power == .idle)
    ((s.tiles.zipIdx).flatMap fun x => s.tileMoves on x.2 x.1) ++
    (((s.rails.zipIdx).flatMap fun x => railMoves x.2 x.1) ++ s.partMoves ++
      if on then
        ((s.dies.zipIdx).flatMap fun x => dieMoves s x.2 x.1) ++ s.gangs.flatMap gangMoves ++
        ((s.hbm.zipIdx).flatMap fun x => stackMoves s x.2 x.1) ++ ((s.ports.zipIdx).flatMap fun x => portMoves s x.2 x.1) ++
        s.meshMoves
      else if s.gated then (s.ports.zipIdx.filter fun x => x.1.en && x.1.state == 2).map fun x => .portHold x.2
      else []).map Move.event

/-! ## Time, and what befalls the memories -/

/-- An error that befalls a line of a stack stands there until a write of the line (R264; DESIGN CHOICE, log 14). -/
def State.hurtLine (s : State) : Option (Nat × Nat × Bool) → State
  | none => s
  | some (st, line, fixed) => s.modStack st fun k => { k with flaws := (k.flaws.filter fun x => x.1 != line) ++ [(line, fixed)] }

/-- Bits of an on-chip doubleword flip, and stay so until it is read or written (R237; DESIGN CHOICE, log 14). -/
def State.hurtDw (s : State) : Option (Nat × Nat) → State
  | none => s
  | some x => { s with flips := s.flips ++ [x] }

/-- Errors befall the memories of the running device at any time, from its second step on (DESIGN CHOICE, log 14). -/
def State.errors (s : State) : State :=
  if s.freeCount < 2 then s else (s.hurtLine (Config.hbmError s.freeCount)).hurtDw (Config.softError s.freeCount)

/-- TIME goes on, errors may befall the memories, and a free value's number is used up (DESIGN CHOICE, log 1, log 4). -/
def State.tick (s : State) : State :=
  let s := s.errors
  { s with time := s.time + BitVec.ofNat 64 (Config.timeStep s.freeCount), freeCount := s.freeCount + 1 }

/-- CYCLE of a tile goes on (DESIGN CHOICE, log 1). -/
def State.tickTile (s : State) (t : Nat) : State :=
  s.modTile t fun x => { x with cycle := x.cycle + BitVec.ofNat 64 (Config.cycleStep s.freeCount) }

/-- The move that the schedule takes among those enabled (DESIGN CHOICE, log 4). -/
def State.choose (s : State) (l : List Move) : Option Move :=
  match l with
  | [] => none
  | [m] => some m
  | l => l[Config.schedule s.freeCount % l.length]?

/-! ## The issue of a bundle -/

/-- A context takes its turn on its tile (R341); a debug step is used up (R404). -/
def State.takeTurn (s : State) (t slot : Nat) : State := s.modTile t fun x => { x with turn := slot, debugStep := false }

/-- The context of a slot begins the issue of a bundle of some words. Whether the accesses of the bundle to its own tile are buffered at
their banks is free (R235, R289; DESIGN CHOICE, log 6). -/
def State.begin (s : State) (t slot : Nat) (ws : List Instr) : State :=
  { s with iss := { tile := t, slot := slot, words := ws, late := decide (2 ≤ s.freeCount) && Config.buffers s.freeCount } }

/-- TRAP or BRK (R80). -/
def isTrapWord : Instr → Bool
  | .trap _ => true
  | .brk _ => true
  | _ => false

/-- HALT, TDONE or SUSPEND (R80). -/
def isEnding : Instr → Bool
  | .halt => true
  | .tdone => true
  | .suspend _ => true
  | _ => false

/-- The meaning of a word that can wait. -/
def waiter : Instr → Option (State → WordRes)
  | .waitev f => some (waitev f.m)
  | .swait f => some (swait (.swait f))
  | .cwait f => some (cwait (.cwait f) f)
  | .mwait f => some (mwait (.mwait f) f)
  | .jwait f => some (jwait (.jwait f) f)
  | .bwait f => some (bwait (.bwait f) f)
  | _ => none

/-- The words of an open bundle that must wait, from position `pos` on: the state after what they have read, and what each waits for. -/
def State.waitsFrom (s : State) : Nat → List Instr → State × List (Nat × WaitKind)
  | _, [] => (s, [])
  | pos, i :: r =>
    match if s.iss.pre.executes pos i then waiter i else none with
    | none => s.waitsFrom (pos + 1) r
    | some eff => match eff (s.modIss fun x => { x with pos := pos }) with
      | .wait k s' => let y := s'.waitsFrom (pos + 1) r
        (y.1, (pos, k) :: y.2)
      | _ => s.waitsFrom (pos + 1) r

/-- The word of a bundle that ends its task: HALT, TDONE or SUSPEND that executes, where no TRAP or BRK acts (R80). -/
def endingAt (c : Ctx) (ws : List Instr) : Option Nat :=
  let at1 := fun (q : Instr → Bool) => (ws.zipIdx.find? fun x => q x.1 && c.executes x.2 x.1).map (·.2)
  if (at1 isTrapWord).isSome then none else at1 isEnding

/-- A bundle of which some word must wait, or whose ending word must wait for what its context has under way: the waits begin first, and
the other words run once they are over, so that nothing of the bundle acts before its commit may come (R23, R80, R162, R198, R307). None
where no word must wait. -/
def State.holdWaits (s : State) (t slot : Nat) (ws : List Instr) : Option State :=
  let s0 := (s.begin t slot ws).openBundle
  let y := s0.waitsFrom 0 ws
  let e := endingAt s0.iss.pre ws
  if y.2.isEmpty && (e.isNone || s.mayEnd t slot) then none
  else
    let x := s0.iss
    some (y.1.settle t slot
      { words := ws, done := x.done, npc := x.npc, waits := y.2, ending := e, trap := none, brk := none,
        snap := snapOf x.pre ws x.done, lmask := x.lmask, switch := false, ret := 0, todo := true })

/-! ## An instruction placed where step fetches it (DESIGN CHOICE, log 7) -/

/-- The packet that holds one word alone. -/
def placedPlate (w : Nat) : Nat := w % 2 ^ 31

/-- A context that starts at virtual address 0 with its proof area in region 1. -/
def placedCtx : Ctx := { clim := 0x1000, cbase := 0, tvec := 0x800, proof := 0x10000, v32 := true, sems := List.range 32 }

/-- The tile on which the instruction runs: one context, regions 0 and 1, and one plate of code. -/
def placedTile (x : Tile) (w : Nat) : Tile :=
  { x with
    ctx := some placedCtx :: List.replicate 7 none, partid := some 0, fenced := false, debugStop := false,
    rmap := 0x8000000000000000 :: 0x8000000000000001 :: x.rmap.drop 2, icache := [(0, placedPlate w)] }

/-- A started device with one partition, one context and one word of code. -/
def State.placed (s : State) (w : Nat) : State :=
  { s with
    inputs := [], started := true, power := .active, gated := false, parts := some {} :: s.parts.tail,
    tiles := placedTile (s.tileAt 0) w :: s.tiles.tail }

end Sys2Proof.Machine
end

