-- ==== Sys2Proof/Machine/Step.lean ====
section
/-! DEFINITION. One step of the device, and where an instruction is placed so that the next step runs it. -/

namespace Sys2Proof.Machine

/-- The words of a bundle run in order; the last one ends the bundle. -/
def runWords : List Instr → State → Host.Outcome State Fault Refusal
  | [], s => .next s
  | i :: r, s => match exec i s with
    | .next s => runWords r s
    | x => x

/-- An issue of a context (R24, R370): an injected detection squashes it, and otherwise it goes on as `go` says. -/
def issueOnce (t slot : Nat) (go : State → Host.Outcome State Fault Refusal) (s : State) : Host.Outcome State Fault Refusal :=
  let r := s.injectIssue t slot
  if r.1 then .next (r.2.detect t slot 1) else go r.2

/-- A bundle issues (R24, R48, R341): its waits come first (R23), then its words run; or the trap of a failed check is taken. -/
noncomputable def issueBundle (t slot : Nat) (s : State) : Host.Outcome State Fault Refusal :=
  match s.plan t slot with
  | .run ws => match (s.takeTurn t slot).holdWaits t slot ws with
    | some s' => .next s'
    | none => issueOnce t slot (fun s => runWords ws (s.begin t slot ws)) (s.takeTurn t slot)
  | .trap tr => issueOnce t slot (fun s => .next (s.trapEarly t slot tr)) (s.takeTurn t slot)
  | .event i => exec i s
  | .idle => .next s

/-- The tile whose CYCLE a move advances (DESIGN CHOICE, log 1). -/
def Move.tile : Move → Option Nat
  | .bundle t _ => some t
  | .event (.bwaitRead t _) => some t
  | .event (.bwaitLimit t _) => some t
  | .event _ => none

/-- A move is made. -/
noncomputable def perform (m : Move) (s : State) : Host.Outcome State Fault Refusal :=
  let s := match m.tile with
    | some t => s.tickTile t
    | none => s
  match m with
  | .event i => exec i s
  | .bundle t slot => issueBundle t slot s

/-- One step: what the outside world does next, or else one enabled move (DESIGN CHOICE, log 4). -/
noncomputable def step (s : State) : Host.Outcome State Fault Refusal :=
  match s.inputs with
  | i :: r => exec i { s.tick with inputs := r }
  | [] => match s.choose s.moves with
    | none => .next s.tick
    | some m => perform m s.tick

/-- `s` with an instruction of 32 bits placed where the next step fetches it (DESIGN CHOICE, log 7); an event of the device has no bits. -/
noncomputable def State.withFetchWord (s : State) (nbits w : Nat) : State := s.placed (w % 2 ^ nbits)

end Sys2Proof.Machine
end

