-- ==== Sys2Proof/Safety.lean ====
section
/-! DEFINITION. The words in which claims about the machine are stated: what a step answers, the invariant of the memories, when a
word of a bundle executes, and how a word that has executed hands on to the next one. -/

namespace Sys2Proof.Machine

/-- A step answers a next state of which `p` holds. -/
def Answers (o : Host.Outcome State Fault Refusal) (p : State → Prop) : Prop := ∃ t, o = .next t ∧ p t

/-- The memories are in canonical form (keys strictly rising, no listed byte 0) and the poison marks rise. -/
def State.inv (s : State) : Prop := Memory.wf s.mem = true ∧ s.poison.Pairwise (· < ·)

/-- Word `i` takes its turn and executes: the bundle has met no failed check, the word is not complete already, it passes steps 5
and 6 of R48, and no false guard suppresses it (R45, R48, R340). -/
def State.turn (s : State) (i : Instr) : Bool :=
  let o := s.openBundle
  let c := o.iss.pre
  let v := viewOf i
  !o.iss.early && !bit o.iss.done o.iss.pos && (wordCheck c (limmOf (o.words i)) i).isNone &&
  (v.cls == 6 || v.lane || c.guardRuns) &&
  (decide ((c.resume.map (·.done)).getD 0 ≠ 0) || (issueCheck c.lat i).isNone)

/-- Word `i` of the opened bundle `o` is complete, and `u` is what its effect made of `o` (R333). -/
def State.finish (o : State) (i : Instr) (u : State) : State := (o.record (.ok u)).closeWord (o.words i)

/-- Word `i` of the opened bundle `o` traps at step 7 of R48, and `u` is what it performed before (R96, R333). -/
def State.fails (o : State) (i : Instr) (cause faddr : Nat) (u : State) : State :=
  (o.record (.trap cause faddr u)).closeWord (o.words i)

/-- Word `i` of the opened bundle `o` waits (R80). -/
def State.awaits (o : State) (i : Instr) (k : WaitKind) (u : State) : State :=
  (o.record (.wait k u)).closeWord (o.words i)

/-- Word `i`, when its turn comes, completes with the effect `u` on the opened bundle. -/
def Completes (s : State) (i : Instr) (u : State → State) : Prop :=
  s.turn i = true → exec i s = .next (s.openBundle.finish i (u s.openBundle))

/-- Word `i`, when its turn comes and `q` holds of the opened bundle, completes with the effect `u` on it. -/
def CompletesIf (s : State) (i : Instr) (q : State → Prop) (u : State → State) : Prop :=
  s.turn i = true → q s.openBundle → exec i s = .next (s.openBundle.finish i (u s.openBundle))

/-- Word `i`, when its turn comes and `q` holds of the opened bundle, traps at step 7 of R48 and performs nothing. -/
def TrapsIf (s : State) (i : Instr) (q : State → Prop) (cause faddr : Nat) : Prop :=
  s.turn i = true → q s.openBundle → exec i s = .next (s.openBundle.fails i cause faddr s.openBundle)

/-- What a vector result `r` of `n` elements of `w` bytes holds: element j, governed by predicate bit j · step, is `op j` where it is
active and that of `old` where it is not; the mark of a chunk comes from the marks of the elements that lie in it (R14, R125). -/
def LanesAre (mask : Pred) (step w n : Nat) (old r : VVal) (op : Nat → Nat) (mark : Nat → Bool) : Prop :=
  (∀ j < n, elem r.v.toNat w j = if bit mask.toNat (j * step) then op j % 2 ^ (8 * w) else elem old.v.toNat w j) ∧
  (∀ j, n ≤ j → elem r.v.toNat w j = 0) ∧
  ∀ c < 32, bit r.p.toNat c = true ↔ ∃ j < n, j * w / 8 = c ∧ (if bit mask.toNat (j * step) then mark j else bit old.p.toNat c) = true

/-- No read of the on-chip arrays meets an error: none stands in them, and no injector aims at their reads (R237, R370). -/
def State.quiet (s : State) : Bool := s.flips.isEmpty && s.dies.all fun d => bits d.injCtl.toNat 21 2 == 0 || !bit d.injCtl.toNat 26

/-- Everything of two states but the contexts of one tile's slot and the issue record is the same. -/
def SameBut (t slot : Nat) (s u : State) : Prop :=
  u.mem = s.mem ∧ u.poison = s.poison ∧ u.mesh = s.mesh ∧ u.dies = s.dies ∧ u.hbm = s.hbm ∧ u.ports = s.ports ∧
  u.gangs = s.gangs ∧ u.portE = s.portE ∧ u.sigs = s.sigs ∧ u.parts = s.parts ∧ u.vfs = s.vfs ∧ u.time = s.time ∧
  ∀ k, (k ≠ t → u.tileAt k = s.tileAt k) ∧ ∀ j, (k, j) ≠ (t, slot) → u.ctx? k j = s.ctx? k j

/-! ## Real values, and what rounding gives (R98, R112, R113) -/

/-- The real number that a finite value is (R98). -/
noncomputable def Fv.real : Fv → ℝ
  | .fin n m e => (if n then -1 else 1) * (m * 2 ^ e)
  | _ => 0

/-- A magnitude of `u` units in the last place, of a number with a sign, rounded to a whole number of them (R112): to nearest with ties to
even, toward zero, up, down. -/
noncomputable def roundUnits (rm : Nat) (neg : Bool) (u : ℝ) : Nat :=
  let k := ⌊u⌋₊
  let r := u - k
  match rm with
  | 0 => if 1 / 2 < r ∨ (r = 1 / 2 ∧ k % 2 = 1) then k + 1 else k
  | 1 => k
  | 2 => if 0 < r ∧ neg = false then k + 1 else k
  | _ => if 0 < r ∧ neg = true then k + 1 else k

/-- A magnitude rounded to a multiple of 2^q. -/
noncomputable def roundMul (rm : Nat) (neg : Bool) (a : ℝ) (q : ℤ) : ℝ := roundUnits rm neg (a / 2 ^ q) * 2 ^ q

/-- `r` is the pattern and the flags of the nonzero real number `x` rounded to a format (R52, R98, R112, R113): its magnitude is rounded to
the format's precision, with gradual underflow. Above the largest finite value the mode gives the infinity or that value, with OF and NX;
otherwise the pattern holds the rounded value, with NX where that differs from `x`, and UF where besides the value rounded with an
unbounded exponent lies below the smallest normal. -/
def FpFmt.Gives (f : FpFmt) (rm : Nat) (x : ℝ) (r : Nat × Flags) : Prop :=
  let neg := decide (x < 0)
  let last := Int.log 2 |x| - f.m
  let y := roundMul rm neg |x| (if last < f.qmin then f.qmin else last)
  let big := (f.decode f.max).real
  (big < y → r = (if f.inf = true ∧ (rm = 0 ∨ (rm = 2 ∧ 0 < x) ∨ (rm = 3 ∧ x < 0)) then f.infinity neg else f.zero neg + f.max,
    fOF ||| fNX)) ∧
  (y ≤ big → (∃ m e, f.decode r.1 = .fin neg m e ∧ m * 2 ^ e = y) ∧
    r.2 = if y = |x| then 0 else if roundMul rm neg |x| last < 2 ^ f.emin then fNX ||| fUF else fNX)

end Sys2Proof.Machine
end

