-- ==== Sys2Proof/Certificates/Slice0/Obligations.lean ====
section
/-! DEFINITION. The statements about the machine, for the provers. Each docstring names the rules of the spec that the statement
rests on. Where a statement is about words of a bundle, `Completes`, `TrapsIf` and the rest of Safety.lean say what is around the
word: the bundle that is in issue, and the turn of the next word. -/

open Sys2Proof Sys2Proof.Machine

/-! ## Words of the C, S and X classes -/

/-- R83: the two-source integer words write their result, marked poisoned when a source is (R75). R83: the words that also read
sd. R83: the one-source integer words; a bit of a word is counted as `getLsbD` gives it. -/
def Obligations.ScalarIntegerWords : Prop :=
  (∀ (f : FSr) (s : State),
     let C := fun (i : Instr) (op : W64 → W64 → W64) => Completes s i fun o =>
       o.resS i f.d f.w { v := op (o.srcS i 0).v (o.srcS i 1).v, p := (o.srcS i 0).p || (o.srcS i 1).p }
     C (.add f) (fun a b => a + b) ∧ C (.sub f) (fun a b => a - b) ∧ C (.and f) (fun a b => a &&& b) ∧
     C (.or f) (fun a b => a ||| b) ∧ C (.xor f) (fun a b => a ^^^ b) ∧ C (.andn f) (fun a b => a &&& ~~~b) ∧
     C (.sll f) (fun a b => a <<< (b.toNat % 64)) ∧ C (.srl f) (fun a b => a >>> (b.toNat % 64)) ∧
     C (.sra f) (fun a b => a.sshiftRight (b.toNat % 64)) ∧ C (.mul f) (fun a b => a * b) ∧
     C (.mulh f) (fun a b => BitVec.ofInt 64 (a.toInt * b.toInt / 2 ^ 64)) ∧
     C (.mulhu f) (fun a b => BitVec.ofNat 64 (a.toNat * b.toNat / 2 ^ 64)) ∧
     C (.div f) (fun a b => if b = 0 then 0xFFFFFFFFFFFFFFFF else BitVec.ofInt 64 (a.toInt.tdiv b.toInt)) ∧
     C (.divu f) (fun a b => if b = 0 then 0xFFFFFFFFFFFFFFFF else a / b) ∧
     C (.rem f) (fun a b => if b = 0 then a else BitVec.ofInt 64 (a.toInt.tmod b.toInt)) ∧
     C (.remu f) (fun a b => if b = 0 then a else a % b) ∧
     C (.min f) (fun a b => if b.toInt < a.toInt then b else a) ∧ C (.max f) (fun a b => if a.toInt < b.toInt then b else a) ∧
     C (.minu f) (fun a b => if b.toNat < a.toNat then b else a) ∧
     C (.maxu f) (fun a b => if a.toNat < b.toNat then b else a) ∧
     C (.slt f) (fun a b => if a.toInt < b.toInt then 1 else 0) ∧ C (.sltu f) (fun a b => if a.toNat < b.toNat then 1 else 0) ∧
     C (.seq f) (fun a b => if a = b then 1 else 0) ∧ C (.sne f) (fun a b => if a = b then 0 else 1) ∧
     C (.addw f) (fun a b => ((a + b).setWidth 32).signExtend 64) ∧
     C (.subw f) (fun a b => ((a - b).setWidth 32).signExtend 64) ∧
     C (.mulw f) (fun a b => ((a * b).setWidth 32).signExtend 64) ∧
     C (.bfx f) (fun a b => (a >>> (b.toNat % 64)) &&& BitVec.ofNat 64 (2 ^ (b.toNat / 256 % 64 + 1) - 1))) ∧
  (∀ (f : FSr) (s : State),
     let C := fun (i : Instr) (op : W64 → W64 → W64 → W64) => Completes s i fun o =>
       o.resS i f.d f.w { v := op (o.srcS i 0).v (o.srcS i 1).v (o.srcS i 2).v,
                          p := (o.srcS i 0).p || (o.srcS i 1).p || (o.srcS i 2).p }
     C (.cmovz f) (fun a b c => if b = 0 then a else c) ∧ C (.cmovnz f) (fun a b c => if b = 0 then c else a) ∧
     C (.bfi f) (fun a b c =>
       let pos := b.toNat % 64
       let field := BitVec.ofNat 64 (2 ^ (b.toNat / 256 % 64 + 1) - 1) <<< pos
       (c &&& ~~~field) ||| ((a <<< pos) &&& field))) ∧
  (∀ (f : FS1) (s : State),
     let R := fun (i : Instr) (q : W64 → W64 → Prop) =>
       s.turn i = true → ∃ v, q (s.openBundle.srcS i 0).v v ∧
         exec i s = .next (s.openBundle.finish i
           (s.openBundle.resS i f.d f.w { v := v, p := (s.openBundle.srcS i 0).p }))
     R (.clz f) (fun a v => (a = 0 → v = 64) ∧
       (a ≠ 0 → v.toNat < 64 ∧ a.getLsbD (63 - v.toNat) = true ∧ ∀ k, 63 - v.toNat < k → k < 64 → a.getLsbD k = false)) ∧
     R (.ctz f) (fun a v => (a = 0 → v = 64) ∧
       (a ≠ 0 → a.getLsbD v.toNat = true ∧ ∀ k < v.toNat, a.getLsbD k = false)) ∧
     R (.popc f) (fun a v => v.toNat = ((List.range 64).filter fun k => a.getLsbD k).length) ∧
     R (.sextb f) (fun a v => v = (a.setWidth 8).signExtend 64) ∧ R (.sexth f) (fun a v => v = (a.setWidth 16).signExtend 64) ∧
     R (.sextw f) (fun a v => v = (a.setWidth 32).signExtend 64) ∧ R (.zextw f) (fun a v => v = (a.setWidth 32).setWidth 64) ∧
     R (.bswap f) (fun a v => ∀ k < 8, v.toNat / 256 ^ k % 256 = a.toNat / 256 ^ (7 - k) % 256))

/-- R84 and R85: the words with an immediate, extended by the LIMM of their bundle where it has one (R47). R47: what an immediate
is, with and without the LIMM of its bundle. -/
def Obligations.ScalarImmediates : Prop :=
  (∀ (f : FSi) (g : FSl) (s : State),
     let C := fun (i : Instr) (op : W64 → W64 → W64) => Completes s i fun o =>
       o.resS i f.d f.w { v := op (o.srcS i 0).v (BitVec.ofInt 64 (immS (o.words i) i)), p := (o.srcS i 0).p }
     let S := fun (i : Instr) (op : W64 → Nat → W64) => Completes s i fun o =>
       o.resS i f.d f.w { v := op (o.srcS i 0).v (immU (o.words i) i), p := (o.srcS i 0).p }
     C (.addi f) (fun a x => a + x) ∧ C (.andi f) (fun a x => a &&& x) ∧ C (.ori f) (fun a x => a ||| x) ∧
     C (.xori f) (fun a x => a ^^^ x) ∧ C (.slti f) (fun a x => if a.toInt < x.toInt then 1 else 0) ∧
     C (.sltiu f) (fun a x => if a.toNat < x.toNat then 1 else 0) ∧ C (.muli f) (fun a x => a * x) ∧
     S (.slli f) (fun a n => a <<< n) ∧ S (.srli f) (fun a n => a >>> n) ∧ S (.srai f) (fun a n => a.sshiftRight n) ∧
     (Completes s (.li g) fun o => o.resS (.li g) g.d g.w { v := BitVec.ofInt 64 (immS (o.words (.li g)) (.li g)) }) ∧
     (Completes s (.lui g) fun o => o.resS (.lui g) g.d g.w { v := BitVec.ofNat 64 (immU (o.words (.lui g)) (.lui g)) <<< 26 })) ∧
  (∀ (ws : List Instr) (i : Instr) (n v : Nat), (viewOf i).imm = some (n, v) → v < 2 ^ n → 0 < n →
     (limmOf ws = none → immU ws i = v ∧ immS ws i = (BitVec.ofNat n v).toInt) ∧
     ∀ p, limmOf ws = some p → p < 2 ^ 24 →
       immU ws i = p * 2 ^ n + v ∧ immS ws i = (BitVec.ofNat (n + 24) (p * 2 ^ n + v)).toInt)

/-- R76, R86: the scalar floating-point words write the result of their operation on the binary32 values of the low halves and OR
its flags into FCSR. R52, R86, R98, R99, R112, R113, R137: what the floating-point operations give. A finite nonzero result is
the real result rounded once by the mode, with the flags of that; an exact zero takes the sign of IEEE 754; a NaN gives the
canonical NaN, with NV where one signals; the invalid operations give it with NV, a division of a finite nonzero value by zero
an infinity with DZ. Log 73: the model's own readings and choices that it rests on. -/
def Obligations.ScalarFloatWords : Prop :=
  (∀ (f : FSr) (g : FS1) (s : State),
     let F := fun (x : W64) => fp32.decode (x.toNat % 2 ^ 32)
     let C := fun (i : Instr) (op : Nat → W64 → W64 → Nat × Flags) => Completes s i fun o =>
       (o.resS i f.d f.w { v := BitVec.ofNat 64 (op o.iss.pre.rm (o.srcS i 0).v (o.srcS i 1).v).1,
                           p := (o.srcS i 0).p || (o.srcS i 1).p }).orFcsr (op o.iss.pre.rm (o.srcS i 0).v (o.srcS i 1).v).2
     let U := fun (i : Instr) (op : Nat → W64 → W64 × Flags) => Completes s i fun o =>
       (o.resS i g.d g.w { v := (op o.iss.pre.rm (o.srcS i 0).v).1, p := (o.srcS i 0).p }).orFcsr
         (op o.iss.pre.rm (o.srcS i 0).v).2
     C (.fadd f) (fun rm a b => fpAdd fp32 rm (F a) (F b)) ∧ C (.fsub f) (fun rm a b => fpAdd fp32 rm (F a) (F b).negate) ∧
     C (.fmul f) (fun rm a b => fpMul fp32 rm (F a) (F b)) ∧ C (.fdiv f) (fun rm a b => fpDiv fp32 rm (F a) (F b)) ∧
     C (.fmin f) (fun _ a b => fpMinMax fp32 true (a.toNat % 2 ^ 32) (b.toNat % 2 ^ 32)) ∧
     C (.fmax f) (fun _ a b => fpMinMax fp32 false (a.toNat % 2 ^ 32) (b.toNat % 2 ^ 32)) ∧
     C (.feq f) (fun _ a b => (if (fpEq (F a) (F b)).1 then 1 else 0, (fpEq (F a) (F b)).2)) ∧
     C (.flt f) (fun _ a b => (if (fpLt (F a) (F b)).1 then 1 else 0, (fpLt (F a) (F b)).2)) ∧
     C (.fle f) (fun _ a b => (if (fpLe (F a) (F b)).1 then 1 else 0, (fpLe (F a) (F b)).2)) ∧
     (Completes s (.fma f) fun o =>
       let c := fun k => o.srcS (.fma f) k
       let r := fpFma fp32 o.iss.pre.rm (F (c 0).v) (F (c 1).v) (F (c 2).v)
       (o.resS (.fma f) f.d f.w { v := BitVec.ofNat 64 r.1, p := (c 0).p || (c 1).p || (c 2).p }).orFcsr r.2) ∧
     U (.fsqrt g) (fun rm a => (BitVec.ofNat 64 (fpSqrt fp32 rm (F a)).1, (fpSqrt fp32 rm (F a)).2)) ∧
     U (.fcvtif g) (fun rm a => (BitVec.ofNat 64 (fpOfInt fp32 rm (signed a.toNat 32)).1, (fpOfInt fp32 rm (signed a.toNat 32)).2)) ∧
     U (.fcvtfi g) (fun rm a => (BitVec.ofInt 64 (fpToInt rm (-2147483648) 2147483647 (F a)).1,
       (fpToInt rm (-2147483648) 2147483647 (F a)).2))) ∧
  (∀ (f : FpFmt) (rm : Nat) (n k h : Bool) (m l j : Nat) (e g i : Int) (a b c : Fv), rm < 4 →
     let x := Fv.fin n m e
     let y := Fv.fin k l g
     let z := Fv.fin h j i
     let bad := (f.canon, fNV)
     let zero := fun s : Bool => (f.zero s, (0 : Flags))
     let inf := fun s : Bool => (f.infinity s, (0 : Flags))
     (f ∈ [fp32, bf16, fp16, e4m3, e5m2] → m ≠ 0 → f.Gives rm x.real (roundFin f rm n m e false)) ∧
     (f ∈ [fp32, bf16, fp16] →
       (x.real + y.real ≠ 0 → f.Gives rm (x.real + y.real) (fpAdd f rm x y)) ∧
       (x.real + y.real = 0 → fpAdd f rm x y = zero (if m = 0 ∧ l = 0 ∧ n = k then n else rm == 3)) ∧
       (m ≠ 0 → l ≠ 0 → f.Gives rm (x.real * y.real) (fpMul f rm x y)) ∧ (m = 0 ∨ l = 0 → fpMul f rm x y = zero (n != k)) ∧
       (x.real * y.real + z.real ≠ 0 → f.Gives rm (x.real * y.real + z.real) (fpFma f rm x y z)) ∧
       (x.real * y.real + z.real = 0 → fpFma f rm x y z = zero (if (m = 0 ∨ l = 0) ∧ j = 0 ∧ (n != k) = h then h else rm == 3)) ∧
       (m ≠ 0 → l ≠ 0 → f.Gives rm (x.real / y.real) (fpDiv f rm x y)) ∧ (m = 0 → l ≠ 0 → fpDiv f rm x y = zero (n != k)) ∧
       (m ≠ 0 → l = 0 → fpDiv f rm x y = (f.infinity (n != k), fDZ)) ∧ (m = 0 → l = 0 → fpDiv f rm x y = bad) ∧
       (m ≠ 0 → n = false → f.Gives rm √x.real (fpSqrt f rm x) ∧ f.Gives rm (1 / √x.real) (fpRsqrt f rm x)) ∧
       (m ≠ 0 → n = true → fpSqrt f rm x = bad ∧ fpRsqrt f rm x = bad) ∧
       (m = 0 → fpSqrt f rm x = zero n ∧ fpRsqrt f rm x = (f.infinity n, fDZ))) ∧
     (fpAdd f rm (.inf n) (.inf k) = (if n = k then inf n else bad) ∧ fpAdd f rm (.inf n) y = inf n ∧ fpAdd f rm x (.inf k) = inf k) ∧
     (fpMul f rm (.inf n) (.inf k) = inf (n != k) ∧ fpMul f rm (.inf n) y = (if l = 0 then bad else inf (n != k)) ∧
       fpMul f rm x (.inf k) = (if m = 0 then bad else inf (n != k))) ∧
     (fpDiv f rm (.inf n) (.inf k) = bad ∧ fpDiv f rm (.inf n) y = inf (n != k) ∧ fpDiv f rm x (.inf k) = zero (n != k)) ∧
     (fpSqrt f rm (.inf n) = (if n = true then bad else inf false) ∧ fpRsqrt f rm (.inf n) = if n = true then bad else zero false) ∧
     (∀ p q, mulExact p q = (.inf n, 0) → fpFma f rm p q z = inf n ∧ fpFma f rm p q (.inf k) = if n = k then inf n else bad) ∧
     fpFma f rm x y (.inf k) = inf k ∧
     (m = 0 → fpFma f rm x (.inf k) c = bad ∧ fpFma f rm (.inf k) x c = bad) ∧
     (a.isNan = true ∨ b.isNan = true → fpAdd f rm a b = (f.canon, sigFlags [a, b]) ∧ fpMul f rm a b = (f.canon, sigFlags [a, b]) ∧
       fpDiv f rm a b = (f.canon, sigFlags [a, b]) ∧ fpFma f rm a b c = (f.canon, sigFlags [a, b, c])) ∧
     (c.isNan = true → (∀ p, a.isNan = false → b.isNan = false → mulExact a b = (p, 0) → fpFma f rm a b c = (f.canon, sigFlags [c])) ∧
       fpSqrt f rm c = (f.canon, sigFlags [c]) ∧ fpRsqrt f rm c = (f.canon, sigFlags [c])))

/-- R13, R14, R17: a scalar result enters its register when the word writes one (s0 discards it) and the front latch of its pipe,
whose old value moves to the second latch; every other register, every other latch and everything outside the context stay. -/
def Obligations.ScalarResults : Prop :=
  ∀ (s : State) (i : Instr) (d : BitVec 5) (w : Bool) (x : SVal), (s.ctx? s.iss.tile s.iss.slot).isSome →
    s.cur.s.length = 32 → s.cur.lat.length = 8 →
    let u := s.resS i d w x
    SameBut s.iss.tile s.iss.slot s u ∧ (∀ k, readByte u.mem k = readByte s.mem k) ∧ u.cur.sreg 0 = { v := 0, p := false } ∧
    (w = true → d ≠ 0 → u.cur.sreg d.toNat = x) ∧
    (∀ n < 32, n ≠ d.toNat ∨ w = false → u.cur.sreg n = s.cur.sreg n) ∧
    u.cur.v = s.cur.v ∧ u.cur.p = s.cur.p ∧ u.cur.pc = s.cur.pc ∧ u.cur.fcsr = s.cur.fcsr ∧ u.cur.mode = s.cur.mode ∧
    u.cur.epc = s.cur.epc ∧ u.cur.lc = s.cur.lc ∧
    (u.cur.poisonSeen = (s.cur.poisonSeen || (w && d != 0 && x.p))) ∧
    (∀ k < 4, s.pipe i = some k → u.cur.lat.getD (2 * k) .empty = .scalar x ∧
      u.cur.lat.getD (2 * k + 1) .empty = s.cur.lat.getD (2 * k) .empty) ∧
    ∀ q < 8, s.pipe i ≠ some (q / 2) → u.cur.lat.getD q .empty = s.cur.lat.getD q .empty

/-- R87: CSRR and SCSRR deliver the CSR as it stood before the bundle. R26, R87: CSRW writes x, CSRS old OR x and CSRC old AND NOT
x; the W1C fields are cleared by CSRW and CSRC where x is 1 and are left by CSRS; with W the register receives the old value
and no latch is filled; poisoned data raises POISON. R8, R9, R26, R28: what a write makes of each CSR: the bits that it takes,
those that read zero, those that a one clears, and those that stay; read-only CSRs stay, and so do the registers.
Log 74, 82: the model's own readings and choices that it rests on. -/
def Obligations.CsrWords : Prop :=
  (∀ (f : FCsrR) (s : State),
     (Completes s (.csrr f) fun o => o.resS (.csrr f) f.d f.w { v := o.csrOld false f.x.toNat }) ∧
     (Completes s (.scsrr f) fun o => o.resS (.scsrr f) f.d f.w { v := o.csrOld true f.x.toNat })) ∧
  (∀ (f : FCsrW) (s : State),
     let C := fun (i : Instr) (sup : Bool) (rw clr : W64 → W64 → W64) =>
       (CompletesIf s i (fun o => (o.srcS i 0).p = false) fun o =>
         (o.csrPut sup f.x.toNat (rw (o.csrOld sup f.x.toNat) (o.srcS i 0).v) (clr (o.csrOld sup f.x.toNat) (o.srcS i 0).v)).resNoLatch
           f.d f.w { v := o.csrOld sup f.x.toNat }) ∧
       TrapsIf s i (fun o => (o.srcS i 0).p = true) 0x0D 0
     C (.csrw f) false (fun _ x => x) (fun _ x => x) ∧ C (.csrs f) false (fun o x => o ||| x) (fun _ _ => 0) ∧
     C (.csrc f) false (fun o x => o &&& ~~~x) (fun _ x => x) ∧ C (.scsrw f) true (fun _ x => x) (fun _ x => x) ∧
     C (.scsrs f) true (fun o x => o ||| x) (fun _ _ => 0) ∧ C (.scsrc f) true (fun o x => o &&& ~~~x) (fun _ x => x)) ∧
  (∀ (s : State) (v clr : W64) (c : Ctx), s.ctx? s.iss.tile s.iss.slot = some c →
     let put := fun (sup : Bool) (x : Nat) => s.csrPut sup x v clr
     let raf := (s.tileAt s.iss.tile).raflags
     let user := fun (x : Nat) => userRead ((put false x).cur) ((put false x).tileAt s.iss.tile).raflags 0 0 0 x
     let sup := fun (x : Nat) => supRead ((put true x).cur) ((put true x).tileAt s.iss.tile) s.iss.slot x
     (∀ k < 64, (user 0x00).getLsbD k = ((decide (k < 2) || (decide (4 ≤ k) && decide (k < 9))) && v.getLsbD k ||
       (decide (4 ≤ k) && c.newFlags.getLsbD (k - 4)))) ∧
     user 0x01 = v ∧ user 0x02 = v &&& 0x30F ∧ user 0x03 = v &&& 0x3F ∧
     user 0x04 = (if v.toNat / 2 ^ 16 % 4 = 3 then (v &&& 0xFFFF) ||| (c.sigScope.setWidth 64 <<< 16) else v &&& 0x3FFFF) ∧
     user 0x05 = v &&& 0x7F ∧
     (∀ k < 64, (user 0x06).getLsbD k = ((k == 0 && (s.iss.pre.pwoob && !clr.getLsbD 0 || c.newPwoob)) ||
       (k == 1 && (s.iss.pre.poisonSeen && !clr.getLsbD 1 || c.newPoison)))) ∧
     (∀ k < 64, (user 0x07).getLsbD k = (decide (4 ≤ k) && raf.getLsbD (k - 4) && !clr.getLsbD k)) ∧
     user 0x08 = v &&& 0xFFFFFFFFFFFC ∧
     (∀ k < 64, (user 0x09).getLsbD k = if k = 0 then v.getLsbD 0 else if k < 5 then c.chPend.getLsbD (k - 1) && !clr.getLsbD k
       else k == 5 && c.chActive) ∧
     user 0x30 = v &&& 0x1FF ∧
     (∀ k < 64, (sup 0x00).getLsbD k = if k = 1 then v.getLsbD 1 else (supRead c (s.tileAt s.iss.tile) s.iss.slot 0x00).getLsbD k) ∧
     sup 0x01 = v &&& 0xFFFFFFFFFFFC ∧ sup 0x02 = v ∧ sup 0x03 = v &&& 0xFFF ∧ sup 0x04 = v ∧ sup 0x05 = v &&& 0xFFFFFFFFFFFFFF00 ∧
     sup 0x08 = v &&& 0xFFFFFFFFFFFFFFFC ∧ sup 0x09 = v &&& 0xFFFFFFFFFFFFFFFC ∧ sup 0x0A = v &&& 0x7F ∧
     (∀ x ∈ [0x08, 0x09], ((put true x).tileAt s.iss.tile).icache = []) ∧
     (put true 0x0B).cur = { c with mapNew := c.mapNew ++ [(c.rmapidx.toNat, v)] } ∧
     (put true 0x0D).cur = { c with preDrain := BitVec.ofNat 4 (v.toNat / 16), preReq := c.preReq || v.getLsbD 0 } ∧
     (∀ x ∈ [0x10, 0x11, 0x12, 0x13, 0x18, 0x19, 0x1A, 0x1B, 0x1C, 0x1D] ++ (List.range 16).map (· + 0x20), (put false x).cur = c) ∧
     (∀ x ∈ [0x0C, 0x0E], (put true x).cur = c) ∧
     ∀ b x, (put b x).mem = s.mem ∧ (put b x).cur.s = c.s ∧ (put b x).cur.v = c.v ∧ (put b x).cur.p = c.p ∧ (put b x).cur.lat = c.lat ∧
       (put b x).cur.pc = c.pc ∧ (put b x).cur.mode = c.mode ∧ ((put b x).tileAt s.iss.tile).rmap = (s.tileAt s.iss.tile).rmap)

/-- R28, R48: a privileged word in user mode that breaks no rule of its operands raises PRIV before it executes. -/
def Obligations.PrivilegedWordsInUserMode : Prop :=
  ∀ (f : FCsrR) (g : FCsrW) (h : FTlb) (s : State) (i : Instr),
    (i = .xret ∨ i = .scsrr f ∨ i = .scsrw g ∨ i = .scsrs g ∨ i = .scsrc g ∨ i = .tlbinv h) →
    let o := s.openBundle
    o.iss.early = false → bit o.iss.done o.iss.pos = false → o.iss.pre.mode = false →
    wordCheck { o.iss.pre with mode := true } (limmOf (o.words i)) i = none →
    exec i s = .next ((o.earlyTrap 0x06).closeWord (o.words i))

/-- R78: a branch on a scalar is taken when its condition holds, and a poisoned condition raises POISON. R78: a branch on a
predicate. -/
def Obligations.Branches : Prop :=
  (∀ (f : FCc) (s : State),
     let C := fun (i : Instr) (q : W64 → Prop) =>
       (CompletesIf s i (fun o => (o.srcS i 0).p = false ∧ q (o.srcS i 0).v) fun o =>
         o.modIss fun x => { x with npc := some (x.pre.pc + BitVec.ofInt 64 (4 * immS (o.words i) i)) }) ∧
       (CompletesIf s i (fun o => (o.srcS i 0).p = false ∧ ¬ q (o.srcS i 0).v) fun o => o) ∧
       TrapsIf s i (fun o => (o.srcS i 0).p = true) 0x0D 0
     C (.bz f) (fun a => a = 0) ∧ C (.bnz f) (fun a => a ≠ 0) ∧ C (.bltz f) (fun a => a.toInt < 0) ∧
     C (.bgez f) (fun a => 0 ≤ a.toInt)) ∧
  (∀ (f : FCp) (s : State),
     let C := fun (i : Instr) (q : Pred → Prop) =>
       (CompletesIf s i (fun o => q (o.iss.pre.preg f.p.toNat)) fun o =>
         o.modIss fun x => { x with npc := some (x.pre.pc + BitVec.ofInt 64 (4 * immS (o.words i) i)) }) ∧
       CompletesIf s i (fun o => ¬ q (o.iss.pre.preg f.p.toNat)) fun o => o
     C (.bp f) (fun p => p.getLsbD 0 = true) ∧ C (.bnp f) (fun p => p.getLsbD 0 = false) ∧ C (.bany f) (fun p => p ≠ 0) ∧
     C (.bnone f) (fun p => p = 0))

/-- R78: the jumps and the link; R79: BLOOP and LCSET. -/
def Obligations.JumpsAndLoops : Prop :=
  ∀ (f : FDisp) (a : FA) (j : FJrl) (c : FCc) (s : State),
    let link := fun (o : State) (i : Instr) => o.iss.pre.pc + BitVec.ofNat 64 (4 * (o.words i).length)
    let dest := fun (o : State) (i : Instr) => o.iss.pre.pc + BitVec.ofInt 64 (4 * immS (o.words i) i)
    let go := fun (s : State) (x : W64) => s.modIss fun y => { y with npc := some x }
    let bad := fun (i : Instr) => TrapsIf s i (fun o => (o.srcS i 0).p = true) 0x0D 0
    (Completes s (.br f) fun o => go o (dest o (.br f))) ∧
    (Completes s (.brl f) fun o => go (o.modCur fun k => k.setS 31 { v := link o (.brl f) }) (dest o (.brl f))) ∧
    (CompletesIf s (.jr a) (fun o => (o.srcS (.jr a) 0).p = false ∧ (o.srcS (.jr a) 0).v.toNat % 4 = 0) fun o =>
      go o (o.srcS (.jr a) 0).v) ∧ bad (.jr a) ∧
    (CompletesIf s (.jrl j) (fun o => (o.srcS (.jrl j) 0).p = false ∧ (o.srcS (.jrl j) 0).v.toNat % 4 = 0) fun o =>
      go (o.modCur fun k => k.setS j.d.toNat { v := link o (.jrl j) }) (o.srcS (.jrl j) 0).v) ∧ bad (.jrl j) ∧
    (∀ x, TrapsIf s (.jr a) (fun o => (o.srcS (.jr a) 0).p = false ∧ (o.srcS (.jr a) 0).v = x ∧ x.toNat % 4 ≠ 0) 0x0A x.toNat) ∧
    (∀ x, TrapsIf s (.jrl j) (fun o => (o.srcS (.jrl j) 0).p = false ∧ (o.srcS (.jrl j) 0).v = x ∧ x.toNat % 4 ≠ 0) 0x0A x.toNat) ∧
    (CompletesIf s (.bloop f) (fun o => 2 ≤ o.iss.pre.lc.toNat) fun o =>
      go (o.modCur fun k => { k with lc := o.iss.pre.lc - 1, vrb := o.iss.pre.vrb - 1, prb := o.iss.pre.prb - 1 })
        (dest o (.bloop f))) ∧
    (CompletesIf s (.bloop f) (fun o => o.iss.pre.lc.toNat < 2) fun o => o.modCur fun k => { k with lc := 0 }) ∧
    (CompletesIf s (.lcset c) (fun o => (o.srcS (.lcset c) 0).p = false) fun o =>
      o.modCur fun k => { k with lc := (o.srcS (.lcset c) 0).v + BitVec.ofNat 64 (immU (o.words (.lcset c)) (.lcset c)) }) ∧
    bad (.lcset c)

/-- R80, R82, R340, and the X class (R34, R42, R44, R47): NOP, PBLK, LIMM and PMAP only complete (PBLK acts at the bundle's
commit, the other two through the words beside them); TRAP and BRK are recorded to act last; HALT is recorded as the ending
word; XRET and CRET are recorded to act at the commit, and CRET outside a handler raises ILLEGAL_STATE. R81: WAITEV completes
at once when its mask is zero or a selected event bit is set, and then clears the selected bits; otherwise it waits.
Log 13: the model's own readings and choices that it rests on. -/
def Obligations.StopTrapAndWaitWords : Prop :=
  (∀ (f : FDisp) (b : FPblk) (l : FLimm) (p : FPmap) (s : State),
     let o := s.openBundle
     (Completes s .nop fun o => o) ∧ (Completes s (.pblk b) fun o => o) ∧
     (s.turn .nop = true → s.iss.words ≠ [] → exec (.limm l) s = .next (o.finish (.limm l) o)) ∧
     (s.turn .nop = true → s.iss.words ≠ [] → exec (.pmap p) s = .next (o.finish (.pmap p) o)) ∧
     (s.turn (.trap f) = true → exec (.trap f) s = .next ((o.modIss fun x => { x with
       done := x.done ||| 2 ^ x.pos,
       brk := some ⟨0x12, x.pos, false, BitVec.ofNat 64 (immU (o.words (.trap f)) (.trap f))⟩ }).closeWord (o.words (.trap f)))) ∧
     (s.turn (.brk f) = true → exec (.brk f) s = .next ((o.modIss fun x => { x with
       done := x.done ||| 2 ^ x.pos,
       brk := some ⟨0x13, x.pos, false, BitVec.ofNat 64 (immU (o.words (.brk f)) (.brk f))⟩ }).closeWord (o.words (.brk f)))) ∧
     (s.turn .halt = true → exec .halt s = .next ((o.modIss fun x => { x with ending := some x.pos }).closeWord (o.words .halt))) ∧
     (Completes s .xret fun o => o.modIss fun x => { x with ret := 1 }) ∧
     (CompletesIf s .cret (fun o => o.iss.pre.chActive = true) fun o => o.modIss fun x => { x with ret := 2 }) ∧
     TrapsIf s .cret (fun o => o.iss.pre.chActive = false) 0x10 0) ∧
  (∀ (f : FMask) (s : State),
     (CompletesIf s (.waitev f) (fun o => f.m = 0 ∨ o.cur.events &&& f.m ≠ 0) fun o =>
       o.modCur fun c => { c with events := c.events &&& ~~~f.m }) ∧
     (s.turn (.waitev f) = true → f.m ≠ 0 → s.openBundle.cur.events &&& f.m = 0 →
       exec (.waitev f) s = .next (s.openBundle.awaits (.waitev f) (.waitev f.m) s.openBundle)))

/-! ## Words of the L class -/

/-- R88: base plus scaled signed offset, modulo 2^64. R90: the checks of an access of a word, in their order: a poisoned base,
alignment, the ranges of R29 and the member of the gang (R30), the region map (R242), read-only regions, poisoned data for
another tile; in the gang window the task's own tile is reached as its window below 0x80_0000 is, and another member's through
the SHARE bit of that tile's entry. -/
def Obligations.AddressesAndChecks : Prop :=
  (∀ (s : State) (i : Instr) (n : Nat),
     ((lmAddr s i n : Nat) : Int) = (((s.srcS i 0).v.toNat : Int) + immS (s.words i) i * n) % 2 ^ 64) ∧
  (∀ (s : State) (base : Bool) (a n align : Nat) (store noAcc dataP : Bool),
     let t := s.iss.tile
     let r := s.check base a n align store noAcc dataP
     (base = true → r = .error (0x0D, 0)) ∧
     (base = false → a % align ≠ 0 → r = .error (0x0A, a)) ∧
     (base = false → a % align = 0 → 0xB00000 ≤ a → a < 2 ^ 40 → r = .error (0x0B, a)) ∧
     (base = false → a % align = 0 → 2 ^ 40 ≤ a → s.iss.pre.gangsize ≤ (a - 2 ^ 40) / 2 ^ 23 → r = .error (0x0B, a)) ∧
     (base = false → a % align = 0 → a < 0x800000 → 0x800000 < a + n → r = .error (0x0B, a)) ∧
     (base = false → a % align = 0 → a < 0x800000 → a + n ≤ 0x800000 →
       servesCtx (s.tileAt t) s.iss.slot s.iss.pre ((s.tileAt t).entry a) = false → r = .error (0x0C, a)) ∧
     (base = false → a % align = 0 → a < 0x800000 → a + n ≤ 0x800000 →
       servesCtx (s.tileAt t) s.iss.slot s.iss.pre ((s.tileAt t).entry a) = true →
       store = true → ((s.tileAt t).entry a).getLsbD 62 = true → s.iss.pre.mode = false → r = .error (0x0B, a)) ∧
     (base = false → a % align = 0 → a < 0x800000 → a + n ≤ 0x800000 →
       servesCtx (s.tileAt t) s.iss.slot s.iss.pre ((s.tileAt t).entry a) = true →
       (store = true → ((s.tileAt t).entry a).getLsbD 62 = true → s.iss.pre.mode = true) →
       r = .ok { home := t, remote := false, key := spKey t (((s.tileAt t).entry a).toNat % 128 * 65536 + a % 65536),
                 entry := (s.tileAt t).entry a, acc := false }) ∧
     (base = false → a % align = 0 → 0x800000 ≤ a → a + n ≤ 0xB00000 → 0 < n → noAcc = false →
       r = .ok { home := t, remote := false, key := accKey t (a - 0x800000), entry := 0, acc := true }) ∧
     (base = false → a % align = 0 → 0x800000 ≤ a → a + n ≤ 0xB00000 → 0 < n → noAcc = true → r = .error (0x0B, a)) ∧
     (base = false → a % align = 0 → 0x800000 ≤ a → a < 0xB00000 → 0xB00000 < a + n → r = .error (0x0B, a)) ∧
     (∀ e, servesGang e = (e.getLsbD 63 && !e.getLsbD 60 && !e.getLsbD 59 && e.getLsbD 61)) ∧
     let g := (a - 2 ^ 40) / 2 ^ 23
     let off := (a - 2 ^ 40) % 2 ^ 23
     (base = false → a % align = 0 → 2 ^ 40 ≤ a → g < s.iss.pre.gangsize →
       (2 ^ 23 < off + n → r = .error (0x0B, a)) ∧
       (off + n ≤ 2 ^ 23 → ∀ h, (if g = s.iss.pre.gangidx then some t else s.memberTile s.iss.pre g) = some h →
         let far := g ≠ s.iss.pre.gangidx
         let e := (s.tileAt h).entry off
         let ok := (if g = s.iss.pre.gangidx then servesCtx (s.tileAt t) s.iss.slot s.iss.pre e else servesGang e) = true
         let ro := store = true ∧ e.getLsbD 62 = true ∧ s.iss.pre.mode = false
         let sent := store = true ∧ dataP = true ∧ far
         (¬ ok → r = .error (0x0C, a)) ∧ (ok → ro → r = .error (0x0B, a)) ∧ (ok → ¬ ro → sent → r = .error (0x0D, a)) ∧
         (ok → ¬ ro → ¬ sent →
           r = .ok { home := h, remote := g != s.iss.pre.gangidx, key := spKey h (e.toNat % 128 * 65536 + off % 65536),
                     entry := e, acc := false }))))

/-- R93, R94: a scalar load or store whose checks pass makes its access; one that a check refuses traps and performs nothing.
Log 6: the model's own readings and choices that it rests on. -/
def Obligations.ScalarLoadsAndStores : Prop :=
  ∀ (f : FLm) (g : FSt) (s : State) (l : Loc) (e : Nat × Nat),
    let L := fun (i : Instr) (n : Nat) (sext : Bool) =>
      let chk := fun (o : State) => o.check (o.srcS i 0).p (lmAddr o i n) n n false false false
      (CompletesIf s i (fun o => chk o = .ok l) fun o => o.issueAct l f.o (.load l.key n sext) (.s f.d f.w) true) ∧
      TrapsIf s i (fun o => chk o = .error e) e.1 e.2
    let W := fun (i : Instr) (n : Nat) =>
      let chk := fun (o : State) => o.check (o.srcS i 0).p (lmAddr o i n) n n true false (o.srcS i 2).p
      (CompletesIf s i (fun o => chk o = .ok l) fun o =>
        o.issueAct l g.o (.write [(l.key, n, (o.srcS i 2).v.toNat)] [(o.srcS i 2).p]) .none false) ∧
      TrapsIf s i (fun o => chk o = .error e) e.1 e.2
    L (.ldb f) 1 true ∧ L (.ldbu f) 1 false ∧ L (.ldh f) 2 true ∧ L (.ldhu f) 2 false ∧ L (.ldw f) 4 true ∧ L (.ldwu f) 4 false ∧
    L (.ldd f) 8 false ∧ W (.stb g) 1 ∧ W (.sth g) 2 ∧ W (.stw g) 4 ∧ W (.std g) 8

/-- R91, R93, R95, R17, R239: what an access that is not buffered does at the word's own tile when no read meets an error (R237,
R370): a load delivers the bytes at its place with their marks to the register and to latch L0 and changes no memory, LDVB
each of its 64 bytes to four places and LDVF the lanes that Decode_f gives; a store changes the bytes of its pieces only, and
they read as written. R245, R22, R289: an access to another tile's part of the gang window, and one of a buffered bundle, goes
to the mesh with what it needs and changes no memory; a store goes as one request for each doubleword; the destination waits
for the answer. Log 6: the model's own readings and choices that it rests on. -/
def Obligations.BankAndMeshAccesses : Prop :=
  (∀ (s : State) (l : Loc) (cls : BitVec 4), l.remote = false → s.iss.late = false → s.quiet = true →
     (∀ n sext d w,
       let x : SVal := { v := if sext then BitVec.ofInt 64 (BitVec.ofNat (8 * n) (s.rd l.key n)).toInt else BitVec.ofNat 64 (s.rd l.key n),
                         p := s.poisoned l.key }
       0 < n → s.issueAct l cls (.load l.key n sext) (.s d w) true =
         s.modCur fun c => (if w then c.setS d.toNat x else c).push 1 (.scalar x)) ∧
     (∀ mask d w,
       let x : VVal := { v := BitVec.ofNat 2048 (s.rd l.key 256), p := BitVec.ofNat 32 (poisonBits s.poison l.key 32) }
       s.issueAct l cls (.loadV l.key mask) (.v d w mask) true = s.modCur fun c =>
         let y := mergeV mask 1 1 (if w then c.v.getD d {} else {}) (elsOf x 1)
         (if w then c.setVPhys d y else c).push 1 (.vector y) |>.orFlags 0) ∧
     (∀ mask d w, ∃ y : VVal,
       LanesAre mask 1 1 256 (if w then s.cur.v.getD d {} else {}) y (fun i => (readByte s.mem (l.key + i % 64)).toNat)
         (fun i => s.poisoned (l.key + i % 64 / 8 * 8)) ∧
       s.issueAct l cls (.loadB l.key mask) (.v d w mask) true =
         s.modCur fun c => (if w then c.setVPhys d y else c).push 1 (.vector y)) ∧
     (∀ sc0 sc1 fmt mask d w,
       let b := fmtBits fmt
       let place := fun j => l.key + j * b / 8
       let sc := fun j => if j < 32 then sc0 else sc1
       let dec := fun j => decodeElem fmt (s.rd (place j) ((b + 7) / 8) / 2 ^ (j * b % 8) % 2 ^ b) (if fmt = 6 then s.rd (sc j) 1 else 0)
       let mk := fun j => s.poisoned (place j) || (fmt == 6 && s.poisoned (sc j))
       ∃ y : VVal, LanesAre mask 1 1 256 (if w then s.cur.v.getD d {} else {}) y (fun i => (dec (i / 4)).1 / 256 ^ (i % 4) % 256)
           (fun i => mk (2 * (i / 8)) || mk (2 * (i / 8) + 1)) ∧
         s.issueAct l cls (.loadF l.key sc0 sc1 fmt mask) (.v d w mask) true = s.modCur fun c =>
           ((if w then c.setVPhys d y else c).orFlags (orAll ((List.range 64).map fun j =>
             if bit mask.toNat (4 * j) then (dec j).2 else 0))).push 1 (.vector y)) ∧
     (∀ (x m marks n : Nat), l.key % 8 = 0 →
       let u := s.issueAct l cls (writeAct (pieces l.key x m marks n)) .none false
       (∀ i < 8 * n, readByte u.mem (l.key + i) = if bit m i then BitVec.ofNat 8 (x / 256 ^ i) else readByte s.mem (l.key + i)) ∧
       (∀ k, k < l.key ∨ l.key + 8 * n ≤ k → readByte u.mem k = readByte s.mem k ∧ u.poisoned k = s.poisoned k) ∧
       (∀ k < n, u.poisoned (l.key + 8 * k) =
         if bits m (8 * k) 8 = 255 then bit marks k
         else s.poisoned (l.key + 8 * k) || (bits m (8 * k) 8 != 0 && bit marks k)) ∧
       u.cur.s = s.cur.s ∧ u.cur.v = s.cur.v ∧ u.cur.p = s.cur.p ∧ u.cur.fcsr = s.cur.fcsr ∧ u.cur.lat = s.cur.lat ∧
       u.mesh = s.mesh ∧ u.dies = s.dies ∧ u.hbm = s.hbm) ∧
     ∀ (n x : Nat) (p : Bool),
       let u := s.issueAct l cls (.write [(l.key, n, x)] [p]) .none false
       (∀ k, l.key ≤ k → k < l.key + n → readByte u.mem k = BitVec.ofNat 8 (x / 256 ^ (k - l.key))) ∧
       (∀ k, k < l.key ∨ l.key + n ≤ k → readByte u.mem k = readByte s.mem k) ∧
       (∀ k, u.poisoned k = if k / 8 = l.key / 8 then (if n = 8 ∧ l.key % 8 = 0 then p else p || s.poisoned k) else s.poisoned k) ∧
       u.tiles.map (fun t => t.ctx.map fun o => o.isSome) = s.tiles.map (fun t => t.ctx.map fun o => o.isSome) ∧
       u.cur.s = s.cur.s ∧ u.cur.v = s.cur.v ∧ u.cur.p = s.cur.p ∧ u.cur.fcsr = s.cur.fcsr ∧ u.cur.lat = s.cur.lat ∧
       u.mesh = s.mesh ∧ u.dies = s.dies ∧ u.hbm = s.hbm) ∧
  (∀ (s : State) (l : Loc) (cls : BitVec 4) (a : MemAct) (dst : MemDst) (latch : Bool), l.remote = true ∨ s.iss.late = true →
     let u := s.issueAct l cls a dst latch
     u.mem = s.mem ∧ u.poison = s.poison ∧
     u.mesh = s.mesh ++ a.split.map (fun b => { tile := s.iss.tile, slot := s.iss.slot, task := s.cur.taskid, home := l.home,
                                                 act := b, cls := cls, dst := dst, res := none, latch := latch }) ∧
     ((∀ ps po, a ≠ .write ps po) → a.split = [a]) ∧
     (∀ ps po, a = .write ps po → ∃ gs : List (List ((Nat × Nat × Nat) × Bool)),
       a.split = gs.map (fun g => .write (g.map (·.1)) (g.map (·.2))) ∧ gs.flatten = ps.zip po ∧
       ∀ g ∈ gs, g ≠ [] ∧ ∀ x ∈ g, ∀ y ∈ g, x.1.1 / 8 = y.1.1 / 8) ∧
     (∀ d w, dst = .s d w → w = true → (s.ctx? s.iss.tile s.iss.slot).isSome → d ∈ u.cur.pendS))

/-- R95: LDV, LDVB, LDVF and the stores STV and STVF: with every lane masked off no access is made; otherwise an access whose checks pass
is made for the active bytes, and one that a check refuses traps.
Log 6, 80, 91: the model's own readings and choices that it rests on. -/
def Obligations.VectorLoadsAndStores : Prop :=
  ∀ (f : FLm) (g : FSt) (s : State) (l l0 l1 : Loc) (fmt : Nat) (e : Nat × Nat),
    let chk := fun (i : Instr) (n : Nat) (st : Bool) (dp : State → Bool) (o : State) =>
      o.check (o.srcS i 0).p (lmAddr o i 256) n n st false (dp o)
    let L := fun (i : Instr) (n : Nat) (act : Pred → MemAct) =>
      (CompletesIf s i (fun o => o.mask = 0) fun o => o.resV i f.d f.w (o.oldV f.d f.w)) ∧
      (CompletesIf s i (fun o => o.mask ≠ 0 ∧ chk i n false (fun _ => false) o = .ok l) fun o =>
        o.issueAct l f.o (act o.mask) (.v (physV o.iss.pre.vrb f.d.toNat) f.w o.mask) true) ∧
      TrapsIf s i (fun o => o.mask ≠ 0 ∧ chk i n false (fun _ => false) o = .error e) e.1 e.2
    let stvP := fun (o : State) => maskedPoison o.mask.toNat (o.srcV (.stv g) 2).p.toNat 32
    L (.ldv f) 256 (.loadV l.key) ∧ L (.ldvb f) 64 (.loadB l.key) ∧
    (CompletesIf s (.stv g) (fun o => o.mask = 0) fun o => o) ∧
    (CompletesIf s (.stv g) (fun o => o.mask ≠ 0 ∧ chk (.stv g) 256 true stvP o = .ok l) fun o =>
      o.issueAct l g.o (writeAct (pieces l.key (o.srcV (.stv g) 2).v.toNat o.mask.toNat (o.srcV (.stv g) 2).p.toNat 32)) .none
        false) ∧
    TrapsIf s (.stv g) (fun o => o.mask ≠ 0 ∧ chk (.stv g) 256 true stvP o = .error e) e.1 e.2 ∧
    (CompletesIf s (.ldvf f) (fun o => laneMask o.mask = 0) fun o => o.resV (.ldvf f) f.d f.w (o.oldV f.d f.w)) ∧
    (CompletesIf s (.ldvf f) (fun o => laneMask o.mask ≠ 0 ∧ chunkCheck o (.ldvf f) false = .ok (l, fmt, l0, l1)) fun o =>
      o.issueAct { l with remote := l.remote || l0.remote || l1.remote } f.o
        (if fmtBits fmt = 32 then .loadV l.key (laneMask o.mask) else .loadF l.key l0.key l1.key fmt (laneMask o.mask))
        (.v (physV o.iss.pre.vrb f.d.toNat) f.w (laneMask o.mask)) true) ∧
    TrapsIf s (.ldvf f) (fun o => laneMask o.mask ≠ 0 ∧ chunkCheck o (.ldvf f) false = .error e) e.1 e.2 ∧
    (CompletesIf s (.stvf g) (fun o => laneMask o.mask = 0) fun o => o) ∧
    (let x := fun (o : State) => o.srcV (.stvf g) 2
     let raw := fun (o : State) => elems (x o).v.toNat 4 64
     let enc := fun (o : State) => (raw o).map fun y =>
       if fmtBits fmt = 32 then (y, (0 : Flags)) else encodeLane fmt (locRec o.iss.pre l) o.iss.pre.rm y
     let marks := fun (o : State) => chunkMarks (x o) o.mask (fmtBits fmt)
     (CompletesIf s (.stvf g) (fun o => laneMask o.mask ≠ 0 ∧ chunkCheck o (.stvf g) true = .ok (l, fmt, l0, l1) ∧ fmt ≠ 6) fun o =>
      (o.issueAct l g.o (writeAct (pieces l.key (ofElems (fmtBits fmt / 8) ((enc o).map (·.1)))
        (chunkMask o.mask (fmtBits fmt / 8)) (marks o) (fmtBits fmt))) .none false).orFcsr
        (orAll ((enc o).zipIdx.map fun e => if laneOn o.mask e.2 then e.1.2 else 0))) ∧
     let mx := fun (o : State) => laneMask o.mask ≠ 0 ∧ chunkCheck o (.stvf g) true = .ok (l, 6, l0, l1)
     let half := fun (o : State) (b : Nat) => (List.range 16).any fun k => bit (x o).p.toNat (16 * b + k)
     (∀ u, CompletesIf s (.stvf g) (fun o => mx o ∧
        (let lanes := fun b => (((elems (x o).v.toNat 4 64).drop (32 * b)).take 32).map fp32.decode
         let on := fun b => blockOn o.mask b == some true
         let enc := fun b => if on b then encodeMX (locRec o.iss.pre l) o.iss.pre.rm (lanes b) else (List.replicate 32 0, 0, 0)
         let nib := fun (q : List Nat) => q.foldr (fun n acc => acc * 16 + n % 16) 0
         let p := fun b => on b && half o b
         let put := fun (b : Nat) (k : Loc) (o : State) =>
           if on b then o.issueAct k g.o (.write [(k.key, 1, (enc b).2.1)] [p b]) .none false else o
         let body := writeAct (pieces l.key (nib (enc 0).1 + nib (enc 1).1 * 2 ^ 128)
           ((if on 0 then 0xFFFF else 0) + if on 1 then 0xFFFF0000 else 0) ((if p 0 then 3 else 0) + if p 1 then 12 else 0) 4)
         u = (put 1 l1 (put 0 l0 (o.issueAct l g.o body .none false))).orFcsr ((enc 0).2.2 ||| (enc 1).2.2))) fun _ => u)) ∧
    -- the checks of LDVF and STVF in their order, those of the elements before those of the scale bytes
    (∀ (o : State) (i : Instr) (st : Bool),
      let a := lmAddr o i 256
      let r := chunkCheck o i st
      let spot := o.locate o.iss.tile o.iss.slot o.iss.pre a 1 st
      let bad := fun b => (List.range 32).any fun k => laneOn o.mask (32 * b + k) && bit (o.srcV i 2).p.toNat ((32 * b + k) / 2)
      ((o.srcS i 0).p = true → r = .error (0x0D, 0)) ∧
      ((o.srcS i 0).p = false → ∀ e, spot = .error e → r = .error e) ∧
      ((o.srcS i 0).p = false → ∀ l, spot = .ok l →
        let fmt := locFmt l
        let part := st = true ∧ fmt = 6 ∧ (blockOn o.mask 0 = none ∨ blockOn o.mask 1 = none)
        let sent := st = true ∧ l.remote = true ∧ (bad 0 = true ∨ bad 1 = true)
        let eb := recEBASE (locRec o.iss.pre l)
        (fmtReserved fmt = true → r = .error (0x0F, a)) ∧
        (fmtReserved fmt = false → a % (8 * fmtBits fmt) ≠ 0 → r = .error (0x0A, a)) ∧
        (fmtReserved fmt = false → a % (8 * fmtBits fmt) = 0 → part → r = .error (0x0F, a)) ∧
        (fmtReserved fmt = false → a % (8 * fmtBits fmt) = 0 → ¬ part → sent → r = .error (0x0D, a)) ∧
        (fmtReserved fmt = false → a % (8 * fmtBits fmt) = 0 → ¬ part → ¬ sent → fmt ≠ 6 → r = .ok (l, fmt, l, l)) ∧
        (fmtReserved fmt = false → a % (8 * fmtBits fmt) = 0 → ¬ part → ¬ sent → fmt = 6 → a < eb ∨ eb % 32 ≠ 0 →
          r = .error (0x0F, a)) ∧
        (fmtReserved fmt = false → a % (8 * fmtBits fmt) = 0 → ¬ part → ¬ sent → fmt = 6 → eb ≤ a → eb % 32 = 0 →
          let one := fun b => if blockOn1 o.mask b
            then scaleCheck o (recSPBASE (locRec o.iss.pre l) + (a - eb) / 16 + b) st (st && bad b) else .ok l
          (∀ e, one 0 = .error e → r = .error e) ∧
          ∀ x, one 0 = .ok x → (∀ e, one 1 = .error e → r = .error e) ∧ ∀ y, one 1 = .ok y → r = .ok (l, 6, x, y))) ∧
      ∀ b p, let spot := o.locate o.iss.tile o.iss.slot o.iss.pre b 1 st
        let r := scaleCheck o b st p
        (∀ e, spot = .error e → r = .error e) ∧
        ∀ l, spot = .ok l →
          let form := l.acc = false ∧ fmtReserved (entFMT l.entry) = true
          let sent := st = true ∧ p = true ∧ l.remote = true
          (form → r = .error (0x0F, b)) ∧ (¬ form → sent → r = .error (0x0D, b)) ∧ (¬ form → ¬ sent → r = .ok l)) ∧
    TrapsIf s (.stvf g) (fun o => laneMask o.mask ≠ 0 ∧ chunkCheck o (.stvf g) true = .error e) e.1 e.2

/-- R96, R88, R125: LDVG and STVS perform their active lanes in ascending order; LDVG completes when no lane fails. A lane that its checks
refuse performs nothing; one that they pass reads its 4 bytes into its lane of vd, or stores its lane there.
Log 6, 81: the model's own readings and choices that it rests on. -/
def Obligations.GatherAndScatter : Prop :=
  ∀ (f : FLx) (g : FStx) (s u : State) (done : Nat) (e : Nat × Nat),
    (CompletesIf s (.ldvg f) (fun o =>
        runLanes (gatherLane (.ldvg f) f) (lanesOf o) (gatherStart o f) o.iss.lmask.toNat = (u, done, none)) fun _ => u) ∧
    (CompletesIf s (.stvs g) (fun o => runLanes (scatterLane (.stvs g) g) (lanesOf o) o o.iss.lmask.toNat = (u, done, none))
      fun _ => u) ∧
    (s.turn (.ldvg f) = true → (s.openBundle.ctx? s.openBundle.iss.tile s.openBundle.iss.slot).isSome →
      runLanes (gatherLane (.ldvg f) f) (lanesOf s.openBundle) (gatherStart s.openBundle f) s.openBundle.iss.lmask.toNat =
        (u, done, some e) →
      ∃ v, exec (.ldvg f) s = .next (s.openBundle.fails (.ldvg f) e.1 e.2 v) ∧ v.iss.lmask = BitVec.ofNat 64 done ∧
        v.mem = u.mem ∧ v.poison = u.poison) ∧
    (s.turn (.stvs g) = true →
      runLanes (scatterLane (.stvs g) g) (lanesOf s.openBundle) s.openBundle s.openBundle.iss.lmask.toNat = (u, done, some e) →
      exec (.stvs g) s = .next (s.openBundle.fails (.stvs g) e.1 e.2
        (u.modIss fun x => { x with lmask := BitVec.ofNat 64 done }))) ∧
    -- one lane: its address is the base plus the lane's index, and its access is of 4 bytes
    (∀ (o : State) (i : Instr) (j : Nat), j < 64 →
      let a := ((o.srcS i 0).v.toNat + elem (o.srcV i 1).v.toNat 4 j) % 2 ^ 64
      let b := (o.srcS i 0).p || bit (o.srcV i 1).p.toNat (j / 2)
      let x := elem (o.srcV i 2).v.toNat 4 j
      let xp := bit (o.srcV i 2).p.toNat (j / 2)
      (∀ e, o.check b a 4 4 false false false = .error e → gatherLane i f o j = .error e) ∧
      (∀ l, o.check b a 4 4 false false false = .ok l →
        let d := physV o.iss.pre.vrb f.d.toNat
        ∃ u, gatherLane i f o j = .ok u ∧ (l.remote = true ∨ o.iss.late = true ∨ o.quiet = true → u.mem = o.mem ∧ u.poison = o.poison) ∧
          (l.remote = true ∨ o.iss.late = true → ∃ r ∈ u.mesh, r.home = l.home ∧ ∃ q, r.act = .lanes q ∧ (l.key, j) ∈ q) ∧
          (l.remote = false → o.iss.late = false → o.quiet = true → f.w = true → (o.ctx? o.iss.tile o.iss.slot).isSome →
            d < o.cur.v.length → u.mesh = o.mesh ∧
            (∀ k < 64, elem (u.cur.v.getD d {}).v.toNat 4 k = if k = j then o.rd l.key 4 else elem (o.cur.v.getD d {}).v.toNat 4 k) ∧
            ∀ c < 32, bit (u.cur.v.getD d {}).p.toNat c = (bit (o.cur.v.getD d {}).p.toNat c || (c == j / 2 && o.poisoned l.key)))) ∧
      (∀ e, o.check b a 4 4 true false xp = .error e → scatterLane i g o j = .error e) ∧
      ∀ l, o.check b a 4 4 true false xp = .ok l →
        ∃ u, scatterLane i g o j = .ok u ∧
          (l.remote = true ∨ o.iss.late = true → u.mem = o.mem ∧ u.poison = o.poison ∧
            ∃ r ∈ u.mesh, r.home = l.home ∧ ∃ q po, r.act = .write q po ∧ (l.key, 4, x) ∈ q) ∧
          (l.remote = false → o.iss.late = false → o.quiet = true → u.mesh = o.mesh ∧
            (∀ k, l.key ≤ k → k < l.key + 4 → readByte u.mem k = BitVec.ofNat 8 (x / 256 ^ (k - l.key))) ∧
            (∀ k, k < l.key ∨ l.key + 4 ≤ k → readByte u.mem k = readByte o.mem k) ∧
            ∀ k, u.poisoned k = if k / 8 = l.key / 8 then xp || o.poisoned k else o.poisoned k)) ∧
    -- a gather's old marks: a chunk both of whose lanes it performs takes only their marks
    (∀ o : State, f.w = true → (o.ctx? o.iss.tile o.iss.slot).isSome → physV o.iss.pre.vrb f.d.toNat < o.cur.v.length →
      let d := physV o.iss.pre.vrb f.d.toNat
      ((gatherStart o f).cur.v.getD d {}).v = (o.cur.v.getD d {}).v ∧
      ∀ c < 32, bit ((gatherStart o f).cur.v.getD d {}).p.toNat c =
        (bit (o.cur.v.getD d {}).p.toNat c && !((lanesOf o).contains (2 * c) && (lanesOf o).contains (2 * c + 1)))) ∧
    -- the lanes that a run performs are those in front of the first lane that fails, each once and in order
    ∀ (act : State → Nat → Except (Nat × Nat) State) (l r : List Nat) (j : Nat) (a b : State) (d : Nat),
      runLanes act l a d = (b, l.foldl (fun x k => x ||| 2 ^ k) d, none) → act b j = .error e →
      runLanes act (l ++ j :: r) a d = (b, l.foldl (fun x k => x ||| 2 ^ k) d, some e)

/-- R97: LDP reads its bytes below the window's size as loads do, gives zero for the others and then sets TSR.PWOOB; an unbound window
raises PARAM_UNBOUND with the window's number, a poisoned base POISON, a misaligned offset MISALIGNED.
Log 6, 11: the model's own readings and choices that it rests on. -/
def Obligations.ParameterWindowReads : Prop :=
  ∀ (f : FLp) (s v u : State) (x : Nat) (p out : Bool) (e : Nat × Nat),
    let size := fun (o : State) => (o.iss.pre.pws.getD f.n.toNat 0).toNat
    let base := fun (o : State) => (o.iss.pre.pwb.getD f.n.toNat 0).toNat
    let n := 2 ^ f.z.toNat
    let off := fun (o : State) => (o.srcS (.ldp f) 0).v.toNat + immU (o.words (.ldp f)) (.ldp f) * n
    TrapsIf s (.ldp f) (fun o => size o = 0) 0x0E f.n.toNat ∧
    TrapsIf s (.ldp f) (fun o => size o ≠ 0 ∧ (o.srcS (.ldp f) 0).p = true) 0x0D 0 ∧
    (∀ a, TrapsIf s (.ldp f) (fun o => size o ≠ 0 ∧ (o.srcS (.ldp f) 0).p = false ∧ off o % n ≠ 0 ∧ a = base o + off o) 0x0A a) ∧
    (let reads := fun (o : State) => size o ≠ 0 ∧ (o.srcS (.ldp f) 0).p = false ∧ off o % n = 0 ∧
       o.sramReads (ldpDws o (base o) (off o) (size o) n) = (v, u)
     (CompletesIf s (.ldp f) (fun o => reads o ∧ ldpBytes v (base o) (off o) (size o) n = .ok (x, p, out)) fun _ =>
       (if out then u.modCur fun c => { c with pwoob := true, newPwoob := true } else u).resS (.ldp f) f.d f.w
         { v := BitVec.ofNat 64 x, p := p }) ∧
     TrapsIf s (.ldp f) (fun o => reads o ∧ ldpBytes v (base o) (off o) (size o) n = .error e) e.1 e.2) ∧
    -- a byte at or beyond the window's size reads as zero; one below it is read where its address is
    (∀ (o : State) (b k size n : Nat), ldpBytes o b k size (n + 1) = match ldpBytes o b k size n with
      | .error e => .error e
      | .ok (y, q, w) =>
        if size ≤ k + n then .ok (y, q, true)
        else match o.locate o.iss.tile o.iss.slot o.iss.pre (b + k + n) 1 false with
          | .error e => .error e
          | .ok l => .ok (y + o.rd l.key 1 * 2 ^ (8 * n), q || o.poisoned l.key, w)) ∧
    (s.quiet = true → ∀ l, s.sramReads l = (s, s))

/-- R142 to R146: an atomic whose checks pass goes to its home bank with its operands; one that a check refuses traps. R143, R144:
what an atomic does at its home bank when no read meets an error: the unit takes the operation's result, every other byte
stays, and the old value is the answer; ACAS writes only where the unit equals the compare value; AFADD adds two binary32
values, rounded to nearest even, a NaN operand gives the canonical NaN with NV, and its flags go with the answer or, where
none is asked for, to RAFLAGS of the home tile. Log 6, 87, 90, 94: the model's own readings and choices that it rests on. -/
def Obligations.Atomics : Prop :=
  (∀ (f : FLx) (s : State) (l : Loc) (e : Nat × Nat),
     let C := fun (i : Instr) (op : AtomicOp) (n : Nat) =>
       let chk := fun (o : State) => o.check (o.srcS i 0).p (o.srcS i 0).v.toNat n n true true ((o.srcS i 1).p || (o.srcS i 2).p)
       (CompletesIf s i (fun o => chk o = .ok l) fun o =>
         o.issueAct l f.o (.atomic op l.key (o.srcS i 1) (o.srcS i 2) f.w) (if f.w then .s f.d true else .none) f.w) ∧
       TrapsIf s i (fun o => chk o = .error e) e.1 e.2
     C (.aadd f) .add 8 ∧ C (.amin f) .min 8 ∧ C (.amax f) .max 8 ∧ C (.aminu f) .minu 8 ∧ C (.amaxu f) .maxu 8 ∧
     C (.aand f) .and 8 ∧ C (.aor f) .or 8 ∧ C (.axor f) .xor 8 ∧ C (.aswp f) .swp 8 ∧ C (.acas f) .cas 8 ∧ C (.afadd f) .fadd 4) ∧
  (∀ (s : State) (h k : Nat) (x c : SVal), s.quiet = true → k % 8 = 0 →
     let old : SVal := { v := BitVec.ofNat 64 (s.rd k 8), p := s.poisoned k }
     (∀ op ret, op ≠ .fadd → op ≠ .cas →
       let r := s.apply h (.atomic op k x c ret)
       let new : W64 := match op with
         | .add => old.v + x.v
         | .min => if x.v.toInt < old.v.toInt then x.v else old.v
         | .max => if old.v.toInt < x.v.toInt then x.v else old.v
         | .minu => if x.v.toNat < old.v.toNat then x.v else old.v
         | .maxu => if old.v.toNat < x.v.toNat then x.v else old.v
         | .and => old.v &&& x.v
         | .or => old.v ||| x.v
         | .xor => old.v ^^^ x.v
         | _ => x.v
       r.1.rd k 8 = new.toNat ∧ r.1.poisoned k = (old.p || x.p) ∧
       (∀ j, j < k ∨ k + 8 ≤ j → readByte r.1.mem j = readByte s.mem j) ∧ (ret = true → r.2 = .s old)) ∧
     (let r := s.apply h (.atomic .cas k x c true)
      r.2 = .s old ∧ (old.v ≠ c.v → r.1 = s) ∧
      (old.v = c.v → r.1.rd k 8 = x.v.toNat ∧ ∀ j, j < k ∨ k + 8 ≤ j → readByte r.1.mem j = readByte s.mem j)) ∧
     ∀ q ret, q % 4 = 0 → h < s.tiles.length →
       let w := s.rd q 4
       let a := fp32.decode w
       let b := fp32.decode (x.v.toNat % 2 ^ 32)
       let z := if (a.isNan || b.isNan) = true then (0x7FC00000, fNV) else fpAdd fp32 0 a b
       let r := s.apply h (.atomic .fadd q x c ret)
       r.1.rd q 4 = z.1 % 2 ^ 32 ∧ (∀ j, j < q ∨ q + 4 ≤ j → readByte r.1.mem j = readByte s.mem j) ∧
       (ret = true → r.2 = .flags { v := BitVec.ofNat 64 w, p := s.poisoned q } z.2) ∧
       (ret = false → r.2 = .none ∧ (r.1.tileAt h).raflags = ((s.tileAt h).raflags ||| z.2)))

/-- R206 to R208: the barrier words whose checks pass make their access; BINIT refuses an expected count that is zero or over
65,535. A BWAIT on the word's own tile reads the object at once: it ends with code 3 where the object is not armed, with 0
where its phase is another, with 1 where the limit is 0, and waits otherwise; one on another tile waits for a read over the
mesh. A word whose checks fail traps. R206, R207: what BINIT leaves at its object, and an arrival on an object that is armed:
below the expected count it is counted; the arrival that reaches it advances the phase by one modulo 16 and sets the count
back to zero; one past it sets the overflow bit. An object that is not armed is left.
Log 18, 23, 92: the model's own readings and choices that it rests on. -/
def Obligations.Barriers : Prop :=
  (∀ (f : FLx) (g : FBinit) (s v u : State) (l : Loc) (e : Nat × Nat),
     let chk := fun (i : Instr) (st : Bool) (o : State) =>
       o.check ((o.srcS i 0).p || (o.srcS i 1).p) (o.srcS i 0).v.toNat 16 16 st true false
     (CompletesIf s (.barv f) (fun o => chk (.barv f) true o = .ok l) fun o =>
       o.issueAct l f.o (.barv l.key (o.srcS (.barv f) 1).v.toNat o.iss.pre.gangidx) (if f.w then .s f.d true else .none) f.w) ∧
     TrapsIf s (.barv f) (fun o => chk (.barv f) true o = .error e) e.1 e.2 ∧
     (CompletesIf s (.binit g) (fun o => chk (.binit g) true o = .ok l ∧ 0 < (o.srcS (.binit g) 1).v.toNat ∧
         (o.srcS (.binit g) 1).v.toNat < 65536) fun o =>
       o.issueAct l g.o (.binit l.key (o.srcS (.binit g) 1).v.toNat) .none false) ∧
     TrapsIf s (.binit g) (fun o => chk (.binit g) true o = .ok l ∧
       ((o.srcS (.binit g) 1).v = 0 ∨ 65536 ≤ (o.srcS (.binit g) 1).v.toNat)) 0x03 0 ∧
     TrapsIf s (.binit g) (fun o => chk (.binit g) true o = .error e) e.1 e.2 ∧
     (let x := fun (o : State) => (o.srcS (.bwait f) 1).v.toNat
      let here := fun (o : State) => chk (.bwait f) false o = .ok l ∧ l.remote = false ∧ o.sramReads [l.key / 8] = (v, u)
      let w0 := v.rd l.key 8
      let ends := fun (code : Nat) => u.resS (.bwait f) f.d f.w { v := barStatus code w0, p := v.poisoned l.key }
      let wait := fun (o : State) (last : Option SVal) => WaitKind.bwait f.d f.w (o.srcS (.bwait f) 0).v f.o (BitVec.ofNat 4 (x o))
        (o.tileAt o.iss.tile).cycle.toNat (x o / 256) last
      (CompletesIf s (.bwait f) (fun o => here o ∧ w0.testBit 37 = false) fun _ => ends 3) ∧
      (CompletesIf s (.bwait f) (fun o => here o ∧ w0.testBit 37 = true ∧ w0 / 2 ^ 32 % 16 ≠ x o % 16) fun _ => ends 0) ∧
      (CompletesIf s (.bwait f) (fun o => here o ∧ w0.testBit 37 = true ∧ w0 / 2 ^ 32 % 16 = x o % 16 ∧ x o < 256) fun _ => ends 1) ∧
      (let o := s.openBundle
       s.turn (.bwait f) = true → here o → w0.testBit 37 = true → w0 / 2 ^ 32 % 16 = x o % 16 → 256 ≤ x o →
         exec (.bwait f) s = .next (o.awaits (.bwait f) (wait u (some { v := BitVec.ofNat 64 w0, p := v.poisoned l.key })) u)) ∧
      (let o := s.openBundle
       s.turn (.bwait f) = true → chk (.bwait f) false o = .ok l → l.remote = true →
         exec (.bwait f) s = .next (o.awaits (.bwait f) (wait o none) o)) ∧
      (s.quiet = true → ∀ l, s.sramReads l = (s, s))) ∧
     TrapsIf s (.bwait f) (fun o => chk (.bwait f) false o = .error e) e.1 e.2) ∧
  ((∀ (s : State) (h key n gidx : Nat), s.quiet = true → key % 16 = 0 →
     (let r := s.apply h (.barv key n gidx)
      let z := barvWord (s.rd key 8) n gidx s.time.toNat
      r.2 = .s { v := BitVec.ofNat 64 (z.2.1 * 2 ^ 56 + z.1 % 2 ^ 38), p := s.poisoned key } ∧ r.1.rd key 8 = z.1 % 2 ^ 64 ∧
      r.1.rd (key + 8) 8 = z.2.2.getD (s.rd (key + 8) 8) % 2 ^ 64 ∧
      ∀ j, j < key ∨ key + 16 ≤ j → readByte r.1.mem j = readByte s.mem j) ∧
     (0 < n → n < 65536 →
      let r := s.apply h (.binit key n)
      r.2 = .none ∧ r.1.rd key 8 = n + 2 ^ 37 ∧ r.1.rd (key + 8) 8 = 0 ∧ r.1.poisoned key = false ∧ r.1.poisoned (key + 8) = false ∧
      ∀ j, j < key ∨ key + 16 ≤ j → readByte r.1.mem j = readByte s.mem j)) ∧
   ∀ (w0 k gidx time : Nat), w0 < 2 ^ 64 →
     let ex := w0 % 2 ^ 16
     let ar := w0 / 2 ^ 16 % 2 ^ 16
     let r := barvWord w0 k gidx time
     (w0.testBit 37 = false → r = (w0, 3, none)) ∧
     (w0.testBit 37 = true → k = 0 ∨ 65535 < k → r = (w0, 4, none)) ∧
     (w0.testBit 37 = true → 0 < k → k ≤ 65535 → ar + k < ex → r.2.1 = 0 ∧ r.2.2 = none ∧
       r.1 / 2 ^ 16 % 2 ^ 16 = ar + k ∧ r.1 % 2 ^ 16 = ex ∧ r.1 / 2 ^ 32 = w0 / 2 ^ 32) ∧
     (w0.testBit 37 = true → 0 < k → k ≤ 65535 → ar + k = ex → r.2.1 = 1 ∧
        r.2.2 = (if w0.testBit 36 then none else some time) ∧ r.1 / 2 ^ 16 % 2 ^ 16 = 0 ∧
       r.1 % 2 ^ 16 = ex ∧ r.1 / 2 ^ 32 % 16 = (w0 / 2 ^ 32 % 16 + 1) % 16 ∧ r.1 / 2 ^ 36 = w0 / 2 ^ 36) ∧
     (w0.testBit 37 = true → 0 < k → k ≤ 65535 → ex < ar + k → r.2.1 = 2 ∧ r.1.testBit 36 = true ∧ r.1 % 2 ^ 36 = w0 % 2 ^ 36 ∧
       r.1 / 2 ^ 37 = w0 / 2 ^ 37 ∧ r.2.2 = if w0.testBit 36 then none else some gidx))

/-- R296, R302: FENCE holds, behind every access under way of its classes and scope, the later accesses of its classes; XFENCE completes
once it has issued. Neither changes memory or a register. Log 59, 90: the model's own readings and choices that it rests on. -/
def Obligations.FenceWords : Prop :=
  ∀ (f : FFence) (g : FXfence) (s : State),
    (Completes s (.fence f) fun o =>
      { o with mesh := o.mesh.map fun r =>
          if (r.tile = o.iss.tile ∧ r.slot = o.iss.slot ∧ r.res = none) ∧ f.m.getLsbD r.cls.toNat = true ∧
            ∃ h ∈ r.homes, f.s = 0 ∧ h = o.iss.tile ∨ f.s = 1 ∧ dieOf h = dieOf o.iss.tile ∨ 2 ≤ f.s.toNat
          then { r with holds := r.holds ++ [(f.s.toNat, f.m)] } else r }) ∧
    Completes s (.xfence g) fun o => o

/-! ## Words of the V class -/

/-- R14, R45, R123, R125, R128, R131: the two-source integer words, element by element, under the lane mask. -/
def Obligations.VectorIntegerWords : Prop :=
  ∀ (f : FVr) (s : State),
    let o := s.openBundle
    let w := 2 ^ f.e.toNat
    let n := 8 * w
    let C := fun (i : Instr) (op : Nat → Nat → Nat) => s.turn i = true →
      let a := o.srcV i 0
      let b := o.srcV i 1
      ∃ r, exec i s = .next (o.finish i (o.resV i f.d f.w r)) ∧
        LanesAre o.mask w w (256 / w) (o.oldV f.d f.w) r (fun j => op (elem a.v.toNat w j) (elem b.v.toNat w j))
          (fun j => chunkP a (j * w) || chunkP b (j * w))
    let sat := fun (x : Int) => if x < -2 ^ (n - 1) then (-2 ^ (n - 1) : Int) else if 2 ^ (n - 1) - 1 < x then 2 ^ (n - 1) - 1 else x
    let low := fun (x : Int) => (x % 2 ^ n).toNat
    C (.vadd f) (fun a b => a + b) ∧ C (.vsub f) (fun a b => low (a - b)) ∧ C (.vmul f) (fun a b => a * b) ∧
    C (.vmulh f) (fun a b => low (signed a n * signed b n / 2 ^ n)) ∧ C (.vmulhu f) (fun a b => a * b / 2 ^ n) ∧
    C (.vand f) (fun a b => a &&& b) ∧ C (.vor f) (fun a b => a ||| b) ∧ C (.vxor f) (fun a b => a ^^^ b) ∧
    C (.vshl f) (fun a b => a * 2 ^ (b % n)) ∧ C (.vshr f) (fun a b => a / 2 ^ (b % n)) ∧
    C (.vsra f) (fun a b => low (signed a n / 2 ^ (b % n))) ∧
    C (.vmin f) (fun a b => if signed b n < signed a n then b else a) ∧
    C (.vmax f) (fun a b => if signed a n < signed b n then b else a) ∧
    C (.vminu f) (fun a b => min a b) ∧ C (.vmaxu f) (fun a b => max a b) ∧
    C (.vadds f) (fun a b => low (sat (signed a n + signed b n))) ∧ C (.vsubs f) (fun a b => low (sat (signed a n - signed b n)))

/-- R129: VMAC and VDOT4 accumulate into the old value of vd. R127, R130: VMULW and VADDW widen: the low half of the elements goes
to vd, the high half to vd + 1, each under its elements' own bits of the lane mask. -/
def Obligations.VectorAccumulatingWords : Prop :=
  (∀ (f : FVr) (s : State),
     let o := s.openBundle
     let w := 2 ^ f.e.toNat
     let n := 8 * w
     let C := fun (i : Instr) (op : Nat → Nat → Nat → Nat) => s.turn i = true →
       let x := fun k j => elem (o.srcV i k).v.toNat w j
       let p := fun k j => chunkP (o.srcV i k) (j * w)
       ∃ r, exec i s = .next (o.finish i (o.resV i f.d f.w r)) ∧
         LanesAre o.mask w w (256 / w) (o.oldV f.d f.w) r (fun j => op (x 0 j) (x 1 j) (x 2 j)) (fun j => p 0 j || p 1 j || p 2 j)
     let part := fun (x t : Nat) => signed (x / 2 ^ (n / 4 * t) % 2 ^ (n / 4)) (n / 4)
     C (.vmac f) (fun a b c => c + a * b) ∧
     C (.vdot4 f) (fun a b c =>
       (((c : Int) + part a 0 * part b 0 + part a 1 * part b 1 + part a 2 * part b 2 + part a 3 * part b 3) % 2 ^ n).toNat)) ∧
  (∀ (f : FVr) (s : State), f.e ≠ 3 →
     let o := s.openBundle
     let w := 2 ^ f.e.toNat
     let n := 8 * w
     let h := 256 / w / 2
     let C := fun (i : Instr) (op : Int → Int → Int) => s.turn i = true →
       let x := fun k j => elem (o.srcV i k).v.toNat w j
       let p := fun k j => chunkP (o.srcV i k) (j * w)
       let v := fun j => (op (signed (x 0 j) n) (signed (x 1 j) n) % 2 ^ (2 * n)).toNat
       ∃ lo hi, exec i s = .next (o.finish i ((o.resV i f.d f.w lo).resV i (f.d + 1) f.w hi)) ∧
         LanesAre o.mask w (2 * w) h (o.oldV f.d f.w) lo v (fun j => p 0 j || p 1 j) ∧
         LanesAre (o.mask >>> 128) w (2 * w) h (o.oldV (f.d + 1) f.w) hi (fun j => v (h + j)) (fun j => p 0 (h + j) || p 1 (h + j))
     C (.vmulw f) (fun a b => a * b) ∧ C (.vaddw f) (fun a b => a + b))

/-- R128, R131, R134: the one-source integer words, those with an immediate, and VMOV and VBCAST. -/
def Obligations.VectorOneSourceWords : Prop :=
  ∀ (f : FV1) (g : FVi) (s : State),
    let o := s.openBundle
    let R := fun (i : Instr) (d : BitVec 5) (wr : Bool) (w : Nat) (op : Nat → Nat) => s.turn i = true →
      let a := o.srcV i 0
      ∃ r, exec i s = .next (o.finish i (o.resV i d wr r)) ∧
        LanesAre o.mask w w (256 / w) (o.oldV d wr) r (fun j => op (elem a.v.toNat w j)) (fun j => chunkP a (j * w))
    let w := 2 ^ f.e.toNat
    let v := 2 ^ g.e.toNat
    R (.vabs f) f.d f.w w (fun a => (signed a (8 * w)).natAbs) ∧ R (.vneg f) f.d f.w w (fun a => 2 ^ (8 * w) - a) ∧
    R (.vmov f) f.d f.w w (fun a => a) ∧
    R (.vshli g) g.d g.w v (fun a => a * 2 ^ immU (o.words (.vshli g)) (.vshli g)) ∧
    R (.vshri g) g.d g.w v (fun a => a / 2 ^ immU (o.words (.vshri g)) (.vshri g)) ∧
    R (.vsrai g) g.d g.w v (fun a => (signed a (8 * v) / 2 ^ immU (o.words (.vsrai g)) (.vsrai g) % 2 ^ (8 * v)).toNat) ∧
    R (.vaddi g) g.d g.w v (fun a => (((a : Int) + immS (o.words (.vaddi g)) (.vaddi g)) % 2 ^ (8 * v)).toNat) ∧
    (s.turn (.vbcast f) = true →
      let a := o.srcS (.vbcast f) 0
      ∃ r, exec (.vbcast f) s = .next (o.finish (.vbcast f) (o.resV (.vbcast f) f.d f.w r)) ∧
        LanesAre o.mask w w (256 / w) (o.oldV f.d f.w) r (fun _ => a.v.toNat) (fun _ => a.p))

/-- R124, R125, R132, R138: a compare sets the groups of its active elements and keeps the others, ORs the flags of active
elements into FCSR, and raises POISON where an active element is poisoned or a source is a poisoned scalar that a latch holds
(R40). R124, R133: the predicate words work bit by bit under the lane mask; PPOPC counts the ones and PFIRST finds the lowest
one, or 256. -/
def Obligations.CompareAndPredicateWords : Prop :=
  (∀ (f : FVr) (s : State),
     let o := s.openBundle
     let C := fun (i : Instr) (w : Nat) (op : Nat → Nat → Bool × Flags) => s.turn i = true →
       let a := fun j => elem (o.srcV i 0).v.toNat w j
       let b := fun j => elem (o.srcV i 1).v.toNat w j
       let on := fun j => active o.mask w j
       let scalar := ∃ (k : Nat) (n : BitVec 6) (x : SVal), k < 2 ∧ State.opd i k = .v n ∧ 0x20 ≤ n.toNat ∧ n.toNat < 0x28 ∧
         o.iss.pre.lat.getD (n.toNat - 0x20) .empty = .scalar x ∧ (o.srcV i k).p ≠ 0
       let bad := scalar ∨ ∃ j < 256 / w, on j = true ∧ (chunkP (o.srcV i 0) (j * w) || chunkP (o.srcV i 1) (j * w)) = true
       (bad → exec i s = .next (o.fails i 0x0D 0 o)) ∧
       (¬ bad → ∃ (q : Pred) (fl : Flags), exec i s = .next (o.finish i ((o.resP f.d q).orFcsr fl)) ∧
         (∀ k < 256, q.getLsbD k = if on (k / w) then (op (a (k / w)) (b (k / w))).1 else (o.iss.pre.preg f.d.toNat).getLsbD k) ∧
         ∀ k < 5, fl.getLsbD k = true ↔ ∃ j < 256 / w, on j = true ∧ (op (a j) (b j)).2.getLsbD k = true)
     let w := 2 ^ f.e.toNat
     let I := fun (i : Instr) (op : Nat → Nat → Bool) => C i w (fun a b => (op a b, 0))
     let F := fun (i : Instr) (op : Fv → Fv → Bool × Flags) =>
       C i (if f.e = 0 then 4 else 2) (fun a b => op ((fpOfEs f.e).decode a) ((fpOfEs f.e).decode b))
     I (.vceq f) (fun a b => decide (a = b)) ∧ I (.vcne f) (fun a b => decide (a ≠ b)) ∧
     I (.vclt f) (fun a b => decide (signed a (8 * w) < signed b (8 * w))) ∧
     I (.vcle f) (fun a b => decide (signed a (8 * w) ≤ signed b (8 * w))) ∧
     I (.vcltu f) (fun a b => decide (a < b)) ∧ I (.vcleu f) (fun a b => decide (a ≤ b)) ∧
     F (.vfceq f) fpEq ∧ F (.vfclt f) fpLt ∧ F (.vfcle f) fpLe ∧ F (.vfcun f) fpUn) ∧
  (∀ (f : FVp) (g : FVp1) (s : State),
     let C := fun (i : Instr) (d : BitVec 5) (op : Pred → Pred → Pred) => Completes s i fun o =>
       o.resP d ((o.iss.pre.preg d.toNat &&& ~~~o.mask) ||| (op (o.srcP i 0) (o.srcP i 1) &&& o.mask))
     let R := fun (i : Instr) (q : Pred → Nat → Prop) => s.turn i = true → ∃ n, q (s.openBundle.srcP i 0) n ∧
       exec i s = .next (s.openBundle.finish i (s.openBundle.resS i g.d g.w { v := BitVec.ofNat 64 n }))
     C (.pand f) f.d (fun a b => a &&& b) ∧ C (.por f) f.d (fun a b => a ||| b) ∧ C (.pxor f) f.d (fun a b => a ^^^ b) ∧
     C (.pandn f) f.d (fun a b => a &&& ~~~b) ∧ C (.pnot g) g.d (fun a _ => ~~~a) ∧
     C (.pany g) g.d (fun a _ => if a = 0 then 0 else BitVec.allOnes 256) ∧
     R (.ppopc g) (fun a n => n = ((List.range 256).filter fun k => a.getLsbD k).length) ∧
     R (.pfirst g) (fun a n => (a = 0 → n = 256) ∧ (a ≠ 0 → a.getLsbD n = true ∧ ∀ k < n, a.getLsbD k = false)))

/-- R134, R59: the slides, VPERM, VTOS and VINS. -/
def Obligations.VectorMoveWords : Prop :=
  ∀ (f : FVr) (s : State),
    let o := s.openBundle
    let w := 2 ^ f.e.toNat
    let n := 256 / w
    let a := fun i j => elem (o.srcV i 0).v.toNat w j
    let pa := fun i j => chunkP (o.srcV i 0) (j * w)
    let cnt := fun i => (o.srcS i 1).v.toNat
    let R := fun (i : Instr) (mask : Pred) (op : Nat → Nat) (mark : Nat → Bool) => s.turn i = true →
      ∃ r, exec i s = .next (o.finish i (o.resV i f.d f.w r)) ∧ LanesAre mask w w n (o.oldV f.d f.w) r op mark
    R (.vslup f) o.mask (fun j => if cnt (.vslup f) ≤ j then a (.vslup f) (j - cnt (.vslup f)) else 0)
      (fun j => (o.srcS (.vslup f) 1).p || (decide (cnt (.vslup f) ≤ j) && pa (.vslup f) (j - cnt (.vslup f)))) ∧
    R (.vsldn f) o.mask (fun j => if j + cnt (.vsldn f) < n then a (.vsldn f) (j + cnt (.vsldn f)) else 0)
      (fun j => (o.srcS (.vsldn f) 1).p || (decide (j + cnt (.vsldn f) < n) && pa (.vsldn f) (j + cnt (.vsldn f)))) ∧
    (let x := fun j => elem (o.srcV (.vperm f) 1).v.toNat w j % n
     R (.vperm f) o.mask (fun j => a (.vperm f) (x j))
      (fun j => pa (.vperm f) (x j) || chunkP (o.srcV (.vperm f) 1) (j * w))) ∧
    (Completes s (.vtos f) fun o =>
      o.resS (.vtos f) f.d f.w {
        v := BitVec.ofInt 64 (signed (elem (o.srcV (.vtos f) 0).v.toNat w ((o.srcS (.vtos f) 1).v.toNat % n)) (8 * w)),
                                 p := chunkP (o.srcV (.vtos f) 0) ((o.srcS (.vtos f) 1).v.toNat % n * w) || (o.srcS (.vtos f) 1).p }) ∧
    R (.vins f) (o.mask &&& BitVec.ofNat 256 (2 ^ (cnt (.vins f) % n * w))) (fun _ => (o.srcS (.vins f) 0).v.toNat)
      (fun _ => (o.srcS (.vins f) 0).p || (o.srcS (.vins f) 1).p)

/-- R135: the integer reductions, over elements read as signed numbers; the lane mask has no part in them. R135: the floating-
point reductions are a pairwise tree of seven levels, each node rounded on its own. -/
def Obligations.VectorReductions : Prop :=
  (∀ (f : FV1) (s : State),
     let o := s.openBundle
     let w := 2 ^ f.e.toNat
     let l := fun i => (List.range (256 / w)).map fun j => signed (elem (o.srcV i 0).v.toNat w j) (8 * w)
     let R := fun (i : Instr) (q : Int → Prop) => s.turn i = true → ∃ x, q x ∧
       exec i s = .next (o.finish i (o.resS i f.d f.w { v := BitVec.ofInt 64 x, p := (o.srcV i 0).p != 0 }))
     R (.vradd f) (fun x => x = (l (.vradd f)).sum) ∧
     R (.vrmax f) (fun x => x ∈ l (.vrmax f) ∧ ∀ y ∈ l (.vrmax f), y ≤ x) ∧
     R (.vrmin f) (fun x => x ∈ l (.vrmin f) ∧ ∀ y ∈ l (.vrmin f), x ≤ y)) ∧
  (∀ (f : FV1) (s : State),
     let C := fun (i : Instr) (op : FpFmt → Nat → Nat → Nat → Nat × Flags) => Completes s i fun o =>
       let w := if f.e = 0 then 4 else 2
       let node := fun (x y : Nat × Flags) =>
         let r := op (fpOfEs f.e) o.iss.pre.rm x.1 y.1
         (r.1, x.2 ||| y.2 ||| r.2)
       let r := (tree node 7 ((List.range (256 / w)).map fun j => (elem (o.srcV i 0).v.toNat w j, (0 : Flags)))).headD (0, 0)
       (o.resS i f.d f.w { v := BitVec.ofNat 64 r.1, p := (o.srcV i 0).p != 0 }).orFcsr r.2
     C (.vrfadd f) (fun g rm x y => fpAdd g rm (g.decode x) (g.decode y)) ∧ C (.vrfmax f) (fun g _ x y => fpMinMax g false x y))

/-- R136, R137, R139: the floating-point words and the conversions, element by element; the flags of active elements are ORed into
FCSR. What fpAdd, fpMul and the others give is stated in ScalarFloatWords.
Log 73, 97: the model's own readings and choices that it rests on. -/
def Obligations.VectorFloatWords : Prop :=
  ∀ (f : FVr) (g : FV1) (s : State),
    let o := s.openBundle
    let rm := o.iss.pre.rm
    let R := fun (i : Instr) (d : BitVec 5) (wr : Bool) (e : BitVec 2) (op : Nat → Nat × Flags) (mark : Nat → Bool) =>
      s.turn i = true →
      let w := if e = 0 then 4 else 2
      ∃ r fl, exec i s = .next (o.finish i ((o.resV i d wr r).orFcsr fl)) ∧
        LanesAre o.mask w w (256 / w) (o.oldV d wr) r (fun j => (op j).1) mark ∧
        ∀ k < 5, fl.getLsbD k = true ↔ ∃ j < 256 / w, active o.mask w j = true ∧ (op j).2.getLsbD k = true
    let x := fun (i : Instr) (e : BitVec 2) k j => elem (o.srcV i k).v.toNat (if e = 0 then 4 else 2) j
    let p := fun (i : Instr) (e : BitVec 2) k j => chunkP (o.srcV i k) (j * if e = 0 then 4 else 2)
    let B := fun (i : Instr) (op : FpFmt → Nat → Nat → Nat × Flags) =>
      R i f.d f.w f.e (fun j => op (fpOfEs f.e) (x i f.e 0 j) (x i f.e 1 j)) (fun j => p i f.e 0 j || p i f.e 1 j)
    let U := fun (i : Instr) (op : FpFmt → Nat → Nat × Flags) =>
      R i g.d g.w g.e (fun j => op (fpOfEs g.e) (x i g.e 0 j)) (fun j => p i g.e 0 j)
    let T := fun (i : Instr) (neg : Bool) =>
      let q := fpOfEs f.e
      R i f.d f.w f.e (fun j => fpFma q rm (q.decode (x i f.e 0 j)) (q.decode (x i f.e 1 j))
        (if neg then (q.decode (x i f.e 2 j)).negate else q.decode (x i f.e 2 j))) (fun j => p i f.e 0 j || p i f.e 1 j || p i f.e 2 j)
    let bitsOf := fun (q : FpFmt) => if q = fp32 then 32 else 16
    B (.vfadd f) (fun q a b => fpAdd q rm (q.decode a) (q.decode b)) ∧
    B (.vfsub f) (fun q a b => fpAdd q rm (q.decode a) (q.decode b).negate) ∧
    B (.vfmul f) (fun q a b => fpMul q rm (q.decode a) (q.decode b)) ∧
    B (.vfdiv f) (fun q a b => fpDiv q rm (q.decode a) (q.decode b)) ∧
    B (.vfmin f) (fun q a b => fpMinMax q true a b) ∧ B (.vfmax f) (fun q a b => fpMinMax q false a b) ∧
    T (.vfma f) false ∧ T (.vfms f) true ∧
    U (.vfabs g) (fun q a => (a % 2 ^ (q.e + q.m), 0)) ∧ U (.vfneg g) (fun q a => (a ^^^ 2 ^ (q.e + q.m), 0)) ∧
    U (.vfsqrt g) (fun q a => fpSqrt q rm (q.decode a)) ∧ U (.vfrsq g) (fun q a => fpRsqrt q rm (q.decode a)) ∧
    U (.vcvtif g) (fun q a => fpOfInt q rm (signed a (bitsOf q))) ∧
    U (.vcvtfi g) (fun q a =>
      let y := fpToInt rm (-2 ^ (bitsOf q - 1)) (2 ^ (bitsOf q - 1) - 1) (q.decode a)
      ((y.1 % 2 ^ bitsOf q).toNat, y.2))

/-- R140, R141: packing and unpacking of 64 lanes, and the residue words. -/
def Obligations.PackAndResidueWords : Prop :=
  ∀ (f : FV1) (g : FVp) (h : FVp1) (s : State),
    let o := s.openBundle
    let R := fun (i : Instr) (d : BitVec 5) (wr : Bool) (w n : Nat) (op : Nat → Nat) (mark : Nat → Bool) => s.turn i = true →
      ∃ r, exec i s = .next (o.finish i (o.resV i d wr r)) ∧ LanesAre o.mask 4 w n (o.oldV d wr) r op mark
    let P := fun (i : Instr) (w fmt : Nat) => s.turn i = true →
      let op := fun j => packLane fmt (o.iss.pre.recs.getD o.iss.pre.prsel.toNat 0) o.iss.pre.rm (elem (o.srcV i 0).v.toNat 4 j)
      ∃ r fl, exec i s = .next (o.finish i ((o.resV i f.d f.w r).orFcsr fl)) ∧
        LanesAre o.mask 4 w 64 (o.oldV f.d f.w) r (fun j => (op j).1) (fun j => chunkP (o.srcV i 0) (j * 4)) ∧
        ∀ k < 5, fl.getLsbD k = true ↔ ∃ j < 64, active o.mask 4 j = true ∧ (op j).2.getLsbD k = true
    let U := fun (i : Instr) (w fmt : Nat) =>
      R i f.d f.w 4 64 (fun j => (decodeElem fmt (elem (o.srcV i 0).v.toNat w j) 0).1) (fun j => chunkP (o.srcV i 0) (j * w))
    let x := fun i k j => elem (o.srcV i k).v.toNat 4 j
    let p := fun i k j => chunkP (o.srcV i k) (j * 4)
    P (.vpack8 f) 1 (if f.e = 0 then 4 else if f.e = 1 then 5 else 7) ∧ P (.vpack16 f) 2 (if f.e = 0 then 2 else if f.e = 1 then 3 else 8) ∧
    U (.vunpk8 f) 1 (if f.e = 0 then 4 else if f.e = 1 then 5 else 7) ∧ U (.vunpk16 f) 2 (if f.e = 0 then 2 else if f.e = 1 then 3 else 8) ∧
    R (.vrnse h) h.d h.w 4 64 (fun j => rnsOf (signed (x (.vrnse h) 0 j) 32)) (p (.vrnse h) 0) ∧
    R (.vrnsd h) h.d h.w 4 64 (fun j => (rnsCrt (x (.vrnsd h) 0 j) % 2 ^ 32).toNat) (p (.vrnsd h) 0) ∧
    R (.vrnsadd g) g.d g.w 4 64 (fun j => rnsAdd (x (.vrnsadd g) 0 j) (x (.vrnsadd g) 1 j))
      (fun j => p (.vrnsadd g) 0 j || p (.vrnsadd g) 1 j) ∧
    R (.vrnsmul g) g.d g.w 4 64 (fun j => rnsMul (x (.vrnsmul g) 0 j) (x (.vrnsmul g) 1 j))
      (fun j => p (.vrnsmul g) 0 j || p (.vrnsmul g) 1 j) ∧
    R (.vrnsmac g) g.d g.w 4 64 (fun j => rnsAdd (x (.vrnsmac g) 2 j) (rnsMul (x (.vrnsmac g) 0 j) (x (.vrnsmac g) 1 j)))
      (fun j => p (.vrnsmac g) 0 j || p (.vrnsmac g) 1 j || p (.vrnsmac g) 2 j)

/-- R13, R14, R15, R17: a vector result enters the physical register of its name and the front latch of its pipe; a predicate result
enters its register under its name, p0 discards it; every other register of the file, the scalar registers and all memory stay. -/
def Obligations.VectorAndPredicateResults : Prop :=
  ∀ (s : State) (i : Instr) (d : BitVec 5) (w : Bool) (x : VVal) (q : Pred), (s.ctx? s.iss.tile s.iss.slot).isSome →
    s.cur.v.length = 32 → s.cur.p.length = 8 → s.cur.lat.length = 8 →
    let u := s.resV i d w x
    let z := s.resP d q
    let r := physV s.iss.pre.vrb d.toNat
    let r' := physP s.iss.pre.prb d.toNat
    SameBut s.iss.tile s.iss.slot s u ∧ SameBut s.iss.tile s.iss.slot s z ∧ (∀ k, readByte u.mem k = readByte s.mem k) ∧
    (∀ k, readByte z.mem k = readByte s.mem k) ∧ (w = true → u.cur.v.getD r {} = x) ∧
    (∀ n < 32, n ≠ r ∨ w = false → u.cur.v.getD n {} = s.cur.v.getD n {}) ∧ u.cur.s = s.cur.s ∧ u.cur.p = s.cur.p ∧
    (∀ k < 4, s.pipe i = some k → u.cur.lat.getD (2 * k) .empty = .vector x ∧
      u.cur.lat.getD (2 * k + 1) .empty = s.cur.lat.getD (2 * k) .empty) ∧
    (d = 0 → z = s) ∧ (d ≠ 0 → d.toNat < 8 → z.cur.p.getD r' 0 = q) ∧
    (∀ n < 8, n ≠ r' ∨ d = 0 → z.cur.p.getD n 0 = s.cur.p.getD n 0) ∧ z.cur.v = s.cur.v ∧ z.cur.s = s.cur.s ∧ z.cur.lat = s.cur.lat

/-! ## The matrix engine -/

/-- R148, R163 to R167, R169, R172, R350: the words that load the shadow descriptor, ask for or change the state of the engine. A
command is accepted with the next sequence number, which its register receives (R148, R165); a full queue holds the word
(R148). R148, R168, R170: MCLR and MWB are accepted when their operands pass, and trap in the order of their checks otherwise;
a full queue holds them. Log 27, 57, 58, 98: the model's own readings and choices that it rests on. -/
def Obligations.MatrixEngineWords : Prop :=
  (∀ (a : FA) (m : FMset) (f : FD) (g : FAd) (s o1 : State) (x : Nat) (e : Nat × Nat),
     let o := s.openBundle
     let t := o.iss.tile
     let shadow := fun (o : State) (v : Vec) => o.modCur fun c => { c with shadow := v }
     let seq := fun (o : State) => o.iss.pre.alias1 3 ((o.srcS (.mwait g) 0).v.setWidth 32)
     let sreg := fun (o : State) (d : BitVec 5) (v : W64) => o.modCur fun c => c.setS d.toNat { v := v }
     (CompletesIf s (.mldtScalar a) (fun o => readDesc o (o.srcS (.mldtScalar a) 0) 256 true = (.ok x, o1)) fun _ =>
       shadow o1 (BitVec.ofNat 2048 x)) ∧
     (s.turn (.mldtScalar a) = true → readDesc o (o.srcS (.mldtScalar a) 0) 256 true = (.error e, o1) →
       exec (.mldtScalar a) s = .next (o.fails (.mldtScalar a) e.1 e.2 o1)) ∧
     (CompletesIf s (.mldtVector a) (fun o => (o.srcV (.mldtVector a) 0).p = 0) fun o => shadow o (o.srcV (.mldtVector a) 0).v) ∧
     TrapsIf s (.mldtVector a) (fun o => (o.srcV (.mldtVector a) 0).p ≠ 0) 0x0D 0 ∧
     (CompletesIf s (.mset m) (fun o => (o.srcS (.mset m) 0).p = false) fun o => o.modCur fun c =>
       { c with
         shadow := BitVec.ofNat 2048
           (setBits c.shadow.toNat (64 * immU (o.words (.mset m)) (.mset m)) 64 (o.srcS (.mset m) 0).v.toNat) }) ∧
     TrapsIf s (.mset m) (fun o => (o.srcS (.mset m) 0).p = true) 0x0D 0 ∧
     (CompletesIf s (.mgo f) (fun o => (o.tileAt o.iss.tile).mq.length < 4 ∧ shadowOk o.iss.pre.shadow o.iss.pre.gangsize = true)
       fun o =>
         let c := o.iss.pre
         let n := (o.tileAt t).mseq + 1
         let k := MKind.go (splitDesc c.shadow c.split) (c.recs.getD (mdPRA c.shadow) 0) (c.recs.getD (mdPRB c.shadow) 0)
         sreg (o.modTile t fun y => { y with mseq := n, mq := y.mq ++ [{ seq := n, slot := o.iss.slot, kind := k }] })
           f.d (n.setWidth 64)) ∧
     TrapsIf s (.mgo f) (fun o => (o.tileAt o.iss.tile).mq.length < 4 ∧ shadowOk o.iss.pre.shadow o.iss.pre.gangsize = false) 0x10 0 ∧
     (s.turn (.mgo f) = true → 4 ≤ (o.tileAt t).mq.length → exec (.mgo f) s = .next s) ∧
     (Completes s (.mstat f) fun o =>
       (sreg o f.d (matStatus (o.tileAt o.iss.tile) o.iss.slot o.cur)).modCur fun c => { c with mflags := 0, merr := 0 }) ∧
     (CompletesIf s (.mwait g) (fun o => (o.srcS (.mwait g) 0).p = false ∧
         ((o.tileAt o.iss.tile).mdone - seq o).toNat < 2 ^ 31) fun o =>
       let q := o.modIss fun y => { y with switch := true }
       sreg q g.d (matStatus (q.tileAt q.iss.tile) q.iss.slot q.cur)) ∧
     (s.turn (.mwait g) = true → (o.srcS (.mwait g) 0).p = false →
       2 ^ 31 ≤ ((o.tileAt t).mdone - seq o).toNat →
       exec (.mwait g) s = .next (o.awaits (.mwait g) (.mwait g.d (seq o))
         (o.modIss fun y => { y with switch := true }))) ∧
     TrapsIf s (.mwait g) (fun o => (o.srcS (.mwait g) 0).p = true) 0x0D 0 ∧
     (Completes s (.mabort f) fun o =>
       let q := o.modTile o.iss.tile fun y => (y.abortMatrix o.iss.slot).popMatrix
       sreg q f.d (matStatus (q.tileAt q.iss.tile) q.iss.slot q.cur)) ∧
     (CompletesIf s (.msplit a) (fun o => readDesc o (o.srcS (.msplit a) 0) 64 false = (.ok x, o1) ∧
         splitOk (BitVec.ofNat 512 x) o1.iss.pre.gangsize = true) fun _ =>
       o1.modCur fun c => { c with split := BitVec.ofNat 512 x }) ∧
     (s.turn (.msplit a) = true → readDesc o (o.srcS (.msplit a) 0) 64 false = (.ok x, o1) →
       splitOk (BitVec.ofNat 512 x) o1.iss.pre.gangsize = false → exec (.msplit a) s = .next (o.fails (.msplit a) 0x10 0 o1)) ∧
     (s.turn (.msplit a) = true → readDesc o (o.srcS (.msplit a) 0) 64 false = (.error e, o1) →
       exec (.msplit a) s = .next (o.fails (.msplit a) e.1 e.2 o1)) ∧
     -- the number that a sequence number of the context stands for, where pre-emption has given its command another (R350)
     (∀ (c : Ctx) (n : BitVec 32), (∀ x ∈ c.aliases, (x.1, x.2.1) ≠ (3, n)) → c.alias1 3 n = n) ∧
     ∀ (c : Ctx) (n k : BitVec 32), c.aliases.find? (fun x => x.1 == 3 && x.2.1 == n) = some (3, n, k) → c.alias1 3 n = k) ∧
  (∀ (f : FMclr) (g : FAd) (s o1 : State) (x : Nat) (e : Nat × Nat),
     let at0 := fun (o : State) => (o.tileAt o.iss.tile).mq.length < 4 ∧ (o.srcS (.mclr f) 0).p = false ∧ (o.srcS (.mclr f) 1).p = false ∧
       0x800000 ≤ (o.srcS (.mclr f) 0).v.toNat ∧ (o.srcS (.mclr f) 0).v.toNat < 0xB00000
     (CompletesIf s (.mclr f) (fun o => (o.tileAt o.iss.tile).mq.length < 4 ∧ (o.srcS (.mclr f) 0).p = false ∧
         (o.srcS (.mclr f) 1).p = false ∧ 0x800000 ≤ (o.srcS (.mclr f) 0).v.toNat ∧ (o.srcS (.mclr f) 0).v.toNat < 0xB00000 ∧
         (o.srcS (.mclr f) 0).v.toNat % 64 = 0 ∧ (o.srcS (.mclr f) 1).v.toNat % 64 = 0 ∧
         (o.srcS (.mclr f) 0).v.toNat + (o.srcS (.mclr f) 1).v.toNat ≤ 0xB00000) fun o =>
       let n := (o.tileAt o.iss.tile).mseq + 1
       let k := MKind.clr ((o.srcS (.mclr f) 0).v.toNat - 0x800000) (o.srcS (.mclr f) 1).v.toNat (f.z == 1)
       o.modTile o.iss.tile fun y => { y with mseq := n, mq := y.mq ++ [{ seq := n, slot := o.iss.slot, kind := k }] }) ∧
     TrapsIf s (.mclr f) (fun o => (o.tileAt o.iss.tile).mq.length < 4 ∧
       ((o.srcS (.mclr f) 0).p = true ∨ (o.srcS (.mclr f) 1).p = true)) 0x0D 0 ∧
     (∀ a, TrapsIf s (.mclr f) (fun o => (o.tileAt o.iss.tile).mq.length < 4 ∧ (o.srcS (.mclr f) 0).p = false ∧
       (o.srcS (.mclr f) 1).p = false ∧ a = (o.srcS (.mclr f) 0).v.toNat ∧ (a < 0x800000 ∨ 0xB00000 ≤ a)) 0x0B a) ∧
     (∀ a, TrapsIf s (.mclr f) (fun o => at0 o ∧ a = (o.srcS (.mclr f) 0).v.toNat ∧
       (a % 64 ≠ 0 ∨ (o.srcS (.mclr f) 1).v.toNat % 64 ≠ 0)) 0x0A a) ∧
     (∀ a, TrapsIf s (.mclr f) (fun o => at0 o ∧ a = (o.srcS (.mclr f) 0).v.toNat ∧ a % 64 = 0 ∧
       (o.srcS (.mclr f) 1).v.toNat % 64 = 0 ∧ 0xB00000 < a + (o.srcS (.mclr f) 1).v.toNat) 0x0B a) ∧
     (s.turn (.mclr f) = true → 4 ≤ (s.openBundle.tileAt s.openBundle.iss.tile).mq.length → exec (.mclr f) s = .next s) ∧
     (CompletesIf s (.mwb g) (fun o => (o.tileAt o.iss.tile).mq.length < 4 ∧
         readDesc o (o.srcS (.mwb g) 0) 64 false = (.ok x, o1) ∧ wbOk (BitVec.ofNat 512 x) o.iss.pre.gangsize = true) fun o =>
       let c := o.iss.pre
       let d := BitVec.ofNat 512 x
       let n := (o1.tileAt o1.iss.tile).mseq + 1
       let k := MKind.wb (wbDesc d c.split) (c.recs.getD (wbPR d) 0)
       (o1.modTile o1.iss.tile fun y =>
         { y with mseq := n, mq := y.mq ++ [{ seq := n, slot := o1.iss.slot, kind := k }] }).modCur fun z =>
           z.setS g.d.toNat { v := n.setWidth 64 }) ∧
     (s.turn (.mwb g) = true → (s.openBundle.tileAt s.openBundle.iss.tile).mq.length < 4 →
       readDesc s.openBundle (s.openBundle.srcS (.mwb g) 0) 64 false = (.ok x, o1) →
       wbOk (BitVec.ofNat 512 x) s.openBundle.iss.pre.gangsize = false →
       exec (.mwb g) s = .next (s.openBundle.fails (.mwb g) 0x10 0 o1)) ∧
     (s.turn (.mwb g) = true → (s.openBundle.tileAt s.openBundle.iss.tile).mq.length < 4 →
       readDesc s.openBundle (s.openBundle.srcS (.mwb g) 0) 64 false = (.error e, o1) →
       exec (.mwb g) s = .next (s.openBundle.fails (.mwb g) e.1 e.2 o1)) ∧
     (s.turn (.mwb g) = true → 4 ≤ (s.openBundle.tileAt s.openBundle.iss.tile).mq.length → exec (.mwb g) s = .next s))

/-- R148, R152 to R160, R168, R171: the steps of the matrix engine on the command at the head of its queue; a step or row waits for the
writes of another context's earlier command that its reads would meet.
Log 58, 94, 96, 98, 99: the model's own readings and choices that it rests on. -/
def Obligations.MatrixEngineSteps : Prop :=
  ∀ (s : State) (t : Nat) (m : MCmd), (s.tileAt t).mq.head? = some m →
    let head := fun (s : State) (f : MCmd → MCmd) => s.modTile t fun x => { x with mq := updAt f 0 x.mq }
    (m.began = false → m.fin = false → exec (.matrixCommandStart t) s = .next (head s fun m =>
      { m with began := true, fin := match m.kind with
          | .go d _ _ => !nestAny d
          | .clr _ n _ => n == 0
          | .wb _ _ => false })) ∧
    (∀ d ra rb rows fl, m.kind = .go d ra rb → m.runs = true → s.matrixWaits t m = false →
      let x := s.sramReads (stepReads (s.seen t 3 (s.ownerAt t m.slot)) t m.slot d ra rb m.idx)
      mstepRows x.1 t m.slot d ra rb m.idx = .ok (rows, fl) →
      exec (.matrixStep t) s = .next
        (head (((rows.foldl (fun s r => s.queueW t t 3 (r.map (·.1)) (r.map (·.2))) x.2).orMflags t m.slot fl).engReset t) fun m =>
          match nextIdx d 0 m.idx with
          | some i => { m with idx := i, acc := true }
          | none => { m with fin := true })) ∧
    (∀ d ra rb e, m.kind = .go d ra rb → m.runs = true → s.matrixWaits t m = false →
      let x := s.sramReads (stepReads (s.seen t 3 (s.ownerAt t m.slot)) t m.slot d ra rb m.idx)
      mstepRows x.1 t m.slot d ra rb m.idx = .error e → exec (.matrixStep t) s = .next (x.2.mstop t m e)) ∧
    (s.quiet = true → ∀ l, s.sramReads l = (s, s)) ∧
    (∀ a st l, m.stall = some (a, st) → s.engLoc t m.slot a 1 st true true = .ok l →
      exec (.matrixStallResume t) s = .next ((head s fun m => { m with stall := none }).modCtx t m.slot fun c =>
        { c with mrstall := false })) ∧
    (∀ d r ws fl, m.kind = .wb d r → m.runs = true → s.matrixWaits t m = false →
      let x := s.sramReads (wbReads t d m.row)
      wbRow x.1 t m.slot d r m.row = .ok (ws, fl) →
      exec (.mwbRow t) s = .next (head (((ws.foldl (fun s w =>
          let ps := groupBytes w.2.length w.2
          s.queueW w.1 t 3 (ps.map (·.1)) (ps.map (·.2))) x.2).orMflags t m.slot fl).engReset t) fun m =>
        { m with row := m.row + 1, fin := m.row == wbROWM1 d })) ∧
    (∀ d r e, m.kind = .wb d r → m.runs = true → s.matrixWaits t m = false →
      let x := s.sramReads (wbReads t d m.row)
      wbRow x.1 t m.slot d r m.row = .error e → exec (.mwbRow t) s = .next (x.2.mstop t m e)) ∧
    (s.matrixWaits t m = true → exec (.matrixStep t) s = .next s ∧ exec (.mwbRow t) s = .next s) ∧
    (∀ off n z, m.kind = .clr off n z → m.runs = true →
      exec (.matrixClearRun t) s = .next (head (((List.range (n / 64)).foldl (fun s j => s.queueW t t 3
          ((List.range 8).map fun k => (accKey t (off + 64 * j + 8 * k), 8, if z then 0x8000000080000000 else 0))
          (List.replicate 8 false)) s).engReset t) fun m => { m with fin := true })) ∧
    (m.fin = true → m.err ≠ 4 → ∃ u, exec (.matrixCompletion t) s = .next u ∧
      ((s.ctx? t m.slot).isSome → (u.ctxAt t m.slot).events.getLsbD 3 = true) ∧ u.mem = s.mem ∧
      (∀ r, (s.tileAt t).mq.tail = r → r.head?.all (fun x => !(x.fin && x.err == 4)) = true → t < s.tiles.length →
        (u.tileAt t).mdone = m.seq ∧ (u.tileAt t).mq = r))

/-! ## The Burin engines, translation, the stacks and the seal -/

/-- R307, R325 to R328: CPY queues its command under the engine's next tag, which its register receives, and a full queue holds it;
CWAIT delivers the status of a command that the engine has passed and waits for another; CSTAT delivers the status; CCAN stops the
commands with the tag and delivers the status. Log 55: the model's own readings and choices that it rests on. -/
def Obligations.CopyWords : Prop :=
  ∀ (f : FCopy) (s o1 : State) (x : Nat) (e : Nat × Nat),
    let o := s.openBundle
    let t := o.iss.tile
    let n := f.e.toNat
    let sreg := fun (o : State) (v : W64) => o.modCur fun c => c.setS f.d.toNat { v := v }
    let tag := fun (o : State) (i : Instr) => o.iss.pre.alias1 n ((o.srcS i 0).v.setWidth 32)
    (CompletesIf s (.cpy f) (fun o => (o.burinAt o.iss.tile n).full = false ∧
        readDesc o (o.srcS (.cpy f) 0) 64 true = (.ok x, o1) ∧ cpyOk (BitVec.ofNat 512 x) o1.iss.pre.gangsize = true) fun o =>
      let tag := (o1.burinAt o.iss.tile n).seq + 1
      let c : Copy := { tag := tag, slot := o1.iss.slot, d := BitVec.ofNat 512 x, da := (o.srcS (.cpy f) 0).v.toNat }
      sreg (o1.modBurin o.iss.tile n fun b => { b with seq := tag, q := b.q ++ [c] }) (tag.setWidth 64)) ∧
    (s.turn (.cpy f) = true → (o.burinAt t n).full = false → readDesc o (o.srcS (.cpy f) 0) 64 true = (.error e, o1) →
      exec (.cpy f) s = .next (o.fails (.cpy f) e.1 e.2 o1)) ∧
    (s.turn (.cpy f) = true → (o.burinAt t n).full = false → readDesc o (o.srcS (.cpy f) 0) 64 true = (.ok x, o1) →
      cpyOk (BitVec.ofNat 512 x) o1.iss.pre.gangsize = false → exec (.cpy f) s = .next (o.fails (.cpy f) 0x10 0 o1)) ∧
    (s.turn (.cpy f) = true → (o.burinAt t n).full = true → exec (.cpy f) s = .next s) ∧
    (CompletesIf s (.cwait f) (fun o => (o.srcS (.cwait f) 0).p = false ∧
        ((o.burinAt o.iss.tile n).done - tag o (.cwait f)).toNat < 2 ^ 31) fun o =>
      let q := o.modIss fun y => { y with switch := true }
      sreg q (q.tagStatus q.iss.tile q.iss.slot n (tag o (.cwait f)))) ∧
    (s.turn (.cwait f) = true → (o.srcS (.cwait f) 0).p = false → 2 ^ 31 ≤ ((o.burinAt t n).done - tag o (.cwait f)).toNat →
      exec (.cwait f) s = .next (o.awaits (.cwait f) (.cwait f.d n (tag o (.cwait f))) (o.modIss fun y => { y with switch := true }))) ∧
    (CompletesIf s (.cstat f) (fun o => (o.srcS (.cstat f) 0).p = false) fun o =>
      sreg o (o.tagStatus o.iss.tile o.iss.slot n (tag o (.cstat f)))) ∧
    (CompletesIf s (.ccan f) (fun o => (o.srcS (.ccan f) 0).p = false) fun o =>
      let q := o.stopCopies o.iss.tile n (fun c => c.tag == tag o (.ccan f) && c.slot == o.iss.slot) 5
      sreg q (q.tagStatus o.iss.tile o.iss.slot n (tag o (.ccan f)))) ∧
    TrapsIf s (.cwait f) (fun o => (o.srcS (.cwait f) 0).p = true) 0x0D 0 ∧
    TrapsIf s (.cstat f) (fun o => (o.srcS (.cstat f) 0).p = true) 0x0D 0 ∧
    TrapsIf s (.ccan f) (fun o => (o.srcS (.ccan f) 0).p = true) 0x0D 0

/-- R281, R308, R314 to R317, R319 to R322, R344: a queued command begins with its first request, its engine retires its oldest unit (a
fill delivers its bytes to every destination, an on-chip unit reads chunk after chunk, a write is counted, a failure ends the command),
a stall ends when the region map serves it, and a finished command that makes no arrival ends with its record. Log 26, 29, 55: the
model's own readings and choices that it rests on. -/
def Obligations.CopyEngineSteps : Prop :=
  ∀ (s : State) (t e : Nat),
    let head := fun (u : CUnit) (c : Copy) => (s.burinAt t e).units.head? = some u ∧ s.copyOf t e u.tag = some c ∧ c.stall = none
    (∀ (c : Copy), (s.burinAt t e).nextBegin = some c → s.mayBegin t e c = true →
      exec (.copyBegin t e) s = .next ((s.modCopy t e c.tag fun c => ({ c with began := true, fin := cpLEN c.d == 0 } : Copy)).pump t e)) ∧
    (∀ (u : CUnit) (c : Copy) (img : Nat), head u c → u.st = .committed img →
      exec (.copyUnitRetire t e) s = .next ((if c.cut then s else
        s.deliverBytes t e c u.len (bits img (8 * ((cpDST c.d + u.off) % 4096)) (8 * u.len))).retireUnit t e u)) ∧
    (∀ (u : CUnit), (s.burinAt t e).units.head? = some u → s.copyOf t e u.tag = none → u.st.isOver = true ∨ u.st.kept = true →
      exec (.copyUnitRetire t e) s = .next (s.retireUnit t e u)) ∧
    (∀ (u : CUnit) (c : Copy) (ps : List (List (Loc × Nat))) (img : Nat), head u c → u.st = .ready img →
      cpFill c.d = true → destPlaces s t c u.off u.len = .ok ps →
      let x := bits img (8 * ((cpSRC c.d + u.off) % 4096)) (8 * u.len)
      exec (.copyUnitRetire t e) s =
        .next ((((s.queueAll (ps.flatMap fun p => lineWrites t e (s.ownerAt t c.slot) c.banks (linePieces p x))).touch t e c.tag).deliverBytes
          t e c u.len x).retireUnit t e u)) ∧
    (∀ (u : CUnit) (c : Copy) (img y : Nat) (v0 : State) (ps : List (List (Loc × Nat))), head u c → u.st = .ready img →
      cpFill c.d = false → cpWrite c.d = false →
      (cpKIND c.d = 3 → isOther (s.ctxAt t c.slot) (cpSRC c.d) ≠ isOther (s.ctxAt t c.slot) (cpDST c.d)) →
      let o := u.off + u.pos
      let n := min 64 (cpLEN c.d - o)
      readSide s t c.slot e (cpSRC c.d) (cpSRC c.d + o) n (cpKIND c.d == 3) u.buf = (v0, .ok y) →
      let v := v0.touch t e c.tag
      destPlaces v t c o n = .ok ps →
      let buf := u.buf ++ ps.flatMap fun p => lineWrites t e (v.ownerAt t c.slot) c.banks (linePieces p y)
      let all := img + y * 2 ^ (8 * u.pos)
      exec (.copyUnitRetire t e) s = .next (if u.pos + n < u.len then
          v.modUnit t e u.uid fun u => ({ u with pos := u.pos + n, buf := buf, st := .ready all, det := 0 } : CUnit)
        else ((v.queueAll buf).deliverBytes t e c u.len all).retireUnit t e u)) ∧
    (∀ (u : CUnit) (c : Copy) (err walk pout : Nat), head u c → u.st = .failed err walk pout →
      exec (.copyUnitRetire t e) s =
        .next (match if pout = 1 ∧ cpFill c.d = true then firstStall (markLines s t c u.off u.len) else none with
          | none => s.failCopy t e c u err walk pout
          | some x => s.stallUnit t e c x)) ∧
    (∃ (u : State), exec (.copyStallResume t e) s = .next u ∧ u.mem = s.mem ∧
      (u.burinAt t e).q.length = (s.burinAt t e).q.length ∧
      ∀ (k : Nat) (c : Copy), (s.burinAt t e).q[k]? = some c → (u.burinAt t e).q[k]? = some (match c.stall with
        | some x => if s.stallServed t c.slot x = true then ({ c with stall := none } : Copy) else c
        | none => c)) ∧
    (∀ (c c' : Copy), (s.burinAt t e).q.head? = some c → (s.burinAt t e).mayComplete c = true → s.crcBad t e c = false →
      c.endState false ≠ 3 ∨ cpBAREN c.d = false →
      let v := (if c.phase = 0 ∧ cpRECEN c.d = true then s.writeRecord t e c else s).modCopy t e c.tag fun c =>
        ({ c with phase := Nat.max c.phase 1 } : Copy)
      v.copyOf t e c.tag = some c' → exec (.copyCompletion t e) s = .next (v.endCopy t e c' (c.endState false) false))

/-- R265 to R268, R271 to R287, R314: a walk reads the table entries that it needs and ends with the first outcome of R266, which every
unit that waits for the page is told, or with the translation, and leaves memory as it is; a plate whose lines have arrived is ready,
or fails where its check does; a write raises the counters of its plate by one and sends its lines, is refused where a counter is
exhausted, begins a re-seal where a minor is full, and commits once its lines are performed; a finished re-seal commits its group with
its write, or leaves the group FAILED; a group under rotation gets its new key.
Log 3, 28, 56, 89: the model's own readings and choices that it rests on. -/
def Obligations.PlatesAndCounters : Prop :=
  ∀ (s : State) (t e va acc st grp : Nat),
    (let d := s.dieAt (dieOf t)
     let p := s.partOf t
     let idle := fun (s : State) (die p page : Nat) => s.modDie die fun d =>
       { d with walking := d.walking.filter fun x => !(x.part == p && x.page == page) }
     (∃ (v : State), exec (.walk t e va acc) s = .next v ∧ v.mem = s.mem ∧ v.poison = s.poison) ∧
     (d.walkOf p (va / 65536) = none → ((s.burinAt t e).flights.any fun u => u.wants va false && u.acc == acc) = true →
       d.walking.length < 64 →
       exec (.walk t e va acc) s = .next (s.walkOn { part := p, page := va / 65536, tile := t, eng := e })) ∧
     (∀ w u, d.walkOf p (va / 65536) = some w → s.tableUnit w = some u →
       (∀ img, u.st = .ready img → exec (.walk t e va acc) s = .next ((s.dropFetch w.tile w.eng u.uid).walkOn
         { w with known := (w.need, BitVec.ofNat 64 (bits img (8 * u.off) 64)) :: w.known })) ∧
       ∀ x y z, u.st = .failed x y z → exec (.walk t e va acc) s =
         .next ((idle (s.dropFetch w.tile w.eng u.uid) (dieOf t) p (va / 65536)).endWalk w true)) ∧
     -- a walk reads the entry that it needs, and ends with its outcome otherwise
     (∀ (w : Walk), let v := idle s (dieOf w.tile) w.part w.page
       let r := v.walkVa (dieOf w.tile) w.part (w.page * 65536) 0 w.known
       (∀ key pa, r = .need key pa → s.walkOn w = v.readTable w key pa) ∧
       ((∀ key pa, r ≠ .need key pa) → s.walkOn w = v.endWalk w false)) ∧
     -- what each unit that waits for the page is told: the outcome, or the translation
     (∀ (v : State) (w : Walk) (u : CUnit), let r := s.walkVa (dieOf w.tile) w.part u.va u.acc w.known
       (s.walkOne v w true t e u = (v.failUnit t e u.uid 1 2 0).modUnit t e u.uid fun u => { u with big := false }) ∧
       (∀ n big, r = .fail n big →
         s.walkOne v w false t e u = (v.failUnit t e u.uid 1 n 0).modUnit t e u.uid fun u => { u with big := big }) ∧
       ∀ pte big seen, r = .ok pte big seen → s.walkOne v w false t e u =
         (v.learn t e w.part u.va pte big seen).reachUnit t e u.uid pte big
           (if big then ptePA pte / 2 ^ 29 * 2 ^ 29 + u.va % 2 ^ 29 else ptePA pte + u.va % 2 ^ 16)) ∧
     -- the outcomes of a walk in their order
     ∀ (die p : Nat) (known : List (Nat × W64)), let r := s.walkVa die p va acc known
       let ent := fun k => s.entryFor die p known k
       let tab := fun (e : W64) (n : Nat) => e.getLsbD 59 = false ∧ nonLeafOk e n = true
       let leaf := fun (e : W64) (big : Bool) (seen : List (Nat × W64)) =>
         let bad := e.toNat % 2 ^ 14 ≠ 0 ∨ (big = true ∧ bits e.toNat 16 13 ≠ 0)
         let key := pteKEY e ≤ 32 ∧ s.maskHas p (pteKEY e) = true
         let ok := accOk e acc = true
         (bad → r = .fail 4 big) ∧ (¬ bad → inMeta (ptePA e) = true → r = .fail 5 big) ∧
         (¬ bad → inMeta (ptePA e) = false → (¬ key → r = .fail 6 big) ∧ (key → ¬ ok → r = .fail 7 big) ∧
           (key → ok → r = .ok e big seen))
       (2 ^ 48 ≤ va → r = .fail 1 false) ∧
       (va < 2 ^ 48 → s.rootOf p = none → r = .fail 3 false) ∧
       ∀ root, va < 2 ^ 48 → s.rootOf p = some root →
         (ent (va / 2 ^ 38) = none → r = .need (va / 2 ^ 38) (root + 8 * (va / 2 ^ 38))) ∧
         ∀ e1, ent (va / 2 ^ 38) = some e1 →
           (e1.getLsbD 63 = false → r = .fail 3 false) ∧
           (e1.getLsbD 63 = true → ¬ tab e1 12 → r = .fail 4 false) ∧
           (e1.getLsbD 63 = true → tab e1 12 → inMeta (pteNEXT e1) = true → r = .fail 5 false) ∧
           (e1.getLsbD 63 = true → tab e1 12 → inMeta (pteNEXT e1) = false →
             let k2 := 2 ^ 20 + va / 2 ^ 29
             (ent k2 = none → r = .need k2 (pteNEXT e1 + 8 * (va / 2 ^ 29 % 512))) ∧
             ∀ e2, ent k2 = some e2 →
               (e2.getLsbD 63 = false → r = .fail 3 false) ∧
               (e2.getLsbD 63 = true → e2.getLsbD 59 = true → leaf e2 true [(va / 2 ^ 38, e1), (k2, e2)]) ∧
               (e2.getLsbD 63 = true → e2.getLsbD 59 = false → nonLeafOk e2 16 = false → r = .fail 4 false) ∧
               (e2.getLsbD 63 = true → tab e2 16 → inMeta (pteNEXT e2) = true → r = .fail 5 false) ∧
               (e2.getLsbD 63 = true → tab e2 16 → inMeta (pteNEXT e2) = false →
                 let k3 := 2 ^ 40 + va / 2 ^ 16
                 (ent k3 = none → r = .need k3 (pteNEXT e2 + 8 * (va / 2 ^ 16 % 2 ^ 13))) ∧
                 ∀ e3, ent k3 = some e3 →
                   (e3.getLsbD 63 = false → r = .fail 3 false) ∧
                   (e3.getLsbD 63 = true → e3.getLsbD 59 = false → r = .fail 4 false) ∧
                   (e3.getLsbD 63 = true → e3.getLsbD 59 = true → leaf e3 false [(va / 2 ^ 38, e1), (k2, e2)])))) ∧
    (∀ (u : CUnit) (img left out : Nat) (err : Bool), (s.burinAt t e).flights.find? CUnit.filled = some u → u.st = .lines img left out →
      let i := s.inject t 4
      exec (.plateFill t e err) s = .next (if out = 2 then (i.2.failUnit t e u.uid 4 0 2).pumpAll
        else if out ≠ 0 ∨ err = true ∨ i.1 = true then (i.2.failUnit t e u.uid 4 0 1).pumpAll
        else (i.2.modUnit t e u.uid fun u => ({ u with st := .ready img } : CUnit)).modBurin t e fun b => b.holdCounters u.ctrs)) ∧
    (∀ (u : CUnit) (img left : Nat),
      ((s.burinAt t e).units.find? fun u => u.performed && earlierDone u (s.burinAt t e).units) = some u →
      u.st = .writing img left → exec (.plateCommit t e) s = .next (s.commitPlate t e u img).pumpAll) ∧
    (∀ (u : CUnit) (c : Copy) (x : Nat) (s1 : State), nextWrite (s.burinAt t e).writers (s.burinAt t e).units [] = some u →
      s.copyOf t e u.tag = some c →
      let out := s.plateOut (s.partOf t) (pteKEY u.pte) (pteHSEL u.pte) u.pa
      let got := readSide s t c.slot e (cpSRC c.d) (cpSRC c.d + u.off) u.len false [] = (s1, .ok x)
      let old := match u.st with | .ready img => img | _ => 0
      let img := setBits old (8 * ((cpDST c.d + u.off) % 4096)) (8 * u.len) x
      let v := s1.touch t e c.tag
      ((out = 2 ∨ out = 4) → exec (.plateWrite t e) s = .next (s.failUnit t e u.uid 4 0 out).pumpAll) ∧
      (out ≠ 2 → out ≠ 4 → got → exec (.plateWrite t e) s = .next
        (({ v.modUnit t e u.uid fun u => { u with st := .held img, age := v.reached } with reached := v.reached + 1 } : State).pumpAll))) ∧
    -- what the counter unit does with a write that it has
    (∀ (u : CUnit) (img : Nat),
      let k := s.stackAt (stkOf u.pa)
      let out := s.plateOut (s.partOf t) (pteKEY u.pte) (pteHSEL u.pte) u.pa
      let may := (out = 0 ∨ out = 1) ∧ k.heldFor u.pa t e u.uid = false
      let r := s.putWrite t e u img
      ((out = 2 ∨ out = 4) → r = some (s.failUnit t e u.uid 4 0 out)) ∧
      (out ≠ 2 → out ≠ 4 → k.heldFor u.pa t e u.uid = true → r = none) ∧
      (∀ k' c, may → k.exhaust u.pa = some k' → ((s.modStack (stkOf u.pa) fun _ => k').failUnit t e u.uid 4 0 3).copyOf t e u.tag = some c →
        r = some (((s.modStack (stkOf u.pa) fun _ => k').failUnit t e u.uid 4 0 3).postTrap t c.slot 0x18 (BitVec.ofNat 64 u.va))) ∧
      (may → k.exhaust u.pa = none → k.needs u.pa = none → r = some (s.beginWrite t e u img)) ∧
      (may → k.exhaust u.pa = none → k.needs u.pa = some 0 → s.resealFree t e u 0 = true → earlierDone u (s.burinAt t e).units = true →
        r = some (s.sealWrite t e u img)) ∧
      ∀ n, n = 1 ∨ n = 2 → may → k.exhaust u.pa = none → k.needs u.pa = some n → s.resealFree t e u n = true →
        r = some (s.beginReseal t e u n)) ∧
    (∀ (k : Stack) (pa : Nat),
      ((k.raiseAll pa).leaf pa).minor (inGroup pa) = (k.leaf pa).minor (inGroup pa) + 1 ∧
      ((k.raiseAll pa).node pa).minor (inNode pa) = (k.node pa).minor (inNode pa) + 1 ∧
      ((k.raiseAll pa).root pa).minor (inSpan pa) = (k.root pa).minor (inSpan pa) + 1) ∧
    (∀ (u : CUnit) (img : Nat), stkOf u.pa < s.hbm.length → let v := s.beginWrite t e u img
      v.mem = s.mem ∧ (v.stackAt (stkOf u.pa)).leaf u.pa = ((s.stackAt (stkOf u.pa)).raiseAll u.pa).leaf u.pa ∧
      (v.stackAt (stkOf u.pa)).reqs.length = (s.stackAt (stkOf u.pa)).reqs.length + 73 ∧
      (stkOff u.pa / 4096, t, e, u.uid) ∈ (v.stackAt (stkOf u.pa)).holds) ∧
    (∀ (r : Reseal), (s.stackAt st).reseals.find? (fun x => x.code == grp && x.over) = some r → r.level = 0 → st < s.hbm.length →
      let pa := st * 2 ^ 36 + r.idx * 2 ^ 18
      let failed := ((s.stackAt st).leaf pa).st = .failed ∨ ((s.stackAt st).node pa).st = .failed
      ((r.bad = true ∨ (s.stackAt st).groupBad pa = true ∨ failed) → ∃ (v : State), exec (.resealCommit st grp) s = .next v.pumpAll ∧
        v.mem = s.mem ∧ ((v.stackAt st).leaf pa).st = .failed ∧ (∀ y ∈ (v.stackAt st).reseals, y.code ≠ grp)) ∧
      (r.bad = false → (s.stackAt st).groupBad pa = false → ¬ failed → ∀ (u : CUnit) (img : Nat),
        (s.burinAt r.tile r.eng).units.find? (fun u => u.uid == r.uid) = some u → u.st = .sealing img →
        ∃ (v : State), exec (.resealCommit st grp) s = .next (v.commitPlate r.tile r.eng u img).pumpAll ∧ v.mem = s.mem ∧
          (∀ y ∈ (v.stackAt st).reseals, y.code ≠ grp))) ∧
    (∀ (r : Rotate), (s.stackAt st).rotate = some r → grp ∈ r.groups →
      s.busyIn (st * 2 ^ 36 + grp * 2 ^ 18) 18 512 0 0 = false → (s.stackAt st).heldFor (st * 2 ^ 36 + grp * 2 ^ 18) 512 0 0 = false →
      st < s.hbm.length →
      ∃ (v : State), exec (.keyRotationGroup st grp) s = .next v.pumpAll ∧ v.mem = s.mem ∧
        ((v.stackAt st).rotate = none ∨ ∃ r', (v.stackAt st).rotate = some r' ∧ r'.part = r.part ∧ r'.key = r.key ∧ grp ∉ r'.groups))

/-- R253 to R263: the answers of a stack to its line requests, what a closing point does with the request that it chooses (served, or
refused in its own slot with a hint that the thermal state admits and that no other request holds), the owner entries that come into
force by direction at the start of a rotation, and the thermal, quiesce and retraining events of a stack.
Log 4, 14, 28, 83, 100, 101: the model's own readings and choices that it rests on. -/
def Obligations.StackEvents : Prop :=
  ∀ (s : State) (st k : Nat),
    let x := s.stackAt st
    (∀ (r : LineReq), x.reqs[k]? = some r →
      (r.wr = true → r.st = .served →
        let gone := s.modStack st fun x => { x with reqs := x.reqs.eraseIdx k, flaws := x.flaws.filter fun y => y.1 != r.line }
        exec (.writePerformed st k) s = .next (if r.reseal then gone.resealLine st r false
          else gone.modUnit r.tile r.eng r.uid fun u => match u.st with
            | .writing img left => ({ u with st := .writing img (left - 1) } : CUnit)
            | _ => u)) ∧
      (r.wr = false → r.st = .served → (∀ f ∈ x.flaws, f.1 ≠ r.line) → dieOf r.tile ≠ st → ∃ (gone : State),
        gone.mem = s.mem ∧ gone.tiles = s.tiles ∧ (st < s.hbm.length → (gone.stackAt st).reqs = x.reqs.eraseIdx k) ∧
        exec (.readLineArrival st k) s = .next (if r.reseal then gone.resealLine st r false else gone.lineIn st r false)) ∧
      (∀ (u : CUnit) (img left out : Nat), (s.burinAt r.tile r.eng).flights.find? (fun u => u.uid == r.uid) = some u →
        u.st = .lines img left out → 1 < left →
        s.lineIn st r false = s.modUnit r.tile r.eng r.uid fun u => ({ u with st := .lines img (left - 1) out } : CUnit)) ∧
      (∀ (slot hint : Nat) (u : CUnit), r.st = .refused slot hint → r.reseal = false →
        ((s.burinAt r.tile r.eng).units.find? fun u => u.uid == r.uid) = some u →
        exec (.retry st k) s =
          .next ((s.modStack st fun x => { x with reqs := updAt (fun r => { r with st := .hinted slot hint }) k x.reqs }).modCopy
            r.tile r.eng u.tag fun c => { c with retries := c.retries + 1 }))) ∧
    (∀ (pc slot hint : Nat) (wr : Bool) (v : State), pc < 64 → x.answering pc (slot % 64) wr = false → s.toSlot st pc slot wr = some v →
      let on := fun (w : State) (f : Fate) => (w.modStack st fun k => k.metSlot pc (slot % 64) wr).passSlot st pc wr f
      let put := fun (q : ReqSt) (y : Stack) => ({ y with reqs := updAt (fun r => { r with st := q }) k y.reqs } : Stack)
      let pick := v.closingPick st pc wr
      let does := fun (u : State) => exec (.closingPoint st pc slot wr hint) s = .next u
      (pick = none → does (on v (if (v.stackAt st).stolen pc wr then .stolen else .kept))) ∧
      (∀ r, (v.stackAt st).reqs[k]? = some r →
        (pick = some (k, true, false, none) → v.mayRefuse st pc wr hint = true →
          does (on (v.modStack st fun y => (put (.refused (slot % 64) hint) y).takeTurn st r) .refused)) ∧
        (∀ res, pick = some (k, true, res, none) → res = true ∨ v.mayRefuse st pc wr hint = false →
          does (on (v.modStack st fun y => (put .served y).takeTurn st r) .kept))) ∧
      (∀ q, pick = some (k, false, false, q) → 0 < hint → does (on v .kept)) ∧
      (∀ q, pick = some (k, false, false, some q) → hint = 0 →
        does (on (v.modStack st fun y => { put .served y with rr := y.rr.set pc ((q + 1) % 69) }) .kept)) ∧
      -- a hint is at most that of the thermal state, and names a slot that is not reserved
      (v.mayRefuse st pc wr hint = true → 0 < hint ∧ hint ≤ maxHint (v.stackAt st) ∧
        ∀ r ∈ (v.stackAt st).reqs, r.pc = pc → r.wr = wr →
          r.st ≠ .hinted (((v.stackAt st).cal (calCode pc wr)).next) hint) ∧
      (∀ y, maxHint y = if y.tstate = 0 then 4 else if y.tstate = 1 then 8 else 15)) ∧
    (∀ (pc slot hint : Nat) (wr : Bool) (v : State), pc < 64 → st < s.hbm.length → x.answering pc (slot % 64) wr = false →
      s.toSlot st pc slot wr = some v → ∃ (u : State), exec (.closingPoint st pc slot wr hint) s = .next u ∧ u.mem = s.mem ∧
        u.tiles = s.tiles ∧ (u.stackAt st).reqs.length = x.reqs.length ∧
        ∀ (j : Nat) (q : LineReq), x.reqs[j]? = some q → (q.pc ≠ pc ∨ q.wr ≠ wr ∨ q.st = .served) → (u.stackAt st).reqs[j]? = some q) ∧
    (∀ temp, ∃ (u : State), exec (.thermalStateChange st temp) s = .next u ∧ u.mem = s.mem ∧
      (st < s.hbm.length → (u.stackAt st).temp = BitVec.ofNat 8 temp ∧
        let n := x.tstate.toNat
        (u.stackAt st).tstate.toNat = (if 95 < temp then 2 else if n = 2 then (if 92 ≤ temp then 2 else 1) else if 85 < temp then 1
          else if n = 1 ∧ 82 ≤ temp then 1 else 0))) ∧
    (∀ wr n, ∃ (u : State), exec (.ownerEntryEffect { st := st, wr := wr, n := n }) s = .next u ∧ u.mem = s.mem ∧
      (st < s.hbm.length →
        let mine := x.ownNew.filter fun y => y.1 == wr
        let put := fun (l : List (BitVec 8)) => (mine.take n).foldl (fun l y => l.set y.2.1 y.2.2) l
        (u.stackAt st).ownNew.filter (fun y => y.1 == wr) = mine.drop n ∧
        (u.stackAt st).ownNew.filter (fun y => y.1 != wr) = x.ownNew.filter (fun y => y.1 != wr) ∧
        (u.stackAt st).ownWr = (if wr then put x.ownWr else x.ownWr) ∧
        (u.stackAt st).ownRd = (if wr then x.ownRd else put x.ownRd))) ∧
    exec (.sctlQuiesce st) s = .next (s.modStack st fun k => { k with quiesce := true }) ∧
    (x.quiesce = true → x.quiesced = false → (∀ r ∈ x.reqs, r.held = true ∨ r.st = .served) →
      exec (.quiesced st) s =
        .next ((s.modStack st fun k => { k with quiesced := true }).derate st 3 (shareScale x.tstate.toNat) true)) ∧
    (∀ ratio, exec (.sctlRatio st ratio) s = .next (if x.quiesced = true ∧ ratio < 3 ∧ ratio ≠ x.ratio.toNat then
      s.modStack st fun k => { k with retrain := some (BitVec.ofNat 2 ratio) } else s)) ∧
    (∀ r, x.retrain = some r → exec (.laneRetrainComplete st) s =
      .next (((s.modStack st fun k => { k with ratio := r, retrain := none, epoch := s.time }).restartCals st).unquiesce st))

/-! ## Links and schedules -/

/-- R381, R382, R386 to R388: a link word queues its command under the next tag of its tile's link engine, which its register
receives, and a transfer starts on its port where it can; a full queue holds the word; a descriptor or a membership table that does not pass
its checks traps; LSTAT delivers the status. Log 62: the model's own readings and choices that it rests on. -/
def Obligations.LinkWords : Prop :=
  ∀ (f : FLink) (g : FAd) (s o1 o2 : State) (x : Nat) (e : Nat × Nat),
    let o := s.openBundle
    let d := BitVec.ofNat 512 x
    let sreg := fun (o : State) (r : BitVec 5) (v : BitVec 32) => o.modCur fun c => c.setS r.toNat { v := v.setWidth 64 }
    let cmd := fun (kind port a rec : Nat) (o : State) =>
      ({ tag := (o.tileAt o.iss.tile).link.seq + 1, age := o.linkAge, gang := o.iss.pre.gang, task := o.iss.pre.taskid, kind := kind,
         port := port, d := d, da := a, r := o.iss.pre.recs.getD rec 0 } : LCmd)
    (∀ i kind, (i, kind) ∈ [(Instr.lsend f, 0), (.lrecv f, 1), (.lradd f, 2)] →
      (CompletesIf s i (fun o => (o.tileAt o.iss.tile).link.full = false ∧ readDesc o (o.srcS i 0) 64 true = (.ok x, o1) ∧
          linkOk d kind o1.iss.pre.gangsize = true) fun o =>
        let m := cmd kind f.p.toNat (o.srcS i 0).v.toNat (lkPR d) o1
        sreg ((o1.acceptLink m).startLink o1.iss.tile m) f.d m.tag) ∧
      (s.turn i = true → (o.tileAt o.iss.tile).link.full = false → readDesc o (o.srcS i 0) 64 true = (.ok x, o1) →
        linkOk d kind o1.iss.pre.gangsize = false → exec i s = .next (o.fails i 0x10 0 o1)) ∧
      (s.turn i = true → (o.tileAt o.iss.tile).link.full = false → readDesc o (o.srcS i 0) 64 true = (.error e, o1) →
        exec i s = .next (o.fails i e.1 e.2 o1)) ∧
      (s.turn i = true → (o.tileAt o.iss.tile).link.full = true → exec i s = .next s)) ∧
    (let read := fun (o : State) => (o.tileAt o.iss.tile).link.full = false ∧ readDesc o (o.srcS (.lsched g) 0) 64 true = (.ok x, o1)
     let at0 := fun (o : State) => read o ∧ schedOk d o1.iss.pre.gangsize = true
     let fails := fun (q : Prop) (cause faddr : Nat) (v : State) => s.turn (.lsched g) = true → q →
       exec (.lsched g) s = .next (o.fails (.lsched g) cause faddr v)
     (∀ epoch members, CompletesIf s (.lsched g) (fun o => at0 o ∧ readTable o1 (scMTAB d) = (.ok (some (epoch, members)), o2) ∧
         (({ members := members, epoch := epoch } : Sched).rankOf (scMYID d)).isSome = true) fun o =>
       let m := { cmd 3 0 (o.srcS (.lsched g) 0).v.toNat (scPR d) o2 with
         st := 3, sched := some ({ members := members, epoch := epoch } : Sched) }
       sreg (o2.acceptLink m) g.d m.tag) ∧
     fails (read o ∧ schedOk d o1.iss.pre.gangsize = false) 0x10 0 o1 ∧
     fails (at0 o ∧ readTable o1 (scMTAB d) = (.error e, o2)) e.1 e.2 o2 ∧
     fails (at0 o ∧ readTable o1 (scMTAB d) = (.ok none, o2)) 0x10 0 o2 ∧
     (∀ epoch members, fails (at0 o ∧ readTable o1 (scMTAB d) = (.ok (some (epoch, members)), o2) ∧
       (({ members := members, epoch := epoch } : Sched).rankOf (scMYID d)) = none) 0x10 0 o2) ∧
     fails ((o.tileAt o.iss.tile).link.full = false ∧ readDesc o (o.srcS (.lsched g) 0) 64 true = (.error e, o1)) e.1 e.2 o1 ∧
     (s.turn (.lsched g) = true → (o.tileAt o.iss.tile).link.full = true → exec (.lsched g) s = .next s)) ∧
    (CompletesIf s (.lstat g) (fun o => (o.srcS (.lstat g) 0).p = false) fun o =>
      let tag := (o.srcS (.lstat g) 0).v.setWidth 32
      let t := o.iss.tile
      o.modCur fun c => c.setS g.d.toNat { v := match (o.tileAt t).link.q.find? fun m => m.tag == tag && !m.sub with
        | some m => if m.gang = o.iss.pre.gang ∧ m.task = o.iss.pre.taskid then o.linkStatus t m m.st 0 else 0
        | none => (((o.iss.pre.kept.getD 2 []).find? fun k => k.tag == tag).map (·.status)).getD 0 }) ∧
    TrapsIf s (.lstat g) (fun o => (o.srcS (.lstat g) 0).p = true) 0x0D 0

/-- R377 to R380: what a port does with the flits that come to it. A flit that is good, addressed to this package and next in order
is taken; one that fails its check is counted and, unless it was on its way behind one that has been asked for already, answered by a NAK
for the flit awaited, which at the eighth failure in a row retrains the port; a flit out of order is discarded, and asks for the one
awaited where that was lost; HOLD and IDLE say whether the peer grants credits. A NAK has the port resend, and the eighth in a row has
it retrain; retraining and training bring a port UP, with its latency measured, or leave it DOWN; the port of a gated package sends
HOLD. Log 30, 60, 103, 104: the model's own readings and choices that it rests on. -/
def Obligations.PortFlits : Prop :=
  ∀ (s : State) (p : Nat) (f : Flit), p < s.ports.length →
    let x := s.portAt p
    let up := x.state = 2 ∧ x.en = true
    let good := up ∧ f.crc = flitCheck f
    let idle := flitType f.body = 6
    let taken := ¬ idle ∧ f.body ≠ .hold ∧ (∀ n y, f.body ≠ .other n y) ∧ ∀ q, f.body ≠ .unreachable q
    let way := x.nakOut = true ∧ seqBefore x.rxSeq f.seq = true ∧ seqBefore f.seq x.rxPos = false
    let asked := fun (v : State) => (v.portAt p).nakOut = true ∧
      ∃ q, (v.portAt p).sent = x.sent ++ [q] ∧ q.nak = true ∧ q.ack = x.rxSeq ∧ flitType q.body = 6
    (good → ¬ idle → f.seq = x.rxSeq → f.dest = s.pkgId → f.nak = false →
      ∃ (v : State), exec (.flitReceive p f false) s = .next v.startLinks ∧ v.mem = s.mem ∧ v.tiles = s.tiles ∧
        (v.portAt p).rxSeq = (x.rxSeq + 1) % 4096 ∧ (v.portAt p).fails = 0 ∧ (v.portAt p).nakOut = false ∧
        (taken → s.stale f = false → (v.portAt p).rx = x.rx ++ [f]) ∧ (¬ taken ∨ s.stale f = true → (v.portAt p).rx = x.rx) ∧
        (v.portAt p).peerHeld = (if f.body = .hold then true else x.peerHeld) ∧
        (f.body = .hold → f.src ∈ (v.portAt p).holds) ∧ (∀ q, f.body = .unreachable q → q ∈ (v.portAt p).lost) ∧
        (∀ y ∈ x.replay, seqBefore y.seq f.ack = false → y ∈ (v.portAt p).replay) ∧
        (x.out = [] → ∀ y ∈ (v.portAt p).replay, y ∈ x.replay ∧ seqBefore y.seq f.ack = false)) ∧
    (∀ c, good → f.body = .idle c → f.dest = s.pkgId → f.nak = false →
      ∃ (v : State), exec (.flitReceive p f false) s = .next v.startLinks ∧ v.mem = s.mem ∧ v.tiles = s.tiles ∧
        (v.portAt p).rxSeq = x.rxSeq ∧ (v.portAt p).rx = x.rx ∧ (v.portAt p).peerHeld = !c) ∧
    (good → ¬ idle → f.seq ≠ x.rxSeq →
      (way → exec (.flitReceive p f false) s = .next (s.modPort p fun x => { x with rxPos := (f.seq + 1) % 4096 })) ∧
      (seqBefore x.rxSeq f.seq = false → exec (.flitReceive p f false) s = .next s) ∧
      (¬ way → seqBefore x.rxSeq f.seq = true → ∃ (v : State), exec (.flitReceive p f false) s = .next v ∧ v.mem = s.mem ∧
        v.tiles = s.tiles ∧ asked v ∧ (v.portAt p).rxPos = (f.seq + 1) % 4096 ∧ (v.portAt p).rx = x.rx ∧
        (v.portAt p).rxSeq = x.rxSeq)) ∧
    (good → idle ∨ f.seq = x.rxSeq → f.dest ≠ s.pkgId →
      ∃ (v : State), exec (.flitReceive p f false) s = .next v ∧ v.mem = s.mem ∧ v.flitDrops = s.flitDrops + 1 ∧
        (v.portAt p).rx = x.rx ∧ (v.portAt p).rxSeq = if idle then x.rxSeq else (x.rxSeq + 1) % 4096) ∧
    (∀ bad, up → bad = true ∨ f.crc ≠ flitCheck f → ∃ (v : State), exec (.flitReceive p f bad) s = .next v ∧ v.mem = s.mem ∧
      (v.portAt p).crcerr = Nat.min (x.crcerr + 1) 65535 ∧ (v.portAt p).rx = x.rx ∧ (v.portAt p).rxSeq = x.rxSeq ∧
      (idle ∨ way ∨ x.fails < 7 → (v.portAt p).state = 2) ∧ (¬ idle → ¬ way → asked v) ∧
      (¬ idle → ¬ way → 7 ≤ x.fails → (v.portAt p).state = 1)) ∧
    (∀ seq, x.state = 2 → ∃ (v : State) (l : List Flit), exec (.nak p seq) s = .next v ∧ v.mem = s.mem ∧
      let r := x.replay.filter fun y => !seqBefore y.seq seq
      (v.portAt p).replay = r ++ l ∧ (x.out = [] → l = []) ∧
      (x.nakSeq ≠ seq ∨ x.naks < 7 → (v.portAt p).state = 2 ∧ (v.portAt p).sent = x.sent ++ r ++ l) ∧
      (x.nakSeq = seq → 7 ≤ x.naks → (v.portAt p).state = 1 ∧ (v.portAt p).sent = x.sent ∧
        (v.portAt p).retrain = Nat.min (x.retrain + 1) 255)) ∧
    (∀ lt, x.state = 1 → exec (.retrainComplete p (some lt)) s = .next (((s.modPort p fun x =>
      { x with
        state := 2, lt := BitVec.ofNat 16 lt, sent := x.sent ++ x.replay, fails := 0, naks := 0, nakOut := false }).flushPort p).startLinks)) ∧
    (x.state = 1 → exec (.retrainComplete p none) s = .next ((s.modPort p fun x => { x with state := 0 }).downCmds p)) ∧
    (∀ peer lt, x.state = 1 → x.en = true → exec (.linkTraining p peer lt) s = .next (((s.modPort p fun x =>
      { x with state := 2, peer := BitVec.ofNat 16 peer, lt := BitVec.ofNat 16 lt, ghosts := [], lost := [] }).flushPort p).startLinks)) ∧
    (s.gated = true → x.en = true → x.state = 2 → x.replay.length < 256 →
      exec (.portHold p) s = .next (s.putFlit p (s.flitOf x.peer.toNat 0 0 .hold) false))

/-- R382 to R385, R390, R400: what the link engine does with the flits of a transfer, what a send puts on its port, and what the
completion of a command leaves: its record, its other actions, then DONE to the sender of a receiver that has had its LAST;
the last completion of a partition in teardown ends the teardown. R389, R390: a schedule goes on by one step, and the messages
of its members take effect: DONE, COMMIT, FAIL and RESTART. A member that has become the coordinator queries the others, and
once all have answered it sends COMMIT where one of them had it and RESTART otherwise; a member that a schedule waits on too
long counts as failed, unless HOLD has come from its package meanwhile; a schedule that has committed answers a FAIL by
COMMIT. Log 29, 48, 51, 61, 95, 102, 104: the model's own readings and choices that it rests on. -/
def Obligations.LinkEngineEvents : Prop :=
  (∀ (s : State) (p t k tag : Nat) (f : Flit) (m : LCmd),
     let x := s.portAt p
     let taken := s.modPort p fun y => { y with rx := y.rx.eraseIdx k }
     let control := x.rx[k]? = some f ∧ rxFirst x.rx (fun f => isControl f.body) = some k
     (∀ len id run, x.rx[k]? = some f → rxFirst x.rx (fun f => match f.body with | .clear _ _ _ => true | _ => false) = some k →
       f.body = .clear len id run → exec (.clearFlit p) s = .next (taken.takeClear p f.src f.key len id run)) ∧
     (∀ src key len id run,
       let who := oldest (s.linkCmds.filter fun x => x.2.sends && x.2.st == 2 && !x.2.fin && x.2.port == p && lkPEER x.2.d == src &&
         lkKEY x.2.d == key && x.2.run == run)
       let old := run.any (s.leftEpoch src)
       (old = true → s.takeClear p src key len id run = s.sendFlit p src 0 0 (.leave key id)) ∧
       (old = false → who = some (t, m) → lkLEN m.d ≤ len →
         s.takeClear p src key len id run = s.modLink t m.age fun m => { m with st := 3, mate := id }) ∧
       (old = false → who = some (t, m) → len < lkLEN m.d → s.takeClear p src key len id run =
         (s.sendFlit m.port (lkPEER m.d) 0 0 (.lengthError (lkKEY m.d) id)).modLink t m.age fun m =>
           { m with fin := true, err := if m.err = 0 then 4 else m.err }) ∧
       (old = false → who = none → s.takeClear p src key len id run =
         s.modPort p fun y => { y with clears := y.clears ++ [{ src := src, key := key, len := len, id := id, run := run }] })) ∧
     (∀ id, x.rx[k]? = some f → rxFirst x.rx (fun f => (doneOf f.body).isSome) = some k → f.body = .done id →
       oldest (taken.linkCmds.filter fun x => x.2.sends && x.2.last && !x.2.fin && x.2.port == p && lkPEER x.2.d == f.src &&
         lkKEY x.2.d == f.key && doneOf f.body == some x.2.mate) = some (t, m) →
       (m.port = p ∧ lkPEER m.d = f.src ∧ lkKEY m.d = f.key) ∧
         exec (.doneFlit p) s = .next (taken.modLink t m.age fun m => { m with fin := true })) ∧
     (∀ key id code, control → f.body = .abort key id ∧ code = 7 ∨ f.body = .lengthError key id ∧ code = 4 →
       (taken.receivers p f.src key).find? (fun x => x.2.age == id) = some (t, m) →
       (m.port = p ∧ lkPEER m.d = f.src ∧ lkKEY m.d = key) ∧
         exec (.controlFlit p) s = .next ((taken.noGhost p f.src key id).modLink t m.age fun m =>
           { m with fin := true, stall := none, err := if m.err ≠ 0 then m.err else code })) ∧
     (∀ key id, control → f.body = .leave key id →
       ((taken.receivers p f.src key).find? (fun x => x.2.age == id) = some (t, m) →
         exec (.controlFlit p) s = .next (taken.modLink t m.age fun m => { m with last := true })) ∧
       ((taken.receivers p f.src key).find? (fun x => x.2.age == id) = none →
         exec (.controlFlit p) s = .next (taken.noGhost p f.src key id))) ∧
     (∀ base epoch rank, control → f.body = .query base epoch rank →
       exec (.controlFlit p) s = .next (taken.heed p f.src base epoch rank)) ∧
     (∀ base epoch rank yes, control → f.body = .answer base epoch rank yes →
       exec (.controlFlit p) s = .next (taken.answered1 f.src base epoch yes)) ∧
     (∀ bytes last i, (i, last) ∈ [(Instr.dataFlit p, false), (.lastFlit p, true)] → x.rx[k]? = some f →
       rxFirst x.rx (s.canDeliver p last) = some k → dataOf f.body = some (bytes, last) →
       exec i s = .next (s.deliverFlit p k f bytes last)) ∧
     (∀ last i, (i, last) ∈ [(Instr.dataFlit p, false), (.lastFlit p, true)] → rxFirst x.rx (s.canDeliver p last) = none →
       s.portRoom p = true → s.nextSend p = some (t, m) → m.atLast = last → exec i s = .next (s.sendOne t m)) ∧
     ((s.tileAt t).link.q.find? (fun m => m.tag.toNat == tag && !m.sub) = some m → s.linkReady t m = true →
       let does := fun (v : State) => exec (.linkCompletion t tag) s = .next (match (s.tileAt t).partid with
         | none => v
         | some p => v.endTeardown p)
       (s.linkRecord t m = some .stall → does (s.stallLink t m (m.da + 56) true)) ∧
       (∀ l, s.linkRecord t m = some (.ok l) → does
         (((s.queueFor l.home t 2 m.own m.banks [(l.key, 8, if m.kind = 3 then schedRecord m else m.pos)] [false]).endLink t m).sendDone
           m)) ∧
       (s.linkRecord t m = some .access ∨ s.linkRecord t m = none → does ((s.endLink t m).sendDone m))) ∧
     (∀ v : State, v.sendDone m = if m.receives = true ∧ m.last = true
       then v.sendFlit m.port (lkPEER m.d) (lkKEY m.d) 0 (.done m.age) else v) ∧
     (∀ q, s.isClosing q = false → s.endTeardown q = s) ∧ (∀ q, s.linksBusy q = true → s.endTeardown q = s) ∧
     (t < s.tiles.length → ∀ y ∈ ((s.endLink t m).tileAt t).link.q, y.tag ≠ m.tag)) ∧
  (∀ (s u : State) (t tag rank : Nat) (m : LCmd) (k : Sched) (f : Flit),
     (s.schedOf t tag = none → exec (.memberFail t tag rank) s = .next (s.recommit t tag rank)) ∧
     (s.schedOf t tag = some (m, k) →
     (∀ me, s.linkServed t m = true → k.rankOf (scMYID m.d) = some me →
       exec (.scheduleStep t tag) s = .next (s.advance t m k me)) ∧
     (s.takeFrom m.d k (isDone rank) = some (f, u) → exec (.memberDone t tag rank) s =
       .next ((u.modSched t m.age fun k => { k with dones := rank :: k.dones }).tryCommit t m)) ∧
     (s.takeFrom m.d k isCommit = some (f, u) → exec (.memberCommit t tag) s = .next (u.commitSched t m k)) ∧
     (s.takeFrom m.d k (fun b => (failRanks b).contains rank) = some (f, u) →
       exec (.memberFail t tag rank) s = .next (s.orStop t m (u.suspect t m k (failRanks f.body)))) ∧
     (∀ epoch removed, s.takeFrom m.d k (isRestart epoch removed) = some (f, u) →
       exec (.scheduleRestart t tag epoch removed) s = .next (s.orStop t m (u.restart t m k epoch removed))) ∧
     (k.lead ≠ 0 → k.rankOf (scMYID m.d) = some k.lead → k.queried = false → exec (.coordinatorQuery t tag k.lead) s =
       .next ((s.modSched t m.age fun k => { k with queried := true }).tellAll k (scMYID m.d) k.failed
         (.query (scKEYBASE m.d) k.epoch k.lead))) ∧
     (k.lead ≠ 0 → k.rankOf (scMYID m.d) = some k.lead → k.queried = true →
       (∀ x ∈ k.live, x.1 = scMYID m.d ∨ x.1 ∈ k.failed ∨ ∃ y ∈ k.answers, y.1 = x.1) →
       exec (.coordinatorQuery t tag k.lead) s = .next (if k.answers.any (fun y => y.2) = true then
         (s.tellAll k (scMYID m.d) k.failed (.commit (scKEYBASE m.d) k.epoch)).commitSched t m k
         else s.orStop t m (s.restartAll t m k))) ∧
     (rank = 0 ∨ k.lead ≠ rank ∨ k.rankOf (scMYID m.d) ≠ some rank → exec (.coordinatorQuery t tag rank) s = .next s) ∧
     (∀ x, s.waitsOn t m k rank = true → k.live[rank]? = some x →
       ((s.portAt x.2).holds.contains x.1 = false → exec (.memberTimeout t tag rank) s = .next (s.orStop t m (s.suspect t m k [rank]))) ∧
       ((s.portAt x.2).holds.contains x.1 = true → exec (.memberTimeout t tag rank) s =
         .next (s.modPort x.2 fun p => { p with holds := p.holds.filter fun q => q != x.1 }))) ∧
     (s.waitsOn t m k rank = false → exec (.memberTimeout t tag rank) s = .next s)))

/-! ## Semaphores, heaps and jobs -/

/-- R201 to R203: SIG queues an increment for the member's semaphore; SWAIT and STRY take from the tile's own semaphore that the
index names when its count suffices, and SSET writes it; the count and event of the semaphore change at once.
Log 19, 24: the model's own readings and choices that it rests on. -/
def Obligations.SemaphoreWords : Prop :=
  ∀ (f : FAbi) (g : FAi) (h : FAdi) (s : State),
    let a := fun (o : State) (i : Instr) => (o.srcS i 0).v.toNat
    let good := fun (o : State) (i : Instr) => (o.srcS i 0).p = false ∧ a o i < 2 ^ 32
    let count := fun (o : State) (i : Instr) => o.semCount o.iss.tile (o.ownSem i)
    let take := fun (o : State) (i : Instr) =>
      if a o i = 0 then o else o.setSem o.iss.tile (o.ownSem i) (count o i - a o i)
    (∀ (x : Gang) (m : Member) (k : Nat), CompletesIf s (.sig f) (fun o => good o (.sig f) ∧ (o.srcS (.sig f) 1).p = false ∧
        a o (.sig f) < o.iss.pre.gangsize ∧ (o.srcS (.sig f) 1).v.toNat < 2 ^ 32 ∧ o.gangOf o.iss.pre.gang = some x ∧
        x.members[a o (.sig f)]? = some m ∧ m.sems[o.immU (.sig f)]? = some k) fun o =>
      { o with sigs := o.sigs ++ [{ tile := m.tile, sem := k, gang := o.iss.pre.gang, n := (o.srcS (.sig f) 1).v.toNat,
                                    src := some (o.iss.tile, o.iss.slot, o.iss.pre.taskid, o.iss.pre.bundles) }] }) ∧
    TrapsIf s (.sig f) (fun o => (o.srcS (.sig f) 0).p = true ∨ (o.srcS (.sig f) 1).p = true) 0x0D 0 ∧
    (∀ n, TrapsIf s (.sig f) (fun o => (o.srcS (.sig f) 0).p = false ∧ (o.srcS (.sig f) 1).p = false ∧ a o (.sig f) = n ∧
      o.iss.pre.gangsize ≤ n) 0x0B n) ∧
    TrapsIf s (.sig f) (fun o => (o.srcS (.sig f) 0).p = false ∧ (o.srcS (.sig f) 1).p = false ∧
      a o (.sig f) < o.iss.pre.gangsize ∧ 2 ^ 32 ≤ (o.srcS (.sig f) 1).v.toNat) 0x03 0 ∧
    (CompletesIf s (.swait g) (fun o => good o (.swait g) ∧ a o (.swait g) ≤ count o (.swait g)) fun o =>
      let q := o.modIss fun y => { y with switch := true }
      if a o (.swait g) = 0 then q else q.setSem o.iss.tile (o.ownSem (.swait g)) (count o (.swait g) - a o (.swait g))) ∧
    (s.turn (.swait g) = true → good s.openBundle (.swait g) → count s.openBundle (.swait g) < a s.openBundle (.swait g) →
      exec (.swait g) s = .next (s.openBundle.awaits (.swait g) (.swait (s.openBundle.ownSem (.swait g)) (a s.openBundle (.swait g)))
        (s.openBundle.modIss fun y => { y with switch := true }))) ∧
    (CompletesIf s (.stry h) (fun o => good o (.stry h)) fun o =>
      if a o (.stry h) ≤ count o (.stry h) then (take o (.stry h)).modCur fun c => c.setS h.d.toNat { v := 1 }
      else o.modCur fun c => c.setS h.d.toNat {}) ∧
    (CompletesIf s (.sset g) (fun o => good o (.sset g)) fun o => o.setSem o.iss.tile (o.ownSem (.sset g)) (a o (.sset g))) ∧
    (∀ i ∈ [Instr.swait g, .stry h, .sset g], TrapsIf s i (fun o => (o.srcS i 0).p = true) 0x0D 0 ∧
      TrapsIf s i (fun o => (o.srcS i 0).p = false ∧ 2 ^ 32 ≤ a o i) 0x03 0)

/-- R210 to R228: each heap word acts on the instance that HEAPSEL names on its die. An instance of another partition raises ACCESS
and an unused one ILLEGAL_STATE, except that HSUM reads an unused one as zero. HOPEN answers its codes. R349: TLBINV removes the
translations of its partition, or those of one page, and holds later bundles of its context.
Log 16: the model's own readings and choices that it rests on. -/
def Obligations.HeapWords : Prop :=
  ∀ (f : FAbd) (g : FD) (h : FAbi) (k : FAd) (l : FA) (q : FTlb) (s : State),
    let heap := fun (o : State) => o.heapAt o.iss.pre.heapDie o.iss.pre.heapsel.toNat
    let own := fun (o : State) => (heap o).owner = (o.tileAt o.iss.tile).partid
    let put := fun (o : State) (x : HeapInst × Bool) => o.putHeap o.iss.pre.heapDie o.iss.pre.heapsel.toNat x.1 x.2
    let a := fun (o : State) (i : Instr) (n : Nat) => (o.srcS i n).v.toNat
    let sreg := fun (o : State) (d : BitVec 5) (n : Nat) => o.modCur fun c => c.setS d.toNat { v := BitVec.ofNat 64 n }
    let two := fun (o : State) (i : Instr) => (o.srcS i 0).p = false ∧ (o.srcS i 1).p = false ∧ a o i 1 < 2 ^ 32
    (∀ e, CompletesIf s (.hpush f) (fun o => own o ∧ (heap o).st = .opened ∧ two o (.hpush f) ∧ a o (.hpush f) 0 < 2 ^ 32 ∧
        firstFree 0 (heap o).entries = some e) fun o =>
      let n := a o (.hpush f) 1
      let st : EntryState := if 0 < n then .queued else .idle
      let en : HeapEntry := { task := BitVec.ofNat 32 (a o (.hpush f) 0), gain := n, st := st }
      sreg (put o ({ heap o with sum := (heap o).sum + n, entries := (heap o).entries.set e en }, decide (0 < n))) f.d e) ∧
    TrapsIf s (.hpush f) (fun o => own o ∧ (heap o).st = .opened ∧ two o (.hpush f) ∧ a o (.hpush f) 0 < 2 ^ 32 ∧
      firstFree 0 (heap o).entries = none) 0x16 0 ∧
    (CompletesIf s (.hpush f) (fun o => own o ∧ (heap o).st = .closed ∧ two o (.hpush f) ∧ a o (.hpush f) 0 < 2 ^ 32) fun o =>
      sreg (put o (heap o, false)) f.d (2 ^ 63 + 1)) ∧
    (∀ e gain, CompletesIf s (.hpop g) (fun o => own o ∧ (heap o).st = .opened ∧ topQueued 0 (heap o).entries = some (e, gain))
      fun o =>
        let en := (heap o).entries.getD e {}
        let y := { heap o with sum := (heap o).sum - gain, entries := (heap o).entries.set e { en with gain := 0, st := .running } }
        sreg (sreg (put o y.checkClose) g.d (en.task.toNat * 2 ^ 32 + e)) (g.d + 1) gain) ∧
    (CompletesIf s (.hpop g) (fun o => own o ∧ (heap o).st = .opened ∧ topQueued 0 (heap o).entries = none) fun o =>
      sreg (sreg (put o (heap o, false)) g.d (2 ^ 64 - 2)) (g.d + 1) 0) ∧
    (CompletesIf s (.hpop g) (fun o => own o ∧ (heap o).st = .closed) fun o =>
      sreg (sreg (put o (heap o, false)) g.d (2 ^ 64 - 1)) (g.d + 1) 0) ∧
    (∀ en, CompletesIf s (.hupd h) (fun o => own o ∧ (heap o).st ≠ .unused ∧ two o (.hupd h) ∧
        (heap o).entries[a o (.hupd h) 0]? = some en ∧ en.st ≠ .free) fun o =>
      let x := (heap o).setGain (a o (.hupd h) 0) (hupdGain (o.immU (.hupd h)) en.gain (a o (.hupd h) 1))
      put o (x.1.checkClose.1, x.2 || x.1.checkClose.2)) ∧
    (∀ en, CompletesIf s (.hread k) (fun o => own o ∧ (heap o).st ≠ .unused ∧ (o.srcS (.hread k) 0).p = false ∧
        (heap o).entries[a o (.hread k) 0]? = some en) fun o =>
      sreg (put o (heap o, false)) k.d (en.st.code * 2 ^ 32 + en.gain)) ∧
    (∀ en, CompletesIf s (.hdone l) (fun o => own o ∧ (heap o).st ≠ .unused ∧ (o.srcS (.hdone l) 0).p = false ∧
        (heap o).entries[a o (.hdone l) 0]? = some en ∧ en.st = .running) fun o =>
      let q := (heap o).st == .opened && decide (0 < en.gain)
      let e' : HeapEntry := { en with st := if q then .queued else .idle }
      put o ({ heap o with entries := (heap o).entries.set (a o (.hdone l) 0) e' }, q)) ∧
    (∀ i ∈ [Instr.hread k, .hdone l], TrapsIf s i (fun o => own o ∧ (heap o).st ≠ .unused ∧ (o.srcS i 0).p = false ∧
      (heap o).entries.length ≤ a o i 0) 0x10 0) ∧
    (CompletesIf s (.hclose g) (fun o => own o ∧ (heap o).st = .opened) fun o => sreg (put o ((heap o).close, true)) g.d 0) ∧
    (CompletesIf s (.hclose g) (fun o => own o ∧ (heap o).st = .closed) fun o => sreg (put o (heap o, false)) g.d 1) ∧
    (CompletesIf s (.hsum g) (fun o => (heap o).st = .unused ∨ own o) fun o =>
      sreg o g.d (match (heap o).st with
        | .unused => 0
        | .opened => 2 ^ 62 + (heap o).sum
        | .closed => 2 * 2 ^ 62 + (heap o).sum)) ∧
    (∀ i ∈ [Instr.hpop g, .hclose g, .hsum g], TrapsIf s i (fun o => (heap o).st ≠ .unused ∧ ¬own o) 0x0B 0) ∧
    (∀ i ∈ [Instr.hpop g, .hclose g], TrapsIf s i (fun o => (heap o).st = .unused) 0x10 0) ∧
    (let refused := fun (i : Instr) (q : State → Prop) => TrapsIf s i (fun o => q o ∧ (heap o).st ≠ .unused ∧ ¬own o) 0x0B 0 ∧
       TrapsIf s i (fun o => q o ∧ (heap o).st = .unused) 0x10 0
     refused (.hpush f) (fun o => two o (.hpush f) ∧ a o (.hpush f) 0 < 2 ^ 32) ∧ refused (.hupd h) (fun o => two o (.hupd h)) ∧
     refused (.hread k) (fun o => (o.srcS (.hread k) 0).p = false) ∧ refused (.hdone l) (fun o => (o.srcS (.hdone l) 0).p = false)) ∧
    (∀ i ∈ [Instr.hpush f, .hupd h], TrapsIf s i (fun o => (o.srcS i 0).p = true ∨ (o.srcS i 1).p = true) 0x0D 0) ∧
    (∀ i ∈ [Instr.hread k, .hdone l], TrapsIf s i (fun o => (o.srcS i 0).p = true) 0x0D 0) ∧
    TrapsIf s (.hpush f) (fun o => (o.srcS (.hpush f) 0).p = false ∧ (o.srcS (.hpush f) 1).p = false ∧
      (2 ^ 32 ≤ a o (.hpush f) 0 ∨ 2 ^ 32 ≤ a o (.hpush f) 1)) 0x03 0 ∧
    TrapsIf s (.hupd h) (fun o => (o.srcS (.hupd h) 0).p = false ∧ (o.srcS (.hupd h) 1).p = false ∧ 2 ^ 32 ≤ a o (.hupd h) 1) 0x03 0 ∧
    TrapsIf s (.hupd h) (fun o => own o ∧ (heap o).st ≠ .unused ∧ two o (.hupd h) ∧
      ∀ en, (heap o).entries[a o (.hupd h) 0]? = some en → en.st = .free) 0x10 0 ∧
    (∀ en, TrapsIf s (.hdone l) (fun o => own o ∧ (heap o).st ≠ .unused ∧ (o.srcS (.hdone l) 0).p = false ∧
      (heap o).entries[a o (.hdone l) 0]? = some en ∧ en.st ≠ .running) 0x10 0) ∧
    (∀ x o1, s.turn (.hopen k) = true → readDesc s.openBundle (s.openBundle.srcS (.hopen k) 0) 64 true = (.ok x, o1) →
      ((x &&& heapMask ≠ x ∨ 65536 < bits x 0 17 ∨ bits x 0 17 < bits x 32 17) →
        exec (.hopen k) s = .next (s.openBundle.fails (.hopen k) 0x10 0 o1)) ∧
      (x &&& heapMask = x → bits x 0 17 ≤ 65536 → bits x 32 17 ≤ bits x 0 17 → (heap o1).st ≠ .unused → ¬own o1 →
        exec (.hopen k) s = .next (s.openBundle.fails (.hopen k) 0x0B 0 o1))) ∧
    (∀ e o1, s.turn (.hopen k) = true → readDesc s.openBundle (s.openBundle.srcS (.hopen k) 0) 64 true = (.error e, o1) →
      exec (.hopen k) s = .next (s.openBundle.fails (.hopen k) e.1 e.2 o1)) ∧
    (∀ x o1, CompletesIf s (.hopen k) (fun o => readDesc o (o.srcS (.hopen k) 0) 64 true = (.ok x, o1) ∧ x &&& heapMask = x ∧
        bits x 0 17 ≤ 65536 ∧ bits x 32 17 ≤ bits x 0 17 ∧ ((heap o1).st = .unused ∨ own o1)) fun _ =>
      sreg (hopenOp x o1).1 k.d (hopenOp x o1).2) ∧
    (∀ x, (heap s).st = .opened → hopenOp x s = (s, 3)) ∧
    (∀ x, (heap s).st = .unused → bits x 0 17 = 0 → hopenOp x s = (s, 2)) ∧
    (∀ x, (heap s).st = .closed → bits x 0 17 = 0 → hopenOp x s = (put s ({}, false), 2)) ∧
    (∀ x, (heap s).st ≠ .opened → bits x 0 17 ≠ 0 →
      (65536 + (heap s).entries.length < (s.dieAt s.iss.pre.heapDie).heapUsed + bits x 0 17 → hopenOp x s = (s, 4)) ∧
      (∀ ks, (s.dieAt s.iss.pre.heapDie).heapUsed + bits x 0 17 ≤ 65536 + (heap s).entries.length →
        bits x 128 23 + 8 * bits x 32 17 ≤ 0x800000 → listKeys s (bits x 128 23) (bits x 32 17) = some ks → s.quiet = true →
        (∀ y ∈ ks, s.poisoned y = false) →
        let z := openInst (s.tileAt s.iss.tile).partid (bits x 0 17) (bits x 64 48) (ks.map fun y => s.rd y 8)
        hopenOp x s = (put s z, if z.2 = true then 1 else 0)) ∧
      ((s.dieAt s.iss.pre.heapDie).heapUsed + bits x 0 17 ≤ 65536 + (heap s).entries.length →
        (0x800000 < bits x 128 23 + 8 * bits x 32 17 ∨ listKeys s (bits x 128 23) (bits x 32 17) = none → hopenOp x s = (s, 5)) ∧
        ∀ ks y, bits x 128 23 + 8 * bits x 32 17 ≤ 0x800000 → listKeys s (bits x 128 23) (bits x 32 17) = some ks → s.quiet = true →
          y ∈ ks → s.poisoned y = true → hopenOp x s = (s, 5))) ∧
    (let va := fun (o : State) => if o.immU (.tlbinv q) = 1 then none else some (o.srcS (.tlbinv q) 0).v
     let good := fun (o : State) => o.immU (.tlbinv q) = 1 ∨ ((o.srcS (.tlbinv q) 0).p = false ∧ a o (.tlbinv q) 0 < 2 ^ 48)
     CompletesIf s (.tlbinv q) good (fun o =>
       ((o.tlbInvalidate ((o.tileAt o.iss.tile).partid.getD 32) (va o)).modTile o.iss.tile fun x => { x with icache := [] }).modCur
         fun c => { c with tlb := some (va o) }) ∧
     TrapsIf s (.tlbinv q) (fun o => o.immU (.tlbinv q) ≠ 1 ∧ (o.srcS (.tlbinv q) 0).p = true) 0x0D 0 ∧
     TrapsIf s (.tlbinv q) (fun o => o.immU (.tlbinv q) ≠ 1 ∧ (o.srcS (.tlbinv q) 0).p = false ∧ 2 ^ 48 ≤ a o (.tlbinv q) 0) 0x03 0 ∧
     (s.turn (.tlbinv q) = true → s.openBundle.iss.pre.mode = true)) ∧
    (∀ p va, let u := s.tlbInvalidate p va
      u.mem = s.mem ∧ u.poison = s.poison ∧ (∀ d ∈ u.dies, ∀ x ∈ d.walks, walkHit p va x = false) ∧
      (∀ d ∈ u.dies, ∀ w ∈ d.walking, walkStale p va w = false) ∧
      ∀ x ∈ u.tiles, x.partid = some p → ∀ b ∈ x.burin, ∀ e ∈ b.tlb, tlbHit p va e = false)

/-- R184 to R200: the words that launch, count, wait for and hand over work. LAUNCH answers the packet's own code or the handle of the
job that it queues; a task adds to its job's expectation, posts, waits for a job, takes an iteration range, hands a region over,
suspends or ends. Log 25, 31, 32, 33, 34: the model's own readings and choices that it rests on. -/
def Obligations.JobWords : Prop :=
  ∀ (f : FAd) (g : FA) (h : FAb) (k : FD) (s o1 : State) (x : Nat) (e : Nat × Nat),
    let o := s.openBundle
    let p := BitVec.ofNat 512 x
    let part := fun (o : State) => (o.tileAt o.iss.tile).partid.getD 32
    let sreg := fun (o : State) (d : BitVec 5) (v : W64) => o.modCur fun c => c.setS d.toNat { v := v }
    (CompletesIf s (.launch f) (fun o => readDesc o (o.srcS (.launch f) 0) 64 true = (.ok x, o1) ∧ o1.launchCode (part o1) p ≠ 0)
      fun _ => sreg o1 f.d (BitVec.ofNat 64 (2 ^ 63 + o1.launchCode (part o1) p))) ∧
    (∀ slot gen, CompletesIf s (.launch f) (fun o => readDesc o (o.srcS (.launch f) 0) 64 true = (.ok x, o1) ∧
        o1.launchCode (part o1) p = 0 ∧ o1.freeBlock (dieOf o1.iss.tile) = some (slot, gen) ∧ o1.queued (dieOf o1.iss.tile) < 4096)
      fun _ =>
        let r := o1.enqueue (dieOf o1.iss.tile) (part o1) slot gen p
          (some (o1.iss.tile, o1.iss.slot, o1.iss.pre.taskid, o1.iss.pre.gang)) none
        sreg (r.1.modCur fun c => { c with throttled := c.throttled || (r.1.dieAt (dieOf o1.iss.tile)).deep }) f.d r.2) ∧
    (s.turn (.launch f) = true → readDesc o (o.srcS (.launch f) 0) 64 true = (.ok x, o1) → o1.launchCode (part o1) p = 0 →
      (o1.freeBlock (dieOf o1.iss.tile) = none ∨ 4096 ≤ o1.queued (dieOf o1.iss.tile)) →
      exec (.launch f) s = .next (o.fails (.launch f) 0x17 0 o1)) ∧
    (s.turn (.launch f) = true → readDesc o (o.srcS (.launch f) 0) 64 true = (.error e, o1) →
      exec (.launch f) s = .next (o.fails (.launch f) e.1 e.2 o1)) ∧
    (∀ j, CompletesIf s (.expectAdd g) (fun o => (o.srcS (.expectAdd g) 0).p = false ∧ o.jobOf o.cur.jobh = some j ∧
        j.e + (o.srcS (.expectAdd g) 0).v.toNat < 2 ^ 32 ∧ o.cur.posted = false) fun o =>
      o.modJob o.cur.jobh fun j => { j with e := j.e + (o.srcS (.expectAdd g) 0).v.toNat }) ∧
    (TrapsIf s (.expectAdd g) (fun o => (o.srcS (.expectAdd g) 0).p = false ∧ o.cur.posted = true) 0x10 0) ∧
    (TrapsIf s (.expectAdd g) (fun o => (o.srcS (.expectAdd g) 0).p = false ∧ ∀ j, o.jobOf o.cur.jobh = some j →
      2 ^ 32 ≤ j.e + (o.srcS (.expectAdd g) 0).v.toNat) 0x10 0) ∧
    (∀ i ∈ [Instr.expectAdd g, .jwait f], TrapsIf s i (fun o => (o.srcS i 0).p = true) 0x0D 0) ∧
    (∀ j, CompletesIf s (.post h) (fun o => (o.srcS (.post h) 0).p = false ∧ (o.srcS (.post h) 1).p = false ∧
        (o.srcS (.post h) 1).v.toNat < 2 ^ 32 ∧ o.jobOf (o.srcS (.post h) 0).v = some j ∧ j.part = part o) fun o =>
      let q := o.modJob (o.srcS (.post h) 0).v fun j => j.post (o.srcS (.post h) 1).v.toNat
      if (o.srcS (.post h) 0).v = o.cur.jobh ∧ (o.srcS (.post h) 1).v ≠ 0 then q.modCur fun c => { c with posted := true } else q) ∧
    TrapsIf s (.post h) (fun o => (o.srcS (.post h) 0).p = true ∨ (o.srcS (.post h) 1).p = true) 0x0D 0 ∧
    TrapsIf s (.post h) (fun o => (o.srcS (.post h) 0).p = false ∧ (o.srcS (.post h) 1).p = false ∧
      2 ^ 32 ≤ (o.srcS (.post h) 1).v.toNat) 0x03 0 ∧
    TrapsIf s (.post h) (fun o => (o.srcS (.post h) 0).p = false ∧ (o.srcS (.post h) 1).p = false ∧
      (o.srcS (.post h) 1).v.toNat < 2 ^ 32 ∧ ∀ j, o.jobOf (o.srcS (.post h) 0).v = some j → j.part ≠ part o) 0x10 0 ∧
    (∀ j, CompletesIf s (.jwait f) (fun o => (o.srcS (.jwait f) 0).p = false ∧ o.blockOf (o.srcS (.jwait f) 0).v = some j ∧
        0 < bits (o.srcS (.jwait f) 0).v.toNat 16 32 ∧ bits (o.srcS (.jwait f) 0).v.toNat 16 32 < j.gen.toNat ∧
        o.isAncestor (o.srcS (.jwait f) 0).v 32768 o.iss.pre.jobh = false) fun o =>
      sreg (o.modIss fun y => { y with switch := true }) f.d 2) ∧
    (∀ j, CompletesIf s (.jwait f) (fun o => (o.srcS (.jwait f) 0).p = false ∧ o.blockOf (o.srcS (.jwait f) 0).v = some j ∧
        0 < bits (o.srcS (.jwait f) 0).v.toNat 16 32 ∧ bits (o.srcS (.jwait f) 0).v.toNat 16 32 = j.gen.toNat ∧
        some j.part = (o.tileAt o.iss.tile).partid ∧ j.complete = true ∧
        o.isAncestor (o.srcS (.jwait f) 0).v 32768 o.iss.pre.jobh = false) fun o =>
      sreg (o.modIss fun y => { y with switch := true }) f.d (BitVec.ofNat 64 j.status)) ∧
    (∀ j, s.turn (.jwait f) = true → (o.srcS (.jwait f) 0).p = false → o.blockOf (o.srcS (.jwait f) 0).v = some j →
      0 < bits (o.srcS (.jwait f) 0).v.toNat 16 32 → bits (o.srcS (.jwait f) 0).v.toNat 16 32 = j.gen.toNat →
      some j.part = (o.tileAt o.iss.tile).partid → j.complete = false →
      o.isAncestor (o.srcS (.jwait f) 0).v 32768 o.iss.pre.jobh = false →
      exec (.jwait f) s = .next (o.awaits (.jwait f) (.jwait f.d (o.srcS (.jwait f) 0).v) (o.modIss fun y => { y with switch := true }))) ∧
    (TrapsIf s (.jwait f) (fun o => (o.srcS (.jwait f) 0).p = false ∧ ∀ j, o.blockOf (o.srcS (.jwait f) 0).v = some j →
      bits (o.srcS (.jwait f) 0).v.toNat 16 32 = 0 ∨ j.gen.toNat < bits (o.srcS (.jwait f) 0).v.toNat 16 32 ∨
      (bits (o.srcS (.jwait f) 0).v.toNat 16 32 = j.gen.toNat ∧ some j.part ≠ (o.tileAt o.iss.tile).partid) ∨
      o.isAncestor (o.srcS (.jwait f) 0).v 32768 o.iss.pre.jobh = true) 0x10 0) ∧
    (∀ j, CompletesIf s (.rget k) (fun o => o.jobOf o.iss.pre.jobh = some j ∧ pktKIND j.pkt = 1) fun o =>
      let r := j.rget o.iss.pre.taskid
      sreg (sreg (o.modJob o.iss.pre.jobh fun _ => r.2) k.d r.1.1) (k.d + 1) r.1.2) ∧
    TrapsIf s (.rget k) (fun o => ∀ j, o.jobOf o.iss.pre.jobh = some j → pktKIND j.pkt ≠ 1) 0x10 0 ∧
    (CompletesIf s (.handoff h) (fun o =>
        let t := o.tileAt o.iss.tile
        let n := (o.srcS (.handoff h) 0).v.toNat
        (o.srcS (.handoff h) 0).p = false ∧ (o.srcS (.handoff h) 1).p = false ∧ n < 128 ∧ entVALID (t.rmap.getD n 0) = true ∧
        entPARK (t.rmap.getD n 0) = false ∧
        entOWNER (t.rmap.getD n 0) = o.iss.slot ∧ (o.srcS (.handoff h) 1).v.setWidth 32 ≠ o.iss.pre.taskid ∧
        (∀ y ∈ t.handoffs, y.1 ≠ n) ∧ t.handoffs.length < 16) fun o =>
      o.modTile o.iss.tile fun t => { t with handoffs := t.handoffs ++
        [((o.srcS (.handoff h) 0).v.toNat, (o.srcS (.handoff h) 1).v.setWidth 32, o.iss.pre.jobh)] }) ∧
    TrapsIf s (.handoff h) (fun o => (o.srcS (.handoff h) 0).p = true ∨ (o.srcS (.handoff h) 1).p = true) 0x0D 0 ∧
    TrapsIf s (.handoff h) (fun o =>
      let t := o.tileAt o.iss.tile
      let n := (o.srcS (.handoff h) 0).v.toNat
      (o.srcS (.handoff h) 0).p = false ∧ (o.srcS (.handoff h) 1).p = false ∧ (127 < n ∨ entVALID (t.rmap.getD n 0) = false ∨
        entPARK (t.rmap.getD n 0) = true ∨ entOWNER (t.rmap.getD n 0) ≠ o.iss.slot ∨
        (o.srcS (.handoff h) 1).v.setWidth 32 = o.iss.pre.taskid ∨ ∃ y ∈ t.handoffs, y.1 = n)) 0x10 0 ∧
    TrapsIf s (.handoff h) (fun o =>
      let t := o.tileAt o.iss.tile
      let n := (o.srcS (.handoff h) 0).v.toNat
      (o.srcS (.handoff h) 0).p = false ∧ (o.srcS (.handoff h) 1).p = false ∧ n < 128 ∧ entVALID (t.rmap.getD n 0) = true ∧
        entPARK (t.rmap.getD n 0) = false ∧ entOWNER (t.rmap.getD n 0) = o.iss.slot ∧
        (o.srcS (.handoff h) 1).v.setWidth 32 ≠ o.iss.pre.taskid ∧ (∀ y ∈ t.handoffs, y.1 ≠ n) ∧ 16 ≤ t.handoffs.length) 0x17 0 ∧
    (∀ n, TrapsIf s (.suspend g) (fun o => (o.srcS (.suspend g) 0).p = false ∧ (o.srcS (.suspend g) 0).v.toNat = n ∧ n % 64 ≠ 0) 0x0A n) ∧
    (∀ n, TrapsIf s (.suspend g) (fun o => (o.srcS (.suspend g) 0).p = false ∧ (o.srcS (.suspend g) 0).v.toNat = n ∧ n % 64 = 0 ∧
      0x800000 ≤ n) 0x0B n) ∧
    (∀ y, TrapsIf s (.suspend g) (fun o => (o.srcS (.suspend g) 0).p = false ∧ (o.srcS (.suspend g) 0).v.toNat % 64 = 0 ∧
      (o.srcS (.suspend g) 0).v.toNat < 0x800000 ∧
      o.locate o.iss.tile o.iss.slot o.iss.pre (o.srcS (.suspend g) 0).v.toNat 64 true = .error y) y.1 y.2) ∧
    (∀ l, s.turn (.suspend g) = true → (o.srcS (.suspend g) 0).p = false → (o.srcS (.suspend g) 0).v.toNat % 64 = 0 →
      (o.srcS (.suspend g) 0).v.toNat < 0x800000 →
      o.locate o.iss.tile o.iss.slot o.iss.pre (o.srcS (.suspend g) 0).v.toNat 64 true = .ok l →
      exec (.suspend g) s = .next ((o.record (.ends o)).closeWord (o.words (.suspend g)))) ∧
    TrapsIf s (.suspend g) (fun o => (o.srcS (.suspend g) 0).p = true) 0x0D 0 ∧
    (s.turn .tdone = true → exec .tdone s = .next ((o.record (.ends o)).closeWord (o.words .tdone)))

/-! ## Waits, arrivals, traps, gangs, margin, management and start -/

/-- R23, R81, R167, R196, R203, R208, R326, R349: the waiting words of a bundle complete together, once all of them can, and the bundle goes
on; a BWAIT on another tile reads its object over the mesh until it ends. R49 to R51, R203, R237, R245, R289, R301, R364: a request is
applied at its home, a vector load doubleword by doubleword, and is lost at a tile out of service; an answer reaches its context, a signal
its semaphore, a queued write its bank, and the scrubber visits one doubleword after another; a plate of code is asked for, enters the
instruction cache, or faults the context that waits for it.
Log 5, 18, 36, 52, 54, 59: the model's own readings and choices that it rests on. -/
def Obligations.WakesAndArrivals : Prop :=
  ∀ (s v u : State) (t slot k : Nat) (h : Held) (pos : Nat),
    let wakes := fun (i : Instr) (w : WaitKind) (u : State) => s.heldOf t slot = some h → h.waits = [(pos, w)] →
      exec i s = .next (u.settle t slot { h with done := h.done ||| 2 ^ pos, waits := [] })
    let result := fun (s : State) (d : BitVec 5) (x : W64) => s.modCtx t slot fun c => c.setS d.toNat { v := x }
    let ended := fun (s : State) (d : BitVec 5) (w : Bool) (code : Nat) (x : SVal) => s.modCtx t slot fun c =>
      let r : SVal := { v := barStatus code x.v.toNat, p := x.p }
      (if w then c.setS d.toNat r else c).push 1 (.scalar r)
    (∀ e ∈ ([(.swaitWake t slot, fun | .swait _ _ => true | _ => false), (.cwaitWake t slot, fun | .cwait _ _ _ => true | _ => false),
        (.mwaitWake t slot, fun | .mwait _ _ => true | _ => false), (.jwaitWake t slot, fun | .jwait _ _ => true | _ => false),
        (.waitevWake t slot, fun | .waitev _ => true | _ => false), (.bwaitLimit t slot, WaitKind.isBwait)] :
        List (Instr × (WaitKind → Bool))),
      s.heldOf t slot = some h → (h.waitFor e.2).isSome = true →
        (s.endWaits t slot h.waits = none → exec e.1 s = .next s) ∧
        (∀ x, s.endWaits t slot h.waits = some x →
          exec e.1 s = .next (x.settle t slot { h with done := addDone h.done h.waits, waits := [] }))) ∧
    (∀ sem n, n ≤ s.semCount t sem → wakes (.swaitWake t slot) (.swait sem n) (s.setSem t sem (s.semCount t sem - n))) ∧
    (∀ d e tag, ((s.burinAt t e).done - tag).toNat < 2 ^ 31 →
      wakes (.cwaitWake t slot) (.cwait d e tag) (result s d (s.tagStatus t slot e tag))) ∧
    (∀ d seq, ((s.tileAt t).mdone - seq).toNat < 2 ^ 31 →
      wakes (.mwaitWake t slot) (.mwait d seq) (result s d (matStatus (s.tileAt t) slot (s.ctxAt t slot)))) ∧
    (∀ d job n, s.jobStatus job = some n → wakes (.jwaitWake t slot) (.jwait d job) (result s d (BitVec.ofNat 64 n))) ∧
    (∀ m, evReady (s.ctxAt t slot) m = true → wakes (.waitevWake t slot) (.waitev m) (s.modCtx t slot fun c => c.clearEvents m)) ∧
    (∀ d w addr cls ph start lim last, s.heldOf t slot = some h →
        h.waitFor WaitKind.isBwait = some (pos, .bwait d w addr cls ph start lim last) →
      (∀ l, s.locate t slot (s.ctxAt t slot) addr.toNat 16 false = .ok l → s.sramReads [l.key / 8] = (v, u) →
        let w0 := v.rd l.key 8
        let x : SVal := { v := BitVec.ofNat 64 w0, p := v.poisoned l.key }
        let g := h.setWait pos (.bwait d w addr cls ph start lim (some x))
        let y := u.modCtx t slot fun c => { c with held := some g }
        let ends := fun (code : Nat) => h.waits = [(pos, .bwait d w addr cls ph start lim last)] → exec (.bwaitRead t slot) s =
          .next ((ended y d w code x).settle t slot { g with done := h.done ||| 2 ^ pos, waits := [] })
        exec (.bwaitRead t slot) s = .next (y.wake t slot g) ∧
        (w0.testBit 37 = false → ends 3) ∧ (w0.testBit 37 = true → w0 / 2 ^ 32 % 16 ≠ ph.toNat → ends 0) ∧
        (w0.testBit 37 = true → w0 / 2 ^ 32 % 16 = ph.toNat → lim = 0 → ends 1) ∧
        (w0.testBit 37 = true → w0 / 2 ^ 32 % 16 = ph.toNat → lim ≠ 0 → ¬lim ≤ ((y.tileAt t).cycle.toNat + 2 ^ 64 - start) % 2 ^ 64 →
          h.waits = [(pos, .bwait d w addr cls ph start lim last)] → exec (.bwaitRead t slot) s = .next y)) ∧
      (∀ e, s.locate t slot (s.ctxAt t slot) addr.toNat 16 false = .error e →
        let g := { h with waits := h.waits.filter fun x => x.1 != pos }
        (h.todo = true → exec (.bwaitRead t slot) s = .next (s.settle t slot g)) ∧
        (h.todo = false → h.trap = none → exec (.bwaitRead t slot) s = .next (s.settle t slot { g with
          trap := some { cause := e.1, word := pos, second := false, faddr := BitVec.ofNat 64 e.2 } })))) ∧
    (∀ d w addr cls ph start lim last, last.v.toNat.testBit 37 = true → last.v.toNat / 2 ^ 32 % 16 = ph.toNat →
        lim ≤ ((s.tileAt t).cycle.toNat + 2 ^ 64 - start) % 2 ^ 64 →
      wakes (.bwaitLimit t slot) (.bwait d w addr cls ph start lim (some last)) (ended s d w 1 last)) ∧
    (s.heldOf t slot = some h → h.ending.isSome = true → h.trap = none → h.brk = none → h.waits = [] →
      exec (.heldEndingWordRelease t slot) s = .next (s.settle t slot h)) ∧
    ((∀ x ∈ s.tiles, x.partid = (s.tileAt t).partid → ∀ b ∈ x.burin, ∀ u ∈ b.units ++ b.fetch, u.inv = false) →
      exec (.tlbinvComplete t slot) s = .next (s.modCtx t slot fun c => { c with tlb := none })) ∧
    (∀ n dw r, s.arrivals[k]? = some (n, dw) → s.mesh[n]? = some r → ((s.mesh.take n).all fun a => !reqBefore s a r dw) = true →
      (s.reachable (r.homeOf dw) = false → exec (.meshArrival k) s = .next { s with mesh := s.mesh.eraseIdx n }) ∧
      (s.reachable (r.homeOf dw) = true → r.act.units = [] →
        let y := s.apply r.home r.act
        let rest := if r.dst = .none then s.mesh.eraseIdx n else s.mesh.set n { r with res := some y.2, holds := [] }
        exec (.meshArrival k) s = .next { y.1 with mesh := rest }) ∧
      (s.reachable (r.homeOf dw) = true → r.act.units ≠ [] →
        let y := s.sramReads [dw]
        let got := r.got ++ [(dw, y.1.rd (8 * dw) 8, y.1.poisoned (8 * dw))]
        let found := got.foldl (fun z x => (z.wr (8 * x.1) 8 x.2.1).mark (8 * x.1) x.2.2) y.2
        (got.length < r.act.units.length →
          exec (.meshArrival k) s = .next { y.2 with mesh := s.mesh.set n { r with got := got } }) ∧
        (r.act.units.length ≤ got.length → exec (.meshArrival k) s = .next { y.2 with
          mesh := s.mesh.set n { r with got := got, res := some (y.2.applyAs found r.home r.act).2, holds := [] } }))) ∧
    (∀ n r, (s.answered t slot)[k]? = some n → s.mesh[n]? = some r →
      let u := ({ s with mesh := s.mesh.eraseIdx n } : State).modCtx t slot fun c =>
        if c.taskid = r.task then c.deliver r.dst (r.res.getD .none) true r.latch else c
      exec (.resultDelivery t slot k) s = .next (match u.heldOf t slot with | some h => u.settle t slot h | none => u)) ∧
    (∀ r, s.sigs[k]? = some r → s.sigGone r = true → (s.tileAt r.tile).semGang.getD r.sem none = some r.gang →
      s.reachable r.tile = true →
      exec (.sigDelivery k) s = .next (({ s with sigs := s.sigs.eraseIdx k } : State).addSem r.tile r.sem r.n)) ∧
    (∀ n w, (s.queuedAt t)[k]? = some n → s.portE[n]? = some w →
      ((s.portE.take n).all fun v => v.home != t || v.dws.all fun d => !w.dws.contains d) = true →
      let u := ({ s with portE := s.portE.eraseIdx n } : State)
      (s.reachable t = false → exec (.portEWriteApply t k) s = .next u) ∧
      (s.reachable t = true → exec (.portEWriteApply t k) s =
        .next (((u.sramReads w.reads).2.takeRead (u.sramReads w.reads).1 w.reads).storeAll w.pieces w.marks)) ∧
      (s.reachable t = true → s.quiet = true → exec (.portEWriteApply t k) s = .next (u.storeAll w.pieces w.marks))) ∧
    (∀ bank line err, bank < 224 → t < s.tiles.length → (s.tileAt t).scrub.getD bank 0 = line → s.quiet = true →
      ∃ (u : State), exec (.patrolScrub t bank line err) s = .next u ∧ u.mem = s.mem ∧
        (u.tileAt t).scrub = (s.tileAt t).scrub.set bank ((line + 1) % if bank < 32 then 32768 else 2048) ∧
        (err = 2 → u.poisoned (bankKey t bank line) = true)) ∧
    (∀ va a p second, s.fillFor t va = some (slot, a, p, second) →
      let base := va / 4096 * 4096
      let c := s.ctxAt t slot
      let limit := c.mode = false ∧ c.clim.toNat ≤ a
      ((s.burinAt t 0).fetchOf .code base = none → (limit → exec (.instructionCacheFill t va) s = .next (s.startFetch t .code base 4 0)) ∧
        (¬limit → exec (.instructionCacheFill t va) s = .next (s.startFetch t .code base 4 4096))) ∧
      (∀ x, (s.burinAt t 0).fetchOf .code base = some x →
        (∀ img, ¬limit → x.len ≠ 0 → x.st = .ready img → exec (.instructionCacheFill t va) s =
          .next ((s.dropFetch t 0 x.uid).modTile t fun y => { y with icache := ((base, img) :: y.icache).take 32 })) ∧
        (∀ e walk out, ¬limit → (x.len ≠ 0 ∨ e = 1) → x.st = .failed e walk out → ∃ tr, tr.word = p ∧ tr.second = second ∧
          (tr.cause = if e = 1 then 0x08 else 0x0D) ∧
          (tr.faddr = BitVec.ofNat 64 (if e = 1 then a / 2 ^ (if x.big then 29 else 16) * 2 ^ (if x.big then 29 else 16) else x.va)) ∧
          exec (.instructionCacheFill t va) s = .next ((s.dropFetch t 0 x.uid).trapEarly t slot tr)) ∧
        (¬limit → x.len = 0 → x.translated = true → exec (.instructionCacheFill t va) s =
          .next (s.modUnit t 0 x.uid fun y => { y with len := 4096 }).grantAll) ∧
        (limit → x.translated = true → ∃ v : State, v.mem = s.mem ∧ exec (.instructionCacheFill t va) s =
          .next (v.trapEarly t slot { cause := 0x09, word := p, second := second, faddr := BitVec.ofNat 64 a }))))

/-- R335: a trap of a context in user mode writes its record into the save area, saves PC, cause, address and mode, empties the
latches, clears the predicate block and goes to TVEC in supervisor mode; nothing outside the record changes.
Log 12, 35, 71: the model's own readings and choices that it rests on. -/
def Obligations.TrapEntry : Prop :=
  ∀ (s : State) (t slot : Nat) (c : Ctx) (tr : Trap) (done : Nat) (npc : Option W64) (lmask : BitVec 64) (snap : Snap),
    s.ctx? t slot = some c → c.mode = false → saveAreaOk (s.tileAt t) slot c = true →
    let u := s.takeTrap t slot tr done npc lmask snap
    let base := proofKey t (s.tileAt t) c 0
    u.ctx? t slot = some
      { c with
        epc := c.pc, cause := BitVec.ofNat 64 (tr.word * 2 ^ 9 + (if tr.second then 1 else 0) * 2 ^ 8 + tr.cause),
        faddr := tr.faddr, pmode := false, mode := true, lat := List.replicate 8 .empty, gcount := 0, gmask := 0, gpred := 0,
        pc := c.tvec, held := none, resume := none, issueNo := 1, detections := 0, afterXret := false } ∧
    (∀ k, k < base ∨ base + 0x1400 ≤ k → readByte u.mem k = readByte s.mem k) ∧
    bits (u.rd base 8) 0 4 = 1 ∧ bits (u.rd base 8) 8 8 = done % 256 ∧ u.rd (base + 8) 8 = c.pc.toNat ∧
    u.rd (base + 0x20) 8 = tr.faddr.toNat ∧ (∀ i < 32, u.rd (base + 0x100 + 8 * i) 8 = (c.sreg i).v.toNat) ∧
    ∀ x j, (x, j) ≠ (t, slot) → u.ctx? x j = s.ctx? x j

/-- R335, R340: a trap entered in user mode and returned from with EPC as it stood gives the context its scalar registers, its predicate
registers, latches, predicate-block state, mode and PC again, and the resumption that its record describes. Log 35, 77, 82: the model's
own readings and choices that it rests on. -/
def Obligations.TrapThenReturn : Prop :=
  ∀ (s : State) (t slot : Nat) (c : Ctx) (tr : Trap) (done : Nat) (npc : Option W64) (lmask : BitVec 64) (snap : Snap),
    s.ctx? t slot = some c → c.mode = false → saveAreaOk (s.tileAt t) slot c = true → c.lat.length = 8 → c.p.length = 8 →
    c.gcount < 16 → done < 256 → snap.sc.length = 32 →
    ∃ v, ((s.takeTrap t slot tr done npc lmask snap).returnTrap t slot).ctx? t slot = some v ∧
      v.mode = false ∧ v.pc = c.pc ∧ v.lat = c.lat ∧ v.gcount = c.gcount ∧ v.gmask = c.gmask ∧ v.gpred = c.gpred ∧
      (∀ i < 32, v.sreg i = c.sreg i) ∧ (∀ i < 8, v.preg i = c.preg i) ∧ v.v = c.v ∧
      ∃ r, v.resume = some r ∧ r.done = done ∧ r.lmask = lmask ∧ r.npc = npc

/-- R81, R323, R324, R335, R336, R340: a proof fault stops the context and writes no record; XRET without a record is one; an asynchronous
trap is entered at a bundle boundary or out of a bundle that waits; a completion handler starts at CHVEC with the pending bits in s24,
at a boundary or out of a wait, and a waiting WAITEV completes first.
Log 15, 35, 37, 59, 72: the model's own readings and choices that it rests on. -/
def Obligations.ProofFaultsAndHandlers : Prop :=
  ∀ (s : State) (t slot : Nat) (c : Ctx), s.ctx? t slot = some c →
    (∀ tr done npc lmask snap, c.mode = true ∨ saveAreaOk (s.tileAt t) slot c = false →
      s.takeTrap t slot tr done npc lmask snap = s.proofFault t slot tr.cause) ∧
    (∀ n, ∃ v, (s.proofFault t slot n).ctx? t slot = some v ∧ v.stopped = true ∧ v.pc = c.pc) ∧
    (∀ n, (s.proofFault t slot n).mem = s.mem ∧ (s.proofFault t slot n).poison = s.poison) ∧
    (saveAreaOk (s.tileAt t) slot c = true → bits (s.rd (proofKey t (s.tileAt t) c 0) 8) 0 4 ≠ 1 →
      ((s.returnTrap t slot).ctxAt t slot).stopped = true ∧ (s.returnTrap t slot).mem = s.mem) ∧
    (∀ cause addr rest, c.asyncTraps = (cause, addr) :: rest → c.asyncReady = true →
      saveAreaOk ((s.mapWrites t slot).tileAt t) slot c = true →
      ∃ u v, exec (.asyncTrapDelivery t slot) s = .next u ∧ u.ctx? t slot = some v ∧ v.mode = true ∧ v.pc = c.tvec ∧
        v.epc = c.pc ∧ v.cause = BitVec.ofNat 64 cause ∧ v.faddr = addr ∧ v.asyncTraps = rest) ∧
    (c.handlerReady = true → (∀ h ∈ c.held, ∀ w ∈ h.waits, ∀ m, w.2 ≠ .waitev m) →
      ∃ u v, exec (.completionHandlerEntry t slot) s = .next u ∧ u.ctx? t slot = some v ∧
      v.pc = c.chvec ∧ v.chActive = true ∧ v.hsPc = c.pc ∧ (25 ≤ c.s.length → (v.sreg 24).v = c.chPend.setWidth 64) ∧
      u.mem = s.mem) ∧
    (∀ h pos m, c.handlerReady = true → c.held = some h → (h.waitFor fun | .waitev _ => true | _ => false) = some (pos, .waitev m) →
      let u := (s.modCtx t slot fun c => c.clearEvents m).endWait t slot h pos
      exec (.completionHandlerEntry t slot) s = .next (if (u.ctxAt t slot).handlerReady = true then u.modCtx t slot fun c =>
        c.enterHandler (match c.held with | none => c.resume | some g => g.back) else u))

/-- R175 to R192, R342 to R348: an instance is dispatched whole; a parameter block is read or ends the job REFUSED; a job completes by
R187; a continuation, a pre-emption, its record and a resumption act on the members of one instance. R20, R21, R177, R210: a member starts
in the state of the table after R21, and its parameter block gives it its bindings and its records.
Log 35, 38, 39, 40, 41, 42, 43, 44, 63: the model's own readings and choices that it rests on. -/
def Obligations.GangEvents : Prop :=
  ∀ (s : State) (die t slot gang : Nat),
    (∀ j ts, s.nextDispatch die = some (j, ts) →
      ((∀ x ∈ ts, dieOf x = die) → exec (.gangDispatch die) s = .next (s.dispatch die j ts)) ∧
      ((∃ x ∈ ts, dieOf x ≠ die) → exec (.tileClaim die j.slot) s = .next (s.dispatch die j ts))) ∧
    (∀ g m, s.gangOf (s.ctxAt t slot).gang = some g → (g.members.find? fun m => m.isAt t slot && !m.filled) = some m →
      let y := s.paramBlock m.plates t slot (pktPARAMS g.pkt)
      let refused := fun u : State => (u.stopGang g.id).endJob g.job true false false
      (∀ x, y.2 = .ok x → exec (.parameterBlockFill t slot) s = .next (y.1.setFilled t slot)) ∧
      (y.2 = .bad → exec (.parameterBlockFill t slot) s = .next (refused y.1)) ∧
      ∀ base, y.2 = .need base →
        ((s.burinAt t 0).fetchOf .params base = none → exec (.parameterBlockFill t slot) s = .next (s.startFetch t .params base 1 4096)) ∧
        (∀ w img, (s.burinAt t 0).fetchOf .params base = some w → w.st = .ready img →
          exec (.parameterBlockFill t slot) s = .next ((s.dropFetch t 0 w.uid).addPlate t slot base img)) ∧
        ∀ w a b e, (s.burinAt t 0).fetchOf .params base = some w → w.st = .failed a b e →
          exec (.parameterBlockFill t slot) s = .next (refused (y.1.dropFetch t 0 w.uid))) ∧
    (∀ j, ((s.dieAt die).jobs.find? fun j => j.slot == slot && !j.complete) = some j → s.jobDone die j = true →
      exec (.jobCompletion die slot) s = .next (s.endJob (handleOf die j) false false false)) ∧
    (∀ (j : Job) inst tile g k, j.slot < 4096 → s.freeSlot tile = some k → tile < 512 → tile < s.tiles.length →
      ∃ c, (s.placeMember die j inst gang (tile, g)).1.ctx? tile k = some c ∧
        c.pc.toNat = pktENTRY j.pkt ∧ (∀ i, c.sreg i = {}) ∧ (∀ i, c.v.getD i {} = {}) ∧ (∀ i, 0 < i → i < 8 → c.preg i = 0) ∧
        c.preg 0 = allLanes ∧ c.lat = List.replicate 8 .empty ∧ c.gcount = 0 ∧ (∀ i, c.recs.getD i 0 = 0) ∧ c.held = none ∧
        (∀ x ∈ [0x00, 0x01, 0x02, 0x03, 0x06, 0x08, 0x09, 0x11, 0x12], userRead c 0 0 0 tile x = 0) ∧
        userRead c 0 0 0 tile 0x04 = 0x2FFFF ∧ userRead c 0 0 0 tile 0x18 = (taskOf j.pkt inst g).setWidth 64 ∧
        (userRead c 0 0 0 tile 0x05).toNat = (if pktKIND j.pkt = 2 then pktHEAP j.pkt % 16 + die % 8 * 16 else dieOf tile * 16) ∧
        supRead c (s.tileAt tile) k 0x00 = BitVec.ofNat 64 (k * 2 ^ 4)) ∧
    (∀ ps x va, State.paramBytes ps va 80 2 = .ok x →
      (∀ w < 8, bits (x / 2 ^ (64 * w)) 23 9 = 0 ∧ bits (x / 2 ^ (64 * w)) 56 8 = 0) → bits x 512 7 = 0 → bits x 519 57 = 0 →
      x / 2 ^ 576 % 2 ^ 64 = 0 → s.paramBlock ps t slot va = (s.modCtx t slot fun c =>
        { c with pwb := (List.range 8).map fun w => BitVec.ofNat 64 (x / 2 ^ (64 * w) % 2 ^ 23),
                 pws := (List.range 8).map fun w => BitVec.ofNat 64 (x / 2 ^ (64 * w + 32) % 2 ^ 24) }, .ok 0)) ∧
    (∀ ps e x c, s.ctx? t slot = some c → c.recs.length = 64 → bits e 48 16 = 0 → bits e 87 9 = 0 → bits e 120 7 = 0 →
      bit e 127 = true → bits e 96 24 % 64 = 0 → bits e 64 23 + bits e 96 24 / 64 ≤ 64 →
      State.paramBytes ps (bits e 0 48) (bits e 96 24) (bits e 96 24 / 4096 + 2) = .ok x →
      ∃ d, s.paramEntry ps t slot e = (s.modCtx t slot fun _ => d, .ok 0) ∧ d.s = c.s ∧ d.pc = c.pc ∧ d.pwb = c.pwb ∧
        ∀ i < 64, d.recs.getD i 0 = if bits e 64 23 ≤ i ∧ i < bits e 64 23 + bits e 96 24 / 64
          then BitVec.ofNat 512 (x / 2 ^ (512 * (i - bits e 64 23)) % 2 ^ 512 &&& recMask) else c.recs.getD i 0) ∧
    (∀ g k rest m idx, s.gangOf gang = some g → g.resumeQ = k :: rest → (g.members.zipIdx.find? fun m => m.1.tile == t) = some (m, idx) →
      s.contSlot k t = some slot → g.off = false → (∀ m ∈ g.members, m.saved = none) → m.slot = none →
      (∀ m ∈ g.members, ∀ n, m.slot = some n → (s.ctxAt m.tile n).preState = 0) → (s.tileAt t).fenced = false →
      s.contServed k t slot gang = true → s.vregsUsed t + (if pktV32 g.pkt = true then 32 else 16) ≤ 128 → s.quiet = true →
      t < s.tiles.length → slot < (s.tileAt t).ctx.length →
      let x := s.rd (spKey k.tile (physSp ((s.tileAt k.tile).entry k.addr) k.addr)) 64
      ∃ u c g', exec (.continuationResume gang t) s = .next u ∧ u.mem = s.mem ∧ u.ctx? t slot = some c ∧
        c.pc.toNat = x % 2 ^ 48 ∧ c.taskid = BitVec.ofNat 32 (x / 2 ^ 448) ∧ c.posted = k.posted ∧ c.gangidx = idx ∧
        (∀ i, 1 ≤ i → i ≤ 6 → (c.sreg i).v = BitVec.ofNat 64 (x / 2 ^ (64 * i))) ∧
        u.gangOf gang = some g' ∧ g'.resumeQ = rest) ∧
    ((s.ctxAt t slot).preReq = true → (s.ctxAt t slot).preState = 0 →
      exec (.preemptReq t slot) s = .next (s.requestPreempt (s.ctxAt t slot).gang)) ∧
    (∀ c, s.ctx? t slot = some c → c.stoppable = true → ∃ u, exec (.preemption t slot) s = .next u ∧ u.mem = s.mem ∧
      u.ctx? t slot = some
        { c with preStep := 1, preState := 2, held := none, resume := match c.held with | some h => some h.leave | none => c.resume } ∧
      (∀ m ∈ (u.tileAt t).mq, m.slot = slot → m.fin = true) ∧
      ∀ e, ∀ q ∈ (u.burinAt t e).q, q.slot = slot → q.began = true ∨ q.stop.isSome = true) ∧
    ((s.ctxAt t slot).preStep = 1 →
      let hit := fun c : Copy => c.slot == slot && c.began && !c.cut && (c.stop.isNone || c.stop == some 6)
      let drain := fun (s : State) (e : Nat) => (s.stopCopies t e hit 6).detachWrites t e
        (((s.stopCopies t e hit 6).burinAt t e).units.filter
        fun u => ((s.stopCopies t e hit 6).burinAt t e).q.any fun c => hit c && c.tag == u.tag)
      exec (.drainLimit t slot) s = .next (drain (drain s 0) 1)) ∧
    (∀ c g m, s.ctx? t slot = some c → c.preStep = 1 → c.stopped = false → s.drained t slot c = true →
      saveAreaOk (s.tileAt t) slot c = true → s.gangOf c.gang = some g → (g.members.find? fun m => m.isAt t slot) = some m →
      ∃ u, exec (.proofRecordWrite t slot) s = .next u ∧ u.ctx? t slot = none ∧
        (∀ k, k < proofKey t (s.tileAt t) c 0 ∨ proofKey t (s.tileAt t) c 0 + 0x8400 ≤ k → readByte u.mem k = readByte s.mem k) ∧
        (∀ i, (i < (s.tileAt t).rmap.length ∧ entOWNER ((s.tileAt t).rmap.getD i 0) = slot) →
          entPARK ((u.tileAt t).rmap.getD i 0) = true)) ∧
    (∀ g, s.gangOf gang = some g → g.isBarred = true → exec (.resumption gang) s = .next s) ∧
    (∀ g, s.gangOf gang = some g → g.off = true → g.isBarred = false → (∀ m ∈ g.members, s.canReturn m = true) → s.outranked g = false →
      exec (.resumption gang) s = .next (g.members.foldl State.returnMember s))

/-- R24, R351 to R371: detections, the monitor window, VTGT, operating points, Almanac writes, trims, rails, VMIN, the thermal
observer, gating and the injector. Log 14, 46, 66, 76: the model's own readings and choices that it rests on. -/
def Obligations.MarginEvents : Prop :=
  ∀ (s : State) (t : Nat), t < s.tiles.length →
    let m := (s.tileAt t).margin
    let sets := fun (i : Instr) (x : Margin) => exec i s = .next (s.modMargin t fun _ => x)
    (∀ slot, s.issuesNow t slot = true → exec (.transitDetection t slot) s = .next ((s.injectIssue t slot).2.detect t slot 0)) ∧
    (∀ e n, s.engDets t e = some n → n < 2 → exec (.engineRecomputation t e) s =
      .next ((s.modMargin t fun m => m.count 0 1 0).engDetect t e)) ∧
    (∀ e n, s.engDets t e = some n → n < 2 → (s.engDetect t e).engDets t e = some (n + 1)) ∧
    (∀ e n, s.engDets t e = some n → 2 ≤ n → exec (.engineRecomputation t e) s = .next (s.marginFault t 0)) ∧
    (m.half = true → 8 ≤ m.clean → sets (.halfRateEnd t) { m with half := false, clean := 0 }) ∧
    (m.crossed = true → m.frozen = false → sets (.windowCrossing t) { m with frozen := true, answered := false }) ∧
    (2 ^ 24 ≤ m.wB → m.crossed = false → m.frozen = false → sets (.monitorWindowEnd t)
      { m with wB := 0, wRp := 0, wInj := 0, answered := false }) ∧
    (m.frozen = true → m.answered = true → sets (.windowRestart t)
      { m with wB := 0, wRp := 0, wInj := 0, frozen := false, answered := false }) ∧
    (m.frozen = true → m.answered = false → m.vtgt < 750 → ∃ u, exec (.vtgtRaise t) s = .next u ∧ u.mem = s.mem ∧
      (u.tileAt t).margin.vtgt = m.vtgt + 5 ∧ (u.tileAt t).margin.trim = trimOf s.vmx (m.vtgt + 5) ∧
      (u.tileAt t).margin.answered = true ∧ (u.tileAt t).margin.dirty = true) ∧
    (m.frozen = true → m.answered = false → 750 ≤ m.vtgt → (∀ c ∈ (s.tileAt t).ctx, c = none) → ∃ u, exec (.vtgtRaise t) s = .next u ∧
      (u.tileAt t).fenced = true ∧ almGet (u.tileAt t).margin.work 560 2 = if s.inTest t = true then 3 else 1) ∧
    (2 ^ 30 ≤ m.run → feff m.work m.op.toNat ≤ m.vtgt - 5 → 605 ≤ m.vtgt → ∃ u, exec (.vtgtLower t) s = .next u ∧ u.mem = s.mem ∧
      (u.tileAt t).margin.vtgt = m.vtgt - 5 ∧ (u.tileAt t).margin.run = 0) ∧
    (∀ op, op ≠ m.op.toNat → op = opOf (s.tileTemp t) → ∃ u, exec (.operatingPointChange t op) s = .next u ∧ u.mem = s.mem ∧
      (u.tileAt t).margin.op = BitVec.ofNat 2 op ∧ (u.tileAt t).margin.vtgt = Nat.min 750 (Nat.max m.vtgt (feff m.work op))) ∧
    (∃ u, exec (.almanacWrite t) s = .next u ∧ u.mem = s.mem ∧
      let n := (u.tileAt t).margin
      n.dirty = false ∧ (m.inForce = some true → n.almA = m.almA ∧ almValid n.almB = true ∧
        almGet n.almB 0 16 = (almGet m.almA 0 16 + 1) % 65536 ∧ almGet n.almB 128 16 = m.vtgt % 65536) ∧
      (m.inForce = some false → n.almB = m.almB ∧ almValid n.almA = true)) ∧
    sets (.ldoTrimUpdate t) { m with trim := trimOf s.vmx m.vtgt } ∧
    (∀ r x, s.rails[r]? = some x → x.level < x.target →
      exec (.railStep r) s = .next (s.modRail r fun x => { x with level := x.level + 5 })) ∧
    (∀ r x, s.rails[r]? = some x → x.target < x.level → x.falling = true → ∃ u, exec (.railStep r) s = .next u ∧ u.mem = s.mem ∧
      (u.rails[r]?).map (·.level) = some (x.level - 5) ∧
      (r = 0 → (u.tileAt t).margin.trim = Nat.min m.trim (trimOf (x.level - 5) m.vtgt))) ∧
    (∀ r x, s.rails[r]? = some x → x.hold = true →
      exec (.railHoldExpiry r) s = .next (s.modRail r fun x => { x with hold := false, falling := true })) ∧
    (∀ die r mv, mv < bits (s.vmin die r).toNat 52 12 → exec (.vminSample die r mv) s = .next (s.putVmin die r mv)) ∧
    (∀ die r mv, exec (.vminRearm die r mv) s = .next (s.putVmin die r mv)) ∧
    (∀ tnow tfc watts, tnow.length = 128 → tfc.length = 128 → ∃ u, exec (.thermalObserverUpdate tnow tfc watts) s = .next u ∧
      u.mem = s.mem ∧ u.tnow = tnow ∧ u.tfc = tfc ∧ u.watts = watts ∧
      let f := tfc.getD (clusterOf t) 0
      (u.tileAt t).margin.throt = (if 105 ≤ f then true else if f < 100 then false else m.throt)) ∧
    exec .emergencyGating s = .next ({ s with gated := true } : State).idleAll ∧
    exec .gatingEnd s = .next (((List.range 12).foldl State.flushPort ({ s with gated := false } : State).idleAll).startLinks) ∧
    (∀ die, exec (.injctlEn die) s = .next (s.writeInjCtl die ((s.dieAt die).injCtl ||| 0x4000000)))

/-- R397 to R400: a management command of an agent that does not own the device is answered REFUSED and changes nothing else, and so is
one to a partition that is not active; one to a partition that is being destroyed is answered BUSY.
Log 47, 48, 79: the model's own readings and choices that it rests on. -/
def Obligations.CommandsRefused : Prop :=
  ∀ (s : State) (ag : Agent) (p : Nat),
    (∀ i, (i = Instr.partDestroy ag p ∨ (∃ d m, i = .tileAssign ag p d m) ∨ (∃ v on, i = .vfBind ag p v on) ∨
        (∃ t k x y, i = .suptab ag p t k x y) ∨ (∃ t n k, i = .spanGrant ag p t n k) ∨ (∃ k, i = .keyRotate ag p k) ∨
        (∃ m, i = .grantMask ag p m) ∨ (∃ r v, i = .railVote ag p r v) ∨ (∃ j g, i = .preemptCmd ag p j g) ∨
        (∃ t w, i = .stackCtl ag p t w) ∨ (∃ t o, i = .almanacCmd ag p t o) ∨ (∃ on, i = .twinSetup ag p on) ∨
        (∃ d x y z, i = .injectCmd ag p d x y z) ∨ ∃ b a, i = .rootSet ag p b a) →
      (s.owner ≠ some ag ∨ s.part? p = none → exec i s = .next (s.answer ag 4 1 0)) ∧
      (s.owner = some ag → s.isClosing p = true → exec i s = .next (s.answer ag 4 2 0))) ∧
    (s.owner ≠ some ag → (∀ b, exec (.partCreate ag p b) s = .next (s.answer ag 4 1 0)) ∧
      exec (.handover ag) s = .next (s.answer ag 4 1 0) ∧ (∀ w, exec (.powerState ag p w) s = .next (s.answer ag 4 1 0)) ∧
      ∀ w v, bits w.toNat 0 8 ≠ 0x11 → exec (.registerWrite (.command ag w) v) s = .next (s.answer ag 4 1 0)) ∧
    (s.owner = some ag → ∀ w v, bits w.toNat 0 8 = 0 ∨ 0x12 < bits w.toNat 0 8 →
      exec (.registerWrite (.command ag w) v) s = .next (s.answer ag 4 3 0))

/-- R9, R250, R254, R263, R267, R276, R287, R336, R337, R361, R365, R370, R391, R395 to R401: what the owner's commands do.
Log 41, 47, 48, 49, 50, 69, 79, 83, 105: the model's own readings and choices that it rests on. -/
def Obligations.OwnerCommands : Prop :=
  ∀ (s : State) (ag : Agent) (p : Nat) (x : Part), s.owner = some ag →
    let ok := fun (i : Instr) (u : State) => exec i s = .next (u.answer ag 4 0 0)
    (∀ test, p < 32 → s.part? p = none → ok (.partCreate ag p test) { s with parts := s.parts.set p (some { test := test }) }) ∧
    (s.featOn 3 = false → exec (.powerState ag p .retention) s = .next (s.answer ag 4 3 0)) ∧
    ok (.powerState ag p .idle) { s with power := .idle } ∧ ok (.powerState ag p .active) { s with power := .active } ∧
    ok (.handover ag) { s with offer := some (match ag with | .host => .board | .board => .host) } ∧
    (s.part? p = some x → p < s.parts.length → x.closing = none →
      ((s.beginTeardown ag p).linksBusy p = false → ∃ u, exec (.partDestroy ag p) s = .next u ∧ u.part? p = none ∧
        (∀ y ∈ u.tiles, y.partid ≠ some p) ∧ (∀ v ∈ u.vfs, v.2.part ≠ some p) ∧ ∀ k ∈ u.hbm, ∀ y ∈ k.spans, y.part ≠ p) ∧
      ((s.beginTeardown ag p).linksBusy p = true → exec (.partDestroy ag p) s = .next (s.beginTeardown ag p) ∧
        (s.beginTeardown ag p).isClosing p = true ∧ (s.beginTeardown ag p).mem = s.mem) ∧
      (∀ die mask, die < 8 → ∃ u, exec (.tileAssign ag p die mask) s = .next u ∧ u.mem = s.mem ∧ u.tiles.length = s.tiles.length ∧
        ∀ t < s.tiles.length, u.tileAt t = if dieOf t = die ∧ bit mask.toNat (t % 64) = true ∧ (s.tileAt t).partid = none
          then { s.tileAt t with partid := some p, raflags := 0 } else s.tileAt t) ∧
      (∀ vf, vf < 1024 → (s.vfAt vf).part = none ∨ (s.vfAt vf).part = some p →
        ok (.vfBind ag p vf true) { s.modVf vf fun x => { x with part := some p } with featLock := true }) ∧
      (∀ vf, vf < 1024 → (s.vfAt vf).part = some p → ok (.vfBind ag p vf false) (s.modVf vf fun x => { x with part := none })) ∧
      (∀ t slot tvec proof, (s.tileAt t).partid = some p → slot < 8 → ok (.suptab ag p t slot tvec proof) (s.modTile t fun x =>
        { x with suptab := x.suptab.set slot (tvec &&& 0xFFFFFFFFFFFC, proof &&& 0xFFFFFFFFFFFFFF00) })) ∧
      (∀ st span key, st < 8 → st < s.hbm.length → span < 127 → key < 32 → s.maskHas p key = true →
        (s.stackAt st).spanBusy st span = false → ∃ u, exec (.spanGrant ag p st span key) s = .next u ∧
          (∀ k, readByte u.mem k = if st * 2 ^ 36 + span * 2 ^ 29 ≤ k ∧ k < st * 2 ^ 36 + (span + 1) * 2 ^ 29 then 0
            else readByte s.mem k) ∧
          { idx := span, part := p, key := key, kno := s.keySlots.getD key 0, mno := s.keySlots.getD p 0 } ∈ (u.stackAt st).spans) ∧
      (∀ st span key, st < 8 → span < 127 → key < 32 → s.maskHas p key = true → (s.stackAt st).spanBusy st span = true →
        exec (.spanGrant ag p st span key) s = .next (s.answer ag 4 2 0)) ∧
      (∀ k, k < 32 → s.maskHas p k = true → (∀ y ∈ s.hbm, y.rotate = none) → ∃ u, exec (.keyRotate ag p k) s = .next u ∧
        u.mem = s.mem ∧ u.keys = s.keys + 1 ∧ u.keySlots = s.keySlots.set k (s.keys + 1)) ∧
      (∀ mask, ok (.grantMask ag p mask) (s.modPart p fun x => { x with mask := mask })) ∧
      (∀ rail mv, voteOk rail mv = true →
        ok (.railVote ag p rail mv) (s.modPart p fun x => { x with votes := x.votes.set rail mv }).settleRails) ∧
      (∀ rail mv, voteOk rail mv = false → ok (.railVote ag p rail mv) s) ∧
      (∀ job gi j g, s.jobOf job = some j → j.part = p → (s.gangs.find? fun g => g.job == job && g.inst == gi && !g.off) = some g →
        ok (.preemptCmd ag p job gi) (s.requestPreempt g.id)) ∧
      (∀ st i v, st < 8 → i < 64 →
        let sets := fun wr => s.modStack st fun k => { k with ownNew := k.ownNew ++ [(wr, i, if ownerOk v = true then v
          else BitVec.ofNat 8 (v.toNat / 64 * 64 + ((s.stackAt st).ownerEntry wr i).toNat % 64))] }
        ok (.stackCtl ag p st (.ownRd i v)) (sets false) ∧ ok (.stackCtl ag p st (.ownWr i v)) (sets true)) ∧
      (∀ st v, st < 8 → ok (.stackCtl ag p st (.sctl v)) (s.writeSctl st v)) ∧
      (∀ t, t < 512 → ok (.almanacCmd ag p t .unfence) (s.modMargin t fun m => { m with unfence := true }) ∧
        ok (.almanacCmd ag p t .relearn) (s.modMargin t fun m => { m with relearn := true, dirty := true }) ∧
        ok (.almanacCmd ag p t .read) { s with almRead := s.almRead ++ [(ag, t, (s.tileAt t).margin.stored t)] }) ∧
      (∀ on, s.featOn 1 = true → ok (.twinSetup ag p on) (s.modPart p fun x => { x with twin := if on then some {} else none })) ∧
      (∀ on, s.featOn 1 = false → exec (.twinSetup ag p on) s = .next (s.answer ag 4 3 0)) ∧
      (∀ die seed tiles ctl, s.featOn 2 = true → x.test = true → die < 8 → ok (.injectCmd ag p die seed tiles ctl)
        ((s.modDie die fun d => { d with injSeed := seed, injTiles := tiles }).writeInjCtl die ctl)) ∧
      (∀ pa, pa % 8192 = 0 → inMeta pa = false → pa < 2 ^ 39 →
        ok (.rootSet ag p true pa) (s.modPart p fun x => { x with root := some pa })))

/-- R394 to R404: the claim, the acceptance and the end of an offer, feature writes, posted packets, function-level reset, coalesced
vectors, registers of the management space and the debug port.
Log 15, 64, 67, 70, 79, 106: the model's own readings and choices that it rests on. -/
def Obligations.DevicePorts : Prop :=
  ∀ (s : State) (ag : Agent) (vf : Nat),
    (∀ host board, s.started = true → s.owner = none → host = true ∨ board = true →
      exec (.ownerClaim host board) s = .next { s with owner := some (if host then .host else .board) }) ∧
    (∀ host board, s.owner ≠ none → exec (.ownerClaim host board) s = .next s) ∧
    (s.offer = some ag → exec (.accept ag) s = .next (({ s with owner := some ag, offer := none } : State).answer ag 4 0 0)) ∧
    (s.offer ≠ some ag → exec (.accept ag) s = .next (s.answer ag 4 1 0)) ∧
    exec .handoverExpiry s = .next { s with offer := none } ∧
    (∀ v, exec (.drvfeat v) s = .next (if s.featLock = true then s else { s with drvfeat := v })) ∧
    (∀ off len pkt, (s.vfAt vf).part = none → exec (.launchWindowWrite vf off len pkt) s = .next (s.complete (some vf) off none)) ∧
    (∀ p off len pkt, (s.vfAt vf).part = some p → off ≠ 0 ∨ len ≠ 64 →
      exec (.launchWindowWrite vf off len pkt) s = .next { s with drops := s.drops + 1 }) ∧
    (∀ p pkt, (s.vfAt vf).part = some p → s.isClosing p = true → exec (.launchWindowWrite vf 0 64 pkt) s = .next s) ∧
    (∀ p pkt, (s.vfAt vf).part = some p → s.isClosing p = false → s.launchCode p pkt ≠ 0 →
      exec (.launchWindowWrite vf 0 64 pkt) s = .next (s.sendVf vf 1 (2 ^ 63 + s.launchCode p pkt) 0)) ∧
    (∀ p pkt die slot gen, (s.vfAt vf).part = some p → s.isClosing p = false → s.launchCode p pkt = 0 → s.postDie p = some die →
      s.freeBlock die = some (slot, gen) → s.queued die < 4096 →
      let r := s.enqueue die p slot gen pkt none (some vf)
      exec (.launchWindowWrite vf 0 64 pkt) s = .next (r.1.sendVf vf 1 r.2.toNat 0)) ∧
    exec (.functionLevelReset vf) s = .next (s.modVf vf fun x => { x with base := 0, n := 0, q := 0, pend := 0 }) ∧
    (s.featOn 5 = true → 0 < (s.vfAt vf).pend → exec (.msiXCoalescingTimeout vf) s =
      .next (s.modVf vf fun x => { x with pend := 0, vectors := x.vectors + 1 })) ∧
    (∀ v, (s.vfAt vf).part.isSome = true → exec (.registerWrite (.msgN vf) v) s = .next (s.modVf vf fun x => { x with n := v })) ∧
    (∀ v, (s.vfAt vf).part = none → exec (.registerWrite (.msgN vf) v) s = .next (s.complete (some vf) 0x48 none) ∧
      ∀ off, exec (.registerWrite (.vfRead vf off) v) s = .next (s.complete (some vf) off none)) ∧
    (∀ off v, let reads := fun (x : Nat) => exec (.registerWrite (.pfRead off) v) s = .next (s.complete none off (some x))
      (off = 0x20000 → reads s.stst) ∧
      (0x10000 ≤ off → off < 0x20000 → reads (s.capability (Config.windowReg off).2)) ∧
      (0x100000 ≤ off → reads (s.mirror (Config.windowReg off).1 (Config.windowReg off).2))) ∧
    (s.started = true → s.capability 0 = (s.tiles.filter fun x => !x.fenced).length) ∧
    (∀ n, s.mirror 9 n = (s.vmin (n / 4) (n % 4)).toNat ∧ s.mirror 10 n = s.tnow.getD n 0 ∧ s.mirror 11 n = s.tfc.getD n 0) ∧
    (∀ v, exec (.registerWrite .stst v) s = .next s) ∧
    (∀ t v, t < 512 → bits v.toNat 16 16 % 5 = 0 → 600 ≤ bits v.toNat 16 16 → bits v.toNat 16 16 ≤ 750 →
      exec (.registerWrite (.tmarg t) v) s = .next (s.setVtgt t (bits v.toNat 16 16) id)) ∧
    (∀ r, s.power = .off → exec (.debugPortRequest r) s = .next s) ∧
    (s.power ≠ .off →
      let asks := fun (r : DebugReq) (b : Bool) (u : State) =>
        exec (.debugPortRequest r) s = .next (if b = true then u else s.debugAnswer none)
      let reads := fun (r : DebugReq) (b : Bool) (x : Nat) => asks r b (s.debugAnswer (some x))
      (∀ d, asks (.setState d) (s.debugAllowed d) { s with debug := d }) ∧
      (∀ l signed, asks (.unlock l signed) (s.security == 1 && signed) { s with token := l }) ∧
      (∀ t, asks (.stop t) (s.debugTakes t) (s.modTile t fun x => { x with debugStop := true }) ∧
        asks (.go t) (s.debugTakes t) (s.modTile t fun x => { x with debugStop := false, debugStep := false }) ∧
        asks (.step t) (s.debugTakes t) (s.modTile t fun x => { x with debugStep := x.debugStop })) ∧
      (∀ t slot r, reads (.readReg t slot r) (s.debugTakes t) (s.debugRead t slot r)) ∧
      (∀ t slot r v, (∀ off, r ≠ .dw off) →
        asks (.writeReg t slot r v) (s.debugTakes t) (s.modCtx t slot fun c => c.debugWrite r v)) ∧
      (∀ t slot off v, off < 0x800000 → asks (.writeReg t slot (.dw off) v) (s.debugTakes t)
        ((s.wr (spKey t (off / 8 * 8)) 8 (v % 2 ^ 64)).mark (spKey t (off / 8 * 8)) false)) ∧
      (∀ t, reads (.tmarg t) (s.debug != .none && s.debugCovers (s.tileAt t).partid) (s.tmarg t).toNat) ∧
      (∀ k n, reads (.mirror k n) (s.debug != .none) (s.mirror k n)) ∧
      ∀ p, reads (.keySlot p) (s.debug == .invasive && s.debugCovers (some p)) (Config.keyCipher (s.keySlots.getD p 0))) ∧
    (∀ v, s.security < 2 → exec (.registerWrite .securityFuse v) s =
      .next { s with security := s.security + 1, debug := .none, token := [] })

/-- R391, R392, R402 to R404: digests are exchanged, compared and released; a twin that is lost halts its partition; starts
succeed or stop at the step that fails; a loss of power keeps what the Almanac and the fuses hold. R359, R364, R402 to R404: a
start that runs and fails nowhere leaves the device ACTIVE with its rails at 750 mV and fenced tiles out of service; one that
fails at a step leaves it stopped with START_FAIL raised and the step's code, and an image that does not verify fails step 4;
three starts in a row that fail are followed by recovery, which waits for an image that verifies; a warm start, asked for by
the owner, keeps epochs and lane ratios; a loss of power keeps the Almanac, and a fence with it.
Log 2, 67, 68, 79, 105: the model's own readings and choices that it rests on. -/
def Obligations.TwinAndStarts : Prop :=
  (∀ (s : State) (p : Nat) (tw : Twin), s.twinOf p = some tw →
     (∀ win own msgs u, (tw.held.find? fun h => h.1 == tw.sent) = some (win, own, msgs) →
       s.sendTwin (.twinDigest p win own.toNat) = some u →
       exec (.twinWindowClose p) s = .next ((u.modTwin p fun tw => { tw with sent := tw.sent + 1 }).compareTwin p)) ∧
     (∀ win digest f u, s.takeTwin (fun f => f.body == .twinDigest p win digest) = some (f, u) →
       ((u.part? p).map (·.halted)).getD false = false → exec (.twinDigest p win digest) s =
         .next ((u.modTwin p fun tw => { tw with theirs := tw.theirs ++ [(win, BitVec.ofNat 64 digest)] }).compareTwin p)) ∧
     (∀ f u w d, s.takeTwin (fun f => match f.body with | .twinInterim q _ _ => q == p | _ => false) = some (f, u) →
       f.body = .twinInterim p w d → exec (.interimDigest p) s =
         .next (u.modTwin p fun tw => { tw with interims := tw.interims ++ [(false, w, BitVec.ofNat 64 d)] })) ∧
     (∀ u, s.takeTwin (fun f => match f.body with | .twinInterim q _ _ => q == p | _ => false) = none →
       s.sendTwin (.twinInterim p tw.win tw.digest.toNat) = some u → exec (.interimDigest p) s =
         .next (u.modTwin p fun tw => { tw with interims := tw.interims ++ [(true, tw.win, tw.digest)] })) ∧
     (∀ win own msgs rest y, s.halted p = false → tw.held = (win, own, msgs) :: rest → win < tw.sent →
       tw.theirs.find? (fun x => x.1 == win) = some y →
       let u := s.modTwin p fun tw => { tw with theirs := tw.theirs.filter fun z => z.1 != win, last := win }
       (y.2 = own → s.compareTwin p = msgs.foldl State.releaseMsg (u.modTwin p fun tw => { tw with held := rest })) ∧
       (y.2 ≠ own → s.compareTwin p =
         (u.haltPart p).haltEvent 6 p (win % 2 ^ 64 + own.toNat * 2 ^ 64 + y.2.toNat * 2 ^ 128))) ∧
     (∀ win own msgs rest, tw.held = (win, own, msgs) :: rest → (∀ y ∈ tw.theirs, y.1 ≠ win) ∨ tw.sent ≤ win → s.compareTwin p = s) ∧
     (((s.part? p).map (·.halted)).getD false = false →
       exec (.twinLost p) s = .next ((s.haltPart p).haltEvent 7 p (tw.last % 2 ^ 64)))) ∧
  (∀ (s : State) (bad : List Nat) (n : Nat),
     let runs := if s.recov = true then s.accepted = true else s.startFail < 3
     (s.started = false → runs → s.imageSigned s.image = true → ∃ u, exec (.coldStart 0 bad) s = .next u ∧ u.started = true ∧
       u.startFail = 0 ∧ u.power = .active ∧ u.mem = [] ∧ u.owner = none ∧ (∀ r ∈ u.rails, r.level = 750) ∧
       u.tiles.length = s.tiles.length ∧ ∀ t < s.tiles.length, t ∈ bad → (u.tileAt t).fenced = true) ∧
     (s.started = false → runs → 0 < n → n ≤ 9 → s.imageSigned s.image = true ∨ n ≤ 4 → ∃ u, exec (.coldStart n bad) s = .next u ∧
       u.started = false ∧ u.startCode = n ∧ u.startFail = (s.startFail + 1) % 256 ∧
       (7 < n → ∀ t < s.tiles.length, t ∈ bad → (u.tileAt t).fenced = true)) ∧
     (s.started = false → runs → n = 0 ∨ 4 < n → s.imageSigned s.image = false → ∃ u, exec (.coldStart n bad) s = .next u ∧
       u.started = false ∧ u.startCode = 4 ∧ u.startFail = (s.startFail + 1) % 256) ∧
     (s.started = false → 3 ≤ s.startFail → s.recov = false → ∃ u, exec (.coldStart n bad) s = .next u ∧ u.started = false ∧
       u.recov = true ∧ u.accepted = false ∧ u.startFail = s.startFail) ∧
     (s.started = false → s.recov = true → s.accepted = false → exec (.coldStart n bad) s = .next s) ∧
     (∀ host img v, s.recov = true → s.accepted = false → exec (.registerWrite (.upload host img) v) s = .next (
       if (host = true → s.hostUpload = true) ∧ img.rsaOk = true ∧ img.slhOk = true ∧ img.rsaKey = s.fuseRsa ∧ img.slhKey = s.fuseSlh
       then { s with image := img, accepted := true } else s)) ∧
     (s.power ≠ .off → runs → s.imageSigned s.image = true → ∀ w, w.failing = 0 → s.mayWarm w.asker = true →
       ∃ u, exec (.warmStart w) s = .next u ∧ u.started = true ∧ u.startFail = 0 ∧ u.warm = true ∧
         u.hbm.map (fun k => (k.epoch, k.ratio)) = s.hbm.map fun k => (k.epoch, k.ratio)) ∧
     (∀ w ag, s.power ≠ .off → w.asker = some ag → s.owner ≠ some ag → exec (.warmStart w) s = .next (s.answer ag 4 1 0)) ∧
     (∃ u, exec .powerLoss s = .next u ∧ u.started = false ∧ u.mem = [] ∧ u.owner = none ∧
       (s.started = true → u.startFail = s.startFail) ∧ u.tiles.length = s.tiles.length ∧
       ∀ t < s.tiles.length, let m := (s.tileAt t).margin
         let x := (u.tileAt t).margin
         x.unfence = m.unfence ∧
         (m.dirty = false → x.almA = m.almA ∧ x.almB = m.almB ∧ x.relearn = m.relearn) ∧
         (m.dirty = true → almGet (x.stored t) 560 2 = almGet m.work 560 2)))

/-! ## Two rules stated whole -/

/-- R43: PBLK, LIMM and PMAP are the three X kinds; a word of class X with another xop raises ILLEGAL_WORD, alone or in any bundle. -/
def Obligations.XKinds : Prop :=
  ∀ (c : Ctx) (w : Nat), bits w 28 3 = 6 →
    let xop := bits w 24 4
    let x := w % 2 ^ 31
    (∀ i, decodeWord x = .ok i → (xop = 1 ∧ ∃ f, i = .pblk f) ∨ (xop = 2 ∧ ∃ f, i = .limm f) ∨ (xop = 3 ∧ ∃ f, i = .pmap f)) ∧
    (xop ≠ 1 → xop ≠ 2 → xop ≠ 3 → ∀ l r, (∀ z, (l ++ w :: r).getLast? = some z → chainBit z = false) →
      ∃ tr, checkBundle c (l ++ w :: r) = .error tr ∧ tr.cause = 0x01 ∧ tr.word ≤ l.length) ∧
    (xop = 1 → bits w 0 10 = 0 → bits w 10 8 < 2 ^ (bits w 18 3 + 1) →
      decodeWord x = .ok (.pblk { p := BitVec.ofNat 3 (w / 2 ^ 21), n := BitVec.ofNat 3 (w / 2 ^ 18), m := BitVec.ofNat 8 (w / 2 ^ 10) })) ∧
    (xop = 2 → decodeWord x = .ok (.limm { p := BitVec.ofNat 24 w })) ∧
    (xop = 3 → (∀ k < 8, bits w (3 * k) 3 ≠ 7) → ∃ f, decodeWord x = .ok (.pmap f))

/-- R27: PRDATA reads and writes doubleword PRIDX[8:6] of record PRIDX[5:0]; PRIDX does not advance, the other records stay, and the
bits that R110 makes RZ read zero after a write. -/
def Obligations.ParameterRecordCsrs : Prop :=
  ∀ (s : State) (v clr : W64) (c : Ctx), s.ctx? s.iss.tile s.iss.slot = some c →
    let i := s.iss.pre.pridx.toNat % 64
    let k := s.iss.pre.pridx.toNat / 64
    s.csrOld false 0x31 = BitVec.ofNat 64 ((s.iss.pre.recs.getD i 0).toNat / 2 ^ (64 * k)) ∧
    ∃ d, (s.csrPut false 0x31 v clr).ctx? s.iss.tile s.iss.slot = some d ∧ d.pridx = c.pridx ∧ d.recs.length = c.recs.length ∧
      (∀ n, n ≠ i → d.recs[n]? = c.recs[n]?) ∧
      ∀ r, c.recs[i]? = some r → ∃ r', d.recs[i]? = some r' ∧
        ∀ b < 512, r'.getLsbD b = (recMask.testBit b && if b / 64 = k then v.getLsbD (b % 64) else r.getLsbD b)

/-! ## Decoding, the step, and the whole machine -/

/-- R32, R36, R53, R55 to R62: what the decoder reads from example words that the spec writes out, one or more of each class, and two
words that it calls reserved. Log 8: the model's own readings and choices that it rests on. -/
def Obligations.DecodedExamples : Prop :=
  decodeWord 0x01C4FFFD = .ok (.bnz { a := 0x04, i := 0xFFFD }) ∧ decodeWord 0x04400007 = .ok (.trap { i := 7 }) ∧
  decodeWord 0x03BFFFFC = .ok (.bloop { i := 0x3FFFFC }) ∧
  decodeWord 0x1401C205 = .ok (.addi { d := 3, w := true, a := 0x02, i := 0x05 }) ∧
  decodeWord 0x10D44718 = .ok (.div { d := 8, w := true, a := 0x07, b := 0x06 }) ∧
  decodeWord 0x25129032 = .ok (.ldp { n := 2, w := true, d := 9, b := 0x00, z := 3, f := 2 }) ∧
  decodeWord 0x214A6243 = .ok (.ldw { o := 2, w := true, d := 6, b := 0x09, f := 3 }) ∧
  decodeWord 0x260EA084 = .ok (.aadd { o := 3, w := true, d := 10, b := 0x02, x := 0x04 }) ∧
  decodeWord 0x3370E176 = .ok (.vaddi { e := 2, d := 3, w := true, a := 0x02, i := 0x3B }) ∧
  decodeWord 0x386068A2 = .ok (.vfma { e := 0, d := 1, w := true, a := 0x11, b := 0x11 }) ∧
  decodeWord 0x4089000E = .ok (.mset { a := 0x09, n := 14 }) ∧
  decodeWord 0x41851C00 = .ok (.mclr { a := 0x05, b := 0x07, z := 0 }) ∧
  decodeWord 0x54041403 = .ok (.sig { a := 0x04, b := 0x05, i := 3 }) ∧ decodeWord 0x564000C0 = .ok (.hpop { d := 6 }) ∧
  decodeWord 0x62000010 = .ok (.limm { p := 0x10 }) ∧
  decodeWord 0x14A00000 = .error .reservedOp ∧ decodeWord 0x70000000 = .error .reservedClass

/-- R32, R36, R37, R53, R55 to R62: decoding the word of any well-formed program word, with every operand at every value that its
encoding admits, gives that word again. -/
def Obligations.DecodeOfEncode : Prop :=
  ∀ (i : Instr) (w : Nat), i.wf = true → encodeWord i = some w → w < 2 ^ 31 ∧ decodeWord w = .ok i

/-- R32, R37, R53: a word that decodes is well formed, and it is the one word of its instruction: no bit of it is dropped. -/
def Obligations.EncodeOfDecode : Prop :=
  ∀ (i : Instr) (w : Nat), w < 2 ^ 31 → decodeWord w = .ok i → i.wf = true ∧ encodeWord i = some w

/-- R22, R32, R33, R48, R49: what a step runs. An input of the outside world is applied; an event that is chosen is applied; and when a
context is chosen, the words at its PC that decode to well-formed instructions, fetched from the plate that the instruction cache
holds, run one after another in the order of the bundle once the checks of R48 pass and R22 lets the bundle issue. What the step adds
around them is the passing of time, the turn of R341 and the issue record; the waits of a bundle that must wait come first (R23), and an
issue that the injector hits is squashed (R24, R370).
Log 1, 4, 5, 6, 93: the model's own readings and choices that it rests on. -/
def Obligations.StepRunsTheDecodedWords : Prop :=
  ∀ (s : State) (t slot : Nat) (c : Ctx) (i : Instr),
    (∀ r, s.inputs = i :: r → step s = exec i { s.tick with inputs := r }) ∧
    (s.inputs = [] → s.choose s.moves = some (.event i) → (Move.event i).tile = none → step s = exec i s.tick) ∧
    (let u := s.tick.tickTile t
     let x := u.takeTurn t slot
     let v := (x.injectIssue t slot).2
     s.inputs = [] → s.choose s.moves = some (.bundle t slot) → u.ctx? t slot = some c →
     c.atBoundary = true → u.filled t slot c = true → c.mode = true ∨ c.asyncTraps = [] → c.mayHandle = false →
     (∀ l ws, fetchBundle (u.tileAt t) c = .words l → (∃ w, l.getLast? = some w ∧ chainBit w = false) → decodeAll l 0 = .ok ws →
       bundleFault c ws = none → wordsGo (u.atIssue t slot c ws) c (u.ownReqs t slot c) 0 ws = true →
       (∀ w, x.holdWaits t slot ws = some w → step s = .next w) ∧
       (x.holdWaits t slot ws = none → (x.injectIssue t slot).1 = true → step s = .next (v.detect t slot 1)) ∧
       (x.holdWaits t slot ws = none → (x.injectIssue t slot).1 = false → step s = runWords ws (v.begin t slot ws))) ∧
     ∀ w, fetchBundle (u.tileAt t) c = .words [w] → chainBit w = false → decodeWord (w % 2 ^ 31) = .ok i → bundleFault c [i] = none →
       wordsGo (u.atIssue t slot c [i]) c (u.ownReqs t slot c) 0 [i] = true → x.holdWaits t slot [i] = none →
       (x.injectIssue t slot).1 = false → step s = exec i (v.begin t slot [i])) ∧
    (∀ ws, (∀ j ∈ ws, waiter j = none ∧ isEnding j = false) → s.holdWaits t slot ws = none) ∧
    (∀ x d, c.mode = true ∨ (c.cbase.toNat ≤ c.pc.toNat ∧ c.pc.toNat < c.clim.toNat) → Tile.plate? x c.pc.toNat = some d →
      chainBit (bits d (8 * (c.pc.toNat % 4096)) 32) = false →
      fetchBundle x c = .words [bits d (8 * (c.pc.toNat % 4096)) 32]) ∧
    (∀ l u v, exec i s = .next u → runWords l u = .next v → runWords (i :: l) s = .next v)

/-- R332 to R336: no instruction and no event stops the machine: whatever the state, the operands and the data, it goes on to a next
state, a trap being one. Log 9: the model's own readings and choices that it rests on. -/
def Obligations.EveryInstructionAnswers : Prop :=
  (∀ (i : Instr) (s : State), ∃ t, exec i s = .next t) ∧ ∀ s : State, ∃ t, step s = .next t

/-- R234, R236, R237, R248: every step of the device, from every state, keeps the memories in their canonical form and the poison marks
rising. Log 2, 3: the model's own readings and choices that it rests on. -/
def Obligations.EveryStepKeepsTheMemories : Prop :=
  ∀ (s t : State), s.inv → step s = .next t → t.inv

/-- R7, R395, R397, R402, R403: the device before its first start: nothing is listed in its memories, no partition is active, no tile
runs a context, no agent owns it, and STST and TIME read 0.
Log 2, 7, 20: the model's own readings and choices that it rests on. -/
def Obligations.ResetState : Prop :=
  State.reset.inv ∧ State.reset.mem = [] ∧ State.reset.time = 0 ∧ State.reset.started = false ∧ State.reset.startFail = 0 ∧
  State.reset.startCode = 0 ∧ State.reset.warm = false ∧ State.reset.recov = false ∧ State.reset.owner = none ∧
  State.reset.drvfeat = 0 ∧ (∀ p < 32, State.reset.part? p = none) ∧ State.reset.tiles.length = 512 ∧
  ∀ t < 512, ∀ slot < 8, State.reset.ctx? t slot = none

/-- R6, R91, R237: a store of n bytes is read back byte for byte, every other byte stays, a whole aligned doubleword takes the store's
poison mark, a narrower store can only set it, and the marks of other doublewords stay. -/
def Obligations.StoresReadBack : Prop :=
  ∀ (s : State) (key n x : Nat) (p : Bool), 0 < n → n ≤ 8 → key % n = 0 → n = 1 ∨ n = 2 ∨ n = 4 ∨ n = 8 →
    let u := s.store key n x p
    u.rd key n = x % 2 ^ (8 * n) ∧
    (∀ k, key ≤ k → k < key + n → readByte u.mem k = BitVec.ofNat 8 (x / 256 ^ (k - key))) ∧
    (∀ k, k < key ∨ key + n ≤ k → readByte u.mem k = readByte s.mem k) ∧
    u.poisoned key = (p || (n != 8 && s.poisoned key)) ∧ ∀ k, k / 8 ≠ key / 8 → u.poisoned k = s.poisoned k

/-- R16, R23, R35, R44, R45, R46: the commit of a bundle. Without a taken transfer PC goes to the address after its last word and the
predicate block goes on; a taken transfer sets PC, empties the latches and ends the predicate block; a bundle that switches contexts
empties the latches. Registers stay as the words left them. Log 5, 13: the model's own readings and choices that it rests on. -/
def Obligations.BundleCommits : Prop :=
  ∀ (c : Ctx) (h : Held),
    let d := c.commit h
    d.held = none ∧ d.s = c.s ∧ d.v = c.v ∧ d.p = c.p ∧ d.mode = c.mode ∧ d.fcsr = c.fcsr ∧ d.lc = c.lc ∧ d.epc = c.epc ∧
    (∀ a, h.npc = some a → d.pc = a ∧ d.lat = List.replicate 8 .empty ∧ d.gcount = 0 ∧ d.gmask = 0 ∧ d.gpred = 0) ∧
    (h.npc = none → d.pc = c.pc + BitVec.ofNat 64 (4 * h.words.length) ∧
      d.lat = (if h.switch = true then List.replicate 8 .empty else c.lat) ∧
      (∀ f, h.words.find? isPblk = some (.pblk f) → d.gcount = f.n.toNat + 1 ∧ d.gmask = f.m ∧ d.gpred = f.p) ∧
      (h.words.find? isPblk = none → d.gcount = c.gcount - 1 ∧ d.gpred = c.gpred ∧
        d.gmask = if 0 < c.gcount then c.gmask >>> 1 else c.gmask))
end

