-- ==== Sys2Proof/Laws/Dispatch.lean ====
section
/-! SUPPORT. The dispatch, one equation per constructor of Instr. -/

namespace Sys2Proof.Machine

@[simp] theorem exec_br : ∀ f s, exec (.br f) s = execBr f s := fun _ _ => rfl
@[simp] theorem exec_brl : ∀ f s, exec (.brl f) s = execBrl f s := fun _ _ => rfl
@[simp] theorem exec_jr : ∀ f s, exec (.jr f) s = execJr f s := fun _ _ => rfl
@[simp] theorem exec_jrl : ∀ f s, exec (.jrl f) s = execJrl f s := fun _ _ => rfl
@[simp] theorem exec_bz : ∀ f s, exec (.bz f) s = execBz f s := fun _ _ => rfl
@[simp] theorem exec_bnz : ∀ f s, exec (.bnz f) s = execBnz f s := fun _ _ => rfl
@[simp] theorem exec_bltz : ∀ f s, exec (.bltz f) s = execBltz f s := fun _ _ => rfl
@[simp] theorem exec_bgez : ∀ f s, exec (.bgez f) s = execBgez f s := fun _ _ => rfl
@[simp] theorem exec_bp : ∀ f s, exec (.bp f) s = execBp f s := fun _ _ => rfl
@[simp] theorem exec_bnp : ∀ f s, exec (.bnp f) s = execBnp f s := fun _ _ => rfl
@[simp] theorem exec_bany : ∀ f s, exec (.bany f) s = execBany f s := fun _ _ => rfl
@[simp] theorem exec_bnone : ∀ f s, exec (.bnone f) s = execBnone f s := fun _ _ => rfl
@[simp] theorem exec_bloop : ∀ f s, exec (.bloop f) s = execBloop f s := fun _ _ => rfl
@[simp] theorem exec_lcset : ∀ f s, exec (.lcset f) s = execLcset f s := fun _ _ => rfl
@[simp] theorem exec_trap : ∀ f s, exec (.trap f) s = execTrap f s := fun _ _ => rfl
@[simp] theorem exec_waitev : ∀ f s, exec (.waitev f) s = execWaitev f s := fun _ _ => rfl
@[simp] theorem exec_brk : ∀ f s, exec (.brk f) s = execBrk f s := fun _ _ => rfl
@[simp] theorem exec_add : ∀ f s, exec (.add f) s = execAdd f s := fun _ _ => rfl
@[simp] theorem exec_sub : ∀ f s, exec (.sub f) s = execSub f s := fun _ _ => rfl
@[simp] theorem exec_and : ∀ f s, exec (.and f) s = execAnd f s := fun _ _ => rfl
@[simp] theorem exec_or : ∀ f s, exec (.or f) s = execOr f s := fun _ _ => rfl
@[simp] theorem exec_xor : ∀ f s, exec (.xor f) s = execXor f s := fun _ _ => rfl
@[simp] theorem exec_andn : ∀ f s, exec (.andn f) s = execAndn f s := fun _ _ => rfl
@[simp] theorem exec_sll : ∀ f s, exec (.sll f) s = execSll f s := fun _ _ => rfl
@[simp] theorem exec_srl : ∀ f s, exec (.srl f) s = execSrl f s := fun _ _ => rfl
@[simp] theorem exec_sra : ∀ f s, exec (.sra f) s = execSra f s := fun _ _ => rfl
@[simp] theorem exec_mul : ∀ f s, exec (.mul f) s = execMul f s := fun _ _ => rfl
@[simp] theorem exec_mulh : ∀ f s, exec (.mulh f) s = execMulh f s := fun _ _ => rfl
@[simp] theorem exec_mulhu : ∀ f s, exec (.mulhu f) s = execMulhu f s := fun _ _ => rfl
@[simp] theorem exec_div : ∀ f s, exec (.div f) s = execDiv f s := fun _ _ => rfl
@[simp] theorem exec_divu : ∀ f s, exec (.divu f) s = execDivu f s := fun _ _ => rfl
@[simp] theorem exec_rem : ∀ f s, exec (.rem f) s = execRem f s := fun _ _ => rfl
@[simp] theorem exec_remu : ∀ f s, exec (.remu f) s = execRemu f s := fun _ _ => rfl
@[simp] theorem exec_min : ∀ f s, exec (.min f) s = execMin f s := fun _ _ => rfl
@[simp] theorem exec_max : ∀ f s, exec (.max f) s = execMax f s := fun _ _ => rfl
@[simp] theorem exec_minu : ∀ f s, exec (.minu f) s = execMinu f s := fun _ _ => rfl
@[simp] theorem exec_maxu : ∀ f s, exec (.maxu f) s = execMaxu f s := fun _ _ => rfl
@[simp] theorem exec_slt : ∀ f s, exec (.slt f) s = execSlt f s := fun _ _ => rfl
@[simp] theorem exec_sltu : ∀ f s, exec (.sltu f) s = execSltu f s := fun _ _ => rfl
@[simp] theorem exec_seq : ∀ f s, exec (.seq f) s = execSeq f s := fun _ _ => rfl
@[simp] theorem exec_sne : ∀ f s, exec (.sne f) s = execSne f s := fun _ _ => rfl
@[simp] theorem exec_addw : ∀ f s, exec (.addw f) s = execAddw f s := fun _ _ => rfl
@[simp] theorem exec_subw : ∀ f s, exec (.subw f) s = execSubw f s := fun _ _ => rfl
@[simp] theorem exec_mulw : ∀ f s, exec (.mulw f) s = execMulw f s := fun _ _ => rfl
@[simp] theorem exec_cmovz : ∀ f s, exec (.cmovz f) s = execCmovz f s := fun _ _ => rfl
@[simp] theorem exec_cmovnz : ∀ f s, exec (.cmovnz f) s = execCmovnz f s := fun _ _ => rfl
@[simp] theorem exec_bfx : ∀ f s, exec (.bfx f) s = execBfx f s := fun _ _ => rfl
@[simp] theorem exec_bfi : ∀ f s, exec (.bfi f) s = execBfi f s := fun _ _ => rfl
@[simp] theorem exec_clz : ∀ f s, exec (.clz f) s = execClz f s := fun _ _ => rfl
@[simp] theorem exec_ctz : ∀ f s, exec (.ctz f) s = execCtz f s := fun _ _ => rfl
@[simp] theorem exec_popc : ∀ f s, exec (.popc f) s = execPopc f s := fun _ _ => rfl
@[simp] theorem exec_sextb : ∀ f s, exec (.sextb f) s = execSextb f s := fun _ _ => rfl
@[simp] theorem exec_sexth : ∀ f s, exec (.sexth f) s = execSexth f s := fun _ _ => rfl
@[simp] theorem exec_sextw : ∀ f s, exec (.sextw f) s = execSextw f s := fun _ _ => rfl
@[simp] theorem exec_zextw : ∀ f s, exec (.zextw f) s = execZextw f s := fun _ _ => rfl
@[simp] theorem exec_bswap : ∀ f s, exec (.bswap f) s = execBswap f s := fun _ _ => rfl
@[simp] theorem exec_addi : ∀ f s, exec (.addi f) s = execAddi f s := fun _ _ => rfl
@[simp] theorem exec_andi : ∀ f s, exec (.andi f) s = execAndi f s := fun _ _ => rfl
@[simp] theorem exec_ori : ∀ f s, exec (.ori f) s = execOri f s := fun _ _ => rfl
@[simp] theorem exec_xori : ∀ f s, exec (.xori f) s = execXori f s := fun _ _ => rfl
@[simp] theorem exec_slli : ∀ f s, exec (.slli f) s = execSlli f s := fun _ _ => rfl
@[simp] theorem exec_srli : ∀ f s, exec (.srli f) s = execSrli f s := fun _ _ => rfl
@[simp] theorem exec_srai : ∀ f s, exec (.srai f) s = execSrai f s := fun _ _ => rfl
@[simp] theorem exec_slti : ∀ f s, exec (.slti f) s = execSlti f s := fun _ _ => rfl
@[simp] theorem exec_sltiu : ∀ f s, exec (.sltiu f) s = execSltiu f s := fun _ _ => rfl
@[simp] theorem exec_muli : ∀ f s, exec (.muli f) s = execMuli f s := fun _ _ => rfl
@[simp] theorem exec_li : ∀ f s, exec (.li f) s = execLi f s := fun _ _ => rfl
@[simp] theorem exec_lui : ∀ f s, exec (.lui f) s = execLui f s := fun _ _ => rfl
@[simp] theorem exec_fadd : ∀ f s, exec (.fadd f) s = execFadd f s := fun _ _ => rfl
@[simp] theorem exec_fsub : ∀ f s, exec (.fsub f) s = execFsub f s := fun _ _ => rfl
@[simp] theorem exec_fmul : ∀ f s, exec (.fmul f) s = execFmul f s := fun _ _ => rfl
@[simp] theorem exec_fma : ∀ f s, exec (.fma f) s = execFma f s := fun _ _ => rfl
@[simp] theorem exec_fmin : ∀ f s, exec (.fmin f) s = execFmin f s := fun _ _ => rfl
@[simp] theorem exec_fmax : ∀ f s, exec (.fmax f) s = execFmax f s := fun _ _ => rfl
@[simp] theorem exec_feq : ∀ f s, exec (.feq f) s = execFeq f s := fun _ _ => rfl
@[simp] theorem exec_flt : ∀ f s, exec (.flt f) s = execFlt f s := fun _ _ => rfl
@[simp] theorem exec_fle : ∀ f s, exec (.fle f) s = execFle f s := fun _ _ => rfl
@[simp] theorem exec_fdiv : ∀ f s, exec (.fdiv f) s = execFdiv f s := fun _ _ => rfl
@[simp] theorem exec_fsqrt : ∀ f s, exec (.fsqrt f) s = execFsqrt f s := fun _ _ => rfl
@[simp] theorem exec_fcvtif : ∀ f s, exec (.fcvtif f) s = execFcvtif f s := fun _ _ => rfl
@[simp] theorem exec_fcvtfi : ∀ f s, exec (.fcvtfi f) s = execFcvtfi f s := fun _ _ => rfl
@[simp] theorem exec_csrr : ∀ f s, exec (.csrr f) s = execCsrr f s := fun _ _ => rfl
@[simp] theorem exec_csrw : ∀ f s, exec (.csrw f) s = execCsrw f s := fun _ _ => rfl
@[simp] theorem exec_csrs : ∀ f s, exec (.csrs f) s = execCsrs f s := fun _ _ => rfl
@[simp] theorem exec_csrc : ∀ f s, exec (.csrc f) s = execCsrc f s := fun _ _ => rfl
@[simp] theorem exec_scsrr : ∀ f s, exec (.scsrr f) s = execScsrr f s := fun _ _ => rfl
@[simp] theorem exec_scsrw : ∀ f s, exec (.scsrw f) s = execScsrw f s := fun _ _ => rfl
@[simp] theorem exec_scsrs : ∀ f s, exec (.scsrs f) s = execScsrs f s := fun _ _ => rfl
@[simp] theorem exec_scsrc : ∀ f s, exec (.scsrc f) s = execScsrc f s := fun _ _ => rfl
@[simp] theorem exec_ldb : ∀ f s, exec (.ldb f) s = execLdb f s := fun _ _ => rfl
@[simp] theorem exec_ldbu : ∀ f s, exec (.ldbu f) s = execLdbu f s := fun _ _ => rfl
@[simp] theorem exec_ldh : ∀ f s, exec (.ldh f) s = execLdh f s := fun _ _ => rfl
@[simp] theorem exec_ldhu : ∀ f s, exec (.ldhu f) s = execLdhu f s := fun _ _ => rfl
@[simp] theorem exec_ldw : ∀ f s, exec (.ldw f) s = execLdw f s := fun _ _ => rfl
@[simp] theorem exec_ldwu : ∀ f s, exec (.ldwu f) s = execLdwu f s := fun _ _ => rfl
@[simp] theorem exec_ldd : ∀ f s, exec (.ldd f) s = execLdd f s := fun _ _ => rfl
@[simp] theorem exec_stb : ∀ f s, exec (.stb f) s = execStb f s := fun _ _ => rfl
@[simp] theorem exec_sth : ∀ f s, exec (.sth f) s = execSth f s := fun _ _ => rfl
@[simp] theorem exec_stw : ∀ f s, exec (.stw f) s = execStw f s := fun _ _ => rfl
@[simp] theorem exec_std : ∀ f s, exec (.std f) s = execStd f s := fun _ _ => rfl
@[simp] theorem exec_ldv : ∀ f s, exec (.ldv f) s = execLdv f s := fun _ _ => rfl
@[simp] theorem exec_stv : ∀ f s, exec (.stv f) s = execStv f s := fun _ _ => rfl
@[simp] theorem exec_ldvf : ∀ f s, exec (.ldvf f) s = execLdvf f s := fun _ _ => rfl
@[simp] theorem exec_stvf : ∀ f s, exec (.stvf f) s = execStvf f s := fun _ _ => rfl
@[simp] theorem exec_ldvg : ∀ f s, exec (.ldvg f) s = execLdvg f s := fun _ _ => rfl
@[simp] theorem exec_stvs : ∀ f s, exec (.stvs f) s = execStvs f s := fun _ _ => rfl
@[simp] theorem exec_ldvb : ∀ f s, exec (.ldvb f) s = execLdvb f s := fun _ _ => rfl
@[simp] theorem exec_ldp : ∀ f s, exec (.ldp f) s = execLdp f s := fun _ _ => rfl
@[simp] theorem exec_aadd : ∀ f s, exec (.aadd f) s = execAadd f s := fun _ _ => rfl
@[simp] theorem exec_amin : ∀ f s, exec (.amin f) s = execAmin f s := fun _ _ => rfl
@[simp] theorem exec_amax : ∀ f s, exec (.amax f) s = execAmax f s := fun _ _ => rfl
@[simp] theorem exec_aminu : ∀ f s, exec (.aminu f) s = execAminu f s := fun _ _ => rfl
@[simp] theorem exec_amaxu : ∀ f s, exec (.amaxu f) s = execAmaxu f s := fun _ _ => rfl
@[simp] theorem exec_aand : ∀ f s, exec (.aand f) s = execAand f s := fun _ _ => rfl
@[simp] theorem exec_aor : ∀ f s, exec (.aor f) s = execAor f s := fun _ _ => rfl
@[simp] theorem exec_axor : ∀ f s, exec (.axor f) s = execAxor f s := fun _ _ => rfl
@[simp] theorem exec_aswp : ∀ f s, exec (.aswp f) s = execAswp f s := fun _ _ => rfl
@[simp] theorem exec_acas : ∀ f s, exec (.acas f) s = execAcas f s := fun _ _ => rfl
@[simp] theorem exec_afadd : ∀ f s, exec (.afadd f) s = execAfadd f s := fun _ _ => rfl
@[simp] theorem exec_barv : ∀ f s, exec (.barv f) s = execBarv f s := fun _ _ => rfl
@[simp] theorem exec_bwait : ∀ f s, exec (.bwait f) s = execBwait f s := fun _ _ => rfl
@[simp] theorem exec_binit : ∀ f s, exec (.binit f) s = execBinit f s := fun _ _ => rfl
@[simp] theorem exec_fence : ∀ f s, exec (.fence f) s = execFence f s := fun _ _ => rfl
@[simp] theorem exec_xfence : ∀ f s, exec (.xfence f) s = execXfence f s := fun _ _ => rfl
@[simp] theorem exec_vadd : ∀ f s, exec (.vadd f) s = execVadd f s := fun _ _ => rfl
@[simp] theorem exec_vsub : ∀ f s, exec (.vsub f) s = execVsub f s := fun _ _ => rfl
@[simp] theorem exec_vmul : ∀ f s, exec (.vmul f) s = execVmul f s := fun _ _ => rfl
@[simp] theorem exec_vmulh : ∀ f s, exec (.vmulh f) s = execVmulh f s := fun _ _ => rfl
@[simp] theorem exec_vmulhu : ∀ f s, exec (.vmulhu f) s = execVmulhu f s := fun _ _ => rfl
@[simp] theorem exec_vand : ∀ f s, exec (.vand f) s = execVand f s := fun _ _ => rfl
@[simp] theorem exec_vor : ∀ f s, exec (.vor f) s = execVor f s := fun _ _ => rfl
@[simp] theorem exec_vxor : ∀ f s, exec (.vxor f) s = execVxor f s := fun _ _ => rfl
@[simp] theorem exec_vshl : ∀ f s, exec (.vshl f) s = execVshl f s := fun _ _ => rfl
@[simp] theorem exec_vshr : ∀ f s, exec (.vshr f) s = execVshr f s := fun _ _ => rfl
@[simp] theorem exec_vsra : ∀ f s, exec (.vsra f) s = execVsra f s := fun _ _ => rfl
@[simp] theorem exec_vmin : ∀ f s, exec (.vmin f) s = execVmin f s := fun _ _ => rfl
@[simp] theorem exec_vmax : ∀ f s, exec (.vmax f) s = execVmax f s := fun _ _ => rfl
@[simp] theorem exec_vminu : ∀ f s, exec (.vminu f) s = execVminu f s := fun _ _ => rfl
@[simp] theorem exec_vmaxu : ∀ f s, exec (.vmaxu f) s = execVmaxu f s := fun _ _ => rfl
@[simp] theorem exec_vabs : ∀ f s, exec (.vabs f) s = execVabs f s := fun _ _ => rfl
@[simp] theorem exec_vneg : ∀ f s, exec (.vneg f) s = execVneg f s := fun _ _ => rfl
@[simp] theorem exec_vadds : ∀ f s, exec (.vadds f) s = execVadds f s := fun _ _ => rfl
@[simp] theorem exec_vsubs : ∀ f s, exec (.vsubs f) s = execVsubs f s := fun _ _ => rfl
@[simp] theorem exec_vmac : ∀ f s, exec (.vmac f) s = execVmac f s := fun _ _ => rfl
@[simp] theorem exec_vdot4 : ∀ f s, exec (.vdot4 f) s = execVdot4 f s := fun _ _ => rfl
@[simp] theorem exec_vmulw : ∀ f s, exec (.vmulw f) s = execVmulw f s := fun _ _ => rfl
@[simp] theorem exec_vaddw : ∀ f s, exec (.vaddw f) s = execVaddw f s := fun _ _ => rfl
@[simp] theorem exec_vshli : ∀ f s, exec (.vshli f) s = execVshli f s := fun _ _ => rfl
@[simp] theorem exec_vshri : ∀ f s, exec (.vshri f) s = execVshri f s := fun _ _ => rfl
@[simp] theorem exec_vsrai : ∀ f s, exec (.vsrai f) s = execVsrai f s := fun _ _ => rfl
@[simp] theorem exec_vaddi : ∀ f s, exec (.vaddi f) s = execVaddi f s := fun _ _ => rfl
@[simp] theorem exec_vceq : ∀ f s, exec (.vceq f) s = execVceq f s := fun _ _ => rfl
@[simp] theorem exec_vcne : ∀ f s, exec (.vcne f) s = execVcne f s := fun _ _ => rfl
@[simp] theorem exec_vclt : ∀ f s, exec (.vclt f) s = execVclt f s := fun _ _ => rfl
@[simp] theorem exec_vcle : ∀ f s, exec (.vcle f) s = execVcle f s := fun _ _ => rfl
@[simp] theorem exec_vcltu : ∀ f s, exec (.vcltu f) s = execVcltu f s := fun _ _ => rfl
@[simp] theorem exec_vcleu : ∀ f s, exec (.vcleu f) s = execVcleu f s := fun _ _ => rfl
@[simp] theorem exec_pand : ∀ f s, exec (.pand f) s = execPand f s := fun _ _ => rfl
@[simp] theorem exec_por : ∀ f s, exec (.por f) s = execPor f s := fun _ _ => rfl
@[simp] theorem exec_pxor : ∀ f s, exec (.pxor f) s = execPxor f s := fun _ _ => rfl
@[simp] theorem exec_pandn : ∀ f s, exec (.pandn f) s = execPandn f s := fun _ _ => rfl
@[simp] theorem exec_pnot : ∀ f s, exec (.pnot f) s = execPnot f s := fun _ _ => rfl
@[simp] theorem exec_pany : ∀ f s, exec (.pany f) s = execPany f s := fun _ _ => rfl
@[simp] theorem exec_ppopc : ∀ f s, exec (.ppopc f) s = execPpopc f s := fun _ _ => rfl
@[simp] theorem exec_pfirst : ∀ f s, exec (.pfirst f) s = execPfirst f s := fun _ _ => rfl
@[simp] theorem exec_vmov : ∀ f s, exec (.vmov f) s = execVmov f s := fun _ _ => rfl
@[simp] theorem exec_vbcast : ∀ f s, exec (.vbcast f) s = execVbcast f s := fun _ _ => rfl
@[simp] theorem exec_vslup : ∀ f s, exec (.vslup f) s = execVslup f s := fun _ _ => rfl
@[simp] theorem exec_vsldn : ∀ f s, exec (.vsldn f) s = execVsldn f s := fun _ _ => rfl
@[simp] theorem exec_vperm : ∀ f s, exec (.vperm f) s = execVperm f s := fun _ _ => rfl
@[simp] theorem exec_vtos : ∀ f s, exec (.vtos f) s = execVtos f s := fun _ _ => rfl
@[simp] theorem exec_vins : ∀ f s, exec (.vins f) s = execVins f s := fun _ _ => rfl
@[simp] theorem exec_vradd : ∀ f s, exec (.vradd f) s = execVradd f s := fun _ _ => rfl
@[simp] theorem exec_vrmax : ∀ f s, exec (.vrmax f) s = execVrmax f s := fun _ _ => rfl
@[simp] theorem exec_vrmin : ∀ f s, exec (.vrmin f) s = execVrmin f s := fun _ _ => rfl
@[simp] theorem exec_vrfadd : ∀ f s, exec (.vrfadd f) s = execVrfadd f s := fun _ _ => rfl
@[simp] theorem exec_vrfmax : ∀ f s, exec (.vrfmax f) s = execVrfmax f s := fun _ _ => rfl
@[simp] theorem exec_vfadd : ∀ f s, exec (.vfadd f) s = execVfadd f s := fun _ _ => rfl
@[simp] theorem exec_vfsub : ∀ f s, exec (.vfsub f) s = execVfsub f s := fun _ _ => rfl
@[simp] theorem exec_vfmul : ∀ f s, exec (.vfmul f) s = execVfmul f s := fun _ _ => rfl
@[simp] theorem exec_vfma : ∀ f s, exec (.vfma f) s = execVfma f s := fun _ _ => rfl
@[simp] theorem exec_vfms : ∀ f s, exec (.vfms f) s = execVfms f s := fun _ _ => rfl
@[simp] theorem exec_vfmin : ∀ f s, exec (.vfmin f) s = execVfmin f s := fun _ _ => rfl
@[simp] theorem exec_vfmax : ∀ f s, exec (.vfmax f) s = execVfmax f s := fun _ _ => rfl
@[simp] theorem exec_vfabs : ∀ f s, exec (.vfabs f) s = execVfabs f s := fun _ _ => rfl
@[simp] theorem exec_vfneg : ∀ f s, exec (.vfneg f) s = execVfneg f s := fun _ _ => rfl
@[simp] theorem exec_vfceq : ∀ f s, exec (.vfceq f) s = execVfceq f s := fun _ _ => rfl
@[simp] theorem exec_vfclt : ∀ f s, exec (.vfclt f) s = execVfclt f s := fun _ _ => rfl
@[simp] theorem exec_vfcle : ∀ f s, exec (.vfcle f) s = execVfcle f s := fun _ _ => rfl
@[simp] theorem exec_vfcun : ∀ f s, exec (.vfcun f) s = execVfcun f s := fun _ _ => rfl
@[simp] theorem exec_vfdiv : ∀ f s, exec (.vfdiv f) s = execVfdiv f s := fun _ _ => rfl
@[simp] theorem exec_vfsqrt : ∀ f s, exec (.vfsqrt f) s = execVfsqrt f s := fun _ _ => rfl
@[simp] theorem exec_vfrsq : ∀ f s, exec (.vfrsq f) s = execVfrsq f s := fun _ _ => rfl
@[simp] theorem exec_vcvtif : ∀ f s, exec (.vcvtif f) s = execVcvtif f s := fun _ _ => rfl
@[simp] theorem exec_vcvtfi : ∀ f s, exec (.vcvtfi f) s = execVcvtfi f s := fun _ _ => rfl
@[simp] theorem exec_vpack8 : ∀ f s, exec (.vpack8 f) s = execVpack8 f s := fun _ _ => rfl
@[simp] theorem exec_vunpk8 : ∀ f s, exec (.vunpk8 f) s = execVunpk8 f s := fun _ _ => rfl
@[simp] theorem exec_vpack16 : ∀ f s, exec (.vpack16 f) s = execVpack16 f s := fun _ _ => rfl
@[simp] theorem exec_vunpk16 : ∀ f s, exec (.vunpk16 f) s = execVunpk16 f s := fun _ _ => rfl
@[simp] theorem exec_vrnse : ∀ f s, exec (.vrnse f) s = execVrnse f s := fun _ _ => rfl
@[simp] theorem exec_vrnsd : ∀ f s, exec (.vrnsd f) s = execVrnsd f s := fun _ _ => rfl
@[simp] theorem exec_vrnsadd : ∀ f s, exec (.vrnsadd f) s = execVrnsadd f s := fun _ _ => rfl
@[simp] theorem exec_vrnsmul : ∀ f s, exec (.vrnsmul f) s = execVrnsmul f s := fun _ _ => rfl
@[simp] theorem exec_vrnsmac : ∀ f s, exec (.vrnsmac f) s = execVrnsmac f s := fun _ _ => rfl
@[simp] theorem exec_mldtScalar : ∀ f s, exec (.mldtScalar f) s = execMldtScalar f s := fun _ _ => rfl
@[simp] theorem exec_mldtVector : ∀ f s, exec (.mldtVector f) s = execMldtVector f s := fun _ _ => rfl
@[simp] theorem exec_mset : ∀ f s, exec (.mset f) s = execMset f s := fun _ _ => rfl
@[simp] theorem exec_mgo : ∀ f s, exec (.mgo f) s = execMgo f s := fun _ _ => rfl
@[simp] theorem exec_mstat : ∀ f s, exec (.mstat f) s = execMstat f s := fun _ _ => rfl
@[simp] theorem exec_mwait : ∀ f s, exec (.mwait f) s = execMwait f s := fun _ _ => rfl
@[simp] theorem exec_mclr : ∀ f s, exec (.mclr f) s = execMclr f s := fun _ _ => rfl
@[simp] theorem exec_mabort : ∀ f s, exec (.mabort f) s = execMabort f s := fun _ _ => rfl
@[simp] theorem exec_msplit : ∀ f s, exec (.msplit f) s = execMsplit f s := fun _ _ => rfl
@[simp] theorem exec_mwb : ∀ f s, exec (.mwb f) s = execMwb f s := fun _ _ => rfl
@[simp] theorem exec_cpy : ∀ f s, exec (.cpy f) s = execCpy f s := fun _ _ => rfl
@[simp] theorem exec_cwait : ∀ f s, exec (.cwait f) s = execCwait f s := fun _ _ => rfl
@[simp] theorem exec_cstat : ∀ f s, exec (.cstat f) s = execCstat f s := fun _ _ => rfl
@[simp] theorem exec_ccan : ∀ f s, exec (.ccan f) s = execCcan f s := fun _ _ => rfl
@[simp] theorem exec_lsend : ∀ f s, exec (.lsend f) s = execLsend f s := fun _ _ => rfl
@[simp] theorem exec_lrecv : ∀ f s, exec (.lrecv f) s = execLrecv f s := fun _ _ => rfl
@[simp] theorem exec_lradd : ∀ f s, exec (.lradd f) s = execLradd f s := fun _ _ => rfl
@[simp] theorem exec_lsched : ∀ f s, exec (.lsched f) s = execLsched f s := fun _ _ => rfl
@[simp] theorem exec_lstat : ∀ f s, exec (.lstat f) s = execLstat f s := fun _ _ => rfl
@[simp] theorem exec_sig : ∀ f s, exec (.sig f) s = execSig f s := fun _ _ => rfl
@[simp] theorem exec_swait : ∀ f s, exec (.swait f) s = execSwait f s := fun _ _ => rfl
@[simp] theorem exec_stry : ∀ f s, exec (.stry f) s = execStry f s := fun _ _ => rfl
@[simp] theorem exec_sset : ∀ f s, exec (.sset f) s = execSset f s := fun _ _ => rfl
@[simp] theorem exec_hpush : ∀ f s, exec (.hpush f) s = execHpush f s := fun _ _ => rfl
@[simp] theorem exec_hpop : ∀ f s, exec (.hpop f) s = execHpop f s := fun _ _ => rfl
@[simp] theorem exec_hupd : ∀ f s, exec (.hupd f) s = execHupd f s := fun _ _ => rfl
@[simp] theorem exec_hread : ∀ f s, exec (.hread f) s = execHread f s := fun _ _ => rfl
@[simp] theorem exec_hsum : ∀ f s, exec (.hsum f) s = execHsum f s := fun _ _ => rfl
@[simp] theorem exec_hclose : ∀ f s, exec (.hclose f) s = execHclose f s := fun _ _ => rfl
@[simp] theorem exec_hdone : ∀ f s, exec (.hdone f) s = execHdone f s := fun _ _ => rfl
@[simp] theorem exec_hopen : ∀ f s, exec (.hopen f) s = execHopen f s := fun _ _ => rfl
@[simp] theorem exec_launch : ∀ f s, exec (.launch f) s = execLaunch f s := fun _ _ => rfl
@[simp] theorem exec_expectAdd : ∀ f s, exec (.expectAdd f) s = execExpectAdd f s := fun _ _ => rfl
@[simp] theorem exec_post : ∀ f s, exec (.post f) s = execPost f s := fun _ _ => rfl
@[simp] theorem exec_jwait : ∀ f s, exec (.jwait f) s = execJwait f s := fun _ _ => rfl
@[simp] theorem exec_rget : ∀ f s, exec (.rget f) s = execRget f s := fun _ _ => rfl
@[simp] theorem exec_suspend : ∀ f s, exec (.suspend f) s = execSuspend f s := fun _ _ => rfl
@[simp] theorem exec_handoff : ∀ f s, exec (.handoff f) s = execHandoff f s := fun _ _ => rfl
@[simp] theorem exec_tlbinv : ∀ f s, exec (.tlbinv f) s = execTlbinv f s := fun _ _ => rfl
@[simp] theorem exec_pblk : ∀ f s, exec (.pblk f) s = execPblk f s := fun _ _ => rfl
@[simp] theorem exec_limm : ∀ f s, exec (.limm f) s = execLimm f s := fun _ _ => rfl
@[simp] theorem exec_pmap : ∀ f s, exec (.pmap f) s = execPmap f s := fun _ _ => rfl
@[simp] theorem exec_nop : ∀ s, exec .nop s = execNop s := fun _ => rfl
@[simp] theorem exec_halt : ∀ s, exec .halt s = execHalt s := fun _ => rfl
@[simp] theorem exec_cret : ∀ s, exec .cret s = execCret s := fun _ => rfl
@[simp] theorem exec_xret : ∀ s, exec .xret s = execXret s := fun _ => rfl
@[simp] theorem exec_tdone : ∀ s, exec .tdone s = execTdone s := fun _ => rfl
@[simp] theorem exec_transitDetection : ∀ t slot s, exec (.transitDetection t slot) s = execTransitDetection t slot s := fun _ _ _ => rfl
@[simp] theorem exec_engineRecomputation : ∀ t e s, exec (.engineRecomputation t e) s = execEngineRecomputation t e s := fun _ _ _ => rfl
@[simp] theorem exec_halfRateEnd : ∀ t s, exec (.halfRateEnd t) s = execHalfRateEnd t s := fun _ _ => rfl
@[simp] theorem exec_asyncTrapDelivery : ∀ t slot s, exec (.asyncTrapDelivery t slot) s = execAsyncTrapDelivery t slot s := fun _ _ _ => rfl
@[simp] theorem exec_completionHandlerEntry : ∀ t slot s, exec (.completionHandlerEntry t slot) s = execCompletionHandlerEntry t slot s := fun _ _ _ => rfl
@[simp] theorem exec_swaitWake : ∀ t slot s, exec (.swaitWake t slot) s = execSwaitWake t slot s := fun _ _ _ => rfl
@[simp] theorem exec_cwaitWake : ∀ t slot s, exec (.cwaitWake t slot) s = execCwaitWake t slot s := fun _ _ _ => rfl
@[simp] theorem exec_mwaitWake : ∀ t slot s, exec (.mwaitWake t slot) s = execMwaitWake t slot s := fun _ _ _ => rfl
@[simp] theorem exec_jwaitWake : ∀ t slot s, exec (.jwaitWake t slot) s = execJwaitWake t slot s := fun _ _ _ => rfl
@[simp] theorem exec_waitevWake : ∀ t slot s, exec (.waitevWake t slot) s = execWaitevWake t slot s := fun _ _ _ => rfl
@[simp] theorem exec_bwaitRead : ∀ t slot s, exec (.bwaitRead t slot) s = execBwaitRead t slot s := fun _ _ _ => rfl
@[simp] theorem exec_bwaitLimit : ∀ t slot s, exec (.bwaitLimit t slot) s = execBwaitLimit t slot s := fun _ _ _ => rfl
@[simp] theorem exec_heldEndingWordRelease : ∀ t slot s, exec (.heldEndingWordRelease t slot) s = execHeldEndingWordRelease t slot s := fun _ _ _ => rfl
@[simp] theorem exec_instructionCacheFill : ∀ t va s, exec (.instructionCacheFill t va) s = execInstructionCacheFill t va s := fun _ _ _ => rfl
@[simp] theorem exec_parameterBlockFill : ∀ t slot s, exec (.parameterBlockFill t slot) s = execParameterBlockFill t slot s := fun _ _ _ => rfl
@[simp] theorem exec_matrixCommandStart : ∀ t s, exec (.matrixCommandStart t) s = execMatrixCommandStart t s := fun _ _ => rfl
@[simp] theorem exec_matrixStep : ∀ t s, exec (.matrixStep t) s = execMatrixStep t s := fun _ _ => rfl
@[simp] theorem exec_matrixStallResume : ∀ t s, exec (.matrixStallResume t) s = execMatrixStallResume t s := fun _ _ => rfl
@[simp] theorem exec_mwbRow : ∀ t s, exec (.mwbRow t) s = execMwbRow t s := fun _ _ => rfl
@[simp] theorem exec_matrixClearRun : ∀ t s, exec (.matrixClearRun t) s = execMatrixClearRun t s := fun _ _ => rfl
@[simp] theorem exec_matrixCompletion : ∀ t s, exec (.matrixCompletion t) s = execMatrixCompletion t s := fun _ _ => rfl
@[simp] theorem exec_copyBegin : ∀ t e s, exec (.copyBegin t e) s = execCopyBegin t e s := fun _ _ _ => rfl
@[simp] theorem exec_copyUnitRetire : ∀ t e s, exec (.copyUnitRetire t e) s = execCopyUnitRetire t e s := fun _ _ _ => rfl
@[simp] theorem exec_copyStallResume : ∀ t e s, exec (.copyStallResume t e) s = execCopyStallResume t e s := fun _ _ _ => rfl
@[simp] theorem exec_copyCompletion : ∀ t e s, exec (.copyCompletion t e) s = execCopyCompletion t e s := fun _ _ _ => rfl
@[simp] theorem exec_walk : ∀ t e va acc s, exec (.walk t e va acc) s = execWalk t e va acc s := fun _ _ _ _ _ => rfl
@[simp] theorem exec_tlbinvComplete : ∀ t slot s, exec (.tlbinvComplete t slot) s = execTlbinvComplete t slot s := fun _ _ _ => rfl
@[simp] theorem exec_closingPoint : ∀ st pc slot wr hint s, exec (.closingPoint st pc slot wr hint) s = execClosingPoint st pc slot wr hint s := fun _ _ _ _ _ _ => rfl
@[simp] theorem exec_readLineArrival : ∀ st k s, exec (.readLineArrival st k) s = execReadLineArrival st k s := fun _ _ _ => rfl
@[simp] theorem exec_writePerformed : ∀ st k s, exec (.writePerformed st k) s = execWritePerformed st k s := fun _ _ _ => rfl
@[simp] theorem exec_retry : ∀ st k s, exec (.retry st k) s = execRetry st k s := fun _ _ _ => rfl
@[simp] theorem exec_thermalStateChange : ∀ st temp s, exec (.thermalStateChange st temp) s = execThermalStateChange st temp s := fun _ _ _ => rfl
@[simp] theorem exec_ownerEntryEffect : ∀ x s, exec (.ownerEntryEffect x) s = execOwnerEntryEffect x s := fun _ _ => rfl
@[simp] theorem exec_sctlQuiesce : ∀ st s, exec (.sctlQuiesce st) s = execSctlQuiesce st s := fun _ _ => rfl
@[simp] theorem exec_quiesced : ∀ st s, exec (.quiesced st) s = execQuiesced st s := fun _ _ => rfl
@[simp] theorem exec_sctlRatio : ∀ st ratio s, exec (.sctlRatio st ratio) s = execSctlRatio st ratio s := fun _ _ _ => rfl
@[simp] theorem exec_laneRetrainComplete : ∀ st s, exec (.laneRetrainComplete st) s = execLaneRetrainComplete st s := fun _ _ => rfl
@[simp] theorem exec_plateFill : ∀ t e err s, exec (.plateFill t e err) s = execPlateFill t e err s := fun _ _ _ _ => rfl
@[simp] theorem exec_plateWrite : ∀ t e s, exec (.plateWrite t e) s = execPlateWrite t e s := fun _ _ _ => rfl
@[simp] theorem exec_plateCommit : ∀ t e s, exec (.plateCommit t e) s = execPlateCommit t e s := fun _ _ _ => rfl
@[simp] theorem exec_resealCommit : ∀ st grp s, exec (.resealCommit st grp) s = execResealCommit st grp s := fun _ _ _ => rfl
@[simp] theorem exec_keyRotationGroup : ∀ st grp s, exec (.keyRotationGroup st grp) s = execKeyRotationGroup st grp s := fun _ _ _ => rfl
@[simp] theorem exec_patrolScrub : ∀ t bank line err s, exec (.patrolScrub t bank line err) s = execPatrolScrub t bank line err s := fun _ _ _ _ _ => rfl
@[simp] theorem exec_meshArrival : ∀ k s, exec (.meshArrival k) s = execMeshArrival k s := fun _ _ => rfl
@[simp] theorem exec_sigDelivery : ∀ k s, exec (.sigDelivery k) s = execSigDelivery k s := fun _ _ => rfl
@[simp] theorem exec_portEWriteApply : ∀ t k s, exec (.portEWriteApply t k) s = execPortEWriteApply t k s := fun _ _ _ => rfl
@[simp] theorem exec_gangDispatch : ∀ die s, exec (.gangDispatch die) s = execGangDispatch die s := fun _ _ => rfl
@[simp] theorem exec_tileClaim : ∀ die job s, exec (.tileClaim die job) s = execTileClaim die job s := fun _ _ _ => rfl
@[simp] theorem exec_jobCompletion : ∀ die slot s, exec (.jobCompletion die slot) s = execJobCompletion die slot s := fun _ _ _ => rfl
@[simp] theorem exec_continuationResume : ∀ gang t s, exec (.continuationResume gang t) s = execContinuationResume gang t s := fun _ _ _ => rfl
@[simp] theorem exec_preemptReq : ∀ t slot s, exec (.preemptReq t slot) s = execPreemptReq t slot s := fun _ _ _ => rfl
@[simp] theorem exec_preemption : ∀ t slot s, exec (.preemption t slot) s = execPreemption t slot s := fun _ _ _ => rfl
@[simp] theorem exec_drainLimit : ∀ t slot s, exec (.drainLimit t slot) s = execDrainLimit t slot s := fun _ _ _ => rfl
@[simp] theorem exec_proofRecordWrite : ∀ t slot s, exec (.proofRecordWrite t slot) s = execProofRecordWrite t slot s := fun _ _ _ => rfl
@[simp] theorem exec_resumption : ∀ gang s, exec (.resumption gang) s = execResumption gang s := fun _ _ => rfl
@[simp] theorem exec_windowCrossing : ∀ t s, exec (.windowCrossing t) s = execWindowCrossing t s := fun _ _ => rfl
@[simp] theorem exec_monitorWindowEnd : ∀ t s, exec (.monitorWindowEnd t) s = execMonitorWindowEnd t s := fun _ _ => rfl
@[simp] theorem exec_windowRestart : ∀ t s, exec (.windowRestart t) s = execWindowRestart t s := fun _ _ => rfl
@[simp] theorem exec_vtgtRaise : ∀ t s, exec (.vtgtRaise t) s = execVtgtRaise t s := fun _ _ => rfl
@[simp] theorem exec_vtgtLower : ∀ t s, exec (.vtgtLower t) s = execVtgtLower t s := fun _ _ => rfl
@[simp] theorem exec_operatingPointChange : ∀ t op s, exec (.operatingPointChange t op) s = execOperatingPointChange t op s := fun _ _ _ => rfl
@[simp] theorem exec_almanacWrite : ∀ t s, exec (.almanacWrite t) s = execAlmanacWrite t s := fun _ _ => rfl
@[simp] theorem exec_ldoTrimUpdate : ∀ t s, exec (.ldoTrimUpdate t) s = execLdoTrimUpdate t s := fun _ _ => rfl
@[simp] theorem exec_railStep : ∀ r s, exec (.railStep r) s = execRailStep r s := fun _ _ => rfl
@[simp] theorem exec_railHoldExpiry : ∀ r s, exec (.railHoldExpiry r) s = execRailHoldExpiry r s := fun _ _ => rfl
@[simp] theorem exec_vminSample : ∀ die r mv s, exec (.vminSample die r mv) s = execVminSample die r mv s := fun _ _ _ _ => rfl
@[simp] theorem exec_vminRearm : ∀ die r mv s, exec (.vminRearm die r mv) s = execVminRearm die r mv s := fun _ _ _ _ => rfl
@[simp] theorem exec_thermalObserverUpdate : ∀ tnow tfc watts s, exec (.thermalObserverUpdate tnow tfc watts) s = execThermalObserverUpdate tnow tfc watts s := fun _ _ _ _ => rfl
@[simp] theorem exec_emergencyGating : ∀ s, exec .emergencyGating s = execEmergencyGating s := fun _ => rfl
@[simp] theorem exec_gatingEnd : ∀ s, exec .gatingEnd s = execGatingEnd s := fun _ => rfl
@[simp] theorem exec_injctlEn : ∀ die s, exec (.injctlEn die) s = execInjctlEn die s := fun _ _ => rfl
@[simp] theorem exec_flitReceive : ∀ port f bad s, exec (.flitReceive port f bad) s = execFlitReceive port f bad s := fun _ _ _ _ => rfl
@[simp] theorem exec_nak : ∀ port seq s, exec (.nak port seq) s = execNak port seq s := fun _ _ _ => rfl
@[simp] theorem exec_retrainComplete : ∀ port lt s, exec (.retrainComplete port lt) s = execRetrainComplete port lt s := fun _ _ _ => rfl
@[simp] theorem exec_portHold : ∀ port s, exec (.portHold port) s = execPortHold port s := fun _ _ => rfl
@[simp] theorem exec_clearFlit : ∀ port s, exec (.clearFlit port) s = execClearFlit port s := fun _ _ => rfl
@[simp] theorem exec_dataFlit : ∀ port s, exec (.dataFlit port) s = execDataFlit port s := fun _ _ => rfl
@[simp] theorem exec_lastFlit : ∀ port s, exec (.lastFlit port) s = execLastFlit port s := fun _ _ => rfl
@[simp] theorem exec_doneFlit : ∀ port s, exec (.doneFlit port) s = execDoneFlit port s := fun _ _ => rfl
@[simp] theorem exec_controlFlit : ∀ port s, exec (.controlFlit port) s = execControlFlit port s := fun _ _ => rfl
@[simp] theorem exec_linkCompletion : ∀ t tag s, exec (.linkCompletion t tag) s = execLinkCompletion t tag s := fun _ _ _ => rfl
@[simp] theorem exec_scheduleStep : ∀ t tag s, exec (.scheduleStep t tag) s = execScheduleStep t tag s := fun _ _ _ => rfl
@[simp] theorem exec_memberDone : ∀ t tag rank s, exec (.memberDone t tag rank) s = execMemberDone t tag rank s := fun _ _ _ _ => rfl
@[simp] theorem exec_memberCommit : ∀ t tag s, exec (.memberCommit t tag) s = execMemberCommit t tag s := fun _ _ _ => rfl
@[simp] theorem exec_memberFail : ∀ t tag rank s, exec (.memberFail t tag rank) s = execMemberFail t tag rank s := fun _ _ _ _ => rfl
@[simp] theorem exec_scheduleRestart : ∀ t tag epoch removed s, exec (.scheduleRestart t tag epoch removed) s = execScheduleRestart t tag epoch removed s := fun _ _ _ _ _ => rfl
@[simp] theorem exec_coordinatorQuery : ∀ t tag rank s, exec (.coordinatorQuery t tag rank) s = execCoordinatorQuery t tag rank s := fun _ _ _ _ => rfl
@[simp] theorem exec_memberTimeout : ∀ t tag rank s, exec (.memberTimeout t tag rank) s = execMemberTimeout t tag rank s := fun _ _ _ _ => rfl
@[simp] theorem exec_twinWindowClose : ∀ p s, exec (.twinWindowClose p) s = execTwinWindowClose p s := fun _ _ => rfl
@[simp] theorem exec_twinDigest : ∀ p win digest s, exec (.twinDigest p win digest) s = execTwinDigest p win digest s := fun _ _ _ _ => rfl
@[simp] theorem exec_interimDigest : ∀ p s, exec (.interimDigest p) s = execInterimDigest p s := fun _ _ => rfl
@[simp] theorem exec_twinLost : ∀ p s, exec (.twinLost p) s = execTwinLost p s := fun _ _ => rfl
@[simp] theorem exec_launchWindowWrite : ∀ vf off len pkt s, exec (.launchWindowWrite vf off len pkt) s = execLaunchWindowWrite vf off len pkt s := fun _ _ _ _ _ => rfl
@[simp] theorem exec_functionLevelReset : ∀ vf s, exec (.functionLevelReset vf) s = execFunctionLevelReset vf s := fun _ _ => rfl
@[simp] theorem exec_partCreate : ∀ ag p test s, exec (.partCreate ag p test) s = execPartCreate ag p test s := fun _ _ _ _ => rfl
@[simp] theorem exec_partDestroy : ∀ ag p s, exec (.partDestroy ag p) s = execPartDestroy ag p s := fun _ _ _ => rfl
@[simp] theorem exec_tileAssign : ∀ ag p die mask s, exec (.tileAssign ag p die mask) s = execTileAssign ag p die mask s := fun _ _ _ _ _ => rfl
@[simp] theorem exec_vfBind : ∀ ag p vf on s, exec (.vfBind ag p vf on) s = execVfBind ag p vf on s := fun _ _ _ _ _ => rfl
@[simp] theorem exec_suptab : ∀ ag p t slot tvec proof s, exec (.suptab ag p t slot tvec proof) s = execSuptab ag p t slot tvec proof s := fun _ _ _ _ _ _ _ => rfl
@[simp] theorem exec_spanGrant : ∀ ag p st span key s, exec (.spanGrant ag p st span key) s = execSpanGrant ag p st span key s := fun _ _ _ _ _ _ => rfl
@[simp] theorem exec_keyRotate : ∀ ag p k s, exec (.keyRotate ag p k) s = execKeyRotate ag p k s := fun _ _ _ _ => rfl
@[simp] theorem exec_grantMask : ∀ ag p mask s, exec (.grantMask ag p mask) s = execGrantMask ag p mask s := fun _ _ _ _ => rfl
@[simp] theorem exec_railVote : ∀ ag p rail mv s, exec (.railVote ag p rail mv) s = execRailVote ag p rail mv s := fun _ _ _ _ _ => rfl
@[simp] theorem exec_preemptCmd : ∀ ag p job gi s, exec (.preemptCmd ag p job gi) s = execPreemptCmd ag p job gi s := fun _ _ _ _ _ => rfl
@[simp] theorem exec_stackCtl : ∀ ag p st w s, exec (.stackCtl ag p st w) s = execStackCtl ag p st w s := fun _ _ _ _ _ => rfl
@[simp] theorem exec_almanacCmd : ∀ ag p t op s, exec (.almanacCmd ag p t op) s = execAlmanacCmd ag p t op s := fun _ _ _ _ _ => rfl
@[simp] theorem exec_twinSetup : ∀ ag p on s, exec (.twinSetup ag p on) s = execTwinSetup ag p on s := fun _ _ _ _ => rfl
@[simp] theorem exec_injectCmd : ∀ ag p die seed tiles ctl s, exec (.injectCmd ag p die seed tiles ctl) s = execInjectCmd ag p die seed tiles ctl s := fun _ _ _ _ _ _ _ => rfl
@[simp] theorem exec_powerState : ∀ ag p w s, exec (.powerState ag p w) s = execPowerState ag p w s := fun _ _ _ _ => rfl
@[simp] theorem exec_handover : ∀ ag s, exec (.handover ag) s = execHandover ag s := fun _ _ => rfl
@[simp] theorem exec_accept : ∀ ag s, exec (.accept ag) s = execAccept ag s := fun _ _ => rfl
@[simp] theorem exec_handoverExpiry : ∀ s, exec .handoverExpiry s = execHandoverExpiry s := fun _ => rfl
@[simp] theorem exec_rootSet : ∀ ag p set pa s, exec (.rootSet ag p set pa) s = execRootSet ag p set pa s := fun _ _ _ _ _ => rfl
@[simp] theorem exec_ownerClaim : ∀ host board s, exec (.ownerClaim host board) s = execOwnerClaim host board s := fun _ _ _ => rfl
@[simp] theorem exec_drvfeat : ∀ v s, exec (.drvfeat v) s = execDrvfeat v s := fun _ _ => rfl
@[simp] theorem exec_coldStart : ∀ failing bad s, exec (.coldStart failing bad) s = execColdStart failing bad s := fun _ _ _ => rfl
@[simp] theorem exec_warmStart : ∀ w s, exec (.warmStart w) s = execWarmStart w s := fun _ _ => rfl
@[simp] theorem exec_registerWrite : ∀ r v s, exec (.registerWrite r v) s = execRegisterWrite r v s := fun _ _ _ => rfl
@[simp] theorem exec_resultDelivery : ∀ t slot k s, exec (.resultDelivery t slot k) s = execResultDelivery t slot k s := fun _ _ _ _ => rfl
@[simp] theorem exec_linkTraining : ∀ port peer lt s, exec (.linkTraining port peer lt) s = execLinkTraining port peer lt s := fun _ _ _ _ => rfl
@[simp] theorem exec_powerLoss : ∀ s, exec .powerLoss s = execPowerLoss s := fun _ => rfl
@[simp] theorem exec_debugPortRequest : ∀ r s, exec (.debugPortRequest r) s = execDebugPortRequest r s := fun _ _ => rfl
@[simp] theorem exec_msiXCoalescingTimeout : ∀ vf s, exec (.msiXCoalescingTimeout vf) s = execMsiXCoalescingTimeout vf s := fun _ _ => rfl

end Sys2Proof.Machine
end

