-- ==== Sys2Proof/Laws/Lanes.lean ====
section
/-! SUPPORT. Vector results element by element: what `mergeV` and the element lists of a vector hold. -/

namespace Sys2Proof.Machine

/-- An element within a list. -/
theorem getD_at {α : Type} (l : List α) (d : α) {j : Nat} (h : j < l.length) : l.getD j d = l[j] := by
  simp [List.getD_eq_getElem?_getD, h]

/-- A field of a field. -/
theorem elem_eq (x w j : Nat) : elem x w j = x / 2 ^ (8 * w * j) % 2 ^ (8 * w) := rfl

/-- An element of a number built from elements. -/
theorem elem_ofElems (w : Nat) (l : List Nat) (j : Nat) : elem (ofElems w l) w j = l.getD j 0 % 2 ^ (8 * w) := by
  induction l generalizing j with
  | nil => simp [ofElems, elem_eq]
  | cons e r ih =>
    have hp : 0 < 2 ^ (8 * w) := Nat.two_pow_pos _
    cases j with
    | zero => simp [ofElems, elem_eq, Nat.add_mod]
    | succ j =>
      have h : (ofElems w (e :: r)) / 2 ^ (8 * w) = ofElems w r := by
        show (e % 2 ^ (8 * w) + 2 ^ (8 * w) * ofElems w r) / 2 ^ (8 * w) = _
        rw [Nat.add_mul_div_left _ _ hp, Nat.div_eq_of_lt (Nat.mod_lt _ hp), Nat.zero_add]
      have := ih j
      rw [elem_eq] at this ⊢
      rw [Nat.mul_succ, Nat.add_comm, Nat.pow_add, ← Nat.div_div_eq_div_mul, h, this]
      simp

/-- A number built from n elements has n · w bytes. -/
theorem ofElems_lt (w : Nat) (l : List Nat) : ofElems w l < 2 ^ (8 * w * l.length) := by
  induction l with
  | nil => simp [ofElems]
  | cons e r ih =>
    have hp : 0 < 2 ^ (8 * w) := Nat.two_pow_pos _
    have h1 : e % 2 ^ (8 * w) < 2 ^ (8 * w) := Nat.mod_lt _ hp
    show e % 2 ^ (8 * w) + 2 ^ (8 * w) * ofElems w r < 2 ^ (8 * w * (r.length + 1))
    rw [Nat.mul_succ, Nat.pow_add]
    calc e % 2 ^ (8 * w) + 2 ^ (8 * w) * ofElems w r < 2 ^ (8 * w) + 2 ^ (8 * w) * ofElems w r := by omega
      _ = 2 ^ (8 * w) * (ofElems w r + 1) := by rw [Nat.mul_add, Nat.mul_one, Nat.add_comm]
      _ ≤ 2 ^ (8 * w) * 2 ^ (8 * w * r.length) := Nat.mul_le_mul_left _ ih
      _ = _ := Nat.mul_comm _ _

/-- The elements of a number, one by one. -/
theorem getD_elems (x w n j : Nat) : (elems x w n).getD j 0 = if j < n then elem x w j else 0 := by
  induction n generalizing x j with
  | zero => simp [elems]
  | succ n ih =>
    cases j with
    | zero => simp [elems, elem_eq]
    | succ j =>
      have := ih (x / 2 ^ (8 * w)) j
      simp only [elems, List.getD_cons_succ, this, Nat.add_lt_add_iff_right, elem_eq]
      rw [Nat.mul_succ, Nat.add_comm (8 * w * j), Nat.pow_add, Nat.div_div_eq_div_mul]

/-- The number of a vector's elements. -/
theorem length_elems (x w n : Nat) : (elems x w n).length = n := by
  induction n generalizing x with
  | zero => rfl
  | succ n ih => simp [elems, ih]

/-- The elements of a vector with their marks, one by one. -/
theorem getElem_elsOf (x : VVal) (w j : Nat) (h : j < (elsOf x w).length) :
    (elsOf x w)[j] = { v := elem x.v.toNat w j, p := chunkP x (j * w) } := by
  have hl : j < 256 / w := by simpa [elsOf, length_elems] using h
  have := getD_elems x.v.toNat w (256 / w) j
  rw [if_pos hl, getD_at _ _ (by rw [length_elems]; exact hl)] at this
  simp [elsOf, this]

/-- The number of a vector's elements with marks. -/
theorem length_elsOf (x : VVal) (w : Nat) : (elsOf x w).length = 256 / w := by simp [elsOf, length_elems]

/-- The merged elements, one by one. -/
theorem getD_mergeEls (mask : Pred) (step w old k : Nat) (l : List El) (j : Nat) :
    (mergeEls mask step w old k l).getD j 0 =
      if h : j < l.length then (if bit mask.toNat ((k + j) * step) then l[j].v else elem old w (k + j)) else 0 := by
  induction l generalizing k j with
  | nil => simp [mergeEls]
  | cons e r ih =>
    cases j with
    | zero => simp [mergeEls]
    | succ j =>
      simp only [mergeEls, List.getD_cons_succ, ih, List.length_cons, Nat.add_lt_add_iff_right, List.getElem_cons_succ]
      have h : k + 1 + j = k + (j + 1) := by omega
      simp only [h]

/-- The number of merged elements. -/
theorem length_mergeEls (mask : Pred) (step w old k : Nat) (l : List El) :
    (mergeEls mask step w old k l).length = l.length := by
  induction l generalizing k with
  | nil => rfl
  | cons e r ih => simp [mergeEls, ih]

/-- A bit of an OR with a power of two. -/
theorem bit_or_two_pow (x : BitVec 32) (a c : Nat) (hc : c < 32) :
    bit (x ||| BitVec.ofNat 32 (2 ^ a)).toNat c = (bit x.toNat c || decide (a = c)) := by
  have e : ∀ y : BitVec 32, bit y.toNat c = y.getLsbD c := fun y => by
    simp [bit, BitVec.getLsbD, Nat.testBit, Nat.shiftRight_eq_div_pow, Nat.one_and_eq_mod_two]
  rw [e, e]
  simp only [BitVec.getLsbD_or, BitVec.getLsbD_ofNat, Nat.testBit_two_pow, hc, decide_true, Bool.true_and]

/-- The marks of a merged result, one by one. -/
theorem bit_mergeMarks (mask : Pred) (step w : Nat) (old : BitVec 32) (k : Nat) (l : List El) (acc : BitVec 32) (c : Nat)
    (hc : c < 32) (hk : ∀ j < l.length, (k + j) * w / 8 < 32) :
    bit (mergeMarks mask step w old k l acc).toNat c = true ↔ bit acc.toNat c = true ∨
      ∃ j, ∃ h : j < l.length, (k + j) * w / 8 = c ∧
        (if bit mask.toNat ((k + j) * step) then l[j].p else bit old.toNat c) = true := by
  induction l generalizing k acc with
  | nil => simp [mergeMarks]
  | cons e r ih =>
    have h0 : k * w / 8 < 32 := by simpa using hk 0 (by simp)
    have hr : ∀ j < r.length, (k + 1 + j) * w / 8 < 32 := fun j hj => by
      have := hk (j + 1) (by simpa using hj)
      rwa [show k + (j + 1) = k + 1 + j by omega] at this
    simp only [mergeMarks]
    rw [ih (k + 1) _ hr]
    have hx : ∀ j, k + 1 + j = k + (j + 1) := fun j => by omega
    generalize hp : (if bit mask.toNat (k * step) = true then e.p else bit old.toNat (k * w / 8)) = p
    constructor
    · rintro (h | ⟨j, hj, h1, h2⟩)
      · cases p with
        | false => exact .inl h
        | true =>
          rw [if_pos rfl, bit_or_two_pow _ _ _ hc] at h
          rcases Bool.or_eq_true _ _ ▸ h with h | h
          · exact .inl h
          · have h := of_decide_eq_true h
            exact .inr ⟨0, by simp, by simpa using h, by simpa [h] using hp⟩
      · exact .inr ⟨j + 1, by simpa using hj, by rw [← hx]; exact h1, by rw [← hx]; simpa using h2⟩
    · rintro (h | ⟨j, hj, h1, h2⟩)
      · left
        cases p with
        | false => exact h
        | true => rw [if_pos rfl, bit_or_two_pow _ _ _ hc, h]; rfl
      · cases j with
        | zero =>
          left
          simp only [Nat.add_zero] at h1 h2
          subst h1
          simp only [List.getElem_cons_zero] at h2
          rw [h2] at hp
          subst hp
          rw [if_pos rfl, bit_or_two_pow _ _ _ hc]
          simp
        | succ j => exact .inr ⟨j, by simpa using hj, by rw [hx]; exact h1, by rw [hx]; simpa using h2⟩

/-- What a merged vector holds. -/
theorem mergeV_lanes (mask : Pred) (step w : Nat) (old : VVal) (l : List El) (hw : l.length * w ≤ 256) :
    LanesAre mask step w l.length old (mergeV mask step w old l) (fun j => (l.getD j { v := 0 }).v)
      (fun j => (l.getD j { v := 0 }).p) := by
  have hlt : ofElems w (mergeEls mask step w old.v.toNat 0 l) < 2 ^ 2048 := by
    refine Nat.lt_of_lt_of_le (ofElems_lt w _) (Nat.pow_le_pow_right (Nat.succ_pos 1) ?_)
    rw [length_mergeEls, Nat.mul_assoc, Nat.mul_comm w]
    omega
  have hv : (mergeV mask step w old l).v.toNat = ofElems w (mergeEls mask step w old.v.toNat 0 l) := by
    simp only [mergeV, BitVec.toNat_ofNat]
    exact Nat.mod_eq_of_lt hlt
  refine ⟨fun j hj => ?_, fun j hj => ?_, fun c hc => ?_⟩
  · rw [hv, elem_ofElems, getD_mergeEls, dif_pos hj, Nat.zero_add]
    simp only [getD_at l _ hj]
    split
    · rfl
    · exact Nat.mod_eq_of_lt (Nat.mod_lt _ (Nat.two_pow_pos _))
  · rw [hv, elem_ofElems, getD_mergeEls, dif_neg (by omega)]; simp
  · have hk : ∀ j < l.length, (0 + j) * w / 8 < 32 := fun j hj => by
      rw [Nat.zero_add]
      cases w with
      | zero => simp
      | succ w =>
        have h1 : (j + 1) * (w + 1) ≤ l.length * (w + 1) := Nat.mul_le_mul_right _ hj
        have h2 : (j + 1) * (w + 1) = j * (w + 1) + (w + 1) := Nat.succ_mul _ _
        have h3 : j * (w + 1) < 256 := by omega
        omega
    have := bit_mergeMarks mask step w old.p 0 l 0 c hc hk
    rw [show (mergeV mask step w old l).p = mergeMarks mask step w old.p 0 l 0 from rfl, this]
    simp only [Nat.zero_add]
    have hz : bit (0 : BitVec 32).toNat c = false := by simp [bit]
    rw [hz]
    constructor
    · rintro (h | ⟨j, hj, h1, h2⟩)
      · cases h
      · exact ⟨j, hj, h1, by rw [getD_at _ _ hj]; exact h2⟩
    · rintro ⟨j, hj, h1, h2⟩
      exact .inr ⟨j, hj, h1, by rw [getD_at _ _ hj] at h2; exact h2⟩

end Sys2Proof.Machine
end

