-- ==== Sys2Proof/Laws/Memory.lean ====
section
/-! SUPPORT. What the operations over memory do: they keep the canonical form, a byte read after a write is the byte written,
and every other byte reads as before. -/

namespace Sys2Proof.Machine

/-- The canonical form, said of every cell. -/
theorem Memory.wf_iff (m : List Host.Cell) :
    Memory.wf m = true ↔ m.Pairwise (fun c d => c.1 < d.1) ∧ ∀ c ∈ m, c.2 ≠ 0 := by
  induction m with
  | nil => simp [Memory.wf]
  | cons c r ih =>
    obtain ⟨k, b⟩ := c
    cases r with
    | nil => simp [Memory.wf]
    | cons d r =>
      obtain ⟨l, e⟩ := d
      simp only [Memory.wf, Bool.and_eq_true, ih, decide_eq_true_eq, bne_iff_ne, List.pairwise_cons, List.mem_cons,
        forall_eq_or_imp]
      constructor
      · rintro ⟨⟨h1, h2⟩, ⟨h3, h4⟩, h5, h6⟩
        exact ⟨⟨⟨h2, fun c hc => Nat.lt_trans h2 (h3 c hc)⟩, h3, h4⟩, h1, h5, h6⟩
      · rintro ⟨⟨⟨h1, -⟩, h3, h4⟩, h5, h6, h7⟩
        exact ⟨⟨h5, h1⟩, ⟨h3, h4⟩, h6, h7⟩

/-- The cells of a block lie in it, rise, and hold no byte 0. -/
theorem cellsOf_spec (a n x : Nat) :
    (cellsOf a n x).Pairwise (fun c d => c.1 < d.1) ∧ ∀ c ∈ cellsOf a n x, c.2 ≠ 0 ∧ a ≤ c.1 ∧ c.1 < a + n := by
  induction n generalizing a x with
  | zero => simp [cellsOf]
  | succ n ih =>
    obtain ⟨h1, h2⟩ := ih (a + 1) (x / 256)
    by_cases hx : x % 256 = 0
    · simp only [cellsOf, hx, if_true]
      exact ⟨h1, fun c hc => ⟨(h2 c hc).1, by have := (h2 c hc).2; omega, by have := (h2 c hc).2; omega⟩⟩
    · simp only [cellsOf, hx, if_false, List.pairwise_cons, List.mem_cons, forall_eq_or_imp]
      refine ⟨⟨fun c hc => by have := (h2 c hc).2; show a < c.1; omega, h1⟩, ⟨?_, Nat.le_refl a, by omega⟩, fun c hc =>
        ⟨(h2 c hc).1, by have := (h2 c hc).2; omega, by have := (h2 c hc).2; omega⟩⟩
      intro h
      have := congrArg BitVec.toNat h
      simp at this
      omega

/-- A block written keeps the canonical form. -/
theorem writeBlock_wf (m : List Host.Cell) (a n x : Nat) (h : Memory.wf m = true) :
    Memory.wf (writeBlock m a n x) = true := by
  rw [Memory.wf_iff] at h ⊢
  obtain ⟨h1, h2⟩ := h
  obtain ⟨h3, h4⟩ := cellsOf_spec a n x
  unfold writeBlock
  refine ⟨?_, ?_⟩
  · rw [List.pairwise_append, List.pairwise_append]
    refine ⟨h1.sublist List.filter_sublist, ⟨h3, h1.sublist List.filter_sublist, ?_⟩, ?_⟩
    · intro c hc d hd
      have := (h4 c hc).2
      have := (List.mem_filter.mp hd).2
      simp at this
      omega
    · intro c hc d hd
      have hc := (List.mem_filter.mp hc).2
      simp at hc
      rcases List.mem_append.mp hd with hd | hd
      · have := (h4 d hd).2; omega
      · have := (List.mem_filter.mp hd).2; simp at this; omega
  · intro c hc
    rcases List.mem_append.mp hc with hc | hc
    · exact h2 c (List.mem_filter.mp hc).1
    · rcases List.mem_append.mp hc with hc | hc
      · exact (h4 c hc).1
      · exact h2 c (List.mem_filter.mp hc).1

/-- Reading through a list none of whose cells has the key. -/
theorem readByte_append (l r : List Host.Cell) (k : Nat) (h : ∀ c ∈ l, c.1 ≠ k) : readByte (l ++ r) k = readByte r k := by
  induction l with
  | nil => rfl
  | cons c l ih =>
    obtain ⟨a, b⟩ := c
    have h1 : a ≠ k := h (a, b) (by simp)
    simp only [List.cons_append, readByte, h1, if_false]
    exact ih fun c hc => h c (by simp [hc])

/-- A filter that keeps a key's cells does not change what the key reads as. -/
theorem readByte_filter (m : List Host.Cell) (p : Nat → Bool) (k : Nat) (h : p k = true) :
    readByte (m.filter fun c => p c.1) k = readByte m k := by
  induction m with
  | nil => rfl
  | cons c m ih =>
    obtain ⟨a, b⟩ := c
    by_cases ha : a = k
    · subst ha; simp [h, readByte]
    · cases hp : p a <;> simp [hp, readByte, ha, ih]

/-- A filter that drops a key's cells makes the key read 0. -/
theorem readByte_filter_none (m : List Host.Cell) (p : Nat → Bool) (k : Nat) (h : p k = false) :
    readByte (m.filter fun c => p c.1) k = 0 := by
  induction m with
  | nil => rfl
  | cons c m ih =>
    obtain ⟨a, b⟩ := c
    by_cases ha : a = k
    · subst ha; simpa [h, readByte] using ih
    · cases hp : p a <;> simp [hp, readByte, ha, ih]

/-- Where a part has the key's cells, the rest does not matter; where it has none, the rest decides. -/
theorem readByte_append_of_zero (l r : List Host.Cell) (k : Nat) (h : ∀ c ∈ r, c.1 ≠ k) :
    readByte (l ++ r) k = readByte l k := by
  induction l with
  | nil =>
    induction r with
    | nil => rfl
    | cons c r ih =>
      obtain ⟨a, b⟩ := c
      have h1 : a ≠ k := h (a, b) (by simp)
      simp only [List.nil_append, readByte, h1, if_false] at ih ⊢
      exact ih fun c hc => h c (by simp [hc])
  | cons c l ih =>
    obtain ⟨a, b⟩ := c
    by_cases ha : a = k <;> simp [readByte, ha, ih]

/-- The bytes of a block's cells. -/
theorem readByte_cellsOf (a n x k : Nat) :
    readByte (cellsOf a n x) k = if a ≤ k ∧ k < a + n then BitVec.ofNat 8 (x / 256 ^ (k - a)) else 0 := by
  induction n generalizing a x with
  | zero =>
    have h : ¬ (a ≤ k ∧ k < a + 0) := by omega
    rw [if_neg h]; rfl
  | succ n ih =>
    by_cases hk : a = k
    · subst hk
      have h : a ≤ a ∧ a < a + (n + 1) := by omega
      by_cases hx : x % 256 = 0
      · have h1 : ¬ (a + 1 ≤ a ∧ a < a + 1 + n) := by omega
        simp only [cellsOf, hx, if_true, ih, h1, if_false, h, Nat.sub_self, Nat.pow_zero, Nat.div_one]
        apply BitVec.eq_of_toNat_eq
        simp [hx]
      · simp [cellsOf, hx, readByte]
    · have e : (if x % 256 = 0 then cellsOf (a + 1) n (x / 256)
          else (a, BitVec.ofNat 8 x) :: cellsOf (a + 1) n (x / 256)) = cellsOf a (n + 1) x := rfl
      have h2 : readByte (cellsOf a (n + 1) x) k = readByte (cellsOf (a + 1) n (x / 256)) k := by
        rw [← e]
        by_cases hx : x % 256 = 0 <;> simp [hx, readByte, hk]
      rw [h2, ih]
      by_cases hc : a + 1 ≤ k ∧ k < a + 1 + n
      · have hc' : a ≤ k ∧ k < a + (n + 1) := by omega
        have hk' : k - a = (k - (a + 1)) + 1 := by omega
        rw [if_pos hc, if_pos hc', hk', Nat.pow_succ', Nat.div_div_eq_div_mul]
      · have hc' : ¬ (a ≤ k ∧ k < a + (n + 1)) := by omega
        rw [if_neg hc, if_neg hc']

/-- A byte read after a block is written: a byte of the block inside it, the old byte outside. -/
theorem readByte_writeBlock (m : List Host.Cell) (a n x k : Nat) :
    readByte (writeBlock m a n x) k =
      if a ≤ k ∧ k < a + n then BitVec.ofNat 8 (x / 256 ^ (k - a)) else readByte m k := by
  have hm := (cellsOf_spec a n x).2
  have lo : ∀ c ∈ m.filter (fun c => decide (c.1 < a)), c.1 < a := fun c hc => by
    have := (List.mem_filter.mp hc).2; simpa using this
  have hi : ∀ c ∈ m.filter (fun c => decide (a + n ≤ c.1)), a + n ≤ c.1 := fun c hc => by
    have := (List.mem_filter.mp hc).2; simpa using this
  unfold writeBlock
  by_cases h : a ≤ k ∧ k < a + n
  · rw [if_pos h, readByte_append _ _ _ (fun c hc => by have := lo c hc; omega),
      readByte_append_of_zero _ _ _ (fun c hc => by have := hi c hc; omega), readByte_cellsOf, if_pos h]
  · rw [if_neg h]
    by_cases h1 : k < a
    · rw [readByte_append_of_zero _ _ _ ?_, readByte_filter m (fun k => decide (k < a)) k (by simpa using h1)]
      intro c hc
      rcases List.mem_append.mp hc with hc | hc
      · have := (hm c hc).2; omega
      · have := hi c hc; omega
    · rw [readByte_append _ _ _ (fun c hc => by have := lo c hc; omega),
        readByte_append _ _ _ (fun c hc => by have := (hm c hc).2; omega),
        readByte_filter m (fun k => decide (a + n ≤ k)) k (by simp; omega)]

/-- The list of poison marks rises. -/
def poisonWf (l : List Nat) : Prop := l.Pairwise (· < ·)

/-- A mark set or cleared keeps the list rising. -/
theorem setPoison_wf (l : List Nat) (k : Nat) (p : Bool) (h : poisonWf l) : poisonWf (setPoison l k p) := by
  unfold poisonWf setPoison at *
  rw [List.pairwise_append, List.pairwise_append]
  refine ⟨h.sublist List.filter_sublist, ⟨by cases p <;> simp, h.sublist List.filter_sublist, ?_⟩, ?_⟩
  · intro a ha b hb
    have := (List.mem_filter.mp hb).2
    cases p <;> simp at *
    omega
  · intro a ha b hb
    have := (List.mem_filter.mp ha).2
    rcases List.mem_append.mp hb with hb | hb
    · cases p <;> simp at *; omega
    · have := (List.mem_filter.mp hb).2; simp at *; omega

/-- Marks set in a row keep the list rising. -/
theorem setPoisonBits_wf (l : List Nat) (k x n : Nat) (h : poisonWf l) : poisonWf (setPoisonBits l k x n) := by
  induction n with
  | zero => exact h
  | succ n ih => exact setPoison_wf _ _ _ ih

/-- A mark that was set or cleared, and every other mark. -/
theorem poisonAt_setPoison (l : List Nat) (k j : Nat) (p : Bool) :
    poisonAt (setPoison l k p) j = if j / 8 = k / 8 then p else poisonAt l j := by
  unfold poisonAt setPoison
  rw [Bool.eq_iff_iff]
  by_cases h : j / 8 = k / 8
  · cases p <;> simp [h]
  · have h1 : j / 8 < k / 8 ∨ k / 8 < j / 8 := by omega
    cases p <;> simp [h, ← and_or_left] <;> exact fun _ => by omega

/-- A block of a list in two parts. -/
theorem readBlock_append (l r : List Host.Cell) (a n : Nat) : readBlock (l ++ r) a n = readBlock l a n + readBlock r a n := by
  induction l with
  | nil => simp [readBlock]
  | cons c l ih =>
    obtain ⟨k, b⟩ := c
    simp only [List.cons_append, readBlock, ih, Nat.add_assoc]

/-- A block none of whose bytes is listed. -/
theorem readBlock_eq_zero (l : List Host.Cell) (a n : Nat) (h : ∀ c ∈ l, c.1 < a ∨ a + n ≤ c.1) : readBlock l a n = 0 := by
  induction l with
  | nil => rfl
  | cons c l ih =>
    obtain ⟨k, b⟩ := c
    have h0 := h (k, b) (List.mem_cons_self ..)
    simp only at h0
    simp only [readBlock]
    rw [if_neg (by omega), ih fun c hc => h c (List.mem_cons_of_mem _ hc)]

/-- A block whose first byte is not listed. -/
theorem readBlock_succ (l : List Host.Cell) (a n : Nat) (h : ∀ c ∈ l, c.1 ≠ a) :
    readBlock l a (n + 1) = 256 * readBlock l (a + 1) n := by
  induction l with
  | nil => rfl
  | cons c l ih =>
    obtain ⟨k, b⟩ := c
    have h0 : k ≠ a := h (k, b) (List.mem_cons_self ..)
    simp only [readBlock, ih fun c hc => h c (List.mem_cons_of_mem _ hc), Nat.mul_add]
    congr 1
    by_cases g : a ≤ k ∧ k < a + (n + 1)
    · rw [if_pos g, if_pos (by omega), show 8 * (k - a) = 8 * (k - (a + 1)) + 8 by omega, Nat.pow_add]
      show b.toNat * (2 ^ (8 * (k - (a + 1))) * 256) = _
      rw [← Nat.mul_assoc, Nat.mul_comm]
    · rw [if_neg g, if_neg (by omega)]

/-- A block of the cells of a number. -/
theorem readBlock_cellsOf (a n x b k : Nat) (h1 : a ≤ b) (h2 : b + k ≤ a + n) :
    readBlock (cellsOf a n x) b k = x / 2 ^ (8 * (b - a)) % 2 ^ (8 * k) := by
  induction n generalizing a x b k with
  | zero =>
    have : k = 0 := by omega
    subst this; simp [cellsOf, readBlock, Nat.mod_one]
  | succ n ih =>
    have hs := (cellsOf_spec (a + 1) n (x / 256)).2
    have hx : readBlock (cellsOf a (n + 1) x) b k =
        (if a = b ∧ 0 < k then x % 256 else 0) + readBlock (cellsOf (a + 1) n (x / 256)) b k := by
      show readBlock (if x % 256 = 0 then cellsOf (a + 1) n (x / 256) else (a, BitVec.ofNat 8 x) :: cellsOf (a + 1) n (x / 256)) b k = _
      split
      · rename_i e; rw [e]; split <;> simp
      · simp only [readBlock, BitVec.toNat_ofNat]
        congr 1
        by_cases g : a = b ∧ 0 < k
        · rw [if_pos g, if_pos (by omega)]; obtain ⟨rfl, -⟩ := g; simp
        · rw [if_neg g, if_neg (by omega)]
    rw [hx]
    by_cases e : a = b
    · subst e
      cases k with
      | zero =>
        rw [readBlock_eq_zero _ _ _ (fun c _ => by omega)]; simp [Nat.mod_one]
      | succ k =>
        rw [if_pos ⟨rfl, Nat.succ_pos k⟩, readBlock_succ _ _ _ (fun c hc => by have := hs c hc; omega),
          ih (a + 1) (x / 256) (a + 1) k (Nat.le_refl _) (by omega)]
        simp only [Nat.sub_self, Nat.mul_zero, Nat.pow_zero, Nat.div_one]
        rw [Nat.mul_succ, Nat.add_comm (8 * k), Nat.pow_add, Nat.mod_mul]
    · rw [if_neg (fun g => e g.1), ih (a + 1) (x / 256) b k (by omega) (by omega), Nat.zero_add,
        show 8 * (b - a) = 8 + 8 * (b - (a + 1)) by omega, Nat.pow_add, Nat.div_div_eq_div_mul]

/-- A block within a block just written. -/
theorem readBlock_writeBlock (m : List Host.Cell) (a n x b k : Nat) (h1 : a ≤ b) (h2 : b + k ≤ a + n) :
    readBlock (writeBlock m a n x) b k = x / 2 ^ (8 * (b - a)) % 2 ^ (8 * k) := by
  have lo : readBlock (m.filter fun c => decide (c.1 < a)) b k = 0 := readBlock_eq_zero _ _ _ fun c hc => by
    have := (List.mem_filter.mp hc).2; simp only [decide_eq_true_eq] at this; omega
  have hi : readBlock (m.filter fun c => decide (a + n ≤ c.1)) b k = 0 := readBlock_eq_zero _ _ _ fun c hc => by
    have := (List.mem_filter.mp hc).2; simp only [decide_eq_true_eq] at this; omega
  unfold writeBlock
  rw [readBlock_append, readBlock_append, lo, hi, readBlock_cellsOf a n x b k h1 h2, Nat.zero_add, Nat.add_zero]

/-- A block of the listed bytes that a filter keeps. -/
theorem readBlock_filter (m : List Host.Cell) (p : Nat → Bool) (b k : Nat) (h : ∀ j, b ≤ j → j < b + k → p j = true) :
    readBlock (m.filter fun c => p c.1) b k = readBlock m b k := by
  induction m with
  | nil => rfl
  | cons c m ih =>
    obtain ⟨j, v⟩ := c
    by_cases g : p j = true
    · rw [List.filter_cons_of_pos (by simpa using g)]; simp only [readBlock, ih]
    · rw [List.filter_cons_of_neg (by simpa using g), ih]
      simp only [readBlock]
      rw [if_neg (fun q => g (h j q.1 q.2)), Nat.zero_add]

/-- A block beside a block just written. -/
theorem readBlock_writeBlock_off (m : List Host.Cell) (a n x b k : Nat) (h : b + k ≤ a ∨ a + n ≤ b) :
    readBlock (writeBlock m a n x) b k = readBlock m b k := by
  have hc : readBlock (cellsOf a n x) b k = 0 := readBlock_eq_zero _ _ _ fun c hc => by
    have := (cellsOf_spec a n x).2 c hc; omega
  unfold writeBlock
  rw [readBlock_append, readBlock_append, hc, Nat.zero_add]
  rcases h with h | h
  · rw [readBlock_filter m (fun j => decide (j < a)) b k (fun j _ _ => by simp; omega),
      readBlock_eq_zero (m.filter fun c => decide (a + n ≤ c.1)) b k fun c hc => by
        have := (List.mem_filter.mp hc).2; simp only [decide_eq_true_eq] at this; omega, Nat.add_zero]
  · rw [readBlock_filter m (fun j => decide (a + n ≤ j)) b k (fun j _ _ => by simp; omega),
      readBlock_eq_zero (m.filter fun c => decide (c.1 < a)) b k fun c hc => by
        have := (List.mem_filter.mp hc).2; simp only [decide_eq_true_eq] at this; omega, Nat.zero_add]

/-- The marks of other doublewords stay when some are set. -/
theorem poisonAt_setPoisonBits (l : List Nat) (key x n j : Nat) (h : key % 8 = 0) :
    poisonAt (setPoisonBits l key x n) j = if key / 8 ≤ j / 8 ∧ j / 8 < key / 8 + n then bit x (j / 8 - key / 8) else poisonAt l j := by
  induction n with
  | zero => rw [if_neg (by omega)]; rfl
  | succ n ih =>
    simp only [setPoisonBits, poisonAt_setPoison, ih]
    by_cases e : j / 8 = (key + 8 * n) / 8
    · rw [if_pos e, if_pos (by omega), show j / 8 - key / 8 = n by omega]
    · rw [if_neg e]
      by_cases g : key / 8 ≤ j / 8 ∧ j / 8 < key / 8 + n
      · rw [if_pos g, if_pos (by omega)]
      · rw [if_neg g, if_neg (by omega)]

end Sys2Proof.Machine
end

