-- ==== Sys2Proof/Laws/State.lean ====
section
/-! SUPPORT. One lemma per field per update of the state: what the named updates leave as it was, each true by `rfl`; and how a
tile, a context and the parts of a list read after an update. -/

namespace Sys2Proof.Machine

/-! ## Lists -/

@[simp] theorem length_updAt {α : Type} (f : α → α) (n : Nat) (l : List α) : (updAt f n l).length = l.length := by
  induction l generalizing n with
  | nil => cases n <;> rfl
  | cons a r ih => cases n <;> simp [updAt, ih]

/-- Element `k` after element `n` was changed. -/
theorem getElem?_updAt {α : Type} (f : α → α) (n k : Nat) (l : List α) :
    (updAt f n l)[k]? = if k = n then l[k]?.map f else l[k]? := by
  induction l generalizing n k with
  | nil => cases n <;> simp [updAt]
  | cons a r ih =>
    cases n with
    | zero => cases k <;> simp [updAt]
    | succ n => cases k <;> simp [updAt, ih]

/-- An element read with a default after element `n` was changed. -/
theorem getD_updAt {α : Type} (f : α → α) (n k : Nat) (l : List α) (d : α) :
    (updAt f n l).getD k d = if k = n ∧ k < l.length then f (l.getD k d) else l.getD k d := by
  simp only [List.getD_eq_getElem?_getD, getElem?_updAt]
  by_cases h : k = n
  · subst h
    by_cases g : k < l.length
    · simp [g]
    · simp [g]
  · simp [h]

/-! ## Fields of the state -/

@[simp] theorem modTile_inputs (s : State) (t : Nat) (f : Tile → Tile) : (s.modTile t f).inputs = s.inputs := rfl
@[simp] theorem modTile_freeCount (s : State) (t : Nat) (f : Tile → Tile) : (s.modTile t f).freeCount = s.freeCount := rfl
@[simp] theorem modTile_iss (s : State) (t : Nat) (f : Tile → Tile) : (s.modTile t f).iss = s.iss := rfl
@[simp] theorem modTile_time (s : State) (t : Nat) (f : Tile → Tile) : (s.modTile t f).time = s.time := rfl
@[simp] theorem modTile_mem (s : State) (t : Nat) (f : Tile → Tile) : (s.modTile t f).mem = s.mem := rfl
@[simp] theorem modTile_poison (s : State) (t : Nat) (f : Tile → Tile) : (s.modTile t f).poison = s.poison := rfl
@[simp] theorem modTile_flips (s : State) (t : Nat) (f : Tile → Tile) : (s.modTile t f).flips = s.flips := rfl
@[simp] theorem modTile_mesh (s : State) (t : Nat) (f : Tile → Tile) : (s.modTile t f).mesh = s.mesh := rfl
@[simp] theorem modTile_gangs (s : State) (t : Nat) (f : Tile → Tile) : (s.modTile t f).gangs = s.gangs := rfl
@[simp] theorem modTile_nextGang (s : State) (t : Nat) (f : Tile → Tile) : (s.modTile t f).nextGang = s.nextGang := rfl
@[simp] theorem modTile_dies (s : State) (t : Nat) (f : Tile → Tile) : (s.modTile t f).dies = s.dies := rfl
@[simp] theorem modTile_sigs (s : State) (t : Nat) (f : Tile → Tile) : (s.modTile t f).sigs = s.sigs := rfl
@[simp] theorem modTile_portE (s : State) (t : Nat) (f : Tile → Tile) : (s.modTile t f).portE = s.portE := rfl
@[simp] theorem modTile_hbm (s : State) (t : Nat) (f : Tile → Tile) : (s.modTile t f).hbm = s.hbm := rfl
@[simp] theorem modTile_ports (s : State) (t : Nat) (f : Tile → Tile) : (s.modTile t f).ports = s.ports := rfl
@[simp] theorem modTile_pkgId (s : State) (t : Nat) (f : Tile → Tile) : (s.modTile t f).pkgId = s.pkgId := rfl
@[simp] theorem modTile_flitDrops (s : State) (t : Nat) (f : Tile → Tile) : (s.modTile t f).flitDrops = s.flitDrops := rfl
@[simp] theorem modTile_linkAge (s : State) (t : Nat) (f : Tile → Tile) : (s.modTile t f).linkAge = s.linkAge := rfl
@[simp] theorem modTile_ioVmin (s : State) (t : Nat) (f : Tile → Tile) : (s.modTile t f).ioVmin = s.ioVmin := rfl
@[simp] theorem modTile_rails (s : State) (t : Nat) (f : Tile → Tile) : (s.modTile t f).rails = s.rails := rfl
@[simp] theorem modTile_tnow (s : State) (t : Nat) (f : Tile → Tile) : (s.modTile t f).tnow = s.tnow := rfl
@[simp] theorem modTile_tfc (s : State) (t : Nat) (f : Tile → Tile) : (s.modTile t f).tfc = s.tfc := rfl
@[simp] theorem modTile_watts (s : State) (t : Nat) (f : Tile → Tile) : (s.modTile t f).watts = s.watts := rfl
@[simp] theorem modTile_powThrot (s : State) (t : Nat) (f : Tile → Tile) : (s.modTile t f).powThrot = s.powThrot := rfl
@[simp] theorem modTile_gated (s : State) (t : Nat) (f : Tile → Tile) : (s.modTile t f).gated = s.gated := rfl
@[simp] theorem modTile_parts (s : State) (t : Nat) (f : Tile → Tile) : (s.modTile t f).parts = s.parts := rfl
@[simp] theorem modTile_vfs (s : State) (t : Nat) (f : Tile → Tile) : (s.modTile t f).vfs = s.vfs := rfl
@[simp] theorem modTile_msgs (s : State) (t : Nat) (f : Tile → Tile) : (s.modTile t f).msgs = s.msgs := rfl
@[simp] theorem modTile_answers (s : State) (t : Nat) (f : Tile → Tile) : (s.modTile t f).answers = s.answers := rfl
@[simp] theorem modTile_drops (s : State) (t : Nat) (f : Tile → Tile) : (s.modTile t f).drops = s.drops := rfl
@[simp] theorem modTile_completions (s : State) (t : Nat) (f : Tile → Tile) : (s.modTile t f).completions = s.completions := rfl
@[simp] theorem modTile_almRead (s : State) (t : Nat) (f : Tile → Tile) : (s.modTile t f).almRead = s.almRead := rfl
@[simp] theorem modTile_owner (s : State) (t : Nat) (f : Tile → Tile) : (s.modTile t f).owner = s.owner := rfl
@[simp] theorem modTile_offer (s : State) (t : Nat) (f : Tile → Tile) : (s.modTile t f).offer = s.offer := rfl
@[simp] theorem modTile_drvfeat (s : State) (t : Nat) (f : Tile → Tile) : (s.modTile t f).drvfeat = s.drvfeat := rfl
@[simp] theorem modTile_featLock (s : State) (t : Nat) (f : Tile → Tile) : (s.modTile t f).featLock = s.featLock := rfl
@[simp] theorem modTile_startFail (s : State) (t : Nat) (f : Tile → Tile) : (s.modTile t f).startFail = s.startFail := rfl
@[simp] theorem modTile_started (s : State) (t : Nat) (f : Tile → Tile) : (s.modTile t f).started = s.started := rfl
@[simp] theorem modTile_startCode (s : State) (t : Nat) (f : Tile → Tile) : (s.modTile t f).startCode = s.startCode := rfl
@[simp] theorem modTile_warm (s : State) (t : Nat) (f : Tile → Tile) : (s.modTile t f).warm = s.warm := rfl
@[simp] theorem modTile_recov (s : State) (t : Nat) (f : Tile → Tile) : (s.modTile t f).recov = s.recov := rfl
@[simp] theorem modTile_accepted (s : State) (t : Nat) (f : Tile → Tile) : (s.modTile t f).accepted = s.accepted := rfl
@[simp] theorem modTile_hostUpload (s : State) (t : Nat) (f : Tile → Tile) : (s.modTile t f).hostUpload = s.hostUpload := rfl
@[simp] theorem modTile_image (s : State) (t : Nat) (f : Tile → Tile) : (s.modTile t f).image = s.image := rfl
@[simp] theorem modTile_fuseRsa (s : State) (t : Nat) (f : Tile → Tile) : (s.modTile t f).fuseRsa = s.fuseRsa := rfl
@[simp] theorem modTile_fuseSlh (s : State) (t : Nat) (f : Tile → Tile) : (s.modTile t f).fuseSlh = s.fuseSlh := rfl
@[simp] theorem modTile_keys (s : State) (t : Nat) (f : Tile → Tile) : (s.modTile t f).keys = s.keys := rfl
@[simp] theorem modTile_keySlots (s : State) (t : Nat) (f : Tile → Tile) : (s.modTile t f).keySlots = s.keySlots := rfl
@[simp] theorem modTile_fwRoot (s : State) (t : Nat) (f : Tile → Tile) : (s.modTile t f).fwRoot = s.fwRoot := rfl
@[simp] theorem modTile_reached (s : State) (t : Nat) (f : Tile → Tile) : (s.modTile t f).reached = s.reached := rfl
@[simp] theorem modTile_power (s : State) (t : Nat) (f : Tile → Tile) : (s.modTile t f).power = s.power := rfl
@[simp] theorem modTile_security (s : State) (t : Nat) (f : Tile → Tile) : (s.modTile t f).security = s.security := rfl
@[simp] theorem modTile_debug (s : State) (t : Nat) (f : Tile → Tile) : (s.modTile t f).debug = s.debug := rfl
@[simp] theorem modTile_token (s : State) (t : Nat) (f : Tile → Tile) : (s.modTile t f).token = s.token := rfl
@[simp] theorem modTile_debugOut (s : State) (t : Nat) (f : Tile → Tile) : (s.modTile t f).debugOut = s.debugOut := rfl

@[simp] theorem modCtx_inputs (s : State) (t k : Nat) (f : Ctx → Ctx) : (s.modCtx t k f).inputs = s.inputs := rfl
@[simp] theorem modCtx_freeCount (s : State) (t k : Nat) (f : Ctx → Ctx) : (s.modCtx t k f).freeCount = s.freeCount := rfl
@[simp] theorem modCtx_iss (s : State) (t k : Nat) (f : Ctx → Ctx) : (s.modCtx t k f).iss = s.iss := rfl
@[simp] theorem modCtx_time (s : State) (t k : Nat) (f : Ctx → Ctx) : (s.modCtx t k f).time = s.time := rfl
@[simp] theorem modCtx_mem (s : State) (t k : Nat) (f : Ctx → Ctx) : (s.modCtx t k f).mem = s.mem := rfl
@[simp] theorem modCtx_poison (s : State) (t k : Nat) (f : Ctx → Ctx) : (s.modCtx t k f).poison = s.poison := rfl
@[simp] theorem modCtx_flips (s : State) (t k : Nat) (f : Ctx → Ctx) : (s.modCtx t k f).flips = s.flips := rfl
@[simp] theorem modCtx_mesh (s : State) (t k : Nat) (f : Ctx → Ctx) : (s.modCtx t k f).mesh = s.mesh := rfl
@[simp] theorem modCtx_gangs (s : State) (t k : Nat) (f : Ctx → Ctx) : (s.modCtx t k f).gangs = s.gangs := rfl
@[simp] theorem modCtx_nextGang (s : State) (t k : Nat) (f : Ctx → Ctx) : (s.modCtx t k f).nextGang = s.nextGang := rfl
@[simp] theorem modCtx_dies (s : State) (t k : Nat) (f : Ctx → Ctx) : (s.modCtx t k f).dies = s.dies := rfl
@[simp] theorem modCtx_sigs (s : State) (t k : Nat) (f : Ctx → Ctx) : (s.modCtx t k f).sigs = s.sigs := rfl
@[simp] theorem modCtx_portE (s : State) (t k : Nat) (f : Ctx → Ctx) : (s.modCtx t k f).portE = s.portE := rfl
@[simp] theorem modCtx_hbm (s : State) (t k : Nat) (f : Ctx → Ctx) : (s.modCtx t k f).hbm = s.hbm := rfl
@[simp] theorem modCtx_ports (s : State) (t k : Nat) (f : Ctx → Ctx) : (s.modCtx t k f).ports = s.ports := rfl
@[simp] theorem modCtx_pkgId (s : State) (t k : Nat) (f : Ctx → Ctx) : (s.modCtx t k f).pkgId = s.pkgId := rfl
@[simp] theorem modCtx_flitDrops (s : State) (t k : Nat) (f : Ctx → Ctx) : (s.modCtx t k f).flitDrops = s.flitDrops := rfl
@[simp] theorem modCtx_linkAge (s : State) (t k : Nat) (f : Ctx → Ctx) : (s.modCtx t k f).linkAge = s.linkAge := rfl
@[simp] theorem modCtx_ioVmin (s : State) (t k : Nat) (f : Ctx → Ctx) : (s.modCtx t k f).ioVmin = s.ioVmin := rfl
@[simp] theorem modCtx_rails (s : State) (t k : Nat) (f : Ctx → Ctx) : (s.modCtx t k f).rails = s.rails := rfl
@[simp] theorem modCtx_tnow (s : State) (t k : Nat) (f : Ctx → Ctx) : (s.modCtx t k f).tnow = s.tnow := rfl
@[simp] theorem modCtx_tfc (s : State) (t k : Nat) (f : Ctx → Ctx) : (s.modCtx t k f).tfc = s.tfc := rfl
@[simp] theorem modCtx_watts (s : State) (t k : Nat) (f : Ctx → Ctx) : (s.modCtx t k f).watts = s.watts := rfl
@[simp] theorem modCtx_powThrot (s : State) (t k : Nat) (f : Ctx → Ctx) : (s.modCtx t k f).powThrot = s.powThrot := rfl
@[simp] theorem modCtx_gated (s : State) (t k : Nat) (f : Ctx → Ctx) : (s.modCtx t k f).gated = s.gated := rfl
@[simp] theorem modCtx_parts (s : State) (t k : Nat) (f : Ctx → Ctx) : (s.modCtx t k f).parts = s.parts := rfl
@[simp] theorem modCtx_vfs (s : State) (t k : Nat) (f : Ctx → Ctx) : (s.modCtx t k f).vfs = s.vfs := rfl
@[simp] theorem modCtx_msgs (s : State) (t k : Nat) (f : Ctx → Ctx) : (s.modCtx t k f).msgs = s.msgs := rfl
@[simp] theorem modCtx_answers (s : State) (t k : Nat) (f : Ctx → Ctx) : (s.modCtx t k f).answers = s.answers := rfl
@[simp] theorem modCtx_drops (s : State) (t k : Nat) (f : Ctx → Ctx) : (s.modCtx t k f).drops = s.drops := rfl
@[simp] theorem modCtx_completions (s : State) (t k : Nat) (f : Ctx → Ctx) : (s.modCtx t k f).completions = s.completions := rfl
@[simp] theorem modCtx_almRead (s : State) (t k : Nat) (f : Ctx → Ctx) : (s.modCtx t k f).almRead = s.almRead := rfl
@[simp] theorem modCtx_owner (s : State) (t k : Nat) (f : Ctx → Ctx) : (s.modCtx t k f).owner = s.owner := rfl
@[simp] theorem modCtx_offer (s : State) (t k : Nat) (f : Ctx → Ctx) : (s.modCtx t k f).offer = s.offer := rfl
@[simp] theorem modCtx_drvfeat (s : State) (t k : Nat) (f : Ctx → Ctx) : (s.modCtx t k f).drvfeat = s.drvfeat := rfl
@[simp] theorem modCtx_featLock (s : State) (t k : Nat) (f : Ctx → Ctx) : (s.modCtx t k f).featLock = s.featLock := rfl
@[simp] theorem modCtx_startFail (s : State) (t k : Nat) (f : Ctx → Ctx) : (s.modCtx t k f).startFail = s.startFail := rfl
@[simp] theorem modCtx_started (s : State) (t k : Nat) (f : Ctx → Ctx) : (s.modCtx t k f).started = s.started := rfl
@[simp] theorem modCtx_startCode (s : State) (t k : Nat) (f : Ctx → Ctx) : (s.modCtx t k f).startCode = s.startCode := rfl
@[simp] theorem modCtx_warm (s : State) (t k : Nat) (f : Ctx → Ctx) : (s.modCtx t k f).warm = s.warm := rfl
@[simp] theorem modCtx_recov (s : State) (t k : Nat) (f : Ctx → Ctx) : (s.modCtx t k f).recov = s.recov := rfl
@[simp] theorem modCtx_accepted (s : State) (t k : Nat) (f : Ctx → Ctx) : (s.modCtx t k f).accepted = s.accepted := rfl
@[simp] theorem modCtx_hostUpload (s : State) (t k : Nat) (f : Ctx → Ctx) : (s.modCtx t k f).hostUpload = s.hostUpload := rfl
@[simp] theorem modCtx_image (s : State) (t k : Nat) (f : Ctx → Ctx) : (s.modCtx t k f).image = s.image := rfl
@[simp] theorem modCtx_fuseRsa (s : State) (t k : Nat) (f : Ctx → Ctx) : (s.modCtx t k f).fuseRsa = s.fuseRsa := rfl
@[simp] theorem modCtx_fuseSlh (s : State) (t k : Nat) (f : Ctx → Ctx) : (s.modCtx t k f).fuseSlh = s.fuseSlh := rfl
@[simp] theorem modCtx_keys (s : State) (t k : Nat) (f : Ctx → Ctx) : (s.modCtx t k f).keys = s.keys := rfl
@[simp] theorem modCtx_keySlots (s : State) (t k : Nat) (f : Ctx → Ctx) : (s.modCtx t k f).keySlots = s.keySlots := rfl
@[simp] theorem modCtx_fwRoot (s : State) (t k : Nat) (f : Ctx → Ctx) : (s.modCtx t k f).fwRoot = s.fwRoot := rfl
@[simp] theorem modCtx_reached (s : State) (t k : Nat) (f : Ctx → Ctx) : (s.modCtx t k f).reached = s.reached := rfl
@[simp] theorem modCtx_power (s : State) (t k : Nat) (f : Ctx → Ctx) : (s.modCtx t k f).power = s.power := rfl
@[simp] theorem modCtx_security (s : State) (t k : Nat) (f : Ctx → Ctx) : (s.modCtx t k f).security = s.security := rfl
@[simp] theorem modCtx_debug (s : State) (t k : Nat) (f : Ctx → Ctx) : (s.modCtx t k f).debug = s.debug := rfl
@[simp] theorem modCtx_token (s : State) (t k : Nat) (f : Ctx → Ctx) : (s.modCtx t k f).token = s.token := rfl
@[simp] theorem modCtx_debugOut (s : State) (t k : Nat) (f : Ctx → Ctx) : (s.modCtx t k f).debugOut = s.debugOut := rfl

@[simp] theorem modCur_inputs (s : State) (f : Ctx → Ctx) : (s.modCur f).inputs = s.inputs := rfl
@[simp] theorem modCur_freeCount (s : State) (f : Ctx → Ctx) : (s.modCur f).freeCount = s.freeCount := rfl
@[simp] theorem modCur_iss (s : State) (f : Ctx → Ctx) : (s.modCur f).iss = s.iss := rfl
@[simp] theorem modCur_time (s : State) (f : Ctx → Ctx) : (s.modCur f).time = s.time := rfl
@[simp] theorem modCur_mem (s : State) (f : Ctx → Ctx) : (s.modCur f).mem = s.mem := rfl
@[simp] theorem modCur_poison (s : State) (f : Ctx → Ctx) : (s.modCur f).poison = s.poison := rfl
@[simp] theorem modCur_flips (s : State) (f : Ctx → Ctx) : (s.modCur f).flips = s.flips := rfl
@[simp] theorem modCur_mesh (s : State) (f : Ctx → Ctx) : (s.modCur f).mesh = s.mesh := rfl
@[simp] theorem modCur_gangs (s : State) (f : Ctx → Ctx) : (s.modCur f).gangs = s.gangs := rfl
@[simp] theorem modCur_nextGang (s : State) (f : Ctx → Ctx) : (s.modCur f).nextGang = s.nextGang := rfl
@[simp] theorem modCur_dies (s : State) (f : Ctx → Ctx) : (s.modCur f).dies = s.dies := rfl
@[simp] theorem modCur_sigs (s : State) (f : Ctx → Ctx) : (s.modCur f).sigs = s.sigs := rfl
@[simp] theorem modCur_portE (s : State) (f : Ctx → Ctx) : (s.modCur f).portE = s.portE := rfl
@[simp] theorem modCur_hbm (s : State) (f : Ctx → Ctx) : (s.modCur f).hbm = s.hbm := rfl
@[simp] theorem modCur_ports (s : State) (f : Ctx → Ctx) : (s.modCur f).ports = s.ports := rfl
@[simp] theorem modCur_pkgId (s : State) (f : Ctx → Ctx) : (s.modCur f).pkgId = s.pkgId := rfl
@[simp] theorem modCur_flitDrops (s : State) (f : Ctx → Ctx) : (s.modCur f).flitDrops = s.flitDrops := rfl
@[simp] theorem modCur_linkAge (s : State) (f : Ctx → Ctx) : (s.modCur f).linkAge = s.linkAge := rfl
@[simp] theorem modCur_ioVmin (s : State) (f : Ctx → Ctx) : (s.modCur f).ioVmin = s.ioVmin := rfl
@[simp] theorem modCur_rails (s : State) (f : Ctx → Ctx) : (s.modCur f).rails = s.rails := rfl
@[simp] theorem modCur_tnow (s : State) (f : Ctx → Ctx) : (s.modCur f).tnow = s.tnow := rfl
@[simp] theorem modCur_tfc (s : State) (f : Ctx → Ctx) : (s.modCur f).tfc = s.tfc := rfl
@[simp] theorem modCur_watts (s : State) (f : Ctx → Ctx) : (s.modCur f).watts = s.watts := rfl
@[simp] theorem modCur_powThrot (s : State) (f : Ctx → Ctx) : (s.modCur f).powThrot = s.powThrot := rfl
@[simp] theorem modCur_gated (s : State) (f : Ctx → Ctx) : (s.modCur f).gated = s.gated := rfl
@[simp] theorem modCur_parts (s : State) (f : Ctx → Ctx) : (s.modCur f).parts = s.parts := rfl
@[simp] theorem modCur_vfs (s : State) (f : Ctx → Ctx) : (s.modCur f).vfs = s.vfs := rfl
@[simp] theorem modCur_msgs (s : State) (f : Ctx → Ctx) : (s.modCur f).msgs = s.msgs := rfl
@[simp] theorem modCur_answers (s : State) (f : Ctx → Ctx) : (s.modCur f).answers = s.answers := rfl
@[simp] theorem modCur_drops (s : State) (f : Ctx → Ctx) : (s.modCur f).drops = s.drops := rfl
@[simp] theorem modCur_completions (s : State) (f : Ctx → Ctx) : (s.modCur f).completions = s.completions := rfl
@[simp] theorem modCur_almRead (s : State) (f : Ctx → Ctx) : (s.modCur f).almRead = s.almRead := rfl
@[simp] theorem modCur_owner (s : State) (f : Ctx → Ctx) : (s.modCur f).owner = s.owner := rfl
@[simp] theorem modCur_offer (s : State) (f : Ctx → Ctx) : (s.modCur f).offer = s.offer := rfl
@[simp] theorem modCur_drvfeat (s : State) (f : Ctx → Ctx) : (s.modCur f).drvfeat = s.drvfeat := rfl
@[simp] theorem modCur_featLock (s : State) (f : Ctx → Ctx) : (s.modCur f).featLock = s.featLock := rfl
@[simp] theorem modCur_startFail (s : State) (f : Ctx → Ctx) : (s.modCur f).startFail = s.startFail := rfl
@[simp] theorem modCur_started (s : State) (f : Ctx → Ctx) : (s.modCur f).started = s.started := rfl
@[simp] theorem modCur_startCode (s : State) (f : Ctx → Ctx) : (s.modCur f).startCode = s.startCode := rfl
@[simp] theorem modCur_warm (s : State) (f : Ctx → Ctx) : (s.modCur f).warm = s.warm := rfl
@[simp] theorem modCur_recov (s : State) (f : Ctx → Ctx) : (s.modCur f).recov = s.recov := rfl
@[simp] theorem modCur_accepted (s : State) (f : Ctx → Ctx) : (s.modCur f).accepted = s.accepted := rfl
@[simp] theorem modCur_hostUpload (s : State) (f : Ctx → Ctx) : (s.modCur f).hostUpload = s.hostUpload := rfl
@[simp] theorem modCur_image (s : State) (f : Ctx → Ctx) : (s.modCur f).image = s.image := rfl
@[simp] theorem modCur_fuseRsa (s : State) (f : Ctx → Ctx) : (s.modCur f).fuseRsa = s.fuseRsa := rfl
@[simp] theorem modCur_fuseSlh (s : State) (f : Ctx → Ctx) : (s.modCur f).fuseSlh = s.fuseSlh := rfl
@[simp] theorem modCur_keys (s : State) (f : Ctx → Ctx) : (s.modCur f).keys = s.keys := rfl
@[simp] theorem modCur_keySlots (s : State) (f : Ctx → Ctx) : (s.modCur f).keySlots = s.keySlots := rfl
@[simp] theorem modCur_fwRoot (s : State) (f : Ctx → Ctx) : (s.modCur f).fwRoot = s.fwRoot := rfl
@[simp] theorem modCur_reached (s : State) (f : Ctx → Ctx) : (s.modCur f).reached = s.reached := rfl
@[simp] theorem modCur_power (s : State) (f : Ctx → Ctx) : (s.modCur f).power = s.power := rfl
@[simp] theorem modCur_security (s : State) (f : Ctx → Ctx) : (s.modCur f).security = s.security := rfl
@[simp] theorem modCur_debug (s : State) (f : Ctx → Ctx) : (s.modCur f).debug = s.debug := rfl
@[simp] theorem modCur_token (s : State) (f : Ctx → Ctx) : (s.modCur f).token = s.token := rfl
@[simp] theorem modCur_debugOut (s : State) (f : Ctx → Ctx) : (s.modCur f).debugOut = s.debugOut := rfl

@[simp] theorem modIss_inputs (s : State) (f : Issue → Issue) : (s.modIss f).inputs = s.inputs := rfl
@[simp] theorem modIss_freeCount (s : State) (f : Issue → Issue) : (s.modIss f).freeCount = s.freeCount := rfl
@[simp] theorem modIss_time (s : State) (f : Issue → Issue) : (s.modIss f).time = s.time := rfl
@[simp] theorem modIss_mem (s : State) (f : Issue → Issue) : (s.modIss f).mem = s.mem := rfl
@[simp] theorem modIss_poison (s : State) (f : Issue → Issue) : (s.modIss f).poison = s.poison := rfl
@[simp] theorem modIss_flips (s : State) (f : Issue → Issue) : (s.modIss f).flips = s.flips := rfl
@[simp] theorem modIss_tiles (s : State) (f : Issue → Issue) : (s.modIss f).tiles = s.tiles := rfl
@[simp] theorem modIss_mesh (s : State) (f : Issue → Issue) : (s.modIss f).mesh = s.mesh := rfl
@[simp] theorem modIss_gangs (s : State) (f : Issue → Issue) : (s.modIss f).gangs = s.gangs := rfl
@[simp] theorem modIss_nextGang (s : State) (f : Issue → Issue) : (s.modIss f).nextGang = s.nextGang := rfl
@[simp] theorem modIss_dies (s : State) (f : Issue → Issue) : (s.modIss f).dies = s.dies := rfl
@[simp] theorem modIss_sigs (s : State) (f : Issue → Issue) : (s.modIss f).sigs = s.sigs := rfl
@[simp] theorem modIss_portE (s : State) (f : Issue → Issue) : (s.modIss f).portE = s.portE := rfl
@[simp] theorem modIss_hbm (s : State) (f : Issue → Issue) : (s.modIss f).hbm = s.hbm := rfl
@[simp] theorem modIss_ports (s : State) (f : Issue → Issue) : (s.modIss f).ports = s.ports := rfl
@[simp] theorem modIss_pkgId (s : State) (f : Issue → Issue) : (s.modIss f).pkgId = s.pkgId := rfl
@[simp] theorem modIss_flitDrops (s : State) (f : Issue → Issue) : (s.modIss f).flitDrops = s.flitDrops := rfl
@[simp] theorem modIss_linkAge (s : State) (f : Issue → Issue) : (s.modIss f).linkAge = s.linkAge := rfl
@[simp] theorem modIss_ioVmin (s : State) (f : Issue → Issue) : (s.modIss f).ioVmin = s.ioVmin := rfl
@[simp] theorem modIss_rails (s : State) (f : Issue → Issue) : (s.modIss f).rails = s.rails := rfl
@[simp] theorem modIss_tnow (s : State) (f : Issue → Issue) : (s.modIss f).tnow = s.tnow := rfl
@[simp] theorem modIss_tfc (s : State) (f : Issue → Issue) : (s.modIss f).tfc = s.tfc := rfl
@[simp] theorem modIss_watts (s : State) (f : Issue → Issue) : (s.modIss f).watts = s.watts := rfl
@[simp] theorem modIss_powThrot (s : State) (f : Issue → Issue) : (s.modIss f).powThrot = s.powThrot := rfl
@[simp] theorem modIss_gated (s : State) (f : Issue → Issue) : (s.modIss f).gated = s.gated := rfl
@[simp] theorem modIss_parts (s : State) (f : Issue → Issue) : (s.modIss f).parts = s.parts := rfl
@[simp] theorem modIss_vfs (s : State) (f : Issue → Issue) : (s.modIss f).vfs = s.vfs := rfl
@[simp] theorem modIss_msgs (s : State) (f : Issue → Issue) : (s.modIss f).msgs = s.msgs := rfl
@[simp] theorem modIss_answers (s : State) (f : Issue → Issue) : (s.modIss f).answers = s.answers := rfl
@[simp] theorem modIss_drops (s : State) (f : Issue → Issue) : (s.modIss f).drops = s.drops := rfl
@[simp] theorem modIss_completions (s : State) (f : Issue → Issue) : (s.modIss f).completions = s.completions := rfl
@[simp] theorem modIss_almRead (s : State) (f : Issue → Issue) : (s.modIss f).almRead = s.almRead := rfl
@[simp] theorem modIss_owner (s : State) (f : Issue → Issue) : (s.modIss f).owner = s.owner := rfl
@[simp] theorem modIss_offer (s : State) (f : Issue → Issue) : (s.modIss f).offer = s.offer := rfl
@[simp] theorem modIss_drvfeat (s : State) (f : Issue → Issue) : (s.modIss f).drvfeat = s.drvfeat := rfl
@[simp] theorem modIss_featLock (s : State) (f : Issue → Issue) : (s.modIss f).featLock = s.featLock := rfl
@[simp] theorem modIss_startFail (s : State) (f : Issue → Issue) : (s.modIss f).startFail = s.startFail := rfl
@[simp] theorem modIss_started (s : State) (f : Issue → Issue) : (s.modIss f).started = s.started := rfl
@[simp] theorem modIss_startCode (s : State) (f : Issue → Issue) : (s.modIss f).startCode = s.startCode := rfl
@[simp] theorem modIss_warm (s : State) (f : Issue → Issue) : (s.modIss f).warm = s.warm := rfl
@[simp] theorem modIss_recov (s : State) (f : Issue → Issue) : (s.modIss f).recov = s.recov := rfl
@[simp] theorem modIss_accepted (s : State) (f : Issue → Issue) : (s.modIss f).accepted = s.accepted := rfl
@[simp] theorem modIss_hostUpload (s : State) (f : Issue → Issue) : (s.modIss f).hostUpload = s.hostUpload := rfl
@[simp] theorem modIss_image (s : State) (f : Issue → Issue) : (s.modIss f).image = s.image := rfl
@[simp] theorem modIss_fuseRsa (s : State) (f : Issue → Issue) : (s.modIss f).fuseRsa = s.fuseRsa := rfl
@[simp] theorem modIss_fuseSlh (s : State) (f : Issue → Issue) : (s.modIss f).fuseSlh = s.fuseSlh := rfl
@[simp] theorem modIss_keys (s : State) (f : Issue → Issue) : (s.modIss f).keys = s.keys := rfl
@[simp] theorem modIss_keySlots (s : State) (f : Issue → Issue) : (s.modIss f).keySlots = s.keySlots := rfl
@[simp] theorem modIss_fwRoot (s : State) (f : Issue → Issue) : (s.modIss f).fwRoot = s.fwRoot := rfl
@[simp] theorem modIss_reached (s : State) (f : Issue → Issue) : (s.modIss f).reached = s.reached := rfl
@[simp] theorem modIss_power (s : State) (f : Issue → Issue) : (s.modIss f).power = s.power := rfl
@[simp] theorem modIss_security (s : State) (f : Issue → Issue) : (s.modIss f).security = s.security := rfl
@[simp] theorem modIss_debug (s : State) (f : Issue → Issue) : (s.modIss f).debug = s.debug := rfl
@[simp] theorem modIss_token (s : State) (f : Issue → Issue) : (s.modIss f).token = s.token := rfl
@[simp] theorem modIss_debugOut (s : State) (f : Issue → Issue) : (s.modIss f).debugOut = s.debugOut := rfl

@[simp] theorem modDie_inputs (s : State) (d : Nat) (f : Die → Die) : (s.modDie d f).inputs = s.inputs := rfl
@[simp] theorem modDie_freeCount (s : State) (d : Nat) (f : Die → Die) : (s.modDie d f).freeCount = s.freeCount := rfl
@[simp] theorem modDie_iss (s : State) (d : Nat) (f : Die → Die) : (s.modDie d f).iss = s.iss := rfl
@[simp] theorem modDie_time (s : State) (d : Nat) (f : Die → Die) : (s.modDie d f).time = s.time := rfl
@[simp] theorem modDie_mem (s : State) (d : Nat) (f : Die → Die) : (s.modDie d f).mem = s.mem := rfl
@[simp] theorem modDie_poison (s : State) (d : Nat) (f : Die → Die) : (s.modDie d f).poison = s.poison := rfl
@[simp] theorem modDie_flips (s : State) (d : Nat) (f : Die → Die) : (s.modDie d f).flips = s.flips := rfl
@[simp] theorem modDie_tiles (s : State) (d : Nat) (f : Die → Die) : (s.modDie d f).tiles = s.tiles := rfl
@[simp] theorem modDie_mesh (s : State) (d : Nat) (f : Die → Die) : (s.modDie d f).mesh = s.mesh := rfl
@[simp] theorem modDie_gangs (s : State) (d : Nat) (f : Die → Die) : (s.modDie d f).gangs = s.gangs := rfl
@[simp] theorem modDie_nextGang (s : State) (d : Nat) (f : Die → Die) : (s.modDie d f).nextGang = s.nextGang := rfl
@[simp] theorem modDie_sigs (s : State) (d : Nat) (f : Die → Die) : (s.modDie d f).sigs = s.sigs := rfl
@[simp] theorem modDie_portE (s : State) (d : Nat) (f : Die → Die) : (s.modDie d f).portE = s.portE := rfl
@[simp] theorem modDie_hbm (s : State) (d : Nat) (f : Die → Die) : (s.modDie d f).hbm = s.hbm := rfl
@[simp] theorem modDie_ports (s : State) (d : Nat) (f : Die → Die) : (s.modDie d f).ports = s.ports := rfl
@[simp] theorem modDie_pkgId (s : State) (d : Nat) (f : Die → Die) : (s.modDie d f).pkgId = s.pkgId := rfl
@[simp] theorem modDie_flitDrops (s : State) (d : Nat) (f : Die → Die) : (s.modDie d f).flitDrops = s.flitDrops := rfl
@[simp] theorem modDie_linkAge (s : State) (d : Nat) (f : Die → Die) : (s.modDie d f).linkAge = s.linkAge := rfl
@[simp] theorem modDie_ioVmin (s : State) (d : Nat) (f : Die → Die) : (s.modDie d f).ioVmin = s.ioVmin := rfl
@[simp] theorem modDie_rails (s : State) (d : Nat) (f : Die → Die) : (s.modDie d f).rails = s.rails := rfl
@[simp] theorem modDie_tnow (s : State) (d : Nat) (f : Die → Die) : (s.modDie d f).tnow = s.tnow := rfl
@[simp] theorem modDie_tfc (s : State) (d : Nat) (f : Die → Die) : (s.modDie d f).tfc = s.tfc := rfl
@[simp] theorem modDie_watts (s : State) (d : Nat) (f : Die → Die) : (s.modDie d f).watts = s.watts := rfl
@[simp] theorem modDie_powThrot (s : State) (d : Nat) (f : Die → Die) : (s.modDie d f).powThrot = s.powThrot := rfl
@[simp] theorem modDie_gated (s : State) (d : Nat) (f : Die → Die) : (s.modDie d f).gated = s.gated := rfl
@[simp] theorem modDie_parts (s : State) (d : Nat) (f : Die → Die) : (s.modDie d f).parts = s.parts := rfl
@[simp] theorem modDie_vfs (s : State) (d : Nat) (f : Die → Die) : (s.modDie d f).vfs = s.vfs := rfl
@[simp] theorem modDie_msgs (s : State) (d : Nat) (f : Die → Die) : (s.modDie d f).msgs = s.msgs := rfl
@[simp] theorem modDie_answers (s : State) (d : Nat) (f : Die → Die) : (s.modDie d f).answers = s.answers := rfl
@[simp] theorem modDie_drops (s : State) (d : Nat) (f : Die → Die) : (s.modDie d f).drops = s.drops := rfl
@[simp] theorem modDie_completions (s : State) (d : Nat) (f : Die → Die) : (s.modDie d f).completions = s.completions := rfl
@[simp] theorem modDie_almRead (s : State) (d : Nat) (f : Die → Die) : (s.modDie d f).almRead = s.almRead := rfl
@[simp] theorem modDie_owner (s : State) (d : Nat) (f : Die → Die) : (s.modDie d f).owner = s.owner := rfl
@[simp] theorem modDie_offer (s : State) (d : Nat) (f : Die → Die) : (s.modDie d f).offer = s.offer := rfl
@[simp] theorem modDie_drvfeat (s : State) (d : Nat) (f : Die → Die) : (s.modDie d f).drvfeat = s.drvfeat := rfl
@[simp] theorem modDie_featLock (s : State) (d : Nat) (f : Die → Die) : (s.modDie d f).featLock = s.featLock := rfl
@[simp] theorem modDie_startFail (s : State) (d : Nat) (f : Die → Die) : (s.modDie d f).startFail = s.startFail := rfl
@[simp] theorem modDie_started (s : State) (d : Nat) (f : Die → Die) : (s.modDie d f).started = s.started := rfl
@[simp] theorem modDie_startCode (s : State) (d : Nat) (f : Die → Die) : (s.modDie d f).startCode = s.startCode := rfl
@[simp] theorem modDie_warm (s : State) (d : Nat) (f : Die → Die) : (s.modDie d f).warm = s.warm := rfl
@[simp] theorem modDie_recov (s : State) (d : Nat) (f : Die → Die) : (s.modDie d f).recov = s.recov := rfl
@[simp] theorem modDie_accepted (s : State) (d : Nat) (f : Die → Die) : (s.modDie d f).accepted = s.accepted := rfl
@[simp] theorem modDie_hostUpload (s : State) (d : Nat) (f : Die → Die) : (s.modDie d f).hostUpload = s.hostUpload := rfl
@[simp] theorem modDie_image (s : State) (d : Nat) (f : Die → Die) : (s.modDie d f).image = s.image := rfl
@[simp] theorem modDie_fuseRsa (s : State) (d : Nat) (f : Die → Die) : (s.modDie d f).fuseRsa = s.fuseRsa := rfl
@[simp] theorem modDie_fuseSlh (s : State) (d : Nat) (f : Die → Die) : (s.modDie d f).fuseSlh = s.fuseSlh := rfl
@[simp] theorem modDie_keys (s : State) (d : Nat) (f : Die → Die) : (s.modDie d f).keys = s.keys := rfl
@[simp] theorem modDie_keySlots (s : State) (d : Nat) (f : Die → Die) : (s.modDie d f).keySlots = s.keySlots := rfl
@[simp] theorem modDie_fwRoot (s : State) (d : Nat) (f : Die → Die) : (s.modDie d f).fwRoot = s.fwRoot := rfl
@[simp] theorem modDie_reached (s : State) (d : Nat) (f : Die → Die) : (s.modDie d f).reached = s.reached := rfl
@[simp] theorem modDie_power (s : State) (d : Nat) (f : Die → Die) : (s.modDie d f).power = s.power := rfl
@[simp] theorem modDie_security (s : State) (d : Nat) (f : Die → Die) : (s.modDie d f).security = s.security := rfl
@[simp] theorem modDie_debug (s : State) (d : Nat) (f : Die → Die) : (s.modDie d f).debug = s.debug := rfl
@[simp] theorem modDie_token (s : State) (d : Nat) (f : Die → Die) : (s.modDie d f).token = s.token := rfl
@[simp] theorem modDie_debugOut (s : State) (d : Nat) (f : Die → Die) : (s.modDie d f).debugOut = s.debugOut := rfl

@[simp] theorem modStack_inputs (s : State) (n : Nat) (f : Stack → Stack) : (s.modStack n f).inputs = s.inputs := rfl
@[simp] theorem modStack_freeCount (s : State) (n : Nat) (f : Stack → Stack) : (s.modStack n f).freeCount = s.freeCount := rfl
@[simp] theorem modStack_iss (s : State) (n : Nat) (f : Stack → Stack) : (s.modStack n f).iss = s.iss := rfl
@[simp] theorem modStack_time (s : State) (n : Nat) (f : Stack → Stack) : (s.modStack n f).time = s.time := rfl
@[simp] theorem modStack_mem (s : State) (n : Nat) (f : Stack → Stack) : (s.modStack n f).mem = s.mem := rfl
@[simp] theorem modStack_poison (s : State) (n : Nat) (f : Stack → Stack) : (s.modStack n f).poison = s.poison := rfl
@[simp] theorem modStack_flips (s : State) (n : Nat) (f : Stack → Stack) : (s.modStack n f).flips = s.flips := rfl
@[simp] theorem modStack_tiles (s : State) (n : Nat) (f : Stack → Stack) : (s.modStack n f).tiles = s.tiles := rfl
@[simp] theorem modStack_mesh (s : State) (n : Nat) (f : Stack → Stack) : (s.modStack n f).mesh = s.mesh := rfl
@[simp] theorem modStack_gangs (s : State) (n : Nat) (f : Stack → Stack) : (s.modStack n f).gangs = s.gangs := rfl
@[simp] theorem modStack_nextGang (s : State) (n : Nat) (f : Stack → Stack) : (s.modStack n f).nextGang = s.nextGang := rfl
@[simp] theorem modStack_dies (s : State) (n : Nat) (f : Stack → Stack) : (s.modStack n f).dies = s.dies := rfl
@[simp] theorem modStack_sigs (s : State) (n : Nat) (f : Stack → Stack) : (s.modStack n f).sigs = s.sigs := rfl
@[simp] theorem modStack_portE (s : State) (n : Nat) (f : Stack → Stack) : (s.modStack n f).portE = s.portE := rfl
@[simp] theorem modStack_ports (s : State) (n : Nat) (f : Stack → Stack) : (s.modStack n f).ports = s.ports := rfl
@[simp] theorem modStack_pkgId (s : State) (n : Nat) (f : Stack → Stack) : (s.modStack n f).pkgId = s.pkgId := rfl
@[simp] theorem modStack_flitDrops (s : State) (n : Nat) (f : Stack → Stack) : (s.modStack n f).flitDrops = s.flitDrops := rfl
@[simp] theorem modStack_linkAge (s : State) (n : Nat) (f : Stack → Stack) : (s.modStack n f).linkAge = s.linkAge := rfl
@[simp] theorem modStack_ioVmin (s : State) (n : Nat) (f : Stack → Stack) : (s.modStack n f).ioVmin = s.ioVmin := rfl
@[simp] theorem modStack_rails (s : State) (n : Nat) (f : Stack → Stack) : (s.modStack n f).rails = s.rails := rfl
@[simp] theorem modStack_tnow (s : State) (n : Nat) (f : Stack → Stack) : (s.modStack n f).tnow = s.tnow := rfl
@[simp] theorem modStack_tfc (s : State) (n : Nat) (f : Stack → Stack) : (s.modStack n f).tfc = s.tfc := rfl
@[simp] theorem modStack_watts (s : State) (n : Nat) (f : Stack → Stack) : (s.modStack n f).watts = s.watts := rfl
@[simp] theorem modStack_powThrot (s : State) (n : Nat) (f : Stack → Stack) : (s.modStack n f).powThrot = s.powThrot := rfl
@[simp] theorem modStack_gated (s : State) (n : Nat) (f : Stack → Stack) : (s.modStack n f).gated = s.gated := rfl
@[simp] theorem modStack_parts (s : State) (n : Nat) (f : Stack → Stack) : (s.modStack n f).parts = s.parts := rfl
@[simp] theorem modStack_vfs (s : State) (n : Nat) (f : Stack → Stack) : (s.modStack n f).vfs = s.vfs := rfl
@[simp] theorem modStack_msgs (s : State) (n : Nat) (f : Stack → Stack) : (s.modStack n f).msgs = s.msgs := rfl
@[simp] theorem modStack_answers (s : State) (n : Nat) (f : Stack → Stack) : (s.modStack n f).answers = s.answers := rfl
@[simp] theorem modStack_drops (s : State) (n : Nat) (f : Stack → Stack) : (s.modStack n f).drops = s.drops := rfl
@[simp] theorem modStack_completions (s : State) (n : Nat) (f : Stack → Stack) : (s.modStack n f).completions = s.completions := rfl
@[simp] theorem modStack_almRead (s : State) (n : Nat) (f : Stack → Stack) : (s.modStack n f).almRead = s.almRead := rfl
@[simp] theorem modStack_owner (s : State) (n : Nat) (f : Stack → Stack) : (s.modStack n f).owner = s.owner := rfl
@[simp] theorem modStack_offer (s : State) (n : Nat) (f : Stack → Stack) : (s.modStack n f).offer = s.offer := rfl
@[simp] theorem modStack_drvfeat (s : State) (n : Nat) (f : Stack → Stack) : (s.modStack n f).drvfeat = s.drvfeat := rfl
@[simp] theorem modStack_featLock (s : State) (n : Nat) (f : Stack → Stack) : (s.modStack n f).featLock = s.featLock := rfl
@[simp] theorem modStack_startFail (s : State) (n : Nat) (f : Stack → Stack) : (s.modStack n f).startFail = s.startFail := rfl
@[simp] theorem modStack_started (s : State) (n : Nat) (f : Stack → Stack) : (s.modStack n f).started = s.started := rfl
@[simp] theorem modStack_startCode (s : State) (n : Nat) (f : Stack → Stack) : (s.modStack n f).startCode = s.startCode := rfl
@[simp] theorem modStack_warm (s : State) (n : Nat) (f : Stack → Stack) : (s.modStack n f).warm = s.warm := rfl
@[simp] theorem modStack_recov (s : State) (n : Nat) (f : Stack → Stack) : (s.modStack n f).recov = s.recov := rfl
@[simp] theorem modStack_accepted (s : State) (n : Nat) (f : Stack → Stack) : (s.modStack n f).accepted = s.accepted := rfl
@[simp] theorem modStack_hostUpload (s : State) (n : Nat) (f : Stack → Stack) : (s.modStack n f).hostUpload = s.hostUpload := rfl
@[simp] theorem modStack_image (s : State) (n : Nat) (f : Stack → Stack) : (s.modStack n f).image = s.image := rfl
@[simp] theorem modStack_fuseRsa (s : State) (n : Nat) (f : Stack → Stack) : (s.modStack n f).fuseRsa = s.fuseRsa := rfl
@[simp] theorem modStack_fuseSlh (s : State) (n : Nat) (f : Stack → Stack) : (s.modStack n f).fuseSlh = s.fuseSlh := rfl
@[simp] theorem modStack_keys (s : State) (n : Nat) (f : Stack → Stack) : (s.modStack n f).keys = s.keys := rfl
@[simp] theorem modStack_keySlots (s : State) (n : Nat) (f : Stack → Stack) : (s.modStack n f).keySlots = s.keySlots := rfl
@[simp] theorem modStack_fwRoot (s : State) (n : Nat) (f : Stack → Stack) : (s.modStack n f).fwRoot = s.fwRoot := rfl
@[simp] theorem modStack_reached (s : State) (n : Nat) (f : Stack → Stack) : (s.modStack n f).reached = s.reached := rfl
@[simp] theorem modStack_power (s : State) (n : Nat) (f : Stack → Stack) : (s.modStack n f).power = s.power := rfl
@[simp] theorem modStack_security (s : State) (n : Nat) (f : Stack → Stack) : (s.modStack n f).security = s.security := rfl
@[simp] theorem modStack_debug (s : State) (n : Nat) (f : Stack → Stack) : (s.modStack n f).debug = s.debug := rfl
@[simp] theorem modStack_token (s : State) (n : Nat) (f : Stack → Stack) : (s.modStack n f).token = s.token := rfl
@[simp] theorem modStack_debugOut (s : State) (n : Nat) (f : Stack → Stack) : (s.modStack n f).debugOut = s.debugOut := rfl

@[simp] theorem modPort_inputs (s : State) (n : Nat) (f : Port → Port) : (s.modPort n f).inputs = s.inputs := rfl
@[simp] theorem modPort_freeCount (s : State) (n : Nat) (f : Port → Port) : (s.modPort n f).freeCount = s.freeCount := rfl
@[simp] theorem modPort_iss (s : State) (n : Nat) (f : Port → Port) : (s.modPort n f).iss = s.iss := rfl
@[simp] theorem modPort_time (s : State) (n : Nat) (f : Port → Port) : (s.modPort n f).time = s.time := rfl
@[simp] theorem modPort_mem (s : State) (n : Nat) (f : Port → Port) : (s.modPort n f).mem = s.mem := rfl
@[simp] theorem modPort_poison (s : State) (n : Nat) (f : Port → Port) : (s.modPort n f).poison = s.poison := rfl
@[simp] theorem modPort_flips (s : State) (n : Nat) (f : Port → Port) : (s.modPort n f).flips = s.flips := rfl
@[simp] theorem modPort_tiles (s : State) (n : Nat) (f : Port → Port) : (s.modPort n f).tiles = s.tiles := rfl
@[simp] theorem modPort_mesh (s : State) (n : Nat) (f : Port → Port) : (s.modPort n f).mesh = s.mesh := rfl
@[simp] theorem modPort_gangs (s : State) (n : Nat) (f : Port → Port) : (s.modPort n f).gangs = s.gangs := rfl
@[simp] theorem modPort_nextGang (s : State) (n : Nat) (f : Port → Port) : (s.modPort n f).nextGang = s.nextGang := rfl
@[simp] theorem modPort_dies (s : State) (n : Nat) (f : Port → Port) : (s.modPort n f).dies = s.dies := rfl
@[simp] theorem modPort_sigs (s : State) (n : Nat) (f : Port → Port) : (s.modPort n f).sigs = s.sigs := rfl
@[simp] theorem modPort_portE (s : State) (n : Nat) (f : Port → Port) : (s.modPort n f).portE = s.portE := rfl
@[simp] theorem modPort_hbm (s : State) (n : Nat) (f : Port → Port) : (s.modPort n f).hbm = s.hbm := rfl
@[simp] theorem modPort_pkgId (s : State) (n : Nat) (f : Port → Port) : (s.modPort n f).pkgId = s.pkgId := rfl
@[simp] theorem modPort_flitDrops (s : State) (n : Nat) (f : Port → Port) : (s.modPort n f).flitDrops = s.flitDrops := rfl
@[simp] theorem modPort_linkAge (s : State) (n : Nat) (f : Port → Port) : (s.modPort n f).linkAge = s.linkAge := rfl
@[simp] theorem modPort_ioVmin (s : State) (n : Nat) (f : Port → Port) : (s.modPort n f).ioVmin = s.ioVmin := rfl
@[simp] theorem modPort_rails (s : State) (n : Nat) (f : Port → Port) : (s.modPort n f).rails = s.rails := rfl
@[simp] theorem modPort_tnow (s : State) (n : Nat) (f : Port → Port) : (s.modPort n f).tnow = s.tnow := rfl
@[simp] theorem modPort_tfc (s : State) (n : Nat) (f : Port → Port) : (s.modPort n f).tfc = s.tfc := rfl
@[simp] theorem modPort_watts (s : State) (n : Nat) (f : Port → Port) : (s.modPort n f).watts = s.watts := rfl
@[simp] theorem modPort_powThrot (s : State) (n : Nat) (f : Port → Port) : (s.modPort n f).powThrot = s.powThrot := rfl
@[simp] theorem modPort_gated (s : State) (n : Nat) (f : Port → Port) : (s.modPort n f).gated = s.gated := rfl
@[simp] theorem modPort_parts (s : State) (n : Nat) (f : Port → Port) : (s.modPort n f).parts = s.parts := rfl
@[simp] theorem modPort_vfs (s : State) (n : Nat) (f : Port → Port) : (s.modPort n f).vfs = s.vfs := rfl
@[simp] theorem modPort_msgs (s : State) (n : Nat) (f : Port → Port) : (s.modPort n f).msgs = s.msgs := rfl
@[simp] theorem modPort_answers (s : State) (n : Nat) (f : Port → Port) : (s.modPort n f).answers = s.answers := rfl
@[simp] theorem modPort_drops (s : State) (n : Nat) (f : Port → Port) : (s.modPort n f).drops = s.drops := rfl
@[simp] theorem modPort_completions (s : State) (n : Nat) (f : Port → Port) : (s.modPort n f).completions = s.completions := rfl
@[simp] theorem modPort_almRead (s : State) (n : Nat) (f : Port → Port) : (s.modPort n f).almRead = s.almRead := rfl
@[simp] theorem modPort_owner (s : State) (n : Nat) (f : Port → Port) : (s.modPort n f).owner = s.owner := rfl
@[simp] theorem modPort_offer (s : State) (n : Nat) (f : Port → Port) : (s.modPort n f).offer = s.offer := rfl
@[simp] theorem modPort_drvfeat (s : State) (n : Nat) (f : Port → Port) : (s.modPort n f).drvfeat = s.drvfeat := rfl
@[simp] theorem modPort_featLock (s : State) (n : Nat) (f : Port → Port) : (s.modPort n f).featLock = s.featLock := rfl
@[simp] theorem modPort_startFail (s : State) (n : Nat) (f : Port → Port) : (s.modPort n f).startFail = s.startFail := rfl
@[simp] theorem modPort_started (s : State) (n : Nat) (f : Port → Port) : (s.modPort n f).started = s.started := rfl
@[simp] theorem modPort_startCode (s : State) (n : Nat) (f : Port → Port) : (s.modPort n f).startCode = s.startCode := rfl
@[simp] theorem modPort_warm (s : State) (n : Nat) (f : Port → Port) : (s.modPort n f).warm = s.warm := rfl
@[simp] theorem modPort_recov (s : State) (n : Nat) (f : Port → Port) : (s.modPort n f).recov = s.recov := rfl
@[simp] theorem modPort_accepted (s : State) (n : Nat) (f : Port → Port) : (s.modPort n f).accepted = s.accepted := rfl
@[simp] theorem modPort_hostUpload (s : State) (n : Nat) (f : Port → Port) : (s.modPort n f).hostUpload = s.hostUpload := rfl
@[simp] theorem modPort_image (s : State) (n : Nat) (f : Port → Port) : (s.modPort n f).image = s.image := rfl
@[simp] theorem modPort_fuseRsa (s : State) (n : Nat) (f : Port → Port) : (s.modPort n f).fuseRsa = s.fuseRsa := rfl
@[simp] theorem modPort_fuseSlh (s : State) (n : Nat) (f : Port → Port) : (s.modPort n f).fuseSlh = s.fuseSlh := rfl
@[simp] theorem modPort_keys (s : State) (n : Nat) (f : Port → Port) : (s.modPort n f).keys = s.keys := rfl
@[simp] theorem modPort_keySlots (s : State) (n : Nat) (f : Port → Port) : (s.modPort n f).keySlots = s.keySlots := rfl
@[simp] theorem modPort_fwRoot (s : State) (n : Nat) (f : Port → Port) : (s.modPort n f).fwRoot = s.fwRoot := rfl
@[simp] theorem modPort_reached (s : State) (n : Nat) (f : Port → Port) : (s.modPort n f).reached = s.reached := rfl
@[simp] theorem modPort_power (s : State) (n : Nat) (f : Port → Port) : (s.modPort n f).power = s.power := rfl
@[simp] theorem modPort_security (s : State) (n : Nat) (f : Port → Port) : (s.modPort n f).security = s.security := rfl
@[simp] theorem modPort_debug (s : State) (n : Nat) (f : Port → Port) : (s.modPort n f).debug = s.debug := rfl
@[simp] theorem modPort_token (s : State) (n : Nat) (f : Port → Port) : (s.modPort n f).token = s.token := rfl
@[simp] theorem modPort_debugOut (s : State) (n : Nat) (f : Port → Port) : (s.modPort n f).debugOut = s.debugOut := rfl

@[simp] theorem modRail_inputs (s : State) (n : Nat) (f : Rail → Rail) : (s.modRail n f).inputs = s.inputs := rfl
@[simp] theorem modRail_freeCount (s : State) (n : Nat) (f : Rail → Rail) : (s.modRail n f).freeCount = s.freeCount := rfl
@[simp] theorem modRail_iss (s : State) (n : Nat) (f : Rail → Rail) : (s.modRail n f).iss = s.iss := rfl
@[simp] theorem modRail_time (s : State) (n : Nat) (f : Rail → Rail) : (s.modRail n f).time = s.time := rfl
@[simp] theorem modRail_mem (s : State) (n : Nat) (f : Rail → Rail) : (s.modRail n f).mem = s.mem := rfl
@[simp] theorem modRail_poison (s : State) (n : Nat) (f : Rail → Rail) : (s.modRail n f).poison = s.poison := rfl
@[simp] theorem modRail_flips (s : State) (n : Nat) (f : Rail → Rail) : (s.modRail n f).flips = s.flips := rfl
@[simp] theorem modRail_tiles (s : State) (n : Nat) (f : Rail → Rail) : (s.modRail n f).tiles = s.tiles := rfl
@[simp] theorem modRail_mesh (s : State) (n : Nat) (f : Rail → Rail) : (s.modRail n f).mesh = s.mesh := rfl
@[simp] theorem modRail_gangs (s : State) (n : Nat) (f : Rail → Rail) : (s.modRail n f).gangs = s.gangs := rfl
@[simp] theorem modRail_nextGang (s : State) (n : Nat) (f : Rail → Rail) : (s.modRail n f).nextGang = s.nextGang := rfl
@[simp] theorem modRail_dies (s : State) (n : Nat) (f : Rail → Rail) : (s.modRail n f).dies = s.dies := rfl
@[simp] theorem modRail_sigs (s : State) (n : Nat) (f : Rail → Rail) : (s.modRail n f).sigs = s.sigs := rfl
@[simp] theorem modRail_portE (s : State) (n : Nat) (f : Rail → Rail) : (s.modRail n f).portE = s.portE := rfl
@[simp] theorem modRail_hbm (s : State) (n : Nat) (f : Rail → Rail) : (s.modRail n f).hbm = s.hbm := rfl
@[simp] theorem modRail_ports (s : State) (n : Nat) (f : Rail → Rail) : (s.modRail n f).ports = s.ports := rfl
@[simp] theorem modRail_pkgId (s : State) (n : Nat) (f : Rail → Rail) : (s.modRail n f).pkgId = s.pkgId := rfl
@[simp] theorem modRail_flitDrops (s : State) (n : Nat) (f : Rail → Rail) : (s.modRail n f).flitDrops = s.flitDrops := rfl
@[simp] theorem modRail_linkAge (s : State) (n : Nat) (f : Rail → Rail) : (s.modRail n f).linkAge = s.linkAge := rfl
@[simp] theorem modRail_ioVmin (s : State) (n : Nat) (f : Rail → Rail) : (s.modRail n f).ioVmin = s.ioVmin := rfl
@[simp] theorem modRail_tnow (s : State) (n : Nat) (f : Rail → Rail) : (s.modRail n f).tnow = s.tnow := rfl
@[simp] theorem modRail_tfc (s : State) (n : Nat) (f : Rail → Rail) : (s.modRail n f).tfc = s.tfc := rfl
@[simp] theorem modRail_watts (s : State) (n : Nat) (f : Rail → Rail) : (s.modRail n f).watts = s.watts := rfl
@[simp] theorem modRail_powThrot (s : State) (n : Nat) (f : Rail → Rail) : (s.modRail n f).powThrot = s.powThrot := rfl
@[simp] theorem modRail_gated (s : State) (n : Nat) (f : Rail → Rail) : (s.modRail n f).gated = s.gated := rfl
@[simp] theorem modRail_parts (s : State) (n : Nat) (f : Rail → Rail) : (s.modRail n f).parts = s.parts := rfl
@[simp] theorem modRail_vfs (s : State) (n : Nat) (f : Rail → Rail) : (s.modRail n f).vfs = s.vfs := rfl
@[simp] theorem modRail_msgs (s : State) (n : Nat) (f : Rail → Rail) : (s.modRail n f).msgs = s.msgs := rfl
@[simp] theorem modRail_answers (s : State) (n : Nat) (f : Rail → Rail) : (s.modRail n f).answers = s.answers := rfl
@[simp] theorem modRail_drops (s : State) (n : Nat) (f : Rail → Rail) : (s.modRail n f).drops = s.drops := rfl
@[simp] theorem modRail_completions (s : State) (n : Nat) (f : Rail → Rail) : (s.modRail n f).completions = s.completions := rfl
@[simp] theorem modRail_almRead (s : State) (n : Nat) (f : Rail → Rail) : (s.modRail n f).almRead = s.almRead := rfl
@[simp] theorem modRail_owner (s : State) (n : Nat) (f : Rail → Rail) : (s.modRail n f).owner = s.owner := rfl
@[simp] theorem modRail_offer (s : State) (n : Nat) (f : Rail → Rail) : (s.modRail n f).offer = s.offer := rfl
@[simp] theorem modRail_drvfeat (s : State) (n : Nat) (f : Rail → Rail) : (s.modRail n f).drvfeat = s.drvfeat := rfl
@[simp] theorem modRail_featLock (s : State) (n : Nat) (f : Rail → Rail) : (s.modRail n f).featLock = s.featLock := rfl
@[simp] theorem modRail_startFail (s : State) (n : Nat) (f : Rail → Rail) : (s.modRail n f).startFail = s.startFail := rfl
@[simp] theorem modRail_started (s : State) (n : Nat) (f : Rail → Rail) : (s.modRail n f).started = s.started := rfl
@[simp] theorem modRail_startCode (s : State) (n : Nat) (f : Rail → Rail) : (s.modRail n f).startCode = s.startCode := rfl
@[simp] theorem modRail_warm (s : State) (n : Nat) (f : Rail → Rail) : (s.modRail n f).warm = s.warm := rfl
@[simp] theorem modRail_recov (s : State) (n : Nat) (f : Rail → Rail) : (s.modRail n f).recov = s.recov := rfl
@[simp] theorem modRail_accepted (s : State) (n : Nat) (f : Rail → Rail) : (s.modRail n f).accepted = s.accepted := rfl
@[simp] theorem modRail_hostUpload (s : State) (n : Nat) (f : Rail → Rail) : (s.modRail n f).hostUpload = s.hostUpload := rfl
@[simp] theorem modRail_image (s : State) (n : Nat) (f : Rail → Rail) : (s.modRail n f).image = s.image := rfl
@[simp] theorem modRail_fuseRsa (s : State) (n : Nat) (f : Rail → Rail) : (s.modRail n f).fuseRsa = s.fuseRsa := rfl
@[simp] theorem modRail_fuseSlh (s : State) (n : Nat) (f : Rail → Rail) : (s.modRail n f).fuseSlh = s.fuseSlh := rfl
@[simp] theorem modRail_keys (s : State) (n : Nat) (f : Rail → Rail) : (s.modRail n f).keys = s.keys := rfl
@[simp] theorem modRail_keySlots (s : State) (n : Nat) (f : Rail → Rail) : (s.modRail n f).keySlots = s.keySlots := rfl
@[simp] theorem modRail_fwRoot (s : State) (n : Nat) (f : Rail → Rail) : (s.modRail n f).fwRoot = s.fwRoot := rfl
@[simp] theorem modRail_reached (s : State) (n : Nat) (f : Rail → Rail) : (s.modRail n f).reached = s.reached := rfl
@[simp] theorem modRail_power (s : State) (n : Nat) (f : Rail → Rail) : (s.modRail n f).power = s.power := rfl
@[simp] theorem modRail_security (s : State) (n : Nat) (f : Rail → Rail) : (s.modRail n f).security = s.security := rfl
@[simp] theorem modRail_debug (s : State) (n : Nat) (f : Rail → Rail) : (s.modRail n f).debug = s.debug := rfl
@[simp] theorem modRail_token (s : State) (n : Nat) (f : Rail → Rail) : (s.modRail n f).token = s.token := rfl
@[simp] theorem modRail_debugOut (s : State) (n : Nat) (f : Rail → Rail) : (s.modRail n f).debugOut = s.debugOut := rfl

@[simp] theorem modGang_inputs (s : State) (n : Nat) (f : Gang → Gang) : (s.modGang n f).inputs = s.inputs := rfl
@[simp] theorem modGang_freeCount (s : State) (n : Nat) (f : Gang → Gang) : (s.modGang n f).freeCount = s.freeCount := rfl
@[simp] theorem modGang_iss (s : State) (n : Nat) (f : Gang → Gang) : (s.modGang n f).iss = s.iss := rfl
@[simp] theorem modGang_time (s : State) (n : Nat) (f : Gang → Gang) : (s.modGang n f).time = s.time := rfl
@[simp] theorem modGang_mem (s : State) (n : Nat) (f : Gang → Gang) : (s.modGang n f).mem = s.mem := rfl
@[simp] theorem modGang_poison (s : State) (n : Nat) (f : Gang → Gang) : (s.modGang n f).poison = s.poison := rfl
@[simp] theorem modGang_flips (s : State) (n : Nat) (f : Gang → Gang) : (s.modGang n f).flips = s.flips := rfl
@[simp] theorem modGang_tiles (s : State) (n : Nat) (f : Gang → Gang) : (s.modGang n f).tiles = s.tiles := rfl
@[simp] theorem modGang_mesh (s : State) (n : Nat) (f : Gang → Gang) : (s.modGang n f).mesh = s.mesh := rfl
@[simp] theorem modGang_nextGang (s : State) (n : Nat) (f : Gang → Gang) : (s.modGang n f).nextGang = s.nextGang := rfl
@[simp] theorem modGang_dies (s : State) (n : Nat) (f : Gang → Gang) : (s.modGang n f).dies = s.dies := rfl
@[simp] theorem modGang_sigs (s : State) (n : Nat) (f : Gang → Gang) : (s.modGang n f).sigs = s.sigs := rfl
@[simp] theorem modGang_portE (s : State) (n : Nat) (f : Gang → Gang) : (s.modGang n f).portE = s.portE := rfl
@[simp] theorem modGang_hbm (s : State) (n : Nat) (f : Gang → Gang) : (s.modGang n f).hbm = s.hbm := rfl
@[simp] theorem modGang_ports (s : State) (n : Nat) (f : Gang → Gang) : (s.modGang n f).ports = s.ports := rfl
@[simp] theorem modGang_pkgId (s : State) (n : Nat) (f : Gang → Gang) : (s.modGang n f).pkgId = s.pkgId := rfl
@[simp] theorem modGang_flitDrops (s : State) (n : Nat) (f : Gang → Gang) : (s.modGang n f).flitDrops = s.flitDrops := rfl
@[simp] theorem modGang_linkAge (s : State) (n : Nat) (f : Gang → Gang) : (s.modGang n f).linkAge = s.linkAge := rfl
@[simp] theorem modGang_ioVmin (s : State) (n : Nat) (f : Gang → Gang) : (s.modGang n f).ioVmin = s.ioVmin := rfl
@[simp] theorem modGang_rails (s : State) (n : Nat) (f : Gang → Gang) : (s.modGang n f).rails = s.rails := rfl
@[simp] theorem modGang_tnow (s : State) (n : Nat) (f : Gang → Gang) : (s.modGang n f).tnow = s.tnow := rfl
@[simp] theorem modGang_tfc (s : State) (n : Nat) (f : Gang → Gang) : (s.modGang n f).tfc = s.tfc := rfl
@[simp] theorem modGang_watts (s : State) (n : Nat) (f : Gang → Gang) : (s.modGang n f).watts = s.watts := rfl
@[simp] theorem modGang_powThrot (s : State) (n : Nat) (f : Gang → Gang) : (s.modGang n f).powThrot = s.powThrot := rfl
@[simp] theorem modGang_gated (s : State) (n : Nat) (f : Gang → Gang) : (s.modGang n f).gated = s.gated := rfl
@[simp] theorem modGang_parts (s : State) (n : Nat) (f : Gang → Gang) : (s.modGang n f).parts = s.parts := rfl
@[simp] theorem modGang_vfs (s : State) (n : Nat) (f : Gang → Gang) : (s.modGang n f).vfs = s.vfs := rfl
@[simp] theorem modGang_msgs (s : State) (n : Nat) (f : Gang → Gang) : (s.modGang n f).msgs = s.msgs := rfl
@[simp] theorem modGang_answers (s : State) (n : Nat) (f : Gang → Gang) : (s.modGang n f).answers = s.answers := rfl
@[simp] theorem modGang_drops (s : State) (n : Nat) (f : Gang → Gang) : (s.modGang n f).drops = s.drops := rfl
@[simp] theorem modGang_completions (s : State) (n : Nat) (f : Gang → Gang) : (s.modGang n f).completions = s.completions := rfl
@[simp] theorem modGang_almRead (s : State) (n : Nat) (f : Gang → Gang) : (s.modGang n f).almRead = s.almRead := rfl
@[simp] theorem modGang_owner (s : State) (n : Nat) (f : Gang → Gang) : (s.modGang n f).owner = s.owner := rfl
@[simp] theorem modGang_offer (s : State) (n : Nat) (f : Gang → Gang) : (s.modGang n f).offer = s.offer := rfl
@[simp] theorem modGang_drvfeat (s : State) (n : Nat) (f : Gang → Gang) : (s.modGang n f).drvfeat = s.drvfeat := rfl
@[simp] theorem modGang_featLock (s : State) (n : Nat) (f : Gang → Gang) : (s.modGang n f).featLock = s.featLock := rfl
@[simp] theorem modGang_startFail (s : State) (n : Nat) (f : Gang → Gang) : (s.modGang n f).startFail = s.startFail := rfl
@[simp] theorem modGang_started (s : State) (n : Nat) (f : Gang → Gang) : (s.modGang n f).started = s.started := rfl
@[simp] theorem modGang_startCode (s : State) (n : Nat) (f : Gang → Gang) : (s.modGang n f).startCode = s.startCode := rfl
@[simp] theorem modGang_warm (s : State) (n : Nat) (f : Gang → Gang) : (s.modGang n f).warm = s.warm := rfl
@[simp] theorem modGang_recov (s : State) (n : Nat) (f : Gang → Gang) : (s.modGang n f).recov = s.recov := rfl
@[simp] theorem modGang_accepted (s : State) (n : Nat) (f : Gang → Gang) : (s.modGang n f).accepted = s.accepted := rfl
@[simp] theorem modGang_hostUpload (s : State) (n : Nat) (f : Gang → Gang) : (s.modGang n f).hostUpload = s.hostUpload := rfl
@[simp] theorem modGang_image (s : State) (n : Nat) (f : Gang → Gang) : (s.modGang n f).image = s.image := rfl
@[simp] theorem modGang_fuseRsa (s : State) (n : Nat) (f : Gang → Gang) : (s.modGang n f).fuseRsa = s.fuseRsa := rfl
@[simp] theorem modGang_fuseSlh (s : State) (n : Nat) (f : Gang → Gang) : (s.modGang n f).fuseSlh = s.fuseSlh := rfl
@[simp] theorem modGang_keys (s : State) (n : Nat) (f : Gang → Gang) : (s.modGang n f).keys = s.keys := rfl
@[simp] theorem modGang_keySlots (s : State) (n : Nat) (f : Gang → Gang) : (s.modGang n f).keySlots = s.keySlots := rfl
@[simp] theorem modGang_fwRoot (s : State) (n : Nat) (f : Gang → Gang) : (s.modGang n f).fwRoot = s.fwRoot := rfl
@[simp] theorem modGang_reached (s : State) (n : Nat) (f : Gang → Gang) : (s.modGang n f).reached = s.reached := rfl
@[simp] theorem modGang_power (s : State) (n : Nat) (f : Gang → Gang) : (s.modGang n f).power = s.power := rfl
@[simp] theorem modGang_security (s : State) (n : Nat) (f : Gang → Gang) : (s.modGang n f).security = s.security := rfl
@[simp] theorem modGang_debug (s : State) (n : Nat) (f : Gang → Gang) : (s.modGang n f).debug = s.debug := rfl
@[simp] theorem modGang_token (s : State) (n : Nat) (f : Gang → Gang) : (s.modGang n f).token = s.token := rfl
@[simp] theorem modGang_debugOut (s : State) (n : Nat) (f : Gang → Gang) : (s.modGang n f).debugOut = s.debugOut := rfl

@[simp] theorem modPart_inputs (s : State) (n : Nat) (f : Part → Part) : (s.modPart n f).inputs = s.inputs := rfl
@[simp] theorem modPart_freeCount (s : State) (n : Nat) (f : Part → Part) : (s.modPart n f).freeCount = s.freeCount := rfl
@[simp] theorem modPart_iss (s : State) (n : Nat) (f : Part → Part) : (s.modPart n f).iss = s.iss := rfl
@[simp] theorem modPart_time (s : State) (n : Nat) (f : Part → Part) : (s.modPart n f).time = s.time := rfl
@[simp] theorem modPart_mem (s : State) (n : Nat) (f : Part → Part) : (s.modPart n f).mem = s.mem := rfl
@[simp] theorem modPart_poison (s : State) (n : Nat) (f : Part → Part) : (s.modPart n f).poison = s.poison := rfl
@[simp] theorem modPart_flips (s : State) (n : Nat) (f : Part → Part) : (s.modPart n f).flips = s.flips := rfl
@[simp] theorem modPart_tiles (s : State) (n : Nat) (f : Part → Part) : (s.modPart n f).tiles = s.tiles := rfl
@[simp] theorem modPart_mesh (s : State) (n : Nat) (f : Part → Part) : (s.modPart n f).mesh = s.mesh := rfl
@[simp] theorem modPart_gangs (s : State) (n : Nat) (f : Part → Part) : (s.modPart n f).gangs = s.gangs := rfl
@[simp] theorem modPart_nextGang (s : State) (n : Nat) (f : Part → Part) : (s.modPart n f).nextGang = s.nextGang := rfl
@[simp] theorem modPart_dies (s : State) (n : Nat) (f : Part → Part) : (s.modPart n f).dies = s.dies := rfl
@[simp] theorem modPart_sigs (s : State) (n : Nat) (f : Part → Part) : (s.modPart n f).sigs = s.sigs := rfl
@[simp] theorem modPart_portE (s : State) (n : Nat) (f : Part → Part) : (s.modPart n f).portE = s.portE := rfl
@[simp] theorem modPart_hbm (s : State) (n : Nat) (f : Part → Part) : (s.modPart n f).hbm = s.hbm := rfl
@[simp] theorem modPart_ports (s : State) (n : Nat) (f : Part → Part) : (s.modPart n f).ports = s.ports := rfl
@[simp] theorem modPart_pkgId (s : State) (n : Nat) (f : Part → Part) : (s.modPart n f).pkgId = s.pkgId := rfl
@[simp] theorem modPart_flitDrops (s : State) (n : Nat) (f : Part → Part) : (s.modPart n f).flitDrops = s.flitDrops := rfl
@[simp] theorem modPart_linkAge (s : State) (n : Nat) (f : Part → Part) : (s.modPart n f).linkAge = s.linkAge := rfl
@[simp] theorem modPart_ioVmin (s : State) (n : Nat) (f : Part → Part) : (s.modPart n f).ioVmin = s.ioVmin := rfl
@[simp] theorem modPart_rails (s : State) (n : Nat) (f : Part → Part) : (s.modPart n f).rails = s.rails := rfl
@[simp] theorem modPart_tnow (s : State) (n : Nat) (f : Part → Part) : (s.modPart n f).tnow = s.tnow := rfl
@[simp] theorem modPart_tfc (s : State) (n : Nat) (f : Part → Part) : (s.modPart n f).tfc = s.tfc := rfl
@[simp] theorem modPart_watts (s : State) (n : Nat) (f : Part → Part) : (s.modPart n f).watts = s.watts := rfl
@[simp] theorem modPart_powThrot (s : State) (n : Nat) (f : Part → Part) : (s.modPart n f).powThrot = s.powThrot := rfl
@[simp] theorem modPart_gated (s : State) (n : Nat) (f : Part → Part) : (s.modPart n f).gated = s.gated := rfl
@[simp] theorem modPart_vfs (s : State) (n : Nat) (f : Part → Part) : (s.modPart n f).vfs = s.vfs := rfl
@[simp] theorem modPart_msgs (s : State) (n : Nat) (f : Part → Part) : (s.modPart n f).msgs = s.msgs := rfl
@[simp] theorem modPart_answers (s : State) (n : Nat) (f : Part → Part) : (s.modPart n f).answers = s.answers := rfl
@[simp] theorem modPart_drops (s : State) (n : Nat) (f : Part → Part) : (s.modPart n f).drops = s.drops := rfl
@[simp] theorem modPart_completions (s : State) (n : Nat) (f : Part → Part) : (s.modPart n f).completions = s.completions := rfl
@[simp] theorem modPart_almRead (s : State) (n : Nat) (f : Part → Part) : (s.modPart n f).almRead = s.almRead := rfl
@[simp] theorem modPart_owner (s : State) (n : Nat) (f : Part → Part) : (s.modPart n f).owner = s.owner := rfl
@[simp] theorem modPart_offer (s : State) (n : Nat) (f : Part → Part) : (s.modPart n f).offer = s.offer := rfl
@[simp] theorem modPart_drvfeat (s : State) (n : Nat) (f : Part → Part) : (s.modPart n f).drvfeat = s.drvfeat := rfl
@[simp] theorem modPart_featLock (s : State) (n : Nat) (f : Part → Part) : (s.modPart n f).featLock = s.featLock := rfl
@[simp] theorem modPart_startFail (s : State) (n : Nat) (f : Part → Part) : (s.modPart n f).startFail = s.startFail := rfl
@[simp] theorem modPart_started (s : State) (n : Nat) (f : Part → Part) : (s.modPart n f).started = s.started := rfl
@[simp] theorem modPart_startCode (s : State) (n : Nat) (f : Part → Part) : (s.modPart n f).startCode = s.startCode := rfl
@[simp] theorem modPart_warm (s : State) (n : Nat) (f : Part → Part) : (s.modPart n f).warm = s.warm := rfl
@[simp] theorem modPart_recov (s : State) (n : Nat) (f : Part → Part) : (s.modPart n f).recov = s.recov := rfl
@[simp] theorem modPart_accepted (s : State) (n : Nat) (f : Part → Part) : (s.modPart n f).accepted = s.accepted := rfl
@[simp] theorem modPart_hostUpload (s : State) (n : Nat) (f : Part → Part) : (s.modPart n f).hostUpload = s.hostUpload := rfl
@[simp] theorem modPart_image (s : State) (n : Nat) (f : Part → Part) : (s.modPart n f).image = s.image := rfl
@[simp] theorem modPart_fuseRsa (s : State) (n : Nat) (f : Part → Part) : (s.modPart n f).fuseRsa = s.fuseRsa := rfl
@[simp] theorem modPart_fuseSlh (s : State) (n : Nat) (f : Part → Part) : (s.modPart n f).fuseSlh = s.fuseSlh := rfl
@[simp] theorem modPart_keys (s : State) (n : Nat) (f : Part → Part) : (s.modPart n f).keys = s.keys := rfl
@[simp] theorem modPart_keySlots (s : State) (n : Nat) (f : Part → Part) : (s.modPart n f).keySlots = s.keySlots := rfl
@[simp] theorem modPart_fwRoot (s : State) (n : Nat) (f : Part → Part) : (s.modPart n f).fwRoot = s.fwRoot := rfl
@[simp] theorem modPart_reached (s : State) (n : Nat) (f : Part → Part) : (s.modPart n f).reached = s.reached := rfl
@[simp] theorem modPart_power (s : State) (n : Nat) (f : Part → Part) : (s.modPart n f).power = s.power := rfl
@[simp] theorem modPart_security (s : State) (n : Nat) (f : Part → Part) : (s.modPart n f).security = s.security := rfl
@[simp] theorem modPart_debug (s : State) (n : Nat) (f : Part → Part) : (s.modPart n f).debug = s.debug := rfl
@[simp] theorem modPart_token (s : State) (n : Nat) (f : Part → Part) : (s.modPart n f).token = s.token := rfl
@[simp] theorem modPart_debugOut (s : State) (n : Nat) (f : Part → Part) : (s.modPart n f).debugOut = s.debugOut := rfl

@[simp] theorem modVf_inputs (s : State) (n : Nat) (f : Vf → Vf) : (s.modVf n f).inputs = s.inputs := rfl
@[simp] theorem modVf_freeCount (s : State) (n : Nat) (f : Vf → Vf) : (s.modVf n f).freeCount = s.freeCount := rfl
@[simp] theorem modVf_iss (s : State) (n : Nat) (f : Vf → Vf) : (s.modVf n f).iss = s.iss := rfl
@[simp] theorem modVf_time (s : State) (n : Nat) (f : Vf → Vf) : (s.modVf n f).time = s.time := rfl
@[simp] theorem modVf_mem (s : State) (n : Nat) (f : Vf → Vf) : (s.modVf n f).mem = s.mem := rfl
@[simp] theorem modVf_poison (s : State) (n : Nat) (f : Vf → Vf) : (s.modVf n f).poison = s.poison := rfl
@[simp] theorem modVf_flips (s : State) (n : Nat) (f : Vf → Vf) : (s.modVf n f).flips = s.flips := rfl
@[simp] theorem modVf_tiles (s : State) (n : Nat) (f : Vf → Vf) : (s.modVf n f).tiles = s.tiles := rfl
@[simp] theorem modVf_mesh (s : State) (n : Nat) (f : Vf → Vf) : (s.modVf n f).mesh = s.mesh := rfl
@[simp] theorem modVf_gangs (s : State) (n : Nat) (f : Vf → Vf) : (s.modVf n f).gangs = s.gangs := rfl
@[simp] theorem modVf_nextGang (s : State) (n : Nat) (f : Vf → Vf) : (s.modVf n f).nextGang = s.nextGang := rfl
@[simp] theorem modVf_dies (s : State) (n : Nat) (f : Vf → Vf) : (s.modVf n f).dies = s.dies := rfl
@[simp] theorem modVf_sigs (s : State) (n : Nat) (f : Vf → Vf) : (s.modVf n f).sigs = s.sigs := rfl
@[simp] theorem modVf_portE (s : State) (n : Nat) (f : Vf → Vf) : (s.modVf n f).portE = s.portE := rfl
@[simp] theorem modVf_hbm (s : State) (n : Nat) (f : Vf → Vf) : (s.modVf n f).hbm = s.hbm := rfl
@[simp] theorem modVf_ports (s : State) (n : Nat) (f : Vf → Vf) : (s.modVf n f).ports = s.ports := rfl
@[simp] theorem modVf_pkgId (s : State) (n : Nat) (f : Vf → Vf) : (s.modVf n f).pkgId = s.pkgId := rfl
@[simp] theorem modVf_flitDrops (s : State) (n : Nat) (f : Vf → Vf) : (s.modVf n f).flitDrops = s.flitDrops := rfl
@[simp] theorem modVf_linkAge (s : State) (n : Nat) (f : Vf → Vf) : (s.modVf n f).linkAge = s.linkAge := rfl
@[simp] theorem modVf_ioVmin (s : State) (n : Nat) (f : Vf → Vf) : (s.modVf n f).ioVmin = s.ioVmin := rfl
@[simp] theorem modVf_rails (s : State) (n : Nat) (f : Vf → Vf) : (s.modVf n f).rails = s.rails := rfl
@[simp] theorem modVf_tnow (s : State) (n : Nat) (f : Vf → Vf) : (s.modVf n f).tnow = s.tnow := rfl
@[simp] theorem modVf_tfc (s : State) (n : Nat) (f : Vf → Vf) : (s.modVf n f).tfc = s.tfc := rfl
@[simp] theorem modVf_watts (s : State) (n : Nat) (f : Vf → Vf) : (s.modVf n f).watts = s.watts := rfl
@[simp] theorem modVf_powThrot (s : State) (n : Nat) (f : Vf → Vf) : (s.modVf n f).powThrot = s.powThrot := rfl
@[simp] theorem modVf_gated (s : State) (n : Nat) (f : Vf → Vf) : (s.modVf n f).gated = s.gated := rfl
@[simp] theorem modVf_parts (s : State) (n : Nat) (f : Vf → Vf) : (s.modVf n f).parts = s.parts := rfl
@[simp] theorem modVf_msgs (s : State) (n : Nat) (f : Vf → Vf) : (s.modVf n f).msgs = s.msgs := rfl
@[simp] theorem modVf_answers (s : State) (n : Nat) (f : Vf → Vf) : (s.modVf n f).answers = s.answers := rfl
@[simp] theorem modVf_drops (s : State) (n : Nat) (f : Vf → Vf) : (s.modVf n f).drops = s.drops := rfl
@[simp] theorem modVf_completions (s : State) (n : Nat) (f : Vf → Vf) : (s.modVf n f).completions = s.completions := rfl
@[simp] theorem modVf_almRead (s : State) (n : Nat) (f : Vf → Vf) : (s.modVf n f).almRead = s.almRead := rfl
@[simp] theorem modVf_owner (s : State) (n : Nat) (f : Vf → Vf) : (s.modVf n f).owner = s.owner := rfl
@[simp] theorem modVf_offer (s : State) (n : Nat) (f : Vf → Vf) : (s.modVf n f).offer = s.offer := rfl
@[simp] theorem modVf_drvfeat (s : State) (n : Nat) (f : Vf → Vf) : (s.modVf n f).drvfeat = s.drvfeat := rfl
@[simp] theorem modVf_featLock (s : State) (n : Nat) (f : Vf → Vf) : (s.modVf n f).featLock = s.featLock := rfl
@[simp] theorem modVf_startFail (s : State) (n : Nat) (f : Vf → Vf) : (s.modVf n f).startFail = s.startFail := rfl
@[simp] theorem modVf_started (s : State) (n : Nat) (f : Vf → Vf) : (s.modVf n f).started = s.started := rfl
@[simp] theorem modVf_startCode (s : State) (n : Nat) (f : Vf → Vf) : (s.modVf n f).startCode = s.startCode := rfl
@[simp] theorem modVf_warm (s : State) (n : Nat) (f : Vf → Vf) : (s.modVf n f).warm = s.warm := rfl
@[simp] theorem modVf_recov (s : State) (n : Nat) (f : Vf → Vf) : (s.modVf n f).recov = s.recov := rfl
@[simp] theorem modVf_accepted (s : State) (n : Nat) (f : Vf → Vf) : (s.modVf n f).accepted = s.accepted := rfl
@[simp] theorem modVf_hostUpload (s : State) (n : Nat) (f : Vf → Vf) : (s.modVf n f).hostUpload = s.hostUpload := rfl
@[simp] theorem modVf_image (s : State) (n : Nat) (f : Vf → Vf) : (s.modVf n f).image = s.image := rfl
@[simp] theorem modVf_fuseRsa (s : State) (n : Nat) (f : Vf → Vf) : (s.modVf n f).fuseRsa = s.fuseRsa := rfl
@[simp] theorem modVf_fuseSlh (s : State) (n : Nat) (f : Vf → Vf) : (s.modVf n f).fuseSlh = s.fuseSlh := rfl
@[simp] theorem modVf_keys (s : State) (n : Nat) (f : Vf → Vf) : (s.modVf n f).keys = s.keys := rfl
@[simp] theorem modVf_keySlots (s : State) (n : Nat) (f : Vf → Vf) : (s.modVf n f).keySlots = s.keySlots := rfl
@[simp] theorem modVf_fwRoot (s : State) (n : Nat) (f : Vf → Vf) : (s.modVf n f).fwRoot = s.fwRoot := rfl
@[simp] theorem modVf_reached (s : State) (n : Nat) (f : Vf → Vf) : (s.modVf n f).reached = s.reached := rfl
@[simp] theorem modVf_power (s : State) (n : Nat) (f : Vf → Vf) : (s.modVf n f).power = s.power := rfl
@[simp] theorem modVf_security (s : State) (n : Nat) (f : Vf → Vf) : (s.modVf n f).security = s.security := rfl
@[simp] theorem modVf_debug (s : State) (n : Nat) (f : Vf → Vf) : (s.modVf n f).debug = s.debug := rfl
@[simp] theorem modVf_token (s : State) (n : Nat) (f : Vf → Vf) : (s.modVf n f).token = s.token := rfl
@[simp] theorem modVf_debugOut (s : State) (n : Nat) (f : Vf → Vf) : (s.modVf n f).debugOut = s.debugOut := rfl

@[simp] theorem modBurin_inputs (s : State) (t e : Nat) (f : Burin → Burin) : (s.modBurin t e f).inputs = s.inputs := rfl
@[simp] theorem modBurin_freeCount (s : State) (t e : Nat) (f : Burin → Burin) : (s.modBurin t e f).freeCount = s.freeCount := rfl
@[simp] theorem modBurin_iss (s : State) (t e : Nat) (f : Burin → Burin) : (s.modBurin t e f).iss = s.iss := rfl
@[simp] theorem modBurin_time (s : State) (t e : Nat) (f : Burin → Burin) : (s.modBurin t e f).time = s.time := rfl
@[simp] theorem modBurin_mem (s : State) (t e : Nat) (f : Burin → Burin) : (s.modBurin t e f).mem = s.mem := rfl
@[simp] theorem modBurin_poison (s : State) (t e : Nat) (f : Burin → Burin) : (s.modBurin t e f).poison = s.poison := rfl
@[simp] theorem modBurin_flips (s : State) (t e : Nat) (f : Burin → Burin) : (s.modBurin t e f).flips = s.flips := rfl
@[simp] theorem modBurin_mesh (s : State) (t e : Nat) (f : Burin → Burin) : (s.modBurin t e f).mesh = s.mesh := rfl
@[simp] theorem modBurin_gangs (s : State) (t e : Nat) (f : Burin → Burin) : (s.modBurin t e f).gangs = s.gangs := rfl
@[simp] theorem modBurin_nextGang (s : State) (t e : Nat) (f : Burin → Burin) : (s.modBurin t e f).nextGang = s.nextGang := rfl
@[simp] theorem modBurin_dies (s : State) (t e : Nat) (f : Burin → Burin) : (s.modBurin t e f).dies = s.dies := rfl
@[simp] theorem modBurin_sigs (s : State) (t e : Nat) (f : Burin → Burin) : (s.modBurin t e f).sigs = s.sigs := rfl
@[simp] theorem modBurin_portE (s : State) (t e : Nat) (f : Burin → Burin) : (s.modBurin t e f).portE = s.portE := rfl
@[simp] theorem modBurin_hbm (s : State) (t e : Nat) (f : Burin → Burin) : (s.modBurin t e f).hbm = s.hbm := rfl
@[simp] theorem modBurin_ports (s : State) (t e : Nat) (f : Burin → Burin) : (s.modBurin t e f).ports = s.ports := rfl
@[simp] theorem modBurin_pkgId (s : State) (t e : Nat) (f : Burin → Burin) : (s.modBurin t e f).pkgId = s.pkgId := rfl
@[simp] theorem modBurin_flitDrops (s : State) (t e : Nat) (f : Burin → Burin) : (s.modBurin t e f).flitDrops = s.flitDrops := rfl
@[simp] theorem modBurin_linkAge (s : State) (t e : Nat) (f : Burin → Burin) : (s.modBurin t e f).linkAge = s.linkAge := rfl
@[simp] theorem modBurin_ioVmin (s : State) (t e : Nat) (f : Burin → Burin) : (s.modBurin t e f).ioVmin = s.ioVmin := rfl
@[simp] theorem modBurin_rails (s : State) (t e : Nat) (f : Burin → Burin) : (s.modBurin t e f).rails = s.rails := rfl
@[simp] theorem modBurin_tnow (s : State) (t e : Nat) (f : Burin → Burin) : (s.modBurin t e f).tnow = s.tnow := rfl
@[simp] theorem modBurin_tfc (s : State) (t e : Nat) (f : Burin → Burin) : (s.modBurin t e f).tfc = s.tfc := rfl
@[simp] theorem modBurin_watts (s : State) (t e : Nat) (f : Burin → Burin) : (s.modBurin t e f).watts = s.watts := rfl
@[simp] theorem modBurin_powThrot (s : State) (t e : Nat) (f : Burin → Burin) : (s.modBurin t e f).powThrot = s.powThrot := rfl
@[simp] theorem modBurin_gated (s : State) (t e : Nat) (f : Burin → Burin) : (s.modBurin t e f).gated = s.gated := rfl
@[simp] theorem modBurin_parts (s : State) (t e : Nat) (f : Burin → Burin) : (s.modBurin t e f).parts = s.parts := rfl
@[simp] theorem modBurin_vfs (s : State) (t e : Nat) (f : Burin → Burin) : (s.modBurin t e f).vfs = s.vfs := rfl
@[simp] theorem modBurin_msgs (s : State) (t e : Nat) (f : Burin → Burin) : (s.modBurin t e f).msgs = s.msgs := rfl
@[simp] theorem modBurin_answers (s : State) (t e : Nat) (f : Burin → Burin) : (s.modBurin t e f).answers = s.answers := rfl
@[simp] theorem modBurin_drops (s : State) (t e : Nat) (f : Burin → Burin) : (s.modBurin t e f).drops = s.drops := rfl
@[simp] theorem modBurin_completions (s : State) (t e : Nat) (f : Burin → Burin) : (s.modBurin t e f).completions = s.completions := rfl
@[simp] theorem modBurin_almRead (s : State) (t e : Nat) (f : Burin → Burin) : (s.modBurin t e f).almRead = s.almRead := rfl
@[simp] theorem modBurin_owner (s : State) (t e : Nat) (f : Burin → Burin) : (s.modBurin t e f).owner = s.owner := rfl
@[simp] theorem modBurin_offer (s : State) (t e : Nat) (f : Burin → Burin) : (s.modBurin t e f).offer = s.offer := rfl
@[simp] theorem modBurin_drvfeat (s : State) (t e : Nat) (f : Burin → Burin) : (s.modBurin t e f).drvfeat = s.drvfeat := rfl
@[simp] theorem modBurin_featLock (s : State) (t e : Nat) (f : Burin → Burin) : (s.modBurin t e f).featLock = s.featLock := rfl
@[simp] theorem modBurin_startFail (s : State) (t e : Nat) (f : Burin → Burin) : (s.modBurin t e f).startFail = s.startFail := rfl
@[simp] theorem modBurin_started (s : State) (t e : Nat) (f : Burin → Burin) : (s.modBurin t e f).started = s.started := rfl
@[simp] theorem modBurin_startCode (s : State) (t e : Nat) (f : Burin → Burin) : (s.modBurin t e f).startCode = s.startCode := rfl
@[simp] theorem modBurin_warm (s : State) (t e : Nat) (f : Burin → Burin) : (s.modBurin t e f).warm = s.warm := rfl
@[simp] theorem modBurin_recov (s : State) (t e : Nat) (f : Burin → Burin) : (s.modBurin t e f).recov = s.recov := rfl
@[simp] theorem modBurin_accepted (s : State) (t e : Nat) (f : Burin → Burin) : (s.modBurin t e f).accepted = s.accepted := rfl
@[simp] theorem modBurin_hostUpload (s : State) (t e : Nat) (f : Burin → Burin) : (s.modBurin t e f).hostUpload = s.hostUpload := rfl
@[simp] theorem modBurin_image (s : State) (t e : Nat) (f : Burin → Burin) : (s.modBurin t e f).image = s.image := rfl
@[simp] theorem modBurin_fuseRsa (s : State) (t e : Nat) (f : Burin → Burin) : (s.modBurin t e f).fuseRsa = s.fuseRsa := rfl
@[simp] theorem modBurin_fuseSlh (s : State) (t e : Nat) (f : Burin → Burin) : (s.modBurin t e f).fuseSlh = s.fuseSlh := rfl
@[simp] theorem modBurin_keys (s : State) (t e : Nat) (f : Burin → Burin) : (s.modBurin t e f).keys = s.keys := rfl
@[simp] theorem modBurin_keySlots (s : State) (t e : Nat) (f : Burin → Burin) : (s.modBurin t e f).keySlots = s.keySlots := rfl
@[simp] theorem modBurin_fwRoot (s : State) (t e : Nat) (f : Burin → Burin) : (s.modBurin t e f).fwRoot = s.fwRoot := rfl
@[simp] theorem modBurin_reached (s : State) (t e : Nat) (f : Burin → Burin) : (s.modBurin t e f).reached = s.reached := rfl
@[simp] theorem modBurin_power (s : State) (t e : Nat) (f : Burin → Burin) : (s.modBurin t e f).power = s.power := rfl
@[simp] theorem modBurin_security (s : State) (t e : Nat) (f : Burin → Burin) : (s.modBurin t e f).security = s.security := rfl
@[simp] theorem modBurin_debug (s : State) (t e : Nat) (f : Burin → Burin) : (s.modBurin t e f).debug = s.debug := rfl
@[simp] theorem modBurin_token (s : State) (t e : Nat) (f : Burin → Burin) : (s.modBurin t e f).token = s.token := rfl
@[simp] theorem modBurin_debugOut (s : State) (t e : Nat) (f : Burin → Burin) : (s.modBurin t e f).debugOut = s.debugOut := rfl

@[simp] theorem modMargin_inputs (s : State) (t : Nat) (f : Margin → Margin) : (s.modMargin t f).inputs = s.inputs := rfl
@[simp] theorem modMargin_freeCount (s : State) (t : Nat) (f : Margin → Margin) : (s.modMargin t f).freeCount = s.freeCount := rfl
@[simp] theorem modMargin_iss (s : State) (t : Nat) (f : Margin → Margin) : (s.modMargin t f).iss = s.iss := rfl
@[simp] theorem modMargin_time (s : State) (t : Nat) (f : Margin → Margin) : (s.modMargin t f).time = s.time := rfl
@[simp] theorem modMargin_mem (s : State) (t : Nat) (f : Margin → Margin) : (s.modMargin t f).mem = s.mem := rfl
@[simp] theorem modMargin_poison (s : State) (t : Nat) (f : Margin → Margin) : (s.modMargin t f).poison = s.poison := rfl
@[simp] theorem modMargin_flips (s : State) (t : Nat) (f : Margin → Margin) : (s.modMargin t f).flips = s.flips := rfl
@[simp] theorem modMargin_mesh (s : State) (t : Nat) (f : Margin → Margin) : (s.modMargin t f).mesh = s.mesh := rfl
@[simp] theorem modMargin_gangs (s : State) (t : Nat) (f : Margin → Margin) : (s.modMargin t f).gangs = s.gangs := rfl
@[simp] theorem modMargin_nextGang (s : State) (t : Nat) (f : Margin → Margin) : (s.modMargin t f).nextGang = s.nextGang := rfl
@[simp] theorem modMargin_dies (s : State) (t : Nat) (f : Margin → Margin) : (s.modMargin t f).dies = s.dies := rfl
@[simp] theorem modMargin_sigs (s : State) (t : Nat) (f : Margin → Margin) : (s.modMargin t f).sigs = s.sigs := rfl
@[simp] theorem modMargin_portE (s : State) (t : Nat) (f : Margin → Margin) : (s.modMargin t f).portE = s.portE := rfl
@[simp] theorem modMargin_hbm (s : State) (t : Nat) (f : Margin → Margin) : (s.modMargin t f).hbm = s.hbm := rfl
@[simp] theorem modMargin_ports (s : State) (t : Nat) (f : Margin → Margin) : (s.modMargin t f).ports = s.ports := rfl
@[simp] theorem modMargin_pkgId (s : State) (t : Nat) (f : Margin → Margin) : (s.modMargin t f).pkgId = s.pkgId := rfl
@[simp] theorem modMargin_flitDrops (s : State) (t : Nat) (f : Margin → Margin) : (s.modMargin t f).flitDrops = s.flitDrops := rfl
@[simp] theorem modMargin_linkAge (s : State) (t : Nat) (f : Margin → Margin) : (s.modMargin t f).linkAge = s.linkAge := rfl
@[simp] theorem modMargin_ioVmin (s : State) (t : Nat) (f : Margin → Margin) : (s.modMargin t f).ioVmin = s.ioVmin := rfl
@[simp] theorem modMargin_rails (s : State) (t : Nat) (f : Margin → Margin) : (s.modMargin t f).rails = s.rails := rfl
@[simp] theorem modMargin_tnow (s : State) (t : Nat) (f : Margin → Margin) : (s.modMargin t f).tnow = s.tnow := rfl
@[simp] theorem modMargin_tfc (s : State) (t : Nat) (f : Margin → Margin) : (s.modMargin t f).tfc = s.tfc := rfl
@[simp] theorem modMargin_watts (s : State) (t : Nat) (f : Margin → Margin) : (s.modMargin t f).watts = s.watts := rfl
@[simp] theorem modMargin_powThrot (s : State) (t : Nat) (f : Margin → Margin) : (s.modMargin t f).powThrot = s.powThrot := rfl
@[simp] theorem modMargin_gated (s : State) (t : Nat) (f : Margin → Margin) : (s.modMargin t f).gated = s.gated := rfl
@[simp] theorem modMargin_parts (s : State) (t : Nat) (f : Margin → Margin) : (s.modMargin t f).parts = s.parts := rfl
@[simp] theorem modMargin_vfs (s : State) (t : Nat) (f : Margin → Margin) : (s.modMargin t f).vfs = s.vfs := rfl
@[simp] theorem modMargin_msgs (s : State) (t : Nat) (f : Margin → Margin) : (s.modMargin t f).msgs = s.msgs := rfl
@[simp] theorem modMargin_answers (s : State) (t : Nat) (f : Margin → Margin) : (s.modMargin t f).answers = s.answers := rfl
@[simp] theorem modMargin_drops (s : State) (t : Nat) (f : Margin → Margin) : (s.modMargin t f).drops = s.drops := rfl
@[simp] theorem modMargin_completions (s : State) (t : Nat) (f : Margin → Margin) : (s.modMargin t f).completions = s.completions := rfl
@[simp] theorem modMargin_almRead (s : State) (t : Nat) (f : Margin → Margin) : (s.modMargin t f).almRead = s.almRead := rfl
@[simp] theorem modMargin_owner (s : State) (t : Nat) (f : Margin → Margin) : (s.modMargin t f).owner = s.owner := rfl
@[simp] theorem modMargin_offer (s : State) (t : Nat) (f : Margin → Margin) : (s.modMargin t f).offer = s.offer := rfl
@[simp] theorem modMargin_drvfeat (s : State) (t : Nat) (f : Margin → Margin) : (s.modMargin t f).drvfeat = s.drvfeat := rfl
@[simp] theorem modMargin_featLock (s : State) (t : Nat) (f : Margin → Margin) : (s.modMargin t f).featLock = s.featLock := rfl
@[simp] theorem modMargin_startFail (s : State) (t : Nat) (f : Margin → Margin) : (s.modMargin t f).startFail = s.startFail := rfl
@[simp] theorem modMargin_started (s : State) (t : Nat) (f : Margin → Margin) : (s.modMargin t f).started = s.started := rfl
@[simp] theorem modMargin_startCode (s : State) (t : Nat) (f : Margin → Margin) : (s.modMargin t f).startCode = s.startCode := rfl
@[simp] theorem modMargin_warm (s : State) (t : Nat) (f : Margin → Margin) : (s.modMargin t f).warm = s.warm := rfl
@[simp] theorem modMargin_recov (s : State) (t : Nat) (f : Margin → Margin) : (s.modMargin t f).recov = s.recov := rfl
@[simp] theorem modMargin_accepted (s : State) (t : Nat) (f : Margin → Margin) : (s.modMargin t f).accepted = s.accepted := rfl
@[simp] theorem modMargin_hostUpload (s : State) (t : Nat) (f : Margin → Margin) : (s.modMargin t f).hostUpload = s.hostUpload := rfl
@[simp] theorem modMargin_image (s : State) (t : Nat) (f : Margin → Margin) : (s.modMargin t f).image = s.image := rfl
@[simp] theorem modMargin_fuseRsa (s : State) (t : Nat) (f : Margin → Margin) : (s.modMargin t f).fuseRsa = s.fuseRsa := rfl
@[simp] theorem modMargin_fuseSlh (s : State) (t : Nat) (f : Margin → Margin) : (s.modMargin t f).fuseSlh = s.fuseSlh := rfl
@[simp] theorem modMargin_keys (s : State) (t : Nat) (f : Margin → Margin) : (s.modMargin t f).keys = s.keys := rfl
@[simp] theorem modMargin_keySlots (s : State) (t : Nat) (f : Margin → Margin) : (s.modMargin t f).keySlots = s.keySlots := rfl
@[simp] theorem modMargin_fwRoot (s : State) (t : Nat) (f : Margin → Margin) : (s.modMargin t f).fwRoot = s.fwRoot := rfl
@[simp] theorem modMargin_reached (s : State) (t : Nat) (f : Margin → Margin) : (s.modMargin t f).reached = s.reached := rfl
@[simp] theorem modMargin_power (s : State) (t : Nat) (f : Margin → Margin) : (s.modMargin t f).power = s.power := rfl
@[simp] theorem modMargin_security (s : State) (t : Nat) (f : Margin → Margin) : (s.modMargin t f).security = s.security := rfl
@[simp] theorem modMargin_debug (s : State) (t : Nat) (f : Margin → Margin) : (s.modMargin t f).debug = s.debug := rfl
@[simp] theorem modMargin_token (s : State) (t : Nat) (f : Margin → Margin) : (s.modMargin t f).token = s.token := rfl
@[simp] theorem modMargin_debugOut (s : State) (t : Nat) (f : Margin → Margin) : (s.modMargin t f).debugOut = s.debugOut := rfl

@[simp] theorem modJob_inputs (s : State) (h : W64) (f : Job → Job) : (s.modJob h f).inputs = s.inputs := rfl
@[simp] theorem modJob_freeCount (s : State) (h : W64) (f : Job → Job) : (s.modJob h f).freeCount = s.freeCount := rfl
@[simp] theorem modJob_iss (s : State) (h : W64) (f : Job → Job) : (s.modJob h f).iss = s.iss := rfl
@[simp] theorem modJob_time (s : State) (h : W64) (f : Job → Job) : (s.modJob h f).time = s.time := rfl
@[simp] theorem modJob_mem (s : State) (h : W64) (f : Job → Job) : (s.modJob h f).mem = s.mem := rfl
@[simp] theorem modJob_poison (s : State) (h : W64) (f : Job → Job) : (s.modJob h f).poison = s.poison := rfl
@[simp] theorem modJob_flips (s : State) (h : W64) (f : Job → Job) : (s.modJob h f).flips = s.flips := rfl
@[simp] theorem modJob_tiles (s : State) (h : W64) (f : Job → Job) : (s.modJob h f).tiles = s.tiles := rfl
@[simp] theorem modJob_mesh (s : State) (h : W64) (f : Job → Job) : (s.modJob h f).mesh = s.mesh := rfl
@[simp] theorem modJob_gangs (s : State) (h : W64) (f : Job → Job) : (s.modJob h f).gangs = s.gangs := rfl
@[simp] theorem modJob_nextGang (s : State) (h : W64) (f : Job → Job) : (s.modJob h f).nextGang = s.nextGang := rfl
@[simp] theorem modJob_sigs (s : State) (h : W64) (f : Job → Job) : (s.modJob h f).sigs = s.sigs := rfl
@[simp] theorem modJob_portE (s : State) (h : W64) (f : Job → Job) : (s.modJob h f).portE = s.portE := rfl
@[simp] theorem modJob_hbm (s : State) (h : W64) (f : Job → Job) : (s.modJob h f).hbm = s.hbm := rfl
@[simp] theorem modJob_ports (s : State) (h : W64) (f : Job → Job) : (s.modJob h f).ports = s.ports := rfl
@[simp] theorem modJob_pkgId (s : State) (h : W64) (f : Job → Job) : (s.modJob h f).pkgId = s.pkgId := rfl
@[simp] theorem modJob_flitDrops (s : State) (h : W64) (f : Job → Job) : (s.modJob h f).flitDrops = s.flitDrops := rfl
@[simp] theorem modJob_linkAge (s : State) (h : W64) (f : Job → Job) : (s.modJob h f).linkAge = s.linkAge := rfl
@[simp] theorem modJob_ioVmin (s : State) (h : W64) (f : Job → Job) : (s.modJob h f).ioVmin = s.ioVmin := rfl
@[simp] theorem modJob_rails (s : State) (h : W64) (f : Job → Job) : (s.modJob h f).rails = s.rails := rfl
@[simp] theorem modJob_tnow (s : State) (h : W64) (f : Job → Job) : (s.modJob h f).tnow = s.tnow := rfl
@[simp] theorem modJob_tfc (s : State) (h : W64) (f : Job → Job) : (s.modJob h f).tfc = s.tfc := rfl
@[simp] theorem modJob_watts (s : State) (h : W64) (f : Job → Job) : (s.modJob h f).watts = s.watts := rfl
@[simp] theorem modJob_powThrot (s : State) (h : W64) (f : Job → Job) : (s.modJob h f).powThrot = s.powThrot := rfl
@[simp] theorem modJob_gated (s : State) (h : W64) (f : Job → Job) : (s.modJob h f).gated = s.gated := rfl
@[simp] theorem modJob_parts (s : State) (h : W64) (f : Job → Job) : (s.modJob h f).parts = s.parts := rfl
@[simp] theorem modJob_vfs (s : State) (h : W64) (f : Job → Job) : (s.modJob h f).vfs = s.vfs := rfl
@[simp] theorem modJob_msgs (s : State) (h : W64) (f : Job → Job) : (s.modJob h f).msgs = s.msgs := rfl
@[simp] theorem modJob_answers (s : State) (h : W64) (f : Job → Job) : (s.modJob h f).answers = s.answers := rfl
@[simp] theorem modJob_drops (s : State) (h : W64) (f : Job → Job) : (s.modJob h f).drops = s.drops := rfl
@[simp] theorem modJob_completions (s : State) (h : W64) (f : Job → Job) : (s.modJob h f).completions = s.completions := rfl
@[simp] theorem modJob_almRead (s : State) (h : W64) (f : Job → Job) : (s.modJob h f).almRead = s.almRead := rfl
@[simp] theorem modJob_owner (s : State) (h : W64) (f : Job → Job) : (s.modJob h f).owner = s.owner := rfl
@[simp] theorem modJob_offer (s : State) (h : W64) (f : Job → Job) : (s.modJob h f).offer = s.offer := rfl
@[simp] theorem modJob_drvfeat (s : State) (h : W64) (f : Job → Job) : (s.modJob h f).drvfeat = s.drvfeat := rfl
@[simp] theorem modJob_featLock (s : State) (h : W64) (f : Job → Job) : (s.modJob h f).featLock = s.featLock := rfl
@[simp] theorem modJob_startFail (s : State) (h : W64) (f : Job → Job) : (s.modJob h f).startFail = s.startFail := rfl
@[simp] theorem modJob_started (s : State) (h : W64) (f : Job → Job) : (s.modJob h f).started = s.started := rfl
@[simp] theorem modJob_startCode (s : State) (h : W64) (f : Job → Job) : (s.modJob h f).startCode = s.startCode := rfl
@[simp] theorem modJob_warm (s : State) (h : W64) (f : Job → Job) : (s.modJob h f).warm = s.warm := rfl
@[simp] theorem modJob_recov (s : State) (h : W64) (f : Job → Job) : (s.modJob h f).recov = s.recov := rfl
@[simp] theorem modJob_accepted (s : State) (h : W64) (f : Job → Job) : (s.modJob h f).accepted = s.accepted := rfl
@[simp] theorem modJob_hostUpload (s : State) (h : W64) (f : Job → Job) : (s.modJob h f).hostUpload = s.hostUpload := rfl
@[simp] theorem modJob_image (s : State) (h : W64) (f : Job → Job) : (s.modJob h f).image = s.image := rfl
@[simp] theorem modJob_fuseRsa (s : State) (h : W64) (f : Job → Job) : (s.modJob h f).fuseRsa = s.fuseRsa := rfl
@[simp] theorem modJob_fuseSlh (s : State) (h : W64) (f : Job → Job) : (s.modJob h f).fuseSlh = s.fuseSlh := rfl
@[simp] theorem modJob_keys (s : State) (h : W64) (f : Job → Job) : (s.modJob h f).keys = s.keys := rfl
@[simp] theorem modJob_keySlots (s : State) (h : W64) (f : Job → Job) : (s.modJob h f).keySlots = s.keySlots := rfl
@[simp] theorem modJob_fwRoot (s : State) (h : W64) (f : Job → Job) : (s.modJob h f).fwRoot = s.fwRoot := rfl
@[simp] theorem modJob_reached (s : State) (h : W64) (f : Job → Job) : (s.modJob h f).reached = s.reached := rfl
@[simp] theorem modJob_power (s : State) (h : W64) (f : Job → Job) : (s.modJob h f).power = s.power := rfl
@[simp] theorem modJob_security (s : State) (h : W64) (f : Job → Job) : (s.modJob h f).security = s.security := rfl
@[simp] theorem modJob_debug (s : State) (h : W64) (f : Job → Job) : (s.modJob h f).debug = s.debug := rfl
@[simp] theorem modJob_token (s : State) (h : W64) (f : Job → Job) : (s.modJob h f).token = s.token := rfl
@[simp] theorem modJob_debugOut (s : State) (h : W64) (f : Job → Job) : (s.modJob h f).debugOut = s.debugOut := rfl

@[simp] theorem modLink_inputs (s : State) (t a : Nat) (f : LCmd → LCmd) : (s.modLink t a f).inputs = s.inputs := rfl
@[simp] theorem modLink_freeCount (s : State) (t a : Nat) (f : LCmd → LCmd) : (s.modLink t a f).freeCount = s.freeCount := rfl
@[simp] theorem modLink_iss (s : State) (t a : Nat) (f : LCmd → LCmd) : (s.modLink t a f).iss = s.iss := rfl
@[simp] theorem modLink_time (s : State) (t a : Nat) (f : LCmd → LCmd) : (s.modLink t a f).time = s.time := rfl
@[simp] theorem modLink_mem (s : State) (t a : Nat) (f : LCmd → LCmd) : (s.modLink t a f).mem = s.mem := rfl
@[simp] theorem modLink_poison (s : State) (t a : Nat) (f : LCmd → LCmd) : (s.modLink t a f).poison = s.poison := rfl
@[simp] theorem modLink_flips (s : State) (t a : Nat) (f : LCmd → LCmd) : (s.modLink t a f).flips = s.flips := rfl
@[simp] theorem modLink_mesh (s : State) (t a : Nat) (f : LCmd → LCmd) : (s.modLink t a f).mesh = s.mesh := rfl
@[simp] theorem modLink_gangs (s : State) (t a : Nat) (f : LCmd → LCmd) : (s.modLink t a f).gangs = s.gangs := rfl
@[simp] theorem modLink_nextGang (s : State) (t a : Nat) (f : LCmd → LCmd) : (s.modLink t a f).nextGang = s.nextGang := rfl
@[simp] theorem modLink_dies (s : State) (t a : Nat) (f : LCmd → LCmd) : (s.modLink t a f).dies = s.dies := rfl
@[simp] theorem modLink_sigs (s : State) (t a : Nat) (f : LCmd → LCmd) : (s.modLink t a f).sigs = s.sigs := rfl
@[simp] theorem modLink_portE (s : State) (t a : Nat) (f : LCmd → LCmd) : (s.modLink t a f).portE = s.portE := rfl
@[simp] theorem modLink_hbm (s : State) (t a : Nat) (f : LCmd → LCmd) : (s.modLink t a f).hbm = s.hbm := rfl
@[simp] theorem modLink_ports (s : State) (t a : Nat) (f : LCmd → LCmd) : (s.modLink t a f).ports = s.ports := rfl
@[simp] theorem modLink_pkgId (s : State) (t a : Nat) (f : LCmd → LCmd) : (s.modLink t a f).pkgId = s.pkgId := rfl
@[simp] theorem modLink_flitDrops (s : State) (t a : Nat) (f : LCmd → LCmd) : (s.modLink t a f).flitDrops = s.flitDrops := rfl
@[simp] theorem modLink_linkAge (s : State) (t a : Nat) (f : LCmd → LCmd) : (s.modLink t a f).linkAge = s.linkAge := rfl
@[simp] theorem modLink_ioVmin (s : State) (t a : Nat) (f : LCmd → LCmd) : (s.modLink t a f).ioVmin = s.ioVmin := rfl
@[simp] theorem modLink_rails (s : State) (t a : Nat) (f : LCmd → LCmd) : (s.modLink t a f).rails = s.rails := rfl
@[simp] theorem modLink_tnow (s : State) (t a : Nat) (f : LCmd → LCmd) : (s.modLink t a f).tnow = s.tnow := rfl
@[simp] theorem modLink_tfc (s : State) (t a : Nat) (f : LCmd → LCmd) : (s.modLink t a f).tfc = s.tfc := rfl
@[simp] theorem modLink_watts (s : State) (t a : Nat) (f : LCmd → LCmd) : (s.modLink t a f).watts = s.watts := rfl
@[simp] theorem modLink_powThrot (s : State) (t a : Nat) (f : LCmd → LCmd) : (s.modLink t a f).powThrot = s.powThrot := rfl
@[simp] theorem modLink_gated (s : State) (t a : Nat) (f : LCmd → LCmd) : (s.modLink t a f).gated = s.gated := rfl
@[simp] theorem modLink_parts (s : State) (t a : Nat) (f : LCmd → LCmd) : (s.modLink t a f).parts = s.parts := rfl
@[simp] theorem modLink_vfs (s : State) (t a : Nat) (f : LCmd → LCmd) : (s.modLink t a f).vfs = s.vfs := rfl
@[simp] theorem modLink_msgs (s : State) (t a : Nat) (f : LCmd → LCmd) : (s.modLink t a f).msgs = s.msgs := rfl
@[simp] theorem modLink_answers (s : State) (t a : Nat) (f : LCmd → LCmd) : (s.modLink t a f).answers = s.answers := rfl
@[simp] theorem modLink_drops (s : State) (t a : Nat) (f : LCmd → LCmd) : (s.modLink t a f).drops = s.drops := rfl
@[simp] theorem modLink_completions (s : State) (t a : Nat) (f : LCmd → LCmd) : (s.modLink t a f).completions = s.completions := rfl
@[simp] theorem modLink_almRead (s : State) (t a : Nat) (f : LCmd → LCmd) : (s.modLink t a f).almRead = s.almRead := rfl
@[simp] theorem modLink_owner (s : State) (t a : Nat) (f : LCmd → LCmd) : (s.modLink t a f).owner = s.owner := rfl
@[simp] theorem modLink_offer (s : State) (t a : Nat) (f : LCmd → LCmd) : (s.modLink t a f).offer = s.offer := rfl
@[simp] theorem modLink_drvfeat (s : State) (t a : Nat) (f : LCmd → LCmd) : (s.modLink t a f).drvfeat = s.drvfeat := rfl
@[simp] theorem modLink_featLock (s : State) (t a : Nat) (f : LCmd → LCmd) : (s.modLink t a f).featLock = s.featLock := rfl
@[simp] theorem modLink_startFail (s : State) (t a : Nat) (f : LCmd → LCmd) : (s.modLink t a f).startFail = s.startFail := rfl
@[simp] theorem modLink_started (s : State) (t a : Nat) (f : LCmd → LCmd) : (s.modLink t a f).started = s.started := rfl
@[simp] theorem modLink_startCode (s : State) (t a : Nat) (f : LCmd → LCmd) : (s.modLink t a f).startCode = s.startCode := rfl
@[simp] theorem modLink_warm (s : State) (t a : Nat) (f : LCmd → LCmd) : (s.modLink t a f).warm = s.warm := rfl
@[simp] theorem modLink_recov (s : State) (t a : Nat) (f : LCmd → LCmd) : (s.modLink t a f).recov = s.recov := rfl
@[simp] theorem modLink_accepted (s : State) (t a : Nat) (f : LCmd → LCmd) : (s.modLink t a f).accepted = s.accepted := rfl
@[simp] theorem modLink_hostUpload (s : State) (t a : Nat) (f : LCmd → LCmd) : (s.modLink t a f).hostUpload = s.hostUpload := rfl
@[simp] theorem modLink_image (s : State) (t a : Nat) (f : LCmd → LCmd) : (s.modLink t a f).image = s.image := rfl
@[simp] theorem modLink_fuseRsa (s : State) (t a : Nat) (f : LCmd → LCmd) : (s.modLink t a f).fuseRsa = s.fuseRsa := rfl
@[simp] theorem modLink_fuseSlh (s : State) (t a : Nat) (f : LCmd → LCmd) : (s.modLink t a f).fuseSlh = s.fuseSlh := rfl
@[simp] theorem modLink_keys (s : State) (t a : Nat) (f : LCmd → LCmd) : (s.modLink t a f).keys = s.keys := rfl
@[simp] theorem modLink_keySlots (s : State) (t a : Nat) (f : LCmd → LCmd) : (s.modLink t a f).keySlots = s.keySlots := rfl
@[simp] theorem modLink_fwRoot (s : State) (t a : Nat) (f : LCmd → LCmd) : (s.modLink t a f).fwRoot = s.fwRoot := rfl
@[simp] theorem modLink_reached (s : State) (t a : Nat) (f : LCmd → LCmd) : (s.modLink t a f).reached = s.reached := rfl
@[simp] theorem modLink_power (s : State) (t a : Nat) (f : LCmd → LCmd) : (s.modLink t a f).power = s.power := rfl
@[simp] theorem modLink_security (s : State) (t a : Nat) (f : LCmd → LCmd) : (s.modLink t a f).security = s.security := rfl
@[simp] theorem modLink_debug (s : State) (t a : Nat) (f : LCmd → LCmd) : (s.modLink t a f).debug = s.debug := rfl
@[simp] theorem modLink_token (s : State) (t a : Nat) (f : LCmd → LCmd) : (s.modLink t a f).token = s.token := rfl
@[simp] theorem modLink_debugOut (s : State) (t a : Nat) (f : LCmd → LCmd) : (s.modLink t a f).debugOut = s.debugOut := rfl

@[simp] theorem wr_inputs (s : State) (k n x : Nat) : (s.wr k n x).inputs = s.inputs := rfl
@[simp] theorem wr_freeCount (s : State) (k n x : Nat) : (s.wr k n x).freeCount = s.freeCount := rfl
@[simp] theorem wr_iss (s : State) (k n x : Nat) : (s.wr k n x).iss = s.iss := rfl
@[simp] theorem wr_time (s : State) (k n x : Nat) : (s.wr k n x).time = s.time := rfl
@[simp] theorem wr_poison (s : State) (k n x : Nat) : (s.wr k n x).poison = s.poison := rfl
@[simp] theorem wr_flips (s : State) (k n x : Nat) : (s.wr k n x).flips = s.flips := rfl
@[simp] theorem wr_tiles (s : State) (k n x : Nat) : (s.wr k n x).tiles = s.tiles := rfl
@[simp] theorem wr_mesh (s : State) (k n x : Nat) : (s.wr k n x).mesh = s.mesh := rfl
@[simp] theorem wr_gangs (s : State) (k n x : Nat) : (s.wr k n x).gangs = s.gangs := rfl
@[simp] theorem wr_nextGang (s : State) (k n x : Nat) : (s.wr k n x).nextGang = s.nextGang := rfl
@[simp] theorem wr_dies (s : State) (k n x : Nat) : (s.wr k n x).dies = s.dies := rfl
@[simp] theorem wr_sigs (s : State) (k n x : Nat) : (s.wr k n x).sigs = s.sigs := rfl
@[simp] theorem wr_portE (s : State) (k n x : Nat) : (s.wr k n x).portE = s.portE := rfl
@[simp] theorem wr_hbm (s : State) (k n x : Nat) : (s.wr k n x).hbm = s.hbm := rfl
@[simp] theorem wr_ports (s : State) (k n x : Nat) : (s.wr k n x).ports = s.ports := rfl
@[simp] theorem wr_pkgId (s : State) (k n x : Nat) : (s.wr k n x).pkgId = s.pkgId := rfl
@[simp] theorem wr_flitDrops (s : State) (k n x : Nat) : (s.wr k n x).flitDrops = s.flitDrops := rfl
@[simp] theorem wr_linkAge (s : State) (k n x : Nat) : (s.wr k n x).linkAge = s.linkAge := rfl
@[simp] theorem wr_ioVmin (s : State) (k n x : Nat) : (s.wr k n x).ioVmin = s.ioVmin := rfl
@[simp] theorem wr_rails (s : State) (k n x : Nat) : (s.wr k n x).rails = s.rails := rfl
@[simp] theorem wr_tnow (s : State) (k n x : Nat) : (s.wr k n x).tnow = s.tnow := rfl
@[simp] theorem wr_tfc (s : State) (k n x : Nat) : (s.wr k n x).tfc = s.tfc := rfl
@[simp] theorem wr_watts (s : State) (k n x : Nat) : (s.wr k n x).watts = s.watts := rfl
@[simp] theorem wr_powThrot (s : State) (k n x : Nat) : (s.wr k n x).powThrot = s.powThrot := rfl
@[simp] theorem wr_gated (s : State) (k n x : Nat) : (s.wr k n x).gated = s.gated := rfl
@[simp] theorem wr_parts (s : State) (k n x : Nat) : (s.wr k n x).parts = s.parts := rfl
@[simp] theorem wr_vfs (s : State) (k n x : Nat) : (s.wr k n x).vfs = s.vfs := rfl
@[simp] theorem wr_msgs (s : State) (k n x : Nat) : (s.wr k n x).msgs = s.msgs := rfl
@[simp] theorem wr_answers (s : State) (k n x : Nat) : (s.wr k n x).answers = s.answers := rfl
@[simp] theorem wr_drops (s : State) (k n x : Nat) : (s.wr k n x).drops = s.drops := rfl
@[simp] theorem wr_completions (s : State) (k n x : Nat) : (s.wr k n x).completions = s.completions := rfl
@[simp] theorem wr_almRead (s : State) (k n x : Nat) : (s.wr k n x).almRead = s.almRead := rfl
@[simp] theorem wr_owner (s : State) (k n x : Nat) : (s.wr k n x).owner = s.owner := rfl
@[simp] theorem wr_offer (s : State) (k n x : Nat) : (s.wr k n x).offer = s.offer := rfl
@[simp] theorem wr_drvfeat (s : State) (k n x : Nat) : (s.wr k n x).drvfeat = s.drvfeat := rfl
@[simp] theorem wr_featLock (s : State) (k n x : Nat) : (s.wr k n x).featLock = s.featLock := rfl
@[simp] theorem wr_startFail (s : State) (k n x : Nat) : (s.wr k n x).startFail = s.startFail := rfl
@[simp] theorem wr_started (s : State) (k n x : Nat) : (s.wr k n x).started = s.started := rfl
@[simp] theorem wr_startCode (s : State) (k n x : Nat) : (s.wr k n x).startCode = s.startCode := rfl
@[simp] theorem wr_warm (s : State) (k n x : Nat) : (s.wr k n x).warm = s.warm := rfl
@[simp] theorem wr_recov (s : State) (k n x : Nat) : (s.wr k n x).recov = s.recov := rfl
@[simp] theorem wr_accepted (s : State) (k n x : Nat) : (s.wr k n x).accepted = s.accepted := rfl
@[simp] theorem wr_hostUpload (s : State) (k n x : Nat) : (s.wr k n x).hostUpload = s.hostUpload := rfl
@[simp] theorem wr_image (s : State) (k n x : Nat) : (s.wr k n x).image = s.image := rfl
@[simp] theorem wr_fuseRsa (s : State) (k n x : Nat) : (s.wr k n x).fuseRsa = s.fuseRsa := rfl
@[simp] theorem wr_fuseSlh (s : State) (k n x : Nat) : (s.wr k n x).fuseSlh = s.fuseSlh := rfl
@[simp] theorem wr_keys (s : State) (k n x : Nat) : (s.wr k n x).keys = s.keys := rfl
@[simp] theorem wr_keySlots (s : State) (k n x : Nat) : (s.wr k n x).keySlots = s.keySlots := rfl
@[simp] theorem wr_fwRoot (s : State) (k n x : Nat) : (s.wr k n x).fwRoot = s.fwRoot := rfl
@[simp] theorem wr_reached (s : State) (k n x : Nat) : (s.wr k n x).reached = s.reached := rfl
@[simp] theorem wr_power (s : State) (k n x : Nat) : (s.wr k n x).power = s.power := rfl
@[simp] theorem wr_security (s : State) (k n x : Nat) : (s.wr k n x).security = s.security := rfl
@[simp] theorem wr_debug (s : State) (k n x : Nat) : (s.wr k n x).debug = s.debug := rfl
@[simp] theorem wr_token (s : State) (k n x : Nat) : (s.wr k n x).token = s.token := rfl
@[simp] theorem wr_debugOut (s : State) (k n x : Nat) : (s.wr k n x).debugOut = s.debugOut := rfl

@[simp] theorem mark_inputs (s : State) (k : Nat) (p : Bool) : (s.mark k p).inputs = s.inputs := rfl
@[simp] theorem mark_freeCount (s : State) (k : Nat) (p : Bool) : (s.mark k p).freeCount = s.freeCount := rfl
@[simp] theorem mark_iss (s : State) (k : Nat) (p : Bool) : (s.mark k p).iss = s.iss := rfl
@[simp] theorem mark_time (s : State) (k : Nat) (p : Bool) : (s.mark k p).time = s.time := rfl
@[simp] theorem mark_mem (s : State) (k : Nat) (p : Bool) : (s.mark k p).mem = s.mem := rfl
@[simp] theorem mark_flips (s : State) (k : Nat) (p : Bool) : (s.mark k p).flips = s.flips := rfl
@[simp] theorem mark_tiles (s : State) (k : Nat) (p : Bool) : (s.mark k p).tiles = s.tiles := rfl
@[simp] theorem mark_mesh (s : State) (k : Nat) (p : Bool) : (s.mark k p).mesh = s.mesh := rfl
@[simp] theorem mark_gangs (s : State) (k : Nat) (p : Bool) : (s.mark k p).gangs = s.gangs := rfl
@[simp] theorem mark_nextGang (s : State) (k : Nat) (p : Bool) : (s.mark k p).nextGang = s.nextGang := rfl
@[simp] theorem mark_dies (s : State) (k : Nat) (p : Bool) : (s.mark k p).dies = s.dies := rfl
@[simp] theorem mark_sigs (s : State) (k : Nat) (p : Bool) : (s.mark k p).sigs = s.sigs := rfl
@[simp] theorem mark_portE (s : State) (k : Nat) (p : Bool) : (s.mark k p).portE = s.portE := rfl
@[simp] theorem mark_hbm (s : State) (k : Nat) (p : Bool) : (s.mark k p).hbm = s.hbm := rfl
@[simp] theorem mark_ports (s : State) (k : Nat) (p : Bool) : (s.mark k p).ports = s.ports := rfl
@[simp] theorem mark_pkgId (s : State) (k : Nat) (p : Bool) : (s.mark k p).pkgId = s.pkgId := rfl
@[simp] theorem mark_flitDrops (s : State) (k : Nat) (p : Bool) : (s.mark k p).flitDrops = s.flitDrops := rfl
@[simp] theorem mark_linkAge (s : State) (k : Nat) (p : Bool) : (s.mark k p).linkAge = s.linkAge := rfl
@[simp] theorem mark_ioVmin (s : State) (k : Nat) (p : Bool) : (s.mark k p).ioVmin = s.ioVmin := rfl
@[simp] theorem mark_rails (s : State) (k : Nat) (p : Bool) : (s.mark k p).rails = s.rails := rfl
@[simp] theorem mark_tnow (s : State) (k : Nat) (p : Bool) : (s.mark k p).tnow = s.tnow := rfl
@[simp] theorem mark_tfc (s : State) (k : Nat) (p : Bool) : (s.mark k p).tfc = s.tfc := rfl
@[simp] theorem mark_watts (s : State) (k : Nat) (p : Bool) : (s.mark k p).watts = s.watts := rfl
@[simp] theorem mark_powThrot (s : State) (k : Nat) (p : Bool) : (s.mark k p).powThrot = s.powThrot := rfl
@[simp] theorem mark_gated (s : State) (k : Nat) (p : Bool) : (s.mark k p).gated = s.gated := rfl
@[simp] theorem mark_parts (s : State) (k : Nat) (p : Bool) : (s.mark k p).parts = s.parts := rfl
@[simp] theorem mark_vfs (s : State) (k : Nat) (p : Bool) : (s.mark k p).vfs = s.vfs := rfl
@[simp] theorem mark_msgs (s : State) (k : Nat) (p : Bool) : (s.mark k p).msgs = s.msgs := rfl
@[simp] theorem mark_answers (s : State) (k : Nat) (p : Bool) : (s.mark k p).answers = s.answers := rfl
@[simp] theorem mark_drops (s : State) (k : Nat) (p : Bool) : (s.mark k p).drops = s.drops := rfl
@[simp] theorem mark_completions (s : State) (k : Nat) (p : Bool) : (s.mark k p).completions = s.completions := rfl
@[simp] theorem mark_almRead (s : State) (k : Nat) (p : Bool) : (s.mark k p).almRead = s.almRead := rfl
@[simp] theorem mark_owner (s : State) (k : Nat) (p : Bool) : (s.mark k p).owner = s.owner := rfl
@[simp] theorem mark_offer (s : State) (k : Nat) (p : Bool) : (s.mark k p).offer = s.offer := rfl
@[simp] theorem mark_drvfeat (s : State) (k : Nat) (p : Bool) : (s.mark k p).drvfeat = s.drvfeat := rfl
@[simp] theorem mark_featLock (s : State) (k : Nat) (p : Bool) : (s.mark k p).featLock = s.featLock := rfl
@[simp] theorem mark_startFail (s : State) (k : Nat) (p : Bool) : (s.mark k p).startFail = s.startFail := rfl
@[simp] theorem mark_started (s : State) (k : Nat) (p : Bool) : (s.mark k p).started = s.started := rfl
@[simp] theorem mark_startCode (s : State) (k : Nat) (p : Bool) : (s.mark k p).startCode = s.startCode := rfl
@[simp] theorem mark_warm (s : State) (k : Nat) (p : Bool) : (s.mark k p).warm = s.warm := rfl
@[simp] theorem mark_recov (s : State) (k : Nat) (p : Bool) : (s.mark k p).recov = s.recov := rfl
@[simp] theorem mark_accepted (s : State) (k : Nat) (p : Bool) : (s.mark k p).accepted = s.accepted := rfl
@[simp] theorem mark_hostUpload (s : State) (k : Nat) (p : Bool) : (s.mark k p).hostUpload = s.hostUpload := rfl
@[simp] theorem mark_image (s : State) (k : Nat) (p : Bool) : (s.mark k p).image = s.image := rfl
@[simp] theorem mark_fuseRsa (s : State) (k : Nat) (p : Bool) : (s.mark k p).fuseRsa = s.fuseRsa := rfl
@[simp] theorem mark_fuseSlh (s : State) (k : Nat) (p : Bool) : (s.mark k p).fuseSlh = s.fuseSlh := rfl
@[simp] theorem mark_keys (s : State) (k : Nat) (p : Bool) : (s.mark k p).keys = s.keys := rfl
@[simp] theorem mark_keySlots (s : State) (k : Nat) (p : Bool) : (s.mark k p).keySlots = s.keySlots := rfl
@[simp] theorem mark_fwRoot (s : State) (k : Nat) (p : Bool) : (s.mark k p).fwRoot = s.fwRoot := rfl
@[simp] theorem mark_reached (s : State) (k : Nat) (p : Bool) : (s.mark k p).reached = s.reached := rfl
@[simp] theorem mark_power (s : State) (k : Nat) (p : Bool) : (s.mark k p).power = s.power := rfl
@[simp] theorem mark_security (s : State) (k : Nat) (p : Bool) : (s.mark k p).security = s.security := rfl
@[simp] theorem mark_debug (s : State) (k : Nat) (p : Bool) : (s.mark k p).debug = s.debug := rfl
@[simp] theorem mark_token (s : State) (k : Nat) (p : Bool) : (s.mark k p).token = s.token := rfl
@[simp] theorem mark_debugOut (s : State) (k : Nat) (p : Bool) : (s.mark k p).debugOut = s.debugOut := rfl

@[simp] theorem heal_inputs (s : State) (k n : Nat) : (s.heal k n).inputs = s.inputs := rfl
@[simp] theorem heal_freeCount (s : State) (k n : Nat) : (s.heal k n).freeCount = s.freeCount := rfl
@[simp] theorem heal_iss (s : State) (k n : Nat) : (s.heal k n).iss = s.iss := rfl
@[simp] theorem heal_time (s : State) (k n : Nat) : (s.heal k n).time = s.time := rfl
@[simp] theorem heal_mem (s : State) (k n : Nat) : (s.heal k n).mem = s.mem := rfl
@[simp] theorem heal_poison (s : State) (k n : Nat) : (s.heal k n).poison = s.poison := rfl
@[simp] theorem heal_tiles (s : State) (k n : Nat) : (s.heal k n).tiles = s.tiles := rfl
@[simp] theorem heal_mesh (s : State) (k n : Nat) : (s.heal k n).mesh = s.mesh := rfl
@[simp] theorem heal_gangs (s : State) (k n : Nat) : (s.heal k n).gangs = s.gangs := rfl
@[simp] theorem heal_nextGang (s : State) (k n : Nat) : (s.heal k n).nextGang = s.nextGang := rfl
@[simp] theorem heal_dies (s : State) (k n : Nat) : (s.heal k n).dies = s.dies := rfl
@[simp] theorem heal_sigs (s : State) (k n : Nat) : (s.heal k n).sigs = s.sigs := rfl
@[simp] theorem heal_portE (s : State) (k n : Nat) : (s.heal k n).portE = s.portE := rfl
@[simp] theorem heal_hbm (s : State) (k n : Nat) : (s.heal k n).hbm = s.hbm := rfl
@[simp] theorem heal_ports (s : State) (k n : Nat) : (s.heal k n).ports = s.ports := rfl
@[simp] theorem heal_pkgId (s : State) (k n : Nat) : (s.heal k n).pkgId = s.pkgId := rfl
@[simp] theorem heal_flitDrops (s : State) (k n : Nat) : (s.heal k n).flitDrops = s.flitDrops := rfl
@[simp] theorem heal_linkAge (s : State) (k n : Nat) : (s.heal k n).linkAge = s.linkAge := rfl
@[simp] theorem heal_ioVmin (s : State) (k n : Nat) : (s.heal k n).ioVmin = s.ioVmin := rfl
@[simp] theorem heal_rails (s : State) (k n : Nat) : (s.heal k n).rails = s.rails := rfl
@[simp] theorem heal_tnow (s : State) (k n : Nat) : (s.heal k n).tnow = s.tnow := rfl
@[simp] theorem heal_tfc (s : State) (k n : Nat) : (s.heal k n).tfc = s.tfc := rfl
@[simp] theorem heal_watts (s : State) (k n : Nat) : (s.heal k n).watts = s.watts := rfl
@[simp] theorem heal_powThrot (s : State) (k n : Nat) : (s.heal k n).powThrot = s.powThrot := rfl
@[simp] theorem heal_gated (s : State) (k n : Nat) : (s.heal k n).gated = s.gated := rfl
@[simp] theorem heal_parts (s : State) (k n : Nat) : (s.heal k n).parts = s.parts := rfl
@[simp] theorem heal_vfs (s : State) (k n : Nat) : (s.heal k n).vfs = s.vfs := rfl
@[simp] theorem heal_msgs (s : State) (k n : Nat) : (s.heal k n).msgs = s.msgs := rfl
@[simp] theorem heal_answers (s : State) (k n : Nat) : (s.heal k n).answers = s.answers := rfl
@[simp] theorem heal_drops (s : State) (k n : Nat) : (s.heal k n).drops = s.drops := rfl
@[simp] theorem heal_completions (s : State) (k n : Nat) : (s.heal k n).completions = s.completions := rfl
@[simp] theorem heal_almRead (s : State) (k n : Nat) : (s.heal k n).almRead = s.almRead := rfl
@[simp] theorem heal_owner (s : State) (k n : Nat) : (s.heal k n).owner = s.owner := rfl
@[simp] theorem heal_offer (s : State) (k n : Nat) : (s.heal k n).offer = s.offer := rfl
@[simp] theorem heal_drvfeat (s : State) (k n : Nat) : (s.heal k n).drvfeat = s.drvfeat := rfl
@[simp] theorem heal_featLock (s : State) (k n : Nat) : (s.heal k n).featLock = s.featLock := rfl
@[simp] theorem heal_startFail (s : State) (k n : Nat) : (s.heal k n).startFail = s.startFail := rfl
@[simp] theorem heal_started (s : State) (k n : Nat) : (s.heal k n).started = s.started := rfl
@[simp] theorem heal_startCode (s : State) (k n : Nat) : (s.heal k n).startCode = s.startCode := rfl
@[simp] theorem heal_warm (s : State) (k n : Nat) : (s.heal k n).warm = s.warm := rfl
@[simp] theorem heal_recov (s : State) (k n : Nat) : (s.heal k n).recov = s.recov := rfl
@[simp] theorem heal_accepted (s : State) (k n : Nat) : (s.heal k n).accepted = s.accepted := rfl
@[simp] theorem heal_hostUpload (s : State) (k n : Nat) : (s.heal k n).hostUpload = s.hostUpload := rfl
@[simp] theorem heal_image (s : State) (k n : Nat) : (s.heal k n).image = s.image := rfl
@[simp] theorem heal_fuseRsa (s : State) (k n : Nat) : (s.heal k n).fuseRsa = s.fuseRsa := rfl
@[simp] theorem heal_fuseSlh (s : State) (k n : Nat) : (s.heal k n).fuseSlh = s.fuseSlh := rfl
@[simp] theorem heal_keys (s : State) (k n : Nat) : (s.heal k n).keys = s.keys := rfl
@[simp] theorem heal_keySlots (s : State) (k n : Nat) : (s.heal k n).keySlots = s.keySlots := rfl
@[simp] theorem heal_fwRoot (s : State) (k n : Nat) : (s.heal k n).fwRoot = s.fwRoot := rfl
@[simp] theorem heal_reached (s : State) (k n : Nat) : (s.heal k n).reached = s.reached := rfl
@[simp] theorem heal_power (s : State) (k n : Nat) : (s.heal k n).power = s.power := rfl
@[simp] theorem heal_security (s : State) (k n : Nat) : (s.heal k n).security = s.security := rfl
@[simp] theorem heal_debug (s : State) (k n : Nat) : (s.heal k n).debug = s.debug := rfl
@[simp] theorem heal_token (s : State) (k n : Nat) : (s.heal k n).token = s.token := rfl
@[simp] theorem heal_debugOut (s : State) (k n : Nat) : (s.heal k n).debugOut = s.debugOut := rfl

@[simp] theorem storeDws_inputs (s : State) (k n x m : Nat) : (s.storeDws k n x m).inputs = s.inputs := rfl
@[simp] theorem storeDws_freeCount (s : State) (k n x m : Nat) : (s.storeDws k n x m).freeCount = s.freeCount := rfl
@[simp] theorem storeDws_iss (s : State) (k n x m : Nat) : (s.storeDws k n x m).iss = s.iss := rfl
@[simp] theorem storeDws_time (s : State) (k n x m : Nat) : (s.storeDws k n x m).time = s.time := rfl
@[simp] theorem storeDws_tiles (s : State) (k n x m : Nat) : (s.storeDws k n x m).tiles = s.tiles := rfl
@[simp] theorem storeDws_mesh (s : State) (k n x m : Nat) : (s.storeDws k n x m).mesh = s.mesh := rfl
@[simp] theorem storeDws_gangs (s : State) (k n x m : Nat) : (s.storeDws k n x m).gangs = s.gangs := rfl
@[simp] theorem storeDws_nextGang (s : State) (k n x m : Nat) : (s.storeDws k n x m).nextGang = s.nextGang := rfl
@[simp] theorem storeDws_dies (s : State) (k n x m : Nat) : (s.storeDws k n x m).dies = s.dies := rfl
@[simp] theorem storeDws_sigs (s : State) (k n x m : Nat) : (s.storeDws k n x m).sigs = s.sigs := rfl
@[simp] theorem storeDws_portE (s : State) (k n x m : Nat) : (s.storeDws k n x m).portE = s.portE := rfl
@[simp] theorem storeDws_hbm (s : State) (k n x m : Nat) : (s.storeDws k n x m).hbm = s.hbm := rfl
@[simp] theorem storeDws_ports (s : State) (k n x m : Nat) : (s.storeDws k n x m).ports = s.ports := rfl
@[simp] theorem storeDws_pkgId (s : State) (k n x m : Nat) : (s.storeDws k n x m).pkgId = s.pkgId := rfl
@[simp] theorem storeDws_flitDrops (s : State) (k n x m : Nat) : (s.storeDws k n x m).flitDrops = s.flitDrops := rfl
@[simp] theorem storeDws_linkAge (s : State) (k n x m : Nat) : (s.storeDws k n x m).linkAge = s.linkAge := rfl
@[simp] theorem storeDws_ioVmin (s : State) (k n x m : Nat) : (s.storeDws k n x m).ioVmin = s.ioVmin := rfl
@[simp] theorem storeDws_rails (s : State) (k n x m : Nat) : (s.storeDws k n x m).rails = s.rails := rfl
@[simp] theorem storeDws_tnow (s : State) (k n x m : Nat) : (s.storeDws k n x m).tnow = s.tnow := rfl
@[simp] theorem storeDws_tfc (s : State) (k n x m : Nat) : (s.storeDws k n x m).tfc = s.tfc := rfl
@[simp] theorem storeDws_watts (s : State) (k n x m : Nat) : (s.storeDws k n x m).watts = s.watts := rfl
@[simp] theorem storeDws_powThrot (s : State) (k n x m : Nat) : (s.storeDws k n x m).powThrot = s.powThrot := rfl
@[simp] theorem storeDws_gated (s : State) (k n x m : Nat) : (s.storeDws k n x m).gated = s.gated := rfl
@[simp] theorem storeDws_parts (s : State) (k n x m : Nat) : (s.storeDws k n x m).parts = s.parts := rfl
@[simp] theorem storeDws_vfs (s : State) (k n x m : Nat) : (s.storeDws k n x m).vfs = s.vfs := rfl
@[simp] theorem storeDws_msgs (s : State) (k n x m : Nat) : (s.storeDws k n x m).msgs = s.msgs := rfl
@[simp] theorem storeDws_answers (s : State) (k n x m : Nat) : (s.storeDws k n x m).answers = s.answers := rfl
@[simp] theorem storeDws_drops (s : State) (k n x m : Nat) : (s.storeDws k n x m).drops = s.drops := rfl
@[simp] theorem storeDws_completions (s : State) (k n x m : Nat) : (s.storeDws k n x m).completions = s.completions := rfl
@[simp] theorem storeDws_almRead (s : State) (k n x m : Nat) : (s.storeDws k n x m).almRead = s.almRead := rfl
@[simp] theorem storeDws_owner (s : State) (k n x m : Nat) : (s.storeDws k n x m).owner = s.owner := rfl
@[simp] theorem storeDws_offer (s : State) (k n x m : Nat) : (s.storeDws k n x m).offer = s.offer := rfl
@[simp] theorem storeDws_drvfeat (s : State) (k n x m : Nat) : (s.storeDws k n x m).drvfeat = s.drvfeat := rfl
@[simp] theorem storeDws_featLock (s : State) (k n x m : Nat) : (s.storeDws k n x m).featLock = s.featLock := rfl
@[simp] theorem storeDws_startFail (s : State) (k n x m : Nat) : (s.storeDws k n x m).startFail = s.startFail := rfl
@[simp] theorem storeDws_started (s : State) (k n x m : Nat) : (s.storeDws k n x m).started = s.started := rfl
@[simp] theorem storeDws_startCode (s : State) (k n x m : Nat) : (s.storeDws k n x m).startCode = s.startCode := rfl
@[simp] theorem storeDws_warm (s : State) (k n x m : Nat) : (s.storeDws k n x m).warm = s.warm := rfl
@[simp] theorem storeDws_recov (s : State) (k n x m : Nat) : (s.storeDws k n x m).recov = s.recov := rfl
@[simp] theorem storeDws_accepted (s : State) (k n x m : Nat) : (s.storeDws k n x m).accepted = s.accepted := rfl
@[simp] theorem storeDws_hostUpload (s : State) (k n x m : Nat) : (s.storeDws k n x m).hostUpload = s.hostUpload := rfl
@[simp] theorem storeDws_image (s : State) (k n x m : Nat) : (s.storeDws k n x m).image = s.image := rfl
@[simp] theorem storeDws_fuseRsa (s : State) (k n x m : Nat) : (s.storeDws k n x m).fuseRsa = s.fuseRsa := rfl
@[simp] theorem storeDws_fuseSlh (s : State) (k n x m : Nat) : (s.storeDws k n x m).fuseSlh = s.fuseSlh := rfl
@[simp] theorem storeDws_keys (s : State) (k n x m : Nat) : (s.storeDws k n x m).keys = s.keys := rfl
@[simp] theorem storeDws_keySlots (s : State) (k n x m : Nat) : (s.storeDws k n x m).keySlots = s.keySlots := rfl
@[simp] theorem storeDws_fwRoot (s : State) (k n x m : Nat) : (s.storeDws k n x m).fwRoot = s.fwRoot := rfl
@[simp] theorem storeDws_reached (s : State) (k n x m : Nat) : (s.storeDws k n x m).reached = s.reached := rfl
@[simp] theorem storeDws_power (s : State) (k n x m : Nat) : (s.storeDws k n x m).power = s.power := rfl
@[simp] theorem storeDws_security (s : State) (k n x m : Nat) : (s.storeDws k n x m).security = s.security := rfl
@[simp] theorem storeDws_debug (s : State) (k n x m : Nat) : (s.storeDws k n x m).debug = s.debug := rfl
@[simp] theorem storeDws_token (s : State) (k n x m : Nat) : (s.storeDws k n x m).token = s.token := rfl
@[simp] theorem storeDws_debugOut (s : State) (k n x m : Nat) : (s.storeDws k n x m).debugOut = s.debugOut := rfl

/-! ## Tiles and contexts -/

/-- A tile after a tile was changed. -/
theorem tileAt_modTile (s : State) (t u : Nat) (f : Tile → Tile) :
    (s.modTile t f).tileAt u = if u = t ∧ u < s.tiles.length then f (s.tileAt u) else s.tileAt u := by
  simp only [State.tileAt, State.modTile, getD_updAt]

@[simp] theorem length_tiles_modTile (s : State) (t : Nat) (f : Tile → Tile) : (s.modTile t f).tiles.length = s.tiles.length := by
  simp [State.modTile]

@[simp] theorem length_tiles_modCtx (s : State) (t k : Nat) (f : Ctx → Ctx) : (s.modCtx t k f).tiles.length = s.tiles.length := by
  simp [State.modCtx]

/-- A tile after a context of a tile was changed. -/
theorem tileAt_modCtx (s : State) (t k u : Nat) (f : Ctx → Ctx) :
    (s.modCtx t k f).tileAt u =
      if u = t ∧ u < s.tiles.length then { s.tileAt u with ctx := updAt (fun o => o.map f) k (s.tileAt u).ctx } else s.tileAt u :=
  tileAt_modTile s t u _

/-- A context after a context was changed. -/
theorem ctx?_modCtx (s : State) (t k u j : Nat) (f : Ctx → Ctx) :
    (s.modCtx t k f).ctx? u j = if u = t ∧ j = k then (s.ctx? u j).map f else s.ctx? u j := by
  simp only [State.ctx?, tileAt_modCtx]
  by_cases h : u = t ∧ u < s.tiles.length
  · rw [if_pos h]
    simp only [getD_updAt]
    by_cases g : j = k
    · by_cases b : j < (s.tileAt u).ctx.length
      · rw [if_pos ⟨g, b⟩, if_pos ⟨h.1, g⟩]
      · have e : (s.tileAt u).ctx.getD j none = none := by
          simp [List.getD_eq_getElem?_getD, List.getElem?_eq_none (Nat.le_of_not_lt b)]
        simp only [e, b, and_false, Option.map_none, ite_self]
    · simp only [g, false_and, if_false, and_false]
  · rw [if_neg h]
    by_cases g : u = t ∧ j = k
    · have b : ¬ u < s.tiles.length := fun b => h ⟨g.1, b⟩
      have e : s.tileAt u = {} := by
        simp [State.tileAt, List.getD_eq_getElem?_getD, List.getElem?_eq_none (Nat.le_of_not_lt b)]
      have n : ({} : Tile).ctx.getD j none = none := by
        show (List.replicate 8 (none : Option Ctx)).getD j none = none
        rw [List.getD_eq_getElem?_getD, List.getElem?_replicate]
        split <;> rfl
      rw [if_pos g, e, n, Option.map_none]
    · rw [if_neg g]

/-- The context that was changed, if a task is resident there. -/
theorem ctxAt_modCtx_self (s : State) (t k : Nat) (f : Ctx → Ctx) (h : (s.ctx? t k).isSome = true) :
    (s.modCtx t k f).ctxAt t k = f (s.ctxAt t k) := by
  obtain ⟨c, hc⟩ := Option.isSome_iff_exists.mp h
  simp [State.ctxAt, ctx?_modCtx, hc]

/-- Another context than the one that was changed. -/
theorem ctxAt_modCtx_other (s : State) (t k u j : Nat) (f : Ctx → Ctx) (h : ¬ (u = t ∧ j = k)) :
    (s.modCtx t k f).ctxAt u j = s.ctxAt u j := by
  simp only [State.ctxAt, ctx?_modCtx, if_neg h]

/-- The context in issue after it was changed. -/
theorem cur_modCur (s : State) (f : Ctx → Ctx) (h : (s.ctx? s.iss.tile s.iss.slot).isSome = true) :
    (s.modCur f).cur = f s.cur :=
  ctxAt_modCtx_self s _ _ f h

@[simp] theorem cur_modIss_same (s : State) (f : Issue → Issue) (h : (f s.iss).tile = s.iss.tile) (g : (f s.iss).slot = s.iss.slot) :
    (s.modIss f).cur = s.cur := by
  simp [State.cur, State.modIss, State.ctxAt, State.ctx?, State.tileAt, h, g]

end Sys2Proof.Machine
end

