-- ==== Sys2Proof/Laws/Stores.lean ====
section
/-! SUPPORT. What the shared operations over memory and the injector do to the invariant of the memories (`State.inv`), and that reads
change nothing while no injector works on SRAM. A prover of a claim about every step cites these and unfolds none of the operations. -/

namespace Sys2Proof.Machine

/-- The invariant looks at the memories and the marks only. -/
theorem State.inv_congr {s u : State} (m : u.mem = s.mem) (p : u.poison = s.poison) (h : s.inv) : u.inv := by
  unfold State.inv; rw [m, p]; exact h

theorem State.wr_inv {s : State} (k n x : Nat) (h : s.inv) : (s.wr k n x).inv := ⟨writeBlock_wf s.mem k n x h.1, h.2⟩

theorem State.mark_inv {s : State} (k : Nat) (p : Bool) (h : s.inv) : (s.mark k p).inv := ⟨h.1, setPoison_wf s.poison k p h.2⟩

theorem State.store_inv {s : State} (k n x : Nat) (p : Bool) (h : s.inv) : (s.store k n x p).inv := by
  unfold State.store
  split
  · exact State.mark_inv k p (State.wr_inv k n x h)
  · split
    · exact State.mark_inv k true (State.wr_inv k n x h)
    · exact State.wr_inv k n x h

theorem State.storeDws_inv {s : State} (k n x m : Nat) (h : s.inv) : (s.storeDws k n x m).inv :=
  ⟨writeBlock_wf s.mem k (8 * n) x h.1, setPoisonBits_wf s.poison k m n h.2⟩

theorem State.storeAll_inv (l : List (Nat × Nat × Nat)) : ∀ {s : State} (ps : List Bool), s.inv → (s.storeAll l ps).inv := by
  induction l with
  | nil => intro s ps h; exact h
  | cons a r ih =>
    intro s ps h
    obtain ⟨k, n, x⟩ := a
    exact ih ps.tail (State.store_inv k n x _ h)

theorem State.modTile_inv {s : State} (t : Nat) (f : Tile → Tile) (h : s.inv) : (s.modTile t f).inv := h

theorem State.modCtx_inv {s : State} (t k : Nat) (f : Ctx → Ctx) (h : s.inv) : (s.modCtx t k f).inv := h

theorem State.inject_inv {s : State} (t kind : Nat) (h : s.inv) : (s.inject t kind).2.inv := by
  unfold State.inject; split <;> exact h

theorem State.sramSpoil_inv {s : State} (t d : Nat) (h : s.inv) : (s.sramSpoil t d).inv := State.mark_inv _ _ h

theorem State.sramFind_inv {s : State} (t d : Nat) (h : s.inv) : (s.sramFind t d).2.inv := by
  unfold State.sramFind
  dsimp only
  split
  · exact h
  · split
    · exact State.sramSpoil_inv _ _ (State.wr_inv _ _ _ h)
    · exact h

theorem State.sramFinds_inv (l : List Nat) : ∀ {s : State}, s.inv → (s.sramFinds l).inv := by
  induction l with
  | nil => intro s h; exact h
  | cons d r ih =>
    intro s h
    unfold State.sramFinds
    split
    · exact ih h
    · exact ih (State.sramFind_inv _ _ h)

theorem State.injectC_inv (t : Nat) (l : List Nat) : ∀ {s : State}, s.inv → (s.injectC t l).inv := by
  induction l with
  | nil => intro s h; exact h
  | cons d r ih =>
    intro s h
    unfold State.injectC
    dsimp only
    split
    · exact ih (State.inject_inv t 1 h)
    · exact ih (State.inject_inv t 1 h)

theorem State.injectU_inv (t : Nat) (l : List Nat) : ∀ {s : State}, s.inv → (s.injectU t l).2.inv := by
  induction l with
  | nil => intro s h; exact h
  | cons d r ih =>
    intro s h
    unfold State.injectU
    dsimp only
    split
    · exact ih (State.sramSpoil_inv _ _ (State.inject_inv t 2 h))
    · exact ih (State.inject_inv t 2 h)

theorem State.sramInjects_inv (ds l : List Nat) : ∀ {s : State}, s.inv → (s.sramInjects ds l).2.inv := by
  induction l with
  | nil => intro s h; exact h
  | cons t r ih => intro s h; exact ih (State.injectU_inv t _ (State.injectC_inv t _ h))

theorem State.flipAll_inv (l : List (Nat × Nat)) :
    ∀ {s : State}, s.inv → (l.foldl (fun s y => s.wr (8 * y.1) 8 (s.rd (8 * y.1) 8 ^^^ y.2)) s).inv := by
  induction l with
  | nil => intro s h; exact h
  | cons y r ih => intro s h; exact ih (State.wr_inv _ _ _ h)

/-- Reads of SRAM keep the invariant, in the memory as they find it and in the one that they leave. -/
theorem State.sramDws_inv {s : State} (l : List Nat) (h : s.inv) : (s.sramDws l).1.inv ∧ (s.sramDws l).2.inv :=
  have g := State.sramInjects_inv (l.filter fun d => decide (2 ^ 40 ≤ 8 * d) && (dwHome d).2)
    ((l.filter fun d => decide (2 ^ 40 ≤ 8 * d) && (dwHome d).2).map fun d => (dwHome d).1).eraseDups (State.sramFinds_inv l h)
  ⟨State.flipAll_inv _ g, g⟩

theorem State.sramReads_inv {s : State} (l : List Nat) (h : s.inv) : (s.sramReads l).1.inv ∧ (s.sramReads l).2.inv := by
  unfold State.sramReads
  split
  · exact State.sramDws_inv l h
  · exact ⟨h, h⟩

/-- A quiet device meets no error in its reads of SRAM. -/
theorem State.sramWorks_quiet {s : State} (h : s.quiet = true) : s.sramWorks = false := by
  simp only [State.quiet, Bool.and_eq_true, List.all_eq_true, Bool.or_eq_true, beq_iff_eq, Bool.not_eq_true'] at h
  simp only [State.sramWorks, h.1, Bool.not_true, Bool.false_or, List.any_eq_false, Bool.and_eq_true, bne_iff_ne, not_and,
    Bool.not_eq_true]
  intro d hd h1
  exact (h.2 d hd).resolve_left h1

/-- Reads of SRAM change nothing while no error stands in it and no injector works on it. -/
theorem State.sramReads_quiet {s : State} (l : List Nat) (h : s.quiet = true) : s.sramReads l = (s, s) := by
  simp [State.sramReads, State.sramWorks_quiet h]

/-- Doublewords taken as they stand change nothing. -/
@[simp] theorem State.takeRead_self (s : State) (l : List Nat) : s.takeRead s l = s := by
  induction l with
  | nil => rfl
  | cons d r ih => simp [State.takeRead, ih]

theorem State.takeRead_inv {v : State} (l : List Nat) : ∀ {s : State}, s.inv → (s.takeRead v l).inv := by
  induction l with
  | nil => intro s h; exact h
  | cons d r ih =>
    intro s h
    unfold State.takeRead
    split
    · exact ih h
    · exact ih (State.wr_inv _ _ _ h)

/-- An access applied at its home bank keeps the invariant. -/
theorem State.applyAs_inv {s v : State} (home : Nat) (a : MemAct) (h : s.inv) : (s.applyAs v home a).1.inv := by
  cases a with
  | write ps po => exact State.storeAll_inv ps po h
  | atomic op key x cmp ret =>
    cases op
    case fadd =>
      cases ret
      · exact State.modTile_inv _ _ (State.store_inv _ _ _ _ h)
      · exact State.store_inv _ _ _ _ h
    case cas =>
      show (if BitVec.ofNat 64 (v.rd key 8) = cmp.v then (s.store key 8 x.v.toNat _, (_ : MemRes)) else (s, _)).1.inv
      split
      · exact State.store_inv _ _ _ _ h
      · exact h
    all_goals exact State.store_inv _ _ _ _ h
  | binit key x => exact State.storeDws_inv _ _ _ _ h
  | barv key k gidx =>
    unfold State.applyAs
    dsimp only
    split
    · exact State.store_inv _ _ _ _ h
    · exact State.store_inv _ _ _ _ (State.store_inv _ _ _ _ h)
  | _ => exact h

theorem State.apply_inv {s : State} (home : Nat) (a : MemAct) (h : s.inv) : (s.apply home a).1.inv :=
  State.applyAs_inv home a (State.takeRead_inv _ (State.sramReads_inv a.reads h).2)

/-- An access of a word keeps the invariant, at its own tile and over the mesh. -/
theorem State.issueAct_inv {s : State} (l : Loc) (cls : BitVec 4) (a : MemAct) (dst : MemDst) (latch : Bool) (h : s.inv) :
    (s.issueAct l cls a dst latch).inv := by
  unfold State.issueAct
  split
  · exact h
  · exact State.apply_inv l.home a h

/-- A scalar load at the word's own tile while no injector works: the bytes and their mark reach the register and the latch, and no
memory changes. -/
theorem State.apply_load {s : State} (home key n : Nat) (sext : Bool) (q : s.quiet = true) :
    s.apply home (.load key n sext) =
      (s, .s { v := if sext then BitVec.ofInt 64 (signed (s.rd key n) (8 * n)) else BitVec.ofNat 64 (s.rd key n),
               p := s.poisoned key }) := by
  unfold State.apply
  rw [State.sramReads_quiet _ q]
  simp only [State.takeRead_self]
  rfl

/-- A write at its home bank while no injector works: its pieces are stored in order. -/
theorem State.apply_write {s : State} (home : Nat) (ps : List (Nat × Nat × Nat)) (po : List Bool) (q : s.quiet = true) :
    s.apply home (.write ps po) = (s.storeAll ps po, .none) := by
  unfold State.apply
  rw [State.sramReads_quiet _ q]
  simp only [State.takeRead_self]
  rfl

end Sys2Proof.Machine
end

