-- ==== Sys2Proof/Laws/Record.lean ====
section
/-! SUPPORT. The record an exception writes and the way back: what each part of it holds once it stands in memory. A claim about taking an exception
or returning from one cites these and unfolds no packing. -/

namespace Sys2Proof.Machine

/-- A field below a split point sees the low part only. -/
theorem slice_lo (A B o i n : Nat) (hA : A < 2^o) (h : i + n ≤ o) : (A + 2^o*B)/2^i % 2^n = A/2^i % 2^n := by
  rw [show o = i + (o - i) by omega, pow_add, mul_assoc, Nat.add_mul_div_left _ _ (Nat.two_pow_pos i),
    show o - i = n + (o - i - n) by omega, pow_add, mul_assoc, Nat.add_mul_mod_self_left]

/-- A field above a split point sees the high part only. -/
theorem slice_hi (A B o i : Nat) (hA : A < 2^o) : (A + 2^o*B)/2^(o+i) = B/2^i := by
  rw [pow_add, ← Nat.div_div_eq_div_mul, Nat.add_mul_div_left _ _ (Nat.two_pow_pos o), Nat.div_eq_of_lt hA, zero_add]

/-- One bit of a packed list of marks. -/
theorem bit_ofBools (l : List Bool) (i : Nat) : bit (ofBools l) i = l.getD i false := by
  induction l generalizing i with
  | nil => simp [ofBools, bit]
  | cons b r ih =>
    unfold bit ofBools
    cases i with
    | zero => cases b <;> simp [ofBool, Nat.add_mul_mod_self_left] 
    | succ i =>
      rw [pow_succ', ← Nat.div_div_eq_div_mul]
      have : (ofBool b + 2 * ofBools r) / 2 = ofBools r := by cases b <;> simp [ofBool] <;> omega
      rw [this]; exact ih i

/-- A packed list of marks fits its length. -/
theorem ofBools_lt (l : List Bool) : ofBools l < 2 ^ l.length := by
  induction l with
  | nil => simp [ofBools]
  | cons b r ih => simp only [ofBools, List.length_cons, pow_succ']; cases b <;> simp [ofBool] <;> omega

/-- The mark of an address after a run of marks is set. -/
theorem poisonAt_setPoisonBits_run (l : List Nat) (key x n j : Nat) :
    poisonAt (setPoisonBits l key x n) j = if key / 8 ≤ j / 8 ∧ j / 8 < key / 8 + n then bit x (j / 8 - key / 8) else poisonAt l j := by
  induction n with
  | zero => rw [if_neg (by omega)]; rfl
  | succ n ih =>
    simp only [setPoisonBits, poisonAt_setPoison, ih]
    by_cases e : j / 8 = (key + 8 * n) / 8
    · rw [if_pos e, if_pos (by omega), show j / 8 - key / 8 = n by omega]
    · rw [if_neg e]
      by_cases g : key / 8 ≤ j / 8 ∧ j / 8 < key / 8 + n
      · rw [if_pos g, if_pos (by omega)]
      · rw [if_neg g, if_neg (by omega)]

/-- A run of marks packed is the number they spell. -/
theorem poisonBits_eq (l : List Nat) (key x n : Nat) (h : ∀ j < n, poisonAt l (key + 8*j) = bit x j) : poisonBits l key n = x % 2^n := by
  induction n with
  | zero => simp [poisonBits, Nat.mod_one]
  | succ n ih =>
    rw [poisonBits, ih fun j hj => h j (by omega), h n (by omega)]
    unfold bit
    rw [Nat.mod_pow_succ]
    have := Nat.mod_two_eq_zero_or_one (x / 2^n)
    rcases this with g | g <;> simp [g]

/-- The lists of a record have the lengths the record gives them. -/
structure FrontFits (c : Ctx) (f : Front) : Prop where
  lat : c.lat.length = 8
  p : c.p.length = 8
  sc : f.snap.sc.length = 32

/-- The values of the front of a record, as nested parts. -/
theorem frontImage_nest (c : Ctx) (f : Front) : (frontImage c f).1 =
   ofElems 8 [headerDw0 c f.kind f.done f.npc.isSome f.nest, f.bpc.toNat, (f.npc.getD 0).toNat, f.cause.toNat,
    f.faddr.toNat, f.lmask.toNat, c.events.toNat, 0] + 2^2048 * (ofElems 8 (c.sImages.map (·.v.toNat)) + 2^2048 * (
      ofElems 32 (c.pImages.map (·.toNat)) + 2^2048 * (ofElems 8 (f.snap.sc.map (·.v.toNat)) + 2^2048 * (
      ofElems 256 ((c.lat.map fun l => (latImage l).1).map (·.v.toNat)) + 2^16384 * ofElems 256 (f.snap.vec.map (·.v.toNat)))))) := by
  unfold frontImage
  dsimp only
  generalize ofElems 8 [headerDw0 c f.kind f.done f.npc.isSome f.nest, f.bpc.toNat, (f.npc.getD 0).toNat, f.cause.toNat,
    f.faddr.toNat, f.lmask.toNat, c.events.toNat, 0] = A
  generalize ofElems 8 _ = B
  generalize ofElems 32 _ = C
  generalize ofElems 8 _ = D
  generalize ofElems 256 _ = E
  generalize ofElems 256 _ = F
  have e1 : 8 * 0x100 = 2048 := rfl
  have e2 : 8 * 0x200 = 2048 + 2048 := rfl
  have e3 : 8 * 0x300 = 2048 + (2048 + 2048) := rfl
  have e4 : 8 * 0x400 = 2048 + (2048 + (2048 + 2048)) := rfl
  have e5 : 8 * 0xC00 = 2048 + (2048 + (2048 + (2048 + 16384))) := rfl
  rw [e1, e2, e3, e4, e5]
  simp only [pow_add]
  generalize (2:Nat)^2048 = X
  generalize (2:Nat)^16384 = Y
  ring

/-- The marks of the front of a record, as nested parts. -/
theorem frontImage_marks (c : Ctx) (f : Front) : (frontImage c f).2 =
   0 + 2^32 * (ofBools (c.sImages.map (·.p)) + 2^64 * (ofBools (f.snap.sc.map (·.p)) + 2^32 * (ofElems 4 ((c.lat.map fun l => (latImage l).1).map (·.p.toNat)) + 2^256 *
     ofElems 4 (f.snap.vec.map (·.p.toNat))))) := by
  unfold frontImage
  dsimp only
  generalize ofBools _ = A
  generalize ofBools _ = B
  generalize ofElems 4 _ = C
  generalize ofElems 4 _ = D
  rw [show 384 = 32 + (64 + (32 + 256)) from rfl, show 128 = 32 + (64 + 32) from rfl, show 96 = 32 + 64 from rfl]
  simp only [pow_add]
  generalize (2:Nat)^32 = X
  generalize (2:Nat)^64 = Y
  generalize (2:Nat)^256 = Z
  ring

/-- One element of a packed list whose elements fit. -/
theorem elem_field (w : Nat) (l : List Nat) (i : Nat) (h : ∀ x ∈ l, x < 2^(8*w)) : ofElems w l / 2^(8*w*i) % 2^(8*w) = l.getD i 0 := by
  have := elem_ofElems w l i
  rw [elem_eq] at this; rw [this]
  by_cases g : i < l.length
  · rw [getD_at _ _ g]; exact Nat.mod_eq_of_lt (h _ (List.getElem_mem g))
  · rw [List.getD_eq_default _ _ (by omega)]; simp

/-- The same with the width in bits. -/
theorem elem_field_bits (w n : Nat) (l : List Nat) (i : Nat) (hn : 8*w = n) (h : ∀ x ∈ l, x < 2^n) : ofElems w l / 2^(n*i) % 2^n = l.getD i 0 := by
  subst hn; exact elem_field w l i h

/-- A packed list fits its length. -/
theorem ofElems_fits (l : List Nat) (w n : Nat) (h : 8*w*l.length ≤ n) : ofElems w l < 2^n :=
  lt_of_lt_of_le (ofElems_lt w l) (Nat.pow_le_pow_right (by norm_num) h)

/-- One doubleword of the header of a record. -/
theorem frontImage_header (c : Ctx) (f : Front) (i : Nat) (hi : i < 8) : (frontImage c f).1 / 2^(64*i) % 2^64 =
    [headerDw0 c f.kind f.done f.npc.isSome f.nest % 2^64, f.bpc.toNat, (f.npc.getD 0).toNat, f.cause.toNat,
    f.faddr.toNat, f.lmask.toNat, c.events.toNat, 0].getD i 0 := by
  rw [frontImage_nest, slice_lo _ _ _ _ _ (ofElems_fits _ _ _ (by norm_num)) (by omega)]
  have hh : ∀ (x : Nat) (r : List Nat), ofElems 8 (x :: r) = ofElems 8 (x % 2^64 :: r) := by
    intro x r; simp only [ofElems, show 8*8=64 from rfl, Nat.mod_mod]
  rw [hh]
  apply elem_field_bits 8 64 _ _ rfl
  intro x hx
  simp only [List.mem_cons, List.not_mem_nil, or_false] at hx
  rcases hx with h|h|h|h|h|h|h|h <;> rw [h]
  · exact Nat.mod_lt _ (by norm_num)
  iterate 5 exact BitVec.isLt _
  · exact lt_trans c.events.isLt (by norm_num)
  · norm_num

/-- One scalar register in the front of a record. -/
theorem frontImage_sreg (c : Ctx) (f : Front) (i : Nat) (hi : i < 32) : (frontImage c f).1 / 2^(2048 + 64*i) % 2^64 = (c.sreg i).v.toNat := by
  rw [frontImage_nest, slice_hi _ _ _ _ (ofElems_fits _ _ _ (by norm_num)), slice_lo _ _ _ _ _ (ofElems_fits _ _ _ (by simp [Ctx.sImages])) (by omega)]
  rw [elem_field_bits 8 64 _ _ rfl (by intro x hx; simp at hx; obtain ⟨a, -, rfl⟩ := hx; exact a.v.isLt)]
  rw [getD_at _ _ (by simp [Ctx.sImages, hi])]; simp [Ctx.sImages]

/-- One latch in the front of a record. -/
theorem frontImage_latch (c : Ctx) (f : Front) (H : FrontFits c f) (q : Nat) (hq : q < 8) : (frontImage c f).1 / 2^(8192 + 2048*q) % 2^2048 = (latImage (c.lat.getD q .empty)).1.v.toNat := by
  rw [frontImage_nest, show 8192 + 2048 * q = 2048 + (2048 + (2048 + (2048 + 2048 * q))) by ring, slice_hi _ _ _ _ (ofElems_fits _ _ _ (by norm_num)), 
     slice_hi _ _ _ _ (ofElems_fits _ _ _ (by simp [Ctx.sImages])), slice_hi _ _ _ _ (ofElems_fits _ _ _ (by simp [Ctx.pImages, H.p])),
     slice_hi _ _ _ _ (ofElems_fits _ _ _ (by simp [H.sc])), slice_lo _ _ _ _ _ (ofElems_fits _ _ _ (by simp [H.lat])) (by omega)]
  rw [elem_field_bits 256 2048 _ _ rfl (by intro x hx; simp at hx; obtain ⟨a, -, rfl⟩ := hx; exact (latImage a).1.v.isLt)]
  rw [getD_at _ _ (by simp [H.lat, hq]), getD_at _ _ (by simp [H.lat, hq])]; simp

/-- The mark of a scalar register in the front of a record. -/
theorem frontMarks_sreg (c : Ctx) (f : Front) (H : FrontFits c f) (i : Nat) (hi : i < 32) : bit (frontImage c f).2 (32 + i) = (c.sreg i).p := by
  have : bit (frontImage c f).2 (32 + i) = bit (ofBools (c.sImages.map (·.p))) i := by
    unfold bit
    rw [frontImage_marks, slice_hi _ _ _ _ (by norm_num)]
    have := slice_lo (ofBools (c.sImages.map (·.p))) (ofBools (f.snap.sc.map (·.p)) + 2^32 * (ofElems 4 ((c.lat.map fun l => (latImage l).1).map (·.p.toNat)) + 2^256 *
     ofElems 4 (f.snap.vec.map (·.p.toNat)))) 64 i 1 (lt_of_lt_of_le (ofBools_lt _) (Nat.pow_le_pow_right (by norm_num) (by simp [Ctx.sImages]))) (by omega)
    simp only [pow_one] at this; rw [this]
  rw [this, bit_ofBools, List.getD_eq_getElem _ _ (by simp [Ctx.sImages, hi])]; simp [Ctx.sImages]

/-- The marks of a latch in the front of a record. -/
theorem frontMarks_latch (c : Ctx) (f : Front) (H : FrontFits c f) (q : Nat) (hq : q < 8) (j : Nat) (hj : j < 32) : bit (frontImage c f).2 (128 + 32*q + j) = bit (latImage (c.lat.getD q .empty)).1.p.toNat j := by
  unfold bit
  rw [frontImage_marks, show 128 + 32 * q + j = 32 + (64 + (32 + (32*q+j))) by ring, slice_hi _ _ _ _ (by norm_num),
    slice_hi _ _ _ _ (lt_of_lt_of_le (ofBools_lt _) (Nat.pow_le_pow_right (by norm_num) (by simp [Ctx.sImages]))),
    slice_hi _ _ _ _ (lt_of_lt_of_le (ofBools_lt _) (Nat.pow_le_pow_right (by norm_num) (by simp [H.sc])))]
  have := slice_lo (ofElems 4 ((c.lat.map fun l => (latImage l).1).map (·.p.toNat))) (ofElems 4 (f.snap.vec.map (·.p.toNat))) 256 (32*q+j) 1
     (ofElems_fits _ _ _ (by simp [H.lat])) (by omega)
  simp only [pow_one] at this; rw [this]
  have := elem_field 4 ((c.lat.map fun l => (latImage l).1).map (·.p.toNat)) q (by intro x hx; simp at hx; obtain ⟨a, -, rfl⟩ := hx; exact (latImage a).1.p.isLt)
  have g : ((c.lat.map fun l => (latImage l).1).map (·.p.toNat)).getD q 0 = (latImage (c.lat.getD q .empty)).1.p.toNat := by
    rw [getD_at _ _ (by simp [H.lat, hq]), getD_at _ _ (by simp [H.lat, hq])]; simp
  rw [g] at this
  rw [← this, pow_add, ← Nat.div_div_eq_div_mul, show 8*4*q = 32*q by ring]
  congr 1
  generalize ofElems 4 _ / 2^(32*q) = Z
  rw [show 8*4 = j + 1 + (31 - j) by omega, pow_add, pow_succ]
  rw [mul_assoc, Nat.mod_mul_right_div_self, Nat.mod_mul_right_mod]

/-- The record a trap writes. -/
def trapFront (tr : Trap) (done : Nat) (npc : Option W64) (lmask : BitVec 64) (snap : Snap) (c : Ctx) : Front :=
  { kind := 1, done := done, npc := npc, cause := causeOf tr, faddr := tr.faddr, lmask := lmask, snap := snap, bpc := c.pc }

/-- The context found is the context read. -/
theorem ctxAt_of_some {s : State} {t slot c} (h : s.ctx? t slot = some c) : s.ctxAt t slot = c := by simp [State.ctxAt, h]

/-- A trap that its save area takes is one store of the record and one entry. -/
theorem takeTrap_eq {s : State} {t slot c} {tr : Trap} {done npc lmask snap} (h : s.ctx? t slot = some c) (hm : c.mode = false) (hk : saveAreaOk (s.tileAt t) slot c = true) :
    s.takeTrap t slot tr done npc lmask snap =
     (s.storeDws (proofKey t (s.tileAt t) c 0) 640 (frontImage c (trapFront tr done npc lmask snap c)).1 (frontImage c (trapFront tr done npc lmask snap c)).2).modCtx t slot fun c => c.enter tr := by
  unfold State.takeTrap State.writeFront
  simp only [ctxAt_of_some h, hm, hk, Bool.not_true, Bool.or_false, Bool.false_eq_true, if_false]
  rfl

/-- A read of the record a trap wrote. -/
theorem rd_takeTrap {s : State} {t slot c} {tr : Trap} {done npc lmask snap} (h : s.ctx? t slot = some c) (hm : c.mode = false) (hk : saveAreaOk (s.tileAt t) slot c = true)
    (k n : Nat) (hkn : k + n ≤ 5120) : (s.takeTrap t slot tr done npc lmask snap).rd (proofKey t (s.tileAt t) c 0 + k) n = (frontImage c (trapFront tr done npc lmask snap c)).1 / 2^(8*k) % 2^(8*n) := by
  rw [takeTrap_eq h hm hk]
  show readBlock (writeBlock s.mem _ (8*640) _) _ _ = _
  rw [readBlock_writeBlock _ _ _ _ _ _ (by omega) (by omega)]
  congr 3; omega

/-- A mark of the record a trap wrote. -/
theorem poisonAt_takeTrap {s : State} {t slot c} {tr : Trap} {done npc lmask snap} (h : s.ctx? t slot = some c) (hm : c.mode = false) (hk : saveAreaOk (s.tileAt t) slot c = true)
    (k : Nat) (hkn : k < 640) : poisonAt (s.takeTrap t slot tr done npc lmask snap).poison (proofKey t (s.tileAt t) c 0 + 8*k) = bit (frontImage c (trapFront tr done npc lmask snap c)).2 k := by
  rw [takeTrap_eq h hm hk]
  show poisonAt (setPoisonBits s.poison _ _ 640) _ = _
  rw [poisonAt_setPoisonBits_run, if_pos (by omega)]; congr 1; omega

/-- A context that is there stands on a tile that is there. -/
theorem tile_lt_of_ctx {s : State} {t slot c} (h : s.ctx? t slot = some c) : t < s.tiles.length := by
  by_contra g
  unfold State.ctx? State.tileAt at h
  rw [List.getD_eq_default s.tiles _ (by omega)] at h
  have : ∀ k, (({} : Tile).ctx).getD k none = none := by
    intro k; by_cases hk : k < 8
    · interval_cases k <;> rfl
    · rw [List.getD_eq_default]; rw [show (({} : Tile).ctx) = List.replicate 8 none from rfl, List.length_replicate]; omega
  rw [this] at h; exact absurd h (by simp)

/-- The first doubleword of a record, as nested fields. -/
theorem headerDw0_nest (c : Ctx) (kind done : Nat) (a b : Bool) : headerDw0 c kind done a b = kind + 2^8*(done%256 + 2^8*(ofBool c.chActive + 2^1*(c.gcount + 2^4*(c.gpred.toNat + 2^3*(c.gmask.toNat + 2^8*(ofBools (c.lat.map fun l => (latImage l).2.2) +
    2^8*(ofBools (c.lat.map fun l => (latImage l).2.1) + 2^9*(ofBool a + 2^1 * ofBool b)))))))) := by
  unfold headerDw0; ring

/-- A return from a trap through a record of its own kind, field by field. -/
theorem returnTrap_eq {s : State} {t slot c} (h : s.ctx? t slot = some c) (hk : saveAreaOk (s.tileAt t) slot c = true)
   (h1 : bits (s.rd (proofKey t (s.tileAt t) c 0) 8) 0 4 = 1) (h2 : c.epc.toNat = s.rd (proofKey t (s.tileAt t) c 0 + 8) 8) :
   (s.returnTrap t slot).ctx? t slot = some ({ s.loadLatches (proofKey t (s.tileAt t) c 0) { s.loadRegs (proofKey t (s.tileAt t) c 0) c with mode := c.pmode, pc := c.epc, afterXret := true } with
      resume := some (s.loadResume (proofKey t (s.tileAt t) c 0) c.known) }) := by
  unfold State.returnTrap State.returnFrom
  simp only [ctxAt_of_some h, hk, Bool.not_true, Bool.false_eq_true, if_false, h1, ne_eq, not_true_eq_false]
  show (State.modCtx s t slot _).ctx? t slot = _
  rw [ctx?_modCtx, if_pos ⟨rfl, rfl⟩, h]
  simp only [Option.map_some]
  congr 1
  rw [if_pos (by exact h2)]
  rfl

/-- A latch read back from its image is the latch. -/
theorem latOf_image (l : Latch) : latOf (latImage l).1 (latImage l).2.1 (latImage l).2.2 = l := by
  cases l with
  | empty => rfl
  | vector x => rfl
  | scalar x => 
    obtain ⟨v, p⟩ := x
    simp only [latImage, latOf, Bool.not_true, Bool.false_eq_true, if_false, if_true]
    congr 2
    · apply BitVec.eq_of_toNat_eq; simp
    · cases p <;> simp [bit]

/-- A bit below a cut survives the cut. -/
theorem bit_mod_two_pow (x n i : Nat) (h : i < n) : bit (x % 2^n) i = bit x i := by
  unfold bit
  rw [show n = i + (1 + (n - i - 1)) by omega, pow_add 2 i, Nat.mod_mul_right_div_self, pow_add 2 1, pow_one, Nat.mod_mul_right_mod]

end Sys2Proof.Machine
end

