-- ==== Sys2Proof/Laws/Results.lean ====
section
/-! SUPPORT. Results of words and their lanes, field by field: what writing a register and its latch does to the issuing context, what each lane of a
computed vector holds, and what a store or a descriptor read leaves alone. A claim about one word cites these. -/

namespace Sys2Proof.Machine

/-- A numeral read in two's complement is what BitVec reads. -/
theorem ofInt_signed (x n : Nat) (hn : 0 < n) : signed x n = (BitVec.ofNat n x).toInt := by
  unfold signed
  rw [BitVec.toInt_eq_msb_cond, BitVec.msb_eq_decide, BitVec.toNat_ofNat]
  have hp : 2 ^ n = 2 * 2 ^ (n - 1) := by rw [← Nat.pow_succ']; congr 1; omega
  have h1 : x / 2 ^ (n - 1) % 2 = 1 ↔ 2 ^ (n - 1) ≤ x % 2 ^ n := by
    rw [hp, Nat.mul_comm, Nat.mod_mul]
    have := Nat.mod_lt x (Nat.two_pow_pos (n-1))
    have := Nat.mod_two_eq_zero_or_one (x / 2 ^ (n - 1))
    rcases this with h | h <;> rw [h] <;> simp <;> omega
  simp only [h1, decide_eq_true_eq]

/-- Sign extension to 64 bits, as BitVec writes it. -/
theorem sext64_eq (x : W64) (n : Nat) (hn : 0 < n): sext64 x.toNat n = (x.setWidth n).signExtend 64 := by
  unfold sext64
  rw [ofInt_signed _ _ hn]
  rw [BitVec.signExtend]; congr 2; exact BitVec.eq_of_toNat_eq (by simp)

/-- Two updates of one place are one. -/
theorem updAt_updAt {α} (f g : α → α) (n : Nat) (l : List α) : updAt g n (updAt f n l) = updAt (g ∘ f) n l := by
  induction l generalizing n with
  | nil => cases n <;> rfl
  | cons a r ih => cases n <;> simp [updAt, ih]

/-- The empty update of a place. -/
theorem updAt_id {α} (n : Nat) (l : List α) : updAt id n l = l := by
  induction l generalizing n with
  | nil => cases n <;> rfl
  | cons a r ih => cases n <;> simp [updAt, ih]

/-- Two updates of the issuing context are one. -/
theorem State.modCur_modCur (s : State) (f g : Ctx → Ctx) : (s.modCur f).modCur g = s.modCur (g ∘ f) := by
  simp only [State.modCur, State.modCtx, State.modTile, updAt_updAt]
  congr 2
  funext x
  simp only [Function.comp, updAt_updAt]
  congr 2; funext o; cases o <;> rfl

/-- The empty update of the issuing context. -/
theorem State.modCur_id (s : State) : s.modCur id = s := by
  simp only [State.modCur, State.modCtx, State.modTile]
  have : (fun x : Tile => { x with ctx := updAt (fun o => Option.map id o) s.iss.slot x.ctx }) = id := by
    funext x
    have : (fun o : Option Ctx => Option.map id o) = id := by funext o; cases o <;> rfl
    rw [this, updAt_id]; rfl
  rw [this, updAt_id]

/-- A scalar result is one update of the issuing context: the register, then the latch. -/
theorem State.resS_eq (s : State) (i d w x) : s.resS i d w x = s.modCur fun c =>
    (match s.pipe i with | some k => (if w then c.setS d.toNat x else c).push k (.scalar x) | none => if w then c.setS d.toNat x else c) := by
  unfold State.resS
  have hp : ∀ f, (s.modCur f).pipe i = s.pipe i := fun f => rfl
  cases w
  · simp only [Bool.false_eq_true, if_false]
    cases s.pipe i with
    | none => exact (State.modCur_id s).symm
    | some k => rfl
  · simp only [if_true, hp]
    cases s.pipe i with
    | none => rfl
    | some k => exact State.modCur_modCur _ _ _

/-- An update of the issuing context leaves the rest of the machine as it was. -/
theorem sameBut_modCur (s : State) (f : Ctx → Ctx) : SameBut s.iss.tile s.iss.slot s (s.modCur f) := by
  refine ⟨rfl, rfl, rfl, rfl, rfl, rfl, rfl, rfl, rfl, rfl, rfl, rfl, fun k => ⟨fun h => ?_, fun j h => ?_⟩⟩
  · unfold State.modCur; rw [tileAt_modCtx, if_neg (by tauto)]
  · unfold State.modCur; rw [ctx?_modCtx, if_neg]; simpa [Prod.mk.injEq] using h

/-- Reading a list after one place is set. -/
theorem getD_listSet {α} (l : List α) (n k : Nat) (a d : α) : (l.set n a).getD k d = if k = n ∧ k < l.length then a else l.getD k d := by
  simp only [List.getD_eq_getElem?_getD, List.getElem?_set]
  by_cases h : n = k
  · subst h; by_cases g : n < l.length <;> simp [g]
  · simp [h, Ne.symm h]

/-- What writing a scalar register does to each field of the context. -/
theorem setS_fields (c : Ctx) (d : Nat) (x : SVal) : (c.setS d x).v = c.v ∧ (c.setS d x).p = c.p ∧ (c.setS d x).pc = c.pc ∧ (c.setS d x).fcsr = c.fcsr ∧ (c.setS d x).mode = c.mode ∧ (c.setS d x).epc = c.epc ∧ (c.setS d x).lc = c.lc ∧ (c.setS d x).lat = c.lat ∧ (c.setS d x).s = (if d = 0 then c.s else c.s.set d x) := by
  unfold Ctx.setS; split
  · simp
  · unfold Ctx.seePoison; cases x.p <;> simp

/-- A vector result is one update of the issuing context: the register, then the latch. -/
theorem State.resV_eq (s : State) (i d w x) : s.resV i d w x = s.modCur fun c =>
    (match s.pipe i with | some k => (if w then c.setVPhys (physV s.iss.pre.vrb d.toNat) x else c).push k (.vector x) | none => if w then c.setVPhys (physV s.iss.pre.vrb d.toNat) x else c) := by
  unfold State.resV
  have hp : ∀ f, (s.modCur f).pipe i = s.pipe i := fun f => rfl
  cases w
  · simp only [Bool.false_eq_true, if_false]
    cases s.pipe i with
    | none => exact (State.modCur_id s).symm
    | some k => rfl
  · simp only [if_true, hp]
    cases s.pipe i with
    | none => rfl
    | some k => exact State.modCur_modCur _ _ _

/-- What writing a vector register does to the other fields of the context. -/
theorem setVPhys_fields (c : Ctx) (d : Nat) (x : VVal) : (c.setVPhys d x).s = c.s ∧ (c.setVPhys d x).p = c.p ∧ (c.setVPhys d x).lat = c.lat ∧ (c.setVPhys d x).v = c.v.set d x := by
  unfold Ctx.setVPhys Ctx.seePoison; cases anyP x <;> simp

/-- A vector register number stays in the file under any bank. -/
theorem physV_lt (r) (n : Nat) (h : n < 32) : physV r n < 32 := by
  unfold physV; split <;> omega

/-- A bit as the library reads it. -/
theorem bit_testBit (a k : Nat) : bit a k = a.testBit k := by
  unfold bit; rw [Nat.testBit_eq_decide_div_mod_eq]; rfl

/-- A merged result has its lanes once the list of lanes is known place by place. -/
theorem lanesAre_of {mask : Pred} {step w n : Nat} {old : VVal} {l : List El} {op : Nat → Nat} {mark : Nat → Bool}
    (hl : l.length = n) (hw : n * w ≤ 256)
    (h : ∀ j < n, (l.getD j { v := 0 }).v % 2 ^ (8 * w) = op j % 2 ^ (8 * w) ∧ (l.getD j { v := 0 }).p = mark j) :
    LanesAre mask step w n old (mergeV mask step w old l) op mark := by
  subst hl
  obtain ⟨a, b, c⟩ := mergeV_lanes mask step w old l hw
  refine ⟨fun j hj => ?_, b, fun k hk => ?_⟩
  · rw [a j hj]; split
    · exact (h j hj).1
    · rfl
  · rw [c k hk]
    constructor
    · rintro ⟨j, hj, h1, h2⟩; refine ⟨j, hj, h1, ?_⟩; rw [← (h j hj).2]; exact h2
    · rintro ⟨j, hj, h1, h2⟩; refine ⟨j, hj, h1, ?_⟩; dsimp only; rw [(h j hj).2]; exact h2

/-- One lane of a source. -/
theorem elsOf_getD (x : VVal) (w j : Nat) (h : j < 256 / w) : (elsOf x w).getD j { v := 0 } = { v := elem x.v.toNat w j, p := chunkP x (j * w) } := by
  rw [getD_at _ _ (by rw [length_elsOf]; exact h), getElem_elsOf]

/-- One place of a mapped list. -/
theorem getD_map {α β : Type} (f : α → β) (l : List α) (j : Nat) (a : α) (b : β) (h : j < l.length) : (l.map f).getD j b = f (l.getD j a) := by
  rw [getD_at (l.map f) b (by simpa using h), getD_at l a h]; simp

/-- One place of two lists zipped. -/
theorem getD_zipWith {α β γ : Type} (f : α → β → γ) (l : List α) (m : List β) (j : Nat) (a b c) (h : j < l.length) (g : j < m.length) : (List.zipWith f l m).getD j c = f (l.getD j a) (m.getD j b) := by
  rw [getD_at (List.zipWith f l m) c (by simp; omega), getD_at l a h, getD_at m b g]; simp

/-- One lane of a one-source result. -/
theorem lanes1_getD (s i w op j) (h : j < 256 / w) : (lanes1 s i w op).getD j { v := 0 } = { v := op (elem (s.srcV i 0).v.toNat w j), p := chunkP (s.srcV i 0) (j * w) } := by
  unfold lanes1; rw [getD_map _ _ _ { v := 0 } _ (by rw [length_elsOf]; exact h), elsOf_getD _ _ _ h]

/-- One lane of a two-source result. -/
theorem lanes2_getD (s i w op j) (h : j < 256 / w) : (lanes2 s i w op).getD j { v := 0 } = { v := op (elem (s.srcV i 0).v.toNat w j) (elem (s.srcV i 1).v.toNat w j), p := chunkP (s.srcV i 0) (j * w) || chunkP (s.srcV i 1) (j * w) } := by
  unfold lanes2; rw [getD_zipWith _ _ _ _ { v := 0 } { v := 0 } _ (by rw [length_elsOf]; exact h) (by rw [length_elsOf]; exact h), elsOf_getD _ _ _ h, elsOf_getD _ _ _ h]

/-- One lane of a three-source result. -/
theorem lanes3_getD (s i w op j) (h : j < 256 / w) : (lanes3 s i w op).getD j { v := 0 } = { v := op (elem (s.srcV i 0).v.toNat w j) (elem (s.srcV i 1).v.toNat w j) (elem (s.srcV i 2).v.toNat w j), p := chunkP (s.srcV i 0) (j * w) || chunkP (s.srcV i 1) (j * w) || chunkP (s.srcV i 2) (j * w) } := by
  unfold lanes3
  rw [getD_zipWith _ _ _ _ ({ v := 0 }, { v := 0 }) { v := 0 } _ (by simp [length_elsOf]; exact h) (by rw [length_elsOf]; exact h), elsOf_getD _ _ _ h]
  have : ((elsOf (s.srcV i 0) w).zip (elsOf (s.srcV i 1) w)).getD j ({ v := 0 }, { v := 0 }) = ((elsOf (s.srcV i 0) w).getD j { v := 0 }, (elsOf (s.srcV i 1) w).getD j { v := 0 }) := by
    unfold List.zip; rw [getD_zipWith _ _ _ _ { v := 0 } { v := 0 } _ (by rw [length_elsOf]; exact h) (by rw [length_elsOf]; exact h)]
  rw [this, elsOf_getD _ _ _ h, elsOf_getD _ _ _ h]

/-- How many lanes a one-source result has. -/
theorem length_lanes1 (s i w op) : (lanes1 s i w op).length = 256 / w := by simp [lanes1, length_elsOf]

/-- How many lanes a two-source result has. -/
theorem length_lanes2 (s i w op) : (lanes2 s i w op).length = 256 / w := by simp [lanes2, length_elsOf]

/-- How many lanes a three-source result has. -/
theorem length_lanes3 (s i w op) : (lanes3 s i w op).length = 256 / w := by simp [lanes3, length_elsOf]

/-- Narrowing an integer, as the library writes it. -/
theorem narrow_eq (x : Int) (n : Nat) : narrow x n = (x % 2 ^ n).toNat := by unfold narrow; push_cast; rfl

/-- A bit of a word as the library reads it. -/
theorem bit_toNat (n : Nat) (a : BitVec n) (k : Nat) : bit a.toNat k = a.getLsbD k := by
  rw [← BitVec.testBit_toNat]; unfold bit; rw [Nat.testBit_eq_decide_div_mod_eq]; rfl

/-- What a store to a bank does to each part of the state. -/
theorem store_facts (s : State) (key n x : Nat) (p : Bool) :
    (s.store key n x p).mem = writeBlock s.mem key n x ∧
    (s.store key n x p).poison = (if n = 8 ∧ key % 8 = 0 then setPoison s.poison key p else if p then setPoison s.poison key true else s.poison) ∧
    (s.store key n x p).tiles = s.tiles ∧ (s.store key n x p).iss = s.iss ∧ (s.store key n x p).mesh = s.mesh ∧ (s.store key n x p).dies = s.dies ∧ (s.store key n x p).hbm = s.hbm ∧ (s.store key n x p).gangs = s.gangs := by
  unfold State.store; split
  · simp only [State.wr, State.mark, State.heal, and_self]
  · split <;> simp only [State.wr, State.mark, and_self]

/-- The injector leaves the open bundle alone. -/
theorem inject_iss (s : State) (t k) : (s.inject t k).2.iss = s.iss := by unfold State.inject; split <;> rfl

/-- An error found in a doubleword of SRAM leaves the open bundle alone. -/
theorem sramFind_iss (s : State) (t d : Nat) : (s.sramFind t d).2.iss = s.iss := by
  unfold State.sramFind
  dsimp only
  split
  · rfl
  · split <;> rfl

/-- The errors that stand in doublewords, found, leave the open bundle alone. -/
theorem sramFinds_iss (l : List Nat) : ∀ s : State, (s.sramFinds l).iss = s.iss := by
  induction l with
  | nil => intro s; rfl
  | cons d r ih =>
    intro s
    unfold State.sramFinds
    split
    · exact ih s
    · exact (ih _).trans (sramFind_iss s _ d)

/-- The injector's single-bit errors leave the open bundle alone. -/
theorem injectC_iss (t : Nat) (l : List Nat) : ∀ s : State, (s.injectC t l).iss = s.iss := by
  induction l with
  | nil => intro s; rfl
  | cons d r ih =>
    intro s
    unfold State.injectC
    dsimp only
    split
    · exact (ih _).trans (inject_iss s t 1)
    · exact (ih _).trans (inject_iss s t 1)

/-- The injector's uncorrectable errors leave the open bundle alone. -/
theorem injectU_iss (t : Nat) (l : List Nat) : ∀ s : State, (s.injectU t l).2.iss = s.iss := by
  induction l with
  | nil => intro s; rfl
  | cons d r ih =>
    intro s
    unfold State.injectU
    dsimp only
    split
    · exact (ih _).trans (inject_iss s t 2)
    · exact (ih _).trans (inject_iss s t 2)

/-- The injector's errors, tile after tile, leave the open bundle alone. -/
theorem sramInjects_iss (ds l : List Nat) : ∀ s : State, (s.sramInjects ds l).2.iss = s.iss := by
  induction l with
  | nil => intro s; rfl
  | cons t r ih => intro s; exact (ih _).trans ((injectU_iss t _ _).trans (injectC_iss t _ s))

/-- Reading doublewords of SRAM leaves the open bundle alone. -/
theorem sramDws_iss (l : List Nat) (s : State) : (s.sramDws l).2.iss = s.iss :=
  (sramInjects_iss _ _ _).trans (sramFinds_iss l s)

/-- Reading SRAM leaves the open bundle alone. -/
theorem sramReads_iss (s : State) (l : List Nat) : (s.sramReads l).2.iss = s.iss := by
  unfold State.sramReads; split
  · exact sramDws_iss l s
  · rfl

/-- Reading a descriptor leaves the open bundle alone. -/
theorem readDesc_iss {s : State} {a : SVal} {n : Nat} {b : Bool} {r} {o1} (h : readDesc s a n b = (r, o1)) : o1.iss = s.iss := by
  have : (readDesc s a n b).2.iss = s.iss := by
    unfold readDesc; split
    · rfl
    · dsimp only; split <;> exact sramReads_iss _ _
  rw [h] at this; exact this

end Sys2Proof.Machine
end

