-- ==== Sys2Proof/Laws/Rounding.lean ====
section
/-! SUPPORT. Rounding: what `roundAt` and `roundFin` give for a magnitude that is known exactly, or lies between two integers of units
(R112, R113), and that a pattern holds the value that it encodes (R98). -/

namespace Sys2Proof.Machine

/-- A magnitude in units of an exponent that is no higher. -/
theorem rescale_real (m : Nat) (e q : Int) (h : q ≤ e) : (rescale m e q : ℝ) * 2 ^ q = m * 2 ^ e := by
  unfold rescale; rw [if_pos h]; push_cast
  have : e = ((e - q).toNat : ℤ) + q := by omega
  rw [mul_assoc]; congr 1
  conv_rhs => rw [this, zpow_add₀ (by norm_num), zpow_natCast]

/-- Magnitudes are compared exactly. -/
theorem cmpMag_gt (m1 : Nat) (e1 : Int) (m2 : Nat) (e2 : Int) :
    (cmpMag m1 e1 m2 e2 == .gt) = true ↔ (m2 : ℝ) * 2 ^ e2 < m1 * 2 ^ e1 := by
  unfold cmpMag; dsimp only
  generalize hq : (if e1 < e2 then e1 else e2) = q
  have h1 : q ≤ e1 := by subst hq; split <;> omega
  have h2 : q ≤ e2 := by subst hq; split <;> omega
  rw [← rescale_real m1 e1 q h1, ← rescale_real m2 e2 q h2]
  rw [mul_lt_mul_iff_left₀ (by positivity), Nat.cast_lt, beq_iff_eq, Nat.compare_eq_gt]

/-- Magnitudes are compared exactly. -/
theorem cmpMag_lt (m1 : Nat) (e1 : Int) (m2 : Nat) (e2 : Int) :
    (cmpMag m1 e1 m2 e2 == .lt) = true ↔ (m1 : ℝ) * 2 ^ e1 < m2 * 2 ^ e2 := by
  unfold cmpMag; dsimp only
  generalize hq : (if e1 < e2 then e1 else e2) = q
  have h1 : q ≤ e1 := by subst hq; split <;> omega
  have h2 : q ≤ e2 := by subst hq; split <;> omega
  rw [← rescale_real m1 e1 q h1, ← rescale_real m2 e2 q h2]
  rw [mul_lt_mul_iff_left₀ (by positivity), Nat.cast_lt, beq_iff_eq, Nat.compare_eq_lt]

/-- The place of the leading bit of a magnitude between m · 2^e and (m + 1) · 2^e. -/
theorem log_between (m : Nat) (e : Int) (a : ℝ) (hm : m ≠ 0) (h1 : m * 2 ^ e ≤ a) (h2 : a < (m + 1) * 2 ^ e) :
    Int.log 2 a = e + m.log2 := by
  have hp : (0 : ℝ) < 2 ^ e := by positivity
  have ha : 0 < a := lt_of_lt_of_le (by positivity) h1
  apply le_antisymm
  · rw [← Int.lt_add_one_iff, ← Int.lt_zpow_iff_log_lt (by norm_num) ha]
    have : m + 1 ≤ 2 ^ (m.log2 + 1) := Nat.lt_log2_self
    refine lt_of_lt_of_le h2 ?_
    rw [show e + (m.log2 : ℤ) + 1 = ((m.log2 + 1 : ℕ) : ℤ) + e by push_cast; ring, zpow_add₀ (by norm_num), zpow_natCast]
    refine mul_le_mul_of_nonneg_right ?_ hp.le
    exact_mod_cast this
  · rw [← Int.zpow_le_iff_le_log (by norm_num) ha]
    refine le_trans ?_ h1
    rw [show e + (m.log2 : ℤ) = (m.log2 : ℤ) + e by ring, zpow_add₀ (by norm_num), zpow_natCast]
    refine mul_le_mul_of_nonneg_right ?_ hp.le
    exact_mod_cast Nat.log2_self_le hm

/-- What `roundAt` answers for a magnitude between m · 2^e and (m + 1) · 2^e. -/
theorem roundAt_units (rm : Nat) (neg : Bool) (m : Nat) (e q : Int) (sticky : Bool) (a : ℝ) (h1 : m * 2 ^ e ≤ a)
    (h2 : a < (m + 1) * 2 ^ e) (hs : sticky = true ↔ (m : ℝ) * 2 ^ e ≠ a) (hq : sticky = true → e < q) :
    ((roundAt rm neg m e sticky q).1 : ℕ) = roundUnits rm neg (a / 2 ^ q) ∧
    ((roundAt rm neg m e sticky q).2 = true ↔ roundMul rm neg a q ≠ a) := by
  have he : (0 : ℝ) < 2 ^ e := by positivity
  have hqp : (0 : ℝ) < 2 ^ q := by positivity
  have whole : ∀ k : ℕ, a / 2 ^ q = k → roundUnits rm neg (a / 2 ^ q) = k := by
    intro k hk; unfold roundUnits; rw [hk]; simp only [Nat.floor_natCast, sub_self]
    split <;> norm_num
  unfold roundAt
  split
  · rename_i hqe
    have hst : sticky = false := by cases sticky; rfl; exact absurd (hq rfl) (by omega)
    subst hst
    have ha : a = m * 2 ^ e := by by_contra h; exact absurd (hs.2 (fun h' => h h'.symm)) (by simp)
    have hk : a / 2 ^ q = ((m * 2 ^ (e - q).toNat : ℕ) : ℝ) := by
      rw [div_eq_iff hqp.ne', ha]; have := rescale_real m e q hqe; unfold rescale at this; rw [if_pos hqe] at this; exact this.symm
    have hw := whole _ hk
    refine ⟨hw.symm, ?_⟩
    dsimp only
    constructor
    · intro h; cases h
    · intro h; exfalso; apply h; unfold roundMul; rw [hw, ← hk, div_mul_cancel₀ _ hqp.ne']
  · rename_i hqe
    dsimp only
    generalize hd : (q - e).toNat = d
    have hqd : q = d + e := by omega
    have hd0 : 1 ≤ d := by omega
    obtain ⟨t, ht⟩ : ∃ t : ℝ, a = (m + t) * 2 ^ e := ⟨a / 2 ^ e - m, by field_simp; ring⟩
    have ht0 : 0 ≤ t := by rw [ht] at h1; have := le_of_mul_le_mul_right h1 he; linarith
    have ht1 : t < 1 := by rw [ht] at h2; have := lt_of_mul_lt_mul_right h2 he.le; linarith
    have hst : sticky = true ↔ t ≠ 0 := by
      rw [hs, ht]; constructor
      · intro h h0; apply h; rw [h0]; ring
      · intro h h0; apply h; have := mul_right_cancel₀ he.ne' h0; linarith
    have hu : a / 2 ^ q = (m + t) / 2 ^ d := by
      rw [ht, hqd, zpow_add₀ (by norm_num), zpow_natCast, div_eq_div_iff (by positivity) (by positivity)]; ring
    have hdp : (0 : ℝ) < 2 ^ d := by positivity
    have hdm := Nat.div_add_mod m (2 ^ d)
    generalize hk : m / 2 ^ d = k at *
    generalize hr : m % 2 ^ d = r at *
    have hr1 : r < 2 ^ d := by rw [← hr]; exact Nat.mod_lt _ (by positivity)
    have hmr : (m : ℝ) = 2 ^ d * k + r := by exact_mod_cast hdm.symm
    have hu2 : a / 2 ^ q = k + (r + t) / 2 ^ d := by rw [hu, hmr]; field_simp; ring
    have hrt : (r : ℝ) + t < 2 ^ d := by
      have : (r : ℝ) + 1 ≤ 2 ^ d := by exact_mod_cast hr1
      linarith
    have hf0 : 0 ≤ (r + t) / 2 ^ d := by positivity
    have hf1 : (r + t) / 2 ^ d < 1 := by rw [div_lt_one hdp]; exact hrt
    have hfl : ⌊a / 2 ^ q⌋₊ = k := by
      rw [Nat.floor_eq_iff (by rw [hu2]; positivity), hu2]; constructor <;> linarith
    have hin : (r != 0 || sticky) = true ↔ 0 < (r + t) / 2 ^ d := by
      simp only [Bool.or_eq_true, bne_iff_ne, hst]
      rw [div_pos_iff_of_pos_right hdp]
      constructor
      · rintro (h | h)
        · have : (0 : ℝ) < r := by exact_mod_cast Nat.pos_of_ne_zero h
          linarith
        · have : 0 < t := lt_of_le_of_ne ht0 (Ne.symm h)
          positivity
      · intro h; by_contra hc; push Not at hc; rw [hc.1, hc.2] at h; simp at h
    have hval : roundUnits rm neg (a / 2 ^ q) = if roundsUp rm neg (k % 2 == 1)
        (if 2 * r > 2 ^ d then .gt else if 2 * r < 2 ^ d then .lt else if sticky = true then .gt else .eq) (r != 0 || sticky) = true
        then k + 1 else k := by
      unfold roundUnits roundsUp; dsimp only; rw [hfl]
      have hfr : a / 2 ^ q - k = (r + t) / 2 ^ d := by rw [hu2]; ring
      rw [hfr]
      match rm with
      | 0 =>
        have e1 : 1 / 2 < (r + t) / 2 ^ d ↔ 2 ^ d < 2 * (r + t) := by rw [lt_div_iff₀ hdp]; constructor <;> intro h <;> linarith
        have e2 : (r + t) / 2 ^ d = 1 / 2 ↔ 2 * (r + t) = 2 ^ d := by rw [div_eq_iff hdp.ne']; constructor <;> intro h <;> linarith
        show (if 1 / 2 < (r + t) / 2 ^ d ∨ ((r + t) / 2 ^ d = 1 / 2 ∧ k % 2 = 1) then k + 1 else k) = _
        simp only [e1, e2]
        have ev : 2 ^ d = 2 * 2 ^ (d - 1) := by rw [← pow_succ']; congr 1; omega
        rcases Nat.lt_trichotomy (2 * r) (2 ^ d) with h | h | h
        · have : 2 * (r + 1) ≤ 2 ^ d := by omega
          have hR : (2 : ℝ) * (r + 1) ≤ 2 ^ d := by exact_mod_cast this
          rw [if_neg, if_neg]
          · simp [h, Nat.not_lt.mpr h.le]
          · push Not; refine ⟨by linarith, fun h' => ?_⟩; linarith
        · have hR : (2 : ℝ) * r = 2 ^ d := by exact_mod_cast h
          by_cases ht' : t = 0
          · have hsf : sticky = false := by cases sticky; rfl; exact absurd ht' (hst.1 rfl)
            subst hsf
            have a1 : ¬ ((2 : ℝ) ^ d < 2 * (r + t)) := by rw [ht']; linarith
            have a2 : (2 : ℝ) * (r + t) = 2 ^ d := by rw [ht']; linarith
            simp [a2, h]
          · have hsf : sticky = true := hst.2 ht'
            have : 0 < t := lt_of_le_of_ne ht0 (Ne.symm ht')
            have a1 : (2 : ℝ) ^ d < 2 * (r + t) := by linarith
            simp [a1, h, hsf]
        · have hR : (2 : ℝ) ^ d < 2 * r := by exact_mod_cast h
          have a1 : (2 : ℝ) ^ d < 2 * (r + t) := by linarith
          simp [a1, h]
      | 1 => simp
      | 2 =>
        show (if 0 < (r + t) / 2 ^ d ∧ neg = false then k + 1 else k) = if (!neg && (r != 0 || sticky)) = true then k + 1 else k
        simp only [← hin]; cases neg <;> cases (r != 0 || sticky) <;> simp
      | n + 3 =>
        show (if 0 < (r + t) / 2 ^ d ∧ neg = true then k + 1 else k) = if (neg && (r != 0 || sticky)) = true then k + 1 else k
        simp only [← hin]; cases neg <;> cases (r != 0 || sticky) <;> simp
    refine ⟨hval.symm, ?_⟩
    rw [hin]
    constructor
    · intro h heq
      have : a / 2 ^ q = (roundUnits rm neg (a / 2 ^ q) : ℝ) := by rw [div_eq_iff hqp.ne']; exact heq.symm
      rw [hval, hu2] at this
      push_cast at this
      split at this <;> split at this <;> (try split at this) <;> (try split at this) <;> linarith
    · intro h; by_contra hc
      have hz : (r + t) / 2 ^ d = 0 := le_antisymm (not_lt.mp hc) hf0
      have hk' : a / 2 ^ q = (k : ℝ) := by rw [hu2, hz]; ring
      apply h; unfold roundMul; rw [whole _ hk', ← hk', div_mul_cancel₀ _ hqp.ne']

/-- The largest finite value of a format: its exponent field and its mantissa. -/
def FpFmt.Top (f : FpFmt) (E M : Nat) : Prop :=
  1 ≤ E ∧ E < 2 ^ f.e ∧ M < 2 ^ f.m ∧ f.decode f.max = .fin false (2 ^ f.m + M) ((E : Int) - f.bias - f.m) ∧
  (f.inf = true → E < 2 ^ f.e - 1) ∧ (f.inf = false → E < 2 ^ f.e - 1 ∨ M < 2 ^ f.m - 1)

/-- The largest finite values of the five formats. -/
theorem top_of_mem (f : FpFmt) (hf : f ∈ [fp32, bf16, fp16, e4m3, e5m2]) : ∃ E M, f.Top E M := by
  simp only [List.mem_cons, List.not_mem_nil, or_false] at hf
  rcases hf with rfl | rfl | rfl | rfl | rfl
  · exact ⟨254, 2 ^ 23 - 1, by unfold FpFmt.Top; decide⟩
  · exact ⟨254, 127, by unfold FpFmt.Top; decide⟩
  · exact ⟨30, 1023, by unfold FpFmt.Top; decide⟩
  · exact ⟨15, 6, by unfold FpFmt.Top; decide⟩
  · exact ⟨30, 3, by unfold FpFmt.Top; decide⟩

/-- A pattern put together from its fields is read as they say. -/
theorem decode_fields (f : FpFmt) (E M : Nat) (ht : f.Top E M) (neg : Bool) (ex mant : Nat) (hm : mant < 2 ^ f.m)
    (hx : ex < E ∨ (ex = E ∧ mant ≤ M)) :
    f.decode (f.zero neg + ex * 2 ^ f.m + mant) =
      if ex = 0 then .fin neg mant f.qmin else .fin neg (2 ^ f.m + mant) ((ex : Int) - f.bias - f.m) := by
  obtain ⟨h1, h2, h3, h4, h5, h6⟩ := ht
  have hex : ex < 2 ^ f.e := by omega
  have hpm : 0 < 2 ^ f.m := by positivity
  have hlow : ex * 2 ^ f.m + mant < 2 ^ (f.e + f.m) := by
    rw [pow_add]
    have : (ex + 1) * 2 ^ f.m ≤ 2 ^ f.e * 2 ^ f.m := Nat.mul_le_mul_right _ hex
    nlinarith
  have hz : f.zero neg = (if neg then 1 else 0) * 2 ^ (f.e + f.m) := by unfold FpFmt.zero; cases neg <;> simp
  have b1 : bit (f.zero neg + ex * 2 ^ f.m + mant) (f.e + f.m) = neg := by
    unfold bit; rw [hz, Nat.add_assoc, Nat.add_comm, Nat.add_mul_div_right _ _ (by positivity), Nat.div_eq_of_lt hlow]
    cases neg <;> simp
  have b2 : bits (f.zero neg + ex * 2 ^ f.m + mant) f.m f.e = ex := by
    unfold bits
    rw [hz, show (if neg then 1 else 0) * 2 ^ (f.e + f.m) + ex * 2 ^ f.m + mant
      = mant + (ex + (if neg then 1 else 0) * 2 ^ f.e) * 2 ^ f.m by rw [pow_add]; ring]
    rw [Nat.add_mul_div_right _ _ hpm, Nat.div_eq_of_lt hm, Nat.zero_add, Nat.add_mul_mod_self_right, Nat.mod_eq_of_lt hex]
  have b3 : bits (f.zero neg + ex * 2 ^ f.m + mant) 0 f.m = mant := by
    unfold bits
    rw [hz, show (if neg then 1 else 0) * 2 ^ (f.e + f.m) + ex * 2 ^ f.m + mant
      = mant + (ex + (if neg then 1 else 0) * 2 ^ f.e) * 2 ^ f.m by rw [pow_add]; ring]
    rw [pow_zero, Nat.div_one, Nat.add_mul_mod_self_right, Nat.mod_eq_of_lt hm]
  unfold FpFmt.decode; dsimp only; rw [b1, b2, b3]
  rw [if_neg, if_neg]
  · by_cases h0 : ex = 0 <;> simp [h0]
  · simp only [Bool.and_eq_true, Bool.not_eq_true', beq_iff_eq, not_and]
    rintro ⟨hi, he⟩ hm'
    rcases h6 hi with h | h <;> omega
  · simp only [Bool.and_eq_true, beq_iff_eq, not_and]
    intro hi he
    have := h5 hi; omega

/-- A rounded value that is no larger than the largest finite one is held exactly by its pattern. -/
theorem decode_encode (f : FpFmt) (E M : Nat) (ht : f.Top E M) (neg : Bool) (k : Nat) (q : Int) (hq : f.qmin ≤ q)
    (hk : k ≤ 2 ^ (f.m + 1)) (hb : (k : ℝ) * 2 ^ q ≤ (f.decode f.max).real) :
    ∃ m e, f.decode (f.encode neg k q) = .fin neg m e ∧ (m : ℝ) * 2 ^ e = k * 2 ^ q := by
  have ht' := ht
  obtain ⟨h1, h2, h3, h4, h5, h6⟩ := ht
  have hs : (if neg then 2 ^ (f.e + f.m) else 0) = f.zero neg := rfl
  unfold FpFmt.encode; dsimp only; rw [hs]
  split
  · rename_i hk0
    have := decode_fields f E M ht' neg 0 0 (by positivity) (by omega)
    simp only [Nat.zero_mul, Nat.add_zero, if_true] at this
    exact ⟨0, f.qmin, this, by rw [hk0]; simp⟩
  · rename_i hk0
    have hl1 : 2 ^ k.log2 ≤ k := Nat.log2_self_le hk0
    have hl2 : k < 2 ^ (k.log2 + 1) := Nat.lt_log2_self
    generalize hl : k.log2 = l at *
    split
    · rename_i htop
      have hX : rescale k q f.qmin = k * 2 ^ (q - f.qmin).toNat := by unfold rescale; rw [if_pos hq]
      have hlt : rescale k q f.qmin < 2 ^ f.m := by
        rw [hX]
        have e1 : l + 1 + (q - f.qmin).toNat ≤ f.m := by
          unfold FpFmt.emin at htop; unfold FpFmt.qmin at hq ⊢; omega
        calc k * 2 ^ (q - f.qmin).toNat < 2 ^ (l + 1) * 2 ^ (q - f.qmin).toNat := Nat.mul_lt_mul_of_pos_right hl2 (by positivity)
          _ = 2 ^ (l + 1 + (q - f.qmin).toNat) := by rw [← pow_add]
          _ ≤ _ := Nat.pow_le_pow_right (by norm_num) e1
      have := decode_fields f E M ht' neg 0 _ hlt (by omega)
      simp only [Nat.zero_mul, Nat.add_zero, if_true] at this
      exact ⟨_, f.qmin, this, rescale_real k q f.qmin hq⟩
    · rename_i htop
      have hl3 : l ≤ f.m + 1 := by
        by_contra h; have : 2 ^ (f.m + 2) ≤ 2 ^ l := Nat.pow_le_pow_right (by norm_num) (by omega)
        have : 2 ^ (f.m + 2) = 2 * 2 ^ (f.m + 1) := by rw [← pow_succ']
        have : 0 < 2 ^ (f.m + 1) := by positivity
        omega
      generalize hX : rescale k q (q + l - f.m) = X
      have hXr : (X : ℝ) * 2 ^ (q + l - f.m) = k * 2 ^ q := by
        by_cases hc : q + l - f.m ≤ q
        · rw [← hX]; exact rescale_real _ _ _ hc
        · have hl4 : l = f.m + 1 := by omega
          have hk2 : k = 2 ^ (f.m + 1) := by rw [hl4] at hl1; omega
          rw [← hX]; unfold rescale; rw [if_neg hc, hl4, hk2]
          rw [show (q + ((f.m + 1 : ℕ) : ℤ) - f.m - q).toNat = 1 by push_cast; omega,
            show q + ((f.m + 1 : ℕ) : ℤ) - f.m = q + 1 by push_cast; ring, zpow_add₀ (by norm_num)]
          rw [show 2 ^ (f.m + 1) / 2 ^ 1 = 2 ^ f.m by rw [pow_succ]; simp]
          push_cast; rw [pow_succ]; simp; ring
      have hp : (0 : ℝ) < 2 ^ (q + l - f.m : ℤ) := by positivity
      have hX1 : 2 ^ f.m ≤ X := by
        have : (2 : ℝ) ^ f.m * 2 ^ (q + l - f.m : ℤ) ≤ X * 2 ^ (q + l - f.m : ℤ) := by
          rw [hXr, ← zpow_natCast, ← zpow_add₀ (by norm_num), show (f.m : ℤ) + (q + l - f.m) = l + q by ring,
            zpow_add₀ (by norm_num), zpow_natCast]
          refine mul_le_mul_of_nonneg_right ?_ (by positivity); exact_mod_cast hl1
        exact_mod_cast le_of_mul_le_mul_right this hp
      have hX2 : X < 2 ^ (f.m + 1) := by
        have : (X : ℝ) * 2 ^ (q + l - f.m : ℤ) < 2 ^ (f.m + 1) * 2 ^ (q + l - f.m : ℤ) := by
          rw [hXr, ← zpow_natCast, ← zpow_add₀ (by norm_num),
            show ((f.m + 1 : ℕ) : ℤ) + (q + l - f.m) = ((l + 1 : ℕ) : ℤ) + q by push_cast; ring,
            zpow_add₀ (by norm_num), zpow_natCast]
          refine mul_lt_mul_of_pos_right ?_ (by positivity); exact_mod_cast hl2
        exact_mod_cast lt_of_mul_lt_mul_right this hp.le
      have hex : ((q + l + f.bias).toNat : ℤ) = q + l + f.bias := by unfold FpFmt.emin at htop; omega
      have hex1 : 1 ≤ (q + l + f.bias).toNat := by unfold FpFmt.emin at htop; omega
      generalize (q + l + f.bias).toNat = ex at *
      have hrange : ex < E ∨ (ex = E ∧ X - 2 ^ f.m ≤ M) := by
        by_contra hc; push Not at hc
        rw [h4] at hb; unfold Fv.real at hb
        rw [← hXr] at hb
        simp only [Bool.false_eq_true, if_false, one_mul] at hb
        rcases Nat.lt_or_ge E ex with hE | hE
        · have g : (2 : ℝ) ^ (q + l - f.m : ℤ) ≥ 2 * 2 ^ ((E : ℤ) - f.bias - f.m) := by
            rw [show (2 : ℝ) * 2 ^ ((E : ℤ) - f.bias - f.m) = 2 ^ ((E : ℤ) - f.bias - f.m + 1) by rw [zpow_add₀ (by norm_num)]; ring]
            exact zpow_le_zpow_right₀ (by norm_num) (by omega)
          have g2 : (0 : ℝ) < 2 ^ ((E : ℤ) - f.bias - f.m) := by positivity
          have g3 : (2 : ℝ) ^ f.m ≤ X := by exact_mod_cast hX1
          have g4 : ((2 ^ f.m + M : ℕ) : ℝ) < 2 * 2 ^ f.m := by
            have : 2 ^ f.m + M < 2 * 2 ^ f.m := by omega
            exact_mod_cast this
          have : (X : ℝ) * (2 * 2 ^ ((E : ℤ) - f.bias - f.m)) ≤ ((2 ^ f.m + M : ℕ) : ℝ) * 2 ^ ((E : ℤ) - f.bias - f.m) :=
            le_trans (mul_le_mul_of_nonneg_left g (by positivity)) hb
          have : (X : ℝ) * 2 ≤ ((2 ^ f.m + M : ℕ) : ℝ) := by
            have h' : (X : ℝ) * 2 * 2 ^ ((E : ℤ) - f.bias - f.m) ≤ ((2 ^ f.m + M : ℕ) : ℝ) * 2 ^ ((E : ℤ) - f.bias - f.m) := by linarith
            exact le_of_mul_le_mul_right h' g2
          linarith
        · have hEe : ex = E := by omega
          have := hc.2 hEe
          rw [show q + (l : ℤ) - f.m = (E : ℤ) - f.bias - f.m by omega] at hb
          have h' : (X : ℝ) ≤ ((2 ^ f.m + M : ℕ) : ℝ) := le_of_mul_le_mul_right hb (by positivity)
          have : X ≤ 2 ^ f.m + M := by exact_mod_cast h'
          omega
      have hd := decode_fields f E M ht' neg ex (X - 2 ^ f.m) (by rw [pow_succ] at hX2; omega) hrange
      rw [if_neg (by omega)] at hd
      rw [show 2 ^ f.m + (X - 2 ^ f.m) = X by omega] at hd
      refine ⟨_, _, hd, ?_⟩
      rw [← hXr]; congr 2; omega

/-- Rounding goes no further than the next whole number of units. -/
theorem roundUnits_le (rm : Nat) (neg : Bool) (u : ℝ) (n : Nat) (h : u < n) (h0 : 0 ≤ u) : roundUnits rm neg u ≤ n := by
  have : ⌊u⌋₊ < n := (Nat.floor_lt h0).2 h
  unfold roundUnits; dsimp only
  split <;> (try split) <;> omega

/-- Rounding a magnitude that lies between m · 2^e and (m + 1) · 2^e (R112, R113): exact where `sticky` is false. -/
theorem roundFin_gives (f : FpFmt) (hf : f ∈ [fp32, bf16, fp16, e4m3, e5m2]) (rm : Nat) (hrm : rm < 4) (m : Nat) (e : Int)
    (sticky : Bool) (x : ℝ) (hm : m ≠ 0) (h1 : m * 2 ^ e ≤ |x|) (h2 : |x| < (m + 1) * 2 ^ e)
    (hs : sticky = true ↔ (m : ℝ) * 2 ^ e ≠ |x|) (hq : sticky = true → f.m < m.log2) :
    f.Gives rm x (roundFin f rm (decide (x < 0)) m e sticky) := by
  obtain ⟨E, M, ht⟩ := top_of_mem f hf
  have hlog := log_between m e |x| hm h1 h2
  have hx : x ≠ 0 := by
    intro h; rw [h] at h1; simp at h1
    have : (0 : ℝ) < m * 2 ^ e := by have := Nat.pos_of_ne_zero hm; positivity
    linarith
  have hqn : quantum m e (f.m + 1) none = Int.log 2 |x| - f.m := by unfold quantum; dsimp only; rw [hlog]; push_cast; ring
  have hqs : quantum m e (f.m + 1) (some f.qmin) = if Int.log 2 |x| - f.m < f.qmin then f.qmin else Int.log 2 |x| - f.m := by
    unfold quantum; dsimp only
    rw [show e + (m.log2 : ℤ) + 1 - ((f.m + 1 : ℕ) : ℤ) = Int.log 2 |x| - f.m by rw [hlog]; push_cast; ring]
  have hlt1 : sticky = true → e < Int.log 2 |x| - f.m := by intro h; have := hq h; rw [hlog]; omega
  unfold FpFmt.Gives; dsimp only
  unfold roundFin tiny; dsimp only
  rw [hqn, hqs]
  generalize hql : Int.log 2 |x| - (f.m : ℤ) = last at *
  generalize hqq : (if last < f.qmin then f.qmin else last) = q
  have hqge : f.qmin ≤ q ∧ last ≤ q := by subst hqq; split <;> omega
  obtain ⟨a1, a2⟩ := roundAt_units rm (decide (x < 0)) m e q sticky |x| h1 h2 hs (fun h => lt_of_lt_of_le (hlt1 h) hqge.2)
  obtain ⟨b1, b2⟩ := roundAt_units rm (decide (x < 0)) m e last sticky |x| h1 h2 hs hlt1
  generalize roundAt rm (decide (x < 0)) m e sticky q = r at *
  have hy : (r.1 : ℝ) * 2 ^ q = roundMul rm (decide (x < 0)) |x| q := by unfold roundMul; rw [a1]
  have hy' : ((roundAt rm (decide (x < 0)) m e sticky last).1 : ℝ) * 2 ^ last = roundMul rm (decide (x < 0)) |x| last := by
    unfold roundMul; rw [b1]
  have hreal : (f.decode f.max).real = ((2 ^ f.m + M : ℕ) : ℝ) * 2 ^ ((E : Int) - f.bias - f.m) := by rw [ht.2.2.2.1]; simp [Fv.real]
  have hgt : (cmpMag r.1 q (2 ^ f.m + M) ((E : Int) - f.bias - f.m) == .gt) = true ↔
      (f.decode f.max).real < roundMul rm (decide (x < 0)) |x| q := by rw [cmpMag_gt, hreal, hy]
  have hk : r.1 ≤ 2 ^ (f.m + 1) := by
    rw [a1]; apply roundUnits_le _ _ _ _ _ (by positivity)
    rw [div_lt_iff₀ (by positivity)]
    push_cast
    have : |x| < (2 : ℝ) ^ (Int.log 2 |x| + 1) := by
      have := Int.lt_zpow_succ_log_self (b := 2) (by norm_num) |x|; exact_mod_cast this
    refine lt_of_lt_of_le this ?_
    rw [← zpow_natCast, ← zpow_add₀ (by norm_num)]
    exact zpow_le_zpow_right₀ (by norm_num) (by push_cast; omega)
  have hsc : (f.decode f.max) = .fin false (2 ^ f.m + M) ((E : Int) - f.bias - f.m) := ht.2.2.2.1
  refine ⟨fun hbig => ?_, fun hle => ?_⟩
  · rw [hsc]; dsimp only; rw [if_pos (hgt.2 hbig)]
    unfold FpFmt.infinity FpFmt.zero
    by_cases hi : f.inf = true
    · by_cases hneg : x < 0
      · have : ¬ 0 < x := by linarith
        simp only [hi, hneg, this, decide_true]
        match rm, hrm with
        | 0, _ => simp
        | 1, _ => simp
        | 2, _ => simp
        | 3, _ => simp
      · have : 0 < x := lt_of_le_of_ne (not_lt.mp hneg) (Ne.symm hx)
        simp only [hi, hneg, this, decide_false]
        match rm, hrm with
        | 0, _ => simp
        | 1, _ => simp
        | 2, _ => simp
        | 3, _ => simp
    · simp [hi]
  · rw [hsc]; dsimp only; rw [if_neg (fun h => absurd (hgt.1 h) (not_lt.mpr hle))]
    refine ⟨?_, ?_⟩
    · rw [← hy]; exact decode_encode f E M ht _ _ _ hqge.1 hk (by rw [hy]; exact hle)
    · have htiny : (cmpMag (roundAt rm (decide (x < 0)) m e sticky last).1 last 1 f.emin == .lt) = true ↔
          roundMul rm (decide (x < 0)) |x| last < 2 ^ f.emin := by
        rw [cmpMag_lt, hy']; simp
      by_cases hne : roundMul rm (decide (x < 0)) |x| q = |x|
      · have : r.2 = false := by cases h : r.2; rfl; exact absurd hne (a2.1 h)
        simp [hne, this]
      · have hr : r.2 = true := a2.2 hne
        rw [if_neg hne, hr]
        by_cases htn : roundMul rm (decide (x < 0)) |x| last < 2 ^ f.emin
        · rw [if_pos htn]; simp [htiny.2 htn]
        · rw [if_neg htn]
          have : (cmpMag (roundAt rm (decide (x < 0)) m e sticky last).1 last 1 f.emin == .lt) = false := by
            cases h : (cmpMag (roundAt rm (decide (x < 0)) m e sticky last).1 last 1 f.emin == .lt); rfl; exact absurd (htiny.1 h) htn
          simp [this]

/-- The exact sum of two finite values is that of the real numbers that they are. -/
theorem addExact_real (n m e k l g) :
    ((addExact n m e k l g).1 : ℝ) * 2 ^ (addExact n m e k l g).2 = (Fv.fin n m e).real + (Fv.fin k l g).real := by
  unfold addExact; dsimp only
  generalize hq : (if e < g then e else g) = q
  have h1 : q ≤ e := by subst hq; split <;> omega
  have h2 : q ≤ g := by subst hq; split <;> omega
  have a1 := rescale_real m e q h1
  have a2 := rescale_real l g q h2
  cases n <;> cases k <;> simp [Fv.real] <;> rw [← a1, ← a2] <;> ring

/-- The integer square root. -/
theorem isqrt_spec : ∀ (n x : Nat), x < 4 ^ n → isqrt n x * isqrt n x ≤ x ∧ x < (isqrt n x + 1) * (isqrt n x + 1)
  | 0, x, h => by simp at h; subst h; simp [isqrt]
  | n + 1, x, h => by
    have ih := isqrt_spec n (x / 4) (by rw [pow_succ] at h; omega)
    unfold isqrt; dsimp only
    generalize isqrt n (x / 4) = r at *
    have h4 : x / 4 * 4 ≤ x := Nat.div_mul_le_self x 4
    have h5 : x < (x / 4 + 1) * 4 := by omega
    split
    · rename_i hc; refine ⟨hc, ?_⟩; nlinarith [ih.2]
    · rename_i hc; refine ⟨by nlinarith [ih.1], by omega⟩

end Sys2Proof.Machine
end

