-- ==== Sys2Proof/Laws/Words.lean ====
section
/-! SUPPORT. What running a word in its bundle answers, by what its meaning answers: the provers cite these and do not unfold
`runWord`. -/

namespace Sys2Proof.Machine

/-- A word always answers a next state. -/
theorem runWord_next (i : Instr) (eff : State → WordRes) (s : State) : ∃ t, runWord i eff s = .next t := by
  unfold runWord
  dsimp only
  repeat' split
  all_goals exact ⟨_, rfl⟩

/-- A word whose turn it is runs its meaning on the opened bundle. -/
theorem runWord_turn {i : Instr} {eff : State → WordRes} {s : State} (h : s.turn i = true) :
    runWord i eff s = match eff s.openBundle with
      | .hold => .next s
      | r => .next ((s.openBundle.record r).closeWord (s.openBundle.words i)) := by
  simp only [State.turn, Bool.and_eq_true, Bool.not_eq_true', Option.isNone_iff_eq_none, Bool.or_eq_true,
    decide_eq_true_eq] at h
  obtain ⟨⟨⟨⟨h1, h2⟩, h3⟩, h4⟩, h5⟩ := h
  have g : ((viewOf i).cls != 6 && !(viewOf i).lane && !s.openBundle.iss.pre.guardRuns) = false := by
    rcases h4 with (h4 | h4) | h4 <;> simp_all
  have e : (if (s.openBundle.iss.pre.resume.map (·.done)).getD 0 = 0 then issueCheck s.openBundle.iss.pre.lat i else none) =
      none := by
    split
    · rcases h5 with h5 | h5
      · contradiction
      · exact h5
    · rfl
  unfold runWord
  simp only [h1, h2, h3, g, e, Bool.false_eq_true, if_false]
  all_goals rfl

/-- A word whose meaning completes. -/
theorem runWord_ok {i : Instr} {eff : State → WordRes} {s u : State} (h : s.turn i = true)
    (e : eff s.openBundle = .ok u) : runWord i eff s = .next (s.openBundle.finish i u) := by
  rw [runWord_turn h, e]; rfl

/-- A word whose meaning traps. -/
theorem runWord_trap {i : Instr} {eff : State → WordRes} {s u : State} {c a : Nat} (h : s.turn i = true)
    (e : eff s.openBundle = .trap c a u) : runWord i eff s = .next (s.openBundle.fails i c a u) := by
  rw [runWord_turn h, e]; rfl

/-- A word whose meaning waits. -/
theorem runWord_wait {i : Instr} {eff : State → WordRes} {s u : State} {k : WaitKind} (h : s.turn i = true)
    (e : eff s.openBundle = .wait k u) : runWord i eff s = .next (s.openBundle.awaits i k u) := by
  rw [runWord_turn h, e]; rfl

/-- Opening a bundle does not change its words. -/
theorem openBundle_words (s : State) (i : Instr) : s.openBundle.words i = s.words i := by
  unfold State.openBundle
  dsimp only
  split <;> rfl

/-- A word that is not the last of its bundle hands on to the next one. -/
theorem closeWord_mid {s : State} {ws : List Instr} (h : s.iss.pos + 1 < ws.length) :
    s.closeWord ws = s.modIss fun x => { x with pos := x.pos + 1 } := by
  unfold State.closeWord; rw [if_pos h]

/-- The last word of its bundle ends it. -/
theorem closeWord_last {s : State} {ws : List Instr} (h : ¬ s.iss.pos + 1 < ws.length) : s.closeWord ws = s.finishBundle ws := by
  unfold State.closeWord; rw [if_neg h]

end Sys2Proof.Machine
end

