-- ==== Sys2Proof/Tests/Slice0.lean ====
section
/-! SUPPORT. The model's own tests, on small devices: what each check of the words refuses, what words written out from the encodings
decode to, one or two steps of each family with the results that the spec gives, and, for every statement with hypotheses, states and
operands that meet them (`meets_…`, one for every clause). -/

namespace Sys2Proof.Tests

set_option maxRecDepth 100000
set_option Elab.async false

open Sys2Proof Sys2Proof.Machine

/-! ## Small devices -/

/-- A scalar without a mark. -/
def sv (n : Nat) : SVal := { v := BitVec.ofNat 64 n }

/-- A poisoned scalar. -/
def bad (n : Nat) : SVal := { v := BitVec.ofNat 64 n, p := true }

/-- A list of `n` entries, `d` but where `l` says otherwise. -/
def fill {α : Type} (n : Nat) (d : α) (l : List (Nat × α)) : List α :=
  (List.range n).map fun k => ((l.find? fun e => e.1 == k).map (·.2)).getD d

/-- A context in user mode with some scalar registers. -/
def user (l : List (Nat × SVal)) : Ctx :=
  { s := fill 32 {} l, clim := 0x1000, tvec := 0x800, chvec := 0x400, proof := 0x10000, v32 := true, sems := List.range 32, gang := 1 }

/-- The same in supervisor mode. -/
def super (l : List (Nat × SVal)) : Ctx := { user l with mode := true }

/-- A tile with one context and four regions: two of its own, a read-only one, and one of slot 5. -/
def tileOf (c : Ctx) : Tile :=
  { ctx := [some c, none], partid := some 0,
    rmap := [0x8000000000000000, 0x8000000000000001, 0xC000000000000002, 0x8500000000000003, 0xA000000000000004] }

/-- A device of one tile. -/
def mini (c : Ctx) : State :=
  { started := true, tiles := [tileOf c], dies := [{}], hbm := [{}], ports := [{ state := 2, en := true }], parts := [some {}] }

/-- Word `i` has its turn, and `q` holds of the bundle that it opens. -/
def ready (s : State) (i : Instr) (q : State → Bool) : Bool := s.turn i && q s.openBundle

/-- What a step answers, if it answers a next state. -/
def after (o : Host.Outcome State Fault Refusal) : Option State :=
  match o with
  | .next t => some t
  | _ => none

/-- A scalar register of slot 0 after a word. -/
def sAfter (s : State) (i : Instr) (n : Nat) : Option SVal := (after (exec i s)).map fun t => (t.ctxAt 0 0).sreg n

/-- A scalar register of slot 0 after an SR word d3 = s1 op s2, and the value it reads there for W = 1. -/
def sr : FSr := { d := 3, w := true, a := 1, b := 2 }

/-- The same with one source. -/
def s1 : FS1 := { d := 3, w := true, a := 1 }

/-- The result of an SR word on two values. -/
def scal (i : Instr) (x y : Nat) : Option SVal := sAfter (mini (user [(1, sv x), (2, sv y), (3, sv 5)])) i 3

/-! ## The checks of the words (R36 to R44, R55, R58 to R61) -/

/-- R36, R37: W = 0 with a destination that is not zero. -/
theorem test_wf_dest : Instr.wf (.add { d := 3, w := false, a := 1, b := 2 }) = false ∧ Instr.wf (.add sr) = true := by decide

/-- R42, R44: a PBLK mask bit above N. -/
theorem test_wf_pblk : Instr.wf (.pblk { p := 1, n := 1, m := 4 }) = false ∧ Instr.wf (.pblk { p := 1, n := 1, m := 3 }) = true := by
  decide

/-- R42: 7 in a PMAP field. -/
theorem test_wf_pmap : Instr.wf (.pmap { a := 7, b := 0, c := 0, d := 0, e := 0, f := 0, g := 0, h := 0 }) = false := by decide

/-- R55: the reserved scope of FENCE. -/
theorem test_wf_fence : Instr.wf (.fence { s := 3, m := 1 }) = false ∧ Instr.wf (.fence { s := 2, m := 0 }) = true := by decide

/-- R55, R58: equal paths, a path above 4 and the reserved scope of XFENCE. -/
theorem test_wf_xfence : Instr.wf (.xfence { s := 0, a := 1, b := 1 }) = false ∧ Instr.wf (.xfence { s := 0, a := 5, b := 1 }) = false ∧
    Instr.wf (.xfence { s := 3, a := 0, b := 1 }) = false ∧ Instr.wf (.xfence { s := 0, a := 4, b := 0 }) = true := by decide

/-- R61: a port above 11. -/
theorem test_wf_port : Instr.wf (.lsend { a := 4, d := 3, p := 12 }) = false ∧ Instr.wf (.lsend { a := 4, d := 3, p := 11 }) = true := by
  decide

/-- R59: the element sizes that a row accepts. -/
theorem test_wf_size : Instr.wf (.vdot4 { e := 1, d := 1, w := true, a := 1, b := 2 }) = false ∧
    Instr.wf (.vmulw { e := 3, d := 2, w := true, a := 1, b := 2 }) = false ∧
    Instr.wf (.vrfadd { e := 3, d := 2, w := true, a := 1 }) = false := by decide

/-- R61: an update code of HUPD above 3. -/
theorem test_wf_hupd : Instr.wf (.hupd { a := 1, b := 2, i := 4 }) = false ∧ Instr.wf (.hupd { a := 1, b := 2, i := 3 }) = true := by decide

/-! ## Words written out from the encodings (R32, R36, R53 to R62) -/

/-- C and X words: class, op, and the fields of CC, CB and the X payloads. -/
theorem test_decode_control :
    decodeTableWord 32 0x01C4FFFD = some (.bnz { a := 4, i := 0xFFFD }) ∧ decodeTableWord 32 0x04400007 = some (.trap { i := 7 }) ∧
    decodeTableWord 32 0x03BFFFFC = some (.bloop { i := 0x3FFFFC }) ∧ decodeTableWord 32 0x62000010 = some (.limm { p := 0x10 }) := by
  decide +kernel

/-- S words. -/
theorem test_decode_scalar :
    decodeTableWord 32 0x1401C205 = some (.addi { d := 3, w := true, a := 2, i := 5 }) ∧
    decodeTableWord 32 0x10D44718 = some (.div { d := 8, w := true, a := 7, b := 6 }) ∧
    decodeTableWord 32 0x16014000 = some (.li { d := 2, w := true, i := 0 }) := by
  decide +kernel

/-- L words. -/
theorem test_decode_local :
    decodeTableWord 32 0x25129032 = some (.ldp { n := 2, w := true, d := 9, b := 0, z := 3, f := 2 }) ∧
    decodeTableWord 32 0x214A6243 = some (.ldw { o := 2, w := true, d := 6, b := 9, f := 3 }) ∧
    decodeTableWord 32 0x244090A4 = some (.stvs { o := 0, r := 9, b := 2, x := 0x24 }) ∧
    decodeTableWord 32 0x260EA084 = some (.aadd { o := 3, w := true, d := 10, b := 2, x := 4 }) ∧
    decodeTableWord 32 0x29BC0084 = some (.binit { o := 15, b := 2, x := 4 }) := by
  decide +kernel

/-- V words. -/
theorem test_decode_vector :
    decodeTableWord 32 0x3370E176 = some (.vaddi { e := 2, d := 3, w := true, a := 2, i := 0x3B }) ∧
    decodeTableWord 32 0x3450A20A = some (.vclt { e := 2, d := 2, w := true, a := 4, b := 5 }) ∧
    decodeTableWord 32 0x386068A2 = some (.vfma { e := 0, d := 1, w := true, a := 0x11, b := 0x11 }) ∧
    decodeTableWord 32 0x3761A080 = some (.vrfadd { e := 0, d := 6, w := true, a := 1 }) := by
  decide +kernel

/-- M and E words. -/
theorem test_decode_engines :
    decodeTableWord 32 0x40440000 = some (.mldtScalar { a := 4 }) ∧ decodeTableWord 32 0x40480001 = some (.mldtVector { a := 8 }) ∧
    decodeTableWord 32 0x4089000E = some (.mset { a := 9, n := 14 }) ∧ decodeTableWord 32 0x41851C00 = some (.mclr { a := 5, b := 7, z := 0 }) ∧
    decodeTableWord 32 0x504A0160 = some (.cpy { a := 10, d := 11, e := 0 }) ∧ decodeTableWord 32 0x54041403 = some (.sig { a := 4, b := 5, i := 3 }) ∧
    decodeTableWord 32 0x564000C0 = some (.hpop { d := 6 }) ∧ decodeTableWord 32 0x58C80060 = some (.jwait { a := 8, d := 3 }) ∧
    decodeTableWord 32 0x5C040000 = some (.tlbinv { a := 4, e := 0 }) := by
  decide +kernel

/-- Words that are reserved: an op, the all-zero word, a class. -/
theorem test_decode_reserved :
    decodeTableWord 32 0x14A00000 = none ∧ decodeTableWord 32 0 = none ∧ decodeTableWord 32 0x70000000 = none := by
  decide +kernel

/-! ## Scalar and control words -/

/-- A device whose context has a poisoned s9, s1 = 6, s2 = 3, s4 = 0x100, s5 negative and s6 misaligned. -/
def base : List (Nat × SVal) :=
  [(1, sv 6), (2, sv 3), (3, sv 5), (4, sv 0x100), (5, sv 0xFFFFFFFFFFFFFFFB), (6, sv 0x102), (9, bad 8), (31, sv 1)]

/-- The device of `base` in user mode. -/
def dev : State := mini (user base)

/-- The device of `base` in supervisor mode. -/
def devS : State := mini (super base)

/-- R83: the SR words. -/
def srWords (f : FSr) : List Instr :=
  [.add f, .sub f, .and f, .or f, .xor f, .andn f, .sll f, .srl f, .sra f, .mul f, .mulh f, .mulhu f, .div f, .divu f, .rem f, .remu f,
   .min f, .max f, .minu f, .maxu f, .slt f, .sltu f, .seq f, .sne f, .addw f, .subw f, .mulw f, .bfx f, .cmovz f, .cmovnz f, .bfi f]

/-- R83: the words with one source. -/
def s1Words (f : FS1) : List Instr := [.clz f, .ctz f, .popc f, .sextb f, .sexth f, .sextw f, .zextw f, .bswap f]

theorem meets_ScalarIntegerWords : ((srWords sr ++ s1Words s1).all fun i => dev.turn i) = true := by decide +kernel

/-- The SI words with an immediate. -/
def siWords (f : FSi) : List Instr :=
  [.addi f, .andi f, .ori f, .xori f, .slti f, .sltiu f, .muli f, .slli f, .srli f, .srai f]

theorem meets_ScalarImmediates :
    ((siWords { d := 3, w := true, a := 1, i := 63 } ++ [Instr.li { d := 3, w := true, i := 0x3FFF }, .lui { d := 3, w := true, i := 0x3FFF }]).all
      fun i => dev.turn i) = true ∧
    (viewOf (.addi { d := 3, w := true, a := 1, i := 255 })).imm = some (8, 255) ∧
    limmOf [.addi { d := 3, w := true, a := 1, i := 255 }] = none ∧
    limmOf [.limm { p := 0xFFFFFF }, .addi { d := 3, w := true, a := 1, i := 255 }] = some 0xFFFFFF := by
  decide +kernel

theorem meets_ScalarFloatWords :
    (([.fadd sr, .fsub sr, .fmul sr, .fdiv sr, .fma sr, .fmin sr, .fmax sr, .feq sr, .flt sr, .fle sr, .fsqrt s1, .fcvtif s1,
      .fcvtfi s1] : List Instr).all fun i => dev.turn i) = true := by
  decide +kernel

/-- Finite values whose sum is not zero, and is: 1, and 1 with -1; an infinity times an infinity. -/
theorem meets_FloatResults :
    (Fv.fin false 1 0).real + (Fv.fin false 1 0).real ≠ 0 ∧ (Fv.fin false 1 0).real + (Fv.fin true 1 0).real = 0 ∧
    (Fv.fin false 1 0).real * (Fv.fin false 1 0).real + (Fv.fin false 1 0).real ≠ 0 ∧
    (Fv.fin false 1 0).real * (Fv.fin false 1 0).real + (Fv.fin true 1 0).real = 0 ∧
    mulExact (.inf true) (.inf true) = (.inf false, 0) ∧ mulExact (.fin false 1 0) (.fin true 1 0) = (.fin true 1 0, 0) ∧
    (Fv.nan true).isNan = true ∧ (Fv.inf true).isNan = false := by
  refine ⟨?_, ?_, ?_, ?_, by decide, by decide, by decide, by decide⟩ <;> norm_num [Fv.real]

/-- With a word of pipe S, with and without W, with d = 0, and with a word of no pipe. -/
theorem meets_ScalarResults :
    (dev.ctx? dev.iss.tile dev.iss.slot).isSome = true ∧ dev.cur.s.length = 32 ∧ dev.cur.lat.length = 8 ∧
    dev.pipe (.add sr) = some 0 ∧ dev.pipe (.hsum { d := 3 }) ≠ some 0 := by
  decide +kernel

theorem meets_CsrWords :
    (dev.ctx? dev.iss.tile dev.iss.slot).isSome = true ∧
    (([.csrr { d := 3, w := true, x := 0 }] : List Instr).all fun i => dev.turn i) = true ∧
    (([.scsrr { d := 3, w := true, x := 1 }] : List Instr).all fun i => devS.turn i) = true ∧
    (([.csrw { d := 3, w := true, a := 1, x := 0 }, .csrs { d := 3, w := true, a := 1, x := 0 }, .csrc { d := 3, w := true, a := 1, x := 0 }] :
      List Instr).all fun i => ready dev i fun o => !(o.srcS i 0).p) = true ∧
    (([.csrw { d := 3, w := true, a := 9, x := 0 }, .csrs { d := 3, w := true, a := 9, x := 0 }, .csrc { d := 3, w := true, a := 9, x := 0 }] :
      List Instr).all fun i => ready dev i fun o => (o.srcS i 0).p) = true ∧
    (([.scsrw { d := 3, w := true, a := 1, x := 1 }, .scsrs { d := 3, w := true, a := 1, x := 1 }, .scsrc { d := 3, w := true, a := 1, x := 1 }] :
      List Instr).all fun i => ready devS i fun o => !(o.srcS i 0).p) = true ∧
    (([.scsrw { d := 3, w := true, a := 9, x := 1 }, .scsrs { d := 3, w := true, a := 9, x := 1 }, .scsrc { d := 3, w := true, a := 9, x := 1 }] :
      List Instr).all fun i => ready devS i fun o => (o.srcS i 0).p) = true := by
  decide +kernel

theorem meets_PrivilegedWordsInUserMode :
    (([.xret, .scsrr { d := 3, w := true, x := 1 }, .scsrw { d := 3, w := true, a := 1, x := 1 }, .scsrs { d := 3, w := true, a := 1, x := 1 },
      .scsrc { d := 3, w := true, a := 1, x := 1 }, .tlbinv { a := 1, e := 0 }] : List Instr).all fun i =>
      let o := dev.openBundle
      !o.iss.early && !bit o.iss.done o.iss.pos && !o.iss.pre.mode &&
      (wordCheck { o.iss.pre with mode := true } (limmOf (o.words i)) i).isNone) = true := by
  decide +kernel

/-- A predicate register with bit 0 set, in the device of `base`. -/
def devP : State := mini { user base with p := [BitVec.allOnes 256, 1, 0, 2, 0, 0, 0, 0] }

theorem meets_Branches :
    (([(.bz { a := 0, i := 1 }, fun (x : W64) => x == 0), (.bnz { a := 1, i := 1 }, fun x => x != 0),
      (.bltz { a := 5, i := 0x8000 }, fun x => decide (x.toInt < 0)), (.bgez { a := 0, i := 0x7FFF }, fun x => decide (0 ≤ x.toInt))] :
      List (Instr × (W64 → Bool))).all fun e => ready dev e.1 fun o => !(o.srcS e.1 0).p && e.2 (o.srcS e.1 0).v) = true ∧
    (([(.bz { a := 1, i := 1 }, fun (x : W64) => x == 0), (.bnz { a := 0, i := 1 }, fun x => x != 0),
      (.bltz { a := 0, i := 1 }, fun x => decide (x.toInt < 0)), (.bgez { a := 5, i := 1 }, fun x => decide (0 ≤ x.toInt))] :
      List (Instr × (W64 → Bool))).all fun e => ready dev e.1 fun o => !(o.srcS e.1 0).p && !e.2 (o.srcS e.1 0).v) = true ∧
    (([.bz { a := 9, i := 1 }, .bnz { a := 9, i := 1 }, .bltz { a := 9, i := 1 }, .bgez { a := 9, i := 1 }] : List Instr).all fun i =>
      ready dev i fun o => (o.srcS i 0).p) = true ∧
    (([(.bp { p := 1, i := 1 }, fun (x : Pred) => x.getLsbD 0), (.bnp { p := 3, i := 1 }, fun x => !x.getLsbD 0),
      (.bany { p := 3, i := 1 }, fun x => x != 0), (.bnone { p := 2, i := 1 }, fun x => x == 0)] : List (Instr × (Pred → Bool))).all fun e =>
        match e.1 with
        | .bp f | .bnp f | .bany f | .bnone f => ready devP e.1 fun o => e.2 (o.iss.pre.preg f.p.toNat)
        | _ => false) = true ∧
    (([(.bp { p := 3, i := 1 }, fun (x : Pred) => x.getLsbD 0), (.bnp { p := 1, i := 1 }, fun x => !x.getLsbD 0),
      (.bany { p := 2, i := 1 }, fun x => x != 0), (.bnone { p := 3, i := 1 }, fun x => x == 0)] : List (Instr × (Pred → Bool))).all fun e =>
        match e.1 with
        | .bp f | .bnp f | .bany f | .bnone f => ready devP e.1 fun o => !e.2 (o.iss.pre.preg f.p.toNat)
        | _ => false) = true := by
  decide +kernel

/-- The loop counter at and below the values where BLOOP ends. -/
def devLoop (n : Nat) : State := mini { user base with lc := BitVec.ofNat 64 n }

theorem meets_JumpsAndLoops :
    (([.br { i := 1 }, .brl { i := 1 }] : List Instr).all fun i => dev.turn i) = true ∧
    (([.jr { a := 4 }, .jrl { a := 4, d := 3 }] : List Instr).all fun i => ready dev i fun o =>
      !(o.srcS i 0).p && (o.srcS i 0).v.toNat % 4 == 0) = true ∧
    (([.jr { a := 9 }, .jrl { a := 9, d := 3 }, .lcset { a := 9, i := 1 }] : List Instr).all fun i => ready dev i fun o => (o.srcS i 0).p) = true ∧
    (([.jr { a := 6 }, .jrl { a := 6, d := 3 }] : List Instr).all fun i => ready dev i fun o =>
      !(o.srcS i 0).p && (o.srcS i 0).v == 0x102 && (o.srcS i 0).v.toNat % 4 != 0) = true ∧
    ready (devLoop 2) (.bloop { i := 0 }) (fun o => decide (2 ≤ o.iss.pre.lc.toNat)) = true ∧
    ready (devLoop 1) (.bloop { i := 0 }) (fun o => decide (o.iss.pre.lc.toNat < 2)) = true ∧
    ready dev (.lcset { a := 1, i := 1 }) (fun o => !(o.srcS (.lcset { a := 1, i := 1 }) 0).p) = true := by
  decide +kernel

theorem meets_StopTrapAndWaitWords :
    (([.nop, .pblk { p := 1, n := 0, m := 1 }, .trap { i := 7 }, .brk { i := 7 }, .halt, .waitev { m := 1 }] : List Instr).all
      fun i => dev.turn i) = true ∧
    (let s := dev.modIss fun x => { x with words := [.limm { p := 1 }, .addi { d := 3, w := true, a := 1, i := 1 }] }
     s.turn .nop = true ∧ s.iss.words ≠ []) ∧
    (let s := dev.modIss fun x => { x with words := [.pmap { a := 0, b := 1, c := 2, d := 3, e := 4, f := 5, g := 6, h := 6 }, .nop] }
     s.turn .nop = true ∧ s.iss.words ≠ []) ∧
    devS.turn .xret = true ∧ (ready (mini { user base with chActive := true }) .cret fun o => o.iss.pre.chActive) = true ∧
    (ready dev .cret fun o => !o.iss.pre.chActive) = true ∧
    (ready (mini { user base with events := 1 }) (.waitev { m := 1 }) fun o => o.cur.events &&& 1 != 0) = true ∧
    (ready dev (.waitev { m := 0 }) fun _ => true) = true ∧
    (ready dev (.waitev { m := 1 }) fun o => o.cur.events &&& 1 == 0) = true := by
  decide +kernel

/-- R83: results where a sign, a wrap or a zero shows. -/
theorem test_scalar_results :
    scal (.add sr) 0xFFFFFFFFFFFFFFFF 2 = some (sv 1) ∧ scal (.sub sr) 2 3 = some (sv 0xFFFFFFFFFFFFFFFF) ∧
    scal (.div sr) 0xFFFFFFFFFFFFFFF9 2 = some (sv 0xFFFFFFFFFFFFFFFD) ∧ scal (.div sr) 7 0 = some (sv 0xFFFFFFFFFFFFFFFF) ∧
    scal (.div sr) 0x8000000000000000 0xFFFFFFFFFFFFFFFF = some (sv 0x8000000000000000) ∧
    scal (.rem sr) 0xFFFFFFFFFFFFFFF9 2 = some (sv 0xFFFFFFFFFFFFFFFF) ∧ scal (.rem sr) 7 0 = some (sv 7) ∧
    scal (.mulh sr) 0xFFFFFFFFFFFFFFFF 2 = some (sv 0xFFFFFFFFFFFFFFFF) ∧ scal (.mulhu sr) 0xFFFFFFFFFFFFFFFF 2 = some (sv 1) ∧
    scal (.sra sr) 0x8000000000000000 65 = some (sv 0xC000000000000000) ∧ scal (.sll sr) 1 64 = some (sv 1) ∧
    scal (.addw sr) 0x7FFFFFFF 1 = some (sv 0xFFFFFFFF80000000) ∧ scal (.slt sr) 0xFFFFFFFFFFFFFFFF 0 = some (sv 1) ∧
    scal (.sltu sr) 0xFFFFFFFFFFFFFFFF 0 = some (sv 0) ∧ scal (.andn sr) 0xF 0x3 = some (sv 0xC) ∧
    scal (.cmovz sr) 9 0 = some (sv 9) ∧ scal (.cmovz sr) 9 1 = some (sv 5) ∧ scal (.clz s1) 1 0 = some (sv 63) ∧
    scal (.ctz s1) 0 0 = some (sv 64) ∧ scal (.popc s1) 0xF0F 0 = some (sv 8) ∧ scal (.bswap s1) 0x0102 0 = some (sv 0x0201000000000000) ∧
    scal (.bfx sr) 0xABCD 0x304 = some (sv 0xC) ∧ scal (.bfi sr) 0xF 0x304 = some (sv 0xF5) := by
  decide +kernel

/-- R86: 1.0 + 2.0, 1.0 / 3.0 rounded to nearest even, and an ordered comparison. -/
theorem test_scalar_float :
    scal (.fadd sr) 0x3F800000 0x40000000 = some (sv 0x40400000) ∧ scal (.fdiv sr) 0x3F800000 0x40400000 = some (sv 0x3EAAAAAB) ∧
    scal (.flt sr) 0x3F800000 0x40000000 = some (sv 1) ∧ scal (.fcvtif s1) 0xFFFFFFFF 0 = some (sv 0xBF800000) := by
  decide +kernel

/-- R75: a poisoned source marks the result; R13: s0 discards it. -/
theorem test_scalar_poison :
    sAfter dev (.add { d := 3, w := true, a := 9, b := 1 }) 3 = some (bad 14) ∧
    sAfter dev (.add { d := 0, w := true, a := 1, b := 1 }) 0 = some (sv 0) := by
  decide +kernel

/-- R78: BRL writes the address after the bundle and goes to PC + 4·disp. -/
theorem test_brl : (after (exec (.brl { i := 0x3FFFFF }) (mini { user [] with pc := 0x100 }))).map
    (fun t => ((t.ctxAt 0 0).pc, (t.ctxAt 0 0).sreg 31)) = some (0xFC, sv 0x104) := by
  decide +kernel

/-- R335: TRAP 7 enters the handler with cause 0x12 and the number in FADDR. -/
theorem test_trap : (after (exec (.trap { i := 7 }) (mini { user [] with pc := 0x100 }))).map (fun t =>
    let c := t.ctxAt 0 0
    (c.pc, c.epc, c.mode, c.cause, c.faddr)) = some (0x800, 0x100, true, 0x12, 7) := by
  decide +kernel

/-! ## Words of the L class -/

/-- A check that passes. -/
def passes {α : Type} (r : Except (Nat × Nat) α) : Bool :=
  match r with
  | .ok _ => true
  | .error _ => false

/-- A check that passes and whose result satisfies `q`. -/
def gives {α : Type} (r : Except (Nat × Nat) α) (q : α → Bool) : Bool :=
  match r with
  | .ok x => q x
  | .error _ => false

/-- A check that refuses with a cause and an address. -/
def refuses {α : Type} (r : Except (Nat × Nat) α) (e : Nat × Nat) : Bool :=
  match r with
  | .ok _ => false
  | .error x => x == e

/-- The check of an access of a context of slot 0 in user mode. -/
def chk (a n align : Nat) (store noAcc : Bool) : Except (Nat × Nat) Loc := dev.openBundle.check false a n align store noAcc false

/-- Every clause at the boundary of its range: the last address below a hole, the first of it, and so on. -/
theorem meets_AddressesAndChecks :
    refuses (dev.openBundle.check true 0 8 8 false false false) (0x0D, 0) = true ∧ refuses (chk 7 8 8 false false) (0x0A, 7) = true ∧
    refuses (chk 0xB00000 8 8 false false) (0x0B, 0xB00000) = true ∧ refuses (chk 0xFFFFFFFFF8 8 8 false false) (0x0B, 0xFFFFFFFFF8) = true ∧
    refuses (chk 0x10000800000 8 8 false false) (0x0B, 0x10000800000) = true ∧
    dev.openBundle.iss.pre.gangsize ≤ (0x10000800000 - 2 ^ 40) / 2 ^ 23 ∧
    refuses (chk 0x7FFF00 512 256 false false) (0x0B, 0x7FFF00) = true ∧ refuses (chk 0x30000 8 8 false false) (0x0C, 0x30000) = true ∧
    refuses (chk 0x7FFFF8 8 8 false false) (0x0C, 0x7FFFF8) = true ∧
    refuses (chk 0x20000 8 8 true false) (0x0B, 0x20000) = true ∧ passes (chk 0x20000 8 8 false false) = true ∧
    gives (chk 0x1FFF8 8 8 true false) (fun l => l.key == spKey 0 0x1FFF8 && l.remote == false) = true ∧
    gives (chk 0x800000 8 8 true false) (fun l => l.key == accKey 0 0 && l.acc) = true ∧
    gives (chk 0xAFFFF8 8 8 true false) (fun l => l.acc) = true ∧ refuses (chk 0x800000 8 8 true true) (0x0B, 0x800000) = true ∧
    refuses (devS.openBundle.check false 0x20000 8 8 true false false) (0, 0) = false ∧
    passes (devS.openBundle.check false 0x20000 8 8 true false false) = true ∧
    refuses (chk 0xAFFF00 512 256 false false) (0x0B, 0xAFFF00) = true := by
  decide +kernel

/-- Words whose base, in s4, passes the checks of its size, and words that a misaligned or a poisoned base stops. -/
def lms (b : BitVec 6) : List (Instr × Nat) :=
  let f : FLm := { o := 1, w := true, d := 3, b := b, f := 1 }
  [(.ldb f, 1), (.ldbu f, 1), (.ldh f, 2), (.ldhu f, 2), (.ldw f, 4), (.ldwu f, 4), (.ldd f, 8)]

/-- The scalar stores. -/
def sts (b : BitVec 6) : List (Instr × Nat) :=
  let f : FSt := { o := 1, r := 3, b := b, f := 1 }
  [(.stb f, 1), (.sth f, 2), (.stw f, 4), (.std f, 8)]

theorem meets_ScalarLoadsAndStores :
    ((lms 4).all fun e => ready dev e.1 fun o => passes (o.check (o.srcS e.1 0).p (lmAddr o e.1 e.2) e.2 e.2 false false false)) = true ∧
    ((lms 9).all fun e => ready dev e.1 fun o =>
      refuses (o.check (o.srcS e.1 0).p (lmAddr o e.1 e.2) e.2 e.2 false false false) (0x0D, 0)) = true ∧
    ((sts 4).all fun e => ready dev e.1 fun o =>
      passes (o.check (o.srcS e.1 0).p (lmAddr o e.1 e.2) e.2 e.2 true false (o.srcS e.1 2).p)) = true ∧
    ((sts 9).all fun e => ready dev e.1 fun o =>
      refuses (o.check (o.srcS e.1 0).p (lmAddr o e.1 e.2) e.2 e.2 true false (o.srcS e.1 2).p) (0x0D, 0)) = true := by
  decide +kernel

/-- A place of the word's own tile, and one of another tile. -/
theorem meets_BankAndMeshAccesses :
    (spKey 0 0x100) % 8 = 0 ∧ gives (chk 0x1FFF8 8 8 true false) (fun l => !l.remote) = true ∧ dev.quiet = true ∧ dev.iss.late = false ∧
    (dev.modIss fun x => { x with late := true }).iss.late = true ∧
    (let l : Loc := { home := 1, remote := true, key := spKey 1 0x40000, entry := 0, acc := false }
     l.remote = true ∧ (dev.ctx? dev.iss.tile dev.iss.slot).isSome = true) := by
  decide +kernel

/-- A device with a gang of two tiles, whose window reaches the shared region 4 of tile 1; v3 is poisoned. -/
def devG : State :=
  let c : Ctx :=
    { user (base ++ [(7, sv 0x10000840000)]) with
      gangsize := 2, v := fill 32 {} [(3, { v := 0, p := 1 }), (5, { v := 0, p := 0 })] }
  { mini c with
    tiles := [tileOf c, { tileOf {} with ctx := [none] }], gangs := [{ id := 1, job := 0, members := [{ tile := 0 }, { tile := 1 }] }] }

/-- The check of an access of `devG`'s context. -/
def chkG (a n : Nat) (store dataP : Bool) : Except (Nat × Nat) Loc := devG.openBundle.check false a n n store false dataP

/-- R30: the gang window. The end of a member's 2^23 bytes, a region that does not serve, a read-only one, poisoned data for the task's
own tile and for another, and the member after the last. -/
theorem meets_AddressesInTheGangWindow :
    refuses (devG.openBundle.check false 0x100007FFF00 512 256 true false false) (0x0B, 0x100007FFF00) = true ∧
    devG.openBundle.memberTile devG.openBundle.iss.pre 1 = some 1 ∧
    refuses (chkG 0x10000030000 8 true false) (0x0C, 0x10000030000) = true ∧
    refuses (chkG 0x10000800000 8 false false) (0x0C, 0x10000800000) = true ∧
    refuses (chkG 0x10000020000 8 true false) (0x0B, 0x10000020000) = true ∧
    refuses (chkG 0x10000840000 8 true true) (0x0D, 0x10000840000) = true ∧
    gives (chkG 0x10000000100 8 true true) (fun l => !l.remote && l.key == spKey 0 0x100) = true ∧
    gives (chkG 0x1000084FFF8 8 true false) (fun l => l.remote && l.home == 1 && l.key == spKey 1 0x4FFF8) = true ∧
    refuses (chkG 0x10001000000 8 true false) (0x0B, 0x10001000000) = true := by
  decide +kernel

/-- A device whose region 1 has a format (FMT of R97's entry) and whose guard masks lanes. -/
def devF (fmt g : Nat) (m : Pred) : State :=
  let s := mini { user base with p := [BitVec.allOnes 256, m, 0, 2, 0, 0, 0, 0], gcount := g, gmask := 1, gpred := 1 }
  s.modTile 0 fun x => { x with rmap := x.rmap.set 0 (0x8000000000000000 + BitVec.ofNat 64 (fmt * 2 ^ 36)) }

/-- A vector load of chunk 1 after the address in s4. -/
def lm : FLm := { o := 1, w := true, d := 3, b := 4, f := 1 }

/-- A vector store of v3 there. -/
def st : FSt := { o := 1, r := 3, b := 4, f := 1 }

theorem meets_VectorLoadsAndStores :
    (([.ldv lm, .ldvb lm, .stv st, .ldvf lm, .stvf st] : List Instr).all fun i => ready (devF 0 1 0) i fun o => o.mask == 0 && laneMask o.mask == 0) = true ∧
    (([(.ldv lm, 256), (.ldvb lm, 64)] : List (Instr × Nat)).all fun e => ready dev e.1 fun o =>
      o.mask != 0 && passes (o.check (o.srcS e.1 0).p (lmAddr o e.1 256) e.2 e.2 false false false)) = true ∧
    ready dev (.stv st) (fun o => o.mask != 0 && passes (o.check (o.srcS (.stv st) 0).p (lmAddr o (.stv st) 256) 256 256 true false
      (maskedPoison o.mask.toNat (o.srcV (.stv st) 2).p.toNat 32))) = true ∧
    (([(.ldv { lm with b := 9 }, 256), (.ldvb { lm with b := 9 }, 64)] : List (Instr × Nat)).all fun e => ready dev e.1 fun o =>
      o.mask != 0 && refuses (o.check (o.srcS e.1 0).p (lmAddr o e.1 256) e.2 e.2 false false false) (0x0D, 0)) = true ∧
    ready dev (.stv { st with b := 9 }) (fun o => o.mask != 0 && refuses (o.check (o.srcS (.stv { st with b := 9 }) 0).p 0 256 256 true false
      false) (0x0D, 0)) = true ∧
    ready (devF 0 0 0) (.ldvf lm) (fun o => laneMask o.mask != 0 && gives (chunkCheck o (.ldvf lm) false) fun r => fmtBits r.2.1 == 32) = true ∧
    ready (devF 4 0 0) (.ldvf lm) (fun o => laneMask o.mask != 0 && gives (chunkCheck o (.ldvf lm) false) fun r => fmtBits r.2.1 == 8) = true ∧
    ready dev (.ldvf { lm with b := 9 }) (fun o => laneMask o.mask != 0 && refuses (chunkCheck o (.ldvf { lm with b := 9 }) false) (0x0D, 0)) = true ∧
    ready (devF 4 0 0) (.stvf st) (fun o => laneMask o.mask != 0 && gives (chunkCheck o (.stvf st) true) fun r =>
      r.2.1 != 6 && !r.1.remote) = true ∧
    ready dev (.stvf { st with b := 9 }) (fun o => laneMask o.mask != 0 && refuses (chunkCheck o (.stvf { st with b := 9 }) true) (0x0D, 0)) = true := by
  decide +kernel

/-- A device of `devG`'s gang whose regions have format `fmt`, with the scale bytes from address `sp` on for elements from `eb` on, s4 = `x`,
and chunk 16 · `b` of v3 poisoned; the guard masks with `m` where `g` is 1. -/
def devK (fmt sp eb b x : Nat) (g : Nat) (m : Pred) : State :=
  let c : Ctx :=
    { user ([(4, sv x), (9, bad 8)]) with
      gangsize := 2, recs := List.replicate 64 (BitVec.ofNat 512 (sp * 2 ^ 128 + eb * 2 ^ 192)),
      p := [BitVec.allOnes 256, m, 0, 0, 0, 0, 0, 0], gcount := g, gmask := 1, gpred := 1,
      v := fill 32 {} [(3, { v := 0, p := BitVec.ofNat 32 (2 ^ (16 * b)) })] }
  let mx := fun x : Tile => { x with rmap := x.rmap.map fun e => e ||| BitVec.ofNat 64 (fmt * 2 ^ 36) }
  { mini c with
    tiles := [mx (tileOf c), mx { tileOf {} with ctx := [none] }], gangs := [{ id := 1, job := 0, members := [{ tile := 0 }, { tile := 1 }] }] }

/-- What the checks of an STVF of chunk `f` of `devK` give. -/
def chunkK (fmt sp eb b x : Nat) (f : BitVec 6) (m : Pred) : Except (Nat × Nat) (Loc × Nat × Loc × Loc) :=
  chunkCheck (devK fmt sp eb b x 1 m).openBundle (.stvf { st with f := f }) true

/-- The checks of LDVF and STVF: an address outside the regions, a reserved format, a misaligned chunk, a part of a block, poisoned elements
for another tile, the scale block's base above the chunk or misaligned, and for the scale bytes of block 0 and of block 1 an address outside
the regions, poisoned data for another tile, and none of them. -/
theorem meets_ChunkChecks :
    refuses (chunkCheck (devK 6 0 0 0 0 0 0).openBundle (.stvf { st with b := 9 }) true) (0x0D, 0) = true ∧
    refuses (chunkK 6 0x200 0 0 0x30000 0 (BitVec.allOnes 256)) (0x0C, 0x30000) = true ∧
    refuses (chunkK 11 0x200 0 0 0x100 0 (BitVec.allOnes 256)) (0x0F, 0x100) = true ∧
    refuses (chunkK 6 0x200 0 0 0x110 0 (BitVec.allOnes 256)) (0x0A, 0x110) = true ∧
    refuses (chunkK 6 0x200 0 0 0x100 0 0xFF) (0x0F, 0x100) = true ∧
    refuses (chunkK 6 0x200 0 0 0x10000840000 0 (BitVec.allOnes 256)) (0x0D, 0x10000840000) = true ∧
    refuses (chunkK 0 0x200 0 0 0x10000840000 0 (BitVec.allOnes 256)) (0x0D, 0x10000840000) = true ∧
    gives (chunkK 0 0x200 0 0 0x100 0 (BitVec.allOnes 256)) (fun r => r.2.1 == 1) = true ∧
    refuses (chunkK 6 0x200 0x120 0 0x100 0 (BitVec.allOnes 256)) (0x0F, 0x100) = true ∧
    refuses (chunkK 6 0x200 0xF0 0 0x100 0 (BitVec.allOnes 256)) (0x0F, 0x100) = true ∧
    refuses (chunkK 6 0x30000 0x100 0 0x100 0 (BitVec.allOnes 256)) (0x0C, 0x30000) = true ∧
    refuses (chunkK 6 0x2FFFF 0x100 0 0x100 0 (BitVec.allOnes 128 ++ (0 : BitVec 128))) (0x0C, 0x30000) = true ∧
    refuses (chunkK 6 0x10000840000 0x100 0 0x100 0 (BitVec.allOnes 256)) (0x0D, 0x10000840000) = true ∧
    refuses (chunkK 6 0x10000840000 0x100 1 0x100 0 (BitVec.allOnes 256)) (0x0D, 0x10000840001) = true ∧
    gives (chunkK 6 0x200 0x100 0 0x100 0 (BitVec.allOnes 256)) (fun r => r.2.1 == 6 && !r.1.remote && r.2.2.1.key == spKey 0 0x200 &&
      r.2.2.2.key == spKey 0 0x201) = true ∧
    gives (chunkK 6 0x200 0x10000840000 2 0x10000840000 0 (BitVec.allOnes 256)) (fun r => r.1.remote) = true := by
  decide +kernel

/-- The words themselves: a store of MXFP4 of both blocks at the own tile, and one to another tile in FP32. -/
theorem meets_VectorStoreFormats :
    ready (devK 6 0x200 0 0 0x100 0 0) (.stvf { st with f := 0 }) (fun o => laneMask o.mask != 0 &&
      gives (chunkCheck o (.stvf { st with f := 0 }) true) fun r => r.2.1 == 6) = true ∧
    ready (devK 1 0 0 2 0x10000840000 0 0) (.stvf { st with f := 0 }) (fun o => laneMask o.mask != 0 &&
      gives (chunkCheck o (.stvf { st with f := 0 }) true) fun r => r.2.1 == 1 && r.1.remote) = true ∧
    ready (devK 1 0 0 0 0x10000840000 0 0) (.stvf { st with f := 0 }) (fun o => laneMask o.mask != 0 &&
      refuses (chunkCheck o (.stvf { st with f := 0 }) true) (0x0D, 0x10000840000)) = true := by
  decide +kernel

/-- A device whose guard lets lanes 0 and 1 run; the indices of v2 and of latch V0.0 put lane 1 at a misaligned address. -/
def devX : State :=
  mini
    { user base with
      v := fill 32 {} [(2, { v := 0x100000000 })], p := [BitVec.allOnes 256, 0xFF, 0, 0, 0, 0, 0, 0],
      gcount := 1, gmask := 1, gpred := 1,
      lat := fill 8 .empty [(4, .vector { v := 0x100000000 }), (6, .vector {})] }

/-- A gather through the indices of a vector register. -/
def lx (x : BitVec 6) : FLx := { o := 1, w := true, d := 3, b := 4, x := x }

theorem meets_GatherAndScatter :
    ready devX (.ldvg (lx 3)) (fun o => (runLanes (gatherLane (.ldvg (lx 3)) (lx 3)) (lanesOf o)
      (gatherStart o (lx 3)) o.iss.lmask.toNat).2.2 == none) = true ∧
    ready devX (.stvs { o := 1, r := 5, b := 4, x := 0x26 }) (fun o => (runLanes (scatterLane (.stvs { o := 1, r := 5, b := 4, x := 0x26 })
      { o := 1, r := 5, b := 4, x := 0x26 }) (lanesOf o) o o.iss.lmask.toNat).2.2 == none) = true ∧
    ready devX (.ldvg (lx 2)) (fun o => (o.ctx? o.iss.tile o.iss.slot).isSome && (runLanes (gatherLane (.ldvg (lx 2)) (lx 2)) (lanesOf o)
      (gatherStart o (lx 2)) o.iss.lmask.toNat).2 == (1, some (0x0A, 0x101))) = true ∧
    ready devX (.stvs { o := 1, r := 5, b := 4, x := 0x24 }) (fun o => (runLanes (scatterLane (.stvs { o := 1, r := 5, b := 4, x := 0x24 })
      { o := 1, r := 5, b := 4, x := 0x24 }) (lanesOf o) o o.iss.lmask.toNat).2 == (1, some (0x0A, 0x101))) = true ∧
    (gatherLane (.ldvg (lx 2)) (lx 2) devX.openBundle 1).isOk = false ∧
    (scatterLane (.stvs { o := 1, r := 5, b := 4, x := 0x24 }) { o := 1, r := 5, b := 4, x := 0x24 } devX.openBundle 1).isOk = false ∧
    (runLanes (gatherLane (.ldvg (lx 2)) (lx 2)) [0] devX.openBundle 0).2 == (1, none) ∧
    physV devX.iss.pre.vrb 3 < devX.cur.v.length := by
  decide +kernel

/-- A lane at the own tile, and one at another tile. -/
theorem meets_GatherAndScatterLanes :
    let o := devX.openBundle
    gives (o.check false 0x100 4 4 false false false) (fun l => !l.remote && !o.iss.late && o.quiet) = true ∧
    gives (devG.openBundle.check false 0x10000840000 4 4 true false false) (fun l => l.remote) = true ∧
    refuses (o.check false 0x101 4 4 true false false) (0x0A, 0x101) = true := by
  decide +kernel

/-- A window of 12 bytes at 0x100. -/
def devW : State := mini { user base with pwb := fill 8 0 [(2, 0x100)], pws := fill 8 0 [(2, 12)] }

/-- An LDP of window `n`, base `b` and offset field `f`, of 8 bytes. -/
def lp (n : BitVec 3) (b : BitVec 6) (f : BitVec 4) : FLp := { n := n, w := true, d := 3, b := b, z := 3, f := f }

theorem meets_ParameterWindowReads :
    ready devW (.ldp (lp 1 0 0)) (fun o => (o.iss.pre.pws.getD 1 0).toNat == 0) = true ∧
    ready devW (.ldp (lp 2 9 0)) (fun o => (o.iss.pre.pws.getD 2 0).toNat != 0 && (o.srcS (.ldp (lp 2 9 0)) 0).p) = true ∧
    ready devW (.ldp (lp 2 1 0)) (fun o => (o.iss.pre.pws.getD 2 0).toNat != 0 && !(o.srcS (.ldp (lp 2 1 0)) 0).p &&
      (o.srcS (.ldp (lp 2 1 0)) 0).v.toNat % 8 != 0) = true ∧
    ready devW (.ldp (lp 2 0 0)) (fun o => o.quiet && gives (ldpBytes o 0x100 0 12 8) fun r => !r.2.2) = true ∧
    ready devW (.ldp (lp 2 0 1)) (fun o => o.quiet && gives (ldpBytes o 0x100 8 12 8) fun r => r.2.2) = true ∧
    ready { devW with tiles := devW.tiles.map fun x => { x with rmap := [] } } (.ldp (lp 2 0 1)) (fun o =>
      refuses (ldpBytes o 0x100 8 12 8) (0x0C, 0x108)) = true := by
  decide +kernel

/-- The atomics on s4 and on the poisoned s9. -/
def atomics (b : BitVec 6) : List (Instr × Nat) :=
  let f : FLx := { o := 1, w := true, d := 3, b := b, x := 1 }
  [(.aadd f, 8), (.amin f, 8), (.amax f, 8), (.aminu f, 8), (.amaxu f, 8), (.aand f, 8), (.aor f, 8), (.axor f, 8), (.aswp f, 8),
   (.acas f, 8), (.afadd f, 4)]

theorem meets_Atomics :
    ((atomics 4).all fun e => ready dev e.1 fun o =>
      passes (o.check (o.srcS e.1 0).p (o.srcS e.1 0).v.toNat e.2 e.2 true true ((o.srcS e.1 1).p || (o.srcS e.1 2).p))) = true ∧
    ((atomics 9).all fun e => ready dev e.1 fun o =>
      refuses (o.check (o.srcS e.1 0).p (o.srcS e.1 0).v.toNat e.2 e.2 true true ((o.srcS e.1 1).p || (o.srcS e.1 2).p)) (0x0D, 0)) = true ∧
    dev.quiet = true ∧ (AtomicOp.add ≠ .fadd ∧ AtomicOp.add ≠ .cas) ∧ spKey 0 0x100 % 8 = 0 ∧ 0 < dev.tiles.length := by
  decide +kernel

/-- A device with a barrier object at 0x100 whose word 0 is given. -/
def devB (w0 : Nat) : State := { mini (user (base ++ [(7, sv 0x10000), (8, sv 0xFFFF), (10, sv 4), (13, sv 256)])) with mem := writeBlock [] (spKey 0 0x100) 8 w0 }

/-- A barrier word on s4 with s`x`. -/
def bar (x : BitVec 6) : FLx := { o := 15, w := true, d := 3, b := 4, x := x }

theorem meets_Barriers :
    (([(.barv (bar 1), true), (.bwait (bar 1), false)] : List (Instr × Bool)).all fun e => ready (devB 0) e.1 fun o =>
      passes (o.check ((o.srcS e.1 0).p || (o.srcS e.1 1).p) (o.srcS e.1 0).v.toNat 16 16 e.2 true false)) = true ∧
    (([(.barv (bar 9), true), (.bwait (bar 9), false), (.binit { o := 15, b := 4, x := 9 }, true)] : List (Instr × Bool)).all fun e =>
      ready (devB 0) e.1 fun o =>
        refuses (o.check ((o.srcS e.1 0).p || (o.srcS e.1 1).p) (o.srcS e.1 0).v.toNat 16 16 e.2 true false) (0x0D, 0)) = true ∧
    (([(8, true), (7, false), (0, false)] : List (BitVec 6 × Bool)).all fun e => ready (devB 0) (.binit { o := 15, b := 4, x := e.1 }) fun o =>
      let x := (o.srcS (.binit { o := 15, b := 4, x := e.1 }) 1).v.toNat
      passes (o.check false 0x100 16 16 true true false) && (decide (0 < x) && decide (x < 65536)) == e.2) = true ∧
    ready (devB 0) (.bwait (bar 10)) (fun o => o.quiet && !(o.rd (spKey 0 0x100) 8).testBit 37) = true ∧
    ready (devB (2 ^ 37 + 5 * 2 ^ 32)) (.bwait (bar 10)) (fun o => o.quiet && (o.rd (spKey 0 0x100) 8).testBit 37 &&
      o.rd (spKey 0 0x100) 8 / 2 ^ 32 % 16 != 4) = true ∧
    ready (devB (2 ^ 37 + 4 * 2 ^ 32)) (.bwait (bar 10)) (fun o => o.quiet && (o.rd (spKey 0 0x100) 8).testBit 37 &&
      o.rd (spKey 0 0x100) 8 / 2 ^ 32 % 16 == 4 && decide ((o.srcS (.bwait (bar 10)) 1).v.toNat < 256)) = true ∧
    ready (devB (2 ^ 37)) (.bwait (bar 13)) (fun o => o.quiet && (o.rd (spKey 0 0x100) 8).testBit 37 &&
      o.rd (spKey 0 0x100) 8 / 2 ^ 32 % 16 == 0 && (o.srcS (.bwait (bar 13)) 1).v == 256) = true ∧
    ready devG (.bwait { bar 13 with b := 7 }) (fun o => gives (o.check ((o.srcS (.bwait { bar 13 with b := 7 }) 0).p ||
      (o.srcS (.bwait { bar 13 with b := 7 }) 1).p) (o.srcS (.bwait { bar 13 with b := 7 }) 0).v.toNat 16 16 false true false)
        fun l => l.remote) = true ∧ spKey 0 0x100 % 16 = 0 := by
  decide +kernel

/-- An arrival below, at and past the expected count of 2, with phase 15 at the one that completes it, and with a bad count. -/
theorem test_barrier_arrivals :
    barvWord (2 ^ 37 + 15 * 2 ^ 32 + 2) 1 0 9 = (2 ^ 37 + 15 * 2 ^ 32 + 2 ^ 16 + 2, 0, none) ∧
    barvWord (2 ^ 37 + 15 * 2 ^ 32 + 2 ^ 16 + 2) 1 0 9 = (2 ^ 37 + 2, 1, some 9) ∧
    barvWord (2 ^ 37 + 2) 3 7 9 = (2 ^ 37 + 2 ^ 36 + 2, 2, some 7) ∧
    (barvWord (2 ^ 37 + 2) 65536 7 9).2.1 = 4 ∧ (barvWord 2 1 7 9).2.1 = 3 := by
  decide +kernel

theorem meets_FenceWords : (([.fence { s := 2, m := 1 }, .xfence { s := 0, a := 4, b := 0 }] : List Instr).all fun i => dev.turn i) = true := by
  decide +kernel

/-- A device with the bytes 0x80 and 0x81 at 0x100. -/
def devM : State := { dev with mem := writeBlock [] (spKey 0 0x100) 2 0x8180 }

/-- R93: a load extends its bytes, and the offset of a word counts in its size. -/
theorem test_loads :
    sAfter devM (.ldb { o := 1, w := true, d := 3, b := 4, f := 0 }) 3 = some (sv 0xFFFFFFFFFFFFFF80) ∧
    sAfter devM (.ldhu { o := 1, w := true, d := 3, b := 4, f := 0 }) 3 = some (sv 0x8180) ∧
    sAfter devM (.ldbu { o := 1, w := true, d := 3, b := 4, f := 1 }) 3 = some (sv 0x81) := by
  decide +kernel

/-- R94, R91: a store writes its bytes, lowest first. -/
theorem test_store : (after (exec (.stw { o := 1, r := 5, b := 4, f := 1 }) dev)).map (fun t => t.rd (spKey 0 0x104) 8) =
    some 0xFFFFFFFB := by
  decide +kernel

/-- R143: an atomic add returns the old value. -/
theorem test_aadd : (after (exec (.aadd { o := 1, w := true, d := 3, b := 4, x := 1 }) devM)).map
    (fun t => ((t.ctxAt 0 0).sreg 3, t.rd (spKey 0 0x100) 8)) = some (sv 0x8180, 0x8186) := by
  decide +kernel

/-- R97: a window read past the window's end gives zero for those bytes and sets TSR.PWOOB. -/
theorem test_ldp : (after (exec (.ldp (lp 2 0 1)) { devW with mem := writeBlock [] (spKey 0 0x108) 8 0x1122334455667788 })).map
    (fun t => ((t.ctxAt 0 0).sreg 3, (t.ctxAt 0 0).pwoob)) = some (sv 0x55667788, true) := by
  decide +kernel

/-- R144: a NaN in memory gives the canonical NaN with NV, which goes to RAFLAGS of the home tile where no answer is asked for. -/
theorem test_afadd_nan :
    let r := ({ dev with mem := writeBlock [] (spKey 0 0x100) 4 0x7FC00001 }).apply 0 (.atomic .fadd (spKey 0 0x100) (sv 0x3F800000) {} false)
    (r.1.rd (spKey 0 0x100) 4, (r.1.tileAt 0).raflags) = (0x7FC00000, fNV) := by
  decide +kernel
/-! ## Words of the V class -/

/-- A vector of 32-bit elements, element 0 first. -/
def v32 (l : List Nat) : VVal := { v := BitVec.ofNat 2048 (ofElems 4 l) }

/-- A device with vectors in v1, v2, v3 and a poisoned v9. -/
def devV : State :=
  mini { user base with
    v := fill 32 {} [(1, v32 [0xFFFFFFFF, 0x80000000, 7, 0x3F800000]), (2, v32 [2, 0x80000000, 9, 0x40400000]), (3, v32 [5, 5, 5, 5]),
                     (9, { v := 1, p := 1 })],
    p := [BitVec.allOnes 256, 0xFFF0, 0, 2, 0, 0, 0, 0] }

/-- A VR word v3 = v1 op v2 of element size 2^e. -/
def vr (e : BitVec 2) : FVr := { e := e, d := 3, w := true, a := 1, b := 2 }

/-- A VR word with one source. -/
def v1 (e : BitVec 2) : FV1 := { e := e, d := 3, w := true, a := 1 }

/-- The 32-bit elements of v3 after a word. -/
def vAfter (i : Instr) (n : Nat) : Option (List Nat) :=
  (after (exec i devV)).map fun t => elems ((t.ctxAt 0 0).v.getD 3 {}).v.toNat 4 n

/-- The two-source integer words of VectorIntegerWords. -/
def vIntWords (f : FVr) : List Instr :=
  [.vadd f, .vsub f, .vmul f, .vmulh f, .vmulhu f, .vand f, .vor f, .vxor f, .vshl f, .vshr f, .vsra f, .vmin f, .vmax f, .vminu f,
   .vmaxu f, .vadds f, .vsubs f]

theorem meets_VectorIntegerWords :
    (vIntWords (vr 0)).all (fun i => devV.turn i) = true ∧ (vIntWords (vr 3)).all (fun i => devV.turn i) = true := by decide +kernel

theorem meets_VectorAccumulatingWords :
    (([.vmac (vr 2), .vdot4 (vr 2)] : List Instr).all fun i => devV.turn i) = true ∧
    (([.vmulw { vr 2 with d := 4 }, .vaddw { vr 0 with d := 4 }] : List Instr).all fun i => devV.turn i) = true ∧ (vr 2).e ≠ 3 := by
  decide +kernel

/-- A VI word, at the greatest immediate of its shift. -/
def vi (e : BitVec 2) (i : BitVec 6) : FVi := { e := e, d := 3, w := true, a := 1, i := i }

theorem meets_VectorOneSourceWords :
    (([.vabs (v1 2), .vneg (v1 2), .vmov (v1 2), .vshli (vi 2 31), .vshri (vi 2 31), .vsrai (vi 2 31), .vaddi (vi 2 63), .vbcast (v1 2)] :
      List Instr).all fun i => devV.turn i) = true := by
  decide +kernel

/-- The compares of the two statements' forms. -/
def cmpWords (f : FVr) : List Instr :=
  [.vceq f, .vcne f, .vclt f, .vcle f, .vcltu f, .vcleu f, .vfceq f, .vfclt f, .vfcle f, .vfcun f]

theorem meets_CompareAndPredicateWords :
    ((cmpWords (vr 0)).all fun i => ready devV i fun o => (o.srcV i 0).p == 0 && (o.srcV i 1).p == 0) = true ∧
    ((cmpWords { vr 0 with a := 9 }).all fun i => ready devV i fun o => active o.mask 4 0 && chunkP (o.srcV i 0) 0) = true ∧
    (([.pand { d := 3, w := true, a := 1, b := 3 }, .por { d := 3, w := true, a := 1, b := 3 }, .pxor { d := 3, w := true, a := 1, b := 3 },
      .pandn { d := 3, w := true, a := 1, b := 3 }, .pnot { d := 3, w := true, a := 1 }, .pany { d := 3, w := true, a := 1 },
      .ppopc { d := 3, w := true, a := 1 }, .pfirst { d := 3, w := true, a := 1 }] : List Instr).all fun i => devV.turn i) = true := by
  decide +kernel

theorem meets_VectorMoveWords :
    (([.vslup (vr 2), .vsldn (vr 2), .vperm (vr 2), .vtos (vr 2), .vins (vr 2)] : List Instr).all fun i => devV.turn i) = true := by
  decide +kernel

theorem meets_VectorReductions :
    (([.vradd (v1 2), .vrmax (v1 2), .vrmin (v1 2), .vrfadd (v1 0), .vrfmax (v1 2)] : List Instr).all fun i => devV.turn i) = true := by
  decide +kernel

/-- The floating-point words with two sources, and with three. -/
def vfWords (f : FVr) : List Instr := [.vfadd f, .vfsub f, .vfmul f, .vfdiv f, .vfmin f, .vfmax f, .vfma f, .vfms f]

theorem meets_VectorFloatWords :
    (vfWords (vr 0)).all (fun i => devV.turn i) = true ∧ (vfWords (vr 2)).all (fun i => devV.turn i) = true ∧
    (([.vfabs (v1 0), .vfneg (v1 0), .vfsqrt (v1 0), .vfrsq (v1 0), .vcvtif (v1 0), .vcvtfi (v1 0)] : List Instr).all
      fun i => devV.turn i) = true := by
  decide +kernel

theorem meets_PackAndResidueWords :
    (([.vpack8 (v1 0), .vpack16 (v1 0), .vunpk8 (v1 0), .vunpk16 (v1 0), .vrnse { d := 3, w := true, a := 1 },
      .vrnsd { d := 3, w := true, a := 1 }, .vrnsadd { d := 3, w := true, a := 1, b := 2 }, .vrnsmul { d := 3, w := true, a := 1, b := 2 },
      .vrnsmac { d := 3, w := true, a := 1, b := 2 }] : List Instr).all fun i => devV.turn i) = true := by
  decide +kernel

theorem meets_VectorAndPredicateResults :
    (devV.ctx? devV.iss.tile devV.iss.slot).isSome = true ∧ devV.cur.v.length = 32 ∧ devV.cur.p.length = 8 ∧
    devV.cur.lat.length = 8 ∧ devV.pipe (.vadd (vr 0)) = some 2 := by
  decide +kernel

/-- R128: wrap, sign and saturation in 32-bit elements. -/
theorem test_vector_integers :
    vAfter (.vadd (vr 2)) 3 = some [1, 0, 16] ∧ vAfter (.vadds (vr 2)) 3 = some [1, 0x80000000, 16] ∧
    vAfter (.vmulh (vr 2)) 2 = some [0xFFFFFFFF, 0x40000000] ∧ vAfter (.vmulhu (vr 2)) 2 = some [1, 0x40000000] ∧
    vAfter (.vmin (vr 2)) 3 = some [0xFFFFFFFF, 0x80000000, 7] ∧ vAfter (.vminu (vr 2)) 3 = some [2, 0x80000000, 7] ∧
    vAfter (.vmac (vr 2)) 3 = some [3, 5, 68] ∧ vAfter (.vsrai (vi 2 31)) 3 = some [0xFFFFFFFF, 0xFFFFFFFF, 0] ∧
    vAfter (.vabs (v1 2)) 2 = some [1, 0x80000000] ∧ vAfter (.vslup { vr 2 with b := 2 }) 5 = some [0, 0, 0, 0xFFFFFFFF, 0x80000000] := by
  decide +kernel

/-- R136: 1.0 + 3.0 and 1.0 / 3.0 in lane 3. -/
theorem test_vector_float :
    (vAfter (.vfadd (vr 0)) 4).map (·.getD 3 0) = some 0x40800000 ∧ (vAfter (.vfdiv (vr 0)) 4).map (·.getD 3 0) = some 0x3EAAAAAB := by
  decide +kernel

/-- R45: a guard leaves the elements that it masks off. -/
theorem test_vector_guard :
    ((after (exec (.vadd (vr 2)) (devV.modCur fun c => { c with gcount := 1, gmask := 1, gpred := 1 }))).map fun t =>
      elems ((t.ctxAt 0 0).v.getD 3 {}).v.toNat 4 5) = some [5, 0, 16, 0x7FC00000, 0] := by
  decide +kernel

/-- R132, R133: a compare writes the predicate bits of its elements; PFIRST finds the lowest one. -/
theorem test_predicates :
    ((after (exec (.vclt (vr 2)) devV)).map fun t => ((t.ctxAt 0 0).p.getD 3 0).toNat % 65536) = some 0xFF0F ∧
    sAfter devV (.pfirst { d := 3, w := true, a := 1 }) 3 = some (sv 4) ∧ sAfter devV (.ppopc { d := 3, w := true, a := 1 }) 3 = some (sv 12) ∧
    sAfter devV (.pfirst { d := 3, w := true, a := 2 }) 3 = some (sv 256) := by
  decide +kernel

/-- R135: the sum of signed elements. -/
theorem test_reduction : sAfter devV (.vradd { v1 2 with a := 3 }) 3 = some (sv 20) := by decide +kernel

/-! ## The matrix engine -/

/-- A device with two regions of memory, `f` applied to its tile. -/
def tiled (c : Ctx) (f : Tile → Tile) : State := (mini c).modTile 0 f

/-- A descriptor of one step with BF16 operands at 0 and 0x1000 (R149, R150). -/
def mdOne : Vec :=
  BitVec.ofNat 2048 (((List.range 6).map fun l => 2 ^ (128 * l + 48)).sum + 0x1000 * 2 ^ 800 + 3 * 2 ^ 904 + 3 * 2 ^ 908)

/-- A write-back descriptor: one row of one FP32 element to 0x100 (R170). -/
def wbOne1 : Nat := 0x100 * 2 ^ 64 + 2 ^ 152

/-- A queue of the matrix engine that holds `n` commands. -/
def mqOf (n : Nat) (x : Tile) : Tile := { x with mq := List.replicate n { seq := 1, slot := 0, kind := .clr 0 64 false } }

/-- Memory that holds a descriptor of 64 bytes at 0x100. -/
def withDesc (n : Nat) (s : State) : State := { s with mem := writeBlock [] (spKey 0 0x100) 64 n }

/-- The scalar registers of the engines' words. -/
def mbase : List (Nat × SVal) := base ++ [(10, sv 0x800000), (11, sv 0xAFFFC0), (12, sv 64), (13, sv 0x7FFFC0), (14, sv 0xB00000), (15, sv 1), (16, sv 0x800020), (17, sv 128)]

/-- A device whose shadow descriptor is `d`. -/
def devMx (d : Vec) : State := mini { user mbase with shadow := d, v := fill 32 {} [(9, { v := 1, p := 1 })] }

theorem meets_MatrixEngineWords :
    ready (devMx 0) (.mldtScalar { a := 4 }) (fun o => passes (readDesc o (o.srcS (.mldtScalar { a := 4 }) 0) 256 true).1) = true ∧
    ready (devMx 0) (.mldtScalar { a := 9 }) (fun o => refuses (readDesc o (o.srcS (.mldtScalar { a := 9 }) 0) 256 true).1 (0x0D, 0)) = true ∧
    ready (devMx 0) (.mldtVector { a := 1 }) (fun o => (o.srcV (.mldtVector { a := 1 }) 0).p == 0) = true ∧
    ready (devMx 0) (.mldtVector { a := 9 }) (fun o => (o.srcV (.mldtVector { a := 9 }) 0).p != 0) = true ∧
    ready (devMx 0) (.mset { a := 1, n := 31 }) (fun o => !(o.srcS (.mset { a := 1, n := 31 }) 0).p) = true ∧
    ready (devMx 0) (.mset { a := 9, n := 31 }) (fun o => (o.srcS (.mset { a := 9, n := 31 }) 0).p) = true ∧
    ready (devMx mdOne) (.mgo { d := 3 }) (fun o => shadowOk o.iss.pre.shadow o.iss.pre.gangsize) = true ∧
    ready (devMx 0) (.mgo { d := 3 }) (fun o => !shadowOk o.iss.pre.shadow o.iss.pre.gangsize) = true ∧
    ready ((devMx mdOne).modTile 0 (mqOf 3)) (.mgo { d := 3 }) (fun o => decide ((o.tileAt 0).mq.length < 4)) = true ∧
    ready ((devMx mdOne).modTile 0 (mqOf 4)) (.mgo { d := 3 }) (fun o => decide (4 ≤ (o.tileAt 0).mq.length)) = true ∧
    (([.mstat { d := 3 }, .mabort { d := 3 }] : List Instr).all fun i => (devMx 0).turn i) = true ∧
    ready (devMx 0) (.mwait { a := 0, d := 3 }) (fun o => decide (((o.tileAt 0).mdone - (o.srcS (.mwait { a := 0, d := 3 }) 0).v.setWidth 32).toNat < 2 ^ 31)) = true ∧
    ready (devMx 0) (.mwait { a := 15, d := 3 }) (fun o => !(o.srcS (.mwait { a := 15, d := 3 }) 0).p &&
      decide (2 ^ 31 ≤ ((o.tileAt 0).mdone - (o.srcS (.mwait { a := 15, d := 3 }) 0).v.setWidth 32).toNat)) = true ∧
    ready (devMx 0) (.mwait { a := 9, d := 3 }) (fun o => (o.srcS (.mwait { a := 9, d := 3 }) 0).p) = true := by
  decide +kernel

theorem meets_MatrixSplitClearAndWriteBack :
    ready (withDesc 0 (devMx 0)) (.msplit { a := 4 }) (fun o => gives (readDesc o (o.srcS (.msplit { a := 4 }) 0) 64 false).1
      fun x => splitOk (BitVec.ofNat 512 x) o.iss.pre.gangsize) = true ∧
    ready (withDesc 1 (devMx 0)) (.msplit { a := 4 }) (fun o => gives (readDesc o (o.srcS (.msplit { a := 4 }) 0) 64 false).1
      fun x => !splitOk (BitVec.ofNat 512 x) o.iss.pre.gangsize) = true ∧
    (([.mclr { a := 10, b := 12, z := 1 }, .mclr { a := 11, b := 12, z := 0 }] : List Instr).all fun i => ready (devMx 0) i fun o =>
      let a := (o.srcS i 0).v.toNat
      let n := (o.srcS i 1).v.toNat
      decide (0x800000 ≤ a ∧ a < 0xB00000 ∧ a % 64 = 0 ∧ n % 64 = 0 ∧ a + n ≤ 0xB00000) && !(o.srcS i 0).p && !(o.srcS i 1).p) = true ∧
    (([.mclr { a := 13, b := 12, z := 0 }, .mclr { a := 14, b := 12, z := 0 }] : List Instr).all fun i => ready (devMx 0) i fun o =>
      let a := (o.srcS i 0).v.toNat
      decide (a < 0x800000 ∨ 0xB00000 ≤ a) && !(o.srcS i 0).p && !(o.srcS i 1).p) = true ∧
    (([.mclr { a := 9, b := 12, z := 0 }, .mclr { a := 10, b := 9, z := 0 }] : List Instr).all fun i => ready (devMx 0) i fun o =>
      (o.srcS i 0).p || (o.srcS i 1).p) = true ∧
    ((devMx 0).modTile 0 (mqOf 4)).turn (.mclr { a := 10, b := 12, z := 0 }) = true ∧
    ((devMx 0).modTile 0 (mqOf 4)).turn (.mwb { a := 4, d := 3 }) = true ∧
    (([.mclr { a := 16, b := 12, z := 0 }, .mclr { a := 10, b := 1, z := 0 }] : List Instr).all fun i => ready (devMx 0) i fun o =>
      let a := (o.srcS i 0).v.toNat
      let n := (o.srcS i 1).v.toNat
      decide (0x800000 ≤ a ∧ a < 0xB00000 ∧ (a % 64 ≠ 0 ∨ n % 64 ≠ 0)) && !(o.srcS i 0).p && !(o.srcS i 1).p) = true ∧
    ready (devMx 0) (.mclr { a := 11, b := 17, z := 0 }) (fun o =>
      let i : Instr := .mclr { a := 11, b := 17, z := 0 }
      let a := (o.srcS i 0).v.toNat
      let n := (o.srcS i 1).v.toNat
      decide (0x800000 ≤ a ∧ a < 0xB00000 ∧ a % 64 = 0 ∧ n % 64 = 0 ∧ 0xB00000 < a + n) && !(o.srcS i 0).p && !(o.srcS i 1).p) = true ∧
    ready (devMx 0) (.msplit { a := 9 }) (fun o => refuses (readDesc o (o.srcS (.msplit { a := 9 }) 0) 64 false).1 (0x0D, 0)) = true ∧
    ready (devMx 0) (.mwb { a := 9, d := 3 }) (fun o => refuses (readDesc o (o.srcS (.mwb { a := 9, d := 3 }) 0) 64 false).1 (0x0D, 0)) = true ∧
    (user []).aliases = [] ∧
    ([(3, 5, 9)] : List (Nat × BitVec 32 × BitVec 32)).find? (fun x => x.1 == 3 && x.2.1 == 5) = some (3, 5, 9) ∧
    ready (withDesc wbOne1 (devMx 0)) (.mwb { a := 4, d := 3 }) (fun o => gives (readDesc o (o.srcS (.mwb { a := 4, d := 3 }) 0) 64 false).1
      fun x => wbOk (BitVec.ofNat 512 x) o.iss.pre.gangsize) = true ∧
    ready (withDesc 0 (devMx 0)) (.mwb { a := 4, d := 3 }) (fun o => gives (readDesc o (o.srcS (.mwb { a := 4, d := 3 }) 0) 64 false).1
      fun x => !wbOk (BitVec.ofNat 512 x) o.iss.pre.gangsize) = true := by
  decide +kernel

/-- A device with one command at the head of the matrix queue. -/
def devQ (m : MCmd) : State := tiled (user mbase) fun x => { x with mq := [m] }

/-- A command that runs. -/
def runsCmd (k : MKind) : MCmd := { seq := 1, slot := 0, kind := k, began := true }

/-- The same descriptor with operand A in no region. -/
def mdBad : Vec := mdOne + BitVec.ofNat 2048 (0xC00000 * 2 ^ 768)

/-- What a step of a nest at the head of the queue gives. -/
def stepOfQ (d : Vec) :=
  let s := devQ (runsCmd (.go d 0 0))
  mstepRows (s.sramReads (stepReads s 0 0 d 0 0 (List.replicate 6 0))).1 0 0 d 0 0 (List.replicate 6 0)

theorem meets_MatrixEngineSteps :
    (devQ (runsCmd (.go mdOne 0 0))).quiet = true ∧
    (([.go mdOne 0 0, .go mdBad 0 0, .wb (BitVec.ofNat 512 wbOne1) 0, .wb (BitVec.ofNat 512 (0x30000 * 2 ^ 64 + 2 ^ 152)) 0] :
      List MKind).all fun k => !(devQ (runsCmd k)).matrixWaits 0 (runsCmd k)) = true ∧
    (let w : PortW := { home := 0, src := 0, eng := 3, pieces := [(spKey 0 0, 8, 5)], marks := [false], own := some (7, 0) }
     ({ devQ (runsCmd (.go mdOne 0 0)) with portE := [w] } : State).matrixWaits 0 (runsCmd (.go mdOne 0 0)) = true) ∧
    (let m : MCmd := { seq := 1, slot := 0, kind := .go mdOne 0 0 }
     m.began = false ∧ m.fin = false ∧ (devQ m).tiles.length = 1) ∧
    (runsCmd (.go mdOne 0 0)).runs = true ∧ passes (match stepOfQ mdOne with
      | .ok x => .ok x
      | .error _ => .error (0, 0)) = true ∧
    passes (match stepOfQ mdBad with
      | .ok x => .ok x
      | .error _ => .error (0, 0)) = false ∧
    (match (devQ { runsCmd (.go mdOne 0 0) with stall := some (0x100, false) }).engLoc 0 0 0x100 1 false true true with
      | .ok _ => true
      | _ => false) = true ∧
    passes (match wbRow (devQ (runsCmd (.wb (BitVec.ofNat 512 wbOne1) 0))) 0 0 (BitVec.ofNat 512 wbOne1) 0 0 with
      | .ok x => .ok x
      | .error _ => .error (0, 0)) = true ∧
    passes (match wbRow (devQ (runsCmd (.wb (BitVec.ofNat 512 (0x30000 * 2 ^ 64 + 2 ^ 152)) 0))) 0 0
        (BitVec.ofNat 512 (0x30000 * 2 ^ 64 + 2 ^ 152)) 0 0 with
      | .ok x => .ok x
      | .error _ => .error (0, 0)) = false ∧
    (runsCmd (.clr 0 64 true)).runs = true ∧
    (let m : MCmd := { runsCmd (.clr 0 64 true) with fin := true }
     m.fin = true ∧ m.err ≠ 4 ∧ ((devQ m).ctx? 0 m.slot).isSome = true ∧ ((devQ m).tileAt 0).mq.tail = []) := by
  decide +kernel

/-- R168: MCLR clears its bytes of the accumulator store when its writes are applied, and its DONE follows. -/
theorem test_mclr :
    let s := { devQ (runsCmd (.clr 0 64 false)) with mem := writeBlock [] (accKey 0 0) 8 0xFF }
    ((after (exec (.matrixClearRun 0) s)).bind fun t => after (exec (.portEWriteApply 0 0) t)).map (fun t => (t.mem, t.portE.length)) =
      some ([], 0) := by
  decide +kernel

/-! ## The Burin engines, the plates and the stacks -/

/-- A copy descriptor: kind, source, destination and length (R309). -/
def cpDesc (kind src dst len : Nat) : BitVec 512 := BitVec.ofNat 512 (src + dst * 2 ^ 64 + len * 2 ^ 128 + kind * 2 ^ 152)

/-- A device whose engine 0 and stack 0 are given; partition 0 holds span 0. -/
def devE (b : Burin) (k : Stack → Stack) : State :=
  { tiled (user mbase) fun x => { x with burin := [b, {}] } with hbm := [k { spans := [{ idx := 0, part := 0, key := 0 }] }] }

/-- A full engine queue. -/
def bFull : Burin := { q := (List.range 16).map fun n => { tag := BitVec.ofNat 32 n, slot := 0, d := 0, da := 0 } }

/-- The four words, on a good register. -/
def fc (a : BitVec 6) : FCopy := { a := a, d := 3, e := 0 }

theorem meets_CopyWords :
    ready (withDesc (cpDesc 2 0 0x1000 64).toNat (devMx 0)) (.cpy (fc 4)) (fun o => !(o.burinAt 0 0).full &&
      gives (readDesc o (o.srcS (.cpy (fc 4)) 0) 64 true).1 fun x => cpyOk (BitVec.ofNat 512 x) o.iss.pre.gangsize) = true ∧
    ready (withDesc (2 ^ 155) (devMx 0)) (.cpy (fc 4)) (fun o => !(o.burinAt 0 0).full &&
      gives (readDesc o (o.srcS (.cpy (fc 4)) 0) 64 true).1 fun x => !cpyOk (BitVec.ofNat 512 x) o.iss.pre.gangsize) = true ∧
    ready (devMx 0) (.cpy (fc 9)) (fun o => !(o.burinAt 0 0).full && refuses (readDesc o (o.srcS (.cpy (fc 9)) 0) 64 true).1 (0x0D, 0)) = true ∧
    ready (devE bFull id) (.cpy (fc 4)) (fun o => (o.burinAt 0 0).full) = true ∧
    ready (devMx 0) (.cwait (fc 0)) (fun o => decide (((o.burinAt 0 0).done - (o.srcS (.cwait (fc 0)) 0).v.setWidth 32).toNat < 2 ^ 31)) = true ∧
    ready (devMx 0) (.cwait (fc 15)) (fun o => !(o.srcS (.cwait (fc 15)) 0).p &&
      decide (2 ^ 31 ≤ ((o.burinAt 0 0).done - (o.srcS (.cwait (fc 15)) 0).v.setWidth 32).toNat)) = true ∧
    (([.cstat (fc 1), .ccan (fc 1)] : List Instr).all fun i => ready (devMx 0) i fun o => !(o.srcS i 0).p) = true ∧
    (([.cwait (fc 9), .cstat (fc 9), .ccan (fc 9)] : List Instr).all fun i => ready (devMx 0) i fun o => (o.srcS i 0).p) = true := by
  decide +kernel

/-- A command of an engine: kind, and whether it has begun. -/
def cmdE (kind len : Nat) (began : Bool) : Copy :=
  { tag := 1, slot := 0, d := cpDesc kind (if kind = 1 then 0x1000 else 0) (if kind = 1 then 0x2000 else 0x1000) len, da := 0x100, began := began, next := if began then len else 0 }

/-- A unit of that command in a state. -/
def unitE (st : UnitSt) : CUnit := { uid := 7, tag := 1, off := 0, len := 64, va := 0x2000, pa := 0x2000, st := st }

/-- An engine with one command and one unit. -/
def bE (c : Copy) (st : UnitSt) : Burin := { q := [c], units := [unitE st] }

theorem meets_CopyEngineSteps :
    (let s := devE { q := [cmdE 2 64 false] } id
     (s.burinAt 0 0).nextBegin = some (cmdE 2 64 false) ∧ s.mayBegin 0 0 (cmdE 2 64 false) = true) ∧
    (([.committed 5, .ready 5, .failed 1 3 0] : List UnitSt).all fun st =>
      let s := devE (bE (cmdE 0 64 true) st) id
      (s.burinAt 0 0).units.head? == some (unitE st) && s.copyOf 0 0 1 == some (cmdE 0 64 true)) = true ∧
    (cmdE 0 64 true).stall = none ∧ cpFill (cmdE 0 64 true).d = true ∧
    (let s := devE (bE (cmdE 0 64 true) (.ready 5)) id
     let v := s.modBurin 0 0 fun b => { b with q := [] }
     v.copyOf 0 0 1 = none ∧ (UnitSt.ready 5).kept = true) ∧
    (let c := cmdE 2 64 true
     let s := devE (bE c (.ready 0)) id
     cpFill c.d = false ∧ cpWrite c.d = false ∧ cpKIND c.d ≠ 3 ∧
     (match readSide s 0 0 0 (cpSRC c.d) (cpSRC c.d) 64 false [] with
      | (v, .ok _) => match destPlaces v 0 c 0 64 with
        | .ok _ => true
        | _ => false
      | _ => false) = true) ∧
    (match destPlaces (devE (bE (cmdE 0 64 true) (.ready 5)) id) 0 (cmdE 0 64 true) 0 64 with
      | .ok _ => true
      | _ => false) = true ∧
    (let s := devE { q := [{ cmdE 2 64 true with stall := some (0, 0x100, false) }, { cmdE 2 64 true with stall := some (0, 0x30000, false) }] } id
     s.stallServed 0 0 (0, 0x100, false) = true ∧ s.stallServed 0 0 (0, 0x30000, false) = false) ∧
    (let c : Copy := { cmdE 2 64 true with fin := true, doneb := 64 }
     let s := devE { q := [c] } id
     (s.burinAt 0 0).q.head? = some c ∧ c.stall = none ∧ s.crcBad 0 0 c = false ∧ cpRECEN c.d = false ∧ cpBAREN c.d = false ∧
     (s.modCopy 0 0 c.tag fun c => ({ c with phase := Nat.max c.phase 1 } : Copy)).copyOf 0 0 c.tag = some { c with phase := 1 }) := by
  decide +kernel

/-- A walk of partition 0 for the page of 0x2000, an engine whose fetches hold its table read, and the table entries of a walk. -/
def walkE : Walk := { part := 0, page := 0, tile := 0, eng := 0, need := 0 }

/-- A device whose partition 0 has its root at 0x100000. -/
def devWalk (b : Burin) (w : List Walk) : State :=
  let s := devE b id
  { s with parts := [some { root := some 0x100000, mask := 1 }], dies := [{ walking := w }] }

/-- What a read of partition 0 at the address `va` gives with some entries known. -/
def walkOf (va : Nat) (known : List (Nat × Nat)) : WalkRes :=
  (devWalk {} []).walkVa 0 0 va 1 (known.map fun x => (x.1, BitVec.ofNat 64 x.2))

/-- A valid entry, a leaf that may be read, and the keys of the second and the third level at address 0. -/
def pteV1 (n : Nat) : Nat := 2 ^ 63 + n

/-- Every outcome of a walk: the address range, no root, the entries needed, and at each level an invalid, a misplaced and a good entry. -/
theorem meets_Walks :
    let s := devWalk { units := [unitE .walk] } []
    (s.dieAt 0).walkOf 0 0 = none ∧ ((s.burinAt 0 0).flights.any fun u => u.wants 0x2000 false && u.acc == 1) = true ∧
    (let s := devWalk { fetch := [{ unitE (.ready 5) with kind := .table, va := 0 }] } [walkE]
     (s.dieAt 0).walkOf 0 0 = some walkE ∧ (s.tableUnit walkE).map (·.st) = some (.ready 5)) ∧
    (let s := devWalk { fetch := [{ unitE (.failed 4 0 1) with kind := .table, va := 0 }] } [walkE]
     (s.tableUnit walkE).map (·.st) = some (.failed 4 0 1)) ∧
    walkOf (2 ^ 48) [] = .fail 1 false ∧ (devE {} id).walkVa 0 0 0 1 [] = .fail 3 false ∧
    walkOf (2 ^ 48 - 1) [] = .need 1023 (0x100000 + 8 * 1023) ∧ walkOf 0 [(0, 0)] = .fail 3 false ∧
    walkOf 0 [(0, pteV1 (2 ^ 59))] = .fail 4 false ∧ walkOf 0 [(0, pteV1 0xFE0000000)] = .fail 5 false ∧
    walkOf 0x20000000 [(0, pteV1 0x1000)] = .need (2 ^ 20 + 1) 0x1008 ∧
    walkOf 0 [(0, pteV1 0x1000), (2 ^ 20, 0)] = .fail 3 false ∧
    walkOf 0 [(0, pteV1 0x1000), (2 ^ 20, pteV1 0x1000)] = .fail 4 false ∧
    walkOf 0 [(0, pteV1 0x1000), (2 ^ 20, pteV1 0xFE0000000)] = .fail 5 false ∧
    walkOf 0x10000 [(0, pteV1 0x1000), (2 ^ 20, pteV1 0x10000)] = .need (2 ^ 40 + 1) 0x10008 ∧
    (match walkOf 0 [(0, pteV1 0x1000), (2 ^ 20, pteV1 (2 ^ 59 + 2 ^ 62))] with
      | .ok _ true _ => true
      | _ => false) = true ∧
    walkOf 0 [(0, pteV1 0x1000), (2 ^ 20, pteV1 (2 ^ 59 + 2 ^ 62 + 2 ^ 16))] = .fail 4 true ∧
    walkOf 0 [(0, pteV1 0x1000), (2 ^ 20, pteV1 0x10000), (2 ^ 40, 0)] = .fail 3 false ∧
    walkOf 0 [(0, pteV1 0x1000), (2 ^ 20, pteV1 0x10000), (2 ^ 40, pteV1 0)] = .fail 4 false ∧
    walkOf 0 [(0, pteV1 0x1000), (2 ^ 20, pteV1 0x10000), (2 ^ 40, pteV1 (2 ^ 59 + 0xFE0000000))] = .fail 5 false ∧
    walkOf 0 [(0, pteV1 0x1000), (2 ^ 20, pteV1 0x10000), (2 ^ 40, pteV1 (2 ^ 59))] = .fail 7 false ∧
    (let s := { devWalk {} [] with parts := [some { root := some 0x100000 }, some { root := some 0x100000 }] }
     s.walkVa 0 1 0 1 [(0, BitVec.ofNat 64 (pteV1 0x1000)), (2 ^ 20, BitVec.ofNat 64 (pteV1 (2 ^ 59)))] = .fail 6 true) := by
  decide +kernel

theorem meets_PlatesAndCounters :
    (([0, 1, 2] : List Nat).all fun out =>
      let s := devE (bE (cmdE 0 64 true) (.lines 5 0 out)) id
      (s.burinAt 0 0).flights.find? CUnit.filled == some (unitE (.lines 5 0 out)) && !(s.inject 0 4).1) = true ∧
    (let s := devE (bE (cmdE 1 64 true) (.writing 5 0)) id
     ((s.burinAt 0 0).units.find? fun u => u.performed && earlierDone u (s.burinAt 0 0).units) = some (unitE (.writing 5 0))) ∧
    (let s := devE (bE (cmdE 1 64 true) (.ready 5)) id
     let u := unitE (.ready 5)
     nextWrite (s.burinAt 0 0).writers (s.burinAt 0 0).units [] = some u ∧ s.copyOf 0 0 u.tag = some (cmdE 1 64 true) ∧
     (s.stackAt 0).heldFor u.pa 0 0 u.uid = false ∧ s.plateOut (s.partOf 0) (pteKEY u.pte) (pteHSEL u.pte) u.pa = 0 ∧
     (match readSide s 0 0 0 0x1000 0x1000 64 false [] with
      | (_, .ok _) => true
      | _ => false) = true ∧ (s.stackAt 0).exhaust u.pa = none ∧ (s.stackAt 0).needs u.pa = none ∧ stkOf u.pa < s.hbm.length) ∧
    (let s := devE (bE (cmdE 1 64 true) (.held 5)) fun k => { k with holds := [(2, 1, 0, 3)] }
     (s.stackAt 0).heldFor 0x2000 0 0 7 = true) ∧
    (let k := (devE (bE (cmdE 1 64 true) (.held 5)) fun k => { k with roots := [(0, { minors := [(0, 0xFFFF)], major := 2 ^ 40 - 1 })] }).stackAt 0
     let s := devE (bE (cmdE 1 64 true) (.held 5)) fun _ => k
     (k.exhaust 0x2000).isSome = true ∧ k.heldFor 0x2000 0 0 7 = false ∧
     ((s.failUnit 0 0 7 4 0 3).copyOf 0 0 1).isSome = true) ∧
    (let s := devE (bE (cmdE 1 64 true) (.sealing 5)) fun k =>
       { k with reseals := [{ idx := 0, tile := 0, eng := 0, uid := 7, wr := true, i := 65 }], groups := [(0, { st := .failed })] }
     ((s.stackAt 0).leaf 0).st = .failed) ∧
    (let s := devE (bE (cmdE 1 64 true) (.ready 5)) fun k => { k with spans := [] }
     s.plateOut (s.partOf 0) 0 0 0x2000 = 4) ∧
    (let s := devE (bE (cmdE 1 64 true) (.ready 5)) fun k => { k with groups := [(0, { minors := [(2, 0xFFFF)] })] }
     (s.stackAt 0).needs 0x2000 = some 0 ∧ (s.stackAt 0).exhaust 0x2000 = none ∧ s.resealFree 0 0 (unitE (.ready 5)) 0 = true ∧
     earlierDone (unitE (.ready 5)) (s.burinAt 0 0).units = true) ∧
    (let s := devE (bE (cmdE 1 64 true) (.ready 5)) fun k => { k with nodes := [(0, { minors := [(0, 0xFFFF)] })] }
     (s.stackAt 0).needs 0x2000 = some 1 ∧ (s.stackAt 0).exhaust 0x2000 = none ∧ s.resealFree 0 0 (unitE (.ready 5)) 1 = true) ∧
    (let s := devE (bE (cmdE 1 64 true) (.ready 5)) fun k => { k with roots := [(0, { minors := [(0, 0xFFFF)] })] }
     (s.stackAt 0).needs 0x2000 = some 2 ∧ (s.stackAt 0).exhaust 0x2000 = none ∧ s.resealFree 0 0 (unitE (.ready 5)) 2 = true) ∧
    (let s := devE (bE (cmdE 1 64 true) (.ready 5)) fun k => { k with roots := [(0, { minors := [(0, 0xFFFF)], major := 2 ^ 40 - 1 })] }
     ((s.stackAt 0).exhaust 0x2000).isSome = true) ∧
    (([false, true] : List Bool).all fun bad =>
      let r : Reseal := { idx := 0, tile := 0, eng := 0, uid := 7, wr := true, i := 65, bad := bad }
      let s := devE (bE (cmdE 1 64 true) (.sealing 5)) fun k => { k with reseals := [r] }
      (s.stackAt 0).reseals.find? (fun x => x.code == 0 && x.over) == some r && r.level == 0 && !(s.stackAt 0).groupBad 0 &&
      ((s.burinAt 0 0).units.find? fun u => u.uid == 7) == some (unitE (.sealing 5))) = true ∧
    (let r : Rotate := { part := 0, key := 0, old := 0, groups := [0, 1] }
     let s := devE {} fun k => { k with rotate := some r }
     (s.stackAt 0).rotate = some r ∧ 0 ∈ r.groups ∧ s.busyIn 0 18 512 0 0 = false ∧ (s.stackAt 0).heldFor 0 512 0 0 = false ∧
     0 < s.hbm.length) := by
  decide +kernel

/-- A request of tile `t` for engine 0's unit 7. -/
def reqOf (t : Nat) (wr : Bool) (st : ReqSt) : LineReq := { tile := t, eng := 0, uid := 7, line := 0, pc := 3, wr := wr, st := st }

/-- A device with one request at stack 0. -/
def devRq (r : LineReq) : State := devE (bE (cmdE 0 64 true) (.lines 5 2 0)) fun k => { k with reqs := [r] }

/-- The same with the read calendar of pseudo-channel 3 at a slot. -/
def devAt (n : Nat) (r : LineReq) : State :=
  devE (bE (cmdE 0 64 true) (.lines 5 2 0)) fun k => { k with reqs := [{ r with fresh := false }], cals := [(calCode 3 false, { next := n })] }

theorem meets_StackEvents :
    ((devRq (reqOf 0 true .served)).stackAt 0).reqs[0]? = some (reqOf 0 true .served) ∧
    ((devRq (reqOf 64 false .served)).stackAt 0).reqs[0]? = some (reqOf 64 false .served) ∧ dieOf 64 ≠ 0 ∧
    ((devRq (reqOf 0 false (.refused 5 2))).stackAt 0).reqs[0]? = some (reqOf 0 false (.refused 5 2)) ∧
    (((devRq (reqOf 0 false (.refused 5 2))).burinAt 0 0).units.find? fun u => u.uid == 7) = some (unitE (.lines 5 2 0)) ∧
    (reqOf 0 false (.refused 5 2)).reseal = false ∧ ((devRq (reqOf 0 false .waiting)).stackAt 0).answering 3 63 false = false ∧
    ((devRq (reqOf 0 false .waiting)).stackAt 0).flaws = [] ∧ (devE {} id).hbm.length = 1 ∧
    ((devE {} fun k => { k with ownNew := [(true, 0, 0x40), (false, 1, 0x41)] }).stackAt 0).ownNew.head? = some (true, 0, 0x40) ∧
    (let s := devE {} fun k => { k with quiesce := true }
     (s.stackAt 0).quiesce = true ∧ (s.stackAt 0).quiesced = false ∧ (s.stackAt 0).reqs = []) ∧
    ((devE {} fun k => { k with retrain := some 1 }).stackAt 0).retrain = some 1 := by
  decide +kernel

/-- The slots of a calendar: a request in its owner's slot, in another's, in the slot of its hint and before it, and idle slots. -/
theorem meets_ClosingPoints :
    ((devAt 0 (reqOf 0 false .waiting)).toSlot 0 3 0 false).isSome = true ∧
    (devAt 0 (reqOf 0 false .waiting)).closingPick 0 3 false = some (0, true, false, none) ∧
    (devAt 0 (reqOf 0 false .waiting)).mayRefuse 0 3 false 4 = true ∧ (devAt 0 (reqOf 0 false .waiting)).mayRefuse 0 3 false 5 = false ∧
    (devAt 63 (reqOf 0 false .waiting)).closingPick 0 3 false = some (0, false, false, some 0) ∧
    (devAt 63 (reqOf 0 false (.hinted 63 1))).closingPick 0 3 false = some (0, true, true, none) ∧
    (devAt 5 (reqOf 0 false (.hinted 63 1))).closingPick 0 3 false = none ∧
    ((devE {} id).toSlot 0 3 200 true).isSome = true ∧
    ((devRq (reqOf 0 false .served)).stackAt 0).reqs.all (fun r => r.held || r.st == .served) = true := by
  decide +kernel

/-- R308 to R315: a LOCAL copy of 64 bytes, from its beginning to the application of its write. -/
theorem test_local_copy :
    let s := { devE { q := [cmdE 2 64 false], seq := 1 } id with mem := writeBlock [] (spKey 0 0) 8 0x1122334455667788 }
    ((((after (exec (.copyBegin 0 0) s)).bind fun t => after (exec (.copyUnitRetire 0 0) t)).bind fun t => after (exec (.copyUnitRetire 0 0) t)).bind
      fun t => after (exec (.portEWriteApply 0 0) t)).map (fun t => (t.rd (spKey 0 0x1000) 8, ((t.burinAt 0 0).q.map fun c => (c.doneb, c.fin)))) =
      some (0x1122334455667788, [(64, true)]) := by
  decide +kernel

/-- R259: the states of temperature and their hysteresis. -/
theorem test_thermal_states :
    nextTstate 0 85 = 0 ∧ nextTstate 0 86 = 1 ∧ nextTstate 1 82 = 1 ∧ nextTstate 1 81 = 0 ∧ nextTstate 0 96 = 2 ∧ nextTstate 2 92 = 2 ∧
    nextTstate 2 91 = 1 := by
  decide

/-! ## Links and schedules -/

/-- A transfer descriptor: place, length, key and peer (R382). -/
def lkDesc (a len key peer : Nat) : BitVec 512 := BitVec.ofNat 512 (a + len * 2 ^ 64 + key * 2 ^ 96 + peer * 2 ^ 112 + 2 ^ 132)

/-- A link command of the context. -/
def lcmd (kind : Nat) (d : BitVec 512) : LCmd := { tag := 1, age := 5, gang := 1, task := 0, kind := kind, port := 0, d := d, da := 0x100, r := 0 }

/-- A flit from package 9; one of a transfer has KEY 3. -/
def flit (body : FlitBody) : Flit :=
  { src := 9, dest := 0, key := if flitType body ≤ 4 then 3 else 0, lenb := 8, ack := 0, seq := 0, nak := false, body := body }

/-- A device with link commands and a port. -/
def devL (q : List LCmd) (p : Port) : State :=
  { tiled (user mbase) fun x => { x with link := { q := q } } with ports := [{ p with en := true, state := if p.state = 0 then 2 else p.state }] }

/-- A schedule of packages 0 and 9 over port 0. -/
def sched : Sched := { members := [(0, 0, true), (9, 0, true)], epoch := 1 }

/-- A schedule's descriptor: one FP32 element at 0x1000, SAVE at 0x2000, the table at 0x3000, MYID 0. -/
def scDesc : BitVec 512 := BitVec.ofNat 512 (0x1000 + 0x2000 * 2 ^ 64 + 0x3000 * 2 ^ 128 + 2 ^ 192 + 2 ^ 224)

/-- The words with their kinds. -/
def linkWords (a : BitVec 6) : List (Instr × Nat) :=
  let f : FLink := { a := a, d := 3, p := 0 }
  [(.lsend f, 0), (.lrecv f, 1), (.lradd f, 2)]

/-- A device with a schedule's descriptor at 0x100 and its table, of three doublewords, at 0x3000. -/
def devTab (d : BitVec 512) (tab : Nat) : State :=
  { withDesc d.toNat (devL [] {}) with mem := writeBlock (writeBlock [] (spKey 0 0x100) 64 d.toNat) (spKey 0 0x3000) 24 tab }

/-- The table of packages 0 and 9. -/
def tab9 : Nat := 2 + 2 ^ 16 + 2 ^ 84 + (9 + 2 ^ 20) * 2 ^ 128

/-- LSCHED of the descriptor in s4: what its table gives, or the trap. -/
def schedReads (s : State) (d : BitVec 512) (q : Option (Nat × List (Nat × Nat × Bool)) → Bool) : Bool :=
  ready s (.lsched { a := 4, d := 3 }) fun o => !(o.tileAt 0).link.full &&
    gives (readDesc o (o.srcS (.lsched { a := 4, d := 3 }) 0) 64 true).1 (fun x => BitVec.ofNat 512 x == d && schedOk d o.iss.pre.gangsize) &&
    gives (readTable (readDesc o (o.srcS (.lsched { a := 4, d := 3 }) 0) 64 true).2 (scMTAB d)).1 q

theorem meets_LinkWords :
    ((linkWords 4).all fun e => ready (withDesc (lkDesc 0x1000 8 3 9).toNat (devL [] {})) e.1 fun o => !(o.tileAt 0).link.full &&
      gives (readDesc o (o.srcS e.1 0) 64 true).1 fun x => linkOk (BitVec.ofNat 512 x) e.2 o.iss.pre.gangsize) = true ∧
    ((linkWords 4).all fun e => ready (withDesc (2 ^ 30) (devL [] {})) e.1 fun o => !(o.tileAt 0).link.full &&
      gives (readDesc o (o.srcS e.1 0) 64 true).1 fun x => !linkOk (BitVec.ofNat 512 x) e.2 o.iss.pre.gangsize) = true ∧
    ((linkWords 9).all fun e => ready (devL [] {}) e.1 fun o => !(o.tileAt 0).link.full &&
      refuses (readDesc o (o.srcS e.1 0) 64 true).1 (0x0D, 0)) = true ∧
    ((linkWords 4).all fun e => ready (devL (List.replicate 8 (lcmd 0 0)) {}) e.1 fun o => (o.tileAt 0).link.full) = true ∧
    schedReads (devTab scDesc tab9) scDesc (fun t => t == some (1, sched.members)) = true ∧ (sched.rankOf (scMYID scDesc)).isSome = true ∧
    schedReads (devTab scDesc 0) scDesc (fun t => t == none) = true ∧
    (let d := scDesc + BitVec.ofNat 512 (7 * 2 ^ 304)
     schedReads (devTab d tab9) d (fun t => t == some (1, sched.members)) = true ∧ sched.rankOf (scMYID d) = none) ∧
    (let d := scDesc + BitVec.ofNat 512 (0x2D000 * 2 ^ 128)
     ready (devTab d tab9) (.lsched { a := 4, d := 3 }) (fun o => !(o.tileAt 0).link.full && schedOk d o.iss.pre.gangsize &&
       refuses (readTable (readDesc o (o.srcS (.lsched { a := 4, d := 3 }) 0) 64 true).2 (scMTAB d)).1 (0x0C, 0x30000)) = true) ∧
    (let d := scDesc + BitVec.ofNat 512 (2 ^ 228 * 3)
     ready (devTab d tab9) (.lsched { a := 4, d := 3 }) (fun o => !(o.tileAt 0).link.full && !schedOk d o.iss.pre.gangsize) = true) ∧
    ready (devL [] {}) (.lsched { a := 9, d := 3 }) (fun o => !(o.tileAt 0).link.full &&
      refuses (readDesc o (o.srcS (.lsched { a := 9, d := 3 }) 0) 64 true).1 (0x0D, 0)) = true ∧
    ready (devL (List.replicate 8 (lcmd 0 0)) {}) (.lsched { a := 4, d := 3 }) (fun o => (o.tileAt 0).link.full) = true ∧
    ready (devL [] {}) (.lstat { a := 1, d := 3 }) (fun o => !(o.srcS (.lstat { a := 1, d := 3 }) 0).p) = true ∧
    ready (devL [] {}) (.lstat { a := 9, d := 3 }) (fun o => (o.srcS (.lstat { a := 9, d := 3 }) 0).p) = true := by
  decide +kernel

/-- A port that is UP, one that trains, one at the eighth failure and the eighth NAK, and one of a gated package. -/
theorem meets_PortFlits :
    (let s := devL [] {}
     let x := s.portAt 0
     let f := flitSealed (flit (.data 5))
     0 < s.ports.length ∧ x.state = 2 ∧ x.en = true ∧ f.crc = flitCheck f ∧ f.dest = s.pkgId ∧ f.nak = false ∧ f.seq = x.rxSeq ∧
     flitType f.body ≠ 6 ∧ f.body ≠ .hold ∧ s.stale f = false ∧ x.out = [] ∧
     (flitSealed { f with seq := 4095 }).seq ≠ x.rxSeq ∧ (flitSealed { f with dest := 1 }).dest ≠ s.pkgId ∧
     { f with crc := 1 }.crc ≠ flitCheck { f with crc := 1 } ∧ x.fails < 7 ∧ (x.nakSeq ≠ 5 ∨ x.naks < 7) ∧
     seqBefore x.rxSeq 4095 = false ∧ seqBefore x.rxSeq 1 = true ∧ x.nakOut = false) ∧
    (let x : Port := { rxSeq := 5, rxPos := 9, nakOut := true }
     x.nakOut = true ∧ seqBefore x.rxSeq 8 = true ∧ seqBefore 8 x.rxPos = true ∧ seqBefore 9 x.rxPos = false) ∧
    (let k := { sched with epoch := 2 }
     let s := devL [{ lcmd 3 scDesc with st := 3, sched := some k }] {}
     s.stale (flit (.commit 0 1)) = true ∧ s.stale (flit (.commit 0 2)) = false) ∧
    (∀ c, flitType (flit (.idle c)).body = 6 ∧ (flit (.idle c)).dest = 0 ∧ (flit (.idle c)).nak = false) ∧
    7 ≤ ((devL [] { fails := 7 }).portAt 0).fails ∧
    (((devL [] { nakSeq := 5, naks := 7 }).portAt 0).nakSeq = 5 ∧ 7 ≤ ((devL [] { nakSeq := 5, naks := 7 }).portAt 0).naks) ∧
    (((devL [] { state := 1 }).portAt 0).state = 1 ∧ ((devL [] { state := 1 }).portAt 0).en = true) ∧
    ({ devL [] {} with gated := true }.gated = true ∧ (({ devL [] {} with gated := true }.portAt 0).replay.length < 256)) := by
  decide +kernel

/-- A device whose port has received a flit for one command. -/
def devR (m : LCmd) (b : FlitBody) : State := devL [m] { rx := [flit b] }

/-- A receiver that waits for data. -/
def rcv : LCmd := { lcmd 1 (lkDesc 0x1000 8 3 9) with st := 2 }

/-- A send that goes on. -/
def snd (len : Nat) : LCmd := { lcmd 0 (lkDesc 0x1000 len 3 9) with st := 3 }

theorem meets_LinkEngineEvents :
    (let s := devR rcv (.clear 8 5 none)
     (s.portAt 0).rx[0]? = some (flit (.clear 8 5 none)) ∧
     rxFirst (s.portAt 0).rx (fun f => match f.body with | .clear _ _ _ => true | _ => false) = some 0) ∧
    (let who := fun (q : List LCmd) (run : Option (Nat × Nat)) => oldest ((devL q {}).linkCmds.filter fun x =>
       x.2.sends && x.2.st == 2 && !x.2.fin && x.2.port == 0 && lkPEER x.2.d == 9 && lkKEY x.2.d == 3 && x.2.run == run)
     who [{ snd 8 with st := 2 }] none = some (0, { snd 8 with st := 2 }) ∧ lkLEN (snd 8).d = 8 ∧ who [rcv] none = none ∧
     (some (0, 1)).any ((devL [{ lcmd 3 scDesc with sched := some { sched with epoch := 2 } }] {}).leftEpoch 9) = true ∧
     (none : Option (Nat × Nat)).any ((devL [] {}).leftEpoch 9) = false) ∧
    (let m := { snd 8 with last := true, mate := 6 }
     let s := devR m (.done 6)
     (s.portAt 0).rx[0]? = some (flit (.done 6)) ∧ rxFirst (s.portAt 0).rx (fun f => (doneOf f.body).isSome) = some 0 ∧
     oldest ((s.modPort 0 fun y => { y with rx := y.rx.eraseIdx 0 }).linkCmds.filter fun x => x.2.sends && x.2.last && !x.2.fin && x.2.port == 0 &&
       lkPEER x.2.d == 9 && lkKEY x.2.d == 3 && doneOf (.done 6) == some x.2.mate) = some (0, m)) ∧
    (let s := devL [] { rx := [flit (.leave 3 5)] }
     rxFirst (s.portAt 0).rx (fun f => isControl f.body) = some 0 ∧ (s.receivers 0 9 3).find? (fun x => x.2.age == 5) = none) ∧
    ((devL [] {}).isClosing 0 = false) ∧
    ({ devL [{ lcmd 1 0 with gang := 1 }] {} with parts := [some { closing := some .host }] }.linksBusy 0 = true) ∧
    (([.abort 3 5, .lengthError 3 5, .leave 3 5] : List FlitBody).all fun b =>
      let s := devR rcv b
      rxFirst (s.portAt 0).rx (fun f => isControl f.body) == some 0 &&
      ((s.modPort 0 fun y => { y with rx := y.rx.eraseIdx 0 }).receivers 0 9 3).find? (fun x => x.2.age == 5) == some (0, rcv)) = true ∧
    (([.query 0 1 1, .answer 0 1 0 true] : List FlitBody).all fun b =>
      (devR rcv b).portAt 0 |>.rx |> fun l => l[0]? == some (flit b) && rxFirst l (fun f => isControl f.body) == some 0) = true ∧
    (([(.data 5, false), (.last 5, true)] : List (FlitBody × Bool)).all fun e =>
      let s := devR rcv e.1
      rxFirst (s.portAt 0).rx (s.canDeliver 0 e.2) == some 0 && dataOf e.1 == some (5, e.2)) = true ∧
    (([(241, false), (240, true)] : List (Nat × Bool)).all fun e =>
      let s := devL [snd e.1] {}
      rxFirst (s.portAt 0).rx (s.canDeliver 0 e.2) == none && s.portRoom 0 && s.nextSend 0 == some (0, snd e.1) &&
      (snd e.1).atLast == e.2) = true ∧
    (let m := { rcv with fin := true }
     let s := devL [m] {}
     (s.tileAt 0).link.q.find? (fun m => m.tag.toNat == 1 && !m.sub) = some m ∧ s.linkReady 0 m = true ∧ s.linkRecord 0 m = none ∧
     0 < s.tiles.length) ∧
    (([(0x100, fun l => match l with | some (.ok _) => true | _ => false), (0x20000, fun l => l == some .access),
       (0x30000, fun l => l == some .stall)] : List (Nat × (Option EngLoc → Bool))).all fun e =>
      let m : LCmd := { lcmd 1 (lkDesc 0x1000 8 3 9 + BitVec.ofNat 512 (2 ^ 144)) with fin := true, da := e.1 }
      let s := devL [m] {}
      s.linkReady 0 m && e.2 (s.linkRecord 0 m)) = true := by
  decide +kernel

/-- A schedule under way at rank 0 or 1. -/
def devSc (me : Nat) (l : List Flit) : State :=
  devL [{ lcmd 3 (scDesc + BitVec.ofNat 512 (me * 2 ^ 304)) with st := 3, sched := some sched }] { rx := l }

theorem meets_Schedules :
    (((devSc 0 []).schedOf 0 1).isSome = true ∧ sched.rankOf 0 = some 0 ∧ sched.rankOf 9 = some 1 ∧
      ((devSc 0 []).schedOf 0 1).map (fun x => (devSc 0 []).linkServed 0 x.1) = some true ∧
      ((devSc 9 []).schedOf 0 1).map (fun x => x.2.rankOf (scMYID x.1.d)) = some (some 1)) ∧
    (([(0, .memberDone 0 1 1, isDone 1), (9, .commit 0 1, isCommit), (0, .fail 0 1 [1], fun b => (failRanks b).contains 1),
       (9, .restart 0 1 [0], isRestart 2 [0])] : List (Nat × FlitBody × (FlitBody → Bool))).all fun e =>
      (((devSc e.1 [flit e.2.1]).takeFrom (scDesc + BitVec.ofNat 512 (e.1 * 2 ^ 304)) sched e.2.2).map fun r => r.1) == some (flit e.2.1)) = true ∧
    ((devSc 0 []).schedOf 0 2 = none) ∧
    (let k := { sched with failed := [0] }
     k.lead = 1 ∧ k.rankOf 9 = some 1 ∧ k.queried = false ∧
     ((devL [{ lcmd 3 (scDesc + BitVec.ofNat 512 (9 * 2 ^ 304)) with st := 3, sched := some k }] {}).schedOf 0 1).isSome = true) ∧
    (([[(8, true)], [(8, false)]] : List (List (Nat × Bool))).all fun a =>
      let k := { sched with members := (8, 0, true) :: sched.members, failed := [8, 0], queried := true, answers := a }
      k.lead == 2 && k.rankOf 9 == some 2 && k.live.all fun x => x.1 == 9 || k.failed.contains x.1 || k.answers.any fun y => y.1 == x.1) = true ∧
    (let k := { sched with stepsDone := true, told := true }
     let m : LCmd := { lcmd 3 scDesc with st := 3, sched := some k }
     let s := devL [m] {}
     s.schedOf 0 1 = some (m, k) ∧ s.waitsOn 0 m k 1 = true ∧ k.live[1]? = some (9, 0) ∧ (s.portAt 0).holds.contains 9 = false ∧
     ((devL [m] { holds := [9] }).portAt 0).holds.contains 9 = true ∧ s.waitsOn 0 m k 0 = false) := by
  decide +kernel

/-- R378: a flit whose number is not the next one is not taken. -/
theorem test_flit_order :
    (after (exec (.flitReceive 0 (flitSealed { flit (.data 5) with seq := 1 }) false) (devL [] {}))).map
      (fun t => ((t.portAt 0).rx.length, (t.portAt 0).rxSeq)) = some (0, 0) ∧
    (after (exec (.flitReceive 0 (flitSealed (flit (.data 5))) false) (devL [] {}))).map
      (fun t => ((t.portAt 0).rx.length, (t.portAt 0).rxSeq)) = some (1, 1) := by
  decide +kernel

/-- R389: chunks and partners of the ring over 4 members. -/
theorem test_ring : chunkOf 10 4 1 = (2, 5) ∧ stepCount 0 4 = 6 ∧ stepOf 0 8 4 1 0 = (some (2, (2, 4)), some (0, (0, 2), true)) := by decide

/-! ## Semaphores, heaps and jobs -/

/-- A packet of one task with its entry at 0x100, and one of kind RANGE over [0, 8) (R182). -/
def pkt1 : BitVec 512 := BitVec.ofNat 512 (0x100 + 0x100 * 2 ^ 64 + 0x200 * 2 ^ 128 + 2 ^ 192 + 2 ^ 202 + 2 ^ 212)

/-- The same as a range job. -/
def pktR : BitVec 512 := pkt1 + BitVec.ofNat 512 (2 ^ 51 + 8 * 2 ^ 416)

/-- A job in control block 0. -/
def job (p : BitVec 512) : Job := { slot := 0, gen := 1, pkt := p, part := 0, e := 2, left := 0, age := 0 }

/-- Its handle. -/
def jh : Nat := 2 ^ 16

/-- A device with a gang of one member and a job; `c` changes the context, `d` the die. -/
def devJ (l : List (Nat × SVal)) (c : Ctx → Ctx) (d : Die → Die) : State :=
  { mini (c { user (base ++ l) with jobh := 0x10000 }) with
    gangs := [{ id := 1, job := 0x10000, pkt := pkt1, members := [{ tile := 0, slot := some 0, sems := List.range 32 }] }],
    dies := [d { jobs := [job pkt1], nextSlot := 1, nextAge := 1 }] }

/-- Some scalar values: s16 = 2^32, s17 = 2^32 - 1, s18 the job's handle, s19 an earlier one, s20 = 1, s21 = 64. -/
def jregs : List (Nat × SVal) := [(16, sv (2 ^ 32)), (17, sv (2 ^ 32 - 1)), (18, sv jh), (19, sv (2 ^ 16)), (20, sv 1), (21, sv 64)]

/-- The device of `jregs`. -/
def devT : State := devJ jregs id id

theorem meets_SemaphoreWords :
    ready devT (.sig { a := 0, b := 17, i := 31 }) (fun o => (o.gangOf o.iss.pre.gang).isSome && decide (0 < o.iss.pre.gangsize) &&
      ((o.gangOf o.iss.pre.gang).bind fun x => (x.members[0]?).bind fun m => m.sems[31]?) == some 31) = true ∧
    (([.sig { a := 9, b := 1, i := 0 }, .sig { a := 0, b := 9, i := 0 }] : List Instr).all fun i => ready devT i fun o =>
      (o.srcS i 0).p || (o.srcS i 1).p) = true ∧
    ready devT (.sig { a := 20, b := 1, i := 0 }) (fun o => decide (o.iss.pre.gangsize ≤ (o.srcS (.sig { a := 20, b := 1, i := 0 }) 0).v.toNat)) = true ∧
    ready devT (.sig { a := 0, b := 16, i := 0 }) (fun o => decide (2 ^ 32 ≤ (o.srcS (.sig { a := 0, b := 16, i := 0 }) 1).v.toNat)) = true ∧
    (let s := devT.setSem 0 3 6
     ready s (.swait { a := 1, i := 3 }) (fun o => decide ((o.srcS (.swait { a := 1, i := 3 }) 0).v.toNat ≤ o.semCount 0 (o.ownSem (.swait { a := 1, i := 3 })))) = true ∧
     ready s (.swait { a := 17, i := 3 }) (fun o => decide (o.semCount 0 (o.ownSem (.swait { a := 17, i := 3 })) < (o.srcS (.swait { a := 17, i := 3 }) 0).v.toNat)) = true) ∧
    (([.stry { a := 17, d := 3, i := 0 }, .sset { a := 17, i := 0 }] : List Instr).all fun i => ready devT i fun o =>
      !(o.srcS i 0).p && decide ((o.srcS i 0).v.toNat < 2 ^ 32)) = true ∧
    (([.swait { a := 9, i := 0 }, .stry { a := 9, d := 3, i := 0 }, .sset { a := 9, i := 0 }] : List Instr).all fun i => ready devT i fun o =>
      (o.srcS i 0).p) = true ∧
    (([.swait { a := 16, i := 0 }, .stry { a := 16, d := 3, i := 0 }, .sset { a := 16, i := 0 }] : List Instr).all fun i => ready devT i fun o =>
      !(o.srcS i 0).p && decide (2 ^ 32 ≤ (o.srcS i 0).v.toNat)) = true := by
  decide +kernel

/-- A heap instance of partition 0 with two entries. -/
def heap (st : HeapState) (es : List EntryState) : HeapInst :=
  { st := st, owner := some 0, sum := 9, entries := es.map fun e => { task := 7, gain := 4, st := e } }

/-- A device with that instance. -/
def devHp (x : HeapInst) : State := devJ jregs id fun d => { d with heap := fill 16 {} [(0, x)] }

theorem meets_HeapWords :
    (([.hpush { a := 17, b := 17, d := 3 }] : List Instr).all fun i => ready (devHp (heap .opened [.running, .free])) i fun o =>
      firstFree 0 (o.heapAt 0 0).entries == some 1 && decide ((o.srcS i 1).v.toNat < 2 ^ 32)) = true ∧
    ready (devHp (heap .opened [.running])) (.hpush { a := 1, b := 1, d := 3 }) (fun o => firstFree 0 (o.heapAt 0 0).entries == none) = true ∧
    ready (devHp (heap .closed [.free])) (.hpush { a := 1, b := 1, d := 3 }) (fun o => (o.heapAt 0 0).st == .closed) = true ∧
    ready (devHp (heap .opened [.queued, .idle])) (.hpop { d := 4 }) (fun o => topQueued 0 (o.heapAt 0 0).entries == some (0, 4)) = true ∧
    ready (devHp (heap .opened [.idle])) (.hpop { d := 4 }) (fun o => topQueued 0 (o.heapAt 0 0).entries == none) = true ∧
    ready (devHp (heap .closed [.idle])) (.hpop { d := 4 }) (fun o => (o.heapAt 0 0).st == .closed) = true ∧
    ready (devHp (heap .opened [.idle, .idle])) (.hupd { a := 20, b := 1, i := 3 }) (fun o =>
      (((o.heapAt 0 0).entries[(o.srcS (.hupd { a := 20, b := 1, i := 3 }) 0).v.toNat]?).map (·.st)) == some .idle) = true ∧
    ready (devHp (heap .opened [.idle, .idle])) (.hread { a := 20, d := 3 }) (fun o =>
      ((o.heapAt 0 0).entries[(o.srcS (.hread { a := 20, d := 3 }) 0).v.toNat]?).isSome) = true ∧
    ready (devHp (heap .opened [.idle, .running])) (.hdone { a := 20 }) (fun o =>
      (((o.heapAt 0 0).entries[(o.srcS (.hdone { a := 20 }) 0).v.toNat]?).map (·.st)) == some .running) = true ∧
    (([.hread { a := 20, d := 3 }, .hdone { a := 20 }] : List Instr).all fun i => ready (devHp (heap .opened [.idle])) i fun o =>
      decide ((o.heapAt 0 0).entries.length ≤ (o.srcS i 0).v.toNat)) = true ∧
    (([.opened, .closed] : List HeapState).all fun x => ready (devHp (heap x [.idle])) (.hclose { d := 3 }) fun o => (o.heapAt 0 0).st == x) = true ∧
    (([heap .unused [], heap .opened [.idle]] : List HeapInst).all fun x => ready (devHp x) (.hsum { d := 3 }) fun o =>
      (o.heapAt 0 0).owner == (o.tileAt 0).partid) = true ∧
    (([.hpop { d := 4 }, .hclose { d := 3 }, .hsum { d := 3 }] : List Instr).all fun i =>
      ready (devHp { heap .opened [.idle] with owner := some 1 }) i fun o => (o.heapAt 0 0).owner != (o.tileAt 0).partid) = true ∧
    (([.hpop { d := 4 }, .hclose { d := 3 }] : List Instr).all fun i => (devHp (heap .unused [])).turn i) = true ∧
    ready (withDesc 2 (devHp { heap .unused [] with owner := none })) (.hopen { a := 4, d := 3 }) (fun o =>
      gives (readDesc o (o.srcS (.hopen { a := 4, d := 3 }) 0) 64 true).1 fun x =>
        x &&& heapMask == x && decide (bits x 0 17 ≤ 65536) && decide (bits x 32 17 ≤ bits x 0 17)) = true ∧
    (let i : Instr := .hpush { a := 20, b := 1, d := 3 }
     let j : Instr := .hupd { a := 20, b := 1, i := 0 }
     let k : Instr := .hread { a := 20, d := 3 }
     let l : Instr := .hdone { a := 20 }
     (([i, j, k, l] : List Instr).all fun i =>
       ready (devHp { heap .opened [.idle] with owner := some 1 }) i (fun o => (o.heapAt 0 0).owner != (o.tileAt 0).partid && !(o.srcS i 0).p) &&
       ready (devHp (heap .unused [])) i (fun o => (o.heapAt 0 0).st == .unused)) = true ∧
     (ready (devHp (heap .opened [.idle])) j fun o => ((o.heapAt 0 0).entries[(o.srcS j 0).v.toNat]?) == none) = true ∧
     (ready (devHp (heap .opened [.idle, .free])) j fun o => ((o.heapAt 0 0).entries[(o.srcS j 0).v.toNat]?).map (·.st) == some .free) = true ∧
     (ready (devHp (heap .opened [.idle, .queued])) l fun o => ((o.heapAt 0 0).entries[(o.srcS l 0).v.toNat]?).map (·.st) == some .queued) = true) ∧
    (([.hpush { a := 9, b := 1, d := 3 }, .hpush { a := 1, b := 9, d := 3 }, .hupd { a := 1, b := 9, i := 0 }] : List Instr).all fun i =>
      ready devT i fun o => (o.srcS i 0).p || (o.srcS i 1).p) = true ∧
    (([.hread { a := 9, d := 3 }, .hdone { a := 9 }] : List Instr).all fun i => ready devT i fun o => (o.srcS i 0).p) = true ∧
    (([.hpush { a := 16, b := 1, d := 3 }, .hpush { a := 1, b := 16, d := 3 }, .hupd { a := 1, b := 16, i := 0 }] : List Instr).all fun i =>
      ready devT i fun o => !(o.srcS i 0).p && !(o.srcS i 1).p && (decide (2 ^ 32 ≤ (o.srcS i 1).v.toNat) || decide (2 ^ 32 ≤ (o.srcS i 0).v.toNat))) = true ∧
    (([2 ^ 20, 65537, 1 + 2 ^ 33] : List Nat).all fun x => ready (withDesc x (devHp { heap .unused [] with owner := none })) (.hopen { a := 4, d := 3 }) fun o =>
      gives (readDesc o (o.srcS (.hopen { a := 4, d := 3 }) 0) 64 true).1 fun y =>
        y == x && (x &&& heapMask != x || decide (65536 < bits x 0 17) || decide (bits x 0 17 < bits x 32 17))) = true ∧
    ready (withDesc 2 (devHp { heap .closed [] with owner := some 1 })) (.hopen { a := 4, d := 3 }) (fun o =>
      gives (readDesc o (o.srcS (.hopen { a := 4, d := 3 }) 0) 64 true).1 (fun x => x == 2) && (o.heapAt 0 0).owner != (o.tileAt 0).partid) = true ∧
    ready (devHp (heap .opened [])) (.hopen { a := 9, d := 3 }) (fun o =>
      refuses (readDesc o (o.srcS (.hopen { a := 9, d := 3 }) 0) 64 true).1 (0x0D, 0)) = true ∧
    (let s := devHp { heap .unused [] with owner := none }
     (s.heapAt 0 0).st ≠ .opened ∧ (s.dieAt 0).heapUsed + 2 ≤ 65536 + (s.heapAt 0 0).entries.length ∧ (listKeys s 0x100 1).isSome = true ∧
     s.quiet = true ∧ s.poisoned (spKey 0 0x100) = false ∧
     65536 + (s.heapAt 0 0).entries.length < ((s.dieAt 0).heapUsed + 65536) + 1) ∧
    (let s := devHp (heap .closed [])
     (s.heapAt 0 0).st = .closed ∧ 0x800000 < bits (0x7FFFF8 * 2 ^ 128 + 2 * 2 ^ 32) 128 23 + 8 * bits (0x7FFFF8 * 2 ^ 128 + 2 * 2 ^ 32) 32 17 ∧
     listKeys s 0x30000 1 = none ∧ listKeys s 0x104 1 = none ∧ (listKeys s 0x100 1 = some [spKey 0 0x100]) ∧
     ({ s with poison := [spKey 0 0x100 / 8] } : State).poisoned (spKey 0 0x100) = true) ∧
    (([.tlbinv { a := 1, e := 1 }, .tlbinv { a := 1, e := 0 }] : List Instr).all fun i => ready devS i fun o =>
      o.iss.pre.mode && (o.immU i == 1 || (!(o.srcS i 0).p && decide ((o.srcS i 0).v.toNat < 2 ^ 48)))) = true ∧
    (ready devS (.tlbinv { a := 9, e := 0 }) fun o => (o.srcS (.tlbinv { a := 9, e := 0 }) 0).p) = true ∧
    (ready devS (.tlbinv { a := 5, e := 0 }) fun o => decide (2 ^ 48 ≤ (o.srcS (.tlbinv { a := 5, e := 0 }) 0).v.toNat)) = true ∧
    ((devHp (heap .opened [.idle])).heapAt 0 0).st = .opened ∧ ((devHp (heap .unused [])).heapAt 0 0).st = .unused ∧ bits 0 0 17 = 0 := by
  decide +kernel

/-- A device whose job is complete, and whose block 0 is in its second use. -/
def devDone : State := devJ (jregs ++ [(22, sv (2 ^ 17))]) (fun c => { c with jobh := 0 }) fun d => { d with jobs := [{ job pkt1 with gen := 2, complete := true }] }

/-- The words that name a job with the LAUNCH packet at 0x100. -/
theorem meets_JobWords :
    ready (withDesc 0 devT) (.launch { a := 4, d := 3 }) (fun o => gives (readDesc o (o.srcS (.launch { a := 4, d := 3 }) 0) 64 true).1
      fun x => o.launchCode 0 (BitVec.ofNat 512 x) != 0) = true ∧
    ready (withDesc pkt1.toNat devT) (.launch { a := 4, d := 3 }) (fun o => gives (readDesc o (o.srcS (.launch { a := 4, d := 3 }) 0) 64 true).1
      fun x => o.launchCode 0 (BitVec.ofNat 512 x) == 0 && o.freeBlock 0 == some (1, 1) && decide (o.queued 0 < 4096)) = true ∧
    ready (withDesc pkt1.toNat (devJ jregs id fun d => { d with nextSlot := 4096 })) (.launch { a := 4, d := 3 }) (fun o =>
      o.launchCode 0 pkt1 == 0 && o.freeBlock 0 == none) = true ∧
    ready devT (.launch { a := 9, d := 3 }) (fun o => refuses (readDesc o (o.srcS (.launch { a := 9, d := 3 }) 0) 64 true).1 (0x0D, 0)) = true ∧
    ready devT (.expectAdd { a := 1 }) (fun o => ((o.jobOf o.cur.jobh).map fun j => decide (j.e + (o.srcS (.expectAdd { a := 1 }) 0).v.toNat < 2 ^ 32)) == some true &&
      !o.cur.posted) = true ∧
    ready devT (.expectAdd { a := 16 }) (fun o => ((o.jobOf o.cur.jobh).map fun j => decide (2 ^ 32 ≤ j.e + (o.srcS (.expectAdd { a := 16 }) 0).v.toNat)) == some true) = true ∧
    (([.expectAdd { a := 9 }, .jwait { a := 9, d := 3 }, .post { a := 9, b := 1 }, .handoff { a := 9, b := 1 }] : List Instr).all fun i =>
      ready devT i fun o => (o.srcS i 0).p) = true ∧
    ready devT (.post { a := 18, b := 16 }) (fun o => !(o.srcS (.post { a := 18, b := 16 }) 0).p && decide (2 ^ 32 ≤ (o.srcS (.post { a := 18, b := 16 }) 1).v.toNat)) = true ∧
    ready devT (.post { a := 20, b := 17 }) (fun o => ((o.jobOf (o.srcS (.post { a := 20, b := 17 }) 0).v).map (·.part)) != some 0) = true ∧
    ready (devJ jregs (fun c => { c with jobh := 0 }) id) (.jwait { a := 18, d := 3 }) (fun o =>
      ((o.blockOf (o.srcS (.jwait { a := 18, d := 3 }) 0).v).map fun j => (j.gen, j.complete, j.part)) == some (1, false, 0) &&
      bits (o.srcS (.jwait { a := 18, d := 3 }) 0).v.toNat 16 32 == 1 &&
      !o.isAncestor (o.srcS (.jwait { a := 18, d := 3 }) 0).v 32768 o.iss.pre.jobh) = true ∧
    ready devT (.jwait { a := 18, d := 3 }) (fun o => o.isAncestor (o.srcS (.jwait { a := 18, d := 3 }) 0).v 32768 o.iss.pre.jobh) = true ∧
    ready devT (.handoff { a := 21, b := 1 }) (fun o => !entVALID ((o.tileAt 0).rmap.getD 64 0)) = true ∧
    ready (devT.modTile 0 fun x => { x with handoffs := List.replicate 16 (5, 7, 0) }) (.handoff { a := 20, b := 1 }) (fun o =>
      decide (16 ≤ (o.tileAt 0).handoffs.length) && (o.tileAt 0).handoffs.all fun y => y.1 != 1) = true ∧
    (([(6, 0x102), (23, 0x800000)] : List (BitVec 6 × Nat)).all fun e =>
      ready (devJ (jregs ++ [(23, sv 0x800000)]) id id) (.suspend { a := e.1 }) fun o => (o.srcS (.suspend { a := e.1 }) 0).v.toNat == e.2) = true ∧
    ready (devJ (jregs ++ [(23, sv 0x30000)]) id id) (.suspend { a := 23 }) (fun o => refuses (o.locate 0 0 o.iss.pre 0x30000 64 true) (0x0C, 0x30000)) = true ∧
    ready (devJ jregs (fun c => { c with posted := true }) id) (.expectAdd { a := 1 }) (fun o => o.cur.posted) = true ∧
    ready devT (.post { a := 18, b := 17 }) (fun o => ((o.jobOf (o.srcS (.post { a := 18, b := 17 }) 0).v).map (·.part)) == some 0) = true ∧
    ready devDone (.jwait { a := 19, d := 3 }) (fun o =>
      ((o.blockOf (o.srcS (.jwait { a := 19, d := 3 }) 0).v).map (·.gen)) == some 2 &&
      bits (o.srcS (.jwait { a := 19, d := 3 }) 0).v.toNat 16 32 == 1 && !o.isAncestor (o.srcS (.jwait { a := 19, d := 3 }) 0).v 32768 o.iss.pre.jobh) = true ∧
    ready devDone (.jwait { a := 22, d := 3 }) (fun o =>
      ((o.blockOf (o.srcS (.jwait { a := 22, d := 3 }) 0).v).map fun j => (j.gen, j.complete, j.part)) == some (2, true, 0) &&
      bits (o.srcS (.jwait { a := 22, d := 3 }) 0).v.toNat 16 32 == 2 && !o.isAncestor (o.srcS (.jwait { a := 22, d := 3 }) 0).v 32768 o.iss.pre.jobh) = true ∧
    ready (devJ jregs id fun d => { d with jobs := [job pktR] }) (.rget { d := 4 }) (fun o => ((o.jobOf o.iss.pre.jobh).map fun j => pktKIND j.pkt) == some 1) = true ∧
    ready devT (.rget { d := 4 }) (fun o => ((o.jobOf o.iss.pre.jobh).map fun j => pktKIND j.pkt) == some 0) = true ∧
    ready devT (.handoff { a := 20, b := 1 }) (fun o => entVALID ((o.tileAt 0).rmap.getD 1 0) && entOWNER ((o.tileAt 0).rmap.getD 1 0) == 0 &&
      (o.tileAt 0).handoffs.isEmpty && (o.srcS (.handoff { a := 20, b := 1 }) 1).v.setWidth 32 != o.iss.pre.taskid) = true ∧
    ready devT (.suspend { a := 21 }) (fun o => (o.srcS (.suspend { a := 21 }) 0).v.toNat % 64 == 0 && passes (o.locate 0 0 o.iss.pre 64 64 true)) = true ∧
    ready devT (.suspend { a := 9 }) (fun o => (o.srcS (.suspend { a := 9 }) 0).p) = true ∧ devT.turn .tdone = true := by
  decide +kernel

/-- R190's example: [0, 100) with GRAIN 10, asked for by task 0 and then by task 1; and a job with nothing left. -/
theorem test_rget :
    let j : Job := { job (pktR + BitVec.ofNat 512 (10 * 2 ^ 368)) with pool := (0, 100) }
    (j.rget 0).1 = (50, 60) ∧ ((j.rget 0).2.rget 1).1 = (25, 35) ∧ (({ j with pool := (0, 0) } : Job).rget 0).1 = (BitVec.allOnes 64, BitVec.allOnes 64) := by
  decide +kernel

/-- R224: HUPD adds, and a gain over nothing queues an idle entry. -/
theorem test_heap : (after (exec (.hupd { a := 20, b := 1, i := 0 }) (devHp (heap .opened [.idle, .idle])))).map (fun t =>
    ((t.heapAt 0 0).sum, ((t.heapAt 0 0).entries.getD 1 {}).gain, ((t.heapAt 0 0).entries.getD 1 {}).st)) = some (15, 10, .queued) := by
  decide +kernel

/-- R203: SWAIT takes its count. -/
theorem test_swait : (after (exec (.swait { a := 1, i := 3 }) (devT.setSem 0 3 8))).map (fun t => t.semCount 0 3) = some 2 := by decide +kernel

/-- R187: TDONE posts 1 to the job and frees the context. -/
theorem test_tdone : (after (exec .tdone devT)).map (fun t => ((t.ctx? 0 0).isNone, ((t.dieAt 0).jobs.map (·.p)), t.gangs.length)) = some (true, [1], 0) := by
  decide +kernel

/-! ## Waits, arrivals and traps -/

/-- A bundle whose word 0 waits. -/
def heldW (w : WaitKind) : Held :=
  { words := [.nop], done := 0, npc := none, waits := [(0, w)], ending := none, trap := none, brk := none, snap := {}, lmask := 0,
    switch := false, ret := 0 }

/-- The device whose context waits. -/
def devWait (w : WaitKind) (c : Ctx → Ctx) : State := devJ jregs (fun x => { c x with held := some (heldW w) }) id

/-- The wait of the held bundle. -/
def waitsAs (s : State) (q : WaitKind → Bool) (w : WaitKind) : Bool := (s.heldOf 0 0).isSome && ((s.heldOf 0 0).bind fun h => h.waitFor q) == some (0, w)

theorem meets_Wakes :
    waitsAs (devWait (.swait 3 6) id) (fun | .swait _ _ => true | _ => false) (.swait 3 6) = true ∧ 6 ≤ ((devWait (.swait 3 6) id).setSem 0 3 6).semCount 0 3 ∧
    waitsAs ((devWait (.swait 3 6) id).setSem 0 3 6) (fun | .swait _ _ => true | _ => false) (.swait 3 6) = true ∧
    waitsAs (devWait (.cwait 3 0 0) id) (fun | .cwait _ _ _ => true | _ => false) (.cwait 3 0 0) = true ∧
    (((devWait (.cwait 3 0 0) id).burinAt 0 0).done - (0 : BitVec 32)).toNat < 2 ^ 31 ∧
    waitsAs (devWait (.mwait 3 0) id) (fun | .mwait _ _ => true | _ => false) (.mwait 3 0) = true ∧
    (((devWait (.mwait 3 0) id).tileAt 0).mdone - (0 : BitVec 32)).toNat < 2 ^ 31 ∧
    (let s := { devWait (.jwait 3 0x10000) id with dies := [{ jobs := [{ job pkt1 with complete := true }] }] }
     waitsAs s (fun | .jwait _ _ => true | _ => false) (.jwait 3 0x10000) = true ∧ s.jobStatus 0x10000 = some 0) ∧
    (let s := devWait (.waitev 4) fun c => { c with events := 4 }
     waitsAs s (fun | .waitev _ => true | _ => false) (.waitev 4) = true ∧ evReady (s.ctxAt 0 0) 4 = true) ∧
    (let w : WaitKind := .bwait 3 true 0x100 15 4 0 9 none
     let s := devWait w id
     waitsAs s (fun | .bwait _ _ _ _ _ _ _ _ => true | _ => false) w = true ∧ (s.sramReads [spKey 0 0x100 / 8]).1.rd (spKey 0 0x100) 8 = 0 ∧
     gives (s.locate 0 0 (s.ctxAt 0 0) 0x100 16 false) (fun l => l.key == spKey 0 0x100) = true) ∧
    (([(5, 9), (4, 0), (4, 9)] : List (Nat × Nat)).all fun e =>
      let w : WaitKind := .bwait 3 true 0x100 15 4 0 e.2 none
      let s := { devWait w id with mem := writeBlock [] (spKey 0 0x100) 8 (2 ^ 37 + e.1 * 2 ^ 32) }
      waitsAs s (fun | .bwait _ _ _ _ _ _ _ _ => true | _ => false) w && ((s.sramReads [spKey 0 0x100 / 8]).1.rd (spKey 0 0x100) 8).testBit 37 &&
      (s.sramReads [spKey 0 0x100 / 8]).1.rd (spKey 0 0x100) 8 / 2 ^ 32 % 16 == e.1) = true ∧
    (let w : WaitKind := .bwait 3 true 0x30000 15 4 0 9 none
     let s := devWait w id
     waitsAs s (fun | .bwait _ _ _ _ _ _ _ _ => true | _ => false) w = true ∧
     refuses (s.locate 0 0 (s.ctxAt 0 0) 0x30000 16 false) (0x0C, 0x30000) = true) ∧
    (let w : WaitKind := .bwait 3 true 0x100 15 4 0 9 (some { v := BitVec.ofNat 64 (2 ^ 37 + 4 * 2 ^ 32) })
     let s := (devWait w id).modTile 0 fun x => { x with cycle := 9 }
     waitsAs s (fun | .bwait _ _ _ _ _ _ _ _ => true | _ => false) w = true ∧ 9 ≤ ((s.tileAt 0).cycle.toNat + 2 ^ 64 - 0) % 2 ^ 64) ∧
    (let s := devJ jregs (fun c => { c with held := some { heldW (.waitev 1) with waits := [], ending := some 0 } }) id
     (s.heldOf 0 0).map (fun h => h.ending.isSome && h.trap.isNone && h.brk.isNone && h.waits.isEmpty) = some true) ∧
    (devT.tiles.all fun x => x.burin.all fun b => (b.units ++ b.fetch).all fun u => !u.inv) = true ∧
    (let s := devWait (.swait 3 6) id
     (s.endWaits 0 0 [(0, .swait 3 6)]).isNone = true ∧ ((s.setSem 0 3 6).endWaits 0 0 [(0, .swait 3 6)]).isSome = true) := by
  decide +kernel

/-- A fetched word: the plate at address 0 holds `addi d3, s2, 5`, and R22 lets it issue. -/
def devI : State := (mini (user base)).modTile 0 fun x => { x with icache := [(0, 0x1401C205)] }

/-- A device with a load of another tile's bytes under way, and with it answered. -/
def devMesh (res : Option MemRes) : State :=
  { devT with mesh := [{ tile := 0, slot := 0, task := 0, home := 0, act := .load (spKey 0 0x100) 8 false, cls := 0, dst := .s 3 true, res := res }] }

theorem meets_Arrivals :
    ((devMesh none).arrivals[0]? = some (0, 0) ∧ (devMesh none).reachable 0 = true ∧ ((devMesh none).mesh[0]?).map (fun r => r.act.units) = some []) ∧
    (let s := devMesh none
     let s := { s with mesh := s.mesh.map fun r : MeshReq => { r with act := .loadV (spKey 0 0x100) 1 } }
     s.arrivals[0]? = some (0, spKey 0 0x100 / 8) ∧ s.reachable 0 = true ∧ (s.mesh[0]?).map (fun r => r.act.units) = some [spKey 0 0x100 / 8]) ∧
    ((devMesh none).modTile 0 fun x => { x with fenced := true }).reachable 0 = false ∧
    ((devMesh (some (.s (sv 9)))).answered 0 0)[0]? = some 0 ∧ ((devMesh (some (.s (sv 9)))).mesh[0]?).isSome = true ∧
    (let s := { devT with sigs := [{ tile := 0, sem := 3, gang := 1, n := 2 }] }.modTile 0 fun x => { x with semGang := List.replicate 32 (some 1) }
     s.sigGone { tile := 0, sem := 3, gang := 1, n := 2 } = true ∧ (s.tileAt 0).semGang.getD 3 none = some 1 ∧ s.reachable 0 = true) ∧
    (let w : PortW := { home := 0, src := 0, eng := 0, pieces := [(spKey 0 0x100, 8, 5)], marks := [false] }
     let s := { devT with portE := [w] }
     (s.queuedAt 0)[0]? = some 0 ∧ s.portE[0]? = some w) ∧
    ((devT.tileAt 0).scrub.getD 223 0 = 0 ∧ devT.quiet = true) ∧
    (dev.fillFor 0 0 = some (0, 0, 0, false) ∧ (dev.burinAt 0 0).fetchOf .code 0 = none) ∧
    (([.ready 5, .failed 3 0 1] : List UnitSt).all fun x =>
      let u : CUnit := { uid := 7, kind := .code, acc := 4, st := x }
      let s := devE { fetch := [u] } id
      s.fillFor 0 0 == some (0, 0, 0, false) && (s.burinAt 0 0).fetchOf .code 0 == some u && decide (0 < (s.ctxAt 0 0).clim.toNat)) = true ∧
    (let u : CUnit := { uid := 7, kind := .code, acc := 4, va := 0x1000, st := .wait }
     let s := (devE { fetch := [u] } id).modTile 0 fun x =>
       { x with ctx := [some { user base with pc := 0xFFC }, none], icache := [(0, 0x81C4FFFD * 2 ^ (8 * 0xFFC))] }
     s.fillFor 0 0x1000 = some (0, 0x1000, 1, true) ∧ (s.burinAt 0 0).fetchOf .code 0x1000 = some u ∧ (s.ctxAt 0 0).clim.toNat = 0x1000 ∧
     (s.ctxAt 0 0).mode = false ∧ u.translated = true) ∧
    (let u : CUnit := { uid := 7, kind := .code, acc := 4, len := 0, st := .wait }
     ((devE { fetch := [u] } id).burinAt 0 0).fetchOf .code 0 = some u ∧ u.translated = true) := by
  decide +kernel

/-- A context in user mode with a save area, and one without. -/
theorem meets_TrapEntry :
    devT.ctx? 0 0 = some (devT.ctxAt 0 0) ∧ (devT.ctxAt 0 0).mode = false ∧ saveAreaOk (devT.tileAt 0) 0 (devT.ctxAt 0 0) = true := by
  decide +kernel

theorem meets_TrapThenReturn :
    (devT.ctxAt 0 0).mode = false ∧ saveAreaOk (devT.tileAt 0) 0 (devT.ctxAt 0 0) = true ∧ (devT.ctxAt 0 0).lat.length = 8 ∧
    (devT.ctxAt 0 0).p.length = 8 ∧ (devT.ctxAt 0 0).gcount < 16 ∧ (snapOf (devT.ctxAt 0 0) [.trap { i := 7 }] 0).sc.length = 32 := by
  decide +kernel

theorem meets_ProofFaultsAndHandlers :
    (devS.ctxAt 0 0).mode = true ∧ saveAreaOk (devT.tileAt 0) 0 { devT.ctxAt 0 0 with proof := 0x30000 } = false ∧
    bits (devT.rd (proofKey 0 (devT.tileAt 0) (devT.ctxAt 0 0) 0) 8) 0 4 ≠ 1 ∧
    (let s := devJ jregs (fun c => { c with asyncTraps := [(0x0C, 0x30000)] }) id
     (s.ctxAt 0 0).asyncTraps = [(0x0C, 0x30000)] ∧ (s.ctxAt 0 0).asyncReady = true ∧
     saveAreaOk ((s.mapWrites 0 0).tileAt 0) 0 (s.ctxAt 0 0) = true) ∧
    (let s := devJ jregs (fun c => { c with chEn := true, chPend := 1 }) id
     (s.ctxAt 0 0).handlerReady = true ∧ (s.ctxAt 0 0).held = none ∧ 25 ≤ (s.ctxAt 0 0).s.length) ∧
    (let s := devWait (.waitev 2) fun c => { c with chEn := true, chPend := 1 }
     (s.ctxAt 0 0).handlerReady = true ∧
     waitsAs s (fun | .waitev _ => true | _ => false) (.waitev 2) = true) := by
  decide +kernel

/-- R335, R340: TRAP, then XRET, gives the context its mode, its registers and its PC again. -/
theorem test_trap_and_return :
    ((after (exec (.trap { i := 7 }) (mini { user base with pc := 0x100 }))).bind fun t => after (exec .xret { t with iss := {} })).map
      (fun t => ((t.ctxAt 0 0).mode, (t.ctxAt 0 0).pc, (t.ctxAt 0 0).sreg 1)) = some (false, 0x100, sv 6) := by
  decide +kernel

/-! ## Gangs, the margin, commands and starts -/

/-- The device with its job's instance still in the queue. -/
def devQd (f : Job → Job) (g : List Gang) : State :=
  { mini (user base) with dies := [{ jobs := [f { job pkt1 with left := 1, e := 1 }], nextSlot := 1, nextAge := 1 }], gangs := g }

/-- A gang of one member. -/
def gang1 (m : Member) : Gang := { id := 1, job := 0x10000, pkt := pkt1, members := [m] }

theorem meets_Dispatch :
    (((devQd id []).nextDispatch 0).map fun x => x.2) = some [0] ∧ (∀ x ∈ [0], dieOf x = 0) ∧
    (let s : State := { devQd id [] with dies := [{}, { jobs := [{ job pkt1 with left := 1, e := 1 }], nextSlot := 1, nextAge := 1 }] }
     (s.nextDispatch 1).map (fun x => x.2) = some [0] ∧ dieOf 0 ≠ 1) ∧
    (let s := devQd (fun j => { j with left := 0, p := 1 }) []
     ((s.dieAt 0).jobs.find? fun j => j.slot == 0 && !j.complete).map (fun j => s.jobDone 0 j) = some true) := by
  decide +kernel

/-- A member in slot 0 with some plates read, and engine 0 with a fill of a plate. -/
def devPar (ps : List (Nat × Nat)) (l : List CUnit) : State :=
  { devE { fetch := l } id with gangs := [gang1 { tile := 0, slot := some 0, plates := ps }] }

/-- A fill of the plate at 0 for a parameter block. -/
def unitP (st : UnitSt) : CUnit := { uid := 7, kind := .params, st := st }

theorem meets_ParameterBlocks :
    (([([(0, 0)], .ok 0), ([(0, 2 ^ 23)], .bad), ([], .need 0)] : List (List (Nat × Nat) × FillRes)).all fun e =>
      let s := devPar e.1 []
      (((s.gangOf (s.ctxAt 0 0).gang).bind fun g => g.members.find? fun m => m.isAt 0 0 && !m.filled).map fun m =>
        (m.plates, (s.paramBlock m.plates 0 0 (pktPARAMS pkt1)).2)) == some e) = true ∧
    ((devPar [] []).burinAt 0 0).fetchOf .params 0 = none ∧
    (([.ready 5, .failed 3 0 1] : List UnitSt).all fun x =>
      ((devPar [] [unitP x]).burinAt 0 0).fetchOf .params 0 == some (unitP x)) = true := by
  decide +kernel

theorem meets_GangEvents :
    ((job pkt1).slot < 4096 ∧ devT.freeSlot 0 = some 1 ∧ 0 < devT.tiles.length) ∧
    (State.paramBytes [(0, 0)] 0 80 2 = .ok 0 ∧ bits (2 ^ 127 + 64 * 2 ^ 96) 96 24 = 64 ∧ bit (2 ^ 127 + 64 * 2 ^ 96) 127 = true ∧
     State.paramBytes [(0, 0)] 0 64 2 = .ok 0 ∧ (devT.ctxAt 0 0).recs.length = 64) ∧
    (let g := { gang1 { tile := 0, sems := [0] } with resumeQ := [{ tile := 0, addr := 0x40100, task := 0, posted := false }] }
     let s := { devT with gangs := [g] }
     s.gangOf 1 = some g ∧ (g.members.zipIdx.find? fun m => m.1.tile == 0) = some ({ tile := 0, sems := [0] }, 0) ∧ s.freeSlot 0 = some 1 ∧
     g.off = false ∧ (s.tileAt 0).fenced = false ∧ s.contServed { tile := 0, addr := 0x40100, task := 0, posted := false } 0 1 1 = true ∧
     s.contSlot { tile := 0, addr := 0x40100, task := 0, posted := false } 0 = some 1 ∧ (∀ m ∈ g.members, m.saved = none) ∧
     (∀ m ∈ g.members, ∀ n ∈ [0, 1], m.slot ≠ some n) ∧
     s.vregsUsed 0 + 32 ≤ 128 ∧ s.quiet = true ∧ 1 < (s.tileAt 0).ctx.length) ∧
    (let s := devJ jregs (fun c => { c with preReq := true }) id
     (s.ctxAt 0 0).preReq = true ∧ (s.ctxAt 0 0).preState = 0) ∧
    (let s := devJ jregs (fun c => { c with preState := 1 }) id
     s.ctx? 0 0 = some (s.ctxAt 0 0) ∧ (s.ctxAt 0 0).stoppable = true) ∧
    (let s := devJ jregs (fun c => { c with preStep := 1, preState := 2 }) id
     (s.ctxAt 0 0).preStep = 1 ∧ (s.ctxAt 0 0).stopped = false ∧ s.drained 0 0 (s.ctxAt 0 0) = true ∧
     saveAreaOk (s.tileAt 0) 0 (s.ctxAt 0 0) = true ∧ (s.gangOf (s.ctxAt 0 0).gang).isSome = true ∧
     ((s.gangOf (s.ctxAt 0 0).gang).bind fun g => g.members.find? fun m => m.isAt 0 0).isSome = true) ∧
    (let g := gang1 { tile := 0, saved := some (user base) }
     let s := { devT with gangs := [g] }
     s.gangOf 1 = some g ∧ g.off = true ∧ g.isBarred = false ∧ g.bar.isBarred = true ∧ (g.members.all s.canReturn) = true ∧
     s.outranked g = false) := by
  decide +kernel

/-- A device whose tile has the margin state given. -/
def devMg (m : Margin) : State := { devT with rails := List.replicate 4 {} }.modTile 0 fun x => { x with margin := m }

/-- Work state in which the first-failure voltages are 0. -/
theorem meets_MarginEvents :
    0 < devT.tiles.length ∧ (devMg {}).issuesNow 0 0 = false ∧
    devI.issuesNow 0 0 = true ∧
    (let s := devE { units := [unitE (.ready 0)] } id
     s.engDets 0 { eng := 0, op := 7 } = some 0) ∧
    (devE { units := [{ unitE (.ready 0) with det := 2 }] } id).engDets 0 { eng := 0, op := 7 } = some 2 ∧
    (let m : Margin := { half := true, clean := 8 }
     m.half = true ∧ 8 ≤ m.clean) ∧
    (let m : Margin := { wB := 2 ^ 24, wRp := 2 ^ 24 }
     m.crossed = true ∧ m.frozen = false) ∧
    (let m : Margin := { wB := 2 ^ 24 }
     2 ^ 24 ≤ m.wB ∧ m.crossed = false ∧ m.frozen = false) ∧
    (let m : Margin := { vtgt := 605, run := 2 ^ 30 }
     2 ^ 30 ≤ m.run ∧ feff m.work m.op.toNat ≤ m.vtgt - 5 ∧ 605 ≤ m.vtgt) ∧
    (let s := devMg { op := 3 }
     opOf (s.tileTemp 0) ≠ (s.tileAt 0).margin.op.toNat) ∧
    (let m : Margin := { almA := BitVec.ofNat 2048 (750 * 2 ^ 128 + 2 ^ 32 + 2 ^ 31), vtgt := 745 }
     m.inForce = none ∨ m.inForce = some true ∨ m.inForce = some false) ∧
    (let r : Rail := { level := 700, target := 750 }
     r.level < r.target) ∧
    (let r : Rail := { level := 750, target := 700, falling := true, hold := true }
     r.target < r.level ∧ r.falling = true ∧ r.hold = true) ∧
    (5 < bits ((0x0060000000000000 : W64)).toNat 52 12) := by
  decide +kernel

/-- R357: VTGT goes up by 5 mV after a crossing, and the Almanac is to be written. -/
theorem test_vtgt_raise :
    (after (exec (.vtgtRaise 0) (devMg { frozen := true, vtgt := 700 }))).map (fun t => ((t.tileAt 0).margin.vtgt, (t.tileAt 0).margin.dirty)) =
      some (705, true) := by
  decide +kernel

/-- The device of an owner. -/
def devOwn : State := { devT with owner := some .host, parts := fill 32 none [(0, some {})], drvfeat := BitVec.allOnes 128, rails := List.replicate 4 {} }

theorem meets_CommandsRefused :
    devT.owner ≠ some .host ∧ devOwn.part? 1 = none ∧ devOwn.owner ≠ some .board ∧ devOwn.owner = some .host ∧
    ({ devOwn with parts := [some { closing := some .host }] } : State).isClosing 0 = true ∧
    bits (0x13 : BitVec 512).toNat 0 8 ≠ 0x11 ∧ 0x12 < bits (0x13 : BitVec 512).toNat 0 8 := by
  decide +kernel

theorem meets_OwnerCommands :
    devOwn.owner = some .host ∧ devOwn.part? 0 = some {} ∧ devOwn.part? 31 = none ∧ 0 < devOwn.parts.length ∧
    devT.featOn 3 = false ∧ devT.featOn 1 = false ∧ devOwn.featOn 1 = true ∧ devOwn.featOn 2 = true ∧
    (devOwn.vfAt 1023).part = none ∧ ((devOwn.modVf 5 fun x => { x with part := some 0 }).vfAt 5).part = some 0 ∧
    (devOwn.tileAt 0).partid = some 0 ∧ devOwn.maskHas 0 0 = true ∧ (devOwn.stackAt 0).spanBusy 0 0 = false ∧ 0 < devOwn.hbm.length ∧
    Stack.spanBusy { holds := [(5, 0, 0, 0)] } 0 0 = true ∧
    (∀ y ∈ devOwn.hbm, y.rotate = none) ∧ voteOk 0 750 = true ∧ voteOk 0 1 = false ∧ ownerOk 64 = true ∧
    (devOwn.jobOf 0x10000).isSome = true ∧ (devOwn.gangs.find? fun g => g.job == 0x10000 && g.inst == 0 && !g.off).isSome = true ∧
    inMeta 0 = false ∧ (devOwn.beginTeardown .host 0).linksBusy 0 = false ∧
    ((devOwn.modTile 0 fun x => { x with link := { q := [rcv] } }).beginTeardown .host 0).linksBusy 0 = true ∧
    (devOwn.stackAt 0).spanBusy 0 126 = false := by
  decide +kernel

theorem meets_DevicePorts :
    (devT.started = true ∧ devT.owner = none) ∧ devOwn.owner ≠ none ∧ { devT with offer := some .board }.offer = some Agent.board ∧
    ((devOwn.modVf 5 fun x => { x with part := some 0, pend := 1 }).vfAt 5).part = some 0 ∧
    0 < ((devOwn.modVf 5 fun x => { x with part := some 0, pend := 1 }).vfAt 5).pend ∧ devOwn.featOn 5 = true ∧
    (devT.vfAt 5).part = none ∧ devT.launchCode 0 0 ≠ 0 ∧ devT.launchCode 0 pkt1 = 0 ∧ devT.postDie 0 = some 0 ∧ devT.freeBlock 0 = some (1, 1) ∧ devT.queued 0 < 4096 ∧
    bits (0x2EE0000 : W64).toNat 16 16 % 5 = 0 ∧ bits (0x2EE0000 : W64).toNat 16 16 = 750 ∧ bits (0x2580000 : W64).toNat 16 16 = 600 ∧
    { devT with debug := .invasive }.debugTakes 0 = true ∧ devT.debugTakes 0 = false ∧ devOwn.isClosing 0 = false ∧
    ({ devT with power := .off } : State).power = .off ∧ devT.power ≠ .off ∧ devT.security < 2 ∧
    DebugReg.pc ≠ .dw 0 := by
  decide +kernel

/-- A partition in twin-run. -/
def devTw (t : Twin) (rx : List Flit) : State :=
  { devOwn with parts := fill 32 none [(0, some { twin := some t })], ports := [{ state := 2, en := true, twin := true, peer := 9, rx := rx }] }

theorem meets_TwinAndStarts :
    (let t : Twin := { held := [(0, 5, [])] }
     (devTw {} []).takeTwin (fun f => match f.body with | .twinInterim q _ _ => q == 0 | _ => false) = none ∧
     ((devTw {} []).sendTwin (.twinInterim 0 0 0)).isSome = true ∧ (devTw t []).twinOf 0 = some t ∧ (t.held.find? fun h => h.1 == t.sent) = some (0, 5, []) ∧
     ((devTw t []).sendTwin (.twinDigest 0 0 5)).isSome = true ∧ (((devTw t []).part? 0).map (·.halted)).getD false = false) ∧
    ((devTw {} [flit (.twinDigest 0 0 5)]).takeTwin fun f => f.body == .twinDigest 0 0 5).map (·.1) = some (flit (.twinDigest 0 0 5)) ∧
    ((devTw {} [flit (.twinInterim 0 0 5)]).takeTwin fun f => match f.body with | .twinInterim q _ _ => q == 0 | _ => false).map (·.1) =
      some (flit (.twinInterim 0 0 5)) ∧
    (let s : State := { devT with started := false }
     s.started = false ∧ s.startFail < 3 ∧ s.recov = false) ∧
    (let s : State := { devT with started := false, startFail := 3 }
     s.started = false ∧ 3 ≤ s.startFail ∧ s.recov = false) ∧
    devT.power ≠ .off ∧ devT.started = true ∧
    (let t : Twin := { held := [(0, 5, [])], sent := 1, theirs := [(0, 5)] }
     (devTw t []).halted 0 = false ∧ t.theirs.find? (fun x => x.1 == 0) = some (0, 5)) ∧
    devT.imageSigned devT.image = true ∧ devT.imageSigned { rsaOk := false } = false ∧
    devT.mayWarm none = true ∧ devOwn.mayWarm (some .host) = true ∧ devT.owner ≠ some .host ∧
    (({ devT with started := false, recov := true, accepted := true } : State).accepted = true) ∧
    ((devT.tileAt 0).margin.dirty = false ∧ ((devT.modMargin 0 fun m => { m with dirty := true }).tileAt 0).margin.dirty = true) := by
  decide +kernel

/-! ## Rules stated whole, decoding, the step and the machine -/

theorem meets_XKinds :
    (bits 0x62000010 28 3 = 6 ∧ bits 0x62000010 24 4 = 2) ∧ (bits 0x61280400 28 3 = 6 ∧ bits 0x61280400 24 4 = 1 ∧ bits 0x61280400 0 10 = 0 ∧
      bits 0x61280400 10 8 < 2 ^ (bits 0x61280400 18 3 + 1)) ∧ (bits 0x64000000 28 3 = 6 ∧ bits 0x64000000 24 4 = 4 ∧
      ([0x64000000] : List Nat).getLast? = some 0x64000000 ∧ chainBit 0x64000000 = false) ∧
    (bits 0x63000000 28 3 = 6 ∧ bits 0x63000000 24 4 = 3 ∧ ∀ k < 8, bits 0x63000000 (3 * k) 3 ≠ 7) ∧
    decodeTableWord 32 0x62000010 = some (.limm { p := 0x10 }) := by
  decide +kernel

theorem meets_ParameterRecordCsrs : dev.ctx? dev.iss.tile dev.iss.slot = some dev.cur ∧ (dev.cur.recs[0]?).isSome = true ∧ (1 : Nat) ≠ 0 := by
  decide +kernel

theorem meets_DecodeOfEncode : Instr.wf (.add sr) = true ∧ (encodeWord (.add sr)).isSome = true ∧ decodeTableWord 32 0x1401C205 =
    some (.addi { d := 3, w := true, a := 2, i := 5 }) := by
  decide +kernel

theorem meets_StepRunsTheDecodedWords :
    devI.inputs = [] ∧ devI.choose [.bundle 0 0] = some (.bundle 0 0) ∧ devI.choose [.event .gatingEnd] = some (.event .gatingEnd) ∧
    (Move.event .gatingEnd).tile = none ∧ ({ devI with inputs := [.gatingEnd] } : State).inputs = [.gatingEnd] ∧
    (let u := devI.tick.tickTile 0
     let x := u.takeTurn 0 0
     let c := u.ctxAt 0 0
     let i : Instr := .addi { d := 3, w := true, a := 2, i := 5 }
     u.ctx? 0 0 = some c ∧ c.atBoundary = true ∧ u.filled 0 0 c = true ∧ c.asyncTraps = [] ∧ c.mayHandle = false ∧
     fetchBundle (u.tileAt 0) c = .words [0x1401C205] ∧ chainBit 0x1401C205 = false ∧ decodeTableWord 32 0x1401C205 = some i ∧
     bundleFault c [i] = none ∧ wordsGo (u.atIssue 0 0 c [i]) c (u.ownReqs 0 0 c) 0 [i] = true ∧ x.holdWaits 0 0 [i] = none ∧
     (x.injectIssue 0 0).1 = false) ∧
    ((devI.tick.tickTile 0).holdWaits 0 0 [.waitev { m := 2 }]).isSome = true ∧
    (({ devI with parts := [some { test := true }], dies := [{ injTiles := 1, injCtl := 0x4130000 }] } : State).injectIssue 0 0).1 = true := by
  decide +kernel

/-- R22, R32, R49: one step from a started device with one word of code runs it. -/
theorem test_step :
    (after (step (({ devI with hbm := [] } : State).withFetchWord 32 0x1401C205))).map (fun t => ((t.ctxAt 0 0).pc, (t.ctxAt 0 0).sreg 3)) =
      some (4, sv 5) := by
  decide +kernel

theorem meets_EveryStepKeepsTheMemories : Memory.wf dev.mem = true ∧ dev.poison.Pairwise (· < ·) := by decide +kernel

theorem meets_StoresReadBack : (0 < 8 ∧ 8 ≤ 8 ∧ spKey 0 0x108 % 8 = 0) ∧ (0 < 1 ∧ spKey 0 0x10F % 1 = 0) := by decide

theorem meets_BundleCommits :
    (heldW (.waitev 1)).npc = none ∧ ({ heldW (.waitev 1) with npc := some 0x100 } : Held).npc = some 0x100 ∧
    ({ heldW (.waitev 1) with words := [.pblk { p := 1, n := 0, m := 1 }] } : Held).words.find? isPblk = some (.pblk { p := 1, n := 0, m := 1 }) := by
  decide +kernel

end Sys2Proof.Tests
end

section
/-! SUPPORT. The window PRDATA on the parameter records (R27, R110): what a doubleword of a record reads, which bits a write of
one leaves, and the records of the issuing context after it. -/

namespace Sys2Proof.Machine

/-- A bit of a number in which `n` bits from `lo` were replaced. -/
theorem testBit_setBits (x lo n v b : Nat) :
    (setBits x lo n v).testBit b = if lo ≤ b ∧ b < lo + n then v.testBit (b - lo) else x.testBit b := by
  have nest : setBits x lo n v = 2 ^ lo * (2 ^ n * (x / 2 ^ (lo + n)) + v % 2 ^ n) + x % 2 ^ lo := by
    unfold setBits; ring
  rw [nest, Nat.testBit_two_pow_mul_add _ (Nat.mod_lt _ (Nat.two_pow_pos lo)),
    Nat.testBit_two_pow_mul_add _ (Nat.mod_lt _ (Nat.two_pow_pos n))]
  by_cases below : b < lo
  · rw [if_pos below, if_neg (by omega), Nat.testBit_mod_two_pow, decide_eq_true below, Bool.true_and]
  rw [if_neg below]
  by_cases inside : b - lo < n
  · rw [if_pos inside, if_pos (by omega), Nat.testBit_mod_two_pow, decide_eq_true inside, Bool.true_and]
  · rw [if_neg inside, if_neg (by omega), Nat.testBit_div_two_pow]
    congr 1; omega

/-- A doubleword of a record, cut by its own width alone. -/
theorem recDw_eq (r : BitVec 512) (k : Nat) : recDw r k = BitVec.ofNat 64 (r.toNat / 2 ^ (64 * k)) := by
  apply BitVec.eq_of_toNat_eq
  simp [recDw, bits]

/-- A bit of a record after its doubleword `k` was written: zero where R110 makes it RZ. -/
theorem getLsbD_recSet (r : BitVec 512) (k : Nat) (v : W64) (b : Nat) (hb : b < 512) :
    (recSet r k v).getLsbD b =
      (recMask.testBit b && if b / 64 = k then v.getLsbD (b % 64) else r.getLsbD b) := by
  rw [recSet, BitVec.getLsbD_ofNat, decide_eq_true hb, Bool.true_and, Nat.testBit_and, testBit_setBits, Bool.and_comm]
  by_cases here : b / 64 = k
  · rw [if_pos here, if_pos (by omega), show b - 64 * k = b % 64 by omega]; rfl
  · rw [if_neg here, if_neg (by omega)]; rfl

/-- PRIDX, nine bits, cut into the record it selects and the doubleword of it. -/
theorem bits_pridx (p : BitVec 9) : bits p.toNat 0 6 = p.toNat % 64 ∧ bits p.toNat 6 3 = p.toNat / 64 := by
  have := p.isLt
  unfold bits
  omega

/-- PRDATA as it stood before the bundle. -/
theorem csrOld_prdata (s : State) : s.csrOld false 0x31 =
    recDw (s.iss.pre.recs.getD (s.iss.pre.pridx.toNat % 64) 0) (s.iss.pre.pridx.toNat / 64) := by
  obtain ⟨record, doubleword⟩ := bits_pridx s.iss.pre.pridx
  rw [← record, ← doubleword]; rfl

/-- A CSR write of PRDATA changes the selected record of the issuing context. -/
theorem ctx?_csrPut_prdata {s : State} {c : Ctx} (h : s.ctx? s.iss.tile s.iss.slot = some c) (v clr : W64) :
    (s.csrPut false 0x31 v clr).ctx? s.iss.tile s.iss.slot =
      some { c with recs := updAt (fun r => recSet r (s.iss.pre.pridx.toNat / 64) v) (s.iss.pre.pridx.toNat % 64) c.recs } := by
  obtain ⟨record, doubleword⟩ := bits_pridx s.iss.pre.pridx
  show (s.modCtx _ _ _).ctx? _ _ = _
  rw [ctx?_modCtx, if_pos ⟨rfl, rfl⟩, h, ← record, ← doubleword]; rfl

/-- Settles O51: the write is one change of the selected record, and its bits are those of `recSet`. -/
theorem parameterRecordCsrs : Obligations.ParameterRecordCsrs := by
  unfold Obligations.ParameterRecordCsrs
  intro s v clr c h i k
  refine ⟨?read, _, ctx?_csrPut_prdata h v clr, rfl, length_updAt .., fun n hn => ?others, fun r hr => ⟨recSet r k v, ?selected, ?bits⟩⟩
  case read => rw [csrOld_prdata, recDw_eq]
  case others => rw [getElem?_updAt, if_neg hn]
  case selected => rw [getElem?_updAt, if_pos rfl, hr]; rfl
  case bits => exact getLsbD_recSet r k v

end Sys2Proof.Machine
end

section
/-! SUPPORT. The words of class X (R43): which fields the decoder reads from them, which of them it accepts, and what the checks
of R48 answer for a bundle with a word that has no instruction. -/

namespace Sys2Proof

/-- A field below bit `k` of a word is a field of its low `k` bits. -/
theorem bits_mod_two_pow {lo n k : Nat} (h : lo + n ≤ k) (x : Nat) : bits (x % 2 ^ k) lo n = bits x lo n := by
  unfold bits
  rw [← Nat.mod_mul_right_div_self, ← Nat.mod_mul_right_div_self, ← pow_add, Nat.mod_mod_of_dvd _ (pow_dvd_pow 2 h)]

/-- A bit vector cuts a field by its own width alone. -/
theorem ofNat_bits (x lo n : Nat) : BitVec.ofNat n (bits x lo n) = BitVec.ofNat n (x / 2 ^ lo) :=
  BitVec.eq_of_toNat_eq (by simp [bits])

/-- A field read as a bit vector does not hold the value `v`. -/
theorem ofNat_bits_ne_iff {n : Nat} (x lo : Nat) (v : BitVec n) : BitVec.ofNat n (bits x lo n) ≠ v ↔ bits x lo n ≠ v.toNat := by
  rw [Ne, ← BitVec.toNat_inj, BitVec.toNat_ofNat, bits, Nat.mod_mod]

theorem fixedField_eq_ok_iff {w lo n v : Nat} {r : Except DecodeError Instr} {i : Instr} :
    fixedField w lo n v r = .ok i ↔ bits w lo n = v ∧ r = .ok i := by
  unfold fixedField
  split <;> simp [*]

theorem decodeWord_eq_ok_iff {w : Nat} {i : Instr} : decodeWord w = .ok i ↔ decodeFields w = .ok i ∧ i.wf = true := by
  unfold decodeWord
  cases decodeFields w with
  | error e => simp
  | ok j =>
    by_cases accepted : j.wf = true
    · simp only [if_pos accepted, Except.ok.injEq]
      exact ⟨fun e => ⟨e, e ▸ accepted⟩, And.left⟩
    · simp only [if_neg accepted, Except.ok.injEq, reduceCtorEq, false_iff]
      exact fun ⟨e, wf⟩ => accepted (e ▸ wf)

/-- R43: class X has one row for each of three op values. -/
theorem decodeX_eq_ok_iff {op w : Nat} {i : Instr} : decodeX op w = .ok i ↔
    (op = 1 ∧ bits w 0 10 = 0 ∧ i = .pblk (getFPblk w)) ∨ (op = 2 ∧ i = .limm (getFLimm w)) ∨
      (op = 3 ∧ i = .pmap (getFPmap w)) := by
  unfold decodeX
  split
  next => rw [fixedField_eq_ok_iff]; simp [eq_comm (b := i)]
  next => simp [eq_comm]
  next => simp [eq_comm]
  next not1 not2 not3 => simp [show op ≠ 1 from not1, show op ≠ 2 from not2, show op ≠ 3 from not3]

/-- R32, R62: a word of class X is read by the rows of that class. -/
theorem decodeFields_classX {w : Nat} (classX : bits w 28 3 = 6) : decodeFields w = decodeX (bits w 24 4) w := by
  simp only [decodeFields, classX]

theorem getFPblk_mod (w : Nat) : getFPblk (w % 2 ^ 31) =
    { p := BitVec.ofNat 3 (w / 2 ^ 21), n := BitVec.ofNat 3 (w / 2 ^ 18), m := BitVec.ofNat 8 (w / 2 ^ 10) } := by
  unfold getFPblk
  iterate 3 rw [bits_mod_two_pow (by decide), ofNat_bits]

theorem getFLimm_mod (w : Nat) : getFLimm (w % 2 ^ 31) = { p := BitVec.ofNat 24 w } := by
  unfold getFLimm
  rw [bits_mod_two_pow (by decide), ofNat_bits, pow_zero, Nat.div_one]

/-- R42, R44: the mask of a PBLK word against its count. -/
theorem wf_getFPblk_mod (w : Nat) : (getFPblk (w % 2 ^ 31)).wf = true ↔ bits w 10 8 < 2 ^ (bits w 18 3 + 1) := by
  rw [FPblk.wf, getFPblk_mod]
  simp [bits]

/-- R42: the eight fields of a PMAP word. -/
theorem wf_getFPmap_mod (w : Nat) : (getFPmap (w % 2 ^ 31)).wf = true ↔ ∀ k < 8, bits w (3 * k) 3 ≠ 7 := by
  have seven {lo : Nat} (low : lo + 3 ≤ 31) : (BitVec.ofNat 3 (bits (w % 2 ^ 31) lo 3) != 7) = true ↔ bits w lo 3 ≠ 7 := by
    rw [bits_mod_two_pow low, bne_iff_ne]; exact ofNat_bits_ne_iff w lo 7
  simp only [FPmap.wf, getFPmap, Bool.and_eq_true, seven, Nat.reduceAdd, Nat.reduceLeDiff]
  constructor
  · rintro ⟨⟨⟨⟨⟨⟨⟨f7, f6⟩, f5⟩, f4⟩, f3⟩, f2⟩, f1⟩, f0⟩ k hk
    interval_cases k <;> assumption
  · exact fun all => ⟨⟨⟨⟨⟨⟨⟨all 7 (by decide), all 6 (by decide)⟩, all 5 (by decide)⟩, all 4 (by decide)⟩, all 3 (by decide)⟩,
      all 2 (by decide)⟩, all 1 (by decide)⟩, all 0 (by decide)⟩

/-- R43: which words of class X have an instruction, and which one. -/
theorem decodeWord_classX_eq_ok_iff {w : Nat} (classX : bits w 28 3 = 6) {i : Instr} : decodeWord (w % 2 ^ 31) = .ok i ↔
    (bits w 24 4 = 1 ∧ bits w 0 10 = 0 ∧ bits w 10 8 < 2 ^ (bits w 18 3 + 1) ∧ i = .pblk (getFPblk (w % 2 ^ 31))) ∨
      (bits w 24 4 = 2 ∧ i = .limm (getFLimm (w % 2 ^ 31))) ∨
      (bits w 24 4 = 3 ∧ (∀ k < 8, bits w (3 * k) 3 ≠ 7) ∧ i = .pmap (getFPmap (w % 2 ^ 31))) := by
  have low {lo n : Nat} (h : lo + n ≤ 31) : bits (w % 2 ^ 31) lo n = bits w lo n := bits_mod_two_pow h w
  rw [decodeWord_eq_ok_iff, decodeFields_classX ((low (by decide)).trans classX), decodeX_eq_ok_iff, low (by decide),
    low (by decide), ← wf_getFPblk_mod, ← wf_getFPmap_mod]
  constructor
  · rintro ⟨⟨h1, zero, rfl⟩ | ⟨h2, rfl⟩ | ⟨h3, rfl⟩, wf⟩
    · exact .inl ⟨h1, zero, wf, rfl⟩
    · exact .inr (.inl ⟨h2, rfl⟩)
    · exact .inr (.inr ⟨h3, wf, rfl⟩)
  · rintro (⟨h1, zero, wf, rfl⟩ | ⟨h2, rfl⟩ | ⟨h3, wf, rfl⟩)
    · exact ⟨.inl ⟨h1, zero, rfl⟩, wf⟩
    · exact ⟨.inr (.inl ⟨h2, rfl⟩), rfl⟩
    · exact ⟨.inr (.inr ⟨h3, rfl⟩), wf⟩

end Sys2Proof

namespace Sys2Proof.Machine

/-- Step 3 of R48: decoding stops at a word without an instruction, or at an earlier one. -/
theorem decodeAll_eq_error {w : Nat} (none_decodes : ∀ i, decodeWord (w % 2 ^ 31) ≠ .ok i) (l r : List Nat) (pos : Nat) :
    ∃ p ≤ pos + l.length, decodeAll (l ++ w :: r) pos = .error p := by
  induction l generalizing pos with
  | nil =>
    refine ⟨pos, le_rfl, ?_⟩
    rw [List.nil_append, decodeAll]
    split
    · rfl
    · next i decoded => exact absurd decoded (none_decodes i)
  | cons x l ih =>
    rw [List.cons_append, decodeAll, List.length_cons]
    split
    · exact ⟨pos, Nat.le_add_right .., rfl⟩
    · obtain ⟨p, bound, rest⟩ := ih (pos + 1)
      exact ⟨p, by omega, by rw [rest]⟩

/-- Step 3 of R48: what a closed chain answers whose words do not all decode. -/
theorem checkBundle_of_decodeAll_error (c : Ctx) {l : List Nat} {p : Nat} (nonempty : l ≠ [])
    (closed : ∀ z, l.getLast? = some z → chainBit z = false) (bad : decodeAll l 0 = .error p) :
    checkBundle c l = .error { cause := cILLEGAL_WORD, word := p, second := false, faddr := 0 } := by
  have last := List.getLast?_eq_some_getLast nonempty
  simp [checkBundle, last, closed _ last, bad]

/-- Settles O50: the words of class X that decode are those of the three rows, and a bundle with any other traps at step 3 of R48. -/
theorem xKinds : Obligations.XKinds := by
  unfold Obligations.XKinds
  intro c w classX xop x
  refine ⟨fun i decoded => ?kinds, fun not1 not2 not3 l r closed => ?illegal, fun h1 zero mask => ?pblk, fun h2 => ?limm,
    fun h3 fields => ?pmap⟩
  case kinds =>
    obtain ⟨h1, -, -, rfl⟩ | ⟨h2, rfl⟩ | ⟨h3, -, rfl⟩ := (decodeWord_classX_eq_ok_iff classX).1 decoded
    · exact .inl ⟨h1, _, rfl⟩
    · exact .inr (.inl ⟨h2, _, rfl⟩)
    · exact .inr (.inr ⟨h3, _, rfl⟩)
  case illegal =>
    have none_decodes (i : Instr) : decodeWord (w % 2 ^ 31) ≠ .ok i := fun decoded => by
      obtain ⟨h1, -⟩ | ⟨h2, -⟩ | ⟨h3, -⟩ := (decodeWord_classX_eq_ok_iff classX).1 decoded
      · exact not1 h1
      · exact not2 h2
      · exact not3 h3
    obtain ⟨p, bound, bad⟩ := decodeAll_eq_error none_decodes l r 0
    exact ⟨_, checkBundle_of_decodeAll_error c (by simp) closed bad, rfl, by simpa using bound⟩
  case pblk => rw [← getFPblk_mod]; exact (decodeWord_classX_eq_ok_iff classX).2 (.inl ⟨h1, zero, mask, rfl⟩)
  case limm => rw [← getFLimm_mod]; exact (decodeWord_classX_eq_ok_iff classX).2 (.inr (.inl ⟨h2, rfl⟩))
  case pmap => exact ⟨_, (decodeWord_classX_eq_ok_iff classX).2 (.inr (.inr ⟨h3, fields, rfl⟩))⟩

end Sys2Proof.Machine
end

section
/-! SUPPORT. The decoder and the encoder against each other (R32, R36, R37, R53 to R62): each format's fields read back from the
places they were put in, and each row of the opcode tables keeps its word. -/

namespace Sys2Proof

/-- A field cut from a word, as its own bit vector. -/
theorem ofNat_field_eq_iff {n : Nat} (x lo : Nat) (v : BitVec n) :
    BitVec.ofNat n (x / 2 ^ lo % 2 ^ n) = v ↔ x / 2 ^ lo % 2 ^ n = v.toNat := by
  rw [← BitVec.toNat_inj, BitVec.toNat_ofNat, Nat.mod_mod]

theorem bit_eq_iff (x lo : Nat) (b : Bool) : bit x lo = b ↔ x / 2 ^ lo % 2 = ofBool b := by
  unfold bit ofBool
  cases b <;> simp

theorem ofBool_lt (b : Bool) : ofBool b < 2 := by cases b <;> decide

theorem ofBool_bit (x i : Nat) : ofBool (bit x i) = x / 2 ^ i % 2 := ((bit_eq_iff x i _).1 rfl).symm

/-- The checks of a row's fixed fields, in their order, before its instruction. -/
def checkFields (fixed : List (Nat × Nat × Nat)) (w : Nat) (r : Except DecodeError Instr) : Except DecodeError Instr :=
  fixed.foldr (fun x r => fixedField w x.1 x.2.1 x.2.2 r) r

theorem checkFields_eq_ok_iff {fixed : List (Nat × Nat × Nat)} {w : Nat} {r : Except DecodeError Instr} {i : Instr} :
    checkFields fixed w r = .ok i ↔ (∀ x ∈ fixed, bits w x.1 x.2.1 = x.2.2) ∧ r = .ok i := by
  induction fixed with
  | nil => simp [checkFields]
  | cons x fixed ih =>
    rw [List.forall_mem_cons, and_assoc, ← ih]
    exact fixedField_eq_ok_iff

/-- The operand part `p` of a word, below bit `k`, holds the fields `f`: whatever stands above it, `get` reads `f` again and the
fixed fields hold their values. -/
structure ReadsBack {α : Type} (k p : Nat) (fixed : List (Nat × Nat × Nat)) (get : Nat → α) (f : α) : Prop where
  lt : p < 2 ^ k
  get_add : ∀ t, get (t * 2 ^ k + p) = f
  fixed_add : ∀ t, ∀ x ∈ fixed, bits (t * 2 ^ k + p) x.1 x.2.1 = x.2.2

/-- R53: a row of an opcode table reads the fields of a word that holds them below its op value `b`. -/
theorem ReadsBack.decodeFields {α : Type} {k p : Nat} {fixed : List (Nat × Nat × Nat)} {get : Nat → α} {f : α}
    (h : ReadsBack k p fixed get f) {mk : α → Instr} {b v : Nat} (place : b + p = v)
    (base : b % 2 ^ k = 0 ∧ b + 2 ^ k ≤ 2 ^ 31) (row : ∀ w,
      w / 2 ^ k = b / 2 ^ k → decodeFields w = checkFields fixed w (.ok (mk (get w)))) :
    v < 2 ^ 31 ∧ Sys2Proof.decodeFields v = .ok (mk f) := by
  have split : b / 2 ^ k * 2 ^ k = b := Nat.div_mul_cancel (Nat.dvd_of_mod_eq_zero base.1)
  have top : (b + p) / 2 ^ k = b / 2 ^ k := by
    rw [← split, mul_comm, Nat.mul_add_div (Nat.two_pow_pos k), Nat.div_eq_of_lt h.lt,
      Nat.mul_div_cancel_left _ (Nat.two_pow_pos k),
      Nat.add_zero]
  rw [← place, row _ top, checkFields_eq_ok_iff, ← split, h.get_add]
  exact ⟨split.symm ▸ (Nat.add_lt_add_left h.lt b).trans_le base.2, h.fixed_add _, rfl⟩

/-! ## The formats (R36, R55) -/

theorem readsBack_putFDisp (f : FDisp) : ReadsBack 22 (putFDisp f) [] getFDisp f := by
  obtain ⟨i⟩ := f
  constructor <;> simp only [putFDisp, getFDisp, ofNat_field_eq_iff, bits, FDisp.mk.injEq, List.not_mem_nil, false_imp_iff,
    implies_true] <;> omega

theorem readsBack_putFA (f : FA) : ReadsBack 22 (putFA f) [(0, 16, 0)] getFA f := by
  obtain ⟨a⟩ := f
  constructor <;> simp only [putFA, getFA, ofNat_field_eq_iff, bits, FA.mk.injEq, List.forall_mem_singleton] <;> omega

theorem readsBack_putFJrl (f : FJrl) : ReadsBack 22 (putFJrl f) [(0, 11, 0)] getFJrl f := by
  obtain ⟨a, d⟩ := f
  constructor <;> simp only [putFJrl, getFJrl, ofNat_field_eq_iff, bits, FJrl.mk.injEq, List.forall_mem_singleton] <;> omega

theorem readsBack_putFCc (f : FCc) : ReadsBack 22 (putFCc f) [] getFCc f := by
  obtain ⟨a, i⟩ := f
  constructor <;> simp only [putFCc, getFCc, ofNat_field_eq_iff, bits, FCc.mk.injEq, List.not_mem_nil, false_imp_iff,
    implies_true] <;> omega

theorem readsBack_putFCp (f : FCp) : ReadsBack 22 (putFCp f) [(16, 3, 0)] getFCp f := by
  obtain ⟨p, i⟩ := f
  constructor <;> simp only [putFCp, getFCp, ofNat_field_eq_iff, bits, FCp.mk.injEq, List.forall_mem_singleton] <;> omega

theorem readsBack_putFMask (f : FMask) : ReadsBack 22 (putFMask f) [(6, 16, 0)] getFMask f := by
  obtain ⟨m⟩ := f
  constructor <;> simp only [putFMask, getFMask, ofNat_field_eq_iff, bits, FMask.mk.injEq, List.forall_mem_singleton] <;> omega

theorem readsBack_putFSr (f : FSr) : ReadsBack 20 (putFSr f) [(0, 2, 0)] getFSr f := by
  obtain ⟨d, w, a, b⟩ := f
  have := ofBool_lt w
  constructor <;> simp only [putFSr, getFSr, ofNat_field_eq_iff, bit_eq_iff, bits, FSr.mk.injEq,
    List.forall_mem_singleton] <;> omega

theorem readsBack_putFS1 (f : FS1) : ReadsBack 20 (putFS1 f) [(0, 8, 0)] getFS1 f := by
  obtain ⟨d, w, a⟩ := f
  have := ofBool_lt w
  constructor <;> simp only [putFS1, getFS1, ofNat_field_eq_iff, bit_eq_iff, bits, FS1.mk.injEq,
    List.forall_mem_singleton] <;> omega

theorem readsBack_putFSi (f : FSi) : ReadsBack 20 (putFSi f) [] getFSi f := by
  obtain ⟨d, w, a, i⟩ := f
  have := ofBool_lt w
  constructor <;> simp only [putFSi, getFSi, ofNat_field_eq_iff, bit_eq_iff, bits, FSi.mk.injEq, List.not_mem_nil, false_imp_iff,
    implies_true] <;> omega

theorem readsBack_putFSl (f : FSl) : ReadsBack 20 (putFSl f) [] getFSl f := by
  obtain ⟨d, w, i⟩ := f
  have := ofBool_lt w
  constructor <;> simp only [putFSl, getFSl, ofNat_field_eq_iff, bit_eq_iff, bits, FSl.mk.injEq, List.not_mem_nil, false_imp_iff,
    implies_true] <;> omega

theorem readsBack_putFCsrR (f : FCsrR) : ReadsBack 20 (putFCsrR f) [(8, 6, 0)] getFCsrR f := by
  obtain ⟨d, w, x⟩ := f
  have := ofBool_lt w
  constructor <;> simp only [putFCsrR, getFCsrR, ofNat_field_eq_iff, bit_eq_iff, bits, FCsrR.mk.injEq,
    List.forall_mem_singleton] <;> omega

theorem readsBack_putFCsrW (f : FCsrW) : ReadsBack 20 (putFCsrW f) [] getFCsrW f := by
  obtain ⟨d, w, a, x⟩ := f
  have := ofBool_lt w
  constructor <;> simp only [putFCsrW, getFCsrW, ofNat_field_eq_iff, bit_eq_iff, bits, FCsrW.mk.injEq, List.not_mem_nil,
    false_imp_iff, implies_true] <;> omega

theorem readsBack_putFLm (f : FLm) : ReadsBack 22 (putFLm f) [] getFLm f := by
  obtain ⟨o, w, d, b, f⟩ := f
  have := ofBool_lt w
  constructor <;> simp only [putFLm, getFLm, ofNat_field_eq_iff, bit_eq_iff, bits, FLm.mk.injEq, List.not_mem_nil, false_imp_iff,
    implies_true] <;> omega

theorem readsBack_putFSt (f : FSt) : ReadsBack 22 (putFSt f) [(17, 1, 0)] getFSt f := by
  obtain ⟨o, r, b, f⟩ := f
  constructor <;> simp only [putFSt, getFSt, ofNat_field_eq_iff, bits, FSt.mk.injEq, List.forall_mem_singleton] <;> omega

theorem readsBack_putFLx (f : FLx) : ReadsBack 22 (putFLx f) [] getFLx f := by
  obtain ⟨o, w, d, b, x⟩ := f
  have := ofBool_lt w
  constructor <;> simp only [putFLx, getFLx, ofNat_field_eq_iff, bit_eq_iff, bits, FLx.mk.injEq, List.not_mem_nil, false_imp_iff,
    implies_true] <;> omega

theorem readsBack_putFStx (f : FStx) : ReadsBack 22 (putFStx f) [(17, 1, 0)] getFStx f := by
  obtain ⟨o, r, b, x⟩ := f
  constructor <;> simp only [putFStx, getFStx, ofNat_field_eq_iff, bits, FStx.mk.injEq, List.forall_mem_singleton] <;> omega

theorem readsBack_putFLp (f : FLp) : ReadsBack 22 (putFLp f) [(18, 1, 0)] getFLp f := by
  obtain ⟨n, w, d, b, z, f⟩ := f
  have := ofBool_lt w
  constructor <;> simp only [putFLp, getFLp, ofNat_field_eq_iff, bit_eq_iff, bits, FLp.mk.injEq,
    List.forall_mem_singleton] <;> omega

theorem readsBack_putFBinit (f : FBinit) : ReadsBack 22 (putFBinit f) [(12, 6, 0)] getFBinit f := by
  obtain ⟨o, b, x⟩ := f
  constructor <;> simp only [putFBinit, getFBinit, ofNat_field_eq_iff, bits, FBinit.mk.injEq, List.forall_mem_singleton] <;> omega

theorem readsBack_putFFence (f : FFence) : ReadsBack 22 (putFFence f) [(18, 4, 0)] getFFence f := by
  obtain ⟨s, m⟩ := f
  constructor <;> simp only [putFFence, getFFence, ofNat_field_eq_iff, bits, FFence.mk.injEq, List.forall_mem_singleton] <;> omega

theorem readsBack_putFXfence (f : FXfence) : ReadsBack 22 (putFXfence f) [(0, 10, 0), (18, 4, 0)] getFXfence f := by
  obtain ⟨s, a, b⟩ := f
  constructor <;> simp only [putFXfence, getFXfence, ofNat_field_eq_iff, bits, FXfence.mk.injEq, List.forall_mem_cons,
    List.not_mem_nil, false_imp_iff, implies_true, and_true] <;> omega

theorem readsBack_putFVr (f : FVr) : ReadsBack 21 (putFVr f) [(0, 1, 0)] getFVr f := by
  obtain ⟨e, d, w, a, b⟩ := f
  have := ofBool_lt w
  constructor <;> simp only [putFVr, getFVr, ofNat_field_eq_iff, bit_eq_iff, bits, FVr.mk.injEq,
    List.forall_mem_singleton] <;> omega

theorem readsBack_putFV1 (f : FV1) : ReadsBack 21 (putFV1 f) [(0, 7, 0)] getFV1 f := by
  obtain ⟨e, d, w, a⟩ := f
  have := ofBool_lt w
  constructor <;> simp only [putFV1, getFV1, ofNat_field_eq_iff, bit_eq_iff, bits, FV1.mk.injEq,
    List.forall_mem_singleton] <;> omega

theorem readsBack_putFVi (f : FVi) : ReadsBack 21 (putFVi f) [(0, 1, 0)] getFVi f := by
  obtain ⟨e, d, w, a, i⟩ := f
  have := ofBool_lt w
  constructor <;> simp only [putFVi, getFVi, ofNat_field_eq_iff, bit_eq_iff, bits, FVi.mk.injEq,
    List.forall_mem_singleton] <;> omega

theorem readsBack_putFVp (f : FVp) : ReadsBack 21 (putFVp f) [(0, 1, 0), (19, 2, 0)] getFVp f := by
  obtain ⟨d, w, a, b⟩ := f
  have := ofBool_lt w
  constructor <;> simp only [putFVp, getFVp, ofNat_field_eq_iff, bit_eq_iff, bits, FVp.mk.injEq, List.forall_mem_cons,
    List.not_mem_nil, false_imp_iff, implies_true, and_true] <;> omega

theorem readsBack_putFVp1 (f : FVp1) : ReadsBack 21 (putFVp1 f) [(0, 7, 0), (19, 2, 0)] getFVp1 f := by
  obtain ⟨d, w, a⟩ := f
  have := ofBool_lt w
  constructor <;> simp only [putFVp1, getFVp1, ofNat_field_eq_iff, bit_eq_iff, bits, FVp1.mk.injEq, List.forall_mem_cons,
    List.not_mem_nil, false_imp_iff, implies_true, and_true] <;> omega

theorem readsBack_putFVp1_wide (f : FVp1) : ReadsBack 21 (2 * 2 ^ 19 + putFVp1 f) [(0, 7, 0), (19, 2, 2)] getFVp1 f := by
  obtain ⟨d, w, a⟩ := f
  have := ofBool_lt w
  constructor <;> simp only [putFVp1, getFVp1, ofNat_field_eq_iff, bit_eq_iff, bits, FVp1.mk.injEq, List.forall_mem_cons,
    List.not_mem_nil, false_imp_iff, implies_true, and_true] <;> omega

theorem readsBack_putFVp_wide (f : FVp) : ReadsBack 21 (2 * 2 ^ 19 + putFVp f) [(0, 1, 0), (19, 2, 2)] getFVp f := by
  obtain ⟨d, w, a, b⟩ := f
  have := ofBool_lt w
  constructor <;> simp only [putFVp, getFVp, ofNat_field_eq_iff, bit_eq_iff, bits, FVp.mk.injEq, List.forall_mem_cons,
    List.not_mem_nil, false_imp_iff, implies_true, and_true] <;> omega

theorem readsBack_putFMset (f : FMset) : ReadsBack 22 (putFMset f) [(10, 6, 0)] getFMset f := by
  obtain ⟨a, n⟩ := f
  constructor <;> simp only [putFMset, getFMset, ofNat_field_eq_iff, bits, FMset.mk.injEq, List.forall_mem_singleton] <;> omega

theorem readsBack_putFD (f : FD) : ReadsBack 22 (putFD f) [(0, 5, 0), (10, 12, 0)] getFD f := by
  obtain ⟨d⟩ := f
  constructor <;> simp only [putFD, getFD, ofNat_field_eq_iff, bits, FD.mk.injEq, List.forall_mem_cons, List.not_mem_nil,
    false_imp_iff, implies_true, and_true] <;> omega

theorem readsBack_putFAd (f : FAd) : ReadsBack 22 (putFAd f) [(0, 5, 0), (10, 6, 0)] getFAd f := by
  obtain ⟨a, d⟩ := f
  constructor <;> simp only [putFAd, getFAd, ofNat_field_eq_iff, bits, FAd.mk.injEq, List.forall_mem_cons, List.not_mem_nil,
    false_imp_iff, implies_true, and_true] <;> omega

theorem readsBack_putFMclr (f : FMclr) : ReadsBack 22 (putFMclr f) [(1, 9, 0)] getFMclr f := by
  obtain ⟨a, b, z⟩ := f
  constructor <;> simp only [putFMclr, getFMclr, ofNat_field_eq_iff, bits, FMclr.mk.injEq, List.forall_mem_singleton] <;> omega

theorem readsBack_putFCopy (f : FCopy) : ReadsBack 22 (putFCopy f) [(1, 4, 0), (10, 6, 0)] getFCopy f := by
  obtain ⟨a, d, e⟩ := f
  constructor <;> simp only [putFCopy, getFCopy, ofNat_field_eq_iff, bits, FCopy.mk.injEq, List.forall_mem_cons,
    List.not_mem_nil, false_imp_iff, implies_true, and_true] <;> omega

theorem readsBack_putFLink (f : FLink) : ReadsBack 22 (putFLink f) [(10, 6, 0)] getFLink f := by
  obtain ⟨a, d, p⟩ := f
  constructor <;> simp only [putFLink, getFLink, ofNat_field_eq_iff, bits, FLink.mk.injEq, List.forall_mem_singleton] <;> omega

theorem readsBack_putFAbi (f : FAbi) : ReadsBack 22 (putFAbi f) [(5, 5, 0)] getFAbi f := by
  obtain ⟨a, b, i⟩ := f
  constructor <;> simp only [putFAbi, getFAbi, ofNat_field_eq_iff, bits, FAbi.mk.injEq, List.forall_mem_singleton] <;> omega

theorem readsBack_putFAi (f : FAi) : ReadsBack 22 (putFAi f) [(5, 11, 0)] getFAi f := by
  obtain ⟨a, i⟩ := f
  constructor <;> simp only [putFAi, getFAi, ofNat_field_eq_iff, bits, FAi.mk.injEq, List.forall_mem_singleton] <;> omega

theorem readsBack_putFAdi (f : FAdi) : ReadsBack 22 (putFAdi f) [(10, 6, 0)] getFAdi f := by
  obtain ⟨a, d, i⟩ := f
  constructor <;> simp only [putFAdi, getFAdi, ofNat_field_eq_iff, bits, FAdi.mk.injEq, List.forall_mem_singleton] <;> omega

theorem readsBack_putFAbd (f : FAbd) : ReadsBack 22 (putFAbd f) [(0, 5, 0)] getFAbd f := by
  obtain ⟨a, b, d⟩ := f
  constructor <;> simp only [putFAbd, getFAbd, ofNat_field_eq_iff, bits, FAbd.mk.injEq, List.forall_mem_singleton] <;> omega

theorem readsBack_putFAb (f : FAb) : ReadsBack 22 (putFAb f) [(0, 10, 0)] getFAb f := by
  obtain ⟨a, b⟩ := f
  constructor <;> simp only [putFAb, getFAb, ofNat_field_eq_iff, bits, FAb.mk.injEq, List.forall_mem_singleton] <;> omega

theorem readsBack_putFTlb (f : FTlb) : ReadsBack 22 (putFTlb f) [(1, 15, 0)] getFTlb f := by
  obtain ⟨a, e⟩ := f
  constructor <;> simp only [putFTlb, getFTlb, ofNat_field_eq_iff, bits, FTlb.mk.injEq, List.forall_mem_singleton] <;> omega

theorem readsBack_putFPblk (f : FPblk) : ReadsBack 24 (putFPblk f) [(0, 10, 0)] getFPblk f := by
  obtain ⟨p, n, m⟩ := f
  constructor <;> simp only [putFPblk, getFPblk, ofNat_field_eq_iff, bits, FPblk.mk.injEq, List.forall_mem_singleton] <;> omega

theorem readsBack_putFLimm (f : FLimm) : ReadsBack 24 (putFLimm f) [] getFLimm f := by
  obtain ⟨p⟩ := f
  constructor <;> simp only [putFLimm, getFLimm, ofNat_field_eq_iff, bits, FLimm.mk.injEq, List.not_mem_nil, false_imp_iff,
    implies_true] <;> omega

theorem readsBack_putFPmap (f : FPmap) : ReadsBack 24 (putFPmap f) [] getFPmap f := by
  obtain ⟨a, b, c, d, e, f, g, h⟩ := f
  constructor <;> simp only [putFPmap, getFPmap, ofNat_field_eq_iff, bits, FPmap.mk.injEq, List.not_mem_nil, false_imp_iff,
    implies_true] <;> omega

theorem readsBack_putFA_one (f : FA) : ReadsBack 22 (1 + putFA f) [(5, 11, 0), (0, 5, 1)] getFA f := by
  obtain ⟨a⟩ := f
  constructor <;> simp only [putFA, getFA, ofNat_field_eq_iff, bits, FA.mk.injEq, List.forall_mem_cons, List.not_mem_nil,
    false_imp_iff, implies_true, and_true] <;> omega

/-! ## The classes (R32, R54) -/

theorem decodeFields_classC_of_op {w b : Nat} (base : b / 2 ^ 28 = 0) (op : w / 2 ^ 22 = b / 2 ^ 22) :
    decodeFields w = decodeC (bits b 22 6) w := by
  have cls : bits w 28 3 = 0 := by unfold bits; omega
  have same : bits w 22 6 = bits b 22 6 := by rw [bits, op, bits]
  simp only [decodeFields, cls, same]

theorem decodeFields_classS_of_op {w b : Nat} (base : b / 2 ^ 28 = 1) (op : w / 2 ^ 20 = b / 2 ^ 20) :
    decodeFields w = decodeS (bits b 20 8) w := by
  have cls : bits w 28 3 = 1 := by unfold bits; omega
  have same : bits w 20 8 = bits b 20 8 := by rw [bits, op, bits]
  simp only [decodeFields, cls, same]

theorem decodeFields_classL_of_op {w b : Nat} (base : b / 2 ^ 28 = 2) (op : w / 2 ^ 22 = b / 2 ^ 22) :
    decodeFields w = decodeL (bits b 22 6) w := by
  have cls : bits w 28 3 = 2 := by unfold bits; omega
  have same : bits w 22 6 = bits b 22 6 := by rw [bits, op, bits]
  simp only [decodeFields, cls, same]

theorem decodeFields_classV_of_op {w b : Nat} (base : b / 2 ^ 28 = 3) (op : w / 2 ^ 21 = b / 2 ^ 21) :
    decodeFields w = decodeV (bits b 21 7) w := by
  have cls : bits w 28 3 = 3 := by unfold bits; omega
  have same : bits w 21 7 = bits b 21 7 := by rw [bits, op, bits]
  simp only [decodeFields, cls, same]

theorem decodeFields_classM_of_op {w b : Nat} (base : b / 2 ^ 28 = 4) (op : w / 2 ^ 22 = b / 2 ^ 22) :
    decodeFields w = decodeM (bits b 22 6) w := by
  have cls : bits w 28 3 = 4 := by unfold bits; omega
  have same : bits w 22 6 = bits b 22 6 := by rw [bits, op, bits]
  simp only [decodeFields, cls, same]

theorem decodeFields_classE_of_op {w b : Nat} (base : b / 2 ^ 28 = 5) (op : w / 2 ^ 22 = b / 2 ^ 22) :
    decodeFields w = decodeE (bits b 22 6) w := by
  have cls : bits w 28 3 = 5 := by unfold bits; omega
  have same : bits w 22 6 = bits b 22 6 := by rw [bits, op, bits]
  simp only [decodeFields, cls, same]

theorem decodeFields_classX_of_op {w b : Nat} (base : b / 2 ^ 28 = 6) (op : w / 2 ^ 24 = b / 2 ^ 24) :
    decodeFields w = decodeX (bits b 24 4) w := by
  have cls : bits w 28 3 = 6 := by unfold bits; omega
  have same : bits w 24 4 = bits b 24 4 := by rw [bits, op, bits]
  simp only [decodeFields, cls, same]

/-- R60: the two forms of MLDT share an op value and differ in the fixed field [4:0]. -/
theorem decodeM_mldt (w : Nat) : decodeM 1 w = if bits w 0 5 = 0 then checkFields [(5, 11, 0)] w (.ok (.mldtScalar (getFA w)))
    else checkFields [(5, 11, 0), (0, 5, 1)] w (.ok (.mldtVector (getFA w))) := by
  simp only [decodeM, checkFields, List.foldr, fixedField]
  split_ifs <;> rfl

theorem decodeFields_mldtScalar (f : FA) : decodeFields (0x40400000 + putFA f) = .ok (.mldtScalar f) := by
  obtain ⟨lt, get_add, -⟩ := readsBack_putFA f
  have op : (0x40400000 + putFA f) / 2 ^ 22 = 0x40400000 / 2 ^ 22 := by omega
  have low : (0x40400000 + putFA f) % 2 ^ 16 = 0 := by unfold putFA; omega
  rw [decodeFields_classM_of_op rfl op, show bits 0x40400000 22 6 = 1 from rfl, decodeM_mldt, if_pos (by unfold bits; omega),
    checkFields_eq_ok_iff]
  exact ⟨List.forall_mem_singleton.2 (by show bits _ 5 11 = 0; unfold bits; omega), congrArg _ (congrArg _ (get_add 0x101))⟩

theorem decodeFields_mldtVector (f : FA) : decodeFields (0x40400001 + putFA f) = .ok (.mldtVector f) := by
  obtain ⟨lt, get_add, fixed_add⟩ := readsBack_putFA_one f
  have op : (0x40400001 + putFA f) / 2 ^ 22 = 0x40400000 / 2 ^ 22 := by omega
  have low : (0x40400001 + putFA f) % 2 ^ 16 = 1 := by unfold putFA; omega
  rw [decodeFields_classM_of_op rfl op, show bits 0x40400000 22 6 = 1 from rfl, decodeM_mldt, if_neg (by unfold bits; omega),
    show 0x40400001 + putFA f = 0x101 * 2 ^ 22 + (1 + putFA f) by omega, checkFields_eq_ok_iff]
  exact ⟨fixed_add _, congrArg _ (congrArg _ (get_add _))⟩

/-- R53: decoding an encoded word gives its row's instruction, before the field values are checked. -/
theorem decodeFields_of_encodeWord {i : Instr} {w : Nat} (encoded : encodeWord i = some w) :
    w < 2 ^ 31 ∧ decodeFields w = .ok i := by
  cases i with
  | nop | halt | cret | xret =>
    exact Option.some.inj encoded ▸ ⟨by decide, rfl⟩
  | br f | brl f | bloop f | trap f | brk f =>
    exact (readsBack_putFDisp f).decodeFields (Option.some.inj encoded) (by decide) fun _ => decodeFields_classC_of_op rfl
  | jr f =>
    exact (readsBack_putFA f).decodeFields (Option.some.inj encoded) (by decide) fun _ => decodeFields_classC_of_op rfl
  | jrl f =>
    exact (readsBack_putFJrl f).decodeFields (Option.some.inj encoded) (by decide) fun _ => decodeFields_classC_of_op rfl
  | bz f | bnz f | bltz f | bgez f | lcset f =>
    exact (readsBack_putFCc f).decodeFields (Option.some.inj encoded) (by decide) fun _ => decodeFields_classC_of_op rfl
  | bp f | bnp f | bany f | bnone f =>
    exact (readsBack_putFCp f).decodeFields (Option.some.inj encoded) (by decide) fun _ => decodeFields_classC_of_op rfl
  | waitev f =>
    exact (readsBack_putFMask f).decodeFields (Option.some.inj encoded) (by decide) fun _ => decodeFields_classC_of_op rfl
  | add f | sub f | and f | or f | xor f | andn f | sll f | srl f | sra f | mul f | mulh f | mulhu f | div f | divu f | rem f
  | remu f | min f | max f | minu f | maxu f | slt f | sltu f | seq f | sne f | addw f | subw f | mulw f | cmovz f | cmovnz f
  | bfx f | bfi f | fadd f | fsub f | fmul f | fma f | fmin f | fmax f | feq f | flt f | fle f | fdiv f =>
    exact (readsBack_putFSr f).decodeFields (Option.some.inj encoded) (by decide) fun _ => decodeFields_classS_of_op rfl
  | clz f | ctz f | popc f | sextb f | sexth f | sextw f | zextw f | bswap f | fsqrt f | fcvtif f | fcvtfi f =>
    exact (readsBack_putFS1 f).decodeFields (Option.some.inj encoded) (by decide) fun _ => decodeFields_classS_of_op rfl
  | addi f | andi f | ori f | xori f | slli f | srli f | srai f | slti f | sltiu f | muli f =>
    exact (readsBack_putFSi f).decodeFields (Option.some.inj encoded) (by decide) fun _ => decodeFields_classS_of_op rfl
  | li f | lui f =>
    exact (readsBack_putFSl f).decodeFields (Option.some.inj encoded) (by decide) fun _ => decodeFields_classS_of_op rfl
  | csrr f | scsrr f =>
    exact (readsBack_putFCsrR f).decodeFields (Option.some.inj encoded) (by decide) fun _ => decodeFields_classS_of_op rfl
  | csrw f | csrs f | csrc f | scsrw f | scsrs f | scsrc f =>
    exact (readsBack_putFCsrW f).decodeFields (Option.some.inj encoded) (by decide) fun _ => decodeFields_classS_of_op rfl
  | ldb f | ldbu f | ldh f | ldhu f | ldw f | ldwu f | ldd f | ldv f | ldvf f | ldvb f =>
    exact (readsBack_putFLm f).decodeFields (Option.some.inj encoded) (by decide) fun _ => decodeFields_classL_of_op rfl
  | stb f | sth f | stw f | std f | stv f | stvf f =>
    exact (readsBack_putFSt f).decodeFields (Option.some.inj encoded) (by decide) fun _ => decodeFields_classL_of_op rfl
  | ldvg f | aadd f | amin f | amax f | aminu f | amaxu f | aand f | aor f | axor f | aswp f | acas f | afadd f | barv f
  | bwait f =>
    exact (readsBack_putFLx f).decodeFields (Option.some.inj encoded) (by decide) fun _ => decodeFields_classL_of_op rfl
  | stvs f =>
    exact (readsBack_putFStx f).decodeFields (Option.some.inj encoded) (by decide) fun _ => decodeFields_classL_of_op rfl
  | ldp f =>
    exact (readsBack_putFLp f).decodeFields (Option.some.inj encoded) (by decide) fun _ => decodeFields_classL_of_op rfl
  | binit f =>
    exact (readsBack_putFBinit f).decodeFields (Option.some.inj encoded) (by decide) fun _ => decodeFields_classL_of_op rfl
  | fence f =>
    exact (readsBack_putFFence f).decodeFields (Option.some.inj encoded) (by decide) fun _ => decodeFields_classL_of_op rfl
  | xfence f =>
    exact (readsBack_putFXfence f).decodeFields (Option.some.inj encoded) (by decide) fun _ => decodeFields_classL_of_op rfl
  | vadd f | vsub f | vmul f | vmulh f | vmulhu f | vand f | vor f | vxor f | vshl f | vshr f | vsra f | vmin f | vmax f
  | vminu f | vmaxu f | vadds f | vsubs f | vmac f | vdot4 f | vmulw f | vaddw f | vceq f | vcne f | vclt f | vcle f
  | vcltu f | vcleu f | vslup f | vsldn f | vperm f | vtos f | vins f | vfadd f | vfsub f | vfmul f | vfma f | vfms f
  | vfmin f | vfmax f | vfceq f | vfclt f | vfcle f | vfcun f | vfdiv f =>
    exact (readsBack_putFVr f).decodeFields (Option.some.inj encoded) (by decide) fun _ => decodeFields_classV_of_op rfl
  | vabs f | vneg f | vmov f | vbcast f | vradd f | vrmax f | vrmin f | vrfadd f | vrfmax f | vfabs f | vfneg f | vfsqrt f
  | vfrsq f | vcvtif f | vcvtfi f | vpack8 f | vunpk8 f | vpack16 f | vunpk16 f =>
    exact (readsBack_putFV1 f).decodeFields (Option.some.inj encoded) (by decide) fun _ => decodeFields_classV_of_op rfl
  | vshli f | vshri f | vsrai f | vaddi f =>
    exact (readsBack_putFVi f).decodeFields (Option.some.inj encoded) (by decide) fun _ => decodeFields_classV_of_op rfl
  | pand f | por f | pxor f | pandn f =>
    exact (readsBack_putFVp f).decodeFields (Option.some.inj encoded) (by decide) fun _ => decodeFields_classV_of_op rfl
  | pnot f | pany f | ppopc f | pfirst f =>
    exact (readsBack_putFVp1 f).decodeFields (Option.some.inj encoded) (by decide) fun _ => decodeFields_classV_of_op rfl
  | vrnse f =>
    exact (readsBack_putFVp1_wide f).decodeFields (b := 0x3B000000) ((Nat.add_assoc ..).symm.trans (Option.some.inj encoded)) (by decide)
      fun _ => decodeFields_classV_of_op rfl
  | vrnsd f =>
    exact (readsBack_putFVp1_wide f).decodeFields (b := 0x3B200000) ((Nat.add_assoc ..).symm.trans (Option.some.inj encoded)) (by decide)
      fun _ => decodeFields_classV_of_op rfl
  | vrnsadd f =>
    exact (readsBack_putFVp_wide f).decodeFields (b := 0x3B400000) ((Nat.add_assoc ..).symm.trans (Option.some.inj encoded)) (by decide)
      fun _ => decodeFields_classV_of_op rfl
  | vrnsmul f =>
    exact (readsBack_putFVp_wide f).decodeFields (b := 0x3B600000) ((Nat.add_assoc ..).symm.trans (Option.some.inj encoded)) (by decide)
      fun _ => decodeFields_classV_of_op rfl
  | vrnsmac f =>
    exact (readsBack_putFVp_wide f).decodeFields (b := 0x3B800000) ((Nat.add_assoc ..).symm.trans (Option.some.inj encoded)) (by decide)
      fun _ => decodeFields_classV_of_op rfl
  | mset f =>
    exact (readsBack_putFMset f).decodeFields (Option.some.inj encoded) (by decide) fun _ => decodeFields_classM_of_op rfl
  | mgo f | mstat f | mabort f =>
    exact (readsBack_putFD f).decodeFields (Option.some.inj encoded) (by decide) fun _ => decodeFields_classM_of_op rfl
  | mwait f | mwb f =>
    exact (readsBack_putFAd f).decodeFields (Option.some.inj encoded) (by decide) fun _ => decodeFields_classM_of_op rfl
  | mclr f =>
    exact (readsBack_putFMclr f).decodeFields (Option.some.inj encoded) (by decide) fun _ => decodeFields_classM_of_op rfl
  | msplit f =>
    exact (readsBack_putFA f).decodeFields (Option.some.inj encoded) (by decide) fun _ => decodeFields_classM_of_op rfl
  | cpy f | cwait f | cstat f | ccan f =>
    exact (readsBack_putFCopy f).decodeFields (Option.some.inj encoded) (by decide) fun _ => decodeFields_classE_of_op rfl
  | lsend f | lrecv f | lradd f =>
    exact (readsBack_putFLink f).decodeFields (Option.some.inj encoded) (by decide) fun _ => decodeFields_classE_of_op rfl
  | lsched f | lstat f | hread f | hopen f | launch f | jwait f =>
    exact (readsBack_putFAd f).decodeFields (Option.some.inj encoded) (by decide) fun _ => decodeFields_classE_of_op rfl
  | sig f | hupd f =>
    exact (readsBack_putFAbi f).decodeFields (Option.some.inj encoded) (by decide) fun _ => decodeFields_classE_of_op rfl
  | swait f | sset f =>
    exact (readsBack_putFAi f).decodeFields (Option.some.inj encoded) (by decide) fun _ => decodeFields_classE_of_op rfl
  | stry f =>
    exact (readsBack_putFAdi f).decodeFields (Option.some.inj encoded) (by decide) fun _ => decodeFields_classE_of_op rfl
  | hpush f =>
    exact (readsBack_putFAbd f).decodeFields (Option.some.inj encoded) (by decide) fun _ => decodeFields_classE_of_op rfl
  | hpop f | hsum f | hclose f | rget f =>
    exact (readsBack_putFD f).decodeFields (Option.some.inj encoded) (by decide) fun _ => decodeFields_classE_of_op rfl
  | hdone f | expectAdd f | suspend f =>
    exact (readsBack_putFA f).decodeFields (Option.some.inj encoded) (by decide) fun _ => decodeFields_classE_of_op rfl
  | post f | handoff f =>
    exact (readsBack_putFAb f).decodeFields (Option.some.inj encoded) (by decide) fun _ => decodeFields_classE_of_op rfl
  | tdone =>
    exact Option.some.inj encoded ▸ ⟨by decide, rfl⟩
  | tlbinv f =>
    exact (readsBack_putFTlb f).decodeFields (Option.some.inj encoded) (by decide) fun _ => decodeFields_classE_of_op rfl
  | pblk f =>
    exact (readsBack_putFPblk f).decodeFields (Option.some.inj encoded) (by decide) fun _ => decodeFields_classX_of_op rfl
  | limm f =>
    exact (readsBack_putFLimm f).decodeFields (Option.some.inj encoded) (by decide) fun _ => decodeFields_classX_of_op rfl
  | pmap f =>
    exact (readsBack_putFPmap f).decodeFields (Option.some.inj encoded) (by decide) fun _ => decodeFields_classX_of_op rfl
  | mldtScalar f =>
    exact Option.some.inj encoded ▸ ⟨(Nat.add_lt_add_left (readsBack_putFA f).lt _).trans (by decide), decodeFields_mldtScalar f⟩
  | mldtVector f =>
    exact Option.some.inj encoded ▸ ⟨(Nat.add_lt_add_left (readsBack_putFA f).lt _).trans (by decide), decodeFields_mldtVector f⟩
  | _ => cases encoded

/-- Settles O53: each row reads back the fields of its format, and a well-formed instruction passes the last check. -/
theorem decodeOfEncode : Obligations.DecodeOfEncode := by
  unfold Obligations.DecodeOfEncode
  intro i w wf encoded
  obtain ⟨lt, fields⟩ := decodeFields_of_encodeWord encoded
  exact ⟨lt, decodeWord_eq_ok_iff.2 ⟨fields, wf⟩⟩

/-! ## From a word to its instruction and back -/

/-- What a decoder answers for the word `w` is an instruction whose word it is, if it answers one. -/
def EncodesTo (w : Nat) (r : Except DecodeError Instr) : Prop := ∀ i, r = .ok i → encodeWord i = some w

@[simp] theorem encodesTo_error (w : Nat) (e : DecodeError) : EncodesTo w (.error e) :=
  fun _ h => nomatch h

@[simp] theorem encodesTo_ok (w : Nat) (i : Instr) : EncodesTo w (.ok i) ↔ encodeWord i = some w := by
  simp [EncodesTo]

@[simp] theorem encodesTo_fixedField (w lo n v : Nat) (r : Except DecodeError Instr) :
    EncodesTo w (fixedField w lo n v r) ↔ (bits w lo n = v → EncodesTo w r) := by
  simp only [EncodesTo, fixedField_eq_ok_iff]
  exact ⟨fun h at_v i e => h i ⟨at_v, e⟩, fun h i e => h e.1 i e.2⟩

/-- Bits [hi - 1 : lo] of a word, in their place. -/
def inPlace (w lo hi : Nat) : Nat := w % 2 ^ hi / 2 ^ lo * 2 ^ lo

theorem toNat_ofNat_bits_mul (w lo n : Nat) : (BitVec.ofNat n (bits w lo n)).toNat * 2 ^ lo = inPlace w lo (lo + n) := by
  rw [BitVec.toNat_ofNat, bits, Nat.mod_mod, inPlace, pow_add, Nat.mod_mul_right_div_self]

theorem toNat_ofNat_bits_zero (w n : Nat) : (BitVec.ofNat n (bits w 0 n)).toNat = inPlace w 0 n := by
  rw [← Nat.zero_add n, ← toNat_ofNat_bits_mul, pow_zero, Nat.mul_one, Nat.zero_add]

theorem ofBool_bit_mul (w lo : Nat) : ofBool (bit w lo) * 2 ^ lo = inPlace w lo (lo + 1) := by
  rw [ofBool_bit, inPlace, pow_succ, Nat.mod_mul_right_div_self]

/-- Two runs of bits side by side. -/
theorem inPlace_add {lo mid hi : Nat} (h : lo ≤ mid ∧ mid ≤ hi) (w : Nat) : inPlace w mid hi + inPlace w lo mid = inPlace w lo hi := by
  obtain ⟨a, rfl⟩ := Nat.exists_eq_add_of_le h.1
  obtain ⟨b, rfl⟩ := Nat.exists_eq_add_of_le h.2
  have low : w % 2 ^ (lo + a) / 2 ^ lo = w / 2 ^ lo % 2 ^ a := by rw [pow_add, Nat.mod_mul_right_div_self]
  have high : w % 2 ^ (lo + a + b) / 2 ^ (lo + a) = w / 2 ^ lo / 2 ^ a % 2 ^ b := by
    rw [pow_add _ (lo + a), Nat.mod_mul_right_div_self, pow_add, Nat.div_div_eq_div_mul]
  have both : w % 2 ^ (lo + a + b) / 2 ^ lo = w / 2 ^ lo % (2 ^ a * 2 ^ b) := by
    rw [add_assoc, pow_add, Nat.mod_mul_right_div_self, pow_add]
  rw [inPlace, inPlace, inPlace, low, high, both, Nat.mod_mul, pow_add]
  ring

theorem add_inPlace_add {lo mid hi : Nat} (h : lo ≤ mid ∧ mid ≤ hi) (w x : Nat) :
    x + inPlace w mid hi + inPlace w lo mid = x + inPlace w lo hi := by
  rw [Nat.add_assoc, inPlace_add h]

theorem putFDisp_getFDisp (w : Nat) : putFDisp (getFDisp w) = inPlace w 0 22 := by
  simp only [putFDisp, getFDisp, toNat_ofNat_bits_zero, -Nat.reducePow]

theorem putFA_getFA (w : Nat) : putFA (getFA w) = inPlace w 16 22 := by
  simp only [putFA, getFA, toNat_ofNat_bits_mul, Nat.reduceAdd, -Nat.reducePow]

theorem putFJrl_getFJrl (w : Nat) : putFJrl (getFJrl w) = inPlace w 11 22 := by
  simp (disch := decide) only [putFJrl, getFJrl, toNat_ofNat_bits_mul, inPlace_add, Nat.reduceAdd, -Nat.reducePow]

theorem putFCc_getFCc (w : Nat) : putFCc (getFCc w) = inPlace w 0 22 := by
  simp (disch := decide) only [putFCc, getFCc, toNat_ofNat_bits_mul, toNat_ofNat_bits_zero, inPlace_add, Nat.reduceAdd,
    -Nat.reducePow]

theorem putFCp_getFCp (w : Nat) : putFCp (getFCp w) = inPlace w 19 22 + inPlace w 0 16 := by
  simp only [putFCp, getFCp, toNat_ofNat_bits_mul, toNat_ofNat_bits_zero, Nat.reduceAdd, -Nat.reducePow]

theorem putFMask_getFMask (w : Nat) : putFMask (getFMask w) = inPlace w 0 6 := by
  simp only [putFMask, getFMask, toNat_ofNat_bits_zero, -Nat.reducePow]

theorem putFSr_getFSr (w : Nat) : putFSr (getFSr w) = inPlace w 2 20 := by
  simp (disch := decide) only [putFSr, getFSr, toNat_ofNat_bits_mul, ofBool_bit_mul, inPlace_add, Nat.reduceAdd, -Nat.reducePow]

theorem putFS1_getFS1 (w : Nat) : putFS1 (getFS1 w) = inPlace w 8 20 := by
  simp (disch := decide) only [putFS1, getFS1, toNat_ofNat_bits_mul, ofBool_bit_mul, inPlace_add, Nat.reduceAdd, -Nat.reducePow]

theorem putFSi_getFSi (w : Nat) : putFSi (getFSi w) = inPlace w 0 20 := by
  simp (disch := decide) only [putFSi, getFSi, toNat_ofNat_bits_mul, toNat_ofNat_bits_zero, ofBool_bit_mul, inPlace_add,
    Nat.reduceAdd, -Nat.reducePow]

theorem putFSl_getFSl (w : Nat) : putFSl (getFSl w) = inPlace w 0 20 := by
  simp (disch := decide) only [putFSl, getFSl, toNat_ofNat_bits_mul, toNat_ofNat_bits_zero, ofBool_bit_mul, inPlace_add,
    Nat.reduceAdd, -Nat.reducePow]

theorem putFCsrR_getFCsrR (w : Nat) : putFCsrR (getFCsrR w) = inPlace w 14 20 + inPlace w 0 8 := by
  simp (disch := decide) only [putFCsrR, getFCsrR, toNat_ofNat_bits_mul, toNat_ofNat_bits_zero, ofBool_bit_mul, inPlace_add,
    Nat.reduceAdd, -Nat.reducePow]

theorem putFCsrW_getFCsrW (w : Nat) : putFCsrW (getFCsrW w) = inPlace w 0 20 := by
  simp (disch := decide) only [putFCsrW, getFCsrW, toNat_ofNat_bits_mul, toNat_ofNat_bits_zero, ofBool_bit_mul, inPlace_add,
    Nat.reduceAdd, -Nat.reducePow]

theorem putFLm_getFLm (w : Nat) : putFLm (getFLm w) = inPlace w 0 22 := by
  simp (disch := decide) only [putFLm, getFLm, toNat_ofNat_bits_mul, toNat_ofNat_bits_zero, ofBool_bit_mul, inPlace_add,
    Nat.reduceAdd, -Nat.reducePow]

theorem putFSt_getFSt (w : Nat) : putFSt (getFSt w) = inPlace w 18 22 + inPlace w 0 17 := by
  simp (disch := decide) only [putFSt, getFSt, toNat_ofNat_bits_mul, toNat_ofNat_bits_zero, add_inPlace_add, Nat.reduceAdd,
    -Nat.reducePow]

theorem putFLx_getFLx (w : Nat) : putFLx (getFLx w) = inPlace w 0 22 := by
  simp (disch := decide) only [putFLx, getFLx, toNat_ofNat_bits_mul, toNat_ofNat_bits_zero, ofBool_bit_mul, inPlace_add,
    Nat.reduceAdd, -Nat.reducePow]

theorem putFStx_getFStx (w : Nat) : putFStx (getFStx w) = inPlace w 18 22 + inPlace w 0 17 := by
  simp (disch := decide) only [putFStx, getFStx, toNat_ofNat_bits_mul, toNat_ofNat_bits_zero, add_inPlace_add, Nat.reduceAdd,
    -Nat.reducePow]

theorem putFLp_getFLp (w : Nat) : putFLp (getFLp w) = inPlace w 19 22 + inPlace w 0 18 := by
  simp (disch := decide) only [putFLp, getFLp, toNat_ofNat_bits_mul, toNat_ofNat_bits_zero, ofBool_bit_mul, add_inPlace_add,
    Nat.reduceAdd, -Nat.reducePow]

theorem putFBinit_getFBinit (w : Nat) : putFBinit (getFBinit w) = inPlace w 18 22 + inPlace w 0 12 := by
  simp (disch := decide) only [putFBinit, getFBinit, toNat_ofNat_bits_mul, toNat_ofNat_bits_zero, add_inPlace_add, Nat.reduceAdd,
    -Nat.reducePow]

theorem putFFence_getFFence (w : Nat) : putFFence (getFFence w) = inPlace w 0 18 := by
  simp (disch := decide) only [putFFence, getFFence, toNat_ofNat_bits_mul, toNat_ofNat_bits_zero, inPlace_add, Nat.reduceAdd,
    -Nat.reducePow]

theorem putFXfence_getFXfence (w : Nat) : putFXfence (getFXfence w) = inPlace w 10 18 := by
  simp (disch := decide) only [putFXfence, getFXfence, toNat_ofNat_bits_mul, inPlace_add, Nat.reduceAdd, -Nat.reducePow]

theorem putFVr_getFVr (w : Nat) : putFVr (getFVr w) = inPlace w 1 21 := by
  simp (disch := decide) only [putFVr, getFVr, toNat_ofNat_bits_mul, ofBool_bit_mul, inPlace_add, Nat.reduceAdd, -Nat.reducePow]

theorem putFV1_getFV1 (w : Nat) : putFV1 (getFV1 w) = inPlace w 7 21 := by
  simp (disch := decide) only [putFV1, getFV1, toNat_ofNat_bits_mul, ofBool_bit_mul, inPlace_add, Nat.reduceAdd, -Nat.reducePow]

theorem putFVi_getFVi (w : Nat) : putFVi (getFVi w) = inPlace w 1 21 := by
  simp (disch := decide) only [putFVi, getFVi, toNat_ofNat_bits_mul, ofBool_bit_mul, inPlace_add, Nat.reduceAdd, -Nat.reducePow]

theorem putFVp_getFVp (w : Nat) : putFVp (getFVp w) = inPlace w 1 19 := by
  simp (disch := decide) only [putFVp, getFVp, toNat_ofNat_bits_mul, ofBool_bit_mul, inPlace_add, Nat.reduceAdd, -Nat.reducePow]

theorem putFVp1_getFVp1 (w : Nat) : putFVp1 (getFVp1 w) = inPlace w 7 19 := by
  simp (disch := decide) only [putFVp1, getFVp1, toNat_ofNat_bits_mul, ofBool_bit_mul, inPlace_add, Nat.reduceAdd, -Nat.reducePow]

theorem putFMset_getFMset (w : Nat) : putFMset (getFMset w) = inPlace w 16 22 + inPlace w 0 10 := by
  simp only [putFMset, getFMset, toNat_ofNat_bits_mul, toNat_ofNat_bits_zero, Nat.reduceAdd, -Nat.reducePow]

theorem putFD_getFD (w : Nat) : putFD (getFD w) = inPlace w 5 10 := by
  simp only [putFD, getFD, toNat_ofNat_bits_mul, Nat.reduceAdd, -Nat.reducePow]

theorem putFAd_getFAd (w : Nat) : putFAd (getFAd w) = inPlace w 16 22 + inPlace w 5 10 := by
  simp only [putFAd, getFAd, toNat_ofNat_bits_mul, Nat.reduceAdd, -Nat.reducePow]

theorem putFMclr_getFMclr (w : Nat) : putFMclr (getFMclr w) = inPlace w 10 22 + inPlace w 0 1 := by
  simp (disch := decide) only [putFMclr, getFMclr, toNat_ofNat_bits_mul, toNat_ofNat_bits_zero, inPlace_add, Nat.reduceAdd,
    -Nat.reducePow]

theorem putFCopy_getFCopy (w : Nat) : putFCopy (getFCopy w) = inPlace w 16 22 + inPlace w 5 10 + inPlace w 0 1 := by
  simp only [putFCopy, getFCopy, toNat_ofNat_bits_mul, toNat_ofNat_bits_zero, Nat.reduceAdd, -Nat.reducePow]

theorem putFLink_getFLink (w : Nat) : putFLink (getFLink w) = inPlace w 16 22 + inPlace w 0 10 := by
  simp (disch := decide) only [putFLink, getFLink, toNat_ofNat_bits_mul, toNat_ofNat_bits_zero, add_inPlace_add, Nat.reduceAdd,
    -Nat.reducePow]

theorem putFAbi_getFAbi (w : Nat) : putFAbi (getFAbi w) = inPlace w 10 22 + inPlace w 0 5 := by
  simp (disch := decide) only [putFAbi, getFAbi, toNat_ofNat_bits_mul, toNat_ofNat_bits_zero, inPlace_add, Nat.reduceAdd,
    -Nat.reducePow]

theorem putFAi_getFAi (w : Nat) : putFAi (getFAi w) = inPlace w 16 22 + inPlace w 0 5 := by
  simp only [putFAi, getFAi, toNat_ofNat_bits_mul, toNat_ofNat_bits_zero, Nat.reduceAdd, -Nat.reducePow]

theorem putFAdi_getFAdi (w : Nat) : putFAdi (getFAdi w) = inPlace w 16 22 + inPlace w 0 10 := by
  simp (disch := decide) only [putFAdi, getFAdi, toNat_ofNat_bits_mul, toNat_ofNat_bits_zero, add_inPlace_add, Nat.reduceAdd,
    -Nat.reducePow]

theorem putFAbd_getFAbd (w : Nat) : putFAbd (getFAbd w) = inPlace w 5 22 := by
  simp (disch := decide) only [putFAbd, getFAbd, toNat_ofNat_bits_mul, inPlace_add, Nat.reduceAdd, -Nat.reducePow]

theorem putFAb_getFAb (w : Nat) : putFAb (getFAb w) = inPlace w 10 22 := by
  simp (disch := decide) only [putFAb, getFAb, toNat_ofNat_bits_mul, inPlace_add, Nat.reduceAdd, -Nat.reducePow]

theorem putFTlb_getFTlb (w : Nat) : putFTlb (getFTlb w) = inPlace w 16 22 + inPlace w 0 1 := by
  simp only [putFTlb, getFTlb, toNat_ofNat_bits_mul, toNat_ofNat_bits_zero, Nat.reduceAdd, -Nat.reducePow]

theorem putFPblk_getFPblk (w : Nat) : putFPblk (getFPblk w) = inPlace w 10 24 := by
  simp (disch := decide) only [putFPblk, getFPblk, toNat_ofNat_bits_mul, inPlace_add, Nat.reduceAdd, -Nat.reducePow]

theorem putFLimm_getFLimm (w : Nat) : putFLimm (getFLimm w) = inPlace w 0 24 := by
  simp only [putFLimm, getFLimm, toNat_ofNat_bits_zero, -Nat.reducePow]

theorem putFPmap_getFPmap (w : Nat) : putFPmap (getFPmap w) = inPlace w 0 24 := by
  simp (disch := decide) only [putFPmap, getFPmap, toNat_ofNat_bits_mul, toNat_ofNat_bits_zero, inPlace_add, Nat.reduceAdd,
    -Nat.reducePow]

/-! ### The classes -/

theorem encodesTo_decodeC {op w : Nat} (top : w / 2 ^ 22 = op) : EncodesTo w (decodeC op w) := by
  unfold decodeC
  split <;> simp only [encodesTo_error, encodesTo_ok, encodesTo_fixedField, encodeWord, putFDisp_getFDisp, putFA_getFA,
    putFJrl_getFJrl, putFCc_getFCc, putFCp_getFCp, putFMask_getFMask,
    inPlace, bits, Option.some.injEq] <;> omega

theorem encodesTo_decodeS {op w : Nat} (top : w / 2 ^ 20 = 0x100 + op) : EncodesTo w (decodeS op w) := by
  unfold decodeS
  split <;> simp only [encodesTo_error, encodesTo_ok, encodesTo_fixedField, encodeWord, putFSr_getFSr, putFS1_getFS1,
    putFSi_getFSi, putFSl_getFSl, putFCsrR_getFCsrR, putFCsrW_getFCsrW,
    inPlace, bits, Option.some.injEq] <;> omega

theorem encodesTo_decodeL {op w : Nat} (top : w / 2 ^ 22 = 0x80 + op) : EncodesTo w (decodeL op w) := by
  unfold decodeL
  split <;> simp only [encodesTo_error, encodesTo_ok, encodesTo_fixedField, encodeWord, putFLm_getFLm, putFSt_getFSt,
    putFLx_getFLx, putFStx_getFStx, putFLp_getFLp, putFBinit_getFBinit, putFFence_getFFence, putFXfence_getFXfence,
    inPlace, bits, Option.some.injEq] <;> omega

theorem encodesTo_decodeV {op w : Nat} (top : w / 2 ^ 21 = 0x180 + op) : EncodesTo w (decodeV op w) := by
  unfold decodeV
  split <;> simp only [encodesTo_error, encodesTo_ok, encodesTo_fixedField, encodeWord, putFVr_getFVr, putFV1_getFV1,
    putFVi_getFVi, putFVp_getFVp, putFVp1_getFVp1,
    inPlace, bits, Option.some.injEq] <;> omega

theorem encodesTo_decodeM {op w : Nat} (top : w / 2 ^ 22 = 0x100 + op) : EncodesTo w (decodeM op w) := by
  unfold decodeM
  split
  case h_1 =>
    rw [encodesTo_fixedField]
    split_ifs <;> simp only [encodesTo_ok, encodesTo_fixedField, encodeWord, putFA_getFA, inPlace, bits,
      Option.some.injEq] at * <;> omega
  all_goals simp only [encodesTo_error, encodesTo_ok, encodesTo_fixedField, encodeWord, putFA_getFA, putFMset_getFMset,
    putFD_getFD, putFAd_getFAd, putFMclr_getFMclr,
    inPlace, bits, Option.some.injEq]
  all_goals omega

theorem encodesTo_decodeE {op w : Nat} (top : w / 2 ^ 22 = 0x140 + op) : EncodesTo w (decodeE op w) := by
  unfold decodeE
  split <;> simp only [encodesTo_error, encodesTo_ok, encodesTo_fixedField, encodeWord, putFCopy_getFCopy, putFLink_getFLink,
    putFAd_getFAd, putFAbi_getFAbi, putFAi_getFAi, putFAdi_getFAdi, putFAbd_getFAbd, putFD_getFD, putFA_getFA, putFAb_getFAb,
    putFTlb_getFTlb,
    inPlace, bits, Option.some.injEq] <;> omega

theorem encodesTo_decodeX {op w : Nat} (top : w / 2 ^ 24 = 0x60 + op) : EncodesTo w (decodeX op w) := by
  unfold decodeX
  split <;> simp only [encodesTo_error, encodesTo_ok, encodesTo_fixedField, encodeWord, putFPblk_getFPblk, putFLimm_getFLimm,
    putFPmap_getFPmap,
    inPlace, bits, Option.some.injEq] <;> omega

/-- R32, R53: the classes together. -/
theorem encodesTo_decodeFields {w : Nat} (lt : w < 2 ^ 31) : EncodesTo w (decodeFields w) := by
  unfold decodeFields
  split
  case h_1 cls => exact encodesTo_decodeC (by unfold bits at *; omega)
  case h_2 cls => exact encodesTo_decodeS (by unfold bits at *; omega)
  case h_3 cls => exact encodesTo_decodeL (by unfold bits at *; omega)
  case h_4 cls => exact encodesTo_decodeV (by unfold bits at *; omega)
  case h_5 cls => exact encodesTo_decodeM (by unfold bits at *; omega)
  case h_6 cls => exact encodesTo_decodeE (by unfold bits at *; omega)
  case h_7 cls => exact encodesTo_decodeX (by unfold bits at *; omega)
  case h_8 => exact encodesTo_error w _

/-- Settles O54: every row of every class names the word that it reads, and the last check is well-formedness. -/
theorem encodeOfDecode : Obligations.EncodeOfDecode := by
  unfold Obligations.EncodeOfDecode
  intro i w lt decoded
  obtain ⟨fields, wf⟩ := decodeWord_eq_ok_iff.1 decoded
  exact ⟨wf, encodesTo_decodeFields lt i fields⟩

end Sys2Proof
end

section
/-! SUPPORT. The S class (R83 to R86): a word of each shared form completes with its result, and the value of each row. -/

namespace Sys2Proof.Machine

/-! ## A word by what its meaning answers -/

section
variable {i : Instr} {eff : State → WordRes} {s : State} (run : exec i s = runWord i eff s)
include run

theorem completesIf_of_run {q : State → Prop} {u : State → State} (ok : ∀ o, q o → eff o = .ok (u o)) : CompletesIf s i q u :=
  fun turn holds => run.trans (runWord_ok turn (ok _ holds))

theorem completes_of_run {u : State → State} (ok : ∀ o, eff o = .ok (u o)) : Completes s i u :=
  fun turn => run.trans (runWord_ok turn (ok _))

theorem trapsIf_of_run {q : State → Prop} {cause faddr : Nat} (trap : ∀ o, q o → eff o = .trap cause faddr o) :
    TrapsIf s i q cause faddr :=
  fun turn holds => run.trans (runWord_trap turn (trap _ holds))

end

/-! ## The forms of R83 -/

theorem completes_alu2 {i : Instr} {f : FSr} {op row : W64 → W64 → W64} {s : State} (run : exec i s = runWord i (alu2 i f op) s)
    (value : ∀ a b, op a b = row a b) :
    Completes s i fun o => o.resS i f.d f.w { v := row (o.srcS i 0).v (o.srcS i 1).v, p := (o.srcS i 0).p || (o.srcS i 1).p } :=
  completes_of_run run fun o => by rw [← value]; rfl

theorem completes_alu3 {i : Instr} {f : FSr} {op row : W64 → W64 → W64 → W64} {s : State}
    (run : exec i s = runWord i (alu3 i f op) s) (value : ∀ a b c, op a b c = row a b c) :
    Completes s i fun o => o.resS i f.d f.w { v := row (o.srcS i 0).v (o.srcS i 1).v (o.srcS i 2).v,
                                              p := (o.srcS i 0).p || (o.srcS i 1).p || (o.srcS i 2).p } :=
  completes_of_run run fun o => by rw [← value]; rfl

/-- A word of one source writes a value of which `q` holds. -/
theorem exec_alu1 {i : Instr} {f : FS1} {op : W64 → W64} {q : W64 → W64 → Prop} {s : State}
    (run : exec i s = runWord i (alu1 i f op) s) (value : ∀ a, q a (op a)) (turn : s.turn i = true) :
    ∃ v, q (s.openBundle.srcS i 0).v v ∧ exec i s = .next (s.openBundle.finish i
      (s.openBundle.resS i f.d f.w { v := v, p := (s.openBundle.srcS i 0).p })) :=
  ⟨_, value _, run.trans (runWord_ok turn rfl)⟩

/-! ## The values of R83 -/

theorem shCount_eq (b : W64) : shCount b = b.toNat % 64 := by simp [shCount, bits]

theorem truth_eq (b : Bool) : truth b = if b = true then 1 else 0 := rfl

theorem slt_eq_true (a b : W64) : a.slt b = true ↔ a.toInt < b.toInt := by simp [BitVec.slt]

theorem ult_eq_true (a b : W64) : a.ult b = true ↔ a.toNat < b.toNat := by simp [BitVec.ult]

theorem divU_eq (a b : W64) : divU a b = if b = 0 then 0xFFFFFFFFFFFFFFFF else a / b := by
  unfold divU
  congr 1
  refine BitVec.eq_of_toNat_eq ?_
  rw [BitVec.toNat_udiv, BitVec.toNat_ofNat, Nat.mod_eq_of_lt]
  exact (Nat.div_le_self ..).trans_lt a.isLt

theorem remU_eq (a b : W64) : remU a b = if b = 0 then a else a % b := by
  unfold remU
  congr 1
  refine BitVec.eq_of_toNat_eq ?_
  rw [BitVec.toNat_umod, BitVec.toNat_ofNat, Nat.mod_eq_of_lt]
  exact (Nat.mod_le ..).trans_lt a.isLt

/-- A mask of `n` ones. -/
theorem getLsbD_ones {n k : Nat} (hk : k < 64) : (BitVec.ofNat 64 (2 ^ n - 1)).getLsbD k = decide (k < n) := by
  rw [BitVec.getLsbD_ofNat, decide_eq_true hk, Bool.true_and, Nat.testBit_two_pow_sub_one]

/-- Position and length of the field of BFX and BFI (R83). -/
theorem field_of_control (b : W64) : bits b.toNat 0 6 = b.toNat % 64 ∧ bits b.toNat 8 6 = b.toNat / 256 % 64 := by
  simp [bits]

theorem bfx_eq (a b : W64) : bfx a b = (a >>> (b.toNat % 64)) &&& BitVec.ofNat 64 (2 ^ (b.toNat / 256 % 64 + 1) - 1) := by
  obtain ⟨pos, len⟩ := field_of_control b
  apply BitVec.eq_of_getLsbD_eq
  intro k hk
  rw [BitVec.getLsbD_and, getLsbD_ones hk, bfx, pos, len, BitVec.getLsbD_ofNat, bits, Nat.testBit_mod_two_pow,
    Nat.testBit_div_two_pow, BitVec.getLsbD_ushiftRight, BitVec.getLsbD, decide_eq_true hk, Bool.true_and, Bool.and_comm,
    Nat.add_comm k]

theorem bfi_eq (a b c : W64) : bfi a b c =
    (c &&& ~~~(BitVec.ofNat 64 (2 ^ (b.toNat / 256 % 64 + 1) - 1) <<< (b.toNat % 64))) |||
      ((a <<< (b.toNat % 64)) &&& (BitVec.ofNat 64 (2 ^ (b.toNat / 256 % 64 + 1) - 1) <<< (b.toNat % 64))) := by
  obtain ⟨pos, len⟩ := field_of_control b
  apply BitVec.eq_of_getLsbD_eq
  intro k hk
  rw [bfi, pos, len, BitVec.getLsbD_ofNat, testBit_setBits]
  simp only [BitVec.getLsbD_or, BitVec.getLsbD_and, BitVec.getLsbD_not, BitVec.getLsbD_shiftLeft, hk, decide_true, Bool.true_and]
  by_cases low : k < b.toNat % 64
  · simp [low, show ¬ (b.toNat % 64 ≤ k) by omega]; rfl
  · rw [getLsbD_ones (by omega)]
    by_cases inside : k - b.toNat % 64 < b.toNat / 256 % 64 + 1
    · rw [if_pos (by omega)]; simp [low, inside]; rfl
    · rw [if_neg (by omega)]; simp [low, inside]; rfl

theorem clzN_spec (n x : Nat) : clzN n x ≤ n ∧ (∀ k, n - clzN n x ≤ k → k < n → bit x k = false) ∧
    (clzN n x < n → bit x (n - 1 - clzN n x) = true) := by
  induction n with
  | zero => exact ⟨le_rfl, fun k _ h => absurd h (Nat.not_lt_zero k), fun h => absurd h (Nat.not_lt_zero _)⟩
  | succ n ih =>
    obtain ⟨le, zeros, one⟩ := ih
    rw [clzN]
    split
    case isTrue top => exact ⟨Nat.zero_le _, fun k h1 h2 => by omega, fun _ => by simpa using top⟩
    case isFalse top =>
      refine ⟨by omega, fun k h1 h2 => ?_, fun h => ?_⟩
      · rcases Nat.lt_or_ge k n with h | h
        · exact zeros k (by omega) h
        · rw [show k = n by omega]; simpa using top
      · rw [show n + 1 - 1 - (1 + clzN n x) = n - 1 - clzN n x by omega]; exact one (by omega)

theorem bit_div_two (x k : Nat) : bit (x / 2) k = bit x (k + 1) := by
  unfold bit; rw [Nat.div_div_eq_div_mul, pow_succ, Nat.mul_comm]

theorem ctzN_spec (n x : Nat) : ctzN n x ≤ n ∧ (∀ k < ctzN n x, bit x k = false) ∧ (ctzN n x < n → bit x (ctzN n x) = true) := by
  induction n generalizing x with
  | zero => exact ⟨le_rfl, fun k h => absurd h (Nat.not_lt_zero k), fun h => absurd h (Nat.not_lt_zero _)⟩
  | succ n ih =>
    obtain ⟨le, zeros, one⟩ := ih (x / 2)
    rw [ctzN]
    split
    case isTrue odd => exact ⟨Nat.zero_le _, fun k h => absurd h (Nat.not_lt_zero k), fun _ => by simp [bit, odd]⟩
    case isFalse even =>
      refine ⟨by omega, fun k h => ?_, fun h => ?_⟩
      · cases k with
        | zero => simpa [bit] using even
        | succ k => rw [← bit_div_two]; exact zeros k (by omega)
      · rw [Nat.add_comm, ← bit_div_two]; exact one (by omega)

/-- A number with no bit below its width is zero. -/
theorem eq_zero_of_bits {a : W64} (h : ∀ k < 64, a.getLsbD k = false) : a = 0 :=
  BitVec.eq_of_getLsbD_eq fun k hk => by rw [h k hk]; simp

theorem clz_value (a : W64) : (a = 0 → BitVec.ofNat 64 (clzN 64 a.toNat) = 64) ∧
    (a ≠ 0 → (BitVec.ofNat 64 (clzN 64 a.toNat)).toNat < 64 ∧ a.getLsbD (63 - (BitVec.ofNat 64 (clzN 64 a.toNat)).toNat) = true ∧
      ∀ k, 63 - (BitVec.ofNat 64 (clzN 64 a.toNat)).toNat < k → k < 64 → a.getLsbD k = false) := by
  obtain ⟨le, zeros, one⟩ := clzN_spec 64 a.toNat
  simp only [bit_toNat] at zeros one
  rw [BitVec.toNat_ofNat, Nat.mod_eq_of_lt (by omega)]
  constructor
  · rintro rfl
    have : clzN 64 (0 : W64).toNat = 64 := by
      by_contra h
      simpa using one (by omega)
    rw [this]; rfl
  · intro nonzero
    have lt : clzN 64 a.toNat < 64 := by
      by_contra h
      exact nonzero (eq_zero_of_bits fun k hk => zeros k (by omega) hk)
    exact ⟨lt, one lt, fun k h1 h2 => zeros k (by omega) h2⟩

theorem ctz_value (a : W64) : (a = 0 → BitVec.ofNat 64 (ctzN 64 a.toNat) = 64) ∧
    (a ≠ 0 → a.getLsbD (BitVec.ofNat 64 (ctzN 64 a.toNat)).toNat = true ∧
      ∀ k < (BitVec.ofNat 64 (ctzN 64 a.toNat)).toNat, a.getLsbD k = false) := by
  obtain ⟨le, zeros, one⟩ := ctzN_spec 64 a.toNat
  simp only [bit_toNat] at zeros one
  rw [BitVec.toNat_ofNat, Nat.mod_eq_of_lt (by omega)]
  constructor
  · rintro rfl
    have : ctzN 64 (0 : W64).toNat = 64 := by
      by_contra h
      simpa using one (by omega)
    rw [this]; rfl
  · intro nonzero
    have lt : ctzN 64 a.toNat < 64 := by
      by_contra h
      exact nonzero (eq_zero_of_bits fun k hk => zeros k (by omega))
    exact ⟨one lt, zeros⟩

theorem popN_eq (n x : Nat) : popN n x = ((List.range n).filter fun k => x.testBit k).length := by
  induction n generalizing x with
  | zero => rfl
  | succ n ih =>
    have shift : (fun k => x.testBit k) ∘ Nat.succ = fun k => (x / 2).testBit k := by
      funext k; exact (Nat.testBit_div_two x k).symm
    rw [popN, ih, List.range_succ_eq_map, List.filter_cons, List.filter_map, shift, Nat.testBit_zero]
    rcases Nat.mod_two_eq_zero_or_one x with h | h <;> simp [h, Nat.add_comm]

theorem popc_value (a : W64) :
    (BitVec.ofNat 64 (popN 64 a.toNat)).toNat = ((List.range 64).filter fun k => a.getLsbD k).length := by
  have le : ((List.range 64).filter fun k => a.toNat.testBit k).length ≤ 64 := (List.length_filter_le ..).trans_eq List.length_range
  rw [BitVec.toNat_ofNat, popN_eq, Nat.mod_eq_of_lt (by omega)]
  rfl

theorem bswap_value (a : W64) (k : Nat) (hk : k < 8) : (bswap a).toNat / 256 ^ k % 256 = a.toNat / 256 ^ (7 - k) % 256 := by
  have lt := ofElems_lt 1 (elems a.toNat 1 8).reverse
  rw [List.length_reverse, length_elems] at lt
  have byte (x j : Nat) : x / 256 ^ j % 256 = elem x 1 j := by rw [elem_eq, pow_mul, Nat.mul_one]; rfl
  have rev : (elems a.toNat 1 8).reverse.getD k 0 = (elems a.toNat 1 8).getD (7 - k) 0 := by
    rw [getD_at _ _ (by rw [List.length_reverse, length_elems]; exact hk), getD_at _ _ (by rw [length_elems]; omega),
      List.getElem_reverse]
    simp only [length_elems]
  rw [bswap, BitVec.toNat_ofNat, Nat.mod_eq_of_lt lt, byte, byte, elem_ofElems, rev, getD_elems, if_pos (by omega), elem_eq,
    Nat.mod_mod]

/-- Settles O1: each word has one of three forms, and the operation of its form is the value of its row. -/
theorem scalarIntegerWords : Obligations.ScalarIntegerWords := by
  unfold Obligations.ScalarIntegerWords
  refine ⟨fun f s => ?two, fun f s => ?three, fun f s => ?one⟩
  case two =>
    intro C
    have row {i : Instr} {op op' : W64 → W64 → W64} (run : exec i s = runWord i (alu2 i f op') s) (value : ∀ a b,
      op' a b = op a b) :
        C i op := completes_alu2 run value
    clear_value C
    refine ⟨row (exec_add f s) fun _ _ => rfl, row (exec_sub f s) fun _ _ => rfl, row (exec_and f s) fun _ _ => rfl,
      row (exec_or f s) fun _ _ => rfl, row (exec_xor f s) fun _ _ => rfl, row (exec_andn f s) fun _ _ => rfl,
      row (exec_sll f s) fun a b => by rw [shCount_eq], row (exec_srl f s) fun a b => by rw [shCount_eq],
      row (exec_sra f s) fun a b => by rw [shCount_eq], row (exec_mul f s) fun _ _ => rfl, row (exec_mulh f s) fun _ _ => rfl,
      row (exec_mulhu f s) fun _ _ => rfl, row (exec_div f s) fun _ _ => rfl, row (exec_divu f s) divU_eq,
      row (exec_rem f s) fun _ _ => rfl, row (exec_remu f s) remU_eq, row (exec_min f s) fun a b => by simp only [slt_eq_true],
      row (exec_max f s) fun a b => by simp only [slt_eq_true], row (exec_minu f s) fun a b => by simp only [ult_eq_true],
      row (exec_maxu f s) fun a b => by simp only [ult_eq_true], row (exec_slt f s) fun a b => by simp only [truth_eq, slt_eq_true],
      row (exec_sltu f s) fun a b => by simp only [truth_eq, ult_eq_true], row (exec_seq f s) fun a b => by simp [truth_eq],
      row (exec_sne f s) fun a b => by simp [truth_eq, ite_not], row (exec_addw f s) fun a b => sext64_eq _ 32 (by decide),
      row (exec_subw f s) fun a b => sext64_eq _ 32 (by decide), row (exec_mulw f s) fun a b => sext64_eq _ 32 (by decide),
      row (exec_bfx f s) bfx_eq⟩
  case three =>
    intro C
    have row {i : Instr} {op op' : W64 → W64 → W64 → W64} (run : exec i s = runWord i (alu3 i f op') s)
        (value : ∀ a b c, op' a b c = op a b c) : C i op := completes_alu3 run value
    clear_value C
    exact ⟨row (exec_cmovz f s) fun _ _ _ => rfl, row (exec_cmovnz f s) fun _ _ _ => rfl, row (exec_bfi f s) bfi_eq⟩
  case one =>
    intro R
    have row {i : Instr} {op : W64 → W64} {q : W64 → W64 → Prop} (run : exec i s = runWord i (alu1 i f op) s)
        (value : ∀ a, q a (op a)) : R i q := exec_alu1 run value
    clear_value R
    refine ⟨row (exec_clz f s) clz_value, row (exec_ctz f s) ctz_value, row (exec_popc f s) popc_value,
      row (exec_sextb f s) fun a => sext64_eq a 8 (by decide), row (exec_sexth f s) fun a => sext64_eq a 16 (by decide),
      row (exec_sextw f s) fun a => sext64_eq a 32 (by decide), row (exec_zextw f s) fun a => ?_, row (exec_bswap f s) bswap_value⟩
    exact BitVec.eq_of_toNat_eq (by simp)

end Sys2Proof.Machine
end

section
/-! SUPPORT. Immediates (R47) and the scalar words that carry one (R84, R85). -/

namespace Sys2Proof.Machine

/-- R47: an immediate by its field and the payload of the bundle's LIMM. -/
theorem imm_of_view {i : Instr} {n v : Nat} (view : (viewOf i).imm = some (n, v)) (ws : List Instr) :
    immU ws i = (extend (limmOf ws) n v).2 ∧
      immS ws i = signed (extend (limmOf ws) n v).2 (extend (limmOf ws) n v).1 := by
  unfold immU immS
  rw [view]
  exact ⟨rfl, rfl⟩

theorem completes_aluI {i : Instr} {f : FSi} {op row : W64 → W64 → W64} {s : State} (run : exec i s = runWord i (aluI i f op) s)
    (value : ∀ a b, op a b = row a b) :
    Completes s i fun o =>
      o.resS i f.d f.w { v := row (o.srcS i 0).v (BitVec.ofInt 64 (immS (o.words i) i)), p := (o.srcS i 0).p } :=
  completes_of_run run fun o => by rw [← value]; rfl

theorem completes_aluSh {i : Instr} {f : FSi} {op : W64 → Nat → W64} {s : State} (run : exec i s = runWord i (aluSh i f op) s) :
    Completes s i fun o => o.resS i f.d f.w { v := op (o.srcS i 0).v (immU (o.words i) i), p := (o.srcS i 0).p } :=
  completes_of_run run fun _ => rfl

theorem completes_loadImm {i : Instr} {f : FSl} {v row : State → W64} {s : State} (run : exec i s = runWord i (loadImm i f v) s)
    (value : ∀ o, v o = row o) : Completes s i fun o => o.resS i f.d f.w { v := row o } :=
  completes_of_run run fun o => by rw [← value]; rfl

/-- Settles O2: the three forms, and the two cases of `extend`. -/
theorem scalarImmediates : Obligations.ScalarImmediates := by
  unfold Obligations.ScalarImmediates
  refine ⟨fun f g s => ?words, fun ws i n v view _ pos => ⟨fun no => ?plain, fun p limm _ => ?extended⟩⟩
  case words =>
    intro C S
    have row {i : Instr} {op op' : W64 → W64 → W64} (run : exec i s = runWord i (aluI i f op') s) (value : ∀ a b,
      op' a b = op a b) :
        C i op := completes_aluI run value
    have shift {i : Instr} {op : W64 → Nat → W64} (run : exec i s = runWord i (aluSh i f op) s) : S i op := completes_aluSh run
    clear_value C S
    refine ⟨row (exec_addi f s) fun _ _ => rfl, row (exec_andi f s) fun _ _ => rfl, row (exec_ori f s) fun _ _ => rfl,
      row (exec_xori f s) fun _ _ => rfl, row (exec_slti f s) fun a b => by simp only [truth_eq, slt_eq_true],
      row (exec_sltiu f s) fun a b => by simp only [truth_eq, ult_eq_true], row (exec_muli f s) fun _ _ => rfl,
      shift (exec_slli f s), shift (exec_srli f s), shift (exec_srai f s), completes_loadImm (exec_li g s) fun _ => rfl,
      completes_loadImm (exec_lui g s) fun o => ?_⟩
    exact BitVec.eq_of_toNat_eq (by simp [Nat.shiftLeft_eq, State.immU])
  case plain =>
    obtain ⟨u, sg⟩ := imm_of_view view ws
    rw [u, sg, no]
    exact ⟨rfl, ofInt_signed v n pos⟩
  case extended =>
    obtain ⟨u, sg⟩ := imm_of_view view ws
    rw [u, sg, limm]
    exact ⟨rfl, ofInt_signed _ _ (by show 0 < n + 24; omega)⟩

end Sys2Proof.Machine
end

section
/-! SUPPORT. The scalar floating-point words (R76, R86), and what the floating-point operations give (R52, R98, R99, R112, R113,
  R137):
each of them rounds a magnitude that lies between two neighbouring integers of units, which `roundFin_gives` rounds once. -/

namespace Sys2Proof.Machine

/-! ## The words -/

theorem completes_fp2 {i : Instr} {f : FSr} {op row : Nat → W64 → W64 → Nat × Flags} {s : State}
    (run : exec i s = runWord i (fp2 i f op) s) (value : ∀ rm a b, op rm a b = row rm a b) :
    Completes s i fun o =>
      (o.resS i f.d f.w { v := BitVec.ofNat 64 (row o.iss.pre.rm (o.srcS i 0).v (o.srcS i 1).v).1,
                          p := (o.srcS i 0).p || (o.srcS i 1).p }).orFcsr (row o.iss.pre.rm (o.srcS i 0).v (o.srcS i 1).v).2 :=
  completes_of_run run fun o => by rw [← value]; rfl

theorem completes_fp1 {i : Instr} {f : FS1} {op : Nat → W64 → Nat × Flags} {row : Nat → W64 → W64 × Flags} {s : State}
    (run : exec i s = runWord i (fp1 i f op) s) (value : ∀ rm a, (BitVec.ofNat 64 (op rm a).1, (op rm a).2) = row rm a) :
    Completes s i fun o =>
      (o.resS i f.d f.w { v := (row o.iss.pre.rm (o.srcS i 0).v).1, p := (o.srcS i 0).p }).orFcsr
        (row o.iss.pre.rm (o.srcS i 0).v).2 :=
  completes_of_run run fun o => by rw [← value]; rfl

/-- An integer narrowed to 64 bits, as the bit vector of the integer. -/
theorem ofNat_narrow (x : Int) : BitVec.ofNat 64 (narrow x 64) = BitVec.ofInt 64 x := by
  apply BitVec.eq_of_toNat_eq
  rw [BitVec.toNat_ofNat, BitVec.toNat_ofInt, narrow, Nat.mod_eq_of_lt]
  have := Int.emod_lt_of_pos x (b := ((2 ^ 64 : Nat) : Int)) (by norm_num)
  omega

/-! ## Rounding once -/

section
variable {f : FpFmt} (hf : f ∈ [fp32, bf16, fp16, e4m3, e5m2]) {rm : Nat} (hrm : rm < 4)
include hf hrm

/-- A magnitude that lies between `m` and `m + 1` units, with its sign. -/
theorem gives_signed (n : Bool) {a : ℝ} {m : Nat} {e : Int} {sticky : Bool} (hm : m ≠ 0) (h1 : m * 2 ^ e ≤ a)
    (h2 : a < (m + 1) * 2 ^ e) (hs : sticky = true ↔ (m : ℝ) * 2 ^ e ≠ a) (hq : sticky = true → f.m < m.log2) :
    f.Gives rm ((if n then -1 else 1) * a) (roundFin f rm n m e sticky) := by
  have pos : 0 < a := lt_of_lt_of_le (by have := Nat.pos_of_ne_zero hm; positivity) h1
  have mag : |(if n then -1 else 1) * a| = a := by cases n <;> simp [abs_of_pos pos]
  have sign : decide ((if n then -1 else 1) * a < 0) = n := by cases n <;> simp [pos, pos.le]
  have := roundFin_gives f hf rm hrm m e sticky ((if n then -1 else 1) * a) hm (by rw [mag]; exact h1) (by rw [mag]; exact h2)
    (by rw [mag]; exact hs) hq
  rwa [sign] at this

/-- A magnitude that is known exactly. -/
theorem gives_fin (n : Bool) {m : Nat} (e : Int) (hm : m ≠ 0) : f.Gives rm (Fv.fin n m e).real (roundFin f rm n m e false) :=
  gives_signed hf hrm n hm le_rfl (by have : (0 : ℝ) < 2 ^ e := by positivity
                                      linarith) (by simp) (by simp)

theorem gives_int {z : Int} (q : Int) (hz : z ≠ 0) :
    f.Gives rm (z * 2 ^ q) (roundFin f rm (decide (z < 0)) z.natAbs q false) := by
  have same : (Fv.fin (decide (z < 0)) z.natAbs q).real = z * 2 ^ q := by
    simp only [Fv.real, ← mul_assoc]
    congr 1
    rw [← Int.cast_natCast, Int.natCast_natAbs]
    by_cases h : z < 0
    · simp [h, abs_of_neg h]
    · simp [h, abs_of_nonneg (not_lt.1 h)]
  rw [← same]
  exact gives_fin hf hrm _ q (Int.natAbs_ne_zero.2 hz)

end

/-! ## Sums -/

theorem roundSum_gives {f : FpFmt} (hf : f ∈ [fp32, bf16, fp16, e4m3, e5m2]) {rm : Nat} (hrm : rm < 4) (n k : Bool) (m l : Nat)
    (e g : Int) (h : (Fv.fin n m e).real + (Fv.fin k l g).real ≠ 0) :
    f.Gives rm ((Fv.fin n m e).real + (Fv.fin k l g).real) (roundSum f rm n m e k l g) := by
  rw [← addExact_real] at h ⊢
  have nonzero : (addExact n m e k l g).1 ≠ 0 := fun z => h (by rw [z]; simp)
  unfold roundSum
  rw [if_neg nonzero]
  exact gives_int hf hrm _ nonzero

theorem roundSum_zero (f : FpFmt) (rm : Nat) (n k : Bool) (m l : Nat) (e g : Int)
    (h : (Fv.fin n m e).real + (Fv.fin k l g).real = 0) :
    roundSum f rm n m e k l g = (f.zero (if m = 0 ∧ l = 0 ∧ n = k then n else rm == 3), 0) := by
  rw [← addExact_real] at h
  have zero : (addExact n m e k l g).1 = 0 := by
    have := (mul_eq_zero.1 h).resolve_right (by positivity)
    exact_mod_cast this
  unfold roundSum
  simp only [if_pos zero, Bool.and_eq_true, decide_eq_true_eq, beq_iff_eq, and_assoc]
  split <;> rfl

/-! ## Products -/

theorem real_mul (n k : Bool) (m l : Nat) (e g : Int) :
    (Fv.fin n m e).real * (Fv.fin k l g).real = (Fv.fin (n != k) (m * l) (e + g)).real := by
  simp only [Fv.real, zpow_add₀ (show (2 : ℝ) ≠ 0 by norm_num)]
  cases n <;> cases k <;> push_cast <;> simp <;> ring

/-! ## Quotients -/

theorem real_div (n k : Bool) (m l : Nat) (e g : Int) :
    (Fv.fin n m e).real / (Fv.fin k l g).real = (if (n != k) = true then -1 else 1) * (m / l * 2 ^ (e - g)) := by
  simp only [Fv.real, zpow_sub₀ (show (2 : ℝ) ≠ 0 by norm_num)]
  cases n <;> cases k <;> simp [neg_div, div_neg, mul_div_mul_comm]

/-- The quotient in units of 2^(e - sh) lies between the integer quotient and the next integer. -/
theorem div_between {x l : Nat} (hl : l ≠ 0) : ((x / l : Nat) : ℝ) ≤ x / l ∧ (x : ℝ) / l < (x / l : Nat) + 1 ∧
    ((x % l != 0) = true ↔ ((x / l : Nat) : ℝ) ≠ x / l) := by
  have pos : (0 : ℝ) < l := by exact_mod_cast Nat.pos_of_ne_zero hl
  have whole : (x : ℝ) = l * (x / l : Nat) + (x % l : Nat) := by exact_mod_cast (Nat.div_add_mod x l).symm
  have less : ((x % l : Nat) : ℝ) < l := by exact_mod_cast Nat.mod_lt x (Nat.pos_of_ne_zero hl)
  refine ⟨Nat.cast_div_le, ?_, ?_⟩
  · rw [div_lt_iff₀ pos]; linarith
  · rw [bne_iff_ne, Ne, Ne, not_iff_not, eq_div_iff pos.ne']
    constructor
    · intro h; rw [h] at whole; push_cast at whole; linarith
    · intro h
      have : ((x % l : Nat) : ℝ) = 0 := by linarith
      exact_mod_cast this

theorem fpDiv_gives {f : FpFmt} (hf : f ∈ [fp32, bf16, fp16, e4m3, e5m2]) {rm : Nat} (hrm : rm < 4) (n k : Bool) {m l : Nat}
    (e g : Int) (hm : m ≠ 0) (hl : l ≠ 0) :
    f.Gives rm ((Fv.fin n m e).real / (Fv.fin k l g).real) (fpDiv f rm (.fin n m e) (.fin k l g)) := by
  have run : fpDiv f rm (.fin n m e) (.fin k l g) = roundFin f rm (n != k) (m * 2 ^ (f.m + 4 + l.log2) / l)
      (e - g - (f.m + 4 + l.log2 : Nat)) (m * 2 ^ (f.m + 4 + l.log2) % l != 0) := by
    simp [fpDiv, Fv.isNan, hm, hl]
  rw [run, real_div]
  generalize hsh : f.m + 4 + l.log2 = sh
  obtain ⟨below, above, inexact⟩ := div_between (x := m * 2 ^ sh) hl
  have unit : (0 : ℝ) < 2 ^ (e - g - (sh : Int)) := by positivity
  have scaled : (m : ℝ) / l * 2 ^ (e - g) = ((m * 2 ^ sh : Nat) : ℝ) / l * 2 ^ (e - g - (sh : Int)) := by
    rw [zpow_sub₀ (by norm_num) (e - g), zpow_natCast]; push_cast; field_simp
  have large : 2 ^ (f.m + 3) ≤ m * 2 ^ sh / l := by
    rw [Nat.le_div_iff_mul_le (Nat.pos_of_ne_zero hl)]
    calc 2 ^ (f.m + 3) * l ≤ 2 ^ (f.m + 3) * 2 ^ (l.log2 + 1) := Nat.mul_le_mul_left _ Nat.lt_log2_self.le
      _ = 2 ^ sh := by rw [← pow_add, ← hsh]; congr 1; omega
      _ ≤ m * 2 ^ sh := Nat.le_mul_of_pos_left _ (Nat.pos_of_ne_zero hm)
  have nonzero : m * 2 ^ sh / l ≠ 0 := by have := Nat.two_pow_pos (f.m + 3); omega
  rw [scaled]
  refine gives_signed hf hrm _ nonzero (mul_le_mul_of_nonneg_right below unit.le) (mul_lt_mul_of_pos_right above unit) ?_ fun _ => ?_
  · rw [inexact, Ne, Ne, mul_left_inj' unit.ne']
  · exact lt_of_lt_of_le (by omega) ((Nat.le_log2 nonzero).2 large)

/-! ## Roots -/

/-- A number with an exponent made even. -/
theorem even_exponent (m : Nat) (e : Int) :
    (m : ℝ) * 2 ^ e = ((if e % 2 == 1 then 2 * m else m : Nat) : ℝ) * (2 ^ ((if e % 2 == 1 then e - 1 else e) / 2)) ^ 2 := by
  rw [← zpow_natCast, ← zpow_mul]
  by_cases odd : e % 2 = 1
  · simp only [odd, beq_self_eq_true, if_true]
    rw [show (e - 1) / 2 * ((2 : Nat) : Int) = e - 1 by push_cast; omega, zpow_sub₀ (by norm_num)]
    push_cast; ring
  · simp only [beq_eq_false_iff_ne.2 odd, Bool.false_eq_true, if_false]
    rw [show e / 2 * ((2 : Nat) : Int) = e by push_cast; omega]

theorem sqrt_real (m : Nat) (e : Int) : √((m : ℝ) * 2 ^ e) =
    √((if e % 2 == 1 then 2 * m else m : Nat) : ℝ) * 2 ^ ((if e % 2 == 1 then e - 1 else e) / 2) := by
  rw [even_exponent, Real.sqrt_mul (by positivity), Real.sqrt_sq (by positivity)]

/-- A root lies between the integer root and the next integer. -/
theorem sqrt_between {x r : Nat} (h : r * r ≤ x ∧ x < (r + 1) * (r + 1)) :
    (r : ℝ) ≤ √x ∧ √(x : ℝ) < r + 1 ∧ ((r * r != x) = true ↔ (r : ℝ) ≠ √x) := by
  obtain ⟨below, above⟩ := h
  refine ⟨Real.le_sqrt_of_sq_le (by rw [pow_two]; exact_mod_cast below), ?_, ?_⟩
  · rw [Real.sqrt_lt' (by positivity), pow_two]; exact_mod_cast above
  · rw [bne_iff_ne, Ne, Ne, not_iff_not, eq_comm (a := (r : ℝ)), Real.sqrt_eq_iff_mul_self_eq (by positivity) (by positivity)]
    exact_mod_cast eq_comm

theorem lt_four_pow_log2 (x : Nat) : x < 4 ^ (x.log2 / 2 + 1) := by
  refine Nat.lt_log2_self.trans_le ?_
  rw [show 4 = 2 ^ 2 from rfl, ← pow_mul]
  exact Nat.pow_le_pow_right (by decide) (by omega)

theorem fpSqrt_gives {f : FpFmt} (hf : f ∈ [fp32, bf16, fp16, e4m3, e5m2]) {rm : Nat} (hrm : rm < 4) {m : Nat} (e : Int)
    (hm : m ≠ 0) : f.Gives rm √(Fv.fin false m e).real (fpSqrt f rm (.fin false m e)) := by
  have run : fpSqrt f rm (.fin false m e) =
      let x := (if e % 2 == 1 then 2 * m else m) * 4 ^ (f.m + 4)
      let r := isqrt (x.log2 / 2 + 1) x
      roundFin f rm false r ((if e % 2 == 1 then e - 1 else e) / 2 - (f.m + 4 : Nat)) (r * r != x) := by
    simp [fpSqrt, hm]
  have real : √(Fv.fin false m e).real = (if false = true then -1 else 1) * √((m : ℝ) * 2 ^ e) := by simp [Fv.real]
  rw [run, real, sqrt_real]
  generalize hk : (if e % 2 == 1 then 2 * m else m) = k
  have kpos : 1 ≤ k := by rw [← hk]; split <;> omega
  generalize (if e % 2 == 1 then e - 1 else e) / 2 = h
  dsimp only
  have root := isqrt_spec _ _ (lt_four_pow_log2 (k * 4 ^ (f.m + 4)))
  generalize isqrt ((k * 4 ^ (f.m + 4)).log2 / 2 + 1) (k * 4 ^ (f.m + 4)) = r at root ⊢
  obtain ⟨below, above, inexact⟩ := sqrt_between root
  have unit : (0 : ℝ) < 2 ^ (h - (f.m + 4 : Nat)) := by positivity
  have four : (4 : ℝ) ^ (f.m + 4) = (2 ^ (f.m + 4)) ^ 2 := by rw [← pow_mul, mul_comm, pow_mul]; norm_num
  have scaled : √(k : ℝ) * 2 ^ h = √((k * 4 ^ (f.m + 4) : Nat) : ℝ) * 2 ^ (h - (f.m + 4 : Nat)) := by
    rw [zpow_sub₀ (by norm_num), zpow_natCast]
    push_cast
    rw [four, Real.sqrt_mul (by positivity), Real.sqrt_sq (by positivity)]
    field_simp
  have large : 2 ^ (f.m + 4) ≤ r := by
    by_contra small
    have : (r + 1) * (r + 1) ≤ 4 ^ (f.m + 4) := by
      rw [show 4 ^ (f.m + 4) = (2 * 2) ^ (f.m + 4) from rfl, Nat.mul_pow]; exact Nat.mul_le_mul (by omega) (by omega)
    have := Nat.le_mul_of_pos_left (4 ^ (f.m + 4)) kpos
    omega
  have nonzero : r ≠ 0 := by have := Nat.two_pow_pos (f.m + 4); omega
  rw [scaled]
  refine gives_signed hf hrm _ nonzero (mul_le_mul_of_nonneg_right below unit.le) (mul_lt_mul_of_pos_right above unit) ?_ fun _ => ?_
  · rw [inexact, Ne, Ne, mul_left_inj' unit.ne']
  · exact lt_of_lt_of_le (by omega) ((Nat.le_log2 nonzero).2 large)

theorem fpRsqrt_gives {f : FpFmt} (hf : f ∈ [fp32, bf16, fp16, e4m3, e5m2]) {rm : Nat} (hrm : rm < 4) {m : Nat} (e : Int)
    (hm : m ≠ 0) : f.Gives rm (1 / √(Fv.fin false m e).real) (fpRsqrt f rm (.fin false m e)) := by
  have run : fpRsqrt f rm (.fin false m e) =
      let k := if e % 2 == 1 then 2 * m else m
      let sh := f.m + 4 + k.log2
      let r := isqrt (sh + 1) (4 ^ sh / k)
      roundFin f rm false r (-((if e % 2 == 1 then e - 1 else e) / 2) - sh) (r * r * k != 4 ^ sh) := by
    simp [fpRsqrt, hm]
  have real : 1 / √(Fv.fin false m e).real = (if false = true then -1 else 1) * (1 / √((m : ℝ) * 2 ^ e)) := by simp [Fv.real]
  rw [run, real, sqrt_real]
  generalize hk : (if e % 2 == 1 then 2 * m else m) = k
  have kpos : 0 < k := by rw [← hk]; split <;> omega
  generalize (if e % 2 == 1 then e - 1 else e) / 2 = h
  dsimp only
  generalize hsh : f.m + 4 + k.log2 = sh
  have root := isqrt_spec (sh + 1) (4 ^ sh / k) ((Nat.div_le_self ..).trans_lt (Nat.pow_lt_pow_right (by decide) (by omega)))
  generalize isqrt (sh + 1) (4 ^ sh / k) = r at root ⊢
  have kreal : (0 : ℝ) < k := by exact_mod_cast kpos
  have four : (4 : ℝ) ^ sh = (2 ^ sh) ^ 2 := by rw [← pow_mul, mul_comm, pow_mul]; norm_num
  -- the exact magnitude in units of the last place of `r`
  have exact_units : (2 ^ sh / √(k : ℝ)) ^ 2 = 4 ^ sh / k := by rw [div_pow, Real.sq_sqrt kreal.le, four]
  have below : (r : ℝ) ≤ 2 ^ sh / √k := by
    have : r * r * k ≤ 4 ^ sh := (Nat.mul_le_mul_right k root.1).trans (Nat.div_mul_le_self ..)
    rw [← abs_of_nonneg (show (0 : ℝ) ≤ r by positivity), ← abs_of_nonneg (show (0 : ℝ) ≤ 2 ^ sh / √k by positivity), ← sq_le_sq,
      exact_units, le_div_iff₀ kreal, pow_two]
    exact_mod_cast this
  have above : 2 ^ sh / √(k : ℝ) < r + 1 := by
    have : 4 ^ sh < (r + 1) * (r + 1) * k := (Nat.div_lt_iff_lt_mul kpos).1 root.2
    rw [← abs_of_nonneg (show (0 : ℝ) ≤ r + 1 by positivity), ← abs_of_nonneg (show (0 : ℝ) ≤ 2 ^ sh / √k by positivity),
      ← sq_lt_sq,
      exact_units, div_lt_iff₀ kreal, pow_two]
    exact_mod_cast this
  have inexact : (r * r * k != 4 ^ sh) = true ↔ (r : ℝ) ≠ 2 ^ sh / √k := by
    have squares := sq_eq_sq₀ (show (0 : ℝ) ≤ r by positivity) (show (0 : ℝ) ≤ 2 ^ sh / √k by positivity)
    rw [bne_iff_ne, Ne, Ne, not_iff_not, ← squares, exact_units, eq_div_iff kreal.ne', pow_two]
    exact_mod_cast Iff.rfl
  have unit : (0 : ℝ) < 2 ^ (-h - (sh : Int)) := by positivity
  have scaled : 1 / (√(k : ℝ) * 2 ^ h) = 2 ^ sh / √k * 2 ^ (-h - (sh : Int)) := by
    rw [zpow_sub₀ (by norm_num), zpow_natCast, zpow_neg]
    have : √(k : ℝ) ≠ 0 := (Real.sqrt_pos.2 kreal).ne'
    field_simp
  have large : 2 ^ (f.m + 3) ≤ r := by
    by_contra small
    have sq : (r + 1) * (r + 1) ≤ 4 ^ (f.m + 3) := by
      rw [show 4 = 2 * 2 from rfl, Nat.mul_pow]; exact Nat.mul_le_mul (by omega) (by omega)
    have : 4 ^ (f.m + 3) ≤ 4 ^ sh / k := by
      rw [Nat.le_div_iff_mul_le kpos]
      calc 4 ^ (f.m + 3) * k ≤ 4 ^ (f.m + 3) * 2 ^ (k.log2 + 1) := Nat.mul_le_mul_left _ Nat.lt_log2_self.le
        _ ≤ 4 ^ (f.m + 3) * 4 ^ (k.log2 + 1) := Nat.mul_le_mul_left _ (Nat.pow_le_pow_left (by decide) _)
        _ = 4 ^ sh := by rw [← pow_add, ← hsh]; congr 1; omega
    omega
  have nonzero : r ≠ 0 := by have := Nat.two_pow_pos (f.m + 3); omega
  rw [scaled]
  refine gives_signed hf hrm _ nonzero (mul_le_mul_of_nonneg_right below unit.le) (mul_lt_mul_of_pos_right above unit) ?_ fun _ => ?_
  · rw [inexact, Ne, Ne, mul_left_inj' unit.ne']
  · exact lt_of_lt_of_le (by omega) ((Nat.le_log2 nonzero).2 large)

/-! ## Infinities, zeros and NaNs -/

theorem mulExact_fin (n k : Bool) (m l : Nat) (e g : Int) :
    mulExact (.fin n m e) (.fin k l g) = (.fin (n != k) (m * l) (e + g), 0) := rfl

/-- A product of a NaN is a NaN, with no flag of its own. -/
theorem mulExact_of_isNan {a b : Fv} (h : a.isNan = true ∨ b.isNan = true) : ∃ s, mulExact a b = (.nan s, 0) := by
  cases a <;> cases b <;> simp [Fv.isNan] at h <;> exact ⟨_, rfl⟩

theorem invalid_or_sigFlags (l : List Fv) : fNV ||| sigFlags l = fNV := by
  unfold sigFlags
  split <;> rfl

theorem fpAdd_of_isNan (f : FpFmt) (rm : Nat) {a b : Fv} (h : a.isNan = true ∨ b.isNan = true) :
    fpAdd f rm a b = (f.canon, sigFlags [a, b]) := by
  unfold fpAdd
  rw [if_pos (by simpa using h)]

theorem fpMul_of_isNan (f : FpFmt) (rm : Nat) {a b : Fv} (h : a.isNan = true ∨ b.isNan = true) :
    fpMul f rm a b = (f.canon, sigFlags [a, b]) := by
  obtain ⟨s, product⟩ := mulExact_of_isNan h
  simp [fpMul, product]

theorem fpDiv_of_isNan (f : FpFmt) (rm : Nat) {a b : Fv} (h : a.isNan = true ∨ b.isNan = true) :
    fpDiv f rm a b = (f.canon, sigFlags [a, b]) := by
  unfold fpDiv
  rw [if_pos (by simpa using h)]

/-- A fused product-sum with a NaN in it. -/
theorem fpFma_of_nan (f : FpFmt) (rm : Nat) {a b c p : Fv} {fl : Flags} (product : mulExact a b = (p, fl))
    (h : p.isNan = true ∨ c.isNan = true) : fpFma f rm a b c = (f.canon, fl ||| sigFlags [a, b, c]) := by
  simp only [fpFma, product, fpAdd_of_isNan f rm h]
  rw [if_pos (by simpa using h)]

theorem fpFma_of_isNan (f : FpFmt) (rm : Nat) {a b : Fv} (c : Fv) (h : a.isNan = true ∨ b.isNan = true) :
    fpFma f rm a b c = (f.canon, sigFlags [a, b, c]) := by
  obtain ⟨s, product⟩ := mulExact_of_isNan h
  simp [fpFma_of_nan f rm product (.inl rfl)]

theorem sig_of_not_isNan {a : Fv} (h : a.isNan = false) : a.sig = false := by
  cases a with
  | nan s => cases h
  | inf n => rfl
  | fin n m e => rfl

/-- A fused product-sum whose product and addend are no NaN is the sum of the two. -/
theorem fpFma_of_not_isNan (f : FpFmt) (rm : Nat) {a b c p : Fv} {fl : Flags} (product : mulExact a b = (p, fl))
    (hp : p.isNan = false) (hc : c.isNan = false) : fpFma f rm a b c = fpAdd f rm p c := by
  simp [fpFma, product, hp, hc]

theorem fpFma_fin (f : FpFmt) (rm : Nat) (n k h : Bool) (m l j : Nat) (e g i : Int) :
    fpFma f rm (.fin n m e) (.fin k l g) (.fin h j i) = roundSum f rm (n != k) (m * l) (e + g) h j i :=
  fpFma_of_not_isNan f rm rfl rfl rfl

/-- Settles O3: the words by their forms, and each operation by its lemma. -/
theorem scalarFloatWords : Obligations.ScalarFloatWords := by
  unfold Obligations.ScalarFloatWords
  refine ⟨fun f g s => ?words, fun f rm n k h m l j e g i a b c hrm => ?values⟩
  case words =>
    intro F C U
    have row {i : Instr} {op op' : Nat → W64 → W64 → Nat × Flags} (run : exec i s = runWord i (fp2 i f op') s)
        (value : ∀ rm a b, op' rm a b = op rm a b) : C i op := completes_fp2 run value
    have row1 {i : Instr} {op' : Nat → W64 → Nat × Flags} {op : Nat → W64 → W64 × Flags} (run : exec i s = runWord i (fp1 i g op') s)
        (value : ∀ rm a, (BitVec.ofNat 64 (op' rm a).1, (op' rm a).2) = op rm a) : U i op := completes_fp1 run value
    clear_value C U
    exact ⟨row (exec_fadd f s) fun _ _ _ => rfl, row (exec_fsub f s) fun _ _ _ => rfl, row (exec_fmul f s) fun _ _ _ => rfl,
      row (exec_fdiv f s) fun _ _ _ => rfl, row (exec_fmin f s) fun _ _ _ => rfl, row (exec_fmax f s) fun _ _ _ => rfl,
      row (exec_feq f s) fun _ _ _ => rfl, row (exec_flt f s) fun _ _ _ => rfl, row (exec_fle f s) fun _ _ _ => rfl,
      completes_of_run (exec_fma f s) fun _ => rfl, row1 (exec_fsqrt g s) fun _ _ => rfl, row1 (exec_fcvtif g s) fun _ _ => rfl,
      row1 (exec_fcvtfi g s) fun _ _ => by rw [ofNat_narrow]; rfl⟩
  case values =>
    intro x y z bad zero inf
    refine ⟨fun hf hm => gives_fin hf hrm n e hm, fun hf => ?finite, ?addInf, ?mulInf, ?divInf, ?rootInf, ?fmaInf, ?fmaAddInf,
      ?fmaBad, ?nan, ?nanAddend⟩
    case finite =>
      have hf : f ∈ [fp32, bf16, fp16, e4m3, e5m2] := by simp at hf ⊢; tauto
      refine ⟨roundSum_gives hf hrm n k m l e g, roundSum_zero f rm n k m l e g, fun hm hl => ?mul, fun h0 => ?mulZero,
        fun h0 => ?fma, fun h0 => ?fmaZero, fpDiv_gives hf hrm n k e g, fun hm hl => ?_, fun hm hl => ?_, fun hm hl => ?_,
          fun hm hn => ?_,
        fun hm hn => ?_, fun hm => ?_⟩
      case mul =>
        have nonzero : m * l ≠ 0 := Nat.mul_ne_zero hm hl
        simp only [x, y, real_mul, fpMul, mulExact_fin, if_neg nonzero]
        exact gives_fin hf hrm _ _ nonzero
      case mulZero =>
        simp only [x, y, fpMul, mulExact_fin, if_pos (Nat.mul_eq_zero.2 h0), zero]
      case fma =>
        rw [real_mul] at h0 ⊢
        rw [fpFma_fin]
        exact roundSum_gives hf hrm _ _ _ _ _ _ h0
      case fmaZero =>
        rw [real_mul] at h0
        rw [fpFma_fin, roundSum_zero f rm _ _ _ _ _ _ h0]
        simp only [zero, Nat.mul_eq_zero]
        congr 2
        split_ifs with h1 <;> simp_all
      · simp [x, y, fpDiv, Fv.isNan, hm, hl, zero]
      · simp [x, y, fpDiv, Fv.isNan, hm, hl]
      · simp [x, y, fpDiv, Fv.isNan, hm, hl, bad]
      · subst hn; exact ⟨fpSqrt_gives hf hrm e hm, fpRsqrt_gives hf hrm e hm⟩
      · simp [x, fpSqrt, fpRsqrt, hm, hn, bad]
      · simp [x, fpSqrt, fpRsqrt, hm, zero]
    case addInf => simp [x, y, fpAdd, Fv.isNan, inf, bad]
    case mulInf =>
      refine ⟨rfl, ?_, ?_⟩
      · by_cases hl : l = 0 <;> simp [y, fpMul, mulExact, hl, inf, bad, sigFlags, Fv.sig]
      · by_cases hm : m = 0 <;> simp [x, fpMul, mulExact, hm, inf, bad, sigFlags, Fv.sig, bne_comm (a := k)]
    case divInf => exact ⟨rfl, rfl, rfl⟩
    case rootInf => cases n <;> exact ⟨rfl, rfl⟩
    case fmaInf =>
      intro p q product
      rw [fpFma_of_not_isNan f rm product rfl rfl, fpFma_of_not_isNan f rm product rfl rfl]
      simp [z, fpAdd, Fv.isNan, inf, bad]
    case fmaAddInf => exact fpFma_of_not_isNan f rm rfl rfl rfl
    case fmaBad =>
      rintro rfl
      have left : mulExact (.fin n 0 e) (.inf k) = (.nan false, fNV) := rfl
      have right : mulExact (.inf k) (.fin n 0 e) = (.nan false, fNV) := rfl
      rw [fpFma_of_nan f rm left (.inl rfl), fpFma_of_nan f rm right (.inl rfl), invalid_or_sigFlags,
        invalid_or_sigFlags]
      exact ⟨rfl, rfl⟩
    case nan =>
      exact fun h => ⟨fpAdd_of_isNan f rm h, fpMul_of_isNan f rm h, fpDiv_of_isNan f rm h, fpFma_of_isNan f rm c h⟩
    case nanAddend =>
      intro hc
      refine ⟨fun p ha hb product => ?_, ?_⟩
      · rw [fpFma_of_nan f rm product (.inr hc)]
        simp [sigFlags, sig_of_not_isNan ha, sig_of_not_isNan hb]
      · cases c with
        | nan s => cases s <;> exact ⟨rfl, rfl⟩
        | inf n => cases hc
        | fin n m e => cases hc

end Sys2Proof.Machine
end

section
/-! SUPPORT. Results of words in the issuing context (R13 to R17): the register, the latches of the word's pipe, and what stays. -/

namespace Sys2Proof.Machine

/-- A result in the context: the register as `c` has it already, and the front latch of the pipe, if it has one (R17). -/
def Ctx.latched (c : Ctx) (pipe : Option Nat) (x : Latch) : Ctx :=
  match pipe with
  | some k => c.push k x
  | none => c

@[simp] theorem latched_s (c : Ctx) (p : Option Nat) (x : Latch) : (c.latched p x).s = c.s := by cases p <;> rfl
@[simp] theorem latched_v (c : Ctx) (p : Option Nat) (x : Latch) : (c.latched p x).v = c.v := by cases p <;> rfl
@[simp] theorem latched_p (c : Ctx) (p : Option Nat) (x : Latch) : (c.latched p x).p = c.p := by cases p <;> rfl
@[simp] theorem latched_pc (c : Ctx) (p : Option Nat) (x : Latch) : (c.latched p x).pc = c.pc := by cases p <;> rfl
@[simp] theorem latched_fcsr (c : Ctx) (p : Option Nat) (x : Latch) : (c.latched p x).fcsr = c.fcsr := by cases p <;> rfl
@[simp] theorem latched_mode (c : Ctx) (p : Option Nat) (x : Latch) : (c.latched p x).mode = c.mode := by cases p <;> rfl
@[simp] theorem latched_epc (c : Ctx) (p : Option Nat) (x : Latch) : (c.latched p x).epc = c.epc := by cases p <;> rfl
@[simp] theorem latched_lc (c : Ctx) (p : Option Nat) (x : Latch) : (c.latched p x).lc = c.lc := by cases p <;> rfl
@[simp] theorem latched_poisonSeen (c : Ctx) (p : Option Nat) (x : Latch) : (c.latched p x).poisonSeen = c.poisonSeen := by
  cases p <;> rfl
@[simp] theorem latched_sreg (c : Ctx) (p : Option Nat) (x : Latch) (n : Nat) : (c.latched p x).sreg n = c.sreg n := by
  cases p <;> rfl

/-- R17: the front latch takes the value and the second latch its old one. -/
theorem latched_front {c : Ctx} (eight : c.lat.length = 8) {k : Nat} (hk : k < 4) (x : Latch) :
    (c.latched (some k) x).lat.getD (2 * k) .empty = x ∧
      (c.latched (some k) x).lat.getD (2 * k + 1) .empty = c.lat.getD (2 * k) .empty := by
  constructor
  · show ((c.lat.set (2 * k + 1) _).set (2 * k) x).getD (2 * k) _ = x
    rw [getD_listSet, List.length_set, eight, if_pos (by omega)]
  · show ((c.lat.set (2 * k + 1) _).set (2 * k) x).getD (2 * k + 1) _ = _
    rw [getD_listSet, if_neg (by omega), getD_listSet, eight, if_pos (by omega)]

/-- R17: the latches of the other pipes stay. -/
theorem latched_other (c : Ctx) {p : Option Nat} {q : Nat} (h : p ≠ some (q / 2)) (x : Latch) :
    (c.latched p x).lat.getD q .empty = c.lat.getD q .empty := by
  cases p with
  | none => rfl
  | some k =>
    have : k ≠ q / 2 := fun e => h (e ▸ rfl)
    show ((c.lat.set (2 * k + 1) _).set (2 * k) x).getD _ _ = _
    rw [getD_listSet, getD_listSet, if_neg (by omega), if_neg (by omega)]

section
variable {s : State} (resident : (s.ctx? s.iss.tile s.iss.slot).isSome = true)
include resident

theorem cur_resS (i : Instr) (d : BitVec 5) (w : Bool) (x : SVal) :
    (s.resS i d w x).cur = (if w then s.cur.setS d.toNat x else s.cur).latched (s.pipe i) (.scalar x) := by
  rw [State.resS_eq, cur_modCur _ _ resident]
  rfl

theorem cur_resV (i : Instr) (d : BitVec 5) (w : Bool) (x : VVal) :
    (s.resV i d w x).cur =
      (if w then s.cur.setVPhys (physV s.iss.pre.vrb d.toNat) x else s.cur).latched (s.pipe i) (.vector x) := by
  rw [State.resV_eq, cur_modCur _ _ resident]
  rfl

theorem cur_resP (d : BitVec 5) (q : Pred) : (s.resP d q).cur = s.cur.setP s.iss.pre d.toNat q :=
  cur_modCur _ _ resident

end

/-- R13: a scalar register after one was written. -/
theorem sreg_setS (c : Ctx) (full : c.s.length = 32) (d n : Nat) (hn : n < 32) (x : SVal) :
    (c.setS d x).sreg n = if d ≠ 0 ∧ n = d then x else c.sreg n := by
  have regs := (setS_fields c d x).2.2.2.2.2.2.2.2
  unfold Ctx.sreg
  rw [regs]
  by_cases hd : d = 0
  · simp [hd]
  · rw [if_neg hd, getD_listSet, full]
    by_cases e : n = d
    · subst e; simp [hd, hn]
    · simp [e]

theorem poisonSeen_setS (c : Ctx) (d : BitVec 5) (x : SVal) : (c.setS d.toNat x).poisonSeen = (c.poisonSeen || (d != 0 && x.p)) := by
  have zero : d.toNat = 0 ↔ d = 0 := by rw [← BitVec.toNat_inj]; rfl
  unfold Ctx.setS
  by_cases h : d = 0
  · simp [h]
  · have : (d != 0) = true := bne_iff_ne.2 h
    rw [if_neg (zero.not.2 h), this]; rfl

/-- Settles O4: the result is one change of the context, whose register and latches the lemmas above give. -/
theorem scalarResults : Obligations.ScalarResults := by
  unfold Obligations.ScalarResults
  intro s i d w x resident full eight u
  have cur : u.cur = (if w then s.cur.setS d.toNat x else s.cur).latched (s.pipe i) (.scalar x) := cur_resS resident i d w x
  have rest : SameBut s.iss.tile s.iss.slot s u := by
    show SameBut _ _ s (s.resS i d w x)
    rw [State.resS_eq]
    exact sameBut_modCur s _
  obtain ⟨v, p, pc, fcsr, mode, epc, lc, lat, -⟩ := setS_fields s.cur d.toNat x
  have latches : (if w then s.cur.setS d.toNat x else s.cur).lat = s.cur.lat := by cases w <;> simp [lat]
  refine ⟨rest, fun k => by rw [rest.1], by rw [cur]; simp [Ctx.sreg], fun hw hd => ?_, fun n hn other => ?_, ?_, ?_, ?_, ?_, ?_, ?_, ?_,
    ?_, fun k hk pipe => ?_, fun q _ pipe => ?_⟩
  · have : d.toNat ≠ 0 := fun e => hd (BitVec.eq_of_toNat_eq e)
    rw [cur, latched_sreg, if_pos hw, sreg_setS _ full _ _ d.isLt, if_pos ⟨this, rfl⟩]
  · rw [cur, latched_sreg]
    cases w with
    | false => rfl
    | true => rw [if_pos rfl, sreg_setS _ full _ _ hn, if_neg fun h => (other.resolve_right (by simp)) h.2]
  · cases w <;> simp [cur, v]
  · cases w <;> simp [cur, p]
  · cases w <;> simp [cur, pc]
  · cases w <;> simp [cur, fcsr]
  · cases w <;> simp [cur, mode]
  · cases w <;> simp [cur, epc]
  · cases w <;> simp [cur, lc]
  · cases w <;> simp [cur, poisonSeen_setS]
  · rw [cur, pipe, ← latches]
    exact latched_front (latches ▸ eight) hk _
  · rw [cur, latched_other _ pipe, latches]

/-- Settles O27: a vector and a predicate result are one change of the context each. -/
theorem vectorAndPredicateResults : Obligations.VectorAndPredicateResults := by
  unfold Obligations.VectorAndPredicateResults
  intro s i d w x q resident fullV fullP eight u z r r'
  have cur : u.cur = (if w then s.cur.setVPhys r x else s.cur).latched (s.pipe i) (.vector x) := cur_resV resident i d w x
  have curP : z.cur = s.cur.setP s.iss.pre d.toNat q := cur_resP resident d q
  have rest : SameBut s.iss.tile s.iss.slot s u := by
    show SameBut _ _ s (s.resV i d w x)
    rw [State.resV_eq]
    exact sameBut_modCur s _
  have restP : SameBut s.iss.tile s.iss.slot s z := sameBut_modCur s _
  obtain ⟨ss, p, lat, v⟩ := setVPhys_fields s.cur r x
  have latches : (if w then s.cur.setVPhys r x else s.cur).lat = s.cur.lat := by cases w <;> simp [lat]
  have hr : r < 32 := physV_lt _ _ d.isLt
  have zero : d.toNat = 0 ↔ d = 0 := by rw [← BitVec.toNat_inj]; rfl
  refine ⟨rest, restP, fun k => by rw [rest.1], fun k => by rw [restP.1], fun hw => ?_, fun n hn other => ?_, ?_, ?_,
    fun k hk pipe => ?_, fun hd => ?_, fun hd small => ?_, fun n hn other => ?_, ?_, ?_, ?_⟩
  · rw [cur, latched_v, if_pos hw, v, getD_listSet, if_pos ⟨rfl, by omega⟩]
  · rw [cur, latched_v]
    cases w with
    | false => rfl
    | true => rw [if_pos rfl, v, getD_listSet, if_neg fun h => (other.resolve_right (by simp)) h.1]
  · cases w <;> simp [cur, ss]
  · cases w <;> simp [cur, p]
  · rw [cur, pipe, ← latches]
    exact latched_front (latches ▸ eight) hk _
  · have same : (fun c : Ctx => c.setP s.iss.pre d.toNat q) = id := by
      funext c; unfold Ctx.setP; rw [if_pos (zero.2 hd)]; rfl
    show s.modCur _ = s
    rw [same, State.modCur_id]
  · have named : r' < 8 := by show physP _ _ < 8; unfold physP; split <;> omega
    rw [curP, Ctx.setP, if_neg (zero.not.2 hd)]
    show (s.cur.p.set r' q).getD r' 0 = q
    rw [getD_listSet, if_pos ⟨rfl, by omega⟩]
  · rw [curP, Ctx.setP]
    split
    · rfl
    · next h =>
      show (s.cur.p.set r' q).getD n 0 = _
      rw [getD_listSet, if_neg fun e => (other.resolve_right (zero.not.1 h)) e.1]
  all_goals rw [curP, Ctx.setP]; split <;> rfl

end Sys2Proof.Machine
end

section
/-! SUPPORT. The CSR words (R87) and what a CSR write leaves in each CSR (R8, R9, R26, R28), bit by bit. -/

namespace Sys2Proof.Machine

/-! ## The words -/

theorem completes_csrModify {i : Instr} {sup : Bool} {f : FCsrW} {rw clr : W64 → W64 → W64} {s : State}
    (run : exec i s = runWord i (csrModify i sup f rw clr) s) :
    (CompletesIf s i (fun o => (o.srcS i 0).p = false) fun o =>
      (o.csrPut sup f.x.toNat (rw (o.csrOld sup f.x.toNat) (o.srcS i 0).v) (clr (o.csrOld sup f.x.toNat) (o.srcS i 0).v)).resNoLatch
        f.d f.w { v := o.csrOld sup f.x.toNat }) ∧
    TrapsIf s i (fun o => (o.srcS i 0).p = true) 0x0D 0 :=
  ⟨completesIf_of_run run fun o clean => by simp [csrModify, clean],
    trapsIf_of_run run fun o poisoned => by simp [csrModify, poisoned, cPOISON]⟩

/-! ## The context and the tile after a CSR write -/

section
variable {s : State} {c : Ctx} (resident : s.ctx? s.iss.tile s.iss.slot = some c)
include resident

theorem cur_of_resident : s.cur = c := by simp [State.cur, State.ctxAt, resident]

theorem cur_csrPut_user {x : Nat} (hx : x ≠ 7) (v clr : W64) :
    (s.csrPut false x v clr).cur = userWrite s.iss.pre c x v clr := by
  unfold State.csrPut
  rw [if_neg (by decide), if_neg hx, cur_modCur _ _ (by rw [resident]; rfl), cur_of_resident resident]

omit resident in
/-- A tile changed apart from its contexts. -/
theorem ctx?_modTile_of_ctx (s : State) (t : Nat) {f : Tile → Tile} (same : ∀ y, (f y).ctx = y.ctx) (u j : Nat) :
    (s.modTile t f).ctx? u j = s.ctx? u j := by
  unfold State.ctx?
  rw [tileAt_modTile]
  split
  · rw [same]
  · rfl

theorem cur_modTile_of_ctx {t : Nat} {f : Tile → Tile} (same : ∀ y, (f y).ctx = y.ctx) : (s.modTile t f).cur = c := by
  show ((s.modTile t f).ctx? s.iss.tile s.iss.slot).getD {} = c
  rw [ctx?_modTile_of_ctx s t same, resident]; rfl

theorem cur_csrPut_raflags (v clr : W64) : (s.csrPut false 7 v clr).cur = c :=
  cur_modTile_of_ctx resident fun _ => rfl

omit resident in
theorem ctx_supWriteTile (x : Nat) (y : Tile) : (supWriteTile x y).ctx = y.ctx := by
  unfold supWriteTile
  split <;> rfl

theorem cur_csrPut_sup (x : Nat) (v clr : W64) : (s.csrPut true x v clr).cur = supWriteCtx c x v := by
  have written : (s.modCur fun c => supWriteCtx c x v).ctx? s.iss.tile s.iss.slot = some (supWriteCtx c x v) := by
    unfold State.modCur
    rw [ctx?_modCtx, if_pos ⟨rfl, rfl⟩, resident]; rfl
  exact cur_modTile_of_ctx (s := s.modCur fun c => supWriteCtx c x v) written (ctx_supWriteTile x)

theorem tile_lt : s.iss.tile < s.tiles.length := by
  by_contra h
  have fresh : s.tileAt s.iss.tile = {} := by
    simp [State.tileAt, List.getD_eq_getElem?_getD, List.getElem?_eq_none (Nat.le_of_not_lt h)]
  rw [State.ctx?, fresh] at resident
  have empty : ({} : Tile).ctx.getD s.iss.slot none = none := by
    show (List.replicate 8 (none : Option Ctx)).getD _ none = none
    rw [List.getD_eq_getElem?_getD, List.getElem?_replicate]
    split <;> rfl
  rw [empty] at resident
  cases resident

theorem tileAt_modTile_issue (f : Tile → Tile) : (s.modTile s.iss.tile f).tileAt s.iss.tile = f (s.tileAt s.iss.tile) := by
  rw [tileAt_modTile, if_pos ⟨rfl, tile_lt resident⟩]

end

/-- A CSR write of a context leaves its registers, latches, PC and mode. -/
theorem userWrite_frame (pre c : Ctx) (x : Nat) (v clr : W64) :
    let d := userWrite pre c x v clr
    d.s = c.s ∧ d.v = c.v ∧ d.p = c.p ∧ d.lat = c.lat ∧ d.pc = c.pc ∧ d.mode = c.mode := by
  intro d
  simp only [d]
  unfold userWrite
  split <;> exact ⟨rfl, rfl, rfl, rfl, rfl, rfl⟩

theorem supWriteCtx_frame (c : Ctx) (x : Nat) (v : W64) :
    let d := supWriteCtx c x v
    d.s = c.s ∧ d.v = c.v ∧ d.p = c.p ∧ d.lat = c.lat ∧ d.pc = c.pc ∧ d.mode = c.mode := by
  intro d
  simp only [d]
  unfold supWriteCtx
  split <;> exact ⟨rfl, rfl, rfl, rfl, rfl, rfl⟩

/-! ## Fields of a CSR, bit by bit -/

/-- A bit of two fields side by side. -/
theorem testBit_add_mul {a i : Nat} (ha : a < 2 ^ i) (b k : Nat) :
    (a + b * 2 ^ i).testBit k = if k < i then a.testBit k else b.testBit (k - i) := by
  rw [Nat.add_comm, Nat.mul_comm, Nat.testBit_two_pow_mul_add _ ha]

theorem testBit_ofBool (b : Bool) (k : Nat) : (ofBool b).testBit k = (b && k == 0) := by
  cases b <;> cases k <;> simp [ofBool, Nat.testBit_succ]

theorem testBit_bits (x lo n k : Nat) : (bits x lo n).testBit k = (decide (k < n) && x.testBit (lo + k)) := by
  rw [bits, Nat.testBit_mod_two_pow, Nat.testBit_div_two_pow, Nat.add_comm]

/-- A field of a 64-bit value in its place, as a mask cuts it. -/
theorem setWidth_ofNat_eq_and {v m : W64} {n : Nat} (mask : ∀ k < 64, m.getLsbD k = decide (k < n)) :
    (BitVec.ofNat n v.toNat).setWidth 64 = v &&& m := by
  apply BitVec.eq_of_getLsbD_eq
  intro k hk
  rw [BitVec.getLsbD_setWidth, BitVec.getLsbD_ofNat, BitVec.getLsbD_and, mask k hk, decide_eq_true hk, Bool.true_and, Bool.and_comm]
  rfl

/-- The low field of `v` and, from bit `i`, another field: what a mask of the two cuts out of `v`. -/
theorem ofNat_fields_eq_and {v m : W64} {n i l : Nat} (le : n ≤ i)
    (mask : ∀ k < 64, m.getLsbD k = (decide (k < n) || decide (i ≤ k) && decide (k < i + l))) :
    BitVec.ofNat 64 ((BitVec.ofNat n v.toNat).toNat + bits v.toNat i l * 2 ^ i) = v &&& m := by
  apply BitVec.eq_of_getLsbD_eq
  intro k hk
  have low : (BitVec.ofNat n v.toNat).toNat < 2 ^ i := (BitVec.isLt _).trans_le (Nat.pow_le_pow_right (by decide) le)
  rw [BitVec.getLsbD_ofNat, decide_eq_true hk, Bool.true_and, testBit_add_mul low, BitVec.getLsbD_and, mask k hk, testBit_bits,
    BitVec.toNat_ofNat, Nat.testBit_mod_two_pow]
  show _ = (v.toNat.testBit k && _)
  split
  next h => simp [Nat.not_le.mpr h, Bool.and_comm]
  next h =>
    have hle : i ≤ k := Nat.le_of_not_lt h
    have beyond : ¬ k < n := by omega
    rw [Nat.add_sub_cancel' hle, decide_eq_true hle, decide_eq_false beyond, Bool.and_comm]
    have field : (k - i < l) = (k < i + l) := by rw [eq_iff_iff]; omega
    simp [field]

/-- Where each CSR takes a bit of `v` (R26, R28). -/
theorem getLsbD_ofNat_testBit {n k : Nat} (hk : k < 64) : (BitVec.ofNat 64 n).getLsbD k = n.testBit k := by
  rw [BitVec.getLsbD_ofNat, decide_eq_true hk, Bool.true_and]

/-! ## The user CSRs read back -/

section
variable (pre c : Ctx) (v clr : W64) (raf : BitVec 5)

theorem fcsr_userWrite {k : Nat} (hk : k < 64) : (userWrite pre c 0x00 v clr).fcsr.getLsbD k =
    ((decide (k < 2) || (decide (4 ≤ k) && decide (k < 9))) && v.getLsbD k || (decide (4 ≤ k) && c.newFlags.getLsbD (k - 4))) := by
  have mask : ∀ k < 64, (0x1F3 : W64).getLsbD k = (decide (k < 2) || decide (4 ≤ k) && decide (k < 9)) := by decide
  show ((v &&& (0x1F3 : W64)) ||| (c.newFlags.setWidth 64 <<< 4)).getLsbD k = _
  have above : decide (k - 4 < 64) = true := decide_eq_true (by omega)
  rw [BitVec.getLsbD_or, BitVec.getLsbD_and, mask k hk, BitVec.getLsbD_shiftLeft, BitVec.getLsbD_setWidth, decide_eq_true hk, above,
    Bool.and_comm (v.getLsbD k)]
  by_cases h : 4 ≤ k
  · have below : ¬ k < 4 := by omega
    simp [h, below]
  · have below : k < 4 := by omega
    simp [h, below]

theorem sigSel_userWrite : userRead (userWrite pre c 0x04 v clr) raf 0 0 0 0x04 =
    if v.toNat / 2 ^ 16 % 4 = 3 then (v &&& (0xFFFF : W64)) ||| (c.sigScope.setWidth 64 <<< 16) else v &&& 0x3FFFF := by
  show BitVec.ofNat 64 ((BitVec.ofNat 16 v.toNat).toNat +
    (if bits v.toNat 16 2 = 3 then c.sigScope else BitVec.ofNat 2 (bits v.toNat 16 2)).toNat * 2 ^ 16) = _
  have scope : bits v.toNat 16 2 = v.toNat / 2 ^ 16 % 4 := rfl
  rw [scope]
  split
  next =>
    have mask : ∀ k < 64, (0xFFFF : W64).getLsbD k = decide (k < 16) := by decide
    apply BitVec.eq_of_getLsbD_eq
    intro k hk
    rw [getLsbD_ofNat_testBit hk, testBit_add_mul (BitVec.isLt _), BitVec.getLsbD_or, BitVec.getLsbD_and, mask k hk,
      BitVec.getLsbD_shiftLeft, BitVec.getLsbD_setWidth, decide_eq_true hk, BitVec.toNat_ofNat, Nat.testBit_mod_two_pow]
    have above : k - 16 < 64 := by omega
    by_cases h : k < 16 <;> simp [h, above]
    · rfl
    · rfl
  next =>
    have two : bits v.toNat 16 2 < 2 ^ 2 := Nat.mod_lt _ (by decide)
    rw [← scope, BitVec.toNat_ofNat (bits v.toNat 16 2) 2, Nat.mod_eq_of_lt two]
    exact ofNat_fields_eq_and (l := 2) (by decide) (by decide)

omit pre c v clr raf in
theorem tsr_image (p q : Bool) {k : Nat} (hk : k < 64) :
    (BitVec.ofNat 64 (ofBool p + ofBool q * 2)).getLsbD k = ((k == 0 && p) || (k == 1 && q)) := by
  rw [getLsbD_ofNat_testBit hk]
  show (ofBool p + ofBool q * 2 ^ 1).testBit k = _
  rw [testBit_add_mul (ofBool_lt _), testBit_ofBool, testBit_ofBool]
  match k with
  | 0 => simp
  | 1 => simp
  | k + 2 => simp

theorem tsr_userWrite {k : Nat} (hk : k < 64) : (userRead (userWrite pre c 0x06 v clr) raf 0 0 0 0x06).getLsbD k =
    ((k == 0 && (pre.pwoob && !clr.getLsbD 0 || c.newPwoob)) || (k == 1 && (pre.poisonSeen && !clr.getLsbD 1 || c.newPoison))) := by
  rw [← bit_toNat 64 clr 0, ← bit_toNat 64 clr 1]
  exact tsr_image (pre.pwoob && !bit clr.toNat 0 || c.newPwoob) (pre.poisonSeen && !bit clr.toNat 1 || c.newPoison) hk

omit pre c v clr raf in
theorem chctl_image (e a : Bool) (p : BitVec 4) {k : Nat} (hk : k < 64) :
    (BitVec.ofNat 64 (ofBool e + p.toNat * 2 + ofBool a * 2 ^ 5)).getLsbD k =
      if k = 0 then e else if k < 5 then p.getLsbD (k - 1) else k == 5 && a := by
  have pend : ofBool e + p.toNat * 2 ^ 1 < 2 ^ 5 := by
    have := ofBool_lt e
    omega
  rw [getLsbD_ofNat_testBit hk]
  show (ofBool e + p.toNat * 2 ^ 1 + ofBool a * 2 ^ 5).testBit k = _
  rw [testBit_add_mul pend, testBit_add_mul (ofBool_lt _), testBit_ofBool, testBit_ofBool]
  rcases Nat.eq_zero_or_pos k with rfl | pos
  · simp
  · rw [if_neg (by omega : ¬ k < 1), if_neg (by omega : ¬ k = 0), Bool.and_comm, beq_eq_decide, beq_eq_decide]
    split
    · rfl
    next high =>
      have last : (k - 5 = 0) = (k = 5) := by rw [eq_iff_iff]; omega
      simp only [last]

theorem chctl_userWrite {k : Nat} (hk : k < 64) : (userRead (userWrite pre c 0x09 v clr) raf 0 0 0 0x09).getLsbD k =
    if k = 0 then v.getLsbD 0 else if k < 5 then c.chPend.getLsbD (k - 1) && !clr.getLsbD k else k == 5 && c.chActive := by
  rw [← bit_toNat 64 v 0]
  refine (chctl_image (bit v.toNat 0) c.chActive (c.chPend &&& ~~~(BitVec.ofNat 4 (bits clr.toNat 1 4))) hk).trans ?_
  by_cases zero : k = 0
  · rw [if_pos zero, if_pos zero]
  · rw [if_neg zero, if_neg zero]
    split
    next low =>
      have shifted : 1 + (k - 1) = k := by omega
      have inside : k - 1 < 4 := by omega
      rw [BitVec.getLsbD_and, BitVec.getLsbD_not, BitVec.getLsbD_ofNat, testBit_bits, shifted, decide_eq_true inside]
      rfl
    next => rfl

end

/-! ## SSTATUS read back -/

theorem sstatus_supWrite (c : Ctx) (v : W64) (x : Tile) (slot : Nat) {k : Nat} (hk : k < 64) :
    (supRead (supWriteCtx c 0x00 v) x slot 0x00).getLsbD k = if k = 1 then v.getLsbD 1 else (supRead c x slot 0x00).getLsbD k := by
  have image (m p : Bool) (slot : Nat) : (BitVec.ofNat 64 (ofBool m + ofBool p * 2 + slot * 2 ^ 4)).getLsbD k =
      if k < 4 then (m && k == 0) || (p && k == 1) else slot.testBit (k - 4) := by
    have low : ofBool m + ofBool p * 2 ^ 1 < 2 ^ 4 := by
      have := ofBool_lt m
      have := ofBool_lt p
      omega
    show (BitVec.ofNat 64 (ofBool m + ofBool p * 2 ^ 1 + slot * 2 ^ 4)).getLsbD k = _
    rw [getLsbD_ofNat_testBit hk, testBit_add_mul low, testBit_add_mul (ofBool_lt _), testBit_ofBool, testBit_ofBool]
    match k with
    | 0 => simp
    | 1 => simp
    | k + 2 => simp
  show (BitVec.ofNat 64 (ofBool c.mode + ofBool (bit v.toNat 1) * 2 + slot * 2 ^ 4)).getLsbD k =
    if k = 1 then v.getLsbD 1 else (BitVec.ofNat 64 (ofBool c.mode + ofBool c.pmode * 2 + slot * 2 ^ 4)).getLsbD k
  rw [image, image, bit_toNat]
  by_cases h : k = 1
  · subst h; simp
  · have other : (k == 1) = false := beq_false_of_ne h
    rw [other, Bool.and_false, Bool.and_false, if_neg h]

/-! ## RAFLAGS -/

theorem raflags_cleared (raf : BitVec 5) (clr : W64) {k : Nat} (hk : k < 64) :
    (BitVec.ofNat 64 ((raf &&& ~~~(BitVec.ofNat 5 (bits clr.toNat 4 5))).toNat * 2 ^ 4)).getLsbD k =
      (decide (4 ≤ k) && raf.getLsbD (k - 4) && !clr.getLsbD k) := by
  rw [getLsbD_ofNat_testBit hk, Nat.testBit_mul_two_pow]
  show (decide (4 ≤ k) && (raf &&& ~~~(BitVec.ofNat 5 (bits clr.toNat 4 5))).getLsbD (k - 4)) = _
  rw [BitVec.getLsbD_and, BitVec.getLsbD_not, BitVec.getLsbD_ofNat, testBit_bits]
  by_cases h : 4 ≤ k
  · rw [Nat.add_sub_cancel' h]
    by_cases inside : k - 4 < 5
    · simp [h, inside]
      rfl
    · simp [h, inside, BitVec.getLsbD_of_ge raf (k - 4) (Nat.le_of_not_lt inside)]
  · simp [h]

end Sys2Proof.Machine
end
section
/-! SUPPORT. The obligation about the CSR words. -/

namespace Sys2Proof.Machine

/-- The read-only user CSRs stay (R26). -/
theorem userWrite_readOnly (pre c : Ctx) (v clr : W64) :
    ∀ x ∈ [0x10, 0x11, 0x12, 0x13, 0x18, 0x19, 0x1A, 0x1B, 0x1C, 0x1D] ++ (List.range 16).map (· + 0x20),
      x ≠ 7 ∧ userWrite pre c x v clr = c := by
  intro x hx
  rcases List.mem_append.mp hx with named | window
  · simp only [List.mem_cons, List.not_mem_nil, or_false] at named
    rcases named with rfl | rfl | rfl | rfl | rfl | rfl | rfl | rfl | rfl | rfl <;> exact ⟨by decide, rfl⟩
  · obtain ⟨k, hk, rfl⟩ := List.mem_map.mp window
    have bound := List.mem_range.mp hk
    refine ⟨by omega, ?_⟩
    unfold userWrite
    split
    case h_12 => rfl
    all_goals omega

theorem mem_csrPut (s : State) (sup : Bool) (x : Nat) (v clr : W64) : (s.csrPut sup x v clr).mem = s.mem := by
  unfold State.csrPut
  split
  · rfl
  · split <;> rfl

theorem csrPut_registers {s : State} {c : Ctx} (resident : s.ctx? s.iss.tile s.iss.slot = some c) (sup : Bool) (x : Nat) (v clr : W64) :
    let d := (s.csrPut sup x v clr).cur
    d.s = c.s ∧ d.v = c.v ∧ d.p = c.p ∧ d.lat = c.lat ∧ d.pc = c.pc ∧ d.mode = c.mode := by
  cases sup with
  | true => rw [cur_csrPut_sup resident]; exact supWriteCtx_frame c x v
  | false =>
    by_cases h : x = 7
    · subst h
      rw [cur_csrPut_raflags resident]
      exact ⟨rfl, rfl, rfl, rfl, rfl, rfl⟩
    · rw [cur_csrPut_user resident h]
      exact userWrite_frame s.iss.pre c x v clr

/-- The tile after a supervisor CSR write. -/
theorem tileAt_csrPut_sup {s : State} {c : Ctx} (resident : s.ctx? s.iss.tile s.iss.slot = some c) (x : Nat) (v clr : W64) :
    ((s.csrPut true x v clr).tileAt s.iss.tile) = supWriteTile x ((s.modCur fun c => supWriteCtx c x v).tileAt s.iss.tile) := by
  show ((s.modCur fun c => supWriteCtx c x v).modTile s.iss.tile (supWriteTile x)).tileAt s.iss.tile = _
  have inside : s.iss.tile < (s.modCur fun c => supWriteCtx c x v).tiles.length := by
    unfold State.modCur State.modCtx
    simp [tile_lt resident]
  rw [tileAt_modTile, if_pos ⟨rfl, inside⟩]

theorem rmap_supWriteTile (x : Nat) (y : Tile) : (supWriteTile x y).rmap = y.rmap := by
  unfold supWriteTile
  split <;> rfl

/-- A tile changed apart from its region map. -/
theorem rmap_modTile {f : Tile → Tile} (same : ∀ y, (f y).rmap = y.rmap) (s : State) (t u : Nat) :
    ((s.modTile t f).tileAt u).rmap = (s.tileAt u).rmap := by
  rw [tileAt_modTile]
  split
  · exact same _
  · rfl

theorem rmap_modCur (s : State) (f : Ctx → Ctx) (u : Nat) : ((s.modCur f).tileAt u).rmap = (s.tileAt u).rmap := by
  unfold State.modCur State.modCtx
  rw [rmap_modTile]
  exact fun _ => rfl

theorem rmap_csrPut (s : State) (sup : Bool) (x : Nat) (v clr : W64) :
    ((s.csrPut sup x v clr).tileAt s.iss.tile).rmap = (s.tileAt s.iss.tile).rmap := by
  unfold State.csrPut
  split
  · rw [rmap_modTile (rmap_supWriteTile x), rmap_modCur]
  · split
    · rw [rmap_modTile]
      exact fun _ => rfl
    · exact rmap_modCur ..

/-- Settles O5: each CSR image is compared bit by bit with the fields that a write gives it. -/
theorem csrWords : Obligations.CsrWords := by
  refine ⟨fun f s => ⟨completes_of_run (exec_csrr f s) fun o => rfl, completes_of_run (exec_scsrr f s) fun o => rfl⟩,
    fun f s => ?_, fun s v clr c resident => ?_⟩
  · intro C
    have row {i : Instr} {sup : Bool} {rw clr : W64 → W64 → W64} (run : exec i s = runWord i (csrModify i sup f rw clr) s) :
        C i sup rw clr := completes_csrModify run
    clear_value C
    exact ⟨row (exec_csrw f s), row (exec_csrs f s), row (exec_csrc f s), row (exec_scsrw f s), row (exec_scsrs f s),
      row (exec_scsrc f s)⟩
  · intro put raf user sup
    have read (x : Nat) (hx : x ≠ 7) : user x = userRead (userWrite s.iss.pre c x v clr) ((put false x).tileAt s.iss.tile).raflags 0 0 0 x := by
      show userRead (s.csrPut false x v clr).cur _ 0 0 0 x = _
      rw [cur_csrPut_user resident hx]
    have readSup (x : Nat) : sup x = supRead (supWriteCtx c x v) ((put true x).tileAt s.iss.tile) s.iss.slot x := by
      show supRead (s.csrPut true x v clr).cur _ _ x = _
      rw [cur_csrPut_sup resident x]
    have narrow {x n : Nat} {m : W64} (h : user x = (BitVec.ofNat n v.toNat).setWidth 64)
        (mask : ∀ k < 64, m.getLsbD k = decide (k < n)) : user x = v &&& m := h.trans (setWidth_ofNat_eq_and mask)
    refine ⟨fun k hk => ?_, read 1 (by decide), ?_, narrow (read 3 (by decide)) (by decide), ?_, ?_, fun k hk => ?_, fun k hk => ?_,
      read 8 (by decide), fun k hk => ?_, narrow (read 0x30 (by decide)) (by decide), fun k hk => ?_, readSup 1, readSup 2,
        readSup 3,
      readSup 4, readSup 5, readSup 8, readSup 9, ?_, ?_, ?_, ?_, ?_, ?_, fun b x => ?_⟩
    · rw [read 0 (by decide)]; exact fcsr_userWrite _ _ _ _ hk
    · rw [read 2 (by decide)]
      have prb : (BitVec.ofNat 2 (bits v.toNat 8 2)).toNat = bits v.toNat 8 2 := Nat.mod_eq_of_lt (Nat.mod_lt _ (by decide))
      show BitVec.ofNat 64 ((BitVec.ofNat 4 v.toNat).toNat + (BitVec.ofNat 2 (bits v.toNat 8 2)).toNat * 2 ^ 8) = _
      rw [prb]
      exact ofNat_fields_eq_and (by decide) (by decide)
    · rw [read 4 (by decide)]; exact sigSel_userWrite ..
    · rw [read 5 (by decide)]
      have adjacent : ∀ k < 64, (0x7F : W64).getLsbD k = (decide (k < 4) || decide (4 ≤ k) && decide (k < 4 + 3)) := by decide
      exact ofNat_fields_eq_and (n := 4) (by decide) adjacent
    · rw [read 6 (by decide)]; exact tsr_userWrite _ _ _ _ _ hk
    · have cleared : ((put false 7).tileAt s.iss.tile).raflags = raf &&& ~~~(BitVec.ofNat 5 (bits clr.toNat 4 5)) :=
        congrArg Tile.raflags (tileAt_modTile_issue resident _)
      show (BitVec.ofNat 64 (((put false 7).tileAt s.iss.tile).raflags.toNat * 2 ^ 4)).getLsbD k = _
      rw [cleared]
      exact raflags_cleared _ _ hk
    · rw [read 9 (by decide)]; exact chctl_userWrite _ _ _ _ _ hk
    · rw [readSup 0]; exact sstatus_supWrite c v _ _ hk
    · exact (readSup 0x0A).trans (setWidth_ofNat_eq_and (by decide))
    · intro x hx
      show ((s.csrPut true x v clr).tileAt s.iss.tile).icache = []
      rw [tileAt_csrPut_sup resident]
      simp only [List.mem_cons, List.not_mem_nil, or_false] at hx
      rcases hx with rfl | rfl <;> rfl
    · exact cur_csrPut_sup resident 0x0B v clr
    · refine (cur_csrPut_sup resident 0x0D v clr).trans ?_
      have drain : BitVec.ofNat 4 (bits v.toNat 4 4) = BitVec.ofNat 4 (v.toNat / 16) :=
        BitVec.eq_of_toNat_eq (by simp [bits])
      show { c with preDrain := BitVec.ofNat 4 (bits v.toNat 4 4), preReq := c.preReq || bit v.toNat 0 } = _
      rw [bit_toNat, drain]
    · intro x hx
      obtain ⟨other, stays⟩ := userWrite_readOnly s.iss.pre c v clr x hx
      exact (cur_csrPut_user resident other v clr).trans stays
    · intro x hx
      simp only [List.mem_cons, List.not_mem_nil, or_false] at hx
      rcases hx with rfl | rfl
      · exact cur_csrPut_sup resident 0x0C v clr
      · exact cur_csrPut_sup resident 0x0E v clr
    · obtain ⟨hs, hv, hp, hl, hpc, hm⟩ := csrPut_registers resident b x v clr
      exact ⟨mem_csrPut .., hs, hv, hp, hl, hpc, hm, rmap_csrPut ..⟩

end Sys2Proof.Machine
end

section
/-! SUPPORT. The C class and the X class (R78 to R82, R340), the privileged words (R28, R48), and the checks of an access (R90). -/

namespace Sys2Proof.Machine

/-! ## Privileged words -/

/-- The step 5 check of a privileged word that only the mode fails (R48). -/
theorem wordCheck_user {c : Ctx} {limm : Option Nat} {i : Instr} (priv : (viewOf i).priv = true) (user : c.mode = false)
    (passes : wordCheck { c with mode := true } limm i = none) : wordCheck c limm i = some cPRIV := by
  unfold wordCheck at passes ⊢
  dsimp only at passes ⊢
  split_ifs at passes with operands allotted sems
  rw [if_neg operands, if_neg allotted, if_neg sems, priv, user]
  rfl

theorem runWord_priv {i : Instr} {eff : State → WordRes} {s : State} (priv : (viewOf i).priv = true)
    (early : s.openBundle.iss.early = false) (fresh : bit s.openBundle.iss.done s.openBundle.iss.pos = false)
    (user : s.openBundle.iss.pre.mode = false)
    (passes : wordCheck { s.openBundle.iss.pre with mode := true } (limmOf (s.openBundle.words i)) i = none) :
    runWord i eff s = .next ((s.openBundle.earlyTrap 0x06).closeWord (s.openBundle.words i)) := by
  unfold runWord
  simp only [early, fresh, wordCheck_user priv user passes, Bool.false_eq_true, if_false]
  rfl

/-- Settles O6: each of the words runs through `runWord` and its view is privileged. -/
theorem privilegedWordsInUserMode : Obligations.PrivilegedWordsInUserMode := by
  rintro f g h s i word o early fresh user passes
  have refused {eff : State → WordRes} (run : exec i s = runWord i eff s) (priv : (viewOf i).priv = true) :
      exec i s = .next ((o.earlyTrap 0x06).closeWord (o.words i)) := run.trans (runWord_priv priv early fresh user passes)
  rcases word with rfl | rfl | rfl | rfl | rfl | rfl
  · exact refused (exec_xret s) rfl
  · exact refused (exec_scsrr f s) rfl
  · exact refused (exec_scsrw g s) rfl
  · exact refused (exec_scsrs g s) rfl
  · exact refused (exec_scsrc g s) rfl
  · exact refused (exec_tlbinv h s) rfl

/-! ## Branches, jumps and loops -/

theorem completes_branchS {i : Instr} {test : W64 → Bool} {q : W64 → Prop} {s : State} (run : exec i s = runWord i (branchS i test) s)
    (value : ∀ a, test a = true ↔ q a) :
    (CompletesIf s i (fun o => (o.srcS i 0).p = false ∧ q (o.srcS i 0).v) fun o =>
      o.modIss fun x => { x with npc := some (x.pre.pc + BitVec.ofInt 64 (4 * immS (o.words i) i)) }) ∧
    (CompletesIf s i (fun o => (o.srcS i 0).p = false ∧ ¬ q (o.srcS i 0).v) fun o => o) ∧
    TrapsIf s i (fun o => (o.srcS i 0).p = true) 0x0D 0 := by
  refine ⟨completesIf_of_run run fun o holds => ?_, completesIf_of_run run fun o holds => ?_, trapsIf_of_run run fun o poisoned => ?_⟩
  · obtain ⟨clean, taken⟩ := holds
    rw [← value] at taken
    simp only [branchS, clean, taken, Bool.false_eq_true, if_false, if_true]
    rfl
  · obtain ⟨clean, untaken⟩ := holds
    rw [← value] at untaken
    simp only [branchS, clean, untaken, Bool.false_eq_true, if_false]
  · simp only [branchS, poisoned, if_true]
    rfl

theorem completes_branchP {i : Instr} {p : BitVec 3} {test : Pred → Bool} {q : Pred → Prop} {s : State}
    (run : exec i s = runWord i (branchP i test) s) (source : (viewOf i).a = .p (p.setWidth 6)) (value : ∀ a, test a = true ↔ q a) :
    (CompletesIf s i (fun o => q (o.iss.pre.preg p.toNat)) fun o =>
      o.modIss fun x => { x with npc := some (x.pre.pc + BitVec.ofInt 64 (4 * immS (o.words i) i)) }) ∧
    CompletesIf s i (fun o => ¬ q (o.iss.pre.preg p.toNat)) fun o => o := by
  have reads (o : State) : o.srcP i 0 = o.iss.pre.preg p.toNat := by
    have width : (p.setWidth 6).toNat = p.toNat := by
      rw [BitVec.toNat_setWidth, Nat.mod_eq_of_lt (p.isLt.trans (by decide))]
    show srcPAt o.iss.pre (viewOf i).a = _
    rw [source, ← width]; rfl
  refine ⟨completesIf_of_run run fun o taken => ?_, completesIf_of_run run fun o untaken => ?_⟩
  · rw [← reads, ← value] at taken
    simp only [branchP, taken, if_true]
    rfl
  · rw [← reads, ← value] at untaken
    simp only [branchP, untaken, Bool.false_eq_true, if_false]

/-- Settles O7. -/
theorem branches : Obligations.Branches := by
  refine ⟨fun f s => ?_, fun f s => ?_⟩
  · intro C
    have row {i : Instr} {test : W64 → Bool} {q : W64 → Prop} (run : exec i s = runWord i (branchS i test) s)
        (value : ∀ a, test a = true ↔ q a) : C i q := completes_branchS run value
    clear_value C
    refine ⟨row (exec_bz f s) fun a => beq_iff_eq, row (exec_bnz f s) fun a => bne_iff_ne, row (exec_bltz f s) fun a => ?_,
      row (exec_bgez f s) fun a => ?_⟩
    · exact slt_eq_true a 0
    · rw [Bool.not_eq_true', ← Bool.not_eq_true, slt_eq_true]
      exact Int.not_lt
  · intro C
    have row {i : Instr} {test : Pred → Bool} {q : Pred → Prop} (run : exec i s = runWord i (branchP i test) s)
        (source : (viewOf i).a = .p (f.p.setWidth 6)) (value : ∀ a, test a = true ↔ q a) : C i q := completes_branchP run source value
    clear_value C
    refine ⟨row (exec_bp f s) rfl fun a => ?_, row (exec_bnp f s) rfl fun a => ?_, row (exec_bany f s) rfl fun a => bne_iff_ne,
      row (exec_bnone f s) rfl fun a => beq_iff_eq⟩
    · rw [bit_toNat]
    · rw [bit_toNat, Bool.not_eq_true']

/-- The jumps through a register: what they do with a poisoned, a misaligned and a good target (R78). -/
theorem traps_jump {i : Instr} {link : Option (BitVec 5)} {s : State} (run : exec i s = runWord i (jump i link) s) :
    TrapsIf s i (fun o => (o.srcS i 0).p = true) 0x0D 0 ∧
    ∀ x, TrapsIf s i (fun o => (o.srcS i 0).p = false ∧ (o.srcS i 0).v = x ∧ x.toNat % 4 ≠ 0) 0x0A x.toNat := by
  refine ⟨trapsIf_of_run run fun o poisoned => ?_, fun x => trapsIf_of_run run fun o holds => ?_⟩
  · simp only [jump, poisoned, if_true]
    rfl
  · obtain ⟨clean, rfl, crooked⟩ := holds
    simp only [jump, clean, crooked, Bool.false_eq_true, if_false, ne_eq, not_false_eq_true, if_true]
    rfl

theorem jump_of_aligned {i : Instr} {link : Option (BitVec 5)} {o : State}
    (good : (o.srcS i 0).p = false ∧ (o.srcS i 0).v.toNat % 4 = 0) : jump i link o = .ok ((match link with
      | none => o
      | some d => o.resNoLatch d true { v := linkOf o.iss.pre.pc (o.words i) }).take (o.srcS i 0).v) := by
  obtain ⟨clean, aligned⟩ := good
  simp only [jump, clean, aligned, Bool.false_eq_true, if_false, ne_eq, not_true_eq_false] <;> rfl

/-- Settles O8. -/
theorem jumpsAndLoops : Obligations.JumpsAndLoops := by
  intro f a j c s link dest go bad
  obtain ⟨poisonedJr, crookedJr⟩ := traps_jump (exec_jr a s)
  obtain ⟨poisonedJrl, crookedJrl⟩ := traps_jump (exec_jrl j s)
  refine ⟨completes_of_run (exec_br f s) fun o => rfl, completes_of_run (exec_brl f s) fun o => rfl,
    completesIf_of_run (exec_jr a s) fun o good => jump_of_aligned good, poisonedJr,
    completesIf_of_run (exec_jrl j s) fun o good => jump_of_aligned good, poisonedJrl, crookedJr, crookedJrl,
    completesIf_of_run (exec_bloop f s) fun o more => ?_, completesIf_of_run (exec_bloop f s) fun o last => ?_,
    completesIf_of_run (exec_lcset c s) fun o clean => ?_, trapsIf_of_run (exec_lcset c s) fun o poisoned => ?_⟩
  · simp only [bloop, more, if_true]
    rfl
  · simp only [bloop, Nat.not_le.mpr last, if_false]
  · simp only [lcset, clean, Bool.false_eq_true, if_false]
    rfl
  · simp only [lcset, poisoned, if_true]
    rfl

/-! ## Words that stop, trap and wait -/

/-- LIMM and PMAP take NOP's turn (R42, R47). -/
theorem finish_congr {s : State} (given : s.iss.words ≠ []) (i j : Instr) (u : State) :
    s.openBundle.finish i u = s.openBundle.finish j u := by
  have words (k : Instr) : s.openBundle.words k = s.iss.words := by rw [openBundle_words, State.words, if_neg given]
  unfold State.finish
  rw [words i, words j]

theorem evReady_eq_true (c : Ctx) (m : BitVec 6) : evReady c m = true ↔ m = 0 ∨ c.events &&& m ≠ 0 := by
  simp [evReady]

/-- Settles O9. -/
theorem stopTrapAndWaitWords : Obligations.StopTrapAndWaitWords := by
  refine ⟨fun f b l p s => ?_, fun f s => ⟨completesIf_of_run (exec_waitev f s) fun o ready => ?_, fun turn asks none => ?_⟩⟩
  · intro o
    refine ⟨completes_of_run (exec_nop s) fun o => rfl, completes_of_run (exec_pblk b s) fun o => rfl, fun turn given => ?_,
      fun turn given => ?_, fun turn => ?_, fun turn => ?_, fun turn => ?_, completes_of_run (exec_xret s) fun o => rfl,
      completesIf_of_run (exec_cret s) fun o inside => ?_, trapsIf_of_run (exec_cret s) fun o outside => ?_⟩
    · exact (exec_limm l s).trans ((runWord_ok turn rfl).trans (congrArg _ (finish_congr given .nop (.limm l) o)))
    · exact (exec_pmap p s).trans ((runWord_ok turn rfl).trans (congrArg _ (finish_congr given .nop (.pmap p) o)))
    · exact (exec_trap f s).trans (runWord_turn turn)
    · exact (exec_brk f s).trans (runWord_turn turn)
    · exact (exec_halt s).trans (runWord_turn turn)
    · simp only [cret, inside, if_true]
    · simp only [cret, outside, Bool.false_eq_true, if_false]
      rfl
  · simp only [waitev, (evReady_eq_true _ _).mpr ready, if_true]
    rfl
  · have waits : ¬ evReady s.openBundle.cur f.m = true := by
      rw [evReady_eq_true]
      rintro (zero | selected)
      · exact asks zero
      · exact selected none
    exact (exec_waitev f s).trans (runWord_wait turn (by rw [waitev, if_neg waits]))

end Sys2Proof.Machine
end

section
/-! SUPPORT. The address of an access and its checks in their order (R88, R90, R242). -/

namespace Sys2Proof.Machine

theorem lmAddr_eq (s : State) (i : Instr) (n : Nat) :
    ((lmAddr s i n : Nat) : Int) = (((s.srcS i 0).v.toNat : Int) + immS (s.words i) i * n) % 2 ^ 64 := by
  have offset : (BitVec.ofInt 64 (immS (s.words i) i * n)).toNat = _ := BitVec.toNat_ofInt _
  show ((((s.srcS i 0).v + BitVec.ofInt 64 (immS (s.words i) i * n)).toNat : Nat) : Int) = _
  rw [BitVec.toNat_add, offset]
  omega

/-! ## Region maps -/

theorem physSp_eq (e : W64) (a : Nat) : physSp e a = e.toNat % 128 * 65536 + a % 65536 := by
  simp [physSp, entPREG, bits]

theorem entRO_eq (e : W64) : entRO e = e.getLsbD 62 := bit_toNat 64 e 62

theorem servesGang_eq (e : W64) : servesGang e = (e.getLsbD 63 && !e.getLsbD 60 && !e.getLsbD 59 && e.getLsbD 61) := by
  rw [← bit_toNat, ← bit_toNat, ← bit_toNat, ← bit_toNat]
  rfl

section
variable (s : State) (c : Ctx) (slot t : Nat) (remote : Bool) (addr off : Nat) (store : Bool)

/-- Whether the entry of an access serves it (R242). -/
def State.serves (s : State) (c : Ctx) (slot t : Nat) (remote : Bool) (off : Nat) : Bool :=
  if remote then servesGang ((s.tileAt t).entry off) else servesCtx (s.tileAt t) slot c ((s.tileAt t).entry off)

variable {s c slot t remote off}

theorem regionCheck_unserved (h : s.serves c slot t remote off = false) :
    s.regionCheck c slot t remote addr off store = .error (0x0C, addr) := by
  have h' : (if remote then servesGang ((s.tileAt t).entry off) else servesCtx (s.tileAt t) slot c ((s.tileAt t).entry off)) = false := h
  simp only [State.regionCheck, h', Bool.not_false, if_true]
  rfl

variable {store}

theorem regionCheck_readOnly (h : s.serves c slot t remote off = true) (st : store = true)
    (ro : ((s.tileAt t).entry off).getLsbD 62 = true) (user : c.mode = false) :
    s.regionCheck c slot t remote addr off store = .error (0x0B, addr) := by
  have h' : (if remote then servesGang ((s.tileAt t).entry off) else servesCtx (s.tileAt t) slot c ((s.tileAt t).entry off)) = true := h
  simp only [State.regionCheck, h', st, entRO_eq, ro, user, Bool.not_true, Bool.false_eq_true, if_false, Bool.not_false, Bool.and_self, if_true]
  rfl

theorem regionCheck_ok (h : s.serves c slot t remote off = true)
    (writable : ¬ (store = true ∧ ((s.tileAt t).entry off).getLsbD 62 = true ∧ c.mode = false)) :
    s.regionCheck c slot t remote addr off store =
      .ok { home := t, remote := remote, key := spKey t (((s.tileAt t).entry off).toNat % 128 * 65536 + off % 65536),
            entry := (s.tileAt t).entry off, acc := false } := by
  have h' : (if remote then servesGang ((s.tileAt t).entry off) else servesCtx (s.tileAt t) slot c ((s.tileAt t).entry off)) = true := h
  have free : (store && ((s.tileAt t).entry off).getLsbD 62 && !c.mode) = false := by
    rw [← Bool.not_eq_true, Bool.and_eq_true, Bool.and_eq_true, Bool.not_eq_true']
    exact fun ⟨⟨st, ro⟩, user⟩ => writable ⟨st, ro, user⟩
  simp only [State.regionCheck, h', entRO_eq, free, Bool.not_true, Bool.false_eq_true, if_false, physSp_eq]

end

/-! ## Where an access lies -/

section
variable {s : State} {t slot : Nat} {c : Ctx} {a n : Nat} {store : Bool}

theorem locate_own (low : a < 0x800000) (fits : a + n ≤ 0x800000) :
    s.locate t slot c a n store = s.regionCheck c slot t false a a store := by
  simp only [State.locate, low, if_true, Nat.not_lt.mpr fits, if_false]

theorem locate_acc (above : 0x800000 ≤ a) (fits : a + n ≤ 0xB00000) (some : 0 < n) : s.locate t slot c a n store =
    .ok { home := t, remote := false, key := accKey t (a - 0x800000), entry := 0, acc := true } := by
  have inside : a < 0xB00000 := by omega
  simp only [State.locate, Nat.not_lt.mpr above, if_false, inside, if_true, Nat.not_lt.mpr fits]

theorem locate_gang (above : 2 ^ 40 ≤ a) : s.locate t slot c a n store =
    if c.gangsize ≤ (a - 2 ^ 40) / 2 ^ 23 then .error (0x0B, a)
    else if 2 ^ 23 < (a - 2 ^ 40) % 2 ^ 23 + n then .error (0x0B, a)
    else if (a - 2 ^ 40) / 2 ^ 23 = c.gangidx then s.regionCheck c slot t false a ((a - 2 ^ 40) % 2 ^ 23) store
    else match s.memberTile c ((a - 2 ^ 40) / 2 ^ 23) with
      | none => .error (0x0B, a)
      | some h => s.regionCheck c slot h true a ((a - 2 ^ 40) % 2 ^ 23) store := by
  have notOwn : ¬ a < 0x800000 := by omega
  have notAcc : ¬ a < 0xB00000 := by omega
  have gang : ¬ a < gangBase := Nat.not_lt.mpr above
  simp only [State.locate, notOwn, notAcc, gang, if_false]
  rfl

/-- An address that starts in a window and runs out of it, or that lies between the windows. -/
theorem locate_outside (h : (a < 0x800000 ∧ 0x800000 < a + n) ∨ (0x800000 ≤ a ∧ a < 0xB00000 ∧ 0xB00000 < a + n) ∨
    (0xB00000 ≤ a ∧ a < 2 ^ 40)) : s.locate t slot c a n store = .error (0x0B, a) := by
  have gang : gangBase = 2 ^ 40 := rfl
  rcases h with ⟨low, out⟩ | ⟨above, inside, out⟩ | ⟨above, below⟩
  · simp only [State.locate, low, out, if_true]; rfl
  · simp only [State.locate, Nat.not_lt.mpr above, inside, out, if_true, if_false]; rfl
  · have notOwn : ¬ a < 0x800000 := by omega
    have notAcc : ¬ a < 0xB00000 := by omega
    simp only [State.locate, gang, notOwn, notAcc, below, if_true, if_false]; rfl

end

/-! ## The checks of a word -/

section
variable {s : State} {base : Bool} {a n align : Nat} {store noAcc dataP : Bool}

theorem check_poisoned (h : base = true) : s.check base a n align store noAcc dataP = .error (0x0D, 0) := by
  simp only [State.check, h, if_true]; rfl

theorem check_misaligned (clean : base = false) (h : a % align ≠ 0) :
    s.check base a n align store noAcc dataP = .error (0x0A, a) := by
  simp only [State.check, clean, h, Bool.false_eq_true, if_false, ne_eq, not_false_eq_true, if_true]; rfl

variable (clean : base = false) (aligned : a % align = 0)
include clean aligned

theorem check_of_error {e : Nat × Nat} (h : s.locate s.iss.tile s.iss.slot s.iss.pre a n store = .error e) :
    s.check base a n align store noAcc dataP = .error e := by
  simp only [State.check, clean, aligned, h, Bool.false_eq_true, if_false, ne_eq, not_true_eq_false]

theorem check_of_ok {l : Loc} (h : s.locate s.iss.tile s.iss.slot s.iss.pre a n store = .ok l) :
    s.check base a n align store noAcc dataP = if noAcc && l.acc then .error (0x0B, a)
      else if store && dataP && l.remote then .error (0x0D, a) else .ok l := by
  simp only [State.check, clean, aligned, h, Bool.false_eq_true, if_false, ne_eq, not_true_eq_false]
  rfl

end

/-- The tile and the distance of an access through the gang window whose member exists (R30). -/
theorem locate_member {s : State} {a n : Nat} {store : Bool} {h : Nat} (above : 2 ^ 40 ≤ a)
    (member : (a - 2 ^ 40) / 2 ^ 23 < s.iss.pre.gangsize) (fits : (a - 2 ^ 40) % 2 ^ 23 + n ≤ 2 ^ 23)
    (tile : (if (a - 2 ^ 40) / 2 ^ 23 = s.iss.pre.gangidx then some s.iss.tile
      else s.memberTile s.iss.pre ((a - 2 ^ 40) / 2 ^ 23)) = some h) :
    s.locate s.iss.tile s.iss.slot s.iss.pre a n store = s.regionCheck s.iss.pre s.iss.slot h
      ((a - 2 ^ 40) / 2 ^ 23 != s.iss.pre.gangidx) a ((a - 2 ^ 40) % 2 ^ 23) store := by
  rw [locate_gang above, if_neg (Nat.not_le.mpr member), if_neg (Nat.not_lt.mpr fits)]
  by_cases own : (a - 2 ^ 40) / 2 ^ 23 = s.iss.pre.gangidx
  · rw [if_pos own] at tile ⊢
    obtain rfl := Option.some.inj tile
    rw [own, bne_self_eq_false]
  · rw [if_neg own] at tile ⊢
    rw [tile, bne_iff_ne.mpr own]

/-- Settles O10. -/
theorem addressesAndChecks : Obligations.AddressesAndChecks := by
  refine ⟨lmAddr_eq, fun s base a n align store noAcc dataP => ?_⟩
  intro t r
  refine ⟨check_poisoned, check_misaligned, fun clean aligned above below => ?_, fun clean aligned above beyond => ?_,
    fun clean aligned low out => ?_, fun clean aligned low fits unserved => ?_, fun clean aligned low fits served st ro user => ?_,
    fun clean aligned low fits served writable => ?_, fun clean aligned above fits bytes allowed => ?_,
    fun clean aligned above fits bytes refused => ?_, fun clean aligned above below out => ?_, servesGang_eq, ?_⟩
  · exact check_of_error clean aligned (locate_outside (.inr (.inr ⟨above, below⟩)))
  · exact check_of_error clean aligned ((locate_gang above).trans (if_pos beyond))
  · exact check_of_error clean aligned (locate_outside (.inl ⟨low, out⟩))
  · exact check_of_error clean aligned ((locate_own low fits).trans (regionCheck_unserved _ _ unserved))
  · exact check_of_error clean aligned ((locate_own low fits).trans (regionCheck_readOnly _ served st ro user))
  · have located := (locate_own (store := store) low fits).trans (regionCheck_ok a served fun ⟨st, ro, user⟩ => by
      rw [writable st ro] at user; cases user)
    rw [show r = _ from check_of_ok clean aligned located, Bool.and_false, Bool.and_false]
    rfl
  · rw [show r = _ from check_of_ok clean aligned (locate_acc above fits bytes), allowed, Bool.and_false]
    rfl
  · rw [show r = _ from check_of_ok clean aligned (locate_acc above fits bytes), refused]
    rfl
  · exact check_of_error clean aligned (locate_outside (.inr (.inl ⟨above, below, out⟩)))
  · intro g off clean aligned above member
    refine ⟨fun out => ?_, fun fits h tile => ?_⟩
    · exact check_of_error clean aligned ((locate_gang above).trans ((if_neg (Nat.not_le.mpr member)).trans (if_pos out)))
    · intro far e ok ro sent
      have located := locate_member (store := store) above member fits tile
      have serves : s.serves s.iss.pre s.iss.slot h (g != s.iss.pre.gangidx) off = true ↔ ok := by
        by_cases own : g = s.iss.pre.gangidx
        · have here : h = t := by
            rw [if_pos own] at tile
            exact (Option.some.inj tile).symm
          simp only [ok, State.serves, own, bne_self_eq_false, Bool.false_eq_true, if_false, if_true, here, e]
        · simp only [ok, State.serves, bne_iff_ne.mpr own, own, if_false, if_true, e]
      refine ⟨fun unserved => ?_, fun served readOnly => ?_, fun served writable crosses => ?_, fun served writable stays => ?_⟩
      · exact check_of_error clean aligned (located.trans (regionCheck_unserved _ _ (Bool.eq_false_iff.mpr (mt serves.mp unserved))))
      · obtain ⟨st, marked, user⟩ := readOnly
        exact check_of_error clean aligned (located.trans (regionCheck_readOnly _ (serves.mpr served) st marked user))
      · obtain ⟨st, poisoned, remote⟩ := crosses
        rw [show r = _ from check_of_ok clean aligned (located.trans (regionCheck_ok a (serves.mpr served) writable)), Bool.and_false,
          st, poisoned, bne_iff_ne.mpr remote]
        rfl
      · rw [show r = _ from check_of_ok clean aligned (located.trans (regionCheck_ok a (serves.mpr served) writable)), Bool.and_false]
        have carried : (store && dataP && (g != s.iss.pre.gangidx)) = false := by
          rw [← Bool.not_eq_true, Bool.and_eq_true, Bool.and_eq_true, bne_iff_ne]
          exact fun ⟨⟨st, poisoned⟩, remote⟩ => stays ⟨st, poisoned, remote⟩
        show (if false = true then _ else if (store && dataP && (g != s.iss.pre.gangidx)) = true then _ else _) = _
        rw [carried]
        rfl

end Sys2Proof.Machine
end

section
/-! SUPPORT. Scalar and vector loads and stores (R93 to R95, R90, R100, R101): what each word's checks let it do. -/

namespace Sys2Proof.Machine

/-! ## Scalar loads and stores -/

theorem completes_loadS {i : Instr} {f : FLm} {n : Nat} {sext : Bool} {s : State} (run : exec i s = runWord i (loadS i f n sext) s)
    (l : Loc) (e : Nat × Nat) :
    (CompletesIf s i (fun o => o.check (o.srcS i 0).p (lmAddr o i n) n n false false false = .ok l) fun o =>
      o.issueAct l f.o (.load l.key n sext) (.s f.d f.w) true) ∧
    TrapsIf s i (fun o => o.check (o.srcS i 0).p (lmAddr o i n) n n false false false = .error e) e.1 e.2 :=
  ⟨completesIf_of_run run fun o passes => by rw [loadS, passes], trapsIf_of_run run fun o refused => by rw [loadS, refused]⟩

theorem completes_storeS {i : Instr} {f : FSt} {n : Nat} {s : State} (run : exec i s = runWord i (storeS i f n) s) (l : Loc)
    (e : Nat × Nat) :
    (CompletesIf s i (fun o => o.check (o.srcS i 0).p (lmAddr o i n) n n true false (o.srcS i 2).p = .ok l) fun o =>
      o.issueAct l f.o (.write [(l.key, n, (o.srcS i 2).v.toNat)] [(o.srcS i 2).p]) .none false) ∧
    TrapsIf s i (fun o => o.check (o.srcS i 0).p (lmAddr o i n) n n true false (o.srcS i 2).p = .error e) e.1 e.2 :=
  ⟨completesIf_of_run run fun o passes => by dsimp only [storeS]; rw [passes],
    trapsIf_of_run run fun o refused => by dsimp only [storeS]; rw [refused]⟩

/-- Settles O11. -/
theorem scalarLoadsAndStores : Obligations.ScalarLoadsAndStores := by
  intro f g s l e L W
  have load {i : Instr} {n : Nat} {sext : Bool} (run : exec i s = runWord i (loadS i f n sext) s) : L i n sext :=
    completes_loadS run l e
  have store {i : Instr} {n : Nat} (run : exec i s = runWord i (storeS i g n) s) : W i n := completes_storeS run l e
  clear_value L W
  exact ⟨load (exec_ldb f s), load (exec_ldbu f s), load (exec_ldh f s), load (exec_ldhu f s), load (exec_ldw f s),
    load (exec_ldwu f s), load (exec_ldd f s), store (exec_stb g s), store (exec_sth g s), store (exec_stw g s),
    store (exec_std g s)⟩

/-! ## Blocks of lanes -/

theorem blockOn1_of_blockOn {m : Pred} {b : Nat} (whole : blockOn m b ≠ none) : blockOn1 m b = (blockOn m b == some true) := by
  unfold blockOn at whole ⊢
  unfold blockOn1
  dsimp only at whole ⊢
  rw [List.all_map, List.any_map] at whole ⊢
  show (List.range 32).any (id ∘ fun j => laneOn m (32 * b + j)) = _
  split_ifs at whole ⊢ with all any
  · have first : laneOn m (32 * b + 0) = true := List.all_eq_true.mp all 0 (by decide)
    rw [List.any_eq_true.mpr ⟨0, by decide, first⟩]
    rfl
  · exact absurd rfl whole
  · rw [Bool.eq_false_iff.mpr any]
    rfl

/-- The mark of a block all of whose lanes are active, or none (R91). -/
theorem blockP_of_blockOn {x : VVal} {m : Pred} {b : Nat} (whole : blockOn m b ≠ none) :
    blockP x m b = (blockOn m b == some true && (List.range 16).any fun k => bit x.p.toNat (16 * b + k)) := by
  have chunk (j : Nat) : (32 * b + j) / 2 = 16 * b + j / 2 := by omega
  cases on : blockOn m b == some true with
  | false =>
    have off : blockOn1 m b = false := (blockOn1_of_blockOn whole).trans on
    rw [Bool.false_and]
    refine List.any_eq_false.mpr fun j hj => ?_
    rw [Bool.eq_false_iff.mpr (List.any_eq_false.mp off j hj), Bool.false_and]
    exact Bool.false_ne_true
  | true =>
    have active : ∀ j ∈ List.range 32, laneOn m (32 * b + j) = true := by
      have all := beq_iff_eq.mp on
      unfold blockOn at all
      dsimp only at all
      rw [List.all_map] at all
      split_ifs at all with every any
      · exact List.all_eq_true.mp every
      · cases all
    rw [Bool.true_and, Bool.eq_iff_iff, blockP, List.any_eq_true, List.any_eq_true]
    constructor
    · rintro ⟨j, hj, marked⟩
      rw [active j hj, Bool.true_and, chunk] at marked
      exact ⟨j / 2, List.mem_range.mpr (by have := List.mem_range.mp hj; omega), marked⟩
    · rintro ⟨k, hk, marked⟩
      have inside : 2 * k ∈ List.range 32 := List.mem_range.mpr (by have := List.mem_range.mp hk; omega)
      refine ⟨2 * k, inside, ?_⟩
      rw [active _ inside, Bool.true_and, chunk, Nat.mul_div_cancel_left k (by decide)]
      exact marked

/-! ## The checks of a chunk -/

/-- The chunk's alignment (R95). -/
theorem chunkBytes_eq (fmt : Nat) : chunkBytes fmt = 8 * fmtBits fmt := by
  unfold chunkBytes
  omega

/-- A store of some lanes of an MXFP4 block (R95). -/
theorem partBlock_iff (st : Bool) (fmt : Nat) (m : Pred) :
    (st && fmt == fmtMXFP4 && ((blockOn m 0).isNone || (blockOn m 1).isNone)) = true ↔
      st = true ∧ fmt = 6 ∧ (blockOn m 0 = none ∨ blockOn m 1 = none) := by
  simp [fmtMXFP4, and_assoc]

section
variable {o : State} {i : Instr} {st : Bool}

theorem elemCheck_poisoned (h : (o.srcS i 0).p = true) : elemCheck o i st = .error (0x0D, 0) := by
  simp only [elemCheck, h, if_true]; rfl

theorem elemCheck_unplaced (clean : (o.srcS i 0).p = false) {e : Nat × Nat}
    (h : o.locate o.iss.tile o.iss.slot o.iss.pre (lmAddr o i 256) 1 st = .error e) : elemCheck o i st = .error e := by
  simp only [elemCheck, clean, h, Bool.false_eq_true, if_false]

theorem elemCheck_placed (clean : (o.srcS i 0).p = false) {l : Loc}
    (h : o.locate o.iss.tile o.iss.slot o.iss.pre (lmAddr o i 256) 1 st = .ok l) :
    elemCheck o i st = if fmtReserved (locFmt l) = true then .error (0x0F, lmAddr o i 256)
      else if lmAddr o i 256 % (8 * fmtBits (locFmt l)) ≠ 0 then .error (0x0A, lmAddr o i 256)
      else if (st && locFmt l == fmtMXFP4 && ((blockOn o.mask 0).isNone || (blockOn o.mask 1).isNone)) = true then
        .error (0x0F, lmAddr o i 256)
      else if (st && l.remote && (blockP (o.srcV i 2) o.mask 0 || blockP (o.srcV i 2) o.mask 1)) = true then
        .error (0x0D, lmAddr o i 256)
      else .ok (l, locFmt l) := by
  simp only [elemCheck, clean, h, Bool.false_eq_true, if_false, chunkBytes_eq]
  rfl

theorem chunkCheck_of_error {e : Nat × Nat} (h : elemCheck o i st = .error e) : chunkCheck o i st = .error e := by
  simp only [chunkCheck, h]

theorem chunkCheck_plain {l : Loc} {fmt : Nat} (h : elemCheck o i st = .ok (l, fmt)) (plain : fmt ≠ 6) :
    chunkCheck o i st = .ok (l, fmt, l, l) := by
  have other : ¬ fmt = fmtMXFP4 := plain
  simp only [chunkCheck, h, other, if_false]

/-- The scale bytes of an MXFP4 chunk whose elements pass (R101). -/
theorem chunkCheck_scaled {l : Loc} (h : elemCheck o i st = .ok (l, 6)) :
    chunkCheck o i st = if lmAddr o i 256 < recEBASE (locRec o.iss.pre l) ∨ recEBASE (locRec o.iss.pre l) % 32 ≠ 0 then
        .error (0x0F, lmAddr o i 256)
      else match scaleChecks o (scaleAddr o.iss.pre l (lmAddr o i 256)) st (if st then o.srcV i 2 else {}) l with
        | .error e => .error e
        | .ok (x, y) => .ok (l, 6, x, y) := by
  simp only [chunkCheck, h]
  rw [if_pos (show (6 : Nat) = fmtMXFP4 from rfl)]
  rfl

/-- The elements of an MXFP4 store that passes its checks have whole blocks (R95). -/
theorem whole_of_chunkCheck {l l0 l1 : Loc} (h : chunkCheck o i true = .ok (l, 6, l0, l1)) :
    blockOn o.mask 0 ≠ none ∧ blockOn o.mask 1 ≠ none := by
  have passes : ∃ k, elemCheck o i true = .ok (k, 6) := by
    cases e : elemCheck o i true with
    | error x => rw [chunkCheck_of_error e] at h; cases h
    | ok y =>
      obtain ⟨k, fmt⟩ := y
      by_cases plain : fmt = 6
      · exact ⟨k, by rw [plain]⟩
      · rw [chunkCheck_plain e plain] at h
        cases h
        exact absurd rfl plain
  obtain ⟨k, passes⟩ := passes
  cases base : (o.srcS i 0).p with
  | true => rw [elemCheck_poisoned base] at passes; cases passes
  | false =>
    cases spot : o.locate o.iss.tile o.iss.slot o.iss.pre (lmAddr o i 256) 1 true with
    | error x => rw [elemCheck_unplaced base spot] at passes; cases passes
    | ok y =>
      rw [elemCheck_placed base spot] at passes
      split_ifs at passes with reserved crooked part sent
      simp only [Except.ok.injEq, Prod.mk.injEq] at passes
      rw [partBlock_iff] at part
      exact ⟨fun none => part ⟨rfl, passes.2, .inl none⟩, fun none => part ⟨rfl, passes.2, .inr none⟩⟩

end

/-! ## Scale bytes -/

section
variable {o : State} {b : Nat} {st p : Bool}

theorem scaleCheck_unplaced {e : Nat × Nat} (h : o.locate o.iss.tile o.iss.slot o.iss.pre b 1 st = .error e) :
    scaleCheck o b st p = .error e := by
  simp only [scaleCheck, h]

theorem scaleCheck_placed {l : Loc} (h : o.locate o.iss.tile o.iss.slot o.iss.pre b 1 st = .ok l) :
    scaleCheck o b st p = if (!l.acc && fmtReserved (entFMT l.entry)) = true then .error (0x0F, b)
      else if (st && p && l.remote) = true then .error (0x0D, b) else .ok l := by
  simp only [scaleCheck, h]
  rfl

/-- A block's mark counts in a store only. -/
theorem blockP_of_store (m : Pred) (x : VVal) (b : Nat) : blockP (if st then x else {}) m b = (st && blockP x m b) := by
  cases st with
  | true => rfl
  | false => simp [blockP, bit]

end

/-- The marks that a check of a store to another tile reads (R90). -/
def markedLanes (o : State) (i : Instr) (b : Nat) : Bool :=
  (List.range 32).any fun k => laneOn o.mask (32 * b + k) && bit (o.srcV i 2).p.toNat ((32 * b + k) / 2)

/-- The scale bytes of a chunk whose elements are at `l`, one block after the other (R101). -/
theorem chunkCheck_scales {o : State} {i : Instr} {st : Bool} {l : Loc} (elements : elemCheck o i st = .ok (l, 6))
    (above : recEBASE (locRec o.iss.pre l) ≤ lmAddr o i 256) (aligned : recEBASE (locRec o.iss.pre l) % 32 = 0) :
    let one := fun b => if blockOn1 o.mask b
      then scaleCheck o (recSPBASE (locRec o.iss.pre l) + (lmAddr o i 256 - recEBASE (locRec o.iss.pre l)) / 16 + b) st
        (st && markedLanes o i b) else .ok l
    (∀ e, one 0 = .error e → chunkCheck o i st = .error e) ∧
    ∀ x, one 0 = .ok x → (∀ e, one 1 = .error e → chunkCheck o i st = .error e) ∧ ∀ y, one 1 = .ok y → chunkCheck o i st = .ok (l, 6, x, y) := by
  intro one
  have fits : ¬ (lmAddr o i 256 < recEBASE (locRec o.iss.pre l) ∨ recEBASE (locRec o.iss.pre l) % 32 ≠ 0) := by omega
  have both : scaleChecks o (scaleAddr o.iss.pre l (lmAddr o i 256)) st (if st then o.srcV i 2 else {}) l =
      match one 0 with
      | .error e => .error e
      | .ok l0 => match one 1 with
        | .error e => .error e
        | .ok l1 => .ok (l0, l1) := by
    unfold scaleChecks
    rw [blockP_of_store, blockP_of_store]
    rfl
  rw [chunkCheck_scaled elements, if_neg fits, both]
  refine ⟨fun e refused => ?_, fun x first => ⟨fun e refused => ?_, fun y second => ?_⟩⟩
  · rw [refused]
  · rw [first, refused]
  · rw [first, second]

/-- The checks of LDVF and STVF at a place, in their order (R90, R95, R101). -/
theorem chunkCheck_placed {o : State} {i : Instr} {st : Bool} {l : Loc} (clean : (o.srcS i 0).p = false)
    (placed : o.locate o.iss.tile o.iss.slot o.iss.pre (lmAddr o i 256) 1 st = .ok l) :
    let a := lmAddr o i 256
    let r := chunkCheck o i st
    let fmt := locFmt l
    let part := st = true ∧ fmt = 6 ∧ (blockOn o.mask 0 = none ∨ blockOn o.mask 1 = none)
    let sent := st = true ∧ l.remote = true ∧ (markedLanes o i 0 = true ∨ markedLanes o i 1 = true)
    let eb := recEBASE (locRec o.iss.pre l)
    (fmtReserved fmt = true → r = .error (0x0F, a)) ∧
    (fmtReserved fmt = false → a % (8 * fmtBits fmt) ≠ 0 → r = .error (0x0A, a)) ∧
    (fmtReserved fmt = false → a % (8 * fmtBits fmt) = 0 → part → r = .error (0x0F, a)) ∧
    (fmtReserved fmt = false → a % (8 * fmtBits fmt) = 0 → ¬ part → sent → r = .error (0x0D, a)) ∧
    (fmtReserved fmt = false → a % (8 * fmtBits fmt) = 0 → ¬ part → ¬ sent → fmt ≠ 6 → r = .ok (l, fmt, l, l)) ∧
    (fmtReserved fmt = false → a % (8 * fmtBits fmt) = 0 → ¬ part → ¬ sent → fmt = 6 → a < eb ∨ eb % 32 ≠ 0 →
      r = .error (0x0F, a)) ∧
    (fmtReserved fmt = false → a % (8 * fmtBits fmt) = 0 → ¬ part → ¬ sent → fmt = 6 → eb ≤ a → eb % 32 = 0 →
      let one := fun b => if blockOn1 o.mask b
        then scaleCheck o (recSPBASE (locRec o.iss.pre l) + (a - eb) / 16 + b) st (st && markedLanes o i b) else .ok l
      (∀ e, one 0 = .error e → r = .error e) ∧
      ∀ x, one 0 = .ok x → (∀ e, one 1 = .error e → r = .error e) ∧ ∀ y, one 1 = .ok y → r = .ok (l, 6, x, y)) := by
  intro a r fmt part sent eb
  have checked := elemCheck_placed clean placed
  have isPart := partBlock_iff st fmt o.mask
  have isSent : (st && l.remote && (blockP (o.srcV i 2) o.mask 0 || blockP (o.srcV i 2) o.mask 1)) = true ↔ sent := by
    rw [Bool.and_eq_true, Bool.and_eq_true, Bool.or_eq_true, and_assoc]
    rfl
  have reaches (known : fmtReserved fmt = false) (aligned : a % (8 * fmtBits fmt) = 0) (whole : ¬ part) (near : ¬ sent) :
      elemCheck o i st = .ok (l, fmt) := by
    rw [checked, if_neg (Bool.eq_false_iff.mp known), if_neg (not_not.mpr aligned), if_neg (mt isPart.mp whole), if_neg (mt isSent.mp near)]
  refine ⟨fun reserved => ?_, fun known crooked => ?_, fun known aligned some => ?_, fun known aligned whole crosses => ?_,
    fun known aligned whole near plain => chunkCheck_plain (reaches known aligned whole near) plain,
    fun known aligned whole near mx outside => ?_, fun known aligned whole near mx above even => ?_⟩
  · exact chunkCheck_of_error (checked.trans (if_pos reserved))
  · exact chunkCheck_of_error (by rw [checked, if_neg (Bool.eq_false_iff.mp known), if_pos crooked])
  · exact chunkCheck_of_error (by
      rw [checked, if_neg (Bool.eq_false_iff.mp known), if_neg (not_not.mpr aligned), if_pos (isPart.mpr some)])
  · exact chunkCheck_of_error (by
      rw [checked, if_neg (Bool.eq_false_iff.mp known), if_neg (not_not.mpr aligned), if_neg (mt isPart.mp whole),
        if_pos (isSent.mpr crosses)])
  · exact (chunkCheck_scaled (mx ▸ reaches known aligned whole near)).trans (if_pos outside)
  · exact chunkCheck_scales (mx ▸ reaches known aligned whole near) above even

/-- The checks of a scale byte in their order (R90, R101). -/
theorem scaleCheck_order {o : State} {st : Bool} (b : Nat) (p : Bool) :
    let spot := o.locate o.iss.tile o.iss.slot o.iss.pre b 1 st
    let r := scaleCheck o b st p
    (∀ e, spot = .error e → r = .error e) ∧
    ∀ l, spot = .ok l →
      let form := l.acc = false ∧ fmtReserved (entFMT l.entry) = true
      let sent := st = true ∧ p = true ∧ l.remote = true
      (form → r = .error (0x0F, b)) ∧ (¬ form → sent → r = .error (0x0D, b)) ∧ (¬ form → ¬ sent → r = .ok l) := by
  intro spot r
  refine ⟨fun e unplaced => scaleCheck_unplaced unplaced, fun l placed => ?_⟩
  intro form sent
  have checked : r = _ := scaleCheck_placed placed
  have isForm : (!l.acc && fmtReserved (entFMT l.entry)) = true ↔ form := by
    rw [Bool.and_eq_true, Bool.not_eq_true']
  have isSent : (st && p && l.remote) = true ↔ sent := by
    rw [Bool.and_eq_true, Bool.and_eq_true, and_assoc]
  refine ⟨fun reserved => ?_, fun known crosses => ?_, fun known near => ?_⟩
  · rw [checked, if_pos (isForm.mpr reserved)]
  · rw [checked, if_neg (mt isForm.mp known), if_pos (isSent.mpr crosses)]
  · rw [checked, if_neg (mt isForm.mp known), if_neg (mt isSent.mp near)]

/-! ## The vector words -/

section
variable {i : Instr} {f : FLm} {g : FSt} {s : State}

/-- A vector load of `n` bytes, by its lane mask and its checks (R95). -/
theorem completes_loadLanes {n : Nat} {act : Loc → Pred → MemAct} {eff : State → WordRes} (run : exec i s = runWord i eff s)
    (meaning : ∀ o, eff o = if o.mask = 0 then noLanes i f.d f.w o
      else match o.check (o.srcS i 0).p (lmAddr o i 256) n n false false false with
        | .error e => .trap e.1 e.2 o
        | .ok l => .ok (o.issueAct l f.o (act l o.mask) (vdst o f.d f.w o.mask) true)) (l : Loc) (e : Nat × Nat) :
    (CompletesIf s i (fun o => o.mask = 0) fun o => o.resV i f.d f.w (o.oldV f.d f.w)) ∧
    (CompletesIf s i (fun o => o.mask ≠ 0 ∧ o.check (o.srcS i 0).p (lmAddr o i 256) n n false false false = .ok l) fun o =>
      o.issueAct l f.o (act l o.mask) (.v (physV o.iss.pre.vrb f.d.toNat) f.w o.mask) true) ∧
    TrapsIf s i (fun o => o.mask ≠ 0 ∧ o.check (o.srcS i 0).p (lmAddr o i 256) n n false false false = .error e) e.1 e.2 := by
  refine ⟨completesIf_of_run run fun o off => ?_, completesIf_of_run run fun o holds => ?_, trapsIf_of_run run fun o holds => ?_⟩
  · rw [meaning, if_pos off]; rfl
  · rw [meaning, if_neg holds.1, holds.2]; rfl
  · rw [meaning, if_neg holds.1, holds.2]

theorem stvf_mx {o : State} {l l0 l1 : Loc} (some : laneMask o.mask ≠ 0)
    (passes : chunkCheck o (.stvf g) true = .ok (l, 6, l0, l1)) :
    stvf (.stvf g) g o = stvfMx g l l0 l1 (o.srcV (.stvf g) 2) (locRec o.iss.pre l) o := by
  simp only [stvf, some, if_false, passes]
  rw [if_pos (show (6 : Nat) = fmtMXFP4 from rfl)]

theorem stvf_plain {o : State} {l l0 l1 : Loc} {fmt : Nat} (some : laneMask o.mask ≠ 0)
    (passes : chunkCheck o (.stvf g) true = .ok (l, fmt, l0, l1)) (plain : fmt ≠ 6) :
    stvf (.stvf g) g o =
      let enc := (elems (o.srcV (.stvf g) 2).v.toNat 4 64).map fun y =>
        if fmtBits fmt = 32 then (y, (0 : Flags)) else encodeLane fmt (locRec o.iss.pre l) o.iss.pre.rm y
      .ok ((o.issueAct l g.o (writeAct (pieces l.key (ofElems (fmtBits fmt / 8) (enc.map (·.1)))
        (chunkMask o.mask (fmtBits fmt / 8)) (chunkMarks (o.srcV (.stvf g) 2) o.mask (fmtBits fmt)) (fmtBits fmt))) .none false).orFcsr
        (orAll (enc.zipIdx.map fun e => if laneOn o.mask e.2 then e.1.2 else 0))) := by
  have other : ¬ fmt = fmtMXFP4 := plain
  simp only [stvf, some, if_false, passes, other, plainFmt, beq_iff_eq]

end

/-- Settles O13. -/
theorem vectorLoadsAndStores : Obligations.VectorLoadsAndStores := by
  intro f g s l l0 l1 fmt e chk L stvP
  refine ⟨completes_loadLanes (exec_ldv f s) (fun o => rfl) l e, completes_loadLanes (exec_ldvb f s) (fun o => rfl) l e,
    completesIf_of_run (exec_stv g s) fun o off => ?_, completesIf_of_run (exec_stv g s) fun o holds => ?_,
    trapsIf_of_run (exec_stv g s) fun o holds => ?_, completesIf_of_run (exec_ldvf f s) fun o off => ?_,
    completesIf_of_run (exec_ldvf f s) fun o holds => ?_, trapsIf_of_run (exec_ldvf f s) fun o holds => ?_,
    completesIf_of_run (exec_stvf g s) fun o off => ?_, ?_, ?_, trapsIf_of_run (exec_stvf g s) fun o holds => ?_⟩
  · simp only [stv, off, if_true]
  · obtain ⟨some, passes⟩ := holds
    have passes' : o.check (o.srcS (.stv g) 0).p (lmAddr o (.stv g) 256) 256 256 true false
      (maskedPoison o.mask.toNat (o.srcV (.stv g) 2).p.toNat 32) = .ok l := passes
    simp only [stv, some, if_false, passes']
  · obtain ⟨some, refused⟩ := holds
    have refused' : o.check (o.srcS (.stv g) 0).p (lmAddr o (.stv g) 256) 256 256 true false
      (maskedPoison o.mask.toNat (o.srcV (.stv g) 2).p.toNat 32) = .error e := refused
    simp only [stv, some, if_false, refused']
  · simp only [ldvf, off, if_true]
    rfl
  · obtain ⟨some, passes⟩ := holds
    simp only [ldvf, some, if_false, passes, plainFmt, beq_iff_eq]
    rfl
  · obtain ⟨some, refused⟩ := holds
    simp only [ldvf, some, if_false, refused]
  · simp only [stvf, off, if_true]
  · intro x raw enc marks
    refine ⟨completesIf_of_run (exec_stvf g s) fun o holds => ?_, ?_⟩
    · obtain ⟨some, passes, plain⟩ := holds
      exact stvf_plain some passes plain
    · intro mx half u
      refine completesIf_of_run (exec_stvf g s) fun o holds => ?_
      obtain ⟨⟨some, passes⟩, rfl⟩ := holds
      obtain ⟨whole0, whole1⟩ := whole_of_chunkCheck passes
      rw [stvf_mx some passes, stvfMx]
      simp only [blockOn1_of_blockOn whole0, blockOn1_of_blockOn whole1, blockP_of_blockOn whole0, blockP_of_blockOn whole1]
      rfl
  · intro o i st
    exact ⟨fun base => chunkCheck_of_error (elemCheck_poisoned base),
      fun clean e unplaced => chunkCheck_of_error (elemCheck_unplaced clean unplaced),
      fun clean l placed => chunkCheck_placed clean placed, scaleCheck_order⟩
  · obtain ⟨some, refused⟩ := holds
    simp only [stvf, some, if_false, refused]

end Sys2Proof.Machine
end

section
/-! SUPPORT. Parameter windows (R97), atomics (R142 to R146) and fences (R296, R302). -/

namespace Sys2Proof.Machine

/-! ## Parameter windows -/

/-- Settles O15. -/
theorem parameterWindowReads : Obligations.ParameterWindowReads := by
  intro f s v u x p out e size base n off
  refine ⟨trapsIf_of_run (exec_ldp f s) fun o unbound => ?_, trapsIf_of_run (exec_ldp f s) fun o holds => ?_,
    fun a => trapsIf_of_run (exec_ldp f s) fun o holds => ?_, ?_, fun o b k size n => ?_, fun q l => State.sramReads_quiet l q⟩
  · have unbound' : (o.iss.pre.pws.getD f.n.toNat 0).toNat = 0 := unbound
    simp only [ldp, unbound', if_true]
    rfl
  · obtain ⟨bound, poisoned⟩ := holds
    have bound' : ¬ (o.iss.pre.pws.getD f.n.toNat 0).toNat = 0 := bound
    simp only [ldp, bound', poisoned, if_false, if_true]
    rfl
  · obtain ⟨bound, clean, crooked, rfl⟩ := holds
    have bound' : ¬ (o.iss.pre.pws.getD f.n.toNat 0).toNat = 0 := bound
    have crooked' : ((o.srcS (.ldp f) 0).v.toNat + o.immU (.ldp f) * 2 ^ f.z.toNat) % 2 ^ f.z.toNat ≠ 0 := crooked
    simp only [ldp, bound', clean, crooked', Bool.false_eq_true, if_false, ne_eq, not_false_eq_true, if_true]
    rfl
  · intro reads
    have meaning (o : State) (h : reads o) : ldp (.ldp f) f o = match ldpBytes v (base o) (off o) (size o) n with
        | .error e => .trap e.1 e.2 o
        | .ok (x, p, out) => .ok ((if out then u.modCur fun c => { c with pwoob := true, newPwoob := true } else u).resS (.ldp f) f.d f.w
            { v := BitVec.ofNat 64 x, p := p }) := by
      obtain ⟨bound, clean, aligned, found⟩ := h
      have bound' : ¬ (o.iss.pre.pws.getD f.n.toNat 0).toNat = 0 := bound
      have aligned' : ((o.srcS (.ldp f) 0).v.toNat + o.immU (.ldp f) * 2 ^ f.z.toNat) % 2 ^ f.z.toNat = 0 := aligned
      have found' : o.sramReads (ldpDws o (o.iss.pre.pwb.getD f.n.toNat 0).toNat
        ((o.srcS (.ldp f) 0).v.toNat + o.immU (.ldp f) * 2 ^ f.z.toNat) (o.iss.pre.pws.getD f.n.toNat 0).toNat (2 ^ f.z.toNat)) = (v, u) :=
        found
      simp only [ldp, bound', clean, aligned', found', Bool.false_eq_true, if_false, ne_eq, not_true_eq_false]
      rfl
    refine ⟨completesIf_of_run (exec_ldp f s) fun o holds => ?_, trapsIf_of_run (exec_ldp f s) fun o holds => ?_⟩
    · rw [meaning o holds.1, holds.2]
    · rw [meaning o holds.1, holds.2]
  · rw [ldpBytes]
    cases ldpBytes o b k size n with
    | error e => rfl
    | ok r =>
      obtain ⟨y, q, w⟩ := r
      by_cases below : k + n < size
      · exact (if_pos below).trans (if_neg (Nat.not_le.mpr below)).symm
      · exact (if_neg below).trans (if_pos (Nat.le_of_not_lt below)).symm

/-! ## Atomics -/

theorem completes_atomic {i : Instr} {f : FLx} {op : AtomicOp} {n : Nat} {s : State} (run : exec i s = runWord i (atomic i f op n) s)
    (l : Loc) (e : Nat × Nat) :
    (CompletesIf s i (fun o => o.check (o.srcS i 0).p (o.srcS i 0).v.toNat n n true true ((o.srcS i 1).p || (o.srcS i 2).p) = .ok l) fun o =>
      o.issueAct l f.o (.atomic op l.key (o.srcS i 1) (o.srcS i 2) f.w) (if f.w then .s f.d true else .none) f.w) ∧
    TrapsIf s i (fun o => o.check (o.srcS i 0).p (o.srcS i 0).v.toNat n n true true ((o.srcS i 1).p || (o.srcS i 2).p) = .error e)
      e.1 e.2 :=
  ⟨completesIf_of_run run fun o passes => by dsimp only [atomic]; rw [passes],
    trapsIf_of_run run fun o refused => by dsimp only [atomic]; rw [refused]⟩

theorem apply_quiet {s : State} (h : Nat) (a : MemAct) (q : s.quiet = true) : s.apply h a = s.applyAs s h a := by
  unfold State.apply
  rw [State.sramReads_quiet _ q]
  simp only [State.takeRead_self]

section
variable (s : State) (k n x : Nat) (p : Bool)

theorem rd_store : (s.store k n x p).rd k n = x % 2 ^ (8 * n) := by
  obtain ⟨mem, -⟩ := store_facts s k n x p
  rw [State.rd, mem, readBlock_writeBlock _ _ _ _ _ _ (Nat.le_refl _) (Nat.le_refl _), Nat.sub_self, Nat.mul_zero, Nat.pow_zero, Nat.div_one]

theorem readByte_store_off {j : Nat} (h : j < k ∨ k + n ≤ j) : readByte (s.store k n x p).mem j = readByte s.mem j := by
  obtain ⟨mem, -⟩ := store_facts s k n x p
  rw [mem, readByte_writeBlock, if_neg (by omega)]

variable {k}

theorem poisoned_store_dw (aligned : k % 8 = 0) : (s.store k 8 x p).poisoned k = p := by
  obtain ⟨-, poison, -⟩ := store_facts s k 8 x p
  rw [State.poisoned, poison, if_pos ⟨rfl, aligned⟩, poisonAt_setPoison, if_pos rfl]

end

/-- A binary32 pattern lies in the low half of what holds it. -/
theorem decode_low (w : Nat) : fp32.decode (w % 2 ^ 64) = fp32.decode w := by
  have sign : bit (w % 2 ^ 64) (fp32.e + fp32.m) = bit w (fp32.e + fp32.m) := bit_mod_two_pow w 64 _ (by decide)
  have ex : bits (w % 2 ^ 64) fp32.m fp32.e = bits w fp32.m fp32.e := bits_mod_two_pow (by decide) w
  have mant : bits (w % 2 ^ 64) 0 fp32.m = bits w 0 fp32.m := bits_mod_two_pow (by decide) w
  have quiet : bit (w % 2 ^ 64) (fp32.m - 1) = bit w (fp32.m - 1) := bit_mod_two_pow w 64 _ (by decide)
  simp only [FpFmt.decode, sign, ex, mant, quiet]

theorem afadd_eq (w x : Nat) : afadd (w % 2 ^ 64) x = if ((fp32.decode w).isNan || (fp32.decode x).isNan) = true
    then (0x7FC00000, fNV) else fpAdd fp32 0 (fp32.decode w) (fp32.decode x) := by
  simp only [afadd, decode_low]

/-- The results of R143, each as its row says it. -/
theorem atomicNew_eq (op : AtomicOp) (old x : W64) : atomicNew op old x = match op with
    | .add => old + x
    | .min => if x.toInt < old.toInt then x else old
    | .max => if old.toInt < x.toInt then x else old
    | .minu => if x.toNat < old.toNat then x else old
    | .maxu => if old.toNat < x.toNat then x else old
    | .and => old &&& x
    | .or => old ||| x
    | .xor => old ^^^ x
    | _ => x := by
  cases op
  case min =>
    show (if old.toInt < x.toInt then old else x) = if x.toInt < old.toInt then x else old
    rcases Int.lt_trichotomy old.toInt x.toInt with lt | eq | gt
    · rw [if_pos lt, if_neg (Int.lt_asymm lt)]
    · rw [BitVec.eq_of_toInt_eq eq, ite_self]
    · rw [if_neg (Int.lt_asymm gt), if_pos gt]
  case minu =>
    show (if old.toNat < x.toNat then old else x) = if x.toNat < old.toNat then x else old
    rcases Nat.lt_trichotomy old.toNat x.toNat with lt | eq | gt
    · rw [if_pos lt, if_neg (Nat.lt_asymm lt)]
    · rw [BitVec.eq_of_toNat_eq eq, ite_self]
    · rw [if_neg (Nat.lt_asymm gt), if_pos gt]
  all_goals rfl

/-- An integer atomic that is no compare-and-swap stores its result and answers the old value (R143). -/
theorem applyAs_atomic {op : AtomicOp} (notFadd : op ≠ .fadd) (notCas : op ≠ .cas) (s : State) (h k : Nat) (x c : SVal) (ret : Bool) :
    s.applyAs s h (.atomic op k x c ret) =
      (s.store k 8 (atomicNew op (BitVec.ofNat 64 (s.rd k 8)) x.v).toNat (s.poisoned k || x.p),
        if ret then .s { v := BitVec.ofNat 64 (s.rd k 8), p := s.poisoned k } else .none) := by
  cases op
  case fadd => exact absurd rfl notFadd
  case cas => exact absurd rfl notCas
  all_goals rfl

theorem applyAs_cas (s : State) (h k : Nat) (x c : SVal) (ret : Bool) :
    s.applyAs s h (.atomic .cas k x c ret) = (if BitVec.ofNat 64 (s.rd k 8) = c.v then s.store k 8 x.v.toNat (s.poisoned k || x.p || c.p)
      else s, .s { v := BitVec.ofNat 64 (s.rd k 8), p := s.poisoned k }) := by
  show (if BitVec.ofNat 64 (s.rd k 8) = c.v then _ else _) = _
  split <;> rfl

theorem applyAs_fadd (s : State) (h k : Nat) (x c : SVal) (ret : Bool) :
    s.applyAs s h (.atomic .fadd k x c ret) =
      let r := afadd (s.rd k 4 % 2 ^ 64) (x.v.toNat % 2 ^ 32)
      let u := s.store k 4 r.1 (s.poisoned k || x.p)
      if ret then (u, .flags { v := BitVec.ofNat 64 (s.rd k 4), p := s.poisoned k } r.2)
      else (u.modTile h fun t => { t with raflags := t.raflags ||| r.2 }, .none) := by
  cases ret <;> rfl

/-- Settles O16. -/
theorem atomics : Obligations.Atomics := by
  refine ⟨fun f s l e => ?_, fun s h k x c q aligned => ?_⟩
  · intro C
    have row {i : Instr} {op : AtomicOp} {n : Nat} (run : exec i s = runWord i (atomic i f op n) s) : C i op n :=
      completes_atomic run l e
    clear_value C
    exact ⟨row (exec_aadd f s), row (exec_amin f s), row (exec_amax f s), row (exec_aminu f s), row (exec_amaxu f s),
      row (exec_aand f s), row (exec_aor f s), row (exec_axor f s), row (exec_aswp f s), row (exec_acas f s), row (exec_afadd f s)⟩
  · intro old
    refine ⟨fun op ret notFadd notCas => ?_, ?_, fun k ret aligned inside => ?_⟩
    · intro r new
      have applied : r = _ := (apply_quiet h _ q).trans (applyAs_atomic notFadd notCas s h k x c ret)
      have value : atomicNew op old.v x.v = new := atomicNew_eq op old.v x.v
      rw [← value, applied]
      refine ⟨?_, poisoned_store_dw s _ _ aligned, fun j out => readByte_store_off s k 8 _ _ out, fun asked => if_pos asked⟩
      rw [rd_store]
      exact Nat.mod_eq_of_lt (BitVec.isLt _)
    · intro r
      have applied : r = _ := (apply_quiet h _ q).trans (applyAs_cas s h k x c true)
      rw [applied]
      refine ⟨rfl, fun differs => if_neg differs, fun same => ?_⟩
      dsimp only
      rw [if_pos same]
      refine ⟨?_, fun j out => readByte_store_off s k 8 _ _ out⟩
      rw [rd_store]
      exact Nat.mod_eq_of_lt (BitVec.isLt _)
    · intro w a b z r
      have sum : afadd (s.rd k 4 % 2 ^ 64) (x.v.toNat % 2 ^ 32) = z := afadd_eq _ _
      have applied : r = _ := (apply_quiet h _ q).trans (applyAs_fadd s h k x c ret)
      rw [sum] at applied
      have mem : r.1.mem = (s.store k 4 z.1 (s.poisoned k || x.p)).mem := by
        rw [applied]
        cases ret <;> rfl
      refine ⟨?_, fun j out => ?_, fun asked => ?_, fun unasked => ?_⟩
      · rw [State.rd, mem]
        exact rd_store s k 4 z.1 _
      · rw [mem]
        exact readByte_store_off s k 4 _ _ out
      · subst asked
        rw [applied]
        rfl
      · subst unasked
        rw [applied]
        obtain ⟨-, -, tiles, -⟩ := store_facts s k 4 z.1 (s.poisoned k || x.p)
        refine ⟨rfl, ?_⟩
        show (((s.store k 4 z.1 (s.poisoned k || x.p)).modTile h fun t => { t with raflags := t.raflags ||| z.2 }).tileAt h).raflags = _
        rw [tileAt_modTile, tiles, if_pos ⟨rfl, inside⟩, State.tileAt, tiles]
        rfl

/-! ## Fences -/

theorem inScope_iff (c : BitVec 2) (t h : Nat) :
    inScope c.toNat t h = true ↔ c = 0 ∧ h = t ∨ c = 1 ∧ dieOf h = dieOf t ∨ 2 ≤ c.toNat := by
  have zero : c.toNat = 0 ↔ c = 0 := by rw [BitVec.toNat_eq]; rfl
  have one : c.toNat = 1 ↔ c = 1 := by rw [BitVec.toNat_eq]; rfl
  unfold inScope
  split
  next is0 =>
    have := zero.mp is0
    subst this
    simp
  next not0 =>
    split
    next is1 =>
      have := one.mp is1
      subst this
      simp
    next not1 =>
      have above : 2 ≤ c.toNat := by omega
      simp [above]

/-- Settles O18. -/
theorem fenceWords : Obligations.FenceWords := by
  intro f g s
  refine ⟨completes_of_run (exec_fence f s) fun o => ?_, completes_of_run (exec_xfence g s) fun o => rfl⟩
  have held (r : MeshReq) : (r.tile == o.iss.tile && r.slot == o.iss.slot && r.res.isNone && bit f.m.toNat r.cls.toNat &&
      r.homes.any (inScope f.s.toNat o.iss.tile)) = true ↔
      (r.tile = o.iss.tile ∧ r.slot = o.iss.slot ∧ r.res = none) ∧ f.m.getLsbD r.cls.toNat = true ∧
        ∃ h ∈ r.homes, f.s = 0 ∧ h = o.iss.tile ∨ f.s = 1 ∧ dieOf h = dieOf o.iss.tile ∨ 2 ≤ f.s.toNat := by
    rw [Bool.and_eq_true, Bool.and_eq_true, Bool.and_eq_true, Bool.and_eq_true, beq_iff_eq, beq_iff_eq, Option.isNone_iff_eq_none,
      bit_toNat, List.any_eq_true]
    simp only [inScope_iff, and_assoc]
  simp only [fence, held]

end Sys2Proof.Machine
end

section
/-! SUPPORT. The V class (R122 to R141): how a word of each shared form puts its elements under the lane mask, and the value that
each row of the tables gives an element. -/

namespace Sys2Proof.Machine

/-! ## Widths -/

theorem ew_cases (e : BitVec 2) : ew e = 1 ∨ ew e = 2 ∨ ew e = 4 ∨ ew e = 8 := by
  revert e
  decide

theorem lanes_fit (e : BitVec 2) : 256 / ew e * ew e = 256 := by
  rcases ew_cases e with h | h | h | h <;> rw [h]

theorem fpLanes_fit (e : BitVec 2) : 256 / fpWidth e * fpWidth e = 256 := by
  unfold fpWidth
  split <;> rfl

theorem elem_lt (x w j : Nat) : elem x w j < 2 ^ (8 * w) := Nat.mod_lt _ (Nat.two_pow_pos _)

/-! ## A vector result -/

section
variable {i : Instr} {eff : State → WordRes} {s : State} {d : BitVec 5} {wr : Bool} {step w n : Nat} {l : List El}
  {op : Nat → Nat} {mark : Nat → Bool} (run : exec i s = runWord i eff s) (turn : s.turn i = true)
include run turn

theorem lanes_of_putEls (ok : eff s.openBundle = putEls i d wr step w l s.openBundle) (len : l.length = n) (fits : n * w ≤ 256)
    (lanes : ∀ j < n, (l.getD j { v := 0 }).v % 2 ^ (8 * w) = op j % 2 ^ (8 * w) ∧ (l.getD j { v := 0 }).p = mark j) :
    ∃ r, exec i s = .next (s.openBundle.finish i (s.openBundle.resV i d wr r)) ∧
      LanesAre s.openBundle.mask step w n (s.openBundle.oldV d wr) r op mark :=
  ⟨_, run.trans (runWord_ok turn ok), lanesAre_of len fits lanes⟩

end

section
variable {i : Instr} {s : State}

theorem lanes_int2 {f : FVr} {op : Nat → Nat → Nat → Nat} {row : Nat → Nat → Nat} (run : exec i s = runWord i (int2 i f op) s)
    (value : ∀ a < 2 ^ (8 * ew f.e), ∀ b < 2 ^ (8 * ew f.e), op (8 * ew f.e) a b % 2 ^ (8 * ew f.e) = row a b % 2 ^ (8 * ew f.e))
    (turn : s.turn i = true) :
    ∃ r, exec i s = .next (s.openBundle.finish i (s.openBundle.resV i f.d f.w r)) ∧
      LanesAre s.openBundle.mask (ew f.e) (ew f.e) (256 / ew f.e) (s.openBundle.oldV f.d f.w) r
        (fun j => row (elem (s.openBundle.srcV i 0).v.toNat (ew f.e) j) (elem (s.openBundle.srcV i 1).v.toNat (ew f.e) j))
        (fun j => chunkP (s.openBundle.srcV i 0) (j * ew f.e) || chunkP (s.openBundle.srcV i 1) (j * ew f.e)) := by
  refine lanes_of_putEls run turn rfl (length_lanes2 ..) (lanes_fit f.e).le fun j hj => ?_
  rw [lanes2_getD _ _ _ _ _ hj]
  exact ⟨value _ (elem_lt ..) _ (elem_lt ..), rfl⟩

theorem lanes_int3 {f : FVr} {op : Nat → Nat → Nat → Nat → Nat} {row : Nat → Nat → Nat → Nat}
    (run : exec i s = runWord i (int3 i f op) s)
    (value : ∀ a b c, op (8 * ew f.e) a b c % 2 ^ (8 * ew f.e) = row a b c % 2 ^ (8 * ew f.e)) (turn : s.turn i = true) :
    ∃ r, exec i s = .next (s.openBundle.finish i (s.openBundle.resV i f.d f.w r)) ∧
      LanesAre s.openBundle.mask (ew f.e) (ew f.e) (256 / ew f.e) (s.openBundle.oldV f.d f.w) r
        (fun j => row (elem (s.openBundle.srcV i 0).v.toNat (ew f.e) j) (elem (s.openBundle.srcV i 1).v.toNat (ew f.e) j)
          (elem (s.openBundle.srcV i 2).v.toNat (ew f.e) j))
        (fun j => chunkP (s.openBundle.srcV i 0) (j * ew f.e) || chunkP (s.openBundle.srcV i 1) (j * ew f.e) ||
          chunkP (s.openBundle.srcV i 2) (j * ew f.e)) := by
  refine lanes_of_putEls run turn rfl (length_lanes3 ..) (lanes_fit f.e).le fun j hj => ?_
  rw [lanes3_getD _ _ _ _ _ hj]
  exact ⟨value _ _ _, rfl⟩

/-- A word of one source whose elements have the width that `e` gives. -/
theorem lanes_one {eff : State → WordRes} {d : BitVec 5} {wr : Bool} {e : BitVec 2} {op : State → Nat → Nat} {row : Nat → Nat}
    (run : exec i s = runWord i eff s) (meaning : ∀ o, eff o = putEls i d wr (ew e) (ew e) (lanes1 o i (ew e) (op o)) o)
    (value : ∀ a < 2 ^ (8 * ew e), op s.openBundle a % 2 ^ (8 * ew e) = row a % 2 ^ (8 * ew e)) (turn : s.turn i = true) :
    ∃ r, exec i s = .next (s.openBundle.finish i (s.openBundle.resV i d wr r)) ∧
      LanesAre s.openBundle.mask (ew e) (ew e) (256 / ew e) (s.openBundle.oldV d wr) r
        (fun j => row (elem (s.openBundle.srcV i 0).v.toNat (ew e) j)) (fun j => chunkP (s.openBundle.srcV i 0) (j * ew e)) := by
  refine lanes_of_putEls run turn (meaning _) (length_lanes1 ..) (lanes_fit e).le fun j hj => ?_
  rw [lanes1_getD _ _ _ _ _ hj]
  exact ⟨value _ (elem_lt ..), rfl⟩

end

/-! ## Values of the integer rows (R128 to R131) -/

theorem narrow_mod (x : Int) (n : Nat) : narrow x n % 2 ^ n = (x % 2 ^ n).toNat % 2 ^ n := by rw [narrow_eq]

theorem subN_eq (n a b : Nat) : subN n a b = (((a : Int) - b) % 2 ^ n).toNat := by
  have low : b % 2 ^ n < 2 ^ n := Nat.mod_lt _ (Nat.two_pow_pos n)
  have up : ((subN n a b : Nat) : Int) = ((a : Int) - b) % 2 ^ n := by
    unfold subN
    rw [Int.natCast_emod, Nat.cast_sub (by omega), Nat.cast_add, Int.natCast_emod]
    push_cast
    rw [show (a : Int) + 2 ^ n - b % 2 ^ n = (a - b % 2 ^ n) + 2 ^ n by ring, Int.add_emod_right, Int.sub_emod, Int.emod_emod_of_dvd _ dvd_rfl,
      ← Int.sub_emod]
  rw [← up, Int.toNat_natCast]

theorem sraN_eq (n a k : Nat) : sraN n a k = (signed a n / 2 ^ k % 2 ^ n).toNat := by
  rw [sraN, narrow_eq]
  push_cast
  rfl

/-- Saturation (R128). -/
theorem satN_eq (n : Nat) (x : Int) : satN n x =
    ((if x < -2 ^ (n - 1) then (-2 ^ (n - 1) : Int) else if 2 ^ (n - 1) - 1 < x then 2 ^ (n - 1) - 1 else x) % 2 ^ n).toNat := by
  rw [satN, narrow_eq]
  push_cast
  rfl

theorem mulh_eq (n a b : Nat) : narrow (signed a n * signed b n / (2 ^ n : Nat)) n = (signed a n * signed b n / 2 ^ n % 2 ^ n).toNat := by
  rw [narrow_eq]
  push_cast
  rfl

/-- Settles O19. -/
theorem vectorIntegerWords : Obligations.VectorIntegerWords := by
  intro f s o w n C sat low
  have row {i : Instr} {op : Nat → Nat → Nat → Nat} {r : Nat → Nat → Nat} (run : exec i s = runWord i (int2 i f op) s)
      (value : ∀ a b, op n a b % 2 ^ n = r a b % 2 ^ n) : C i r := lanes_int2 run fun a _ b _ => value a b
  clear_value C
  refine ⟨row (exec_vadd f s) fun a b => Nat.mod_mod _ _, row (exec_vsub f s) fun a b => ?_, row (exec_vmul f s) fun a b => Nat.mod_mod _ _,
    row (exec_vmulh f s) fun a b => ?_, row (exec_vmulhu f s) fun a b => rfl, row (exec_vand f s) fun a b => rfl,
    row (exec_vor f s) fun a b => rfl, row (exec_vxor f s) fun a b => rfl, row (exec_vshl f s) fun a b => Nat.mod_mod _ _,
    row (exec_vshr f s) fun a b => rfl, row (exec_vsra f s) fun a b => ?_, row (exec_vmin f s) fun a b => ?_,
    row (exec_vmax f s) fun a b => ?_, row (exec_vminu f s) fun a b => rfl, row (exec_vmaxu f s) fun a b => rfl,
    row (exec_vadds f s) fun a b => ?_, row (exec_vsubs f s) fun a b => ?_⟩
  · exact congrArg (· % 2 ^ n) (subN_eq n a b)
  · exact congrArg (· % 2 ^ n) (mulh_eq n a b)
  · exact congrArg (· % 2 ^ n) (sraN_eq n a (b % n))
  · simp only [sltN, decide_eq_true_eq]
  · simp only [sltN, decide_eq_true_eq]
  · exact congrArg (· % 2 ^ n) (satN_eq n _)
  · exact congrArg (· % 2 ^ n) (satN_eq n _)

end Sys2Proof.Machine
end

section
/-! SUPPORT. V words that accumulate, widen, take one source or an immediate, move elements, and reduce (R127 to R131, R134, R135). -/

namespace Sys2Proof.Machine

/-! ## Accumulating and widening words -/

theorem dot4_eq (n a b c : Nat) :
    let part := fun (x t : Nat) => signed (x / 2 ^ (n / 4 * t) % 2 ^ (n / 4)) (n / 4)
    dot4 n a b c = (((c : Int) + part a 0 * part b 0 + part a 1 * part b 1 + part a 2 * part b 2 + part a 3 * part b 3) % 2 ^ n).toNat := by
  intro part
  exact narrow_eq _ n

theorem getD_take_lt {α : Type} (l : List α) (d : α) {j h : Nat} (lt : j < h) : (l.take h).getD j d = l.getD j d := by
  rw [List.getD_eq_getElem?_getD, List.getElem?_take_of_lt lt, ← List.getD_eq_getElem?_getD]

theorem getD_drop {α : Type} (l : List α) (d : α) (j h : Nat) : (l.drop h).getD j d = l.getD (h + j) d := by
  rw [List.getD_eq_getElem?_getD, List.getElem?_drop, ← List.getD_eq_getElem?_getD]

/-- A word that widens puts the low half of its results in vd and the high half in vd + 1 (R127, R130). -/
theorem lanes_widen {i : Instr} {f : FVr} {op : Int → Int → Int} {s : State} (run : exec i s = runWord i (widen i f op) s)
    (turn : s.turn i = true) :
    let o := s.openBundle
    let w := 2 ^ f.e.toNat
    let n := 8 * w
    let h := 256 / w / 2
    let x := fun k j => elem (o.srcV i k).v.toNat w j
    let p := fun k j => chunkP (o.srcV i k) (j * w)
    let v := fun j => (op (signed (x 0 j) n) (signed (x 1 j) n) % 2 ^ (2 * n)).toNat
    ∃ lo hi, exec i s = .next (o.finish i ((o.resV i f.d f.w lo).resV i (f.d + 1) f.w hi)) ∧
      LanesAre o.mask w (2 * w) h (o.oldV f.d f.w) lo v (fun j => p 0 j || p 1 j) ∧
      LanesAre (o.mask >>> 128) w (2 * w) h (o.oldV (f.d + 1) f.w) hi (fun j => v (h + j)) (fun j => p 0 (h + j) || p 1 (h + j)) := by
  intro o w n h x p v
  have halves : h + h = 256 / w ∧ h * (2 * w) = 256 := by
    rcases ew_cases f.e with e | e | e | e <;> simp only [h, show w = _ from e] <;> decide
  obtain ⟨pairs, fits⟩ := halves
  have lane (j : Nat) (hj : j < 256 / w) :
      ((lanes2 o i w fun a b => narrow (op (signed a n) (signed b n)) (2 * n)).getD j { v := 0 }).v % 2 ^ (8 * (2 * w)) =
        v j % 2 ^ (8 * (2 * w)) ∧
      ((lanes2 o i w fun a b => narrow (op (signed a n) (signed b n)) (2 * n)).getD j { v := 0 }).p = (p 0 j || p 1 j) := by
    rw [lanes2_getD _ _ _ _ _ hj]
    exact ⟨congrArg (· % 2 ^ (8 * (2 * w))) (narrow_eq _ (2 * n)), rfl⟩
  have low : h ≤ 256 / w := Nat.div_le_self _ _
  have high : 256 / w - h = h := Nat.sub_eq_of_eq_add pairs.symm
  refine ⟨_, _, run.trans (runWord_ok turn rfl), lanesAre_of ?_ fits.le fun j hj => ?_, lanesAre_of ?_ fits.le fun j hj => ?_⟩
  · rw [List.length_take, length_lanes2]
    exact Nat.min_eq_left low
  · rw [getD_take_lt (h := 256 / ew f.e / 2) _ _ hj]
    exact lane j (Nat.lt_of_lt_of_le hj low)
  · rw [List.length_drop, length_lanes2]
    exact high
  · rw [getD_drop]
    exact lane (h + j) (Nat.lt_of_lt_of_eq (Nat.add_lt_add_left hj h) pairs)

/-- Settles O20. -/
theorem vectorAccumulatingWords : Obligations.VectorAccumulatingWords := by
  refine ⟨fun f s => ?_, fun f s _ => ?_⟩
  · intro o w n C part
    have row {i : Instr} {op : Nat → Nat → Nat → Nat → Nat} {r : Nat → Nat → Nat → Nat} (run : exec i s = runWord i (int3 i f op) s)
        (value : ∀ a b c, op n a b c % 2 ^ n = r a b c % 2 ^ n) : C i r := lanes_int3 run value
    clear_value C
    exact ⟨row (exec_vmac f s) fun a b c => Nat.mod_mod _ _, row (exec_vdot4 f s) fun a b c => congrArg (· % 2 ^ n) (dot4_eq n a b c)⟩
  · exact ⟨lanes_widen (exec_vmulw f s), lanes_widen (exec_vaddw f s)⟩

/-! ## One source, an immediate, a scalar -/

theorem natAbs_low (n : Nat) (x : Int) : narrow (x.natAbs : Int) n % 2 ^ n = x.natAbs % 2 ^ n := by
  rw [narrow]
  norm_cast
  exact Nat.mod_mod _ _

theorem neg_low {n a : Nat} (h : a < 2 ^ n) : subN n 0 a % 2 ^ n = (2 ^ n - a) % 2 ^ n := by
  rw [subN, Nat.mod_mod, Nat.mod_eq_of_lt h, Nat.zero_add]

/-- Elements that all hold one scalar. -/
theorem getD_replicate {α : Type} (n j : Nat) (a d : α) (h : j < n) : (List.replicate n a).getD j d = a := by
  rw [getD_at _ _ (by simpa using h), List.getElem_replicate]

/-- Settles O21. -/
theorem vectorOneSourceWords : Obligations.VectorOneSourceWords := by
  intro f g s o R w v
  have one {i : Instr} {op : Nat → Nat → Nat} {r : Nat → Nat} (run : exec i s = runWord i (int1 i f op) s)
      (value : ∀ a < 2 ^ (8 * w), op (8 * w) a % 2 ^ (8 * w) = r a % 2 ^ (8 * w)) : R i f.d f.w w r :=
    lanes_one (op := fun _ => op (8 * w)) run (fun o => rfl) value
  have imm {i : Instr} {op : State → Nat → Nat → Nat} {r : Nat → Nat} (run : exec i s = runWord i (fun o => intI i g (op o) o) s)
      (value : ∀ a, op o (8 * v) a % 2 ^ (8 * v) = r a % 2 ^ (8 * v)) : R i g.d g.w v r :=
    lanes_one (op := fun o => op o (8 * v)) run (fun o => rfl) fun a _ => value a
  clear_value R
  refine ⟨one (exec_vabs f s) fun a _ => natAbs_low _ _, one (exec_vneg f s) fun a h => neg_low h, one (exec_vmov f s) fun a _ => rfl,
    imm (op := fun o n a => a * 2 ^ o.immU (.vshli g) % 2 ^ n) (exec_vshli g s) fun a => Nat.mod_mod _ _,
    imm (op := fun o n a => a / 2 ^ o.immU (.vshri g)) (exec_vshri g s) fun a => rfl,
    imm (op := fun o n a => sraN n a (o.immU (.vsrai g))) (exec_vsrai g s) fun a => congrArg (· % 2 ^ (8 * v)) (sraN_eq _ a _),
    imm (op := fun o n a => narrow ((a : Int) + o.immS (.vaddi g)) n) (exec_vaddi g s) fun a => congrArg (· % 2 ^ (8 * v)) (narrow_eq _ _),
    fun turn => ?_⟩
  intro a
  refine lanes_of_putEls (exec_vbcast f s) turn rfl List.length_replicate (lanes_fit f.e).le fun j hj => ?_
  rw [getD_replicate (256 / ew f.e) j _ _ hj]
  exact ⟨Nat.mod_mod _ _, rfl⟩

/-! ## Moves -/

/-- An element of a source, as far as the source reaches. -/
theorem elsOf_getD_ge (x : VVal) {w j : Nat} (h : 256 / w ≤ j) : (elsOf x w).getD j { v := 0 } = { v := 0 } := by
  rw [List.getD_eq_getElem?_getD, List.getElem?_eq_none (by rw [length_elsOf]; exact h)]
  rfl

theorem getD_rangeMap {α : Type} (f : Nat → α) (d : α) {n j : Nat} (h : j < n) : ((List.range n).map f).getD j d = f j := by
  rw [getD_at _ _ (by simpa using h), List.getElem_map, List.getElem_range]

/-- A slide takes each element from where `sel` says (R134). -/
theorem lanes_slide {i : Instr} {f : FVr} {sel : Nat → Nat → Option Nat} {s : State} {op : Nat → Nat} {mark : Nat → Bool}
    (run : exec i s = runWord i (slide i f sel) s)
    (given : ∀ j < 256 / ew f.e, ∀ k, sel (s.openBundle.srcS i 1).v.toNat j = some k →
      op j = ((elsOf (s.openBundle.srcV i 0) (ew f.e)).getD k { v := 0 }).v ∧
      mark j = (((elsOf (s.openBundle.srcV i 0) (ew f.e)).getD k { v := 0 }).p || (s.openBundle.srcS i 1).p))
    (empty : ∀ j < 256 / ew f.e, sel (s.openBundle.srcS i 1).v.toNat j = none → op j = 0 ∧ mark j = (s.openBundle.srcS i 1).p)
    (turn : s.turn i = true) :
    ∃ r, exec i s = .next (s.openBundle.finish i (s.openBundle.resV i f.d f.w r)) ∧
      LanesAre s.openBundle.mask (ew f.e) (ew f.e) (256 / ew f.e) (s.openBundle.oldV f.d f.w) r op mark := by
  refine lanes_of_putEls run turn rfl (by simp) (lanes_fit f.e).le fun j hj => ?_
  rw [getD_rangeMap _ _ hj]
  cases from' : sel (s.openBundle.srcS i 1).v.toNat j with
  | none =>
    obtain ⟨value, marked⟩ := empty j hj from'
    rw [value, marked]
    exact ⟨rfl, rfl⟩
  | some k =>
    obtain ⟨value, marked⟩ := given j hj k from'
    rw [value, marked]
    exact ⟨rfl, rfl⟩

theorem lanes_vperm (f : FVr) (s : State) (turn : s.turn (.vperm f) = true) :
    let o := s.openBundle
    let x := fun j => elem (o.srcV (.vperm f) 1).v.toNat (ew f.e) j % (256 / ew f.e)
    ∃ r, exec (.vperm f) s = .next (o.finish (.vperm f) (o.resV (.vperm f) f.d f.w r)) ∧
      LanesAre o.mask (ew f.e) (ew f.e) (256 / ew f.e) (o.oldV f.d f.w) r (fun j => elem (o.srcV (.vperm f) 0).v.toNat (ew f.e) (x j))
        (fun j => chunkP (o.srcV (.vperm f) 0) (x j * ew f.e) || chunkP (o.srcV (.vperm f) 1) (j * ew f.e)) := by
  intro o x
  refine lanes_of_putEls (exec_vperm f s) turn rfl (by simp [length_elsOf]) (lanes_fit f.e).le fun j hj => ?_
  have inside : x j < 256 / ew f.e := Nat.mod_lt _ (Nat.zero_lt_of_lt hj)
  rw [getD_map _ _ _ { v := 0 } _ (by rw [length_elsOf]; exact hj), elsOf_getD _ _ _ hj]
  have source := elsOf_getD (o.srcV (.vperm f) 0) (ew f.e) (x j) inside
  dsimp only [srcEls]
  rw [source]
  exact ⟨rfl, rfl⟩

/-- Settles O23. -/
theorem vectorMoveWords : Obligations.VectorMoveWords := by
  intro f s o w n a pa cnt R
  have some : 0 < n := Nat.pos_of_ne_zero fun zero => by
    have fit : n * w = 256 := lanes_fit f.e
    rw [zero, Nat.zero_mul] at fit
    cases fit
  refine ⟨lanes_slide (exec_vslup f s) (fun j hj k from' => ?_) fun j hj from' => ?_,
    lanes_slide (exec_vsldn f s) (fun j hj k from' => ?_) fun j hj from' => ?_, lanes_vperm f s,
    completes_of_run (exec_vtos f s) fun o => ?_, fun turn => ⟨_, (exec_vins f s).trans (runWord_ok turn rfl), ?_⟩⟩
  · split_ifs at from' with reach
    have reach' : cnt (.vslup f) ≤ j := reach
    cases from'
    rw [elsOf_getD _ _ _ (Nat.lt_of_le_of_lt (Nat.sub_le ..) hj)]
    simp only [reach', if_true, decide_true, Bool.true_and]
    exact ⟨rfl, Bool.or_comm _ _⟩
  · split_ifs at from' with reach
    have reach' : ¬ cnt (.vslup f) ≤ j := reach
    simp only [reach', if_false, decide_false, Bool.false_and, Bool.or_false]
    exact ⟨trivial, rfl⟩
  · cases from'
    by_cases reach : j + cnt (.vsldn f) < n
    · have source : (elsOf (s.openBundle.srcV (.vsldn f) 0) (ew f.e)).getD (j + (s.openBundle.srcS (.vsldn f) 1).v.toNat) { v := 0 } = _ :=
        elsOf_getD _ _ _ reach
      rw [source]
      simp only [reach, if_true, decide_true, Bool.true_and]
      exact ⟨rfl, Bool.or_comm _ _⟩
    · have beyond : (elsOf (s.openBundle.srcV (.vsldn f) 0) (ew f.e)).getD (j + (s.openBundle.srcS (.vsldn f) 1).v.toNat) { v := 0 } = _ :=
        elsOf_getD_ge _ (Nat.le_of_not_lt reach)
      rw [beyond]
      simp only [reach, if_false, decide_false, Bool.false_and, Bool.or_false, Bool.false_or]
      exact ⟨trivial, rfl⟩
  · cases from'
  · have index : (o.srcS (.vtos f) 1).v.toNat % n < n := Nat.mod_lt _ some
    have source : (elsOf (o.srcV (.vtos f) 0) (ew f.e)).getD ((o.srcS (.vtos f) 1).v.toNat % (256 / ew f.e)) { v := 0 } = _ :=
      elsOf_getD _ _ _ index
    dsimp only [vtos, srcEls]
    rw [source]
    rfl
  · refine lanesAre_of List.length_replicate (lanes_fit f.e).le fun j hj => ?_
    rw [getD_replicate (256 / ew f.e) j _ _ hj]
    exact ⟨Nat.mod_mod _ _, rfl⟩

end Sys2Proof.Machine
end

section
/-! SUPPORT. Reductions, floating-point words with their flags, packing and residue words (R135 to R137, R139 to R141). -/

namespace Sys2Proof.Machine

/-! ## The pairwise tree (R135) -/

section
variable {α : Type} (op : α → α → α)

theorem length_level : ∀ l : List α, (level op l).length = (l.length + 1) / 2
  | [] => by simp [level]
  | [_] => by simp [level]
  | a :: b :: r => by
    rw [level, List.length_cons, length_level r, List.length_cons, List.length_cons]
    omega

theorem length_tree (k : Nat) : ∀ l : List α, 0 < l.length → l.length ≤ 2 ^ k → (tree op k l).length = 1 := by
  induction k with
  | zero => intro l some short; exact Nat.le_antisymm short some
  | succ k ih =>
    intro l some short
    have half := length_level op l
    exact ih (level op l) (by omega) (by rw [Nat.pow_succ] at short; omega)

/-- What the levels of the tree keep, its only element has. -/
theorem tree_induction {q : List α → Prop} (keeps : ∀ l, q l → q (level op l)) (k : Nat) : ∀ l, q l → q (tree op k l) := by
  induction k with
  | zero => exact fun l h => h
  | succ k ih => exact fun l h => ih (level op l) (keeps l h)

theorem tree_eq_singleton {k : Nat} {l : List α} (some : 0 < l.length) (short : l.length ≤ 2 ^ k) (d : α) :
    tree op k l = [(tree op k l).headD d] := by
  obtain ⟨a, only⟩ := List.length_eq_one_iff.mp (length_tree op k l some short)
  rw [only]
  rfl

end

theorem sum_level : ∀ l : List Int, (level (· + ·) l).sum = l.sum
  | [] => rfl
  | [_] => rfl
  | a :: b :: r => by simp only [level, List.sum_cons, sum_level r, Int.add_assoc]

/-- A choice between two elements makes a level of elements of the list, each bounded by one of the level. -/
theorem level_choice {le : Int → Int → Prop} {op : Int → Int → Int} (trans : ∀ a b c, le a b → le b c → le a c)
    (choice : ∀ a b, (op a b = a ∨ op a b = b) ∧ le a (op a b) ∧ le b (op a b)) (refl : ∀ a, le a a) :
    ∀ l : List Int, (∀ x ∈ level op l, x ∈ l) ∧ ∀ y ∈ l, ∃ x ∈ level op l, le y x
  | [] => ⟨fun _ h => h, fun _ h => by cases h⟩
  | [a] => ⟨fun _ h => h, fun y h => ⟨y, h, refl y⟩⟩
  | a :: b :: r => by
    obtain ⟨within, bound⟩ := level_choice trans choice refl r
    obtain ⟨one, left, right⟩ := choice a b
    refine ⟨fun x hx => ?_, fun y hy => ?_⟩
    · rcases List.mem_cons.mp hx with rfl | hx
      · rcases one with h | h <;> simp [h]
      · exact List.mem_cons_of_mem _ (List.mem_cons_of_mem _ (within x hx))
    · rcases List.mem_cons.mp hy with rfl | hy
      · exact ⟨_, List.mem_cons_self .., left⟩
      · rcases List.mem_cons.mp hy with rfl | hy
        · exact ⟨_, List.mem_cons_self .., right⟩
        · obtain ⟨x, hx, le⟩ := bound y hy
          exact ⟨x, List.mem_cons_of_mem _ hx, le⟩

/-- The tree of a choice ends in an element of the list that bounds all of them. -/
theorem tree_choice {le : Int → Int → Prop} {op : Int → Int → Int} (trans : ∀ a b c, le a b → le b c → le a c)
    (choice : ∀ a b, (op a b = a ∨ op a b = b) ∧ le a (op a b) ∧ le b (op a b)) (refl : ∀ a, le a a) {k : Nat} {l : List Int}
    (some : 0 < l.length) (short : l.length ≤ 2 ^ k) :
    (tree op k l).headD 0 ∈ l ∧ ∀ y ∈ l, le y ((tree op k l).headD 0) := by
  have kept := tree_induction op (q := fun m => (∀ x ∈ m, x ∈ l) ∧ ∀ y ∈ l, ∃ x ∈ m, le y x)
    (fun m h => by
      obtain ⟨within, bound⟩ := level_choice trans choice refl m
      refine ⟨fun x hx => h.1 x (within x hx), fun y hy => ?_⟩
      obtain ⟨z, hz, below⟩ := h.2 y hy
      obtain ⟨x, hx, above⟩ := bound z hz
      exact ⟨x, hx, trans _ _ _ below above⟩) k l ⟨fun _ h => h, fun y h => ⟨y, h, refl y⟩⟩
  rw [tree_eq_singleton op some short 0] at kept
  refine ⟨kept.1 _ (List.mem_singleton.mpr rfl), fun y hy => ?_⟩
  obtain ⟨x, hx, below⟩ := kept.2 y hy
  rwa [List.mem_singleton.mp hx] at below

/-! ## Reductions -/

/-- The elements of a source, as a list of functions of their places. -/
theorem map_elsOf {β : Type} (x : VVal) (w : Nat) (g : El → β) :
    (elsOf x w).map g = (List.range (256 / w)).map fun j => g { v := elem x.v.toNat w j, p := chunkP x (j * w) } := by
  refine List.ext_getElem (by simp [length_elsOf]) fun j h h' => ?_
  rw [List.getElem_map, List.getElem_map, getElem_elsOf, List.getElem_range]

theorem exec_redI {i : Instr} {f : FV1} {op : Int → Int → Int} {s : State} {q : Int → Prop} (run : exec i s = runWord i (redI i f op) s)
    (value : q ((tree op 8 ((List.range (256 / ew f.e)).map fun j =>
      signed (elem (s.openBundle.srcV i 0).v.toNat (ew f.e) j) (8 * ew f.e))).headD 0)) (turn : s.turn i = true) :
    ∃ x, q x ∧ exec i s = .next (s.openBundle.finish i (s.openBundle.resS i f.d f.w
      { v := BitVec.ofInt 64 x, p := (s.openBundle.srcV i 0).p != 0 })) := by
  refine ⟨_, value, run.trans (runWord_ok turn ?_)⟩
  dsimp only [redI]
  rw [map_elsOf]
  rfl

/-- The number of elements that a reduction of an integer width takes. -/
theorem redI_bounds (e : BitVec 2) : 0 < 256 / ew e ∧ 256 / ew e ≤ 2 ^ 8 := by
  rcases ew_cases e with h | h | h | h <;> rw [h] <;> decide

/-- Settles O24: the tree keeps the sum of its elements, and of a choice one that bounds them all. -/
theorem vectorReductions : Obligations.VectorReductions := by
  refine ⟨fun f s => ?_, fun f s => ?_⟩
  · intro o w l R
    have some (i : Instr) : 0 < (l i).length := by
      simp only [l, List.length_map, List.length_range]
      exact (redI_bounds f.e).1
    have short (i : Instr) : (l i).length ≤ 2 ^ 8 := by
      simp only [l, List.length_map, List.length_range]
      exact (redI_bounds f.e).2
    refine ⟨exec_redI (exec_vradd f s) ?_, exec_redI (exec_vrmax f s) ?_, exec_redI (exec_vrmin f s) ?_⟩
    · have kept := tree_induction (· + ·) (q := fun m => m.sum = (l (.vradd f)).sum) (fun m h => (sum_level m).trans h) 8 _ rfl
      rw [tree_eq_singleton _ (some _) (short _) 0] at kept
      exact (List.sum_singleton.symm.trans kept :)
    · refine tree_choice (le := fun a b => a ≤ b) (fun _ _ _ => Int.le_trans) (fun a b => ?_) Int.le_refl (some (.vrmax f)) (short _)
      split <;> omega
    · refine tree_choice (le := fun a b => b ≤ a) (fun _ _ _ h h' => Int.le_trans h' h) (fun a b => ?_) Int.le_refl (some (.vrmin f)) (short _)
      split <;> omega
  · intro C
    have row {i : Instr} {op : FpFmt → Nat → Nat → Nat → Nat × Flags} (run : exec i s = runWord i (redF i f op) s) : C i op :=
      completes_of_run run fun o => by
        dsimp only [redF]
        rw [map_elsOf]
        rfl
    clear_value C
    exact ⟨row (exec_vrfadd f s), row (exec_vrfmax f s)⟩

end Sys2Proof.Machine
end

section
/-! SUPPORT. Vector words that set flags: floating point, conversions and packing (R136, R137, R139, R140), and the residue words (R141). -/

namespace Sys2Proof.Machine

/-! ## Flags of active elements -/

theorem getLsbD_orAll (l : List Flags) (k : Nat) : (orAll l).getLsbD k = l.any fun x => x.getLsbD k := by
  have folded (l : List Flags) (a : Flags) : (l.foldl (· ||| ·) a).getLsbD k = (a.getLsbD k || l.any fun x => x.getLsbD k) := by
    induction l generalizing a with
    | nil => simp
    | cons x r ih => rw [List.foldl_cons, ih, BitVec.getLsbD_or, List.any_cons, Bool.or_assoc]
  have zero : (0 : Flags).getLsbD k = false := BitVec.getLsbD_zero
  rw [orAll, folded, zero, Bool.false_or]

theorem getLsbD_activeFlags (mask : Pred) (step : Nat) (l : List Flags) {k : Nat} :
    (activeFlags mask step l).getLsbD k = true ↔
      ∃ j < l.length, active mask step j = true ∧ (l.getD j 0).getLsbD k = true := by
  rw [activeFlags, getLsbD_orAll, List.any_map, List.any_eq_true]
  constructor
  · rintro ⟨⟨x, j⟩, at', set⟩
    obtain ⟨-, hj, place⟩ := List.mem_zipIdx at'
    simp only [Nat.zero_add, Nat.sub_zero] at hj place
    simp only [Function.comp, place] at set
    by_cases on : bit mask.toNat (j * step) = true
    · rw [if_pos on] at set
      exact ⟨j, hj, on, by rw [getD_at _ _ hj]; exact set⟩
    · rw [if_neg on] at set
      exact absurd set (by simp)
  · rintro ⟨j, hj, on, set⟩
    rw [getD_at _ _ hj] at set
    refine ⟨(l[j], j), List.mem_zipIdx_iff_getElem?.mpr (List.getElem?_eq_getElem hj), ?_⟩
    have on' : bit mask.toNat (j * step) = true := on
    simp only [Function.comp, on', if_true]
    exact set

/-! ## A vector result with flags -/

section
variable {i : Instr} {eff : State → WordRes} {s : State} {d : BitVec 5} {wr : Bool} {step w n : Nat} {l : List (El × Flags)}
  {op : Nat → Nat × Flags} {mark : Nat → Bool}

/-- A word that puts elements and ORs the flags of the active ones into FCSR (R136). -/
theorem lanes_of_putFlags (run : exec i s = runWord i eff s) (turn : s.turn i = true)
    (ok : eff s.openBundle = .ok ((s.openBundle.resV i d wr (mergeV s.openBundle.mask step w (s.openBundle.oldV d wr) (l.map (·.1)))).orFcsr
      (activeFlags s.openBundle.mask step (l.map (·.2)))))
    (len : l.length = n) (fits : n * w ≤ 256)
    (lanes : ∀ j < n, l.getD j ({ v := 0 }, 0) = ({ v := (op j).1, p := mark j }, (op j).2)) :
    ∃ r fl, exec i s = .next (s.openBundle.finish i ((s.openBundle.resV i d wr r).orFcsr fl)) ∧
      LanesAre s.openBundle.mask step w n (s.openBundle.oldV d wr) r (fun j => (op j).1) mark ∧
      ∀ k < 5, fl.getLsbD k = true ↔ ∃ j < n, active s.openBundle.mask step j = true ∧ (op j).2.getLsbD k = true := by
  subst len
  refine ⟨_, _, run.trans (runWord_ok turn ok), lanesAre_of (List.length_map _) fits fun j hj => ?_, fun k _ => ?_⟩
  · rw [getD_map _ _ _ ({ v := 0 }, 0) _ hj, lanes j hj]
    exact ⟨rfl, rfl⟩
  · rw [getLsbD_activeFlags, List.length_map]
    refine exists_congr fun j => and_congr_right fun hj => ?_
    rw [getD_map _ _ _ ({ v := 0 }, 0) _ hj, lanes j hj]

end

section
variable {i : Instr} {s : State}

theorem lanes_vfp2 {f : FVr} {op : FpFmt → Nat → Nat → Nat → Nat × Flags} (run : exec i s = runWord i (vfp2 i f op) s)
    (turn : s.turn i = true) :
    let o := s.openBundle
    let w := fpWidth f.e
    let row := fun j => op (fpOfEs f.e) o.iss.pre.rm (elem (o.srcV i 0).v.toNat w j) (elem (o.srcV i 1).v.toNat w j)
    ∃ r fl, exec i s = .next (o.finish i ((o.resV i f.d f.w r).orFcsr fl)) ∧
      LanesAre o.mask w w (256 / w) (o.oldV f.d f.w) r (fun j => (row j).1)
        (fun j => chunkP (o.srcV i 0) (j * w) || chunkP (o.srcV i 1) (j * w)) ∧
      ∀ k < 5, fl.getLsbD k = true ↔ ∃ j < 256 / w, active o.mask w j = true ∧ (row j).2.getLsbD k = true := by
  intro o w row
  refine lanes_of_putFlags run turn rfl (by simp [length_elsOf, w]) (fpLanes_fit f.e).le fun j hj => ?_
  have inside (k : Nat) : j < (elsOf (o.srcV i k) w).length := by rw [length_elsOf]; exact hj
  rw [getD_zipWith _ _ _ _ { v := 0 } { v := 0 } _ (inside 0) (inside 1), elsOf_getD _ _ _ hj, elsOf_getD _ _ _ hj]

theorem lanes_vfp1 {f : FV1} {op : FpFmt → Nat → Nat → Nat × Flags} (run : exec i s = runWord i (vfp1 i f op) s)
    (turn : s.turn i = true) :
    let o := s.openBundle
    let w := fpWidth f.e
    let row := fun j => op (fpOfEs f.e) o.iss.pre.rm (elem (o.srcV i 0).v.toNat w j)
    ∃ r fl, exec i s = .next (o.finish i ((o.resV i f.d f.w r).orFcsr fl)) ∧
      LanesAre o.mask w w (256 / w) (o.oldV f.d f.w) r (fun j => (row j).1) (fun j => chunkP (o.srcV i 0) (j * w)) ∧
      ∀ k < 5, fl.getLsbD k = true ↔ ∃ j < 256 / w, active o.mask w j = true ∧ (row j).2.getLsbD k = true := by
  intro o w row
  refine lanes_of_putFlags run turn rfl (by simp [length_elsOf, w]) (fpLanes_fit f.e).le fun j hj => ?_
  rw [getD_map _ _ _ { v := 0 } _ (by rw [length_elsOf]; exact hj), elsOf_getD _ _ _ hj]

theorem lanes_vfp3 {f : FVr} {neg : Bool} (run : exec i s = runWord i (vfp3 i f neg) s) (turn : s.turn i = true) :
    let o := s.openBundle
    let w := fpWidth f.e
    let q := fpOfEs f.e
    let x := fun k j => elem (o.srcV i k).v.toNat w j
    let p := fun k j => chunkP (o.srcV i k) (j * w)
    let row := fun j => fpFma q o.iss.pre.rm (q.decode (x 0 j)) (q.decode (x 1 j))
      (if neg then (q.decode (x 2 j)).negate else q.decode (x 2 j))
    ∃ r fl, exec i s = .next (o.finish i ((o.resV i f.d f.w r).orFcsr fl)) ∧
      LanesAre o.mask w w (256 / w) (o.oldV f.d f.w) r (fun j => (row j).1) (fun j => p 0 j || p 1 j || p 2 j) ∧
      ∀ k < 5, fl.getLsbD k = true ↔ ∃ j < 256 / w, active o.mask w j = true ∧ (row j).2.getLsbD k = true := by
  intro o w q x p row
  refine lanes_of_putFlags run turn rfl (by simp [length_elsOf, w]) (fpLanes_fit f.e).le fun j hj => ?_
  have inside (k : Nat) : j < (elsOf (o.srcV i k) w).length := by rw [length_elsOf]; exact hj
  have pair : ((elsOf (o.srcV i 0) w).zip (elsOf (o.srcV i 1) w)).getD j ({ v := 0 }, { v := 0 }) =
      ((elsOf (o.srcV i 0) w).getD j { v := 0 }, (elsOf (o.srcV i 1) w).getD j { v := 0 }) :=
    getD_zipWith _ _ _ _ _ _ _ (inside 0) (inside 1)
  rw [getD_zipWith _ _ _ _ ({ v := 0 }, { v := 0 }) { v := 0 } _ (by simpa [length_elsOf] using hj) (inside 2), pair,
    elsOf_getD _ _ _ hj, elsOf_getD _ _ _ hj, elsOf_getD _ _ _ hj]

end

/-! ## Floating-point words and conversions -/

/-- The bits of an element of a floating-point format (R123). -/
theorem fpBits_eq (e : BitVec 2) : 8 * fpWidth e = if fpOfEs e = fp32 then 32 else 16 := by
  revert e
  decide

theorem cvtfi_eq (g : FpFmt) (n rm a : Nat) : cvtfi g n rm a =
    (((fpToInt rm (-2 ^ (n - 1)) (2 ^ (n - 1) - 1) (g.decode a)).1 % 2 ^ n).toNat,
      (fpToInt rm (-2 ^ (n - 1)) (2 ^ (n - 1) - 1) (g.decode a)).2) := by
  rw [cvtfi, narrow_eq]
  push_cast
  rfl

/-- Settles O25. -/
theorem vectorFloatWords : Obligations.VectorFloatWords := by
  intro f g s o rm R x p B U T bitsOf
  have two {i : Instr} {op : FpFmt → Nat → Nat → Nat → Nat × Flags} (run : exec i s = runWord i (vfp2 i f op) s) :
      B i (fun q a b => op q rm a b) := lanes_vfp2 run
  have three {i : Instr} {neg : Bool} (run : exec i s = runWord i (vfp3 i f neg) s) : T i neg := lanes_vfp3 run
  have one {i : Instr} {op : FpFmt → Nat → Nat → Nat × Flags} {row : FpFmt → Nat → Nat × Flags} (run : exec i s = runWord i (vfp1 i g op) s)
      (value : ∀ a, op (fpOfEs g.e) rm a = row (fpOfEs g.e) a) : U i row := by
    have put : U i (fun q a => op q rm a) := lanes_vfp1 run
    have same : (fun j => op (fpOfEs g.e) rm (x i g.e 0 j)) = fun j => row (fpOfEs g.e) (x i g.e 0 j) := funext fun j => value _
    simp only [U, same] at put
    exact put
  clear_value B T U
  refine ⟨two (exec_vfadd f s), two (exec_vfsub f s), two (exec_vfmul f s), two (exec_vfdiv f s), two (exec_vfmin f s), two (exec_vfmax f s),
    three (exec_vfma f s), three (exec_vfms f s), one (exec_vfabs g s) fun a => rfl, one (exec_vfneg g s) fun a => rfl,
    one (exec_vfsqrt g s) fun a => rfl, one (exec_vfrsq g s) fun a => rfl, one (exec_vcvtif g s) fun a => ?_,
    one (exec_vcvtfi g s) fun a => ?_⟩
  · rw [fpBits_eq]
  · rw [fpBits_eq, cvtfi_eq]

/-! ## Packing and residue words -/

/-- A word that packs 64 lanes (R140). -/
theorem lanes_pack {i : Instr} {f : FV1} {fmt w : Nat} {s : State} (run : exec i s = runWord i (pack i f fmt w) s) (fits : 64 * w ≤ 256)
    (turn : s.turn i = true) :
    let o := s.openBundle
    let row := fun j => packLane fmt (o.iss.pre.recs.getD o.iss.pre.prsel.toNat 0) o.iss.pre.rm (elem (o.srcV i 0).v.toNat 4 j)
    ∃ r fl, exec i s = .next (o.finish i ((o.resV i f.d f.w r).orFcsr fl)) ∧
      LanesAre o.mask 4 w 64 (o.oldV f.d f.w) r (fun j => (row j).1) (fun j => chunkP (o.srcV i 0) (j * 4)) ∧
      ∀ k < 5, fl.getLsbD k = true ↔ ∃ j < 64, active o.mask 4 j = true ∧ (row j).2.getLsbD k = true := by
  intro o row
  refine lanes_of_putFlags run turn rfl (by simp [length_elsOf]) fits fun j hj => ?_
  rw [getD_map _ _ _ { v := 0 } _ (by rw [length_elsOf]; exact hj), elsOf_getD _ _ _ hj]

/-- A word that unpacks 64 elements (R140). -/
theorem lanes_unpack {i : Instr} {f : FV1} {fmt w : Nat} {s : State} (run : exec i s = runWord i (unpack i f fmt w) s)
    (reach : 64 ≤ 256 / w) (turn : s.turn i = true) :
    let o := s.openBundle
    ∃ r, exec i s = .next (o.finish i (o.resV i f.d f.w r)) ∧
      LanesAre o.mask 4 4 64 (o.oldV f.d f.w) r (fun j => (decodeElem fmt (elem (o.srcV i 0).v.toNat w j) 0).1)
        (fun j => chunkP (o.srcV i 0) (j * w)) := by
  intro o
  have len : ((elsOf (o.srcV i 0) w).take 64).length = 64 := by
    rw [List.length_take, length_elsOf, Nat.min_eq_left reach]
  refine lanes_of_putEls run turn rfl (by rw [List.length_map]; exact len) (by decide) fun j hj => ?_
  rw [getD_map _ _ _ { v := 0 } _ (by rw [len]; exact hj), getD_take_lt _ _ hj, elsOf_getD _ _ _ (hj.trans_le reach)]
  exact ⟨rfl, rfl⟩

/-- Settles O26. -/
theorem packAndResidueWords : Obligations.PackAndResidueWords := by
  intro f g h s o R P U x p
  refine ⟨lanes_pack (exec_vpack8 f s) (by decide), lanes_pack (exec_vpack16 f s) (by decide), lanes_unpack (exec_vunpk8 f s) (by decide),
    lanes_unpack (exec_vunpk16 f s) (by decide), fun turn => ?_, fun turn => ?_, fun turn => ?_, fun turn => ?_, fun turn => ?_⟩
  · refine lanes_of_putEls (exec_vrnse h s) turn rfl (length_lanes1 ..) (by decide) fun j hj => ?_
    rw [lanes1_getD _ _ _ _ _ hj]
    exact ⟨rfl, rfl⟩
  · refine lanes_of_putEls (exec_vrnsd h s) turn rfl (length_lanes1 ..) (by decide) fun j hj => ?_
    rw [lanes1_getD _ _ _ _ _ hj]
    exact ⟨congrArg (· % 2 ^ (8 * 4)) (narrow_eq _ 32), rfl⟩
  · refine lanes_of_putEls (exec_vrnsadd g s) turn rfl (length_lanes2 ..) (by decide) fun j hj => ?_
    rw [lanes2_getD _ _ _ _ _ hj]
    exact ⟨rfl, rfl⟩
  · refine lanes_of_putEls (exec_vrnsmul g s) turn rfl (length_lanes2 ..) (by decide) fun j hj => ?_
    rw [lanes2_getD _ _ _ _ _ hj]
    exact ⟨rfl, rfl⟩
  · refine lanes_of_putEls (exec_vrnsmac g s) turn rfl (length_lanes3 ..) (by decide) fun j hj => ?_
    rw [lanes3_getD _ _ _ _ _ hj]
    exact ⟨rfl, rfl⟩

end Sys2Proof.Machine
end

section
/-! SUPPORT. Compares and predicate words (R124, R125, R132, R133, R138). -/

namespace Sys2Proof.Machine

/-! ## Groups of a predicate -/

theorem testBit_ofGroups {w : Nat} (hw : 0 < w) (l : List Nat) (k : Nat) :
    (ofGroups w l).testBit k = (l.getD (k / w) 0).testBit (k % w) := by
  induction l generalizing k with
  | nil => simp [ofGroups]
  | cons e r ih =>
    have low : e % 2 ^ w < 2 ^ w := Nat.mod_lt _ (Nat.two_pow_pos w)
    rw [ofGroups, Nat.mul_comm, testBit_add_mul low]
    split
    next inside => rw [Nat.div_eq_of_lt inside, Nat.mod_eq_of_lt inside, Nat.testBit_mod_two_pow, decide_eq_true inside]; simp
    next beyond =>
      have next' : k / w = (k - w) / w + 1 := by
        rw [← Nat.add_div_right _ hw, Nat.sub_add_cancel (Nat.le_of_not_lt beyond)]
      have place : k % w = (k - w) % w := by
        rw [← Nat.add_mod_right (k - w) w, Nat.sub_add_cancel (Nat.le_of_not_lt beyond)]
      rw [ih, next', place, List.getD_cons_succ]

theorem testBit_ones {w k : Nat} (h : k < w) (b : Bool) : (if b = true then 2 ^ w - 1 else 0).testBit k = b := by
  cases b with
  | true => simp [Nat.testBit_two_pow_sub_one, h]
  | false => simp

/-- A bit of a compare's destination (R124). -/
theorem getLsbD_cmpGroups {mask old : Pred} {w : Nat} {l : List Bool} (hw : 0 < w) {k : Nat} (inside : k / w < l.length) (hk : k < 256) :
    (cmpGroups mask old w l).getLsbD k = if active mask w (k / w) = true then l.getD (k / w) false else old.getLsbD k := by
  have group : (l.zipIdx.map fun x => if bit mask.toNat (x.2 * w) then (if x.1 then 2 ^ w - 1 else 0) else bits old.toNat (x.2 * w) w).getD
      (k / w) 0 = if bit mask.toNat (k / w * w) then (if l.getD (k / w) false then 2 ^ w - 1 else 0) else bits old.toNat (k / w * w) w := by
    have inside' : k / w < l.zipIdx.length := by rwa [List.length_zipIdx]
    rw [getD_map _ _ _ (false, 0) _ inside', getD_at _ _ inside', getD_at _ _ inside, List.getElem_zipIdx, Nat.zero_add]
  rw [cmpGroups, BitVec.getLsbD_ofNat, decide_eq_true hk, Bool.true_and, testBit_ofGroups hw, group]
  by_cases on : bit mask.toNat (k / w * w) = true
  · have on' : active mask w (k / w) = true := on
    rw [if_pos on, if_pos on', testBit_ones (Nat.mod_lt _ hw)]
  · have off : ¬ active mask w (k / w) = true := on
    rw [if_neg on, if_neg off, testBit_bits, decide_eq_true (Nat.mod_lt _ hw), Bool.true_and, Nat.div_add_mod']
    rfl

/-! ## Compares -/

/-- A source that is a poisoned scalar in a latch (R40, R125). -/
theorem scalarPoison_iff (o : State) (i : Instr) (k : Nat) : scalarPoison o i k = true ↔
    ∃ (n : BitVec 6) (x : SVal), State.opd i k = .v n ∧ 0x20 ≤ n.toNat ∧ n.toNat < 0x28 ∧
      o.iss.pre.lat.getD (n.toNat - 0x20) .empty = .scalar x ∧ (o.srcV i k).p ≠ 0 := by
  unfold scalarPoison
  constructor
  · intro h
    split at h
    next n named =>
      by_cases inside : 0x20 ≤ n.toNat ∧ n.toNat ≤ 0x27
      · rw [latchNo, if_pos inside] at h
        dsimp only at h
        split at h
        next x held => exact ⟨n, x, named, inside.1, Nat.lt_succ_of_le inside.2, held, bne_iff_ne.mp h⟩
        next => cases h
      · rw [latchNo, if_neg inside] at h
        cases h
    next => cases h
  · rintro ⟨n, x, named, low, high, held, marked⟩
    have inside : 0x20 ≤ n.toNat ∧ n.toNat ≤ 0x27 := ⟨low, Nat.le_of_lt_succ high⟩
    rw [named]
    simp only [latchNo, inside, and_self, if_true, held, anyP, bne_iff_ne]
    exact marked

/-- The elements that a compare takes in pairs. -/
def compared (o : State) (i : Instr) (w : Nat) (op : Nat → Nat → Bool × Flags) : List (El × Bool × Flags) :=
  List.zipWith (fun a b => (({ v := 0, p := a.p || b.p } : El), op a.v b.v)) (elsOf (o.srcV i 0) w) (elsOf (o.srcV i 1) w)

section
variable (o : State) (i : Instr) (w : Nat) (op : Nat → Nat → Bool × Flags)

theorem length_compared : (compared o i w op).length = 256 / w := by simp [compared, length_elsOf]

theorem compared_getD {j : Nat} (hj : j < 256 / w) (d : El × Bool × Flags) : (compared o i w op).getD j d =
    ({ v := 0, p := chunkP (o.srcV i 0) (j * w) || chunkP (o.srcV i 1) (j * w) },
      op (elem (o.srcV i 0).v.toNat w j) (elem (o.srcV i 1).v.toNat w j)) := by
  have inside (k : Nat) : j < (elsOf (o.srcV i k) w).length := by rw [length_elsOf]; exact hj
  rw [compared, getD_zipWith _ _ _ _ { v := 0 } { v := 0 } _ (inside 0) (inside 1), elsOf_getD _ _ _ hj, elsOf_getD _ _ _ hj]

end

theorem anyActiveP_iff (mask : Pred) (w : Nat) (l : List El) :
    anyActiveP mask w l = true ↔ ∃ j < l.length, active mask w j = true ∧ (l.getD j { v := 0 }).p = true := by
  rw [anyActiveP, List.any_eq_true]
  constructor
  · rintro ⟨⟨x, j⟩, at', set⟩
    obtain ⟨-, hj, place⟩ := List.mem_zipIdx at'
    simp only [Nat.zero_add, Nat.sub_zero] at hj place
    rw [Bool.and_eq_true] at set
    simp only [place] at set
    exact ⟨j, hj, set.1, by rw [getD_at _ _ hj]; exact set.2⟩
  · rintro ⟨j, hj, on, marked⟩
    rw [getD_at _ _ hj] at marked
    refine ⟨(l[j], j), List.mem_zipIdx_iff_getElem?.mpr (List.getElem?_eq_getElem hj), ?_⟩
    rw [Bool.and_eq_true]
    exact ⟨on, marked⟩

/-- A compare traps where it meets poison, and otherwise sets the groups of its active elements (R124, R125, R132, R138). -/
theorem exec_compare2 {i : Instr} {d : BitVec 5} {w : Nat} {op : Nat → Nat → Bool × Flags} {s : State} {eff : State → WordRes}
    (run : exec i s = runWord i eff s) (meaning : ∀ o, eff o = compare2 i d w op o) (width : 256 / w * w = 256) (turn : s.turn i = true) :
    let o := s.openBundle
    let a := fun j => elem (o.srcV i 0).v.toNat w j
    let b := fun j => elem (o.srcV i 1).v.toNat w j
    let on := fun j => active o.mask w j
    let scalar := ∃ (k : Nat) (n : BitVec 6) (x : SVal), k < 2 ∧ State.opd i k = .v n ∧ 0x20 ≤ n.toNat ∧ n.toNat < 0x28 ∧
      o.iss.pre.lat.getD (n.toNat - 0x20) .empty = .scalar x ∧ (o.srcV i k).p ≠ 0
    let bad := scalar ∨ ∃ j < 256 / w, on j = true ∧ (chunkP (o.srcV i 0) (j * w) || chunkP (o.srcV i 1) (j * w)) = true
    (bad → exec i s = .next (o.fails i 0x0D 0 o)) ∧
    (¬ bad → ∃ (q : Pred) (fl : Flags), exec i s = .next (o.finish i ((o.resP d q).orFcsr fl)) ∧
      (∀ k < 256, q.getLsbD k = if on (k / w) then (op (a (k / w)) (b (k / w))).1 else (o.iss.pre.preg d.toNat).getLsbD k) ∧
      ∀ k < 5, fl.getLsbD k = true ↔ ∃ j < 256 / w, on j = true ∧ (op (a j) (b j)).2.getLsbD k = true) := by
  intro o a b on scalar bad
  have positive : 0 < w := Nat.pos_of_ne_zero fun zero => by rw [zero] at width; cases width
  have refuses : (anyActiveP o.mask w ((compared o i w op).map (·.1)) || scalarPoison o i 0 || scalarPoison o i 1) = true ↔ bad := by
    have scalars : (scalarPoison o i 0 = true ∨ scalarPoison o i 1 = true) ↔ scalar := by
      rw [scalarPoison_iff, scalarPoison_iff]
      constructor
      · rintro (⟨n, x, h⟩ | ⟨n, x, h⟩)
        · exact ⟨0, n, x, by decide, h⟩
        · exact ⟨1, n, x, by decide, h⟩
      · rintro ⟨k, n, x, hk, h⟩
        match k, hk with
        | 0, _ => exact .inl ⟨n, x, h⟩
        | 1, _ => exact .inr ⟨n, x, h⟩
    rw [Bool.or_eq_true, Bool.or_eq_true, or_assoc, scalars, anyActiveP_iff, List.length_map, length_compared, or_comm]
    refine or_congr_right (exists_congr fun j => and_congr_right fun hj => ?_)
    rw [getD_map _ _ _ ({ v := 0 }, false, 0) _ (by rw [length_compared]; exact hj), compared_getD _ _ _ _ hj]
  have value : eff o = if (anyActiveP o.mask w ((compared o i w op).map (·.1)) || scalarPoison o i 0 || scalarPoison o i 1) = true
      then .trap 0x0D 0 o
      else .ok ((o.resP d (cmpGroups o.mask (o.iss.pre.preg d.toNat) w ((compared o i w op).map (·.2.1)))).orFcsr
        (activeFlags o.mask w ((compared o i w op).map (·.2.2)))) := meaning o
  refine ⟨fun holds => run.trans (runWord_trap turn (value.trans (if_pos (refuses.mpr holds)))),
    fun clean => ⟨_, _, run.trans (runWord_ok turn (value.trans (if_neg (mt refuses.mp clean)))), fun k hk => ?_, fun k _ => ?_⟩⟩
  · have inside : k / w < 256 / w := (Nat.div_lt_iff_lt_mul positive).mpr (by rwa [width])
    have inside' : k / w < (compared o i w op).length := by rwa [length_compared]
    rw [getLsbD_cmpGroups positive (by rwa [List.length_map]) hk, getD_map _ _ _ ({ v := 0 }, false, 0) _ inside', compared_getD _ _ _ _ inside]
  · rw [getLsbD_activeFlags, List.length_map, length_compared]
    refine exists_congr fun j => and_congr_right fun hj => ?_
    rw [getD_map _ _ _ ({ v := 0 }, false, 0) _ (by rwa [length_compared]), compared_getD _ _ _ _ hj]

/-! ## Predicate words -/

theorem onesN_eq_popN (n x : Nat) : onesN n x = popN n x := by
  induction n generalizing x with
  | zero => rfl
  | succ n ih => rw [onesN, popN, ih]

/-- The lowest one of a number, or its width (R133). -/
theorem firstN_spec (n x : Nat) : (firstN n x < n → x.testBit (firstN n x) = true) ∧ firstN n x ≤ n ∧ ∀ k < firstN n x, x.testBit k = false := by
  induction n generalizing x with
  | zero => exact ⟨fun h => absurd h (Nat.not_lt_zero _), Nat.le_refl _, fun k h => absurd h (Nat.not_lt_zero _)⟩
  | succ n ih =>
    obtain ⟨found, bound, before⟩ := ih (x / 2)
    rw [firstN]
    split
    next odd => exact ⟨fun _ => by simp [Nat.testBit_zero, odd], Nat.zero_le _, fun k h => absurd h (Nat.not_lt_zero _)⟩
    next even =>
      rw [Nat.add_comm]
      refine ⟨fun h => ?_, Nat.succ_le_succ bound, fun k h => ?_⟩
      · rw [Nat.testBit_succ]
        exact found (Nat.lt_of_succ_lt_succ h)
      · cases k with
        | zero => simp [Nat.testBit_zero, even]
        | succ k =>
          rw [Nat.testBit_succ]
          exact before k (Nat.lt_of_succ_lt_succ h)

theorem pfirst_value (a : Pred) :
    (a = 0 → firstN 256 a.toNat = 256) ∧ (a ≠ 0 → a.getLsbD (firstN 256 a.toNat) = true ∧ ∀ k < firstN 256 a.toNat, a.getLsbD k = false) := by
  obtain ⟨found, bound, before⟩ := firstN_spec 256 a.toNat
  refine ⟨fun zero => ?_, fun some => ⟨found (Nat.lt_of_le_of_ne bound fun none => some ?_), before⟩⟩
  · subst zero
    by_contra other
    have set := found (Nat.lt_of_le_of_ne bound other)
    simp at set
  · exact BitVec.eq_of_getLsbD_eq fun k hk => (before k (by rwa [none])).trans BitVec.getLsbD_zero.symm

theorem completes_putPred {i : Instr} {eff : State → WordRes} {d : BitVec 5} {op : Pred → Pred → Pred} {s : State}
    (run : exec i s = runWord i eff s) (meaning : ∀ o, eff o = putPred d (op (o.srcP i 0) (o.srcP i 1)) o) :
    Completes s i fun o => o.resP d ((o.iss.pre.preg d.toNat &&& ~~~o.mask) ||| (op (o.srcP i 0) (o.srcP i 1) &&& o.mask)) :=
  completes_of_run run meaning

/-- Settles O22. -/
theorem compareAndPredicateWords : Obligations.CompareAndPredicateWords := by
  refine ⟨fun f s => ?_, fun f g s => ?_⟩
  · intro o C w I F
    have int {i : Instr} {op : Nat → Nat → Nat → Bool} {row : Nat → Nat → Bool} (run : exec i s = runWord i (icmp i f op) s)
        (value : ∀ a b, op (8 * w) a b = row a b) : I i row := by
      have same : op (8 * w) = row := funext fun a => funext fun b => value a b
      subst same
      exact exec_compare2 run (fun o => rfl) (lanes_fit f.e)
    have float {i : Instr} {op : Fv → Fv → Bool × Flags} (run : exec i s = runWord i (fcmp i f op) s) : F i op :=
      exec_compare2 (op := fun a b => op ((fpOfEs f.e).decode a) ((fpOfEs f.e).decode b)) run (fun o => rfl) (fpLanes_fit f.e)
    clear_value I F
    refine ⟨int (exec_vceq f s) fun a b => beq_eq_decide a b, int (exec_vcne f s) fun a b => ?_, int (exec_vclt f s) fun a b => rfl,
      int (exec_vcle f s) fun a b => ?_, int (exec_vcltu f s) fun a b => rfl, int (exec_vcleu f s) fun a b => rfl,
      float (exec_vfceq f s), float (exec_vfclt f s), float (exec_vfcle f s), float (exec_vfcun f s)⟩
    · rw [bne, beq_eq_decide, decide_not]
    · rw [sltN, ← decide_not]
      simp only [Int.not_lt]
  · intro C R
    have two {i : Instr} {d : BitVec 5} {eff : State → WordRes} {op : Pred → Pred → Pred} (run : exec i s = runWord i eff s)
        (meaning : ∀ o, eff o = putPred d (op (o.srcP i 0) (o.srcP i 1)) o) : C i d op := completes_putPred run meaning
    clear_value C
    refine ⟨two (exec_pand f s) fun o => rfl, two (exec_por f s) fun o => rfl, two (exec_pxor f s) fun o => rfl,
      two (exec_pandn f s) fun o => rfl, two (exec_pnot g s) fun o => rfl, two (exec_pany g s) fun o => rfl,
      fun turn => ⟨_, ?_, (exec_ppopc g s).trans (runWord_ok turn rfl)⟩,
      fun turn => ⟨_, pfirst_value _, (exec_pfirst g s).trans (runWord_ok turn rfl)⟩⟩
    rw [onesN_eq_popN, popN_eq]
    rfl

end Sys2Proof.Machine
end

section
/-! SUPPORT. Example words, what a step runs, the reset state, stores and the commit of a bundle. -/

namespace Sys2Proof.Machine

/-- Settles O52: each word is decoded. -/
theorem decodedExamples : Obligations.DecodedExamples := by
  refine ⟨?_, ?_, ?_, ?_, ?_, ?_, ?_, ?_, ?_, ?_, ?_, ?_, ?_, ?_, ?_, ?_, ?_⟩ <;> rfl

/-! ## The reset state -/

theorem ctx?_reset {t : Nat} (h : t < 512) (slot : Nat) : State.reset.ctx? t slot = none := by
  have empty : (State.reset.tileAt t).ctx = List.replicate 8 none := by
    unfold State.tileAt State.reset
    dsimp only
    rw [getD_rangeMap _ _ h]
  rw [State.ctx?, empty, List.getD_eq_getElem?_getD, List.getElem?_replicate]
  split <;> rfl

/-- Settles O58. -/
theorem resetState : Obligations.ResetState := by
  refine ⟨⟨rfl, List.Pairwise.nil⟩, rfl, rfl, rfl, rfl, rfl, rfl, rfl, rfl, rfl, fun p _ => ?_, ?_, fun t h slot _ => ctx?_reset h slot⟩
  · show (List.replicate 32 (none : Option Part)).getD p none = none
    rw [List.getD_eq_getElem?_getD, List.getElem?_replicate]
    split <;> rfl
  · unfold State.reset
    rw [List.length_map, List.length_range]

/-! ## Stores -/

/-- Settles O59. -/
theorem storesReadBack : Obligations.StoresReadBack := by
  intro s key n x p _ _ aligned width u
  obtain ⟨mem, poison, -⟩ := store_facts s key n x p
  have marks (k : Nat) : u.poisoned k = if n = 8 ∧ key % 8 = 0 then (if k / 8 = key / 8 then p else s.poisoned k)
      else if p = true then (if k / 8 = key / 8 then true else s.poisoned k) else s.poisoned k := by
    unfold State.poisoned
    rw [poison]
    split_ifs <;> simp [poisonAt_setPoison, *]
  refine ⟨rd_store s key n x p, fun k low high => ?_, fun k out => readByte_store_off s key n x p out, ?_, fun k other => ?_⟩
  · rw [mem, readByte_writeBlock, if_pos ⟨low, high⟩]
  · rw [marks]
    by_cases whole : n = 8
    · subst whole
      simp [aligned]
    · have part : ¬ (n = 8 ∧ key % 8 = 0) := fun h => whole h.1
      rw [if_neg part]
      cases p <;> simp [whole]
  · rw [marks]
    split_ifs <;> rfl

/-! ## The commit of a bundle -/

theorem nextGuard_pblk {c : Ctx} {ws : List Instr} {f : FPblk} (found : ws.find? isPblk = some (.pblk f)) :
    c.nextGuard ws = { c with gcount := f.n.toNat + 1, gmask := f.m, gpred := f.p } := by
  rw [Ctx.nextGuard, found]

theorem nextGuard_none {c : Ctx} {ws : List Instr} (found : ws.find? isPblk = none) :
    c.nextGuard ws = if 0 < c.gcount then { c with gcount := c.gcount - 1, gmask := c.gmask >>> 1 } else c := by
  rw [Ctx.nextGuard, found]

/-- The next predicate block changes nothing else. -/
theorem nextGuard_frame (c : Ctx) (ws : List Instr) : ∃ g m p, c.nextGuard ws = { c with gcount := g, gmask := m, gpred := p } := by
  unfold Ctx.nextGuard
  split
  · exact ⟨_, _, _, rfl⟩
  · split
    · exact ⟨_, _, _, rfl⟩
    · exact ⟨_, _, _, rfl⟩

theorem commit_taken {c : Ctx} {h : Held} {a : W64} (taken : h.npc = some a) : c.commit h =
    { c with held := none, afterXret := false, pc := a, lat := List.replicate 8 .empty, gcount := 0, gmask := 0, gpred := 0, pendL := false } := by
  rw [Ctx.commit, taken]

theorem commit_falls {c : Ctx} {h : Held} (falls : h.npc = none) : c.commit h =
    let d := { c with held := none, afterXret := false }.nextGuard h.words
    { d with pc := linkOf d.pc h.words, lat := if h.switch then List.replicate 8 .empty else d.lat, pendL := d.pendL && !h.switch } := by
  rw [Ctx.commit, falls]

/-- Settles O60. -/
theorem bundleCommits : Obligations.BundleCommits := by
  intro c h d
  cases npc : h.npc with
  | some a =>
    have taken : d = _ := commit_taken npc
    rw [taken]
    refine ⟨rfl, rfl, rfl, rfl, rfl, rfl, rfl, rfl, fun b given => ?_, fun none => by cases none⟩
    cases given
    exact ⟨rfl, rfl, rfl, rfl, rfl⟩
  | none =>
    have falls : d = _ := commit_falls npc
    obtain ⟨g, m, p, frame⟩ := nextGuard_frame { c with held := none, afterXret := false } h.words
    rw [falls]
    refine ⟨?_, ?_, ?_, ?_, ?_, ?_, ?_, ?_, fun a taken => (by cases taken), fun _ => ⟨?_, ?_, fun f found => ?_, fun found => ?_⟩⟩
    iterate 8 simp only [frame]
    · simp only [frame]; rfl
    · simp only [frame]
    · simp only [nextGuard_pblk found, and_self]
    · simp only [nextGuard_none found]
      split
      next more => exact ⟨rfl, rfl, rfl⟩
      next last => exact ⟨by show c.gcount = c.gcount - 1; have : ¬ 0 < c.gcount := last; omega, rfl, rfl⟩

/-! ## What a step runs -/

theorem step_input {s : State} {i : Instr} {r : List Instr} (h : s.inputs = i :: r) : step s = exec i { s.tick with inputs := r } := by
  rw [step, h]

theorem step_move {s : State} {m : Move} (idle : s.inputs = []) (chosen : s.choose s.moves = some m) : step s = perform m s.tick := by
  rw [step, idle]
  dsimp only
  rw [chosen]

theorem step_bundle {s : State} {t slot : Nat} (idle : s.inputs = []) (chosen : s.choose s.moves = some (.bundle t slot)) :
    step s = issueBundle t slot (s.tick.tickTile t) := step_move idle chosen

/-- What the checks of R48 make of a chain of words that decode. -/
theorem checkBundle_ok {c : Ctx} {l : List Nat} {ws : List Instr} (ends : ∃ w, l.getLast? = some w ∧ chainBit w = false)
    (decoded : decodeAll l 0 = .ok ws) (sound : bundleFault c ws = none) : checkBundle c l = .ok ws := by
  obtain ⟨w, last, closed⟩ := ends
  rw [checkBundle]
  simp only [last, closed, Bool.false_eq_true, if_false, decoded, sound]

/-- The plan of a context at its boundary whose bundle may issue. -/
theorem plan_run {u : State} {t slot : Nat} {c : Ctx} {l : List Nat} {ws : List Instr} (resident : u.ctx? t slot = some c)
    (boundary : c.atBoundary = true) (filled : u.filled t slot c = true) (quiet : c.mode = true ∨ c.asyncTraps = [])
    (handles : c.mayHandle = false) (fetched : fetchBundle (u.tileAt t) c = .words l) (checked : checkBundle c l = .ok ws)
    (go : wordsGo (u.atIssue t slot c ws) c (u.ownReqs t slot c) 0 ws = true) : u.plan t slot = .run ws := by
  have due : c.asyncDue = false := by
    rcases quiet with sup | empty
    · simp [Ctx.asyncDue, sup]
    · simp [Ctx.asyncDue, empty]
  simp only [State.plan, resident, boundary, filled, handles, fetched, checked, go, due, Bool.not_true, Bool.or_self, Bool.false_eq_true,
    if_false, Bool.false_and, Bool.not_false, Bool.and_self, if_true]

/-- A bundle that may issue: its waits come first, and an issue that the injector hits is squashed (R23, R24, R370). -/
theorem issueBundle_run {u : State} {t slot : Nat} {ws : List Instr} (planned : u.plan t slot = .run ws) :
    issueBundle t slot u = match (u.takeTurn t slot).holdWaits t slot ws with
      | some w => .next w
      | none => issueOnce t slot (fun s => runWords ws (s.begin t slot ws)) (u.takeTurn t slot) := by
  rw [issueBundle, planned] <;> rfl

theorem issueOnce_hit {t slot : Nat} {go : State → Host.Outcome State Fault Refusal} {x : State} (hit : (x.injectIssue t slot).1 = true) :
    issueOnce t slot go x = .next ((x.injectIssue t slot).2.detect t slot 1) := by
  rw [issueOnce, if_pos hit]

theorem issueOnce_miss {t slot : Nat} {go : State → Host.Outcome State Fault Refusal} {x : State} (miss : (x.injectIssue t slot).1 = false) :
    issueOnce t slot go x = go (x.injectIssue t slot).2 := by
  rw [issueOnce, miss]
  rfl

/-- A bundle of one word runs that word. -/
theorem runWords_singleton (i : Instr) (s : State) : runWords [i] s = exec i s := by
  rw [runWords]
  cases exec i s <;> rfl

/-- No word waits and none ends its task, so the bundle is not held (R23). -/
theorem holdWaits_none {s : State} {t slot : Nat} {ws : List Instr} (plain : ∀ j ∈ ws, waiter j = none ∧ isEnding j = false) :
    s.holdWaits t slot ws = none := by
  have noWaits (o : State) (pos : Nat) : (o.waitsFrom pos ws).2 = [] := by
    induction ws generalizing o pos with
    | nil => rfl
    | cons i r ih =>
      have noWaiter : (if o.iss.pre.executes pos i = true then waiter i else none) = none := by
        rw [(plain i (List.mem_cons_self ..)).1, ite_self]
      rw [State.waitsFrom, noWaiter]
      exact ih (fun j hj => plain j (List.mem_cons_of_mem _ hj)) o (pos + 1)
  have noEnding (c : Ctx) : endingAt c ws = none := by
    have unfound : (ws.zipIdx.find? fun x => isEnding x.1 && c.executes x.2 x.1) = none := by
      refine List.find?_eq_none.mpr fun x hx => ?_
      rw [(plain x.1 (List.fst_mem_of_mem_zipIdx hx)).2, Bool.false_and]
      exact Bool.false_ne_true
    rw [endingAt]
    dsimp only
    rw [unfound]
    split <;> rfl
  rw [State.holdWaits]
  dsimp only
  rw [noWaits, noEnding]
  rfl

/-- The bundle at PC that is one word (R33, R49, R51). -/
theorem fetchBundle_one {x : Tile} {c : Ctx} {d : Nat} (within : c.mode = true ∨ (c.cbase.toNat ≤ c.pc.toNat ∧ c.pc.toNat < c.clim.toNat))
    (held : x.plate? c.pc.toNat = some d) (closed : chainBit (bits d (8 * (c.pc.toNat % 4096)) 32) = false) :
    fetchBundle x c = .words [bits d (8 * (c.pc.toNat % 4096)) 32] := by
  have more : 8 - bits c.pc.toNat 2 2 = (7 - bits c.pc.toNat 2 2) + 1 := by
    have : bits c.pc.toNat 2 2 < 2 ^ 2 := Nat.mod_lt _ (by decide)
    omega
  have starts : (!c.mode && 0 == 0 && !(decide (c.cbase.toNat ≤ c.pc.toNat) && decide (c.pc.toNat < c.clim.toNat))) = false := by
    rcases within with sup | ⟨low, high⟩
    · simp [sup]
    · simp [low, high]
  have below : (!c.mode && decide (c.clim.toNat ≤ c.pc.toNat)) = false := by
    rcases within with sup | ⟨-, high⟩
    · simp [sup]
    · simp [high]
  rw [fetchBundle, more, fetchFrom]
  simp only [starts, held, below, closed, Bool.false_eq_true, if_false]

/-- Settles O55. -/
theorem stepRunsTheDecodedWords : Obligations.StepRunsTheDecodedWords := by
  intro s t slot c i
  refine ⟨fun r h => step_input h, fun idle chosen still => ?_, ?_, fun ws plain => holdWaits_none plain,
    fun x d within held closed => fetchBundle_one within held closed, fun l u v first rest => by rw [runWords, first]; exact rest⟩
  · rw [step_move idle chosen, perform, still]
  · intro u x v idle chosen resident boundary filled quiet handles
    have issue {l : List Nat} {ws : List Instr} (fetched : fetchBundle (u.tileAt t) c = .words l)
        (ends : ∃ w, l.getLast? = some w ∧ chainBit w = false) (decoded : decodeAll l 0 = .ok ws) (sound : bundleFault c ws = none)
        (go : wordsGo (u.atIssue t slot c ws) c (u.ownReqs t slot c) 0 ws = true) :
        step s = match x.holdWaits t slot ws with
          | some w => .next w
          | none => issueOnce t slot (fun s => runWords ws (s.begin t slot ws)) x :=
      (step_bundle idle chosen).trans (issueBundle_run
        (plan_run resident boundary filled quiet handles fetched (checkBundle_ok ends decoded sound) go))
    refine ⟨fun l ws fetched ends decoded sound go => ?_, fun w fetched closed decoded sound go free miss => ?_⟩
    · have issued := issue fetched ends decoded sound go
      refine ⟨fun w waits => ?_, fun free hit => ?_, fun free miss => ?_⟩
      · rw [issued, waits]
      · rw [issued, free]
        exact issueOnce_hit hit
      · rw [issued, free]
        exact issueOnce_miss miss
    · have one : decodeAll [w] 0 = .ok [i] := by
        rw [decodeAll, decoded]
        rfl
      rw [issue fetched ⟨w, rfl, closed⟩ one sound go, free]
      exact (issueOnce_miss miss).trans (runWords_singleton i _)

end Sys2Proof.Machine
end

section
/-! SUPPORT. The semaphore words. -/

namespace Sys2Proof.Machine

/-! ## Semaphore words -/

section
variable {s : State} {i : Instr}

theorem eq_zero_iff_toNat (x : W64) : x = 0 ↔ x.toNat = 0 :=
  BitVec.toNat_inj.symm

/-- SIG to a member of the gang. -/
theorem sigWord_of_member {x : Gang} {m : Member} {k : Nat} (clean : (s.srcS i 0).p = false) (amount : (s.srcS i 1).p = false)
    (member : (s.srcS i 0).v.toNat < s.iss.pre.gangsize) (fits : (s.srcS i 1).v.toNat < 2 ^ 32)
    (gang : s.gangOf s.iss.pre.gang = some x) (found : x.members[(s.srcS i 0).v.toNat]? = some m)
    (sem : m.sems[s.immU i]? = some k) :
    sigWord i s = .ok { s with sigs := s.sigs ++ [{ tile := m.tile, sem := k, gang := s.iss.pre.gang, n := (s.srcS i 1).v.toNat,
                                                    src := some (s.iss.tile, s.iss.slot, s.iss.pre.taskid,
                                                      s.iss.pre.bundles) }] } := by
  simp only [sigWord, clean, amount, Bool.or_self, Bool.false_eq_true, if_false, Nat.not_le.mpr member, Nat.not_le.mpr fits,
    gang, found,
    sem]

/-- SWAIT of no more than the semaphore counts. -/
theorem swait_of_enough (clean : (s.srcS i 0).p = false) (fits : (s.srcS i 0).v.toNat < 2 ^ 32)
    (enough : (s.srcS i 0).v.toNat ≤ s.semCount s.iss.tile (s.ownSem i)) :
    swait i s = .ok (let q := s.modIss fun y => { y with switch := true }
      if (s.srcS i 0).v.toNat = 0 then q
      else q.setSem s.iss.tile (s.ownSem i) (s.semCount s.iss.tile (s.ownSem i) - (s.srcS i 0).v.toNat)) := by
  have kept : (s.modIss fun y => { y with switch := true }).semCount s.iss.tile (s.ownSem i) = s.semCount s.iss.tile (s.ownSem i) := rfl
  simp only [swait, clean, Bool.false_eq_true, if_false, Nat.not_le.mpr fits, kept, enough, if_true, eq_zero_iff_toNat]

/-- SWAIT of more than the semaphore counts. -/
theorem swait_of_short (clean : (s.srcS i 0).p = false) (fits : (s.srcS i 0).v.toNat < 2 ^ 32)
    (short : s.semCount s.iss.tile (s.ownSem i) < (s.srcS i 0).v.toNat) :
    swait i s = .wait (.swait (s.ownSem i) (s.srcS i 0).v.toNat) (s.modIss fun y => { y with switch := true }) := by
  have kept : (s.modIss fun y => { y with switch := true }).semCount s.iss.tile (s.ownSem i) = s.semCount s.iss.tile (s.ownSem i) := rfl
  simp only [swait, clean, Bool.false_eq_true, if_false, Nat.not_le.mpr fits, kept, Nat.not_le.mpr short]

/-- STRY of an operand that passes its checks. -/
theorem stry_of_clean {f : FAdi} (clean : (s.srcS i 0).p = false) (fits : (s.srcS i 0).v.toNat < 2 ^ 32) :
    stry i f s = .ok (if (s.srcS i 0).v.toNat ≤ s.semCount s.iss.tile (s.ownSem i) then
        (if (s.srcS i 0).v.toNat = 0 then s
          else s.setSem s.iss.tile (s.ownSem i) (s.semCount s.iss.tile (s.ownSem i) - (s.srcS i 0).v.toNat)).modCur
            fun c => c.setS f.d.toNat { v := 1 }
      else s.modCur fun c => c.setS f.d.toNat {}) := by
  simp only [stry, clean, Bool.false_eq_true, if_false, Nat.not_le.mpr fits, eq_zero_iff_toNat]
  by_cases enough : (s.srcS i 0).v.toNat ≤ s.semCount s.iss.tile (s.ownSem i)
  · rw [if_pos enough, if_pos enough]
    rfl
  · rw [if_neg enough, if_neg enough]
    rfl

end

/-- Settles O37. -/
theorem semaphoreWords : Obligations.SemaphoreWords := by
  intro f g h s a good count take
  refine ⟨fun x m k => completesIf_of_run (exec_sig f s) fun o holds => ?_, trapsIf_of_run (exec_sig f s) fun o poisoned => ?_,
    fun n => trapsIf_of_run (exec_sig f s) fun o outside => ?_, trapsIf_of_run (exec_sig f s) fun o large => ?_,
    completesIf_of_run (exec_swait g s) fun o holds => ?_, fun turn holds short => ?_,
    completesIf_of_run (exec_stry h s) fun o holds => ?_, completesIf_of_run (exec_sset g s) fun o holds => ?_, ?_⟩
  · obtain ⟨⟨clean, -⟩, amount, member, fits, gang, found, sem⟩ := holds
    exact sigWord_of_member clean amount member fits gang found sem
  · have marked : ((o.srcS (.sig f) 0).p || (o.srcS (.sig f) 1).p) = true := by simpa only [Bool.or_eq_true] using poisoned
    simp only [sigWord, marked, if_true]
    rfl
  · obtain ⟨clean, amount, rfl, outside⟩ := outside
    simp only [a] at outside
    simp only [sigWord, clean, amount, Bool.or_self, Bool.false_eq_true, if_false, outside, if_true]
    rfl
  · obtain ⟨clean, amount, member, large⟩ := large
    simp only [a] at member
    simp only [sigWord, clean, amount, Bool.or_self, Bool.false_eq_true, if_false, Nat.not_le.mpr member, large, if_true]
    rfl
  · obtain ⟨⟨clean, fits⟩, enough⟩ := holds
    exact swait_of_enough clean fits enough
  · obtain ⟨clean, fits⟩ := holds
    exact (exec_swait g s).trans (runWord_wait turn (swait_of_short clean fits short))
  · obtain ⟨clean, fits⟩ := holds
    exact stry_of_clean clean fits
  · obtain ⟨clean, fits⟩ := holds
    simp only [a] at fits
    simp only [sset, clean, Bool.false_eq_true, if_false, Nat.not_le.mpr fits]
    rfl
  · intro i own
    have traps {i : Instr} {eff : State → WordRes} (run : exec i s = runWord i eff s)
        (checked : ∀ o : State, ∃ r, eff o = if (o.srcS i 0).p = true then .trap cPOISON 0 o
          else if 2 ^ 32 ≤ (o.srcS i 0).v.toNat then .trap cILLEGAL_OPERAND 0 o else r) :
        TrapsIf s i (fun o => (o.srcS i 0).p = true) 0x0D 0 ∧
          TrapsIf s i (fun o => (o.srcS i 0).p = false ∧ 2 ^ 32 ≤ a o i) 0x03 0 := by
      refine ⟨trapsIf_of_run run fun o poisoned => ?_, trapsIf_of_run run fun o large => ?_⟩
      · obtain ⟨r, value⟩ := checked o
        rw [value, if_pos poisoned]
        rfl
      · obtain ⟨r, value⟩ := checked o
        rw [value, if_neg (by rw [large.1]; exact Bool.false_ne_true), if_pos large.2]
        rfl
    simp only [List.mem_cons, List.not_mem_nil, or_false] at own
    rcases own with rfl | rfl | rfl
    · exact traps (exec_swait g s) fun o => ⟨_, rfl⟩
    · exact traps (exec_stry h s) fun o => ⟨_, rfl⟩
    · exact traps (exec_sset g s) fun o => ⟨_, rfl⟩

end Sys2Proof.Machine
end

section
/-! SUPPORT. What leaves the memories as they are: one rule per function of the model that touches neither the bytes nor
the poison marks. -/

namespace Sys2Proof.Machine

/-- A fold of steps that keep the memories keeps them. -/
@[simp] theorem foldl_frame {α : Type} {g : State → α → State}
    (keeps : ∀ s x, (g s x).mem = s.mem ∧ (g s x).poison = s.poison) (l : List α) (s : State) :
    (l.foldl g s).mem = s.mem ∧ (l.foldl g s).poison = s.poison := by
  induction l generalizing s with
  | nil => exact ⟨rfl, rfl⟩
  | cons x r ih =>
    obtain ⟨mem, poison⟩ := keeps s x
    rw [List.foldl_cons, (ih _).1, (ih _).2]
    exact ⟨mem, poison⟩

/-! ### Ops -/

@[simp] theorem State.fresh_frame (s : State) :
    s.fresh.2.mem = s.mem ∧ s.fresh.2.poison = s.poison:=
  ⟨rfl, rfl⟩

@[simp] theorem State.resS_frame (s : State) (i : Instr) (d : BitVec 5) (w : Bool) (x : SVal) :
    (s.resS i d w x).mem = s.mem ∧ (s.resS i d w x).poison = s.poison := by
  unfold State.resS
  dsimp only
  (repeat' split) <;> simp

@[simp] theorem State.resNoLatch_frame (s : State) (d : BitVec 5) (w : Bool) (x : SVal) :
    (s.resNoLatch d w x).mem = s.mem ∧ (s.resNoLatch d w x).poison = s.poison := by
  unfold State.resNoLatch
  (repeat' split) <;> simp

@[simp] theorem State.resV_frame (s : State) (i : Instr) (d : BitVec 5) (w : Bool) (x : VVal) :
    (s.resV i d w x).mem = s.mem ∧ (s.resV i d w x).poison = s.poison := by
  unfold State.resV
  dsimp only
  (repeat' split) <;> simp

@[simp] theorem State.resP_frame (s : State) (d : BitVec 5) (x : Pred) :
    (s.resP d x).mem = s.mem ∧ (s.resP d x).poison = s.poison := by
  unfold State.resP
  simp

@[simp] theorem State.orFcsr_frame (s : State) (f : Flags) :
    (s.orFcsr f).mem = s.mem ∧ (s.orFcsr f).poison = s.poison := by
  unfold State.orFcsr
  simp

@[simp] theorem State.dropLatch_frame (s : State) (t slot : Nat) :
    (s.dropLatch t slot).mem = s.mem ∧ (s.dropLatch t slot).poison = s.poison := by
  unfold State.dropLatch
  (repeat' split) <;> simp

@[simp] theorem State.freeBanks_frame (s : State) (t e : Nat) (hit : BitVec 32 → Bool) :
    (s.freeBanks t e hit).mem = s.mem ∧ (s.freeBanks t e hit).poison = s.poison := by
  unfold State.freeBanks
  simp

@[simp] theorem State.abortMatrix_frame (s : State) (t slot : Nat) :
    (s.abortMatrix t slot).mem = s.mem ∧ (s.abortMatrix t slot).poison = s.poison := by
  unfold State.abortMatrix
  simp

@[simp] theorem State.stopCopies_frame (s : State) (t e : Nat) (hit : Copy → Bool) (code : Nat) :
    (s.stopCopies t e hit code).mem = s.mem ∧ (s.stopCopies t e hit code).poison = s.poison := by
  unfold State.stopCopies
  simp

@[simp] theorem State.sendVf_frame (s : State) (v kind value body : Nat) :
    (s.sendVf v kind value body).mem = s.mem ∧ (s.sendVf v kind value body).poison = s.poison := by
  unfold State.sendVf
  dsimp only
  split <;> simp

@[simp] theorem State.answer_frame (s : State) (a : Agent) (kind value body : Nat) :
    (s.answer a kind value body).mem = s.mem ∧ (s.answer a kind value body).poison = s.poison := by
  unfold State.answer
  simp

@[simp] theorem State.signalNow_frame (s : State) (vfs : List Nat) (toOwner : Bool) (kind value body : Nat) :
    (s.signalNow vfs toOwner kind value body).mem = s.mem ∧ (s.signalNow vfs toOwner kind value body).poison = s.poison := by
  unfold State.signalNow
  dsimp only
  split <;> simp

@[simp] theorem State.signal_frame (s : State) (p : Nat) (vfs : List Nat) (toOwner : Bool) (kind value body : Nat) :
    (s.signal p vfs toOwner kind value body).mem = s.mem ∧ (s.signal p vfs toOwner kind value body).poison = s.poison := by
  unfold State.signal
  (repeat' split) <;> simp

@[simp] theorem State.event_frame (s : State) (code p die unit addr data : Nat) :
    (s.event code p die unit addr data).mem = s.mem ∧ (s.event code p die unit addr data).poison = s.poison := by
  unfold State.event
  simp

@[simp] theorem State.tileEvent_frame (s : State) (code : Nat) (part : Option Nat) (t addr data : Nat) :
    (s.tileEvent code part t addr data).mem = s.mem ∧ (s.tileEvent code part t addr data).poison = s.poison := by
  unfold State.tileEvent
  (repeat' split) <;> simp

@[simp] theorem State.stopCtx_frame (s : State) (t slot : Nat) :
    (s.stopCtx t slot).mem = s.mem ∧ (s.stopCtx t slot).poison = s.poison := by
  unfold State.stopCtx
  simp

@[simp] theorem State.proofFault_frame (s : State) (t slot cause : Nat) :
    (s.proofFault t slot cause).mem = s.mem ∧ (s.proofFault t slot cause).poison = s.poison := by
  unfold State.proofFault
  simp

/-! ### Access -/

@[simp] theorem State.inject_frame (s : State) (t kind : Nat) :
    (s.inject t kind).2.mem = s.mem ∧ (s.inject t kind).2.poison = s.poison := by
  unfold State.inject
  dsimp only
  split <;> simp

@[simp] theorem State.injectN_frame (s : State) (t kind n : Nat) :
    (s.injectN t kind n).2.mem = s.mem ∧ (s.injectN t kind n).2.poison = s.poison := by
  induction n with
  | zero => simp [State.injectN]
  | succ n ih => simp [State.injectN, ih]

@[simp] theorem State.sramCorrect_frame (s : State) (t d : Nat) :
    (s.sramCorrect t d).mem = s.mem ∧ (s.sramCorrect t d).poison = s.poison := by
  unfold State.sramCorrect
  simp

@[simp] theorem State.injectC_frame (s : State) (t : Nat) (ds : List Nat) :
    (s.injectC t ds).mem = s.mem ∧ (s.injectC t ds).poison = s.poison := by
  induction ds generalizing s with
  | nil => simp [State.injectC]
  | cons d r ih =>
    rw [State.injectC, (ih _).1, (ih _).2]
    split <;> simp

/-! ### Orrery -/

@[simp] theorem State.endGang_frame (s : State) (id : Nat) :
    (s.endGang id).mem = s.mem ∧ (s.endGang id).poison = s.poison := by
  unfold State.endGang
  (repeat' split) <;> simp

@[simp] theorem State.freeCtx_frame (s : State) (t slot : Nat) :
    (s.freeCtx t slot).mem = s.mem ∧ (s.freeCtx t slot).poison = s.poison := by
  unfold State.freeCtx
  simp

@[simp] theorem State.endTask_frame (s : State) (t slot : Nat) :
    (s.endTask t slot).mem = s.mem ∧ (s.endTask t slot).poison = s.poison := by
  unfold State.endTask
  dsimp only
  split <;> simp

/-! ### Credit -/

@[simp] theorem State.engReset_frame (s : State) (t : Nat) :
    (s.engReset t).mem = s.mem ∧ (s.engReset t).poison = s.poison := by
  unfold State.engReset
  simp

/-! ### Engines -/

@[simp] theorem State.queueFor_frame (s : State) (home t e : Nat) (own : Option (Nat × BitVec 32)) (c : BitVec 32 × Nat)
    (pieces : List (Nat × Nat × Nat)) (marks : List Bool) :
    (s.queueFor home t e own c pieces marks).mem = s.mem ∧ (s.queueFor home t e own c pieces marks).poison = s.poison := by
  unfold State.queueFor
  (repeat' split) <;> simp

@[simp] theorem State.queueW_frame (s : State) (home t e : Nat) (pieces : List (Nat × Nat × Nat)) (marks : List Bool) :
    (s.queueW home t e pieces marks).mem = s.mem ∧ (s.queueW home t e pieces marks).poison = s.poison := by
  unfold State.queueW
  simp

@[simp] theorem State.sendSig_frame (s : State) (gang member sem n : Nat) :
    (s.sendSig gang member sem n).mem = s.mem ∧ (s.sendSig gang member sem n).poison = s.poison := by
  unfold State.sendSig
  (repeat' split) <;> simp

@[simp] theorem State.setEvent_frame (s : State) (t slot i : Nat) :
    (s.setEvent t slot i).mem = s.mem ∧ (s.setEvent t slot i).poison = s.poison := by
  unfold State.setEvent
  simp

@[simp] theorem State.setPend_frame (s : State) (t slot i : Nat) :
    (s.setPend t slot i).mem = s.mem ∧ (s.setPend t slot i).poison = s.poison := by
  unfold State.setPend
  simp

@[simp] theorem State.postTrap_frame (s : State) (t slot cause : Nat) (addr : W64) :
    (s.postTrap t slot cause addr).mem = s.mem ∧ (s.postTrap t slot cause addr).poison = s.poison := by
  unfold State.postTrap
  simp

@[simp] theorem State.modTask_frame (s : State) (t : Nat) (m : LCmd) (f : Ctx → Ctx) :
    (s.modTask t m f).mem = s.mem ∧ (s.modTask t m f).poison = s.poison := by
  unfold State.modTask
  (repeat' split) <;> simp

/-! ### Bundle -/

@[simp] theorem State.openBundle_frame (s : State) :
    s.openBundle.mem = s.mem ∧ s.openBundle.poison = s.poison := by
  unfold State.openBundle
  dsimp only
  split <;> simp

@[simp] theorem State.mapWrites_frame (s : State) (t slot : Nat) :
    (s.mapWrites t slot).mem = s.mem ∧ (s.mapWrites t slot).poison = s.poison := by
  unfold State.mapWrites
  (repeat' split) <;> simp

@[simp] theorem State.skipDone_frame (s : State) (i : Instr) :
    (s.skipDone i).mem = s.mem ∧ (s.skipDone i).poison = s.poison := by
  unfold State.skipDone
  (repeat' split) <;> simp

@[simp] theorem State.earlyTrap_frame (s : State) (cause : Nat) :
    (s.earlyTrap cause).mem = s.mem ∧ (s.earlyTrap cause).poison = s.poison := by
  unfold State.earlyTrap
  simp

/-! ### Digest -/

@[simp] theorem State.contribute_frame (s : State) (p a n b : Nat) :
    (s.contribute p a n b).mem = s.mem ∧ (s.contribute p a n b).poison = s.poison := by
  unfold State.contribute
  simp

/-! ### Hbm -/

@[simp] theorem State.dropBlocks_frame (s : State) (l : List Nat) :
    (s.dropBlocks l).mem = s.mem ∧ (s.dropBlocks l).poison = s.poison := by
  unfold State.dropBlocks
  simp

@[simp] theorem State.dropCounters_frame (s : State) (pa : Nat) :
    (s.dropCounters pa).mem = s.mem ∧ (s.dropCounters pa).poison = s.poison := by
  unfold State.dropCounters
  simp

@[simp] theorem State.derate_frame (s : State) (st cause scale : Nat) (on : Bool) :
    (s.derate st cause scale on).mem = s.mem ∧ (s.derate st cause scale on).poison = s.poison := by
  unfold State.derate
  simp

@[simp] theorem State.unquiesce_frame (s : State) (st : Nat) :
    (s.unquiesce st).mem = s.mem ∧ (s.unquiesce st).poison = s.poison := by
  unfold State.unquiesce
  dsimp only
  split <;> simp

@[simp] theorem State.setRatio_frame (s : State) (st ratio : Nat) :
    (s.setRatio st ratio).mem = s.mem ∧ (s.setRatio st ratio).poison = s.poison := by
  unfold State.setRatio
  dsimp only
  split <;> simp

/-! ### Copy -/

@[simp] theorem State.modCopy_frame (s : State) (t e : Nat) (tag : BitVec 32) (f : Copy → Copy) :
    (s.modCopy t e tag f).mem = s.mem ∧ (s.modCopy t e tag f).poison = s.poison := by
  unfold State.modCopy
  simp

@[simp] theorem State.queueAll_frame (s : State) (l : List PortW) :
    (s.queueAll l).mem = s.mem ∧ (s.queueAll l).poison = s.poison := by
  unfold State.queueAll
  simp

@[simp] theorem State.poisonDest_frame (s : State) (t e : Nat) (c : Copy) (off n : Nat) :
    (s.poisonDest t e c off n).mem = s.mem ∧ (s.poisonDest t e c off n).poison = s.poison := by
  unfold State.poisonDest
  refine foldl_frame (fun s x => ?_) _ _
  cases x <;> simp

@[simp] theorem State.modUnit_frame (s : State) (t e uid : Nat) (f : CUnit → CUnit) :
    (s.modUnit t e uid f).mem = s.mem ∧ (s.modUnit t e uid f).poison = s.poison := by
  unfold State.modUnit
  simp

@[simp] theorem State.failUnit_frame (s : State) (t e uid err walk pout : Nat) :
    (s.failUnit t e uid err walk pout).mem = s.mem ∧ (s.failUnit t e uid err walk pout).poison = s.poison := by
  unfold State.failUnit
  simp

@[simp] theorem State.reachUnit_frame (s : State) (t e uid : Nat) (pte : W64) (big : Bool) (pa : Nat) :
    (s.reachUnit t e uid pte big pa).mem = s.mem ∧ (s.reachUnit t e uid pte big pa).poison = s.poison := by
  unfold State.reachUnit
  simp

@[simp] theorem State.lookup_frame (s : State) (t e : Nat) (u : CUnit) :
    (s.lookup t e u).mem = s.mem ∧ (s.lookup t e u).poison = s.poison := by
  unfold State.lookup
  (repeat' split) <;> simp

@[simp] theorem State.nextUid_frame (s : State) (t e : Nat) :
    (s.nextUid t e).mem = s.mem ∧ (s.nextUid t e).poison = s.poison := by
  unfold State.nextUid
  simp

@[simp] theorem State.openStage_frame (s : State) (t e : Nat) (u : CUnit) (img out : Nat) (ls : List (List Nat)) :
    (s.openStage t e u img out ls).mem = s.mem ∧ (s.openStage t e u img out ls).poison = s.poison := by
  cases ls <;> simp [State.openStage]

@[simp] theorem State.markBlocks_frame (s : State) (pa : Nat) :
    (s.markBlocks pa).mem = s.mem ∧ (s.markBlocks pa).poison = s.poison := by
  unfold State.markBlocks
  dsimp only
  (repeat' split) <;> simp

@[simp] theorem State.beginWrite_frame (s : State) (t e : Nat) (u : CUnit) (img : Nat) :
    (s.beginWrite t e u img).mem = s.mem ∧ (s.beginWrite t e u img).poison = s.poison := by
  unfold State.beginWrite
  simp

@[simp] theorem State.dropFetch_frame (s : State) (t e uid : Nat) :
    (s.dropFetch t e uid).mem = s.mem ∧ (s.dropFetch t e uid).poison = s.poison := by
  unfold State.dropFetch
  simp

@[simp] theorem State.lineIn_frame (s : State) (st : Nat) (r : LineReq) (bad : Bool) :
    (s.lineIn st r bad).mem = s.mem ∧ (s.lineIn st r bad).poison = s.poison := by
  unfold State.lineIn
  split
  · simp
  · split
    · dsimp only
      split
      · rw [(State.modUnit_frame ..).1, (State.modUnit_frame ..).2]
        split <;> simp
      · rw [(State.openStage_frame ..).1, (State.openStage_frame ..).2]
        split <;> simp
    · simp

@[simp] theorem State.stallCopy_frame (s : State) (t e : Nat) (c : Copy) (x : Nat × Nat × Bool) :
    (s.stallCopy t e c x).mem = s.mem ∧ (s.stallCopy t e c x).poison = s.poison := by
  unfold State.stallCopy
  simp

@[simp] theorem State.touch_frame (s : State) (t e : Nat) (tag : BitVec 32) :
    (s.touch t e tag).mem = s.mem ∧ (s.touch t e tag).poison = s.poison := by
  unfold State.touch
  simp

@[simp] theorem State.deliverBytes_frame (s : State) (t e : Nat) (c : Copy) (n x : Nat) :
    (s.deliverBytes t e c n x).mem = s.mem ∧ (s.deliverBytes t e c n x).poison = s.poison := by
  unfold State.deliverBytes
  simp

@[simp] theorem State.deliverLate_frame (s : State) (t e : Nat) (c : Copy) (n x : Nat) :
    (s.deliverLate t e c n x).mem = s.mem ∧ (s.deliverLate t e c n x).poison = s.poison := by
  unfold State.deliverLate
  simp

@[simp] theorem State.rotateLeft_frame (s : State) (st : Nat) (r : Rotate) :
    (s.rotateLeft st r).mem = s.mem ∧ (s.rotateLeft st r).poison = s.poison := by
  unfold State.rotateLeft
  dsimp only
  (repeat' split) <;> simp

@[simp] theorem State.dropUnits_frame (s : State) (t e : Nat) (gone : CUnit → Bool) :
    (s.dropUnits t e gone).mem = s.mem ∧ (s.dropUnits t e gone).poison = s.poison := by
  unfold State.dropUnits
  simp

@[simp] theorem State.writeRecord_frame (s : State) (t e : Nat) (c : Copy) :
    (s.writeRecord t e c).mem = s.mem ∧ (s.writeRecord t e c).poison = s.poison := by
  unfold State.writeRecord
  (repeat' split) <;> simp

@[simp] theorem State.keepStopped_frame (s : State) (t e : Nat) (c : Copy) :
    (s.keepStopped t e c).mem = s.mem ∧ (s.keepStopped t e c).poison = s.poison := by
  unfold State.keepStopped
  simp

/-! ### Matrix -/

@[simp] theorem State.acceptMatrix_frame (s : State) (t slot : Nat) (k : MKind) :
    (s.acceptMatrix t slot k).2.mem = s.mem ∧ (s.acceptMatrix t slot k).2.poison = s.poison := by
  unfold State.acceptMatrix
  simp

@[simp] theorem State.modMhead_frame (s : State) (t : Nat) (f : MCmd → MCmd) :
    (s.modMhead t f).mem = s.mem ∧ (s.modMhead t f).poison = s.poison := by
  unfold State.modMhead
  simp

@[simp] theorem State.mstop_frame (s : State) (t : Nat) (m : MCmd) (e : MStop) :
    (s.mstop t m e).mem = s.mem ∧ (s.mstop t m e).poison = s.poison := by
  unfold State.mstop
  (repeat' split) <;> simp

@[simp] theorem State.orMflags_frame (s : State) (t slot : Nat) (f : Flags) :
    (s.orMflags t slot f).mem = s.mem ∧ (s.orMflags t slot f).poison = s.poison := by
  unfold State.orMflags
  simp

/-! ### Link -/

@[simp] theorem State.putFlit_frame (s : State) (p : Nat) (f : Flit) (hurt : Bool) :
    (s.putFlit p f hurt).mem = s.mem ∧ (s.putFlit p f hurt).poison = s.poison := by
  unfold State.putFlit
  simp

@[simp] theorem State.flushN_frame (n : Nat) (s : State) (p : Nat) :
    (State.flushN n s p).mem = s.mem ∧ (State.flushN n s p).poison = s.poison := by
  induction n generalizing s with
  | zero => simp [State.flushN]
  | succ n ih =>
    rw [State.flushN]
    split
    · simp
    · split <;> simp [ih]

@[simp] theorem State.flushPort_frame (s : State) (p : Nat) :
    (s.flushPort p).mem = s.mem ∧ (s.flushPort p).poison = s.poison := by
  unfold State.flushPort
  simp

@[simp] theorem State.sendFlit_frame (s : State) (p dest key lenb : Nat) (body : FlitBody) :
    (s.sendFlit p dest key lenb body).mem = s.mem ∧ (s.sendFlit p dest key lenb body).poison = s.poison := by
  unfold State.sendFlit
  simp

@[simp] theorem State.sendIdle_frame (s : State) (p : Nat) (nak : Bool) :
    (s.sendIdle p nak).mem = s.mem ∧ (s.sendIdle p nak).poison = s.poison := by
  unfold State.sendIdle
  dsimp only
  split <;> simp

@[simp] theorem State.idleAll_frame (s : State) :
    s.idleAll.mem = s.mem ∧ s.idleAll.poison = s.poison := by
  unfold State.idleAll
  simp

@[simp] theorem State.meet_frame (s : State) (t : Nat) (m : LCmd) (len id : Nat) :
    (s.meet t m len id).mem = s.mem ∧ (s.meet t m len id).poison = s.poison := by
  unfold State.meet
  (repeat' split) <;> simp

@[simp] theorem State.takeClear_frame (s : State) (p src key len id : Nat) (run : Option (Nat × Nat)) :
    (s.takeClear p src key len id run).mem = s.mem ∧ (s.takeClear p src key len id run).poison = s.poison := by
  unfold State.takeClear
  (repeat' split) <;> simp

@[simp] theorem State.startLink_frame (s : State) (t : Nat) (m : LCmd) :
    (s.startLink t m).mem = s.mem ∧ (s.startLink t m).poison = s.poison := by
  unfold State.startLink
  dsimp only
  (repeat' split) <;> simp

@[simp] theorem State.downCmds_frame (s : State) (p : Nat) :
    (s.downCmds p).mem = s.mem ∧ (s.downCmds p).poison = s.poison := by
  unfold State.downCmds
  refine And.imp (·.trans (modPort_mem ..)) (·.trans (modPort_poison ..)) (foldl_frame (fun s x => ?_) _ _)
  split <;> simp

@[simp] theorem State.startLinks_frame (s : State) :
    s.startLinks.mem = s.mem ∧ s.startLinks.poison = s.poison := by
  unfold State.startLinks
  simp

@[simp] theorem State.acceptLink_frame (s : State) (m : LCmd) :
    (s.acceptLink m).mem = s.mem ∧ (s.acceptLink m).poison = s.poison := by
  unfold State.acceptLink
  simp

@[simp] theorem State.countRetry_frame (s : State) (x : Option (Nat × LCmd)) :
    (s.countRetry x).mem = s.mem ∧ (s.countRetry x).poison = s.poison := by
  unfold State.countRetry
  (repeat' split) <;> simp

@[simp] theorem State.retrainPort_frame (s : State) (p : Nat) :
    (s.retrainPort p).mem = s.mem ∧ (s.retrainPort p).poison = s.poison := by
  unfold State.retrainPort
  simp

@[simp] theorem State.resend_frame (s : State) (p seq : Nat) :
    (s.resend p seq).mem = s.mem ∧ (s.resend p seq).poison = s.poison := by
  unfold State.resend
  dsimp only
  (repeat' split) <;> simp

@[simp] theorem State.sendNak_frame (s : State) (p n : Nat) :
    (s.sendNak p n).mem = s.mem ∧ (s.sendNak p n).poison = s.poison := by
  unfold State.sendNak
  simp

@[simp] theorem State.failFlit_frame (s : State) (p : Nat) (f : Flit) :
    (s.failFlit p f).mem = s.mem ∧ (s.failFlit p f).poison = s.poison := by
  unfold State.failFlit
  dsimp only
  (repeat' split) <;> simp

@[simp] theorem State.strayFlit_frame (s : State) (p : Nat) (f : Flit) :
    (s.strayFlit p f).mem = s.mem ∧ (s.strayFlit p f).poison = s.poison := by
  unfold State.strayFlit
  dsimp only
  (repeat' split) <;> simp

@[simp] theorem State.takeSeq_frame (s : State) (p : Nat) :
    (s.takeSeq p).mem = s.mem ∧ (s.takeSeq p).poison = s.poison := by
  unfold State.takeSeq
  dsimp only
  split <;> simp

@[simp] theorem State.answerIdle_frame (s : State) (p : Nat) (x : Port) (f : Flit) :
    (s.answerIdle p x f).mem = s.mem ∧ (s.answerIdle p x f).poison = s.poison := by
  unfold State.answerIdle
  (repeat' split) <;> simp

@[simp] theorem State.acceptFlit_frame (s : State) (p : Nat) (f : Flit) :
    (s.acceptFlit p f).mem = s.mem ∧ (s.acceptFlit p f).poison = s.poison := by
  unfold State.acceptFlit
  (repeat' split) <;> simp

@[simp] theorem State.stallLink_frame (s : State) (t : Nat) (m : LCmd) (a : Nat) (w : Bool) :
    (s.stallLink t m a w).mem = s.mem ∧ (s.stallLink t m a w).poison = s.poison := by
  unfold State.stallLink
  dsimp only
  split <;> simp

@[simp] theorem State.linkCount_frame (s : State) (t : Nat) (m : LCmd) (n x : Nat) :
    (s.linkCount t m n x).mem = s.mem ∧ (s.linkCount t m n x).poison = s.poison := by
  unfold State.linkCount
  simp

@[simp] theorem State.sendDone_frame (s : State) (m : LCmd) :
    (s.sendDone m).mem = s.mem ∧ (s.sendDone m).poison = s.poison := by
  unfold State.sendDone
  (repeat' split) <;> simp

@[simp] theorem State.lastCame_frame (s : State) (t : Nat) (m : LCmd) :
    (s.lastCame t m).mem = s.mem ∧ (s.lastCame t m).poison = s.poison := by
  unfold State.lastCame
  dsimp only
  split <;> simp

@[simp] theorem State.abortSend_frame (s : State) (t : Nat) (m : LCmd) (err : Nat) :
    (s.abortSend t m err).mem = s.mem ∧ (s.abortSend t m err).poison = s.poison := by
  unfold State.abortSend
  simp

theorem State.takeRx_frame {s u : State} {p : Nat} {q : Flit → Bool} {f : Flit} (came : s.takeRx p q = some (f, u)) :
    u.mem = s.mem ∧ u.poison = s.poison := by
  unfold State.takeRx at came
  split at came
  · contradiction
  · obtain ⟨g, -, eq⟩ := Option.map_eq_some_iff.mp came
    obtain ⟨-, rfl⟩ := Prod.mk.inj eq
    simp

@[simp] theorem State.noGhost_frame (s : State) (p src key id : Nat) :
    (s.noGhost p src key id).mem = s.mem ∧ (s.noGhost p src key id).poison = s.poison := by
  unfold State.noGhost
  simp

@[simp] theorem State.left1_frame (s : State) (p src key id : Nat) :
    (s.left1 p src key id).mem = s.mem ∧ (s.left1 p src key id).poison = s.poison := by
  unfold State.left1
  (repeat' split) <;> simp

@[simp] theorem State.endReceiver_frame (s : State) (p src key id err : Nat) :
    (s.endReceiver p src key id err).mem = s.mem ∧ (s.endReceiver p src key id err).poison = s.poison := by
  unfold State.endReceiver
  dsimp only
  split <;> simp

@[simp] theorem State.heed_frame (s : State) (port src base epoch rank : Nat) :
    (s.heed port src base epoch rank).mem = s.mem ∧ (s.heed port src base epoch rank).poison = s.poison := by
  unfold State.heed
  dsimp only
  split <;> simp

@[simp] theorem State.answered1_frame (s : State) (src base epoch : Nat) (committed : Bool) :
    (s.answered1 src base epoch committed).mem = s.mem ∧ (s.answered1 src base epoch committed).poison = s.poison := by
  unfold State.answered1
  (repeat' split) <;> simp

@[simp] theorem State.endLink_frame (s : State) (t : Nat) (m : LCmd) :
    (s.endLink t m).mem = s.mem ∧ (s.endLink t m).poison = s.poison := by
  unfold State.endLink
  dsimp only
  split <;> simp

@[simp] theorem State.completeLink_frame (s : State) (t : Nat) (m : LCmd) :
    (s.completeLink t m).mem = s.mem ∧ (s.completeLink t m).poison = s.poison := by
  unfold State.completeLink
  (repeat' split) <;> simp

/-! ### Collective -/

@[simp] theorem State.modSched_frame (s : State) (t age : Nat) (f : Sched → Sched) :
    (s.modSched t age f).mem = s.mem ∧ (s.modSched t age f).poison = s.poison := by
  unfold State.modSched
  simp

@[simp] theorem State.leaveSub_frame (s : State) (y : LCmd) :
    (s.leaveSub y).mem = s.mem ∧ (s.leaveSub y).poison = s.poison := by
  unfold State.leaveSub
  (repeat' split) <;> simp

@[simp] theorem State.dropSubs_frame (s : State) (t : Nat) (m : LCmd) :
    (s.dropSubs t m).mem = s.mem ∧ (s.dropSubs t m).poison = s.poison := by
  unfold State.dropSubs
  simp

@[simp] theorem State.failLink_frame (s : State) (t : Nat) (m : LCmd) (err : Nat) :
    (s.failLink t m err).mem = s.mem ∧ (s.failLink t m err).poison = s.poison := by
  unfold State.failLink
  simp

@[simp] theorem State.stopSched_frame (s : State) (t : Nat) (m : LCmd) (e : CStop) :
    (s.stopSched t m e).mem = s.mem ∧ (s.stopSched t m e).poison = s.poison := by
  unfold State.stopSched
  (repeat' split) <;> simp

@[simp] theorem State.tell_frame (s : State) (x : Nat × Nat) (body : FlitBody) :
    (s.tell x body).mem = s.mem ∧ (s.tell x body).poison = s.poison := by
  unfold State.tell
  dsimp only
  split <;> simp

@[simp] theorem State.tellAll_frame (s : State) (k : Sched) (me : Nat) (but : List Nat) (body : FlitBody) :
    (s.tellAll k me but body).mem = s.mem ∧ (s.tellAll k me but body).poison = s.poison := by
  unfold State.tellAll
  refine foldl_frame (fun s x => ?_) _ _
  split <;> simp

@[simp] theorem State.commitSched_frame (s : State) (t : Nat) (m : LCmd) (k : Sched) :
    (s.commitSched t m k).mem = s.mem ∧ (s.commitSched t m k).poison = s.poison := by
  unfold State.commitSched
  simp

@[simp] theorem State.tryCommit_frame (s : State) (t : Nat) (m : LCmd) :
    (s.tryCommit t m).mem = s.mem ∧ (s.tryCommit t m).poison = s.poison := by
  unfold State.tryCommit
  (repeat' split) <;> simp

@[simp] theorem State.dropEpoch_frame (s : State) (d : BitVec 512) (k : Sched) :
    (s.dropEpoch d k).mem = s.mem ∧ (s.dropEpoch d k).poison = s.poison := by
  unfold State.dropEpoch
  simp

theorem putTable_frame {t : Nat} {m : LCmd} {s u : State} {x : Nat × Nat} (put : putTable t m s x = .ok u) :
    u.mem = s.mem ∧ u.poison = s.poison := by
  unfold putTable at put
  split at put
  · contradiction
  · contradiction
  · obtain rfl := Except.ok.inj put
    simp

@[simp] theorem State.orStop_frame (s : State) (t : Nat) (m : LCmd) (e : CStop) : (s.orStop t m (.error e)).mem = s.mem ∧
    (s.orStop t m (.error e)).poison = s.poison := by
  unfold State.orStop
  simp

theorem State.takeFrom_frame {s u : State} {d : BitVec 512} {k : Sched} {q : FlitBody → Bool} {f : Flit}
    (came : s.takeFrom d k q = some (f, u)) :
    u.mem = s.mem ∧ u.poison = s.poison := by
  obtain ⟨_, _, came⟩ := List.exists_of_findSome?_eq_some came
  exact State.takeRx_frame came

@[simp] theorem State.recommit_frame (s : State) (t tag rank : Nat) :
    (s.recommit t tag rank).mem = s.mem ∧ (s.recommit t tag rank).poison = s.poison := by
  unfold State.recommit
  split
  · simp
  · split
    · simp
    next found =>
      obtain ⟨_, _, came⟩ := List.exists_of_findSome?_eq_some found
      simp [State.takeRx_frame came]

/-! ### Control -/

@[simp] theorem State.take_frame (s : State) (a : W64) :
    (s.take a).mem = s.mem ∧ (s.take a).poison = s.poison := by
  unfold State.take
  simp

/-! ### Csr -/

@[simp] theorem State.csrPut_frame (s : State) (sup : Bool) (x : Nat) (v clr : W64) :
    (s.csrPut sup x v clr).mem = s.mem ∧ (s.csrPut sup x v clr).poison = s.poison := by
  unfold State.csrPut
  (repeat' split) <;> simp

/-! ### Tasks -/

@[simp] theorem State.semEvent_frame (s : State) (t : Nat) :
    (s.semEvent t).mem = s.mem ∧ (s.semEvent t).poison = s.poison := by
  unfold State.semEvent
  simp

@[simp] theorem State.setSem_frame (s : State) (t k n : Nat) :
    (s.setSem t k n).mem = s.mem ∧ (s.setSem t k n).poison = s.poison := by
  unfold State.setSem
  simp

@[simp] theorem State.addSem_frame (s : State) (t k n : Nat) :
    (s.addSem t k n).mem = s.mem ∧ (s.addSem t k n).poison = s.poison := by
  unfold State.addSem
  simp

@[simp] theorem State.settleQueue_frame (s : State) (die : Nat) :
    (s.settleQueue die).mem = s.mem ∧ (s.settleQueue die).poison = s.poison := by
  unfold State.settleQueue
  dsimp only
  (repeat' split) <;> simp

@[simp] theorem State.enqueue_frame (s : State) (die part slot : Nat) (gen : BitVec 32) (p : BitVec 512) (origin : Option
    (Nat × Nat × BitVec 32 × Nat))
    (vf : Option Nat) :
    (s.enqueue die part slot gen p origin vf).1.mem = s.mem ∧ (s.enqueue die part slot gen p origin vf).1.poison = s.poison := by
  unfold State.enqueue
  simp

/-! ### Heap -/

@[simp] theorem State.putHeap_frame (s : State) (die k : Nat) (x : HeapInst) (ev : Bool) :
    (s.putHeap die k x ev).mem = s.mem ∧ (s.putHeap die k x ev).poison = s.poison := by
  unfold State.putHeap
  dsimp only
  split <;> simp

@[simp] theorem State.dropWalks_frame (s : State) (q : Walk → Bool) :
    (s.dropWalks q).mem = s.mem ∧ (s.dropWalks q).poison = s.poison := by
  unfold State.dropWalks
  refine foldl_frame (fun s w => ?_) _ _
  split <;> simp

@[simp] theorem State.tlbInvalidate_frame (s : State) (p : Nat) (va : Option W64) :
    (s.tlbInvalidate p va).mem = s.mem ∧ (s.tlbInvalidate p va).poison = s.poison := by
  unfold State.tlbInvalidate
  simp

/-! ### Gangs -/

@[simp] theorem State.placeMember_frame (s : State) (die : Nat) (j : Job) (inst gang : Nat) (x : Nat × Nat) :
    (s.placeMember die j inst gang x).1.mem = s.mem ∧ (s.placeMember die j inst gang x).1.poison = s.poison := by
  unfold State.placeMember
  simp

@[simp] theorem State.placeMembers_frame (s : State) (die : Nat) (j : Job) (inst gang : Nat) (xs : List (Nat × Nat)) :
    (s.placeMembers die j inst gang xs).1.mem = s.mem ∧ (s.placeMembers die j inst gang xs).1.poison = s.poison := by
  induction xs generalizing s with
  | nil => simp [State.placeMembers]
  | cons x r ih => simp [State.placeMembers, ih]

@[simp] theorem State.dispatch_frame (s : State) (die : Nat) (j : Job) (ts : List Nat) :
    (s.dispatch die j ts).mem = s.mem ∧ (s.dispatch die j ts).poison = s.poison := by
  unfold State.dispatch
  simp

@[simp] theorem State.performTarget_frame (s : State) (j : Job) :
    (s.performTarget j).mem = s.mem ∧ (s.performTarget j).poison = s.poison := by
  unfold State.performTarget
  (repeat' split) <;> simp

@[simp] theorem State.endJob_frame (s : State) (h : W64) (refused faulted quiet : Bool) :
    (s.endJob h refused faulted quiet).mem = s.mem ∧ (s.endJob h refused faulted quiet).poison = s.poison := by
  unfold State.endJob
  (repeat' split) <;> simp

@[simp] theorem State.recordCopies_frame (s : State) (t e slot : Nat) :
    (s.recordCopies t e slot).mem = s.mem ∧ (s.recordCopies t e slot).poison = s.poison := by
  unfold State.recordCopies
  simp

@[simp] theorem State.evict_frame (s : State) (t slot : Nat) :
    (s.evict t slot).mem = s.mem ∧ (s.evict t slot).poison = s.poison := by
  unfold State.evict
  simp

@[simp] theorem State.dropParams_frame (s : State) (t : Nat) :
    (s.dropParams t).mem = s.mem ∧ (s.dropParams t).poison = s.poison := by
  unfold State.dropParams
  simp

@[simp] theorem State.setFilled_frame (s : State) (t slot : Nat) :
    (s.setFilled t slot).mem = s.mem ∧ (s.setFilled t slot).poison = s.poison := by
  unfold State.setFilled
  simp

@[simp] theorem State.addPlate_frame (s : State) (t slot base img : Nat) :
    (s.addPlate t slot base img).mem = s.mem ∧ (s.addPlate t slot base img).poison = s.poison := by
  unfold State.addPlate
  simp

/-! ### Local -/

@[simp] theorem gatherStart_frame (s : State) (f : FLx) :
    (gatherStart s f).mem = s.mem ∧ (gatherStart s f).poison = s.poison := by
  unfold gatherStart
  simp

/-! ### Issue -/

@[simp] theorem State.atIssue_frame (s : State) (t slot : Nat) (c : Ctx) (ws : List Instr) :
    (s.atIssue t slot c ws).mem = s.mem ∧ (s.atIssue t slot c ws).poison = s.poison := by
  unfold State.atIssue
  simp

/-! ### Preempt -/

@[simp] theorem State.requestPreempt_frame (s : State) (id : Nat) :
    (s.requestPreempt id).mem = s.mem ∧ (s.requestPreempt id).poison = s.poison := by
  unfold State.requestPreempt
  split
  · simp
  · refine foldl_frame (fun s m => ?_) _ _
    split <;> simp

@[simp] theorem State.modMember_frame (s : State) (t slot : Nat) (f : Member → Member) :
    (s.modMember t slot f).mem = s.mem ∧ (s.modMember t slot f).poison = s.poison := by
  unfold State.modMember
  simp

@[simp] theorem State.detachWrites_frame (s : State) (t e : Nat) (us : List CUnit) :
    (s.detachWrites t e us).mem = s.mem ∧ (s.detachWrites t e us).poison = s.poison := by
  induction us generalizing s with
  | nil => simp [State.detachWrites]
  | cons u r ih =>
    rw [State.detachWrites]
    split
    · exact ih s
    · split <;> simp [ih]

@[simp] theorem State.drainEngine_frame (s : State) (t slot e : Nat) :
    (s.drainEngine t slot e).mem = s.mem ∧ (s.drainEngine t slot e).poison = s.poison := by
  unfold State.drainEngine
  simp

@[simp] theorem State.acceptCopies_frame (s : State) (t slot e key : Nat) (cs : List (Nat × Copy)) :
    (s.acceptCopies t slot e key cs).mem = s.mem ∧ (s.acceptCopies t slot e key cs).poison = s.poison := by
  induction cs generalizing s key with
  | nil => simp [State.acceptCopies]
  | cons c r ih => simp [State.acceptCopies, ih]

/-! ### Margin -/

@[simp] theorem State.settleRails_frame (s : State) :
    s.settleRails.mem = s.mem ∧ s.settleRails.poison = s.poison := by
  unfold State.settleRails
  simp

@[simp] theorem State.setVtgt_frame (s : State) (t mv : Nat) (f : Margin → Margin) :
    (s.setVtgt t mv f).mem = s.mem ∧ (s.setVtgt t mv f).poison = s.poison := by
  unfold State.setVtgt
  simp

@[simp] theorem State.fenceTile_frame (s : State) (t code : Nat) :
    (s.fenceTile t code).mem = s.mem ∧ (s.fenceTile t code).poison = s.poison := by
  unfold State.fenceTile
  simp

@[simp] theorem State.injectIssue_frame (s : State) (t slot : Nat) :
    (s.injectIssue t slot).2.mem = s.mem ∧ (s.injectIssue t slot).2.poison = s.poison := by
  unfold State.injectIssue
  split <;> simp

@[simp] theorem State.engDetect_frame (s : State) (t : Nat) (e : EngOp) :
    (s.engDetect t e).mem = s.mem ∧ (s.engDetect t e).poison = s.poison := by
  unfold State.engDetect
  (repeat' split) <;> simp

@[simp] theorem State.putVmin_frame (s : State) (die r mv : Nat) :
    (s.putVmin die r mv).mem = s.mem ∧ (s.putVmin die r mv).poison = s.poison := by
  unfold State.putVmin
  (repeat' split) <;> simp

@[simp] theorem State.loadLfsr_frame (s : State) (die : Nat) :
    (s.loadLfsr die).mem = s.mem ∧ (s.loadLfsr die).poison = s.poison := by
  unfold State.loadLfsr
  simp

@[simp] theorem State.writeInjCtl_frame (s : State) (die : Nat) (v : W64) :
    (s.writeInjCtl die v).mem = s.mem ∧ (s.writeInjCtl die v).poison = s.poison := by
  unfold State.writeInjCtl
  dsimp only
  split <;> simp

/-! ### Twin -/

@[simp] theorem State.modTwin_frame (s : State) (p : Nat) (f : Twin → Twin) :
    (s.modTwin p f).mem = s.mem ∧ (s.modTwin p f).poison = s.poison := by
  unfold State.modTwin
  simp

theorem State.sendTwin_frame {s u : State} {body : FlitBody} (sent : s.sendTwin body = some u) : u.mem = s.mem ∧
    u.poison = s.poison := by
  unfold State.sendTwin at sent
  split at sent
  · contradiction
  · obtain rfl := Option.some.inj sent
    simp

@[simp] theorem State.releaseMsg_frame (s : State) (m : Nat × BitVec 512) :
    (s.releaseMsg m).mem = s.mem ∧ (s.releaseMsg m).poison = s.poison := by
  unfold State.releaseMsg
  (repeat' split) <;> simp

@[simp] theorem State.haltPart_frame (s : State) (p : Nat) :
    (s.haltPart p).mem = s.mem ∧ (s.haltPart p).poison = s.poison := by
  have stopped (s : State) (t : Nat) :
      let u := if (s.tileAt t).partid = some p then
        (List.range 8).foldl (fun s k => if (s.ctx? t k).isSome then s.stopCtx t k else s) s else s
      u.mem = s.mem ∧ u.poison = s.poison := by
    dsimp only
    split
    · exact foldl_frame (fun s k => by split <;> simp) _ _
    · simp
  unfold State.haltPart
  dsimp only
  rw [(foldl_frame stopped _ _).1, (foldl_frame stopped _ _).2]
  simp

@[simp] theorem State.haltEvent_frame (s : State) (code p data : Nat) :
    (s.haltEvent code p data).mem = s.mem ∧ (s.haltEvent code p data).poison = s.poison := by
  unfold State.haltEvent
  simp

@[simp] theorem State.compareTwin_frame (s : State) (p : Nat) :
    (s.compareTwin p).mem = s.mem ∧ (s.compareTwin p).poison = s.poison := by
  unfold State.compareTwin
  (repeat' split) <;> simp

theorem State.takeTwin_frame {s u : State} {q : Flit → Bool} {f : Flit} (came : s.takeTwin q = some (f,
  u)) : u.mem = s.mem ∧ u.poison = s.poison := by
  obtain ⟨_, _, came⟩ := List.exists_of_findSome?_eq_some came
  split at came
  · exact State.takeRx_frame came
  · contradiction

/-! ### Manage -/

@[simp] theorem State.dropTraffic_frame (s : State) (p : Nat) :
    (s.dropTraffic p).mem = s.mem ∧ (s.dropTraffic p).poison = s.poison := by
  unfold State.dropTraffic
  simp

@[simp] theorem State.stopMember_frame (s : State) (m : Member) :
    (s.stopMember m).mem = s.mem ∧ (s.stopMember m).poison = s.poison := by
  unfold State.stopMember
  (repeat' split) <;> simp

@[simp] theorem State.beginTeardown_frame (s : State) (ag : Agent) (p : Nat) :
    (s.beginTeardown ag p).mem = s.mem ∧ (s.beginTeardown ag p).poison = s.poison := by
  unfold State.beginTeardown
  simp

@[simp] theorem State.rotateWithout_frame (s : State) (st span : Nat) :
    (s.rotateWithout st span).mem = s.mem ∧ (s.rotateWithout st span).poison = s.poison := by
  unfold State.rotateWithout
  (repeat' split) <;> simp

@[simp] theorem State.writeSctl_frame (s : State) (st : Nat) (v : BitVec 64) :
    (s.writeSctl st v).mem = s.mem ∧ (s.writeSctl st v).poison = s.poison := by
  unfold State.writeSctl
  dsimp only
  (repeat' split) <;> simp

@[simp] theorem State.complete_frame (s : State) (fn : Option Nat) (off : Nat) (data : Option Nat) :
    (s.complete fn off data).mem = s.mem ∧ (s.complete fn off data).poison = s.poison := by
  unfold State.complete
  simp

/-! ### Start -/

@[simp] theorem State.flushAlmanac_frame (s : State) :
    s.flushAlmanac.mem = s.mem ∧ s.flushAlmanac.poison = s.poison := by
  unfold State.flushAlmanac
  simp

/-! ### Window -/

@[simp] theorem State.takeImage_frame (s : State) (host : Bool) (img : FwImage) :
    (s.takeImage host img).mem = s.mem ∧ (s.takeImage host img).poison = s.poison := by
  unfold State.takeImage
  (repeat' split) <;> simp

/-! ### Debug -/

@[simp] theorem State.debugAnswer_frame (s : State) (x : Option Nat) :
    (s.debugAnswer x).mem = s.mem ∧ (s.debugAnswer x).poison = s.poison := by
  unfold State.debugAnswer
  simp

/-! ### Moves -/

@[simp] theorem State.hurtLine_frame (s : State) (x : Option (Nat × Nat × Bool)) : (s.hurtLine x).mem = s.mem ∧
    (s.hurtLine x).poison = s.poison := by
  unfold State.hurtLine
  split <;> simp

@[simp] theorem State.hurtDw_frame (s : State) (x : Option (Nat × Nat)) : (s.hurtDw x).mem = s.mem ∧
    (s.hurtDw x).poison = s.poison := by
  unfold State.hurtDw
  split <;> simp

@[simp] theorem State.errors_frame (s : State) :
    s.errors.mem = s.mem ∧ s.errors.poison = s.poison := by
  unfold State.errors
  split <;> simp

@[simp] theorem State.tick_frame (s : State) :
    s.tick.mem = s.mem ∧ s.tick.poison = s.poison := by
  unfold State.tick
  simp

@[simp] theorem State.tickTile_frame (s : State) (t : Nat) :
    (s.tickTile t).mem = s.mem ∧ (s.tickTile t).poison = s.poison := by
  unfold State.tickTile
  simp

@[simp] theorem State.takeTurn_frame (s : State) (t slot : Nat) :
    (s.takeTurn t slot).mem = s.mem ∧ (s.takeTurn t slot).poison = s.poison := by
  unfold State.takeTurn
  simp

@[simp] theorem State.begin_frame (s : State) (t slot : Nat) (ws : List Instr) :
    (s.begin t slot ws).mem = s.mem ∧ (s.begin t slot ws).poison = s.poison := by
  unfold State.begin
  simp

end Sys2Proof.Machine
end

section
/-! SUPPORT. The functions of the stacks, the Burins and their counter unit that leave the memories as they are. -/

namespace Sys2Proof.Machine

@[simp] theorem State.credit_frame (s : State) (t slot : Nat) (commits : Bool) :
    (s.credit t slot commits).mem = s.mem ∧ (s.credit t slot commits).poison = s.poison := by
  unfold State.credit
  simp

@[simp] theorem State.learn_frame (s : State) (t e p va : Nat) (pte : W64) (big : Bool) (seen : List (Nat × W64)) :
    (s.learn t e p va pte big seen).mem = s.mem ∧ (s.learn t e p va pte big seen).poison = s.poison := by
  unfold State.learn
  simp

@[simp] theorem State.beginRotation_frame (s : State) (st pc : Nat) (wr : Bool) :
    (s.beginRotation st pc wr).mem = s.mem ∧ (s.beginRotation st pc wr).poison = s.poison := by
  unfold State.beginRotation
  simp

@[simp] theorem State.passSlot_frame (s : State) (st pc : Nat) (wr : Bool) (f : Fate) :
    (s.passSlot st pc wr f).mem = s.mem ∧ (s.passSlot st pc wr f).poison = s.poison := by
  unfold State.passSlot
  dsimp only
  split <;> simp

@[simp] theorem State.passIdle_frame (s : State) (st pc : Nat) (wr : Bool) (n : Nat) :
    (s.passIdle st pc wr n).mem = s.mem ∧ (s.passIdle st pc wr n).poison = s.poison := by
  induction n generalizing s with
  | zero => simp [State.passIdle]
  | succ n ih => simp [State.passIdle, ih]

theorem State.toSlot_frame {s u : State} {st pc slot : Nat} {wr : Bool} (eq : s.toSlot st pc slot wr = some u) :
    u.mem = s.mem ∧ u.poison = s.poison := by
  unfold State.toSlot at eq
  dsimp only at eq
  split at eq
  · obtain rfl := Option.some.inj eq
    simp
  · split at eq
    · obtain rfl := Option.some.inj eq
      simp
    · contradiction

@[simp] theorem State.fillSlot_frame (s : State) (st pc slot : Nat) (wr : Bool) (hint : Nat) (x : Nat × Bool × Bool × Option Nat) :
    (s.fillSlot st pc slot wr hint x).1.mem = s.mem ∧ (s.fillSlot st pc slot wr hint x).1.poison = s.poison := by
  unfold State.fillSlot
  dsimp only
  (repeat' split) <;> simp

@[simp] theorem State.restartCals_frame (s : State) (st : Nat) :
    (s.restartCals st).mem = s.mem ∧ (s.restartCals st).poison = s.poison := by
  unfold State.restartCals
  simp

@[simp] theorem State.issueUnit_frame (s : State) (t e : Nat) :
    (s.issueUnit t e).mem = s.mem ∧ (s.issueUnit t e).poison = s.poison := by
  unfold State.issueUnit
  dsimp only
  (repeat' split) <;> simp

theorem State.grantUnit_frame {s v : State} {t e : Nat} {u : CUnit} (eq : s.grantUnit t e u = some v) :
    v.mem = s.mem ∧ v.poison = s.poison := by
  unfold State.grantUnit at eq
  dsimp only at eq
  split at eq
  · obtain rfl := Option.some.inj eq
    simp
  · split at eq
    · obtain rfl := Option.some.inj eq
      simp
    · split at eq
      · contradiction
      · split at eq
        · obtain rfl := Option.some.inj eq
          simp
        · obtain rfl := Option.some.inj eq
          rw [(State.openStage_frame ..).1, (State.openStage_frame ..).2, (State.modUnit_frame ..).1, (State.modUnit_frame ..).2]
          split <;> simp

@[simp] theorem State.resealItem_frame (s : State) (st : Nat) (r : Reseal) :
    (s.resealItem st r).mem = s.mem ∧ (s.resealItem st r).poison = s.poison := by
  unfold State.resealItem
  simp

@[simp] theorem State.beginReseal_frame (s : State) (t e : Nat) (u : CUnit) (level : Nat) :
    (s.beginReseal t e u level).mem = s.mem ∧ (s.beginReseal t e u level).poison = s.poison := by
  unfold State.beginReseal
  simp

@[simp] theorem State.sealWrite_frame (s : State) (t e : Nat) (u : CUnit) (img : Nat) :
    (s.sealWrite t e u img).mem = s.mem ∧ (s.sealWrite t e u img).poison = s.poison := by
  unfold State.sealWrite
  simp

theorem State.putWrite_frame {s v : State} {t e : Nat} {u : CUnit} {img : Nat} (eq : s.putWrite t e u img = some v) :
    v.mem = s.mem ∧ v.poison = s.poison := by
  unfold State.putWrite at eq
  dsimp only at eq
  split at eq
  · obtain rfl := Option.some.inj eq
    simp
  · split at eq
    · contradiction
    · split at eq
      · obtain rfl := Option.some.inj eq
        split <;> simp
      · split at eq
        · contradiction
        · split at eq <;> obtain rfl := Option.some.inj eq <;> simp

theorem State.answerUnit_frame {s v : State} {t e : Nat} {u : CUnit} (eq : s.answerUnit t e u = some v) :
    v.mem = s.mem ∧ v.poison = s.poison := by
  unfold State.answerUnit at eq
  split at eq
  · exact State.putWrite_frame eq
  · exact State.grantUnit_frame eq

@[simp] theorem State.grants_frame (s : State) (n : Nat) : (s.grants n).mem = s.mem ∧ (s.grants n).poison = s.poison := by
  induction n generalizing s with
  | zero => simp [State.grants]
  | succ n ih =>
    rw [State.grants]
    split
    · simp
    next found =>
      obtain ⟨x, -, answered⟩ := List.exists_of_findSome?_eq_some found
      rw [(ih _).1, (ih _).2]
      exact State.answerUnit_frame answered

@[simp] theorem State.grantAll_frame (s : State) : s.grantAll.mem = s.mem ∧ s.grantAll.poison = s.poison := by
  unfold State.grantAll
  simp

@[simp] theorem State.issues_frame (s : State) (t e n : Nat) :
    (s.issues t e n).mem = s.mem ∧ (s.issues t e n).poison = s.poison := by
  induction n generalizing s with
  | zero => simp [State.issues]
  | succ n ih => simp [State.issues, ih]

@[simp] theorem State.pump_frame (s : State) (t e : Nat) : (s.pump t e).mem = s.mem ∧ (s.pump t e).poison = s.poison := by
  unfold State.pump
  simp

@[simp] theorem State.pumpAll_frame (s : State) : s.pumpAll.mem = s.mem ∧ s.pumpAll.poison = s.poison := by
  have asked (s : State) (x : Tile × Nat) :
      let u := (x.1.burin.zipIdx).foldl (fun s b => if b.1.q.isEmpty then s else s.issues x.2 b.2 16) s
      u.mem = s.mem ∧ u.poison = s.poison :=
    foldl_frame (fun s b => by split <;> simp) _ _
  unfold State.pumpAll
  rw [(State.grantAll_frame _).1, (State.grantAll_frame _).2]
  exact foldl_frame asked _ _

@[simp] theorem State.startFetch_frame (s : State) (t : Nat) (kind : FillKind) (va acc len : Nat) :
    (s.startFetch t kind va acc len).mem = s.mem ∧ (s.startFetch t kind va acc len).poison = s.poison := by
  unfold State.startFetch
  simp

@[simp] theorem State.walkOne_frame (s0 s : State) (w : Walk) (bad : Bool) (t e : Nat) (u : CUnit) :
    (State.walkOne s0 s w bad t e u).mem = s.mem ∧ (State.walkOne s0 s w bad t e u).poison = s.poison := by
  unfold State.walkOne
  (repeat' split) <;> simp

@[simp] theorem State.endWalk_frame (s : State) (w : Walk) (bad : Bool) :
    (s.endWalk w bad).mem = s.mem ∧ (s.endWalk w bad).poison = s.poison := by
  unfold State.endWalk
  dsimp only
  rw [(State.pumpAll_frame _).1, (State.pumpAll_frame _).2]
  refine foldl_frame (fun q x => ?_) _ _
  split
  · exact foldl_frame (fun q u => State.walkOne_frame ..) _ _
  · simp

@[simp] theorem State.readTable_frame (s : State) (w : Walk) (key pa : Nat) :
    (s.readTable w key pa).mem = s.mem ∧ (s.readTable w key pa).poison = s.poison := by
  unfold State.readTable
  simp

@[simp] theorem State.walkOn_frame (s : State) (w : Walk) :
    (s.walkOn w).mem = s.mem ∧ (s.walkOn w).poison = s.poison := by
  unfold State.walkOn
  dsimp only
  split <;> simp

@[simp] theorem State.resealLine_frame (s : State) (st : Nat) (q : LineReq) (bad : Bool) :
    (s.resealLine st q bad).mem = s.mem ∧ (s.resealLine st q bad).poison = s.poison := by
  unfold State.resealLine
  dsimp only
  (repeat' split) <;> simp

@[simp] theorem State.askWrite_frame (s : State) (t e uid img : Nat) :
    (s.askWrite t e uid img).mem = s.mem ∧ (s.askWrite t e uid img).poison = s.poison := by
  unfold State.askWrite
  simp

@[simp] theorem State.retireUnit_frame (s : State) (t e : Nat) (u : CUnit) :
    (s.retireUnit t e u).mem = s.mem ∧ (s.retireUnit t e u).poison = s.poison := by
  unfold State.retireUnit
  simp

@[simp] theorem State.failCopy_frame (s : State) (t e : Nat) (c : Copy) (u : CUnit) (err walk pout : Nat) :
    (s.failCopy t e c u err walk pout).mem = s.mem ∧ (s.failCopy t e c u err walk pout).poison = s.poison := by
  unfold State.failCopy
  dsimp only
  split <;> simp

@[simp] theorem State.stallUnit_frame (s : State) (t e : Nat) (c : Copy) (x : Nat × Nat × Bool) :
    (s.stallUnit t e c x).mem = s.mem ∧ (s.stallUnit t e c x).poison = s.poison := by
  unfold State.stallUnit
  dsimp only
  split <;> simp

@[simp] theorem State.failChunk_frame (s : State) (t e : Nat) (c : Copy) (u : CUnit) (img err : Nat) :
    (s.failChunk t e c u img err).mem = s.mem ∧ (s.failChunk t e c u img err).poison = s.poison := by
  unfold State.failChunk
  simp

@[simp] theorem State.retireFailed_frame (s : State) (t e : Nat) (c : Copy) (u : CUnit) (err walk pout : Nat) :
    (s.retireFailed t e c u err walk pout).mem = s.mem ∧ (s.retireFailed t e c u err walk pout).poison = s.poison := by
  unfold State.retireFailed
  (repeat' split) <;> simp

@[simp] theorem State.endCopy_frame (s : State) (t e : Nat) (c : Copy) (st : Nat) (bad : Bool) :
    (s.endCopy t e c st bad).mem = s.mem ∧ (s.endCopy t e c st bad).poison = s.poison := by
  unfold State.endCopy
  dsimp only
  (repeat' split) <;> simp

@[simp] theorem State.postStep_frame (s : State) (t : Nat) (m : LCmd) (k : Sched) (me : Nat) :
    (s.postStep t m k me).mem = s.mem ∧ (s.postStep t m k me).poison = s.poison := by
  unfold State.postStep
  simp

@[simp] theorem State.stopGang_frame (s : State) (id : Nat) :
    (s.stopGang id).mem = s.mem ∧ (s.stopGang id).poison = s.poison := by
  unfold State.stopGang
  split
  · simp
  · rw [(State.pumpAll_frame _).1, (State.pumpAll_frame _).2]
    refine foldl_frame (fun q m => ?_) _ _
    rw [modTile_mem, modTile_poison, (State.dropParams_frame ..).1, (State.dropParams_frame ..).2]
    split <;> simp

@[simp] theorem State.faultGangs_frame (s : State) (gs : List Gang) :
    (s.faultGangs gs).mem = s.mem ∧ (s.faultGangs gs).poison = s.poison := by
  unfold State.faultGangs
  simp

@[simp] theorem State.marginFault_frame (s : State) (t addr : Nat) :
    (s.marginFault t addr).mem = s.mem ∧ (s.marginFault t addr).poison = s.poison := by
  unfold State.marginFault
  simp

@[simp] theorem State.detect_frame (s : State) (t slot inj : Nat) :
    (s.detect t slot inj).mem = s.mem ∧ (s.detect t slot inj).poison = s.poison := by
  unfold State.detect
  dsimp only
  (repeat' split) <;> simp

@[simp] theorem State.endTeardown_frame (s : State) (p : Nat) :
    (s.endTeardown p).mem = s.mem ∧ (s.endTeardown p).poison = s.poison := by
  unfold State.endTeardown
  dsimp only
  split
  · simp
  · split <;> simp

end Sys2Proof.Machine
end

section
/-! SUPPORT. What every operation of the model does to the canonical form of the memories: one rule per function, from the
stores up to the step. -/

namespace Sys2Proof.Machine

/-- The bytes and the poison marks of a state that meets its invariant (R234, R237): each address once, the marks rising. -/
def Canon (m : List Host.Cell) (p : List Nat) : Prop := Memory.wf m = true ∧ p.Pairwise (· < ·)

theorem inv_iff_canon (s : State) : s.inv ↔ Canon s.mem s.poison := Iff.rfl

section
variable {s : State} (h : Canon s.mem s.poison)
include h

@[simp] theorem wr_canon (k n x : Nat) : Canon (s.wr k n x).mem s.poison := State.wr_inv k n x h

@[simp] theorem mark_canon (k : Nat) (p : Bool) : Canon s.mem (s.mark k p).poison := State.mark_inv k p h

@[simp] theorem store_canon (k n x : Nat) (p : Bool) : Canon (s.store k n x p).mem (s.store k n x p).poison :=
    State.store_inv k n x p h

@[simp] theorem storeDws_canon (k n x m : Nat) : Canon (s.storeDws k n x m).mem (s.storeDws k n x m).poison :=
    State.storeDws_inv k n x m h

@[simp] theorem storeAll_canon (l : List (Nat × Nat × Nat)) (ps : List Bool) : Canon (s.storeAll l ps).mem (s.storeAll l ps).poison :=
  State.storeAll_inv l ps h

@[simp] theorem sramReads_canon (l : List Nat) : Canon (s.sramReads l).1.mem (s.sramReads l).1.poison := (State.sramReads_inv l h).1

@[simp] theorem sramReads_canon_after (l : List Nat) : Canon (s.sramReads l).2.mem (s.sramReads l).2.poison :=
    (State.sramReads_inv l h).2

@[simp] theorem takeRead_canon (v : State) (l : List Nat) : Canon (s.takeRead v l).mem (s.takeRead v l).poison :=
    State.takeRead_inv l h

@[simp] theorem applyAs_canon (v : State) (home : Nat) (a : MemAct) :
    Canon (s.applyAs v home a).1.mem (s.applyAs v home a).1.poison := State.applyAs_inv home a h

@[simp] theorem apply_canon (home : Nat) (a : MemAct) : Canon (s.apply home a).1.mem (s.apply home a).1.poison :=
    State.apply_inv home a h

@[simp] theorem issueAct_canon (l : Loc) (cls : BitVec 4) (a : MemAct) (dst : MemDst) (latch : Bool) :
    Canon (s.issueAct l cls a dst latch).mem (s.issueAct l cls a dst latch).poison := State.issueAct_inv l cls a dst latch h

end

@[simp] theorem canon_ite {c : Prop} [Decidable c] (a b : State) : Canon (if c then a else b).mem (if c then a else b).poison ↔
    if c then Canon a.mem a.poison else Canon b.mem b.poison := by
  split <;> rfl

/-- A fold of steps that keep the canonical form keeps it. -/
theorem foldl_canon {α : Type} {g : State → α → State} (keeps : ∀ s x, Canon s.mem s.poison → Canon (g s x).mem (g s x).poison)
    (l : List α) {s : State} (h : Canon s.mem s.poison) : Canon (l.foldl g s).mem (l.foldl g s).poison := by
  induction l generalizing s with
  | nil => exact h
  | cons x r ih => exact ih (keeps s x h)

/-- What a word answers holds a state whose memories are in canonical form. -/
def WordRes.canon : WordRes → Prop
  | .ok s => Canon s.mem s.poison
  | .trap _ _ s => Canon s.mem s.poison
  | .brk _ _ s => Canon s.mem s.poison
  | .wait _ s => Canon s.mem s.poison
  | .ends s => Canon s.mem s.poison
  | .hold => True

section
variable (s : State)

@[simp] theorem WordRes.canon_ok : (WordRes.ok s).canon ↔ Canon s.mem s.poison := Iff.rfl
@[simp] theorem WordRes.canon_trap (c a : Nat) : (WordRes.trap c a s).canon ↔ Canon s.mem s.poison := Iff.rfl
@[simp] theorem WordRes.canon_brk (c a : Nat) : (WordRes.brk c a s).canon ↔ Canon s.mem s.poison := Iff.rfl
@[simp] theorem WordRes.canon_wait (k : WaitKind) : (WordRes.wait k s).canon ↔ Canon s.mem s.poison := Iff.rfl
@[simp] theorem WordRes.canon_ends : (WordRes.ends s).canon ↔ Canon s.mem s.poison := Iff.rfl
@[simp] theorem WordRes.canon_hold : WordRes.hold.canon := trivial

end

@[simp] theorem WordRes.canon_ite {c : Prop} [Decidable c] (a b : WordRes) :
    (if c then a else b).canon ↔ if c then a.canon else b.canon := by
  split <;> rfl

/-- An outcome of `s` is a next state, in canonical form where `s` is. -/
def KeepsCanon (s : State) (o : Host.Outcome State Fault Refusal) : Prop :=
  ∃ u, o = .next u ∧ (Canon s.mem s.poison → Canon u.mem u.poison)

theorem keepsCanon_next {s u : State} (keeps : Canon s.mem s.poison → Canon u.mem u.poison) : KeepsCanon s (.next u) :=
  ⟨u, rfl, keeps⟩

/-- What a function hands on beside its result, once its outcome is known. -/
theorem canon_of_eq {α : Type} {p : α × State} {x : α} {u : State} (eq : p = (x, u)) (good : Canon p.2.mem p.2.poison) :
    Canon u.mem u.poison := by
  rw [eq] at good
  exact good

/-- Cells dropped from a canonical memory leave one. -/
theorem canon_filter {m : List Host.Cell} {p : List Nat} (good : Canon m p) (q : Host.Cell → Bool) : Canon (m.filter q) p := by
  obtain ⟨wf, marks⟩ := good
  obtain ⟨sorted, nonzero⟩ := (Memory.wf_iff m).mp wf
  exact ⟨(Memory.wf_iff _).mpr ⟨sorted.filter q, fun c member => nonzero c (List.mem_of_mem_filter member)⟩, marks⟩

theorem canon_fst_of_eq {α : Type} {p : State × α} {x : α} {u : State} (eq : p = (u, x)) (good : Canon p.1.mem p.1.poison) :
    Canon u.mem u.poison := by
  rw [eq] at good
  exact good

theorem except_map_ok {ε α β : Type} {f : α → β} {r : Except ε α} {y : β} (eq : r.map f = .ok y) : ∃ x, r = .ok x ∧ f x = y := by
  cases r with
  | error e => contradiction
  | ok x => exact ⟨x, rfl, Except.ok.inj eq⟩

/-- The entries of a membership table that a restart writes leave the memories as they are: they are queued. -/
theorem putTables_frame {t : Nat} {m : LCmd} {l : List (Nat × Nat)} {s u : State} (eq : l.foldlM (putTable t m) s = .ok u) :
    u.mem = s.mem ∧ u.poison = s.poison := by
  induction l generalizing s with
  | nil =>
    obtain rfl := Except.ok.inj eq
    exact ⟨rfl, rfl⟩
  | cons x r ih =>
    rw [List.foldlM_cons] at eq
    cases put : putTable t m s x with
    | error e =>
      rw [put] at eq
      contradiction
    | ok v =>
      rw [put] at eq
      obtain ⟨mem, poison⟩ := ih eq
      rw [mem, poison]
      exact putTable_frame put

end Sys2Proof.Machine
end

section
/-! SUPPORT. Every function of the model that writes the memories keeps their canonical form, and so does every instruction. -/

namespace Sys2Proof.Machine

/-! ### Ops -/

@[simp] theorem State.writeFront_canon {s : State} (t slot off : Nat) (f : Front) (good : Canon s.mem s.poison) :
    Canon (State.writeFront s t slot off f).mem (State.writeFront s t slot off f).poison := by
  unfold State.writeFront
  simp [good]

@[simp] theorem State.takeTrap_canon {s : State} (t slot : Nat) (tr : Trap) (done : Nat) (npc : Option W64) (lmask : BitVec 64)
    (snap : Snap) (good : Canon s.mem s.poison) :
    Canon (State.takeTrap s t slot tr done npc lmask snap).mem (State.takeTrap s t slot tr done npc lmask snap).poison := by
  unfold State.takeTrap
  simp [good]

@[simp] theorem State.returnFrom_canon {s : State} (v : State) (t slot : Nat) (good : Canon s.mem s.poison) :
    Canon (s.returnFrom v t slot).mem (s.returnFrom v t slot).poison := by
  unfold State.returnFrom
  dsimp only
  split
  · simp [good]
  · split
    · simp [good]
    · exact wr_canon (by simp [good]) ..

@[simp] theorem State.returnTrap_canon {s : State} (t slot : Nat) (good : Canon s.mem s.poison) :
    Canon (State.returnTrap s t slot).mem (State.returnTrap s t slot).poison := by
  unfold State.returnTrap
  simp [good]

/-! ### Access -/

@[simp] theorem State.issueLane_canon {s : State} (l : Loc) (cls : BitVec 4) (a : MemAct) (dst : MemDst) (latch : Bool)
    (good : Canon s.mem s.poison) :
    Canon (State.issueLane s l cls a dst latch).mem (State.issueLane s l cls a dst latch).poison := by
  unfold State.issueLane
  simp [good]

/-! ### Orrery -/

@[simp] theorem State.suspendTask_canon {s : State} (t slot key addr : Nat) (pc : W64) (good : Canon s.mem s.poison) :
    Canon (State.suspendTask s t slot key addr pc).mem (State.suspendTask s t slot key addr pc).poison := by
  unfold State.suspendTask
  simp [good]

/-! ### Engines -/

@[simp] theorem State.seen_canon {s : State} (t e : Nat) (own : Option (Nat × BitVec 32)) (good : Canon s.mem s.poison) :
    Canon (s.seen t e own).mem (s.seen t e own).poison := by
  unfold State.seen
  exact foldl_canon (fun s w good => storeAll_canon good ..) _ good

@[simp] theorem readDesc_canon {s : State} (a : SVal) (n : Nat) (noAcc : Bool) (good : Canon s.mem s.poison) :
    Canon (readDesc s a n noAcc).2.mem (readDesc s a n noAcc).2.poison := by
  unfold readDesc
  dsimp only
  (repeat' split) <;> simp [good]

/-! ### Bundle -/

@[simp] theorem State.xret_canon {s : State} (t slot : Nat) (good : Canon s.mem s.poison) :
    Canon (State.xret s t slot).mem (State.xret s t slot).poison := by
  unfold State.xret
  dsimp only
  split <;> simp [good]

@[simp] theorem State.commitBundle_canon {s : State} (t slot : Nat) (h : Held) (good : Canon s.mem s.poison) :
    Canon (State.commitBundle s t slot h).mem (State.commitBundle s t slot h).poison := by
  unfold State.commitBundle
  simp [good]

@[simp] theorem State.enterHeld_canon {s : State} (t slot : Nat) (h : Held) (tr : Trap) (good : Canon s.mem s.poison) :
    Canon (State.enterHeld s t slot h tr).mem (State.enterHeld s t slot h tr).poison := by
  unfold State.enterHeld
  simp [good]

@[simp] theorem State.endBundle_canon {s : State} (t slot : Nat) (h : Held) (good : Canon s.mem s.poison) :
    Canon (State.endBundle s t slot h).mem (State.endBundle s t slot h).poison := by
  unfold State.endBundle
  dsimp only
  (repeat' split) <;> simp [good]

@[simp] theorem State.settle_canon {s : State} (t slot : Nat) (h : Held) (good : Canon s.mem s.poison) :
    Canon (s.settle t slot h).mem (s.settle t slot h).poison := by
  unfold State.settle
  dsimp only
  split
  · simp [good]
  · split
    · split <;> simp [good]
    · split
      · split <;> simp [good]
      · split
        · split
          · simp [good]
          · split
            · split
              · exact good
              · exact State.commitBundle_canon _ _ _ good
            · simp [good]
        · split
          · split <;> simp [good]
          · simp [good]

@[simp] theorem State.finishBundle_canon {s : State} (ws : List Instr) (good : Canon s.mem s.poison) :
    Canon (State.finishBundle s ws).mem (State.finishBundle s ws).poison := by
  unfold State.finishBundle
  simp [good]

@[simp] theorem State.closeWord_canon {s : State} (ws : List Instr) (good : Canon s.mem s.poison) :
    Canon (State.closeWord s ws).mem (State.closeWord s ws).poison := by
  unfold State.closeWord
  simp [good]

/-! ### Hbm -/

theorem execClosingPoint_canon {s : State} (st pc slot : Nat) (wr : Bool) (hint : Nat) :
    KeepsCanon s (execClosingPoint st pc slot wr hint s) := by
  unfold execClosingPoint
  split
  · exact keepsCanon_next id
  · split
    · exact keepsCanon_next id
    next met =>
      refine keepsCanon_next fun good => ?_
      obtain ⟨mem, poison⟩ := State.toSlot_frame met
      rw [(State.passSlot_frame ..).1, (State.passSlot_frame ..).2, modStack_mem, modStack_poison]
      split <;> simp [mem, poison, good]

theorem execThermalStateChange_canon (st temp : Nat) {s : State} :
    KeepsCanon s (execThermalStateChange st temp s) := by
  unfold execThermalStateChange
  dsimp only
  (repeat' split) <;> exact keepsCanon_next fun good => by simp [good]

theorem execOwnerEntryEffect_canon (x : CalTurn) {s : State} :
    KeepsCanon s (execOwnerEntryEffect x s) := by
  unfold execOwnerEntryEffect
  exact keepsCanon_next fun good => by simp [good]

theorem execSctlQuiesce_canon (st : Nat) {s : State} :
    KeepsCanon s (execSctlQuiesce st s) := by
  unfold execSctlQuiesce
  exact keepsCanon_next fun good => by simp [good]

theorem execQuiesced_canon (st : Nat) {s : State} :
    KeepsCanon s (execQuiesced st s) := by
  unfold execQuiesced
  dsimp only
  (repeat' split) <;> exact keepsCanon_next fun good => by simp [good]

theorem execSctlRatio_canon (st ratio : Nat) {s : State} :
    KeepsCanon s (execSctlRatio st ratio s) := by
  unfold execSctlRatio
  exact keepsCanon_next fun good => by simp [good]

theorem execLaneRetrainComplete_canon (st : Nat) {s : State} :
    KeepsCanon s (execLaneRetrainComplete st s) := by
  unfold execLaneRetrainComplete
  (repeat' split) <;> exact keepsCanon_next fun good => by simp [good]

/-! ### Copy -/

@[simp] theorem readSide_canon {s : State} (t slot e start a n : Nat) (peer : Bool) (more : List PortW)
    (good : Canon s.mem s.poison) :
    Canon (readSide s t slot e start a n peer more).1.mem (readSide s t slot e start a n peer more).1.poison := by
  unfold readSide
  dsimp only
  split <;> simp [good]

@[simp] theorem cpy_canon {s : State} (i : Instr) (f : FCopy) (good : Canon s.mem s.poison) : (cpy i f s).canon := by
  unfold cpy
  dsimp only
  split
  · simp
  · split
    next eq => simp [canon_of_eq eq (readDesc_canon _ _ _ good)]
    next eq => split <;> simp [canon_of_eq eq (readDesc_canon _ _ _ good)]

@[simp] theorem cwait_canon (i : Instr) (f : FCopy) {s : State} (good : Canon s.mem s.poison) :
    (cwait i f s).canon := by
  unfold cwait
  simp [good]

@[simp] theorem cstat_canon (i : Instr) (f : FCopy) {s : State} (good : Canon s.mem s.poison) :
    (cstat i f s).canon := by
  unfold cstat
  simp [good]

@[simp] theorem ccan_canon (i : Instr) (f : FCopy) {s : State} (good : Canon s.mem s.poison) :
    (ccan i f s).canon := by
  unfold ccan
  simp [good]

theorem execWalk_canon (t e va acc : Nat) {s : State} :
    KeepsCanon s (execWalk t e va acc s) := by
  unfold execWalk
  dsimp only
  (repeat' split) <;> exact keepsCanon_next fun good => by simp [good]

theorem execReadLineArrival_canon (st k : Nat) {s : State} :
    KeepsCanon s (execReadLineArrival st k s) := by
  unfold execReadLineArrival
  dsimp only
  (repeat' split) <;> exact keepsCanon_next fun good => by simp [good]

theorem execWritePerformed_canon (st k : Nat) {s : State} :
    KeepsCanon s (execWritePerformed st k s) := by
  unfold execWritePerformed
  dsimp only
  (repeat' split) <;> exact keepsCanon_next fun good => by simp [good]

theorem execRetry_canon (st k : Nat) {s : State} :
    KeepsCanon s (execRetry st k s) := by
  unfold execRetry
  dsimp only
  (repeat' split) <;> exact keepsCanon_next fun good => by simp [good]

theorem execPlateFill_canon (t e : Nat) (err : Bool) {s : State} :
    KeepsCanon s (execPlateFill t e err s) := by
  unfold execPlateFill
  dsimp only
  (repeat' split) <;> exact keepsCanon_next fun good => by simp [good]

theorem execPlateWrite_canon {s : State} (t e : Nat) : KeepsCanon s (execPlateWrite t e s) := by
  unfold execPlateWrite
  dsimp only
  split
  · exact keepsCanon_next id
  · split
    · exact keepsCanon_next id
    · split
      · exact keepsCanon_next fun good => by simp [good]
      · split <;>
          next eq => exact keepsCanon_next fun good => by simp [canon_fst_of_eq eq (readSide_canon _ _ _ _ _ _ _ _ good)]

@[simp] theorem State.commitPlate_canon {s : State} (t e : Nat) (u : CUnit) (img : Nat) (good : Canon s.mem s.poison) :
    Canon (State.commitPlate s t e u img).mem (State.commitPlate s t e u img).poison := by
  unfold State.commitPlate
  simp [good]

theorem execPlateCommit_canon (t e : Nat) {s : State} :
    KeepsCanon s (execPlateCommit t e s) := by
  unfold execPlateCommit
  dsimp only
  (repeat' split) <;> exact keepsCanon_next fun good => by simp [good]

theorem execResealCommit_canon (st code : Nat) {s : State} :
    KeepsCanon s (execResealCommit st code s) := by
  unfold execResealCommit
  dsimp only
  (repeat' split) <;> exact keepsCanon_next fun good => by simp [good]

theorem execKeyRotationGroup_canon (st grp : Nat) {s : State} :
    KeepsCanon s (execKeyRotationGroup st grp s) := by
  unfold execKeyRotationGroup
  dsimp only
  (repeat' split) <;> exact keepsCanon_next fun good => by simp [good]

theorem execCopyBegin_canon (t e : Nat) {s : State} :
    KeepsCanon s (execCopyBegin t e s) := by
  unfold execCopyBegin
  (repeat' split) <;> exact keepsCanon_next fun good => by simp [good]

@[simp] theorem State.copyChunk_canon {s : State} (t e : Nat) (c : Copy) (u : CUnit) (img : Nat) (good : Canon s.mem s.poison) :
    Canon (s.copyChunk t e c u img).mem (s.copyChunk t e c u img).poison := by
  unfold State.copyChunk
  dsimp only
  split
  · simp [good]
  · split
    next eq => simp [canon_fst_of_eq eq (readSide_canon _ _ _ _ _ _ _ _ good)]
    next eq => simp [canon_fst_of_eq eq (readSide_canon _ _ _ _ _ _ _ _ good)]
    next eq =>
      have read := canon_fst_of_eq eq (readSide_canon _ _ _ _ _ _ _ _ good)
      split
      · simp [read]
      · simp [read]
      · split <;> simp [read]

theorem execCopyUnitRetire_canon (t e : Nat) {s : State} :
    KeepsCanon s (execCopyUnitRetire t e s) := by
  unfold execCopyUnitRetire
  dsimp only
  (repeat' split) <;> exact keepsCanon_next fun good => by simp [good]

theorem execCopyStallResume_canon (t e : Nat) {s : State} :
    KeepsCanon s (execCopyStallResume t e s) := by
  unfold execCopyStallResume
  exact keepsCanon_next fun good => by simp [good]

theorem State.arriveCopy_canon {s u : State} {t e : Nat} {c : Copy} (good : Canon s.mem s.poison)
    (eq : s.arriveCopy t e c = .ok u) : Canon u.mem u.poison := by
  unfold State.arriveCopy at eq
  dsimp only at eq
  split at eq
  · contradiction
  · obtain rfl := Except.ok.inj eq
    exact good
  · obtain rfl := Except.ok.inj eq
    simp [good]

theorem execCopyCompletion_canon {s : State} (t e : Nat) : KeepsCanon s (execCopyCompletion t e s) := by
  unfold execCopyCompletion
  split
  · exact keepsCanon_next id
  · split
    · exact keepsCanon_next id
    · dsimp only
      split
      · split
        · exact keepsCanon_next fun good => by simp [good]
        next eq =>
          refine keepsCanon_next fun good => ?_
          have arrived := State.arriveCopy_canon (by simp [good]) eq
          split <;> simp [arrived]
      · refine keepsCanon_next fun good => ?_
        split <;> simp [good]

/-! ### Matrix -/

@[simp] theorem mldtS_canon {s : State} (i : Instr) (good : Canon s.mem s.poison) : (mldtS i s).canon := by
  unfold mldtS
  split <;> next eq => simp [canon_of_eq eq (readDesc_canon _ _ _ good)]

@[simp] theorem mldtV_canon (i : Instr) {s : State} (good : Canon s.mem s.poison) :
    (mldtV i s).canon := by
  unfold mldtV
  simp [good]

@[simp] theorem mset_canon (i : Instr) {s : State} (good : Canon s.mem s.poison) :
    (mset i s).canon := by
  unfold mset
  simp [good]

@[simp] theorem mgo_canon (f : FD) {s : State} (good : Canon s.mem s.poison) :
    (mgo f s).canon := by
  unfold mgo
  simp [good]

@[simp] theorem mstat_canon (f : FD) {s : State} (good : Canon s.mem s.poison) :
    (mstat f s).canon := by
  unfold mstat
  simp [good]

@[simp] theorem mwait_canon (i : Instr) (f : FAd) {s : State} (good : Canon s.mem s.poison) :
    (mwait i f s).canon := by
  unfold mwait
  simp [good]

@[simp] theorem mclr_canon (i : Instr) (f : FMclr) {s : State} (good : Canon s.mem s.poison) :
    (mclr i f s).canon := by
  unfold mclr
  simp [good]

@[simp] theorem mabort_canon (f : FD) {s : State} (good : Canon s.mem s.poison) :
    (mabort f s).canon := by
  unfold mabort
  simp [good]

@[simp] theorem msplit_canon {s : State} (i : Instr) (good : Canon s.mem s.poison) : (msplit i s).canon := by
  unfold msplit
  split
  next eq => simp [canon_of_eq eq (readDesc_canon _ _ _ good)]
  next eq =>
    dsimp only
    split <;> simp [canon_of_eq eq (readDesc_canon _ _ _ good)]

@[simp] theorem mwb_canon {s : State} (i : Instr) (f : FAd) (good : Canon s.mem s.poison) : (mwb i f s).canon := by
  unfold mwb
  dsimp only
  split
  · simp
  · split
    next eq => simp [canon_of_eq eq (readDesc_canon _ _ _ good)]
    next eq => split <;> simp [canon_of_eq eq (readDesc_canon _ _ _ good)]

theorem execMatrixCommandStart_canon (t : Nat) {s : State} :
    KeepsCanon s (execMatrixCommandStart t s) := by
  unfold execMatrixCommandStart
  (repeat' split) <;> exact keepsCanon_next fun good => by simp [good]

theorem execMatrixStep_canon (t : Nat) {s : State} :
    KeepsCanon s (execMatrixStep t s) := by
  unfold execMatrixStep
  dsimp only
  (repeat' split) <;> exact keepsCanon_next fun good => by simp [good]

theorem execMatrixStallResume_canon (t : Nat) {s : State} :
    KeepsCanon s (execMatrixStallResume t s) := by
  unfold execMatrixStallResume
  (repeat' split) <;> exact keepsCanon_next fun good => by simp [good]

theorem execMwbRow_canon (t : Nat) {s : State} :
    KeepsCanon s (execMwbRow t s) := by
  unfold execMwbRow
  dsimp only
  (repeat' split) <;> exact keepsCanon_next fun good => by simp [good]

theorem execMatrixClearRun_canon (t : Nat) {s : State} :
    KeepsCanon s (execMatrixClearRun t s) := by
  unfold execMatrixClearRun
  dsimp only
  (repeat' split) <;> exact keepsCanon_next fun good => by simp [good]

theorem execMatrixCompletion_canon (t : Nat) {s : State} :
    KeepsCanon s (execMatrixCompletion t s) := by
  unfold execMatrixCompletion
  dsimp only
  (repeat' split) <;> exact keepsCanon_next fun good => by simp [good]

/-! ### Link -/

@[simp] theorem linkWord_canon {s : State} (kind : Nat) (i : Instr) (f : FLink) (good : Canon s.mem s.poison) :
    (linkWord kind i f s).canon := by
  unfold linkWord
  dsimp only
  split
  · simp
  · split
    next eq => simp [canon_of_eq eq (readDesc_canon _ _ _ good)]
    next eq => split <;> simp [canon_of_eq eq (readDesc_canon _ _ _ good)]

@[simp] theorem lstat_canon (i : Instr) (f : FAd) {s : State} (good : Canon s.mem s.poison) :
    (lstat i f s).canon := by
  unfold lstat
  simp [good]

theorem execNak_canon (port seq : Nat) {s : State} :
    KeepsCanon s (execNak port seq s) := by
  unfold execNak
  (repeat' split) <;> exact keepsCanon_next fun good => by simp [good]

theorem execFlitReceive_canon (port : Nat) (f : Flit) (bad : Bool) {s : State} :
    KeepsCanon s (execFlitReceive port f bad s) := by
  unfold execFlitReceive
  dsimp only
  (repeat' split) <;> exact keepsCanon_next fun good => by simp [good]

theorem execRetrainComplete_canon (port : Nat) (lt : Option Nat) {s : State} :
    KeepsCanon s (execRetrainComplete port lt s) := by
  unfold execRetrainComplete
  (repeat' split) <;> exact keepsCanon_next fun good => by simp [good]

theorem execLinkTraining_canon (port peer lt : Nat) {s : State} :
    KeepsCanon s (execLinkTraining port peer lt s) := by
  unfold execLinkTraining
  (repeat' split) <;> exact keepsCanon_next fun good => by simp [good]

theorem execPortHold_canon (port : Nat) {s : State} :
    KeepsCanon s (execPortHold port s) := by
  unfold execPortHold
  dsimp only
  (repeat' split) <;> exact keepsCanon_next fun good => by simp [good]

@[simp] theorem State.linkSeen_canon {s : State} (t : Nat) (m : LCmd) (good : Canon s.mem s.poison) :
    Canon (State.linkSeen s t m).mem (State.linkSeen s t m).poison := by
  unfold State.linkSeen
  simp [good]

@[simp] theorem linkRead_canon {s : State} (t : Nat) (m : LCmd) (a n : Nat) (good : Canon s.mem s.poison) :
    Canon (linkRead s t m a n).1.mem (linkRead s t m a n).1.poison := by
  unfold linkRead
  dsimp only
  split <;> simp [good]

theorem elemRange_canon {s u : State} {t : Nat} {m : LCmd} {fmt a n : Nat} {f : Nat → Nat → Nat × Flags} {fl : Flags}
    (good : Canon s.mem s.poison) (eq : elemRange s t m fmt a n f = .ok (u, fl)) : Canon u.mem u.poison := by
  unfold elemRange at eq
  dsimp only at eq
  split at eq
  · contradiction
  · split at eq
    · contradiction
    · obtain ⟨rfl, -⟩ := Prod.mk.inj (Except.ok.inj eq)
      rw [(State.queueAll_frame ..).1, (State.queueAll_frame ..).2]
      split <;> simp [good]

theorem receiveBytes_canon {s u : State} {t : Nat} {m : LCmd} {n x : Nat} (good : Canon s.mem s.poison)
    (eq : receiveBytes s t m n x = .ok u) : Canon u.mem u.poison := by
  unfold receiveBytes at eq
  dsimp only at eq
  split at eq
  · obtain ⟨⟨v, fl⟩, range, rfl⟩ := except_map_ok eq
    simp [elemRange_canon good range]
  · obtain ⟨ls, -, rfl⟩ := except_map_ok eq
    simp [good]

@[simp] theorem State.deliverFlit_canon {s : State} (p k : Nat) (f : Flit) (x : Nat) (last : Bool) (good : Canon s.mem s.poison) :
    Canon (s.deliverFlit p k f x last).mem (s.deliverFlit p k f x last).poison := by
  unfold State.deliverFlit
  dsimp only
  split
  · simp [good]
  · split
    · simp [good]
    · split
      · simp [good]
      · split
        · simp [good]
        · simp [good]
        next eq => simp [receiveBytes_canon (by simp [good]) eq]

@[simp] theorem State.sendOne_canon {s : State} (t : Nat) (m : LCmd) (good : Canon s.mem s.poison) :
    Canon (s.sendOne t m).mem (s.sendOne t m).poison := by
  unfold State.sendOne
  dsimp only
  split
  next eq => simp [canon_fst_of_eq eq (linkRead_canon _ _ _ _ good)]
  next eq => simp [canon_fst_of_eq eq (linkRead_canon _ _ _ _ good)]
  next eq => simp [canon_fst_of_eq eq (linkRead_canon _ _ _ _ good)]

@[simp] theorem State.moveFlit_canon {s : State} (p : Nat) (last : Bool) (good : Canon s.mem s.poison) :
    Canon (State.moveFlit s p last).mem (State.moveFlit s p last).poison := by
  unfold State.moveFlit
  (repeat' split) <;> simp [good]

theorem execDataFlit_canon (port : Nat) {s : State} :
    KeepsCanon s (execDataFlit port s) := by
  unfold execDataFlit
  exact keepsCanon_next fun good => by simp [good]

theorem execLastFlit_canon (port : Nat) {s : State} :
    KeepsCanon s (execLastFlit port s) := by
  unfold execLastFlit
  exact keepsCanon_next fun good => by simp [good]

theorem execClearFlit_canon {s : State} (port : Nat) : KeepsCanon s (execClearFlit port s) := by
  unfold execClearFlit
  split
  · exact keepsCanon_next id
  next came =>
    split <;> exact keepsCanon_next fun good => by simp [State.takeRx_frame came, good]

theorem execDoneFlit_canon {s : State} (port : Nat) : KeepsCanon s (execDoneFlit port s) := by
  unfold execDoneFlit
  split
  · exact keepsCanon_next id
  next came =>
    split <;> exact keepsCanon_next fun good => by simp [State.takeRx_frame came, good]

theorem execControlFlit_canon {s : State} (port : Nat) : KeepsCanon s (execControlFlit port s) := by
  unfold execControlFlit
  split
  · exact keepsCanon_next id
  next came =>
    split <;> exact keepsCanon_next fun good => by simp [State.takeRx_frame came, good]

/-! ### Collective -/

@[simp] theorem tableDw_canon {s : State} (a i : Nat) (good : Canon s.mem s.poison) :
    Canon (tableDw s a i).2.mem (tableDw s a i).2.poison := by
  unfold tableDw
  simp [good]

@[simp] theorem tableEntries_canon {s : State} (a k : Nat) (good : Canon s.mem s.poison) :
    Canon (tableEntries s a k).2.mem (tableEntries s a k).2.poison := by
  induction k with
  | zero => exact good
  | succ k ih =>
    unfold tableEntries
    split
    next eq => exact canon_of_eq eq ih
    next eq =>
      have entries := canon_of_eq eq ih
      split <;> next eq => exact canon_of_eq eq (tableDw_canon _ _ entries)

@[simp] theorem readTable_canon {s : State} (a : Nat) (good : Canon s.mem s.poison) :
    Canon (readTable s a).2.mem (readTable s a).2.poison := by
  unfold readTable
  split
  next eq => exact canon_of_eq eq (tableDw_canon _ _ good)
  next eq =>
    have head := canon_of_eq eq (tableDw_canon _ _ good)
    split
    · exact head
    · split <;> next eq => exact canon_of_eq eq (tableEntries_canon _ _ head)

@[simp] theorem lsched_canon {s : State} (i : Instr) (f : FAd) (good : Canon s.mem s.poison) : (lsched i f s).canon := by
  unfold lsched
  dsimp only
  split
  · simp
  · split
    next eq => simp [canon_of_eq eq (readDesc_canon _ _ _ good)]
    next eq =>
      have desc := canon_of_eq eq (readDesc_canon _ _ _ good)
      split
      · simp [desc]
      · split
        next eq => simp [canon_of_eq eq (readTable_canon _ desc)]
        next eq => simp [canon_of_eq eq (readTable_canon _ desc)]
        next eq => split <;> simp [canon_of_eq eq (readTable_canon _ desc)]

theorem linkCopy_canon {t : Nat} {m : LCmd} {fuel : Nat} {s u : State} {src dst n : Nat} (good : Canon s.mem s.poison)
    (eq : linkCopy t m fuel s src dst n = .ok u) : Canon u.mem u.poison := by
  induction fuel generalizing s src dst n with
  | zero =>
    obtain rfl := Except.ok.inj eq
    exact good
  | succ fuel ih =>
    unfold linkCopy at eq
    split at eq
    · obtain rfl := Except.ok.inj eq
      exact good
    · dsimp only at eq
      split at eq
      · contradiction
      next read =>
        split at eq
        · contradiction
        · exact ih (by simp [canon_fst_of_eq read (linkRead_canon _ _ _ _ good)]) eq

theorem linkScale_canon {t : Nat} {m : LCmd} {members fuel : Nat} {s u : State} {a len : Nat} {fl : Flags}
    (good : Canon s.mem s.poison) (eq : linkScale t m members fuel s a len = .ok (u, fl)) : Canon u.mem u.poison := by
  induction fuel generalizing s a len fl with
  | zero =>
    obtain ⟨rfl, -⟩ := Prod.mk.inj (Except.ok.inj eq)
    exact good
  | succ fuel ih =>
    unfold linkScale at eq
    split at eq
    · obtain ⟨rfl, -⟩ := Prod.mk.inj (Except.ok.inj eq)
      exact good
    · dsimp only at eq
      split at eq
      · contradiction
      next z range =>
        obtain ⟨⟨v, g⟩, rest, eq⟩ := except_map_ok eq
        obtain ⟨rfl, -⟩ := Prod.mk.inj eq
        exact ih (elemRange_canon (u := z.1) (fl := z.2) good range) rest

theorem State.restart_canon {s u : State} {t : Nat} {m : LCmd} {k : Sched} {epoch : Nat} {removed : List Nat}
    (good : Canon s.mem s.poison) (eq : s.restart t m k epoch removed = .ok u) : Canon u.mem u.poison := by
  unfold State.restart at eq
  dsimp only at eq
  split at eq
  · contradiction
  next v copied =>
    have restored : Canon v.mem v.poison := by
      split at copied
      · exact linkCopy_canon good copied
      · obtain rfl := Except.ok.inj copied
        exact good
    obtain ⟨w, written, rfl⟩ := except_map_ok eq
    obtain ⟨mem, poison⟩ := putTables_frame written
    simp [mem, poison, restored]

theorem State.restartAll_canon {s u : State} {t : Nat} {m : LCmd} {k : Sched} (good : Canon s.mem s.poison)
    (eq : s.restartAll t m k = .ok u) : Canon u.mem u.poison := by
  obtain ⟨v, restarted, rfl⟩ := except_map_ok eq
  simp [State.restart_canon good restarted]

theorem State.suspect_canon {s u : State} {t : Nat} {m : LCmd} {k : Sched} {ranks : List Nat} (good : Canon s.mem s.poison)
    (eq : s.suspect t m k ranks = .ok u) : Canon u.mem u.poison := by
  unfold State.suspect at eq
  dsimp only at eq
  split at eq
  · obtain rfl := Except.ok.inj eq
    simp [good]
  · split at eq
    · obtain rfl := Except.ok.inj eq
      simp [good]
    · split at eq
      · split at eq
        · exact State.restartAll_canon (by simp [good]) eq
        · obtain rfl := Except.ok.inj eq
          simp [good]
      · split at eq <;> obtain rfl := Except.ok.inj eq <;> simp [good]

/-- A schedule goes on, or stops where it cannot: either way from a state in canonical form. -/
theorem State.orStop_canon {s : State} (t : Nat) (m : LCmd) {r : Except CStop State} (good : Canon s.mem s.poison)
    (goes : ∀ u, r = .ok u → Canon u.mem u.poison) : Canon (s.orStop t m r).mem (s.orStop t m r).poison := by
  cases r with
  | ok u => exact goes u rfl
  | error e => simp [good]

@[simp] theorem State.endStep_canon {s : State} (t : Nat) (m : LCmd) (k : Sched) (me : Nat) (good : Canon s.mem s.poison) :
    Canon (s.endStep t m k me).mem (s.endStep t m k me).poison := by
  unfold State.endStep
  dsimp only
  split
  · simp [good]
  next v fl scaled =>
    have kept : Canon v.mem v.poison := by
      split at scaled
      · obtain ⟨rfl, -⟩ := Prod.mk.inj (Except.ok.inj scaled)
        exact good
      · exact linkScale_canon good scaled
    simp [kept]

@[simp] theorem State.advance_canon {s : State} (t : Nat) (m : LCmd) (k : Sched) (me : Nat) (good : Canon s.mem s.poison) :
    Canon (s.advance t m k me).mem (s.advance t m k me).poison := by
  unfold State.advance
  dsimp only
  split
  · exact State.orStop_canon t m good fun u => State.suspect_canon good
  · split
    · exact good
    · split
      · refine State.orStop_canon t m good fun u eq => ?_
        obtain ⟨v, copied, rfl⟩ := except_map_ok eq
        simp [linkCopy_canon good copied]
      · split
        · split
          · exact good
          · split
            · simp [good]
            · split <;> simp [good]
        · split
          · simp [good]
          · split
            · simp [good]
            · split
              · exact State.orStop_canon t m good fun u => State.suspect_canon (by simp [good])
              · split
                · simp [good]
                · split
                  · exact good
                  · simp [good]

theorem execScheduleStep_canon (t tag : Nat) {s : State} :
    KeepsCanon s (execScheduleStep t tag s) := by
  unfold execScheduleStep
  (repeat' split) <;> exact keepsCanon_next fun good => by simp [good]

theorem execMemberDone_canon {s : State} (t tag rank : Nat) : KeepsCanon s (execMemberDone t tag rank s) := by
  unfold execMemberDone
  split
  · exact keepsCanon_next id
  · split
    · exact keepsCanon_next id
    next came => exact keepsCanon_next fun good => by simp [State.takeFrom_frame came, good]

theorem execMemberCommit_canon {s : State} (t tag : Nat) : KeepsCanon s (execMemberCommit t tag s) := by
  unfold execMemberCommit
  split
  · exact keepsCanon_next id
  · split
    · exact keepsCanon_next id
    next came => exact keepsCanon_next fun good => by simp [State.takeFrom_frame came, good]

theorem execMemberFail_canon {s : State} (t tag rank : Nat) : KeepsCanon s (execMemberFail t tag rank s) := by
  unfold execMemberFail
  split
  · exact keepsCanon_next fun good => by simp [good]
  · split
    · exact keepsCanon_next id
    next came =>
      exact keepsCanon_next fun good => State.orStop_canon _ _ good fun u =>
        State.suspect_canon (by simp [State.takeFrom_frame came, good])

theorem execScheduleRestart_canon {s : State} (t tag epoch : Nat) (removed : List Nat) :
    KeepsCanon s (execScheduleRestart t tag epoch removed s) := by
  unfold execScheduleRestart
  split
  · exact keepsCanon_next id
  · split
    · exact keepsCanon_next id
    next came =>
      exact keepsCanon_next fun good => State.orStop_canon _ _ good fun u =>
        State.restart_canon (by simp [State.takeFrom_frame came, good])

theorem execCoordinatorQuery_canon {s : State} (t tag rank : Nat) : KeepsCanon s (execCoordinatorQuery t tag rank s) := by
  unfold execCoordinatorQuery
  split
  · exact keepsCanon_next id
  · split
    · exact keepsCanon_next id
    · split
      · exact keepsCanon_next fun good => by simp [good]
      · split
        · split
          · exact keepsCanon_next fun good => by simp [good]
          · exact keepsCanon_next fun good => State.orStop_canon _ _ good fun u => State.restartAll_canon good
        · exact keepsCanon_next id

theorem execMemberTimeout_canon {s : State} (t tag rank : Nat) : KeepsCanon s (execMemberTimeout t tag rank s) := by
  unfold execMemberTimeout
  split
  · exact keepsCanon_next id
  · split
    · exact keepsCanon_next id
    · split
      · exact keepsCanon_next id
      · split
        · exact keepsCanon_next fun good => by simp [good]
        · exact keepsCanon_next fun good => State.orStop_canon _ _ good fun u => State.suspect_canon good

/-! ### Control -/

@[simp] theorem branchS_canon (i : Instr) (q : W64 → Bool) {s : State} (good : Canon s.mem s.poison) :
    (branchS i q s).canon := by
  unfold branchS
  simp [good]

@[simp] theorem branchP_canon (i : Instr) (q : Pred → Bool) {s : State} (good : Canon s.mem s.poison) :
    (branchP i q s).canon := by
  unfold branchP
  simp [good]

@[simp] theorem jump_canon (i : Instr) (link : Option (BitVec 5)) {s : State} (good : Canon s.mem s.poison) :
    (jump i link s).canon := by
  unfold jump
  (repeat' split) <;> simp [good]

@[simp] theorem bloop_canon (i : Instr) {s : State} (good : Canon s.mem s.poison) :
    (bloop i s).canon := by
  unfold bloop
  simp [good]

@[simp] theorem lcset_canon (i : Instr) {s : State} (good : Canon s.mem s.poison) :
    (lcset i s).canon := by
  unfold lcset
  simp [good]

@[simp] theorem cret_canon {s : State} (good : Canon s.mem s.poison) :
    (cret s).canon := by
  unfold cret
  simp [good]

@[simp] theorem waitev_canon (m : BitVec 6) {s : State} (good : Canon s.mem s.poison) :
    (waitev m s).canon := by
  unfold waitev
  simp [good]

/-! ### Csr -/

@[simp] theorem csrRead_canon (i : Instr) (sup : Bool) (f : FCsrR) {s : State} (good : Canon s.mem s.poison) :
    (csrRead i sup f s).canon := by
  unfold csrRead
  simp [good]

@[simp] theorem csrModify_canon (i : Instr) (sup : Bool) (f : FCsrW) (rw clr : W64 → W64 → W64) {s : State}
    (good : Canon s.mem s.poison) :
    (csrModify i sup f rw clr s).canon := by
  unfold csrModify
  simp [good]

/-! ### Tasks -/

@[simp] theorem sigWord_canon (i : Instr) {s : State} (good : Canon s.mem s.poison) :
    (sigWord i s).canon := by
  unfold sigWord
  dsimp only
  (repeat' split) <;> simp [good]

@[simp] theorem swait_canon (i : Instr) {s : State} (good : Canon s.mem s.poison) :
    (swait i s).canon := by
  unfold swait
  simp [good]

@[simp] theorem stry_canon (i : Instr) (f : FAdi) {s : State} (good : Canon s.mem s.poison) :
    (stry i f s).canon := by
  unfold stry
  simp [good]

@[simp] theorem sset_canon (i : Instr) {s : State} (good : Canon s.mem s.poison) :
    (sset i s).canon := by
  unfold sset
  simp [good]

@[simp] theorem launch_canon {s : State} (i : Instr) (f : FAd) (good : Canon s.mem s.poison) : (launch i f s).canon := by
  unfold launch
  dsimp only
  split
  next eq => simp [canon_of_eq eq (readDesc_canon _ _ _ good)]
  next eq =>
    have read := canon_of_eq eq (readDesc_canon _ _ _ good)
    split
    · simp [read]
    · split
      · simp [read]
      · split <;> simp [read]

@[simp] theorem expectAdd_canon (i : Instr) {s : State} (good : Canon s.mem s.poison) :
    (expectAdd i s).canon := by
  unfold expectAdd
  dsimp only
  (repeat' split) <;> simp [good]

@[simp] theorem post_canon (i : Instr) {s : State} (good : Canon s.mem s.poison) :
    (post i s).canon := by
  unfold post
  dsimp only
  (repeat' split) <;> simp [good]

@[simp] theorem jwait_canon (i : Instr) (f : FAd) {s : State} (good : Canon s.mem s.poison) :
    (jwait i f s).canon := by
  unfold jwait
  dsimp only
  (repeat' split) <;> simp [good]

@[simp] theorem rget_canon (f : FD) {s : State} (good : Canon s.mem s.poison) :
    (rget f s).canon := by
  unfold rget
  dsimp only
  split <;> simp [good]

@[simp] theorem suspend_canon (i : Instr) {s : State} (good : Canon s.mem s.poison) :
    (suspend i s).canon := by
  unfold suspend
  dsimp only
  (repeat' split) <;> simp [good]

@[simp] theorem handoff_canon (i : Instr) {s : State} (good : Canon s.mem s.poison) :
    (handoff i s).canon := by
  unfold handoff
  simp [good]

/-! ### Heap -/

@[simp] theorem heapWord_canon (d : Option (BitVec 5)) (op : HeapInst → HeapRes) {s : State} (good : Canon s.mem s.poison) :
    (heapWord d op s).canon := by
  unfold heapWord
  dsimp only
  (repeat' split) <;> simp [good]

@[simp] theorem hpush_canon (i : Instr) (f : FAbd) {s : State} (good : Canon s.mem s.poison) :
    (hpush i f s).canon := by
  unfold hpush
  (repeat' split) <;> simp [good]

@[simp] theorem hupd_canon (i : Instr) {s : State} (good : Canon s.mem s.poison) :
    (hupd i s).canon := by
  unfold hupd
  (repeat' split) <;> simp [good]

@[simp] theorem heapOne_canon (i : Instr) (d : Option (BitVec 5)) (op : Nat → HeapInst → HeapRes) {s : State}
    (good : Canon s.mem s.poison) :
    (heapOne i d op s).canon := by
  unfold heapOne
  (repeat' split) <;> simp [good]

@[simp] theorem hsum_canon (f : FD) {s : State} (good : Canon s.mem s.poison) :
    (hsum f s).canon := by
  unfold hsum
  dsimp only
  split <;> simp [good]

@[simp] theorem hopenOp_canon (d : Nat) {s : State} (good : Canon s.mem s.poison) :
    Canon (hopenOp d s).1.mem (hopenOp d s).1.poison := by
  unfold hopenOp
  dsimp only
  (repeat' split) <;> simp [good]

@[simp] theorem hopen_canon {s : State} (i : Instr) (f : FAd) (good : Canon s.mem s.poison) : (hopen i f s).canon := by
  unfold hopen
  split
  next eq => simp [canon_of_eq eq (readDesc_canon _ _ _ good)]
  next eq =>
    have read := canon_of_eq eq (readDesc_canon _ _ _ good)
    dsimp only
    split
    · simp [read]
    · split <;> simp [read]

@[simp] theorem tlbinv_canon (i : Instr) {s : State} (good : Canon s.mem s.poison) :
    (tlbinv i s).canon := by
  unfold tlbinv
  simp [good]

/-! ### Gangs -/

theorem execGangDispatch_canon (die : Nat) {s : State} :
    KeepsCanon s (execGangDispatch die s) := by
  unfold execGangDispatch
  (repeat' split) <;> exact keepsCanon_next fun good => by simp [good]

theorem execTileClaim_canon (die job : Nat) {s : State} :
    KeepsCanon s (execTileClaim die job s) := by
  unfold execTileClaim
  (repeat' split) <;> exact keepsCanon_next fun good => by simp [good]

theorem execJobCompletion_canon (die slot : Nat) {s : State} :
    KeepsCanon s (execJobCompletion die slot s) := by
  unfold execJobCompletion
  (repeat' split) <;> exact keepsCanon_next fun good => by simp [good]

@[simp] theorem State.paramEntry_canon {s : State} (ps : List (Nat × Nat)) (t slot e : Nat) (good : Canon s.mem s.poison) :
    Canon (State.paramEntry s ps t slot e).1.mem (State.paramEntry s ps t slot e).1.poison := by
  unfold State.paramEntry
  dsimp only
  (repeat' split) <;> simp [good]

@[simp] theorem State.paramEntries_canon {s : State} (ps : List (Nat × Nat)) (t slot : Nat) (es : List Nat)
    (good : Canon s.mem s.poison) :
    Canon (s.paramEntries ps t slot es).1.mem (s.paramEntries ps t slot es).1.poison := by
  induction es generalizing s with
  | nil => exact good
  | cons e r ih =>
    unfold State.paramEntries
    split
    next eq => exact ih (canon_fst_of_eq eq (State.paramEntry_canon _ _ _ _ good))
    · exact State.paramEntry_canon _ _ _ _ good

@[simp] theorem State.paramBlock_canon {s : State} (ps : List (Nat × Nat)) (t slot va : Nat) (good : Canon s.mem s.poison) :
    Canon (s.paramBlock ps t slot va).1.mem (s.paramBlock ps t slot va).1.poison := by
  unfold State.paramBlock
  split
  · dsimp only
    split
    · exact good
    · split
      · exact State.paramEntries_canon _ _ _ _ (by simp [good])
      · simp [good]
  · exact good

theorem execParameterBlockFill_canon {s : State} (t slot : Nat) : KeepsCanon s (execParameterBlockFill t slot s) := by
  unfold execParameterBlockFill
  dsimp only
  split
  · exact keepsCanon_next id
  · split
    · exact keepsCanon_next id
    · split
      next eq => exact keepsCanon_next fun good => by simp [canon_fst_of_eq eq (State.paramBlock_canon _ _ _ _ good)]
      next eq => exact keepsCanon_next fun good => by simp [canon_fst_of_eq eq (State.paramBlock_canon _ _ _ _ good)]
      next eq =>
        split
        · exact keepsCanon_next fun good => by simp [good]
        · split <;> refine keepsCanon_next fun good => ?_
          · simp [good]
          · simp [canon_fst_of_eq eq (State.paramBlock_canon _ _ _ _ good)]
          · exact good

theorem execContinuationResume_canon (gang t : Nat) {s : State} :
    KeepsCanon s (execContinuationResume gang t s) := by
  unfold execContinuationResume
  dsimp only
  (repeat' split) <;> exact keepsCanon_next fun good => by simp [good]

/-! ### Local -/

@[simp] theorem loadS_canon (i : Instr) (f : FLm) (n : Nat) (sext : Bool) {s : State} (good : Canon s.mem s.poison) :
    (loadS i f n sext s).canon := by
  unfold loadS
  (repeat' split) <;> simp [good]

@[simp] theorem storeS_canon (i : Instr) (f : FSt) (n : Nat) {s : State} (good : Canon s.mem s.poison) :
    (storeS i f n s).canon := by
  unfold storeS
  dsimp only
  split <;> simp [good]

@[simp] theorem noLanes_canon (i : Instr) (d : BitVec 5) (w : Bool) {s : State} (good : Canon s.mem s.poison) :
    (noLanes i d w s).canon := by
  unfold noLanes
  simp [good]

@[simp] theorem ldv_canon (i : Instr) (f : FLm) {s : State} (good : Canon s.mem s.poison) :
    (ldv i f s).canon := by
  unfold ldv
  (repeat' split) <;> simp [good]

@[simp] theorem ldvb_canon (i : Instr) (f : FLm) {s : State} (good : Canon s.mem s.poison) :
    (ldvb i f s).canon := by
  unfold ldvb
  (repeat' split) <;> simp [good]

@[simp] theorem stv_canon (i : Instr) (f : FSt) {s : State} (good : Canon s.mem s.poison) :
    (stv i f s).canon := by
  unfold stv
  dsimp only
  (repeat' split) <;> simp [good]

@[simp] theorem ldvf_canon (i : Instr) (f : FLm) {s : State} (good : Canon s.mem s.poison) :
    (ldvf i f s).canon := by
  unfold ldvf
  (repeat' split) <;> simp [good]

@[simp] theorem scaleWrite_canon (f : FSt) (on : Bool) (l : Loc) (v : Nat) (p : Bool) {s : State} (good : Canon s.mem s.poison) :
    Canon (scaleWrite f on l v p s).mem (scaleWrite f on l v p s).poison := by
  unfold scaleWrite
  simp [good]

@[simp] theorem stvfMx_canon {s : State} (f : FSt) (l l0 l1 : Loc) (x : VVal) (r : BitVec 512) (good : Canon s.mem s.poison) :
    (stvfMx f l l0 l1 x r s).canon := by
  unfold stvfMx
  dsimp only
  rw [WordRes.canon_ok, (State.orFcsr_frame ..).1, (State.orFcsr_frame ..).2]
  exact scaleWrite_canon _ _ _ _ _ (scaleWrite_canon _ _ _ _ _ (issueAct_canon good ..))

@[simp] theorem stvf_canon (i : Instr) (f : FSt) {s : State} (good : Canon s.mem s.poison) :
    (stvf i f s).canon := by
  unfold stvf
  (repeat' split) <;> simp [good]

/-- The lanes of a gather or a scatter, made one after another. -/
theorem runLanes_canon {act : State → Nat → Except (Nat × Nat) State}
    (keeps : ∀ {s u : State} {j : Nat},
      Canon s.mem s.poison → act s j = .ok u → Canon u.mem u.poison) {s : State} (l : List Nat) (done : Nat)
    (good : Canon s.mem s.poison) : Canon (runLanes act l s done).1.mem (runLanes act l s done).1.poison := by
  induction l generalizing s done with
  | nil => exact good
  | cons j r ih =>
    unfold runLanes
    split
    · exact good
    next eq => exact ih _ (keeps good eq)

theorem gatherLane_canon {i : Instr} {f : FLx} {s u : State} {j : Nat} (good : Canon s.mem s.poison)
    (eq : gatherLane i f s j = .ok u) : Canon u.mem u.poison := by
  unfold gatherLane at eq
  dsimp only at eq
  split at eq
  · contradiction
  · obtain rfl := Except.ok.inj eq
    simp [good]

@[simp] theorem ldvg_canon {s : State} (i : Instr) (f : FLx) (good : Canon s.mem s.poison) : (ldvg i f s).canon := by
  have lanes := runLanes_canon (act := gatherLane i f) gatherLane_canon (lanesOf s) s.iss.lmask.toNat
    (s := gatherStart s f) (by simp [good])
  unfold ldvg
  dsimp only
  split <;> simp [lanes]

theorem scatterLane_canon {i : Instr} {f : FStx} {s u : State} {j : Nat} (good : Canon s.mem s.poison)
    (eq : scatterLane i f s j = .ok u) : Canon u.mem u.poison := by
  unfold scatterLane at eq
  dsimp only at eq
  split at eq
  · contradiction
  · obtain rfl := Except.ok.inj eq
    simp [good]

@[simp] theorem stvs_canon {s : State} (i : Instr) (f : FStx) (good : Canon s.mem s.poison) : (stvs i f s).canon := by
  have lanes := runLanes_canon (act := scatterLane i f) scatterLane_canon (lanesOf s) s.iss.lmask.toNat good
  unfold stvs
  dsimp only
  split <;> simp [lanes]

@[simp] theorem ldp_canon (i : Instr) (f : FLp) {s : State} (good : Canon s.mem s.poison) :
    (ldp i f s).canon := by
  unfold ldp
  dsimp only
  (repeat' split) <;> simp [good]

@[simp] theorem atomic_canon (i : Instr) (f : FLx) (op : AtomicOp) (n : Nat) {s : State} (good : Canon s.mem s.poison) :
    (atomic i f op n s).canon := by
  unfold atomic
  dsimp only
  split <;> simp [good]

@[simp] theorem barv_canon (i : Instr) (f : FLx) {s : State} (good : Canon s.mem s.poison) :
    (barv i f s).canon := by
  unfold barv
  dsimp only
  split <;> simp [good]

@[simp] theorem binit_canon (i : Instr) (f : FBinit) {s : State} (good : Canon s.mem s.poison) :
    (binit i f s).canon := by
  unfold binit
  dsimp only
  split <;> simp [good]

@[simp] theorem bwait_canon (i : Instr) (f : FLx) {s : State} (good : Canon s.mem s.poison) :
    (bwait i f s).canon := by
  unfold bwait
  dsimp only
  (repeat' split) <;> simp [good]

@[simp] theorem fence_canon (f : FFence) {s : State} (good : Canon s.mem s.poison) :
    (fence f s).canon := by
  unfold fence
  simp [good]

/-! ### Issue -/

@[simp] theorem State.trapEarly_canon {s : State} (t slot : Nat) (tr : Trap) (good : Canon s.mem s.poison) :
    Canon (State.trapEarly s t slot tr).mem (State.trapEarly s t slot tr).poison := by
  unfold State.trapEarly
  simp [good]

theorem execInstructionCacheFill_canon (t va : Nat) {s : State} :
    KeepsCanon s (execInstructionCacheFill t va s) := by
  unfold execInstructionCacheFill
  dsimp only
  (repeat' split) <;> exact keepsCanon_next fun good => by simp [good]

/-! ### Wake -/

@[simp] theorem State.endWait_canon {s : State} (t slot : Nat) (h : Held) (pos : Nat) (good : Canon s.mem s.poison) :
    Canon (State.endWait s t slot h pos).mem (State.endWait s t slot h pos).poison := by
  unfold State.endWait
  simp [good]

theorem State.waitEnds_frame {s u : State} {t slot : Nat} {k : WaitKind} (eq : s.waitEnds t slot k = some u) :
    u.mem = s.mem ∧ u.poison = s.poison := by
  have of_ite {c : Prop} [Decidable c] {v : State} (eq : (if c then some v else none) = some u) : v = u := by
    split at eq
    · exact Option.some.inj eq
    · contradiction
  cases k with
  | waitev m => simp [← of_ite eq]
  | swait k n => simp [← of_ite eq]
  | cwait d e tag => simp [← of_ite eq]
  | mwait d seq => simp [← of_ite eq]
  | jwait d job =>
    obtain ⟨k, -, rfl⟩ := Option.map_eq_some_iff.mp eq
    simp
  | bwait d w addr cls ph start lim last =>
    obtain ⟨k, -, rfl⟩ := Option.map_eq_some_iff.mp eq
    simp

theorem State.endWaits_frame {s u : State} {t slot : Nat} {l : List (Nat × WaitKind)} (eq : s.endWaits t slot l = some u) :
    u.mem = s.mem ∧ u.poison = s.poison := by
  induction l generalizing s with
  | nil =>
    obtain rfl := Option.some.inj eq
    exact ⟨rfl, rfl⟩
  | cons x r ih =>
    obtain ⟨v, ends, eq⟩ := Option.bind_eq_some_iff.mp eq
    obtain ⟨mem, poison⟩ := ih eq
    rw [mem, poison]
    exact State.waitEnds_frame ends

@[simp] theorem State.wake_canon {s : State} (t slot : Nat) (h : Held) (good : Canon s.mem s.poison) :
    Canon (s.wake t slot h).mem (s.wake t slot h).poison := by
  unfold State.wake
  split
  · exact good
  next eq =>
    obtain ⟨mem, poison⟩ := State.endWaits_frame eq
    exact State.settle_canon _ _ _ (by rw [mem, poison]; exact good)

@[simp] theorem State.wakeOn_canon {s : State} (t slot : Nat) (q : WaitKind → Bool) (good : Canon s.mem s.poison) :
    Canon (State.wakeOn s t slot q).mem (State.wakeOn s t slot q).poison := by
  unfold State.wakeOn
  (repeat' split) <;> simp [good]

theorem execSwaitWake_canon (t slot : Nat) {s : State} :
    KeepsCanon s (execSwaitWake t slot s) := by
  unfold execSwaitWake
  exact keepsCanon_next fun good => by simp [good]

theorem execCwaitWake_canon (t slot : Nat) {s : State} :
    KeepsCanon s (execCwaitWake t slot s) := by
  unfold execCwaitWake
  exact keepsCanon_next fun good => by simp [good]

theorem execMwaitWake_canon (t slot : Nat) {s : State} :
    KeepsCanon s (execMwaitWake t slot s) := by
  unfold execMwaitWake
  exact keepsCanon_next fun good => by simp [good]

theorem execJwaitWake_canon (t slot : Nat) {s : State} :
    KeepsCanon s (execJwaitWake t slot s) := by
  unfold execJwaitWake
  exact keepsCanon_next fun good => by simp [good]

theorem execWaitevWake_canon (t slot : Nat) {s : State} :
    KeepsCanon s (execWaitevWake t slot s) := by
  unfold execWaitevWake
  exact keepsCanon_next fun good => by simp [good]

theorem execBwaitRead_canon {s : State} (t slot : Nat) : KeepsCanon s (execBwaitRead t slot s) := by
  unfold execBwaitRead
  split
  · exact keepsCanon_next id
  · split
    · split
      · exact keepsCanon_next fun good => State.settle_canon _ _ _ good
      · exact keepsCanon_next fun good => State.wake_canon _ _ _ (by simp [good])
    · exact keepsCanon_next id

theorem execBwaitLimit_canon (t slot : Nat) {s : State} :
    KeepsCanon s (execBwaitLimit t slot s) := by
  unfold execBwaitLimit
  exact keepsCanon_next fun good => by simp [good]

theorem execHeldEndingWordRelease_canon (t slot : Nat) {s : State} :
    KeepsCanon s (execHeldEndingWordRelease t slot s) := by
  unfold execHeldEndingWordRelease
  (repeat' split) <;> exact keepsCanon_next fun good => by simp [good]

theorem execTlbinvComplete_canon (t slot : Nat) {s : State} :
    KeepsCanon s (execTlbinvComplete t slot s) := by
  unfold execTlbinvComplete
  dsimp only
  (repeat' split) <;> exact keepsCanon_next fun good => by simp [good]

theorem execAsyncTrapDelivery_canon {s : State} (t slot : Nat) : KeepsCanon s (execAsyncTrapDelivery t slot s) := by
  unfold execAsyncTrapDelivery
  dsimp only
  split
  · exact keepsCanon_next id
  · split
    · exact keepsCanon_next id
    · exact keepsCanon_next fun good => State.enterHeld_canon _ _ _ _ (by simp [good])

theorem execCompletionHandlerEntry_canon {s : State} (t slot : Nat) : KeepsCanon s (execCompletionHandlerEntry t slot s) := by
  unfold execCompletionHandlerEntry
  dsimp only
  split
  · exact keepsCanon_next id
  · split
    · exact keepsCanon_next fun good => by simp [good]
    · split
      · refine keepsCanon_next fun good => ?_
        have ended := State.endWait_canon (s := s.modCtx t slot fun c => c.clearEvents ‹_›) t slot ‹_› ‹_› (by simp [good])
        split <;> simp [ended]
      · exact keepsCanon_next fun good => by simp [good]

@[simp] theorem State.overlay_canon {s : State} (l : List (Nat × Nat × Bool)) (good : Canon s.mem s.poison) :
    Canon (s.overlay l).mem (s.overlay l).poison := by
  unfold State.overlay
  exact foldl_canon (fun s x good => mark_canon (s := s.wr (8 * x.1) 8 x.2.1) (wr_canon good ..) ..) _ good

@[simp] theorem State.arriveWhole_canon {s : State} (n : Nat) (r : MeshReq) (good : Canon s.mem s.poison) :
    Canon (State.arriveWhole s n r).mem (State.arriveWhole s n r).poison := by
  unfold State.arriveWhole
  simp [good]

@[simp] theorem State.arrivePart_canon {s : State} (n : Nat) (r : MeshReq) (d : Nat) (good : Canon s.mem s.poison) :
    Canon (State.arrivePart s n r d).mem (State.arrivePart s n r d).poison := by
  unfold State.arrivePart
  simp [good]

theorem execMeshArrival_canon (k : Nat) {s : State} :
    KeepsCanon s (execMeshArrival k s) := by
  unfold execMeshArrival
  (repeat' split) <;> exact keepsCanon_next fun good => by simp [good]

theorem execResultDelivery_canon {s : State} (t slot k : Nat) : KeepsCanon s (execResultDelivery t slot k s) := by
  unfold execResultDelivery
  split
  · exact keepsCanon_next id
  · split
    · exact keepsCanon_next id
    · dsimp only
      split
      · exact keepsCanon_next fun good => State.settle_canon _ _ _ (by simp [good])
      · exact keepsCanon_next fun good => by simp [good]

theorem execSigDelivery_canon (k : Nat) {s : State} :
    KeepsCanon s (execSigDelivery k s) := by
  unfold execSigDelivery
  dsimp only
  (repeat' split) <;> exact keepsCanon_next fun good => by simp [good]

@[simp] theorem State.applyW_canon {s : State} (w : PortW) (good : Canon s.mem s.poison) :
    Canon (s.applyW w).mem (s.applyW w).poison := by
  unfold State.applyW
  exact storeAll_canon (takeRead_canon (sramReads_canon_after good _) _ _) ..

theorem execPortEWriteApply_canon (t k : Nat) {s : State} :
    KeepsCanon s (execPortEWriteApply t k s) := by
  unfold execPortEWriteApply
  (repeat' split) <;> exact keepsCanon_next fun good => by simp [good]

theorem execPatrolScrub_canon {s : State} (t bank line err : Nat) : KeepsCanon s (execPatrolScrub t bank line err s) := by
  have scrubbed (good : Canon s.mem s.poison) (f : Tile → Tile) (l : List Nat) :
      Canon ((s.modTile t f).sramReads l).2.mem ((s.modTile t f).sramReads l).2.poison := sramReads_canon_after (by simp [good]) l
  unfold execPatrolScrub
  dsimp only
  split
  · exact keepsCanon_next id
  · split
    · exact keepsCanon_next fun good => by simp [scrubbed good]
    · split
      · exact keepsCanon_next fun good => State.sramSpoil_inv _ _ (scrubbed good _ _)
      · exact keepsCanon_next fun good => scrubbed good _ _

/-! ### Preempt -/

theorem execPreemptReq_canon (t slot : Nat) {s : State} :
    KeepsCanon s (execPreemptReq t slot s) := by
  unfold execPreemptReq
  dsimp only
  (repeat' split) <;> exact keepsCanon_next fun good => by simp [good]

theorem execPreemption_canon (t slot : Nat) {s : State} :
    KeepsCanon s (execPreemption t slot s) := by
  unfold execPreemption
  dsimp only
  (repeat' split) <;> exact keepsCanon_next fun good => by simp [good]

theorem execDrainLimit_canon (t slot : Nat) {s : State} :
    KeepsCanon s (execDrainLimit t slot s) := by
  unfold execDrainLimit
  (repeat' split) <;> exact keepsCanon_next fun good => by simp [good]

theorem execProofRecordWrite_canon (t slot : Nat) {s : State} :
    KeepsCanon s (execProofRecordWrite t slot s) := by
  unfold execProofRecordWrite
  dsimp only
  (repeat' split) <;> exact keepsCanon_next fun good => by simp [good]

@[simp] theorem State.returnMember_canon {s : State} (m : Member) (good : Canon s.mem s.poison) :
    Canon (State.returnMember s m).mem (State.returnMember s m).poison := by
  unfold State.returnMember
  dsimp only
  split <;> simp [good]

theorem execResumption_canon {s : State} (gang : Nat) : KeepsCanon s (execResumption gang s) := by
  unfold execResumption
  split
  · exact keepsCanon_next id
  · split
    · exact keepsCanon_next fun good => foldl_canon (fun s m good => State.returnMember_canon m good) _ good
    · exact keepsCanon_next id

/-! ### Margin -/

theorem execTransitDetection_canon (t slot : Nat) {s : State} :
    KeepsCanon s (execTransitDetection t slot s) := by
  unfold execTransitDetection
  (repeat' split) <;> exact keepsCanon_next fun good => by simp [good]

theorem execEngineRecomputation_canon (t : Nat) (e : EngOp) {s : State} :
    KeepsCanon s (execEngineRecomputation t e s) := by
  unfold execEngineRecomputation
  (repeat' split) <;> exact keepsCanon_next fun good => by simp [good]

theorem execHalfRateEnd_canon (t : Nat) {s : State} :
    KeepsCanon s (execHalfRateEnd t s) := by
  unfold execHalfRateEnd
  dsimp only
  (repeat' split) <;> exact keepsCanon_next fun good => by simp [good]

theorem execWindowCrossing_canon (t : Nat) {s : State} :
    KeepsCanon s (execWindowCrossing t s) := by
  unfold execWindowCrossing
  dsimp only
  (repeat' split) <;> exact keepsCanon_next fun good => by simp [good]

theorem execMonitorWindowEnd_canon (t : Nat) {s : State} :
    KeepsCanon s (execMonitorWindowEnd t s) := by
  unfold execMonitorWindowEnd
  dsimp only
  (repeat' split) <;> exact keepsCanon_next fun good => by simp [good]

theorem execWindowRestart_canon (t : Nat) {s : State} :
    KeepsCanon s (execWindowRestart t s) := by
  unfold execWindowRestart
  dsimp only
  (repeat' split) <;> exact keepsCanon_next fun good => by simp [good]

theorem execVtgtRaise_canon (t : Nat) {s : State} :
    KeepsCanon s (execVtgtRaise t s) := by
  unfold execVtgtRaise
  dsimp only
  (repeat' split) <;> exact keepsCanon_next fun good => by simp [good]

theorem execVtgtLower_canon (t : Nat) {s : State} :
    KeepsCanon s (execVtgtLower t s) := by
  unfold execVtgtLower
  dsimp only
  (repeat' split) <;> exact keepsCanon_next fun good => by simp [good]

theorem execOperatingPointChange_canon (t op : Nat) {s : State} :
    KeepsCanon s (execOperatingPointChange t op s) := by
  unfold execOperatingPointChange
  dsimp only
  (repeat' split) <;> exact keepsCanon_next fun good => by simp [good]

theorem execAlmanacWrite_canon (t : Nat) {s : State} :
    KeepsCanon s (execAlmanacWrite t s) := by
  unfold execAlmanacWrite
  exact keepsCanon_next fun good => by simp [good]

theorem execLdoTrimUpdate_canon (t : Nat) {s : State} :
    KeepsCanon s (execLdoTrimUpdate t s) := by
  unfold execLdoTrimUpdate
  exact keepsCanon_next fun good => by simp [good]

theorem execRailStep_canon (r : Nat) {s : State} :
    KeepsCanon s (execRailStep r s) := by
  unfold execRailStep
  dsimp only
  (repeat' split) <;> exact keepsCanon_next fun good => by simp [good]

theorem execRailHoldExpiry_canon (r : Nat) {s : State} :
    KeepsCanon s (execRailHoldExpiry r s) := by
  unfold execRailHoldExpiry
  (repeat' split) <;> exact keepsCanon_next fun good => by simp [good]

theorem execVminSample_canon (die r mv : Nat) {s : State} :
    KeepsCanon s (execVminSample die r mv s) := by
  unfold execVminSample
  (repeat' split) <;> exact keepsCanon_next fun good => by simp [good]

theorem execVminRearm_canon (die r mv : Nat) {s : State} :
    KeepsCanon s (execVminRearm die r mv s) := by
  unfold execVminRearm
  exact keepsCanon_next fun good => by simp [good]

theorem execThermalObserverUpdate_canon (tnow tfc : List Nat) (watts : Nat) {s : State} :
    KeepsCanon s (execThermalObserverUpdate tnow tfc watts s) := by
  unfold execThermalObserverUpdate
  dsimp only
  (repeat' split) <;> exact keepsCanon_next fun good => by simp [good]

theorem execEmergencyGating_canon {s : State} :
    KeepsCanon s (execEmergencyGating s) := by
  unfold execEmergencyGating
  exact keepsCanon_next fun good => by simp [good]

theorem execGatingEnd_canon {s : State} :
    KeepsCanon s (execGatingEnd s) := by
  unfold execGatingEnd
  exact keepsCanon_next fun good => by simp [good]

theorem execInjctlEn_canon (die : Nat) {s : State} :
    KeepsCanon s (execInjctlEn die s) := by
  unfold execInjctlEn
  exact keepsCanon_next fun good => by simp [good]

/-! ### Twin -/

theorem execTwinWindowClose_canon {s : State} (p : Nat) : KeepsCanon s (execTwinWindowClose p s) := by
  unfold execTwinWindowClose
  split
  · exact keepsCanon_next id
  · split
    · exact keepsCanon_next id
    · split
      · exact keepsCanon_next id
      next sent => exact keepsCanon_next fun good => by simp [State.sendTwin_frame sent, good]

theorem execTwinDigest_canon {s : State} (p win digest : Nat) : KeepsCanon s (execTwinDigest p win digest s) := by
  unfold execTwinDigest
  split
  · exact keepsCanon_next id
  · split
    · exact keepsCanon_next id
    next came => split <;> exact keepsCanon_next fun good => by simp [State.takeTwin_frame came, good]

theorem execInterimDigest_canon {s : State} (p : Nat) : KeepsCanon s (execInterimDigest p s) := by
  unfold execInterimDigest
  split
  · exact keepsCanon_next id
  · split
    next came => split <;> exact keepsCanon_next fun good => by simp [State.takeTwin_frame came, good]
    · split
      · exact keepsCanon_next id
      next sent => exact keepsCanon_next fun good => by simp [State.sendTwin_frame sent, good]

theorem execTwinLost_canon (p : Nat) {s : State} :
    KeepsCanon s (execTwinLost p s) := by
  unfold execTwinLost
  (repeat' split) <;> exact keepsCanon_next fun good => by simp [good]

/-! ### Manage -/

/-- A command of the management path, done or refused, keeps what its action keeps. -/
theorem State.command_canon {s : State} (ag : Agent) {act : State → State × Nat}
    (keeps : ∀ u, Canon u.mem u.poison → Canon (act u).1.mem (act u).1.poison) (good : Canon s.mem s.poison) :
    Canon (s.command ag act).mem (s.command ag act).poison := by
  unfold State.command
  split
  · simp [keeps s good]
  · simp [good]

theorem State.partCommand_canon {s : State} (ag : Agent) (p : Nat) {act : Part → State → State × Nat}
    (keeps : ∀ x u, Canon u.mem u.poison → Canon (act x u).1.mem (act x u).1.poison) (good : Canon s.mem s.poison) :
    Canon (s.partCommand ag p act).mem (s.partCommand ag p act).poison := by
  refine State.command_canon ag (fun u good => ?_) good
  split
  · exact good
  · split
    · exact good
    · exact keeps _ _ good

theorem execPartCreate_canon {s : State} (ag : Agent) (p : Nat) (test : Bool) : KeepsCanon s (execPartCreate ag p test s) :=
  keepsCanon_next <| State.command_canon ag fun u good => by split <;> exact good

theorem execPartDestroy_canon (ag : Agent) (p : Nat) {s : State} :
    KeepsCanon s (execPartDestroy ag p s) := by
  unfold execPartDestroy
  (repeat' split) <;> exact keepsCanon_next fun good => by simp [good]

theorem execLinkCompletion_canon (t tag : Nat) {s : State} :
    KeepsCanon s (execLinkCompletion t tag s) := by
  unfold execLinkCompletion
  (repeat' split) <;> exact keepsCanon_next fun good => by simp [good]

theorem execTileAssign_canon {s : State} (ag : Agent) (p die : Nat) (mask : BitVec 64) :
    KeepsCanon s (execTileAssign ag p die mask s) :=
  keepsCanon_next <| State.partCommand_canon ag p fun x u good => by split <;> exact good

theorem execVfBind_canon {s : State} (ag : Agent) (p vf : Nat) (on : Bool) : KeepsCanon s (execVfBind ag p vf on s) :=
  keepsCanon_next <| State.partCommand_canon ag p fun x u good => by
    dsimp only
    (repeat' split) <;> exact good

theorem execSuptab_canon {s : State} (ag : Agent) (p t slot : Nat) (tvec proof : BitVec 64) :
    KeepsCanon s (execSuptab ag p t slot tvec proof s) :=
  keepsCanon_next <| State.partCommand_canon ag p fun x u good => by split <;> exact good

theorem execSpanGrant_canon {s : State} (ag : Agent) (p st span key : Nat) : KeepsCanon s (execSpanGrant ag p st span key s) :=
  keepsCanon_next <| State.partCommand_canon ag p fun x u good => by
    dsimp only
    split
    · exact good
    · split
      · exact good
      · simp [canon_filter good]

theorem execKeyRotate_canon {s : State} (ag : Agent) (p k : Nat) : KeepsCanon s (execKeyRotate ag p k s) :=
  keepsCanon_next <| State.partCommand_canon ag p fun x u good => by
    dsimp only
    split
    · exact good
    · split
      · exact good
      · simp [good]

theorem execGrantMask_canon {s : State} (ag : Agent) (p : Nat) (mask : BitVec 32) : KeepsCanon s (execGrantMask ag p mask s) :=
  keepsCanon_next <| State.partCommand_canon ag p fun x u good => by simp [good]

theorem execRailVote_canon {s : State} (ag : Agent) (p rail mv : Nat) : KeepsCanon s (execRailVote ag p rail mv s) :=
  keepsCanon_next <| State.partCommand_canon ag p fun x u good => by split <;> simp [good]

theorem execPreemptCmd_canon {s : State} (ag : Agent) (p : Nat) (job : BitVec 64) (gi : Nat) :
    KeepsCanon s (execPreemptCmd ag p job gi s) :=
  keepsCanon_next <| State.partCommand_canon ag p fun x u good => by (repeat' split) <;> simp [good]

theorem execStackCtl_canon {s : State} (ag : Agent) (p st : Nat) (w : StackWrite) : KeepsCanon s (execStackCtl ag p st w s) :=
  keepsCanon_next <| State.partCommand_canon ag p fun x u good => by (repeat' split) <;> simp [good]

theorem execAlmanacCmd_canon {s : State} (ag : Agent) (p t : Nat) (op : AlmanacOp) : KeepsCanon s (execAlmanacCmd ag p t op s) :=
  keepsCanon_next <| State.partCommand_canon ag p fun x u good => by (repeat' split) <;> simp [good]

theorem execTwinSetup_canon {s : State} (ag : Agent) (p : Nat) (on : Bool) : KeepsCanon s (execTwinSetup ag p on s) :=
  keepsCanon_next <| State.partCommand_canon ag p fun x u good => by split <;> simp [good]

theorem execInjectCmd_canon {s : State} (ag : Agent) (p die : Nat) (seed tiles ctl : BitVec 64) :
    KeepsCanon s (execInjectCmd ag p die seed tiles ctl s) :=
  keepsCanon_next <| State.partCommand_canon ag p fun x u good => by (repeat' split) <;> simp [good]

theorem execRootSet_canon {s : State} (ag : Agent) (p : Nat) (set : Bool) (pa : Nat) : KeepsCanon s (execRootSet ag p set pa s) :=
  keepsCanon_next <| State.partCommand_canon ag p fun x u good => by (repeat' split) <;> simp [good]

theorem execOwnerClaim_canon (host board : Bool) {s : State} :
    KeepsCanon s (execOwnerClaim host board s) := by
  unfold execOwnerClaim
  (repeat' split) <;> exact keepsCanon_next fun good => by simp [good]

theorem execHandover_canon {s : State} (ag : Agent) : KeepsCanon s (execHandover ag s) :=
  keepsCanon_next <| State.command_canon ag fun _ good => good

theorem execAccept_canon (ag : Agent) {s : State} :
    KeepsCanon s (execAccept ag s) := by
  unfold execAccept
  (repeat' split) <;> exact keepsCanon_next fun good => by simp [good]

theorem execHandoverExpiry_canon {s : State} :
    KeepsCanon s (execHandoverExpiry s) := by
  unfold execHandoverExpiry
  exact keepsCanon_next fun good => by simp [good]

theorem execDrvfeat_canon (v : BitVec 128) {s : State} :
    KeepsCanon s (execDrvfeat v s) := by
  unfold execDrvfeat
  exact keepsCanon_next fun good => by simp [good]

theorem execLaunchWindowWrite_canon (vf off len : Nat) (pkt : BitVec 512) {s : State} :
    KeepsCanon s (execLaunchWindowWrite vf off len pkt s) := by
  unfold execLaunchWindowWrite
  dsimp only
  (repeat' split) <;> exact keepsCanon_next fun good => by simp [good]

theorem execFunctionLevelReset_canon (vf : Nat) {s : State} :
    KeepsCanon s (execFunctionLevelReset vf s) := by
  unfold execFunctionLevelReset
  exact keepsCanon_next fun good => by simp [good]

theorem execMsiXCoalescingTimeout_canon (vf : Nat) {s : State} :
    KeepsCanon s (execMsiXCoalescingTimeout vf s) := by
  unfold execMsiXCoalescingTimeout
  (repeat' split) <;> exact keepsCanon_next fun good => by simp [good]

/-! ### Start -/

/-- A loss of power empties the memories. -/
@[simp] theorem State.powerDown_canon (s : State) : Canon s.powerDown.mem s.powerDown.poison :=
  ⟨rfl, List.Pairwise.nil⟩

@[simp] theorem State.runStart_frame (s : State) (cold : Bool) (failing : Nat) (bad : List Nat) (sts : List Stack) :
    (s.runStart cold failing bad sts).mem = s.mem ∧ (s.runStart cold failing bad sts).poison = s.poison := by
  unfold State.runStart
  dsimp only
  generalize (if (failing = 0 ∨ 4 < failing) ∧ (!s.imageSigned s.image) = true then 4 else failing) = n
  by_cases stops : n ≠ 0 ∧ n ≤ 9
  · rw [if_pos stops]
    (repeat' split) <;> exact ⟨rfl, rfl⟩
  · rw [if_neg stops, (State.settleRails_frame _).1, (State.settleRails_frame _).2]
    (repeat' split) <;> exact ⟨rfl, rfl⟩

@[simp] theorem State.startAgain_canon {s s0 : State} (cold : Bool) (failing : Nat) (bad : List Nat) (sts : List Stack)
    (good : Canon s.mem s.poison) (fresh : Canon s0.mem s0.poison) :
    Canon (s.startAgain s0 cold failing bad sts).mem (s.startAgain s0 cold failing bad sts).poison := by
  unfold State.startAgain
  split
  · exact fresh
  · split <;> simp [good, fresh]

theorem execColdStart_canon {s : State} (failing : Nat) (bad : List Nat) : KeepsCanon s (execColdStart failing bad s) := by
  unfold execColdStart
  split
  · exact keepsCanon_next id
  · exact keepsCanon_next fun good => State.startAgain_canon _ _ _ _ good (State.powerDown_canon s)

theorem execWarmStart_canon {s : State} (w : WarmReq) : KeepsCanon s (execWarmStart w s) := by
  unfold execWarmStart
  split
  · exact keepsCanon_next id
  · split
    · refine keepsCanon_next fun good => ?_
      split <;> simp [good]
    · exact keepsCanon_next fun good => State.startAgain_canon _ _ _ _ good (State.powerDown_canon s.flushAlmanac)

theorem execPowerLoss_canon {s : State} : KeepsCanon s (execPowerLoss s) :=
  keepsCanon_next fun _ => State.powerDown_canon s

theorem execPowerState_canon {s : State} (ag : Agent) (p : Nat) (w : PowerState) : KeepsCanon s (execPowerState ag p w s) :=
  keepsCanon_next <| State.command_canon ag fun u good => by
    split
    · (repeat' split) <;> exact good
    · exact State.powerDown_canon u.flushAlmanac
    · exact good

/-! ### Window -/

theorem execCommandWord_canon {s : State} (ag : Agent) (w : BitVec 512) : KeepsCanon s (execCommandWord ag w s) := by
  unfold execCommandWord
  dsimp only
  split
  · exact execPartCreate_canon ..
  · exact execPartDestroy_canon ..
  · exact execTileAssign_canon ..
  · exact execVfBind_canon ..
  · exact execSuptab_canon ..
  · exact execSpanGrant_canon ..
  · exact execKeyRotate_canon ..
  · exact execGrantMask_canon ..
  · exact execRailVote_canon ..
  · exact execPreemptCmd_canon ..
  · exact execStackCtl_canon ..
  · exact execAlmanacCmd_canon ..
  · exact execTwinSetup_canon ..
  · exact execInjectCmd_canon ..
  · exact execPowerState_canon ..
  · exact execHandover_canon ..
  · exact execAccept_canon ..
  · exact execRootSet_canon ..
  · exact keepsCanon_next fun good => by simp [good]

theorem execRegisterWrite_canon {s : State} (r : MgmtReg) (v : BitVec 64) : KeepsCanon s (execRegisterWrite r v s) := by
  unfold execRegisterWrite
  dsimp only
  split
  case h_8 => exact execCommandWord_canon ..
  all_goals (repeat' split) <;> exact keepsCanon_next fun good => by simp [good]

/-! ### Debug -/

@[simp] theorem State.debugPut_canon {s : State} (t slot : Nat) (r : DebugReg) (v : Nat) (good : Canon s.mem s.poison) :
    Canon (s.debugPut t slot r v).mem (s.debugPut t slot r v).poison := by
  unfold State.debugPut
  split
  · exact mark_canon (wr_canon good ..) ..
  · simp [good]

theorem execDebugPortRequest_canon (r : DebugReq) {s : State} :
    KeepsCanon s (execDebugPortRequest r s) := by
  unfold execDebugPortRequest
  dsimp only
  (repeat' split) <;> exact keepsCanon_next fun good => by simp [good]

/-! ### Scalar -/

@[simp] theorem alu2_canon (i : Instr) (f : FSr) (op : W64 → W64 → W64) {s : State} (good : Canon s.mem s.poison) :
    (alu2 i f op s).canon := by
  unfold alu2
  simp [good]

@[simp] theorem alu3_canon (i : Instr) (f : FSr) (op : W64 → W64 → W64 → W64) {s : State} (good : Canon s.mem s.poison) :
    (alu3 i f op s).canon := by
  unfold alu3
  simp [good]

@[simp] theorem alu1_canon (i : Instr) (f : FS1) (op : W64 → W64) {s : State} (good : Canon s.mem s.poison) :
    (alu1 i f op s).canon := by
  unfold alu1
  simp [good]

@[simp] theorem aluI_canon (i : Instr) (f : FSi) (op : W64 → W64 → W64) {s : State} (good : Canon s.mem s.poison) :
    (aluI i f op s).canon := by
  unfold aluI
  simp [good]

@[simp] theorem aluSh_canon (i : Instr) (f : FSi) (op : W64 → Nat → W64) {s : State} (good : Canon s.mem s.poison) :
    (aluSh i f op s).canon := by
  unfold aluSh
  simp [good]

@[simp] theorem loadImm_canon (i : Instr) (f : FSl) (v : State → W64) {s : State} (good : Canon s.mem s.poison) :
    (loadImm i f v s).canon := by
  unfold loadImm
  simp [good]

@[simp] theorem fpRes_canon (i : Instr) (d : BitVec 5) (w : Bool) (p : Bool) (r : Nat × Flags) {s : State}
    (good : Canon s.mem s.poison) :
    (fpRes i d w p r s).canon := by
  unfold fpRes
  simp [good]

@[simp] theorem fp2_canon (i : Instr) (f : FSr) (op : Nat → W64 → W64 → Nat × Flags) {s : State} (good : Canon s.mem s.poison) :
    (fp2 i f op s).canon := by
  unfold fp2
  simp [good]

@[simp] theorem fp1_canon (i : Instr) (f : FS1) (op : Nat → W64 → Nat × Flags) {s : State} (good : Canon s.mem s.poison) :
    (fp1 i f op s).canon := by
  unfold fp1
  simp [good]

@[simp] theorem fmaRes_canon (i : Instr) (f : FSr) {s : State} (good : Canon s.mem s.poison) :
    (fmaRes i f s).canon := by
  unfold fmaRes
  simp [good]

/-! ### VectorOps -/

@[simp] theorem putEls_canon (i : Instr) (d : BitVec 5) (wr : Bool) (step w : Nat) (l : List El) {s : State}
    (good : Canon s.mem s.poison) :
    (putEls i d wr step w l s).canon := by
  unfold putEls
  simp [good]

@[simp] theorem int2_canon (i : Instr) (f : FVr) (op : Nat → Nat → Nat → Nat) {s : State} (good : Canon s.mem s.poison) :
    (int2 i f op s).canon := by
  unfold int2
  simp [good]

@[simp] theorem int1_canon (i : Instr) (f : FV1) (op : Nat → Nat → Nat) {s : State} (good : Canon s.mem s.poison) :
    (int1 i f op s).canon := by
  unfold int1
  simp [good]

@[simp] theorem intI_canon (i : Instr) (f : FVi) (op : Nat → Nat → Nat) {s : State} (good : Canon s.mem s.poison) :
    (intI i f op s).canon := by
  unfold intI
  simp [good]

@[simp] theorem int3_canon (i : Instr) (f : FVr) (op : Nat → Nat → Nat → Nat → Nat) {s : State} (good : Canon s.mem s.poison) :
    (int3 i f op s).canon := by
  unfold int3
  simp [good]

@[simp] theorem widen_canon (i : Instr) (f : FVr) (op : Int → Int → Int) {s : State} (good : Canon s.mem s.poison) :
    (widen i f op s).canon := by
  unfold widen
  simp [good]

@[simp] theorem compare2_canon (i : Instr) (d : BitVec 5) (w : Nat) (op : Nat → Nat → Bool × Flags) {s : State}
    (good : Canon s.mem s.poison) :
    (compare2 i d w op s).canon := by
  unfold compare2
  simp [good]

@[simp] theorem icmp_canon (i : Instr) (f : FVr) (op : Nat → Nat → Nat → Bool) {s : State} (good : Canon s.mem s.poison) :
    (icmp i f op s).canon := by
  unfold icmp
  simp [good]

@[simp] theorem putPred_canon (d : BitVec 5) (r : Pred) {s : State} (good : Canon s.mem s.poison) :
    (putPred d r s).canon := by
  unfold putPred
  simp [good]

@[simp] theorem pred2_canon (i : Instr) (f : FVp) (op : Pred → Pred → Pred) {s : State} (good : Canon s.mem s.poison) :
    (pred2 i f op s).canon := by
  unfold pred2
  simp [good]

@[simp] theorem vbcast_canon (i : Instr) (f : FV1) {s : State} (good : Canon s.mem s.poison) :
    (vbcast i f s).canon := by
  unfold vbcast
  simp [good]

@[simp] theorem slide_canon (i : Instr) (f : FVr) (sel : Nat → Nat → Option Nat) {s : State} (good : Canon s.mem s.poison) :
    (slide i f sel s).canon := by
  unfold slide
  simp [good]

@[simp] theorem vperm_canon (i : Instr) (f : FVr) {s : State} (good : Canon s.mem s.poison) :
    (vperm i f s).canon := by
  unfold vperm
  simp [good]

@[simp] theorem vtos_canon (i : Instr) (f : FVr) {s : State} (good : Canon s.mem s.poison) :
    (vtos i f s).canon := by
  unfold vtos
  simp [good]

@[simp] theorem vins_canon (i : Instr) (f : FVr) {s : State} (good : Canon s.mem s.poison) :
    (vins i f s).canon := by
  unfold vins
  simp [good]

@[simp] theorem redI_canon (i : Instr) (f : FV1) (op : Int → Int → Int) {s : State} (good : Canon s.mem s.poison) :
    (redI i f op s).canon := by
  unfold redI
  simp [good]

@[simp] theorem redF_canon (i : Instr) (f : FV1) (op : FpFmt → Nat → Nat → Nat → Nat × Flags) {s : State}
    (good : Canon s.mem s.poison) :
    (redF i f op s).canon := by
  unfold redF
  simp [good]

@[simp] theorem putFp_canon (i : Instr) (d : BitVec 5) (wr : Bool) (w : Nat) (l : List (El × Flags)) {s : State}
    (good : Canon s.mem s.poison) :
    (putFp i d wr w l s).canon := by
  unfold putFp
  simp [good]

@[simp] theorem vfp2_canon (i : Instr) (f : FVr) (op : FpFmt → Nat → Nat → Nat → Nat × Flags) {s : State}
    (good : Canon s.mem s.poison) :
    (vfp2 i f op s).canon := by
  unfold vfp2
  simp [good]

@[simp] theorem vfp1_canon (i : Instr) (f : FV1) (op : FpFmt → Nat → Nat → Nat × Flags) {s : State} (good : Canon s.mem s.poison) :
    (vfp1 i f op s).canon := by
  unfold vfp1
  simp [good]

@[simp] theorem vfp3_canon (i : Instr) (f : FVr) (neg : Bool) {s : State} (good : Canon s.mem s.poison) :
    (vfp3 i f neg s).canon := by
  unfold vfp3
  simp [good]

@[simp] theorem fcmp_canon (i : Instr) (f : FVr) (op : Fv → Fv → Bool × Flags) {s : State} (good : Canon s.mem s.poison) :
    (fcmp i f op s).canon := by
  unfold fcmp
  simp [good]

@[simp] theorem pack_canon (i : Instr) (f : FV1) (fmt w : Nat) {s : State} (good : Canon s.mem s.poison) :
    (pack i f fmt w s).canon := by
  unfold pack
  simp [good]

@[simp] theorem unpack_canon (i : Instr) (f : FV1) (fmt w : Nat) {s : State} (good : Canon s.mem s.poison) :
    (unpack i f fmt w s).canon := by
  unfold unpack
  simp [good]

@[simp] theorem rns1_canon (i : Instr) (f : FVp1) (op : Nat → Nat) {s : State} (good : Canon s.mem s.poison) :
    (rns1 i f op s).canon := by
  unfold rns1
  simp [good]

@[simp] theorem rns2_canon (i : Instr) (f : FVp) (op : Nat → Nat → Nat) {s : State} (good : Canon s.mem s.poison) :
    (rns2 i f op s).canon := by
  unfold rns2
  simp [good]

@[simp] theorem rnsmac_canon (i : Instr) (f : FVp) {s : State} (good : Canon s.mem s.poison) :
    (rnsmac i f s).canon := by
  unfold rnsmac
  simp [good]

/-! ### Dispatch -/

theorem record_canon {s : State} {r : WordRes} (good : Canon s.mem s.poison) (meant : r.canon) :
    Canon (s.record r).mem (s.record r).poison := by
  cases r with
  | hold => exact good
  | _ => exact meant

/-- A word keeps the canonical form where its meaning does. -/
theorem runWord_canon {i : Instr} {eff : State → WordRes} {s : State} (keeps : ∀ o : State, Canon o.mem o.poison → (eff o).canon) :
    KeepsCanon s (runWord i eff s) := by
  unfold runWord
  dsimp only
  split
  · exact keepsCanon_next fun good => by simp [good]
  · split
    · exact keepsCanon_next fun good => by simp [good]
    · split
      · exact keepsCanon_next fun good => by simp [good]
      · split
        · exact keepsCanon_next fun good =>
            State.closeWord_canon _ (record_canon (s := s.openBundle) (r := .ok s.openBundle) (by simp [good]) (by simp [good]))
        · split
          · exact keepsCanon_next fun good => by simp [good]
          · split
            · exact keepsCanon_next id
            · refine keepsCanon_next fun good => ?_
              have meant := keeps s.openBundle (by simp [good])
              exact State.closeWord_canon _ (record_canon (s := s.openBundle) (by simp [good]) meant)

/-- Every instruction goes on to a next state, and keeps the canonical form of the memories: a word as its meaning does,
  an event of the
device by its own rule. -/
theorem exec_canon (i : Instr) (s : State) : KeepsCanon s (exec i s) := by
  cases i with
  | br _ | brl _ | jr _ | jrl _ | bz _ | bnz _ | bltz _ | bgez _ | bp _ | bnp _ | bany _ | bnone _ | bloop _ | lcset _ | trap _
  | waitev _ | brk _ | add _ | sub _ | and _ | or _ | xor _ | andn _ | sll _ | srl _ | sra _ | mul _ | mulh _ | mulhu _ | div _
  | divu _ | rem _ | remu _ | min _ | max _ | minu _ | maxu _ | slt _ | sltu _ | seq _ | sne _ | addw _ | subw _ | mulw _
  | cmovz _ | cmovnz _ | bfx _ | bfi _ | clz _ | ctz _ | popc _ | sextb _ | sexth _ | sextw _ | zextw _ | bswap _ | addi _
  | andi _ | ori _ | xori _ | slli _ | srli _ | srai _ | slti _ | sltiu _ | muli _ | li _ | lui _ | fadd _ | fsub _ | fmul _
  | fma _ | fmin _ | fmax _ | feq _ | flt _ | fle _ | fdiv _ | fsqrt _ | fcvtif _ | fcvtfi _ | csrr _ | csrw _ | csrs _
  | csrc _ | scsrr _ | scsrw _ | scsrs _ | scsrc _ | ldb _ | ldbu _ | ldh _ | ldhu _ | ldw _ | ldwu _ | ldd _ | stb _ | sth _
  | stw _ | std _ | ldv _ | stv _ | ldvf _ | stvf _ | ldvg _ | stvs _ | ldvb _ | ldp _ | aadd _ | amin _ | amax _ | aminu _
  | amaxu _ | aand _ | aor _ | axor _ | aswp _ | acas _ | afadd _ | barv _ | bwait _ | binit _ | fence _ | xfence _ | vadd _
  | vsub _ | vmul _ | vmulh _ | vmulhu _ | vand _ | vor _ | vxor _ | vshl _ | vshr _ | vsra _ | vmin _ | vmax _ | vminu _
  | vmaxu _ | vabs _ | vneg _ | vadds _ | vsubs _ | vmac _ | vdot4 _ | vmulw _ | vaddw _ | vshli _ | vshri _ | vsrai _
  | vaddi _ | vceq _ | vcne _ | vclt _ | vcle _ | vcltu _ | vcleu _ | pand _ | por _ | pxor _ | pandn _ | pnot _ | pany _
  | ppopc _ | pfirst _ | vmov _ | vbcast _ | vslup _ | vsldn _ | vperm _ | vtos _ | vins _ | vradd _ | vrmax _ | vrmin _
  | vrfadd _ | vrfmax _ | vfadd _ | vfsub _ | vfmul _ | vfma _ | vfms _ | vfmin _ | vfmax _ | vfabs _ | vfneg _ | vfceq _
  | vfclt _ | vfcle _ | vfcun _ | vfdiv _ | vfsqrt _ | vfrsq _ | vcvtif _ | vcvtfi _ | vpack8 _ | vunpk8 _ | vpack16 _
  | vunpk16 _ | vrnse _ | vrnsd _ | vrnsadd _ | vrnsmul _ | vrnsmac _ | mldtScalar _ | mldtVector _ | mset _ | mgo _ | mstat _
  | mwait _ | mclr _ | mabort _ | msplit _ | mwb _ | cpy _ | cwait _ | cstat _ | ccan _ | lsend _ | lrecv _ | lradd _
  | lsched _ | lstat _ | sig _ | swait _ | stry _ | sset _ | hpush _ | hpop _ | hupd _ | hread _ | hsum _ | hclose _ | hdone _
  | hopen _ | launch _ | expectAdd _ | post _ | jwait _ | rget _ | suspend _ | handoff _ | tlbinv _ | pblk _ | limm _ | pmap _
  | nop | halt | cret | xret | tdone =>
    unfold exec
    refine runWord_canon fun o good => ?_
    simp [good]
  | transitDetection _ _ => exact execTransitDetection_canon ..
  | engineRecomputation _ _ => exact execEngineRecomputation_canon ..
  | halfRateEnd _ => exact execHalfRateEnd_canon ..
  | asyncTrapDelivery _ _ => exact execAsyncTrapDelivery_canon ..
  | completionHandlerEntry _ _ => exact execCompletionHandlerEntry_canon ..
  | swaitWake _ _ => exact execSwaitWake_canon ..
  | cwaitWake _ _ => exact execCwaitWake_canon ..
  | mwaitWake _ _ => exact execMwaitWake_canon ..
  | jwaitWake _ _ => exact execJwaitWake_canon ..
  | waitevWake _ _ => exact execWaitevWake_canon ..
  | bwaitRead _ _ => exact execBwaitRead_canon ..
  | bwaitLimit _ _ => exact execBwaitLimit_canon ..
  | heldEndingWordRelease _ _ => exact execHeldEndingWordRelease_canon ..
  | instructionCacheFill _ _ => exact execInstructionCacheFill_canon ..
  | parameterBlockFill _ _ => exact execParameterBlockFill_canon ..
  | matrixCommandStart _ => exact execMatrixCommandStart_canon ..
  | matrixStep _ => exact execMatrixStep_canon ..
  | matrixStallResume _ => exact execMatrixStallResume_canon ..
  | mwbRow _ => exact execMwbRow_canon ..
  | matrixClearRun _ => exact execMatrixClearRun_canon ..
  | matrixCompletion _ => exact execMatrixCompletion_canon ..
  | copyBegin _ _ => exact execCopyBegin_canon ..
  | copyUnitRetire _ _ => exact execCopyUnitRetire_canon ..
  | copyStallResume _ _ => exact execCopyStallResume_canon ..
  | copyCompletion _ _ => exact execCopyCompletion_canon ..
  | walk _ _ _ _ => exact execWalk_canon ..
  | tlbinvComplete _ _ => exact execTlbinvComplete_canon ..
  | closingPoint _ _ _ _ _ => exact execClosingPoint_canon ..
  | readLineArrival _ _ => exact execReadLineArrival_canon ..
  | writePerformed _ _ => exact execWritePerformed_canon ..
  | retry _ _ => exact execRetry_canon ..
  | thermalStateChange _ _ => exact execThermalStateChange_canon ..
  | ownerEntryEffect _ => exact execOwnerEntryEffect_canon ..
  | sctlQuiesce _ => exact execSctlQuiesce_canon ..
  | quiesced _ => exact execQuiesced_canon ..
  | sctlRatio _ _ => exact execSctlRatio_canon ..
  | laneRetrainComplete _ => exact execLaneRetrainComplete_canon ..
  | plateFill _ _ _ => exact execPlateFill_canon ..
  | plateWrite _ _ => exact execPlateWrite_canon ..
  | plateCommit _ _ => exact execPlateCommit_canon ..
  | resealCommit _ _ => exact execResealCommit_canon ..
  | keyRotationGroup _ _ => exact execKeyRotationGroup_canon ..
  | patrolScrub _ _ _ _ => exact execPatrolScrub_canon ..
  | meshArrival _ => exact execMeshArrival_canon ..
  | sigDelivery _ => exact execSigDelivery_canon ..
  | portEWriteApply _ _ => exact execPortEWriteApply_canon ..
  | gangDispatch _ => exact execGangDispatch_canon ..
  | tileClaim _ _ => exact execTileClaim_canon ..
  | jobCompletion _ _ => exact execJobCompletion_canon ..
  | continuationResume _ _ => exact execContinuationResume_canon ..
  | preemptReq _ _ => exact execPreemptReq_canon ..
  | preemption _ _ => exact execPreemption_canon ..
  | drainLimit _ _ => exact execDrainLimit_canon ..
  | proofRecordWrite _ _ => exact execProofRecordWrite_canon ..
  | resumption _ => exact execResumption_canon ..
  | windowCrossing _ => exact execWindowCrossing_canon ..
  | monitorWindowEnd _ => exact execMonitorWindowEnd_canon ..
  | windowRestart _ => exact execWindowRestart_canon ..
  | vtgtRaise _ => exact execVtgtRaise_canon ..
  | vtgtLower _ => exact execVtgtLower_canon ..
  | operatingPointChange _ _ => exact execOperatingPointChange_canon ..
  | almanacWrite _ => exact execAlmanacWrite_canon ..
  | ldoTrimUpdate _ => exact execLdoTrimUpdate_canon ..
  | railStep _ => exact execRailStep_canon ..
  | railHoldExpiry _ => exact execRailHoldExpiry_canon ..
  | vminSample _ _ _ => exact execVminSample_canon ..
  | vminRearm _ _ _ => exact execVminRearm_canon ..
  | thermalObserverUpdate _ _ _ => exact execThermalObserverUpdate_canon ..
  | emergencyGating => exact execEmergencyGating_canon
  | gatingEnd => exact execGatingEnd_canon
  | injctlEn _ => exact execInjctlEn_canon ..
  | flitReceive _ _ _ => exact execFlitReceive_canon ..
  | nak _ _ => exact execNak_canon ..
  | retrainComplete _ _ => exact execRetrainComplete_canon ..
  | portHold _ => exact execPortHold_canon ..
  | clearFlit _ => exact execClearFlit_canon ..
  | dataFlit _ => exact execDataFlit_canon ..
  | lastFlit _ => exact execLastFlit_canon ..
  | doneFlit _ => exact execDoneFlit_canon ..
  | controlFlit _ => exact execControlFlit_canon ..
  | linkCompletion _ _ => exact execLinkCompletion_canon ..
  | scheduleStep _ _ => exact execScheduleStep_canon ..
  | memberDone _ _ _ => exact execMemberDone_canon ..
  | memberCommit _ _ => exact execMemberCommit_canon ..
  | memberFail _ _ _ => exact execMemberFail_canon ..
  | scheduleRestart _ _ _ _ => exact execScheduleRestart_canon ..
  | coordinatorQuery _ _ _ => exact execCoordinatorQuery_canon ..
  | memberTimeout _ _ _ => exact execMemberTimeout_canon ..
  | twinWindowClose _ => exact execTwinWindowClose_canon ..
  | twinDigest _ _ _ => exact execTwinDigest_canon ..
  | interimDigest _ => exact execInterimDigest_canon ..
  | twinLost _ => exact execTwinLost_canon ..
  | launchWindowWrite vf off len pkt =>
    unfold exec
    exact execLaunchWindowWrite_canon vf off len pkt
  | functionLevelReset _ => exact execFunctionLevelReset_canon ..
  | partCreate _ _ _ => exact execPartCreate_canon ..
  | partDestroy _ _ => exact execPartDestroy_canon ..
  | tileAssign _ _ _ _ => exact execTileAssign_canon ..
  | vfBind _ _ _ _ => exact execVfBind_canon ..
  | suptab _ _ _ _ _ _ => exact execSuptab_canon ..
  | spanGrant _ _ _ _ _ => exact execSpanGrant_canon ..
  | keyRotate _ _ _ => exact execKeyRotate_canon ..
  | grantMask _ _ _ => exact execGrantMask_canon ..
  | railVote _ _ _ _ => exact execRailVote_canon ..
  | preemptCmd _ _ _ _ => exact execPreemptCmd_canon ..
  | stackCtl _ _ _ _ => exact execStackCtl_canon ..
  | almanacCmd _ _ _ _ => exact execAlmanacCmd_canon ..
  | twinSetup _ _ _ => exact execTwinSetup_canon ..
  | injectCmd _ _ _ _ _ _ => exact execInjectCmd_canon ..
  | powerState ag p w => exact execPowerState_canon ag p w
  | handover _ => exact execHandover_canon ..
  | accept _ => exact execAccept_canon ..
  | handoverExpiry => exact execHandoverExpiry_canon
  | rootSet _ _ _ _ => exact execRootSet_canon ..
  | ownerClaim _ _ => exact execOwnerClaim_canon ..
  | drvfeat _ => exact execDrvfeat_canon ..
  | coldStart _ _ => exact execColdStart_canon ..
  | warmStart _ => exact execWarmStart_canon ..
  | registerWrite _ _ => exact execRegisterWrite_canon ..
  | resultDelivery _ _ _ => exact execResultDelivery_canon ..
  | linkTraining _ _ _ => exact execLinkTraining_canon ..
  | powerLoss => exact execPowerLoss_canon
  | debugPortRequest _ => exact execDebugPortRequest_canon ..
  | msiXCoalescingTimeout _ => exact execMsiXCoalescingTimeout_canon ..

/-! ### Moves -/

theorem waiter_canon {i : Instr} {eff : State → WordRes} (found : waiter i = some eff) {s : State} (good : Canon s.mem s.poison) :
    (eff s).canon := by
  unfold waiter at found
  split at found
  case h_7 => contradiction
  all_goals
    obtain rfl := Option.some.inj found
    simp [good]

@[simp] theorem State.waitsFrom_canon {s : State} (pos : Nat) (ws : List Instr) (good : Canon s.mem s.poison) :
    Canon (s.waitsFrom pos ws).1.mem (s.waitsFrom pos ws).1.poison := by
  induction ws generalizing s pos with
  | nil => exact good
  | cons i r ih =>
    unfold State.waitsFrom
    split
    · exact ih _ good
    next found =>
      split
      next waits =>
        refine ih _ ?_
        have word : waiter i = some ‹_› := by
          split at found
          · exact found
          · contradiction
        have meant := waiter_canon word (s := s.modIss fun x => { x with pos := pos }) (by simp [good])
        rw [waits] at meant
        exact meant
      · exact ih _ good

theorem State.holdWaits_canon {s u : State} {t slot : Nat} {ws : List Instr} (good : Canon s.mem s.poison)
    (eq : s.holdWaits t slot ws = some u) : Canon u.mem u.poison := by
  unfold State.holdWaits at eq
  dsimp only at eq
  split at eq
  · contradiction
  · obtain rfl := Option.some.inj eq
    simp [good]

/-! ### Step -/

theorem runWords_canon (ws : List Instr) {s : State} : KeepsCanon s (runWords ws s) := by
  induction ws generalizing s with
  | nil => exact keepsCanon_next id
  | cons i r ih =>
    obtain ⟨u, next, keeps⟩ := exec_canon i s
    obtain ⟨v, last, kept⟩ := ih (s := u)
    exact ⟨v, by rw [runWords, next]; exact last, fun good => kept (keeps good)⟩

theorem issueOnce_canon {t slot : Nat} {go : State → Host.Outcome State Fault Refusal} {s : State}
    (goes : ∀ u : State, KeepsCanon u (go u)) : KeepsCanon s (issueOnce t slot go s) := by
  unfold issueOnce
  dsimp only
  split
  · exact keepsCanon_next fun good => by simp [good]
  · obtain ⟨u, next, keeps⟩ := goes (s.injectIssue t slot).2
    exact ⟨u, next, fun good => keeps (by simp [good])⟩

theorem issueBundle_canon {t slot : Nat} {s : State} : KeepsCanon s (issueBundle t slot s) := by
  have turned {o : Host.Outcome State Fault Refusal} (keeps : KeepsCanon (s.takeTurn t slot) o) : KeepsCanon s o := by
    obtain ⟨u, next, kept⟩ := keeps
    exact ⟨u, next, fun good => kept (by simp [good])⟩
  unfold issueBundle
  split
  · split
    next eq => exact keepsCanon_next fun good => State.holdWaits_canon (by simp [good]) eq
    · refine turned (issueOnce_canon fun u => ?_)
      obtain ⟨v, next, keeps⟩ := runWords_canon ‹_› (s := u.begin t slot ‹_›)
      exact ⟨v, next, fun good => keeps (by simp [good])⟩
  · exact turned (issueOnce_canon fun u => keepsCanon_next fun good => by simp [good])
  · exact exec_canon ..
  · exact keepsCanon_next id

theorem perform_canon (m : Move) (s : State) : KeepsCanon s (perform m s) := by
  have ticked : ∃ u : State, perform m s = (match m with
      | .event i => exec i u
      | .bundle t slot => issueBundle t slot u) ∧ (Canon s.mem s.poison → Canon u.mem u.poison) := by
    refine ⟨_, rfl, fun good => ?_⟩
    split <;> simp [good]
  obtain ⟨u, eq, kept⟩ := ticked
  rw [eq]
  cases m with
  | event i =>
    obtain ⟨v, next, keeps⟩ := exec_canon i u
    exact ⟨v, next, fun good => keeps (kept good)⟩
  | bundle t slot =>
    obtain ⟨v, next, keeps⟩ := issueBundle_canon (t := t) (slot := slot) (s := u)
    exact ⟨v, next, fun good => keeps (kept good)⟩

/-- A step goes on to a next state, and keeps the canonical form of the memories. -/
theorem step_canon (s : State) : KeepsCanon s (step s) := by
  unfold step
  split
  · obtain ⟨v, next, keeps⟩ := exec_canon ‹_› { s.tick with inputs := ‹_› }
    exact ⟨v, next, fun good => keeps (by simp [good])⟩
  · split
    · exact keepsCanon_next fun good => by simp [good]
    · obtain ⟨v, next, keeps⟩ := perform_canon ‹_› s.tick
      exact ⟨v, next, fun good => keeps (by simp [good])⟩

/-- Settles O56. -/
theorem everyInstructionAnswers : Obligations.EveryInstructionAnswers := by
  refine ⟨fun i s => ?_, fun s => ?_⟩
  · obtain ⟨t, next, -⟩ := exec_canon i s
    exact ⟨t, next⟩
  · obtain ⟨t, next, -⟩ := step_canon s
    exact ⟨t, next⟩

/-- Settles O57: a step goes on to one next state only, which the rules above say is in canonical form. -/
theorem everyStepKeepsTheMemories : Obligations.EveryStepKeepsTheMemories := by
  intro s t good stepped
  obtain ⟨u, next, keeps⟩ := step_canon s
  obtain rfl := Host.Outcome.next.inj (next.symm.trans stepped)
  exact keeps good

end Sys2Proof.Machine
end

section
/-! SUPPORT. The heap words and TLBINV. -/

namespace Sys2Proof.Machine

/-! ## The heap that HEAPSEL names -/

/-- The heap that HEAPSEL names on the word's die (R210). -/
def State.selHeap (s : State) : HeapInst := s.heapAt s.iss.pre.heapDie s.iss.pre.heapsel.toNat

/-- That heap belongs to the partition of the word's tile (R211). -/
abbrev State.ownsHeap (s : State) : Prop := s.selHeap.owner = (s.tileAt s.iss.tile).partid

/-- That heap written, with its HEAP event. -/
def State.putSel (s : State) (x : HeapInst × Bool) : State := s.putHeap s.iss.pre.heapDie s.iss.pre.heapsel.toNat x.1 x.2

section
variable {s : State} {d : BitVec 5} {op : HeapInst → HeapRes} {y : HeapInst} {ev : Bool} {a b : W64}

theorem heapWord_of_foreign {d : Option (BitVec 5)} (used : s.selHeap.st ≠ .unused) (foreign : ¬s.ownsHeap) :
    heapWord d op s = .trap 0x0B 0 s :=
  if_pos ⟨used, foreign⟩

theorem heapWord_of_unused {d : Option (BitVec 5)} (unused : s.selHeap.st = .unused) : heapWord d op s = .trap 0x10 0 s :=
  (if_neg fun h => h.1 unused).trans (if_pos unused)

/-- The heap is the word's own: it does what the operation answers. -/
theorem heapWord_of_own {d : Option (BitVec 5)} (own : s.ownsHeap) (used : s.selHeap.st ≠ .unused) :
    heapWord d op s = match op s.selHeap with
      | .trap e => .trap e 0 s
      | .done y ev r => match d, r with
        | some d, some (a, some b) =>
          .ok (((s.putSel (y, ev)).modCur fun c => c.setS d.toNat { v := a }).modCur fun c => c.setS (d + 1).toNat { v := b })
        | some d, some (a, none) => .ok ((s.putSel (y, ev)).modCur fun c => c.setS d.toNat { v := a })
        | _, _ => .ok (s.putSel (y, ev)) :=
  (if_neg fun h => h.2 own).trans ((if_neg used).trans rfl)

theorem heapWord_trap {d : Option (BitVec 5)} {e : Nat} (own : s.ownsHeap) (used : s.selHeap.st ≠ .unused)
    (answer : op s.selHeap = .trap e) : heapWord d op s = .trap e 0 s := by
  rw [heapWord_of_own own used, answer]

theorem heapWord_two (own : s.ownsHeap) (used : s.selHeap.st ≠ .unused) (answer : op s.selHeap = .done y ev (some (a, some b))) :
    heapWord (some d) op s =
      .ok (((s.putSel (y, ev)).modCur fun c => c.setS d.toNat { v := a }).modCur fun c => c.setS (d + 1).toNat { v := b }) := by
  rw [heapWord_of_own own used, answer]

theorem heapWord_one (own : s.ownsHeap) (used : s.selHeap.st ≠ .unused) (answer : op s.selHeap = .done y ev (some (a, none))) :
    heapWord (some d) op s = .ok ((s.putSel (y, ev)).modCur fun c => c.setS d.toNat { v := a }) := by
  rw [heapWord_of_own own used, answer]

theorem heapWord_none {d : Option (BitVec 5)} (own : s.ownsHeap) (used : s.selHeap.st ≠ .unused)
    (answer : op s.selHeap = .done y ev none) : heapWord d op s = .ok (s.putSel (y, ev)) := by
  rw [heapWord_of_own own used, answer]
  cases d <;> rfl

end

/-! ## The operations at the unit (R222 to R228) -/

section
variable {x : HeapInst}

theorem firstFree_lt {n e : Nat} {l : List HeapEntry} (found : firstFree n l = some e) : n ≤ e ∧ e < n + l.length := by
  induction l generalizing n with
  | nil => contradiction
  | cons h r ih =>
    rw [firstFree] at found
    split at found
    · obtain rfl := Option.some.inj found
      exact ⟨Nat.le_refl _, Nat.lt_add_of_pos_right (Nat.succ_pos _)⟩
    · obtain ⟨low, high⟩ := ih found
      rw [List.length_cons]
      omega

theorem hpushOp_of_closed {t g : Nat} (closed : x.st = .closed) :
    hpushOp t g x = .done x false (some (BitVec.ofNat 64 (2 ^ 63 + 1), none)) :=
  if_pos closed

theorem hpushOp_of_full {t g : Nat} (opened : x.st = .opened) (full : firstFree 0 x.entries = none) : hpushOp t g x = .trap 0x16 := by
  rw [hpushOp, if_neg (by rw [opened]; decide), full]
  rfl

theorem hpushOp_of_free {t g e : Nat} (opened : x.st = .opened) (free : firstFree 0 x.entries = some e) :
    hpushOp t g x = .done { x with sum := x.sum + g,
                                         entries := x.entries.set e { task := BitVec.ofNat 32 t, gain := g,
                                                                      st := if 0 < g then .queued else .idle } }
      (decide (0 < g)) (some (BitVec.ofNat 64 e, none)) := by
  have inside : e < x.entries.length := by simpa using (firstFree_lt free).2
  rw [hpushOp, if_neg (by rw [opened]; decide), free]
  simp [HeapInst.setGain, opened, inside, List.getD_eq_getElem?_getD]

theorem hpopOp_of_closed (closed : x.st = .closed) : hpopOp x = .done x false (some (BitVec.ofNat 64 (2 ^ 64 - 1), some 0)) :=
  if_pos closed

theorem hpopOp_of_empty (opened : x.st = .opened) (empty : topQueued 0 x.entries = none) :
    hpopOp x = .done x false (some (BitVec.ofNat 64 (2 ^ 64 - 2), some 0)) := by
  rw [hpopOp, if_neg (by rw [opened]; decide), empty]

theorem hpopOp_of_top {e g : Nat} (opened : x.st = .opened) (top : topQueued 0 x.entries = some (e, g)) :
    hpopOp x =
      let en := x.entries.getD e {}
      let y := { x with sum := x.sum - g, entries := x.entries.set e { en with gain := 0, st := .running } }
      .done y.checkClose.1 y.checkClose.2 (some (BitVec.ofNat 64 (en.task.toNat * 2 ^ 32 + e), some (BitVec.ofNat 64 g))) := by
  rw [hpopOp, if_neg (by rw [opened]; decide), top]

theorem hupdOp_of_entry {e n v : Nat} {en : HeapEntry} (found : x.entries[e]? = some en) (taken : en.st ≠ .free) :
    hupdOp e n v x =
      let a := x.setGain e (hupdGain n en.gain v)
      .done a.1.checkClose.1 (a.2 || a.1.checkClose.2) none := by
  simp only [hupdOp, found, taken, if_false]

theorem hupdOp_of_free {e n v : Nat} (free : ∀ en, x.entries[e]? = some en → en.st = .free) : hupdOp e n v x = .trap 0x10 := by
  unfold hupdOp
  cases found : x.entries[e]? with
  | none => rfl
  | some en => exact if_pos (free en found)

theorem hreadOp_of_entry {e : Nat} {en : HeapEntry} (found : x.entries[e]? = some en) :
    hreadOp e x = .done x false (some (BitVec.ofNat 64 (en.st.code * 2 ^ 32 + en.gain), none)) := by
  simp only [hreadOp, found]

theorem hreadOp_of_outside {e : Nat} (outside : x.entries.length ≤ e) : hreadOp e x = .trap 0x10 := by
  simp only [hreadOp, List.getElem?_eq_none outside]
  rfl

theorem hdoneOp_of_running {e : Nat} {en : HeapEntry} (found : x.entries[e]? = some en) (running : en.st = .running) :
    hdoneOp e x =
      let q := x.st == .opened && decide (0 < en.gain)
      .done { x with entries := x.entries.set e { en with st := if q then .queued else .idle } } q none := by
  simp only [hdoneOp, found, running, ne_eq, not_true_eq_false, if_false]

theorem hdoneOp_of_other {e : Nat} {en : HeapEntry} (found : x.entries[e]? = some en) (other : en.st ≠ .running) :
    hdoneOp e x = .trap 0x10 := by
  simp only [hdoneOp, found, other, ne_eq, not_false_eq_true, if_true]
  rfl

theorem hdoneOp_of_outside {e : Nat} (outside : x.entries.length ≤ e) : hdoneOp e x = .trap 0x10 := by
  simp only [hdoneOp, List.getElem?_eq_none outside]
  rfl

theorem hcloseOp_of_opened (opened : x.st = .opened) : hcloseOp x = .done x.close true (some (0, none)) :=
  if_neg (by rw [opened]; decide)

theorem hcloseOp_of_closed (closed : x.st = .closed) : hcloseOp x = .done x false (some (1, none)) :=
  if_pos closed

end

/-! ## The words and their operands (R217) -/

section
variable {s : State} {i : Instr}

theorem hpush_of_good {f : FAbd} (clean : (s.srcS i 0).p = false) (clean' : (s.srcS i 1).p = false)
    (fits : (s.srcS i 0).v.toNat < 2 ^ 32) (fits' : (s.srcS i 1).v.toNat < 2 ^ 32) :
    hpush i f s = heapWord (some f.d) (hpushOp (s.srcS i 0).v.toNat (s.srcS i 1).v.toNat) s := by
  simp only [hpush, heapSrc, clean, clean', Bool.false_eq_true, if_false, Nat.not_le.mpr fits, Nat.not_le.mpr fits', or_self]

theorem hpush_of_large {f : FAbd} (clean : (s.srcS i 0).p = false) (clean' : (s.srcS i 1).p = false)
    (large : 2 ^ 32 ≤ (s.srcS i 0).v.toNat ∨ 2 ^ 32 ≤ (s.srcS i 1).v.toNat) : hpush i f s = .trap 0x03 0 s := by
  simp only [hpush, heapSrc, clean, clean', Bool.false_eq_true, if_false, large, if_true]
  rfl

theorem hpush_of_poison {f : FAbd} (poisoned : (s.srcS i 0).p = true ∨ (s.srcS i 1).p = true) : hpush i f s = .trap 0x0D 0 s := by
  rcases poisoned with poisoned | poisoned
  · simp only [hpush, heapSrc, poisoned, if_true]
    rfl
  · simp only [hpush, heapSrc, poisoned, if_true]
    split
    · contradiction
    · rfl

theorem hupd_of_good (clean : (s.srcS i 0).p = false) (clean' : (s.srcS i 1).p = false) (fits : (s.srcS i 1).v.toNat < 2 ^ 32) :
    hupd i s = heapWord none (hupdOp (s.srcS i 0).v.toNat (s.immU i) (s.srcS i 1).v.toNat) s := by
  simp only [hupd, heapSrc, clean, clean', Bool.false_eq_true, if_false, Nat.not_le.mpr fits]

theorem hupd_of_large (clean : (s.srcS i 0).p = false) (clean' : (s.srcS i 1).p = false) (large : 2 ^ 32 ≤ (s.srcS i 1).v.toNat) :
    hupd i s = .trap 0x03 0 s := by
  simp only [hupd, heapSrc, clean, clean', Bool.false_eq_true, if_false, large, if_true]
  rfl

theorem hupd_of_poison (poisoned : (s.srcS i 0).p = true ∨ (s.srcS i 1).p = true) : hupd i s = .trap 0x0D 0 s := by
  rcases poisoned with poisoned | poisoned
  · simp only [hupd, heapSrc, poisoned, if_true]
    rfl
  · simp only [hupd, heapSrc, poisoned, if_true]
    split
    · contradiction
    · rfl

theorem heapOne_of_clean {d : Option (BitVec 5)} {op : Nat → HeapInst → HeapRes} (clean : (s.srcS i 0).p = false) :
    heapOne i d op s = heapWord d (op (s.srcS i 0).v.toNat) s := by
  simp only [heapOne, heapSrc, clean, Bool.false_eq_true, if_false]

theorem heapOne_of_poison {d : Option (BitVec 5)} {op : Nat → HeapInst → HeapRes} (poisoned : (s.srcS i 0).p = true) :
    heapOne i d op s = .trap 0x0D 0 s := by
  simp only [heapOne, heapSrc, poisoned, if_true]
  rfl

theorem hsum_of_own {f : FD} (reads : s.selHeap.st = .unused ∨ s.ownsHeap) :
    hsum f s = .ok (s.modCur fun c => c.setS f.d.toNat { v := BitVec.ofNat 64 (match s.selHeap.st with
      | .unused => 0
      | .opened => 2 ^ 62 + s.selHeap.sum
      | .closed => 2 * 2 ^ 62 + s.selHeap.sum) }) := by
  change (match s.selHeap.st with
    | .unused => _
    | .opened => if ¬s.ownsHeap then _ else _
    | .closed => if ¬s.ownsHeap then _ else _) = _
  cases st : s.selHeap.st with
  | unused => rfl
  | opened =>
    have own := reads.resolve_left (by rw [st]; decide)
    exact if_neg (not_not.mpr own)
  | closed =>
    have own := reads.resolve_left (by rw [st]; decide)
    exact if_neg (not_not.mpr own)

theorem hsum_of_foreign {f : FD} (used : s.selHeap.st ≠ .unused) (foreign : ¬s.ownsHeap) : hsum f s = .trap 0x0B 0 s := by
  change (match s.selHeap.st with
    | .unused => _
    | .opened => if ¬s.ownsHeap then _ else _
    | .closed => if ¬s.ownsHeap then _ else _) = _
  cases st : s.selHeap.st with
  | unused => exact absurd st used
  | opened => exact if_pos foreign
  | closed => exact if_pos foreign

/-! ## HOPEN (R221) -/

section
variable {x : Nat} {e : Nat × Nat} {o : State} {f : FAd}

theorem hopen_of_error (read : readDesc s (s.srcS i 0) 64 true = (.error e, o)) : hopen i f s = .trap e.1 e.2 o := by
  rw [hopen, read]

theorem hopen_of_malformed (read : readDesc s (s.srcS i 0) 64 true = (.ok x, o))
    (malformed : x &&& heapMask ≠ x ∨ 65536 < bits x 0 17 ∨ bits x 0 17 < bits x 32 17) : hopen i f s = .trap 0x10 0 o := by
  rw [hopen, read]
  exact if_pos malformed

theorem not_malformed (mask : x &&& heapMask = x) (fits : bits x 0 17 ≤ 65536) (inits : bits x 32 17 ≤ bits x 0 17) :
    ¬(x &&& heapMask ≠ x ∨ 65536 < bits x 0 17 ∨ bits x 0 17 < bits x 32 17) := by
  rintro (wrong | wrong | wrong)
  · exact wrong mask
  · exact Nat.not_le.mpr wrong fits
  · exact Nat.not_le.mpr wrong inits

theorem hopen_of_foreign (read : readDesc s (s.srcS i 0) 64 true = (.ok x, o)) (mask : x &&& heapMask = x)
    (fits : bits x 0 17 ≤ 65536) (inits : bits x 32 17 ≤ bits x 0 17) (used : o.selHeap.st ≠ .unused) (foreign : ¬o.ownsHeap) :
    hopen i f s = .trap 0x0B 0 o := by
  rw [hopen, read]
  exact (if_neg (not_malformed mask fits inits)).trans (if_pos ⟨used, foreign⟩)

theorem hopen_of_own (read : readDesc s (s.srcS i 0) 64 true = (.ok x, o)) (mask : x &&& heapMask = x)
    (fits : bits x 0 17 ≤ 65536) (inits : bits x 32 17 ≤ bits x 0 17) (own : o.selHeap.st = .unused ∨ o.ownsHeap) :
    hopen i f s = .ok ((hopenOp x o).1.modCur fun c => c.setS f.d.toNat { v := BitVec.ofNat 64 (hopenOp x o).2 }) := by
  rw [hopen, read]
  exact (if_neg (not_malformed mask fits inits)).trans (if_neg fun h => own.elim h.1 h.2)

end

section
variable {x : Nat}

theorem hopenOp_of_opened (opened : s.selHeap.st = .opened) : hopenOp x s = (s, 3) :=
  if_pos opened

theorem hopenOp_of_none (st : s.selHeap.st ≠ .opened) (none : bits x 0 17 = 0) :
    hopenOp x s = (if s.selHeap.st = .closed then s.putSel ({}, false) else s, 2) :=
  (if_neg st).trans (if_pos none)

theorem hopenOp_of_full (st : s.selHeap.st ≠ .opened) (some : bits x 0 17 ≠ 0)
    (full : 65536 + s.selHeap.entries.length < (s.dieAt s.iss.pre.heapDie).heapUsed + bits x 0 17) : hopenOp x s = (s, 4) :=
  (if_neg st).trans ((if_neg some).trans (if_pos full))

/-- HOPEN of a heap for which the die has room: it reads its list. -/
theorem hopenOp_of_room (st : s.selHeap.st ≠ .opened) (some : bits x 0 17 ≠ 0)
    (room : (s.dieAt s.iss.pre.heapDie).heapUsed + bits x 0 17 ≤ 65536 + s.selHeap.entries.length) :
    hopenOp x s = if 0x800000 < bits x 128 23 + 8 * bits x 32 17 then (s, 5) else
      match listKeys s (bits x 128 23) (bits x 32 17) with
      | .none => (s, 5)
      | .some ks =>
        let r := s.sramReads (ks.map fun a => a / 8)
        if ks.any r.1.poisoned then (r.2, 5)
        else
          let y := openInst (s.tileAt s.iss.tile).partid (bits x 0 17) (bits x 64 48) (ks.map fun a => r.1.rd a 8)
          (r.2.putHeap s.iss.pre.heapDie s.iss.pre.heapsel.toNat y.1 y.2, ofBool y.2) :=
  (if_neg st).trans ((if_neg some).trans (if_neg (Nat.not_lt.mpr room)))

theorem hopenOp_of_outside (st : s.selHeap.st ≠ .opened) (some : bits x 0 17 ≠ 0)
    (room : (s.dieAt s.iss.pre.heapDie).heapUsed + bits x 0 17 ≤ 65536 + s.selHeap.entries.length)
    (outside : 0x800000 < bits x 128 23 + 8 * bits x 32 17 ∨ listKeys s (bits x 128 23) (bits x 32 17) = none) :
    hopenOp x s = (s, 5) := by
  rw [hopenOp_of_room st some room]
  rcases outside with long | none
  · exact if_pos long
  · rw [none]
    split <;> rfl

variable {ks : List Nat} (st : s.selHeap.st ≠ .opened) (some : bits x 0 17 ≠ 0)
  (room : (s.dieAt s.iss.pre.heapDie).heapUsed + bits x 0 17 ≤ 65536 + s.selHeap.entries.length)
  (inside : bits x 128 23 + 8 * bits x 32 17 ≤ 0x800000) (keys : listKeys s (bits x 128 23) (bits x 32 17) = .some ks)
  (quiet : s.quiet = true)
include st some room inside keys quiet

theorem hopenOp_of_poison {y : Nat} (member : y ∈ ks) (poisoned : s.poisoned y = true) : hopenOp x s = (s, 5) := by
  rw [hopenOp_of_room st some room, if_neg (Nat.not_lt.mpr inside), keys]
  dsimp only
  rw [State.sramReads_quiet _ quiet]
  exact if_pos (List.any_eq_true.mpr ⟨y, member, poisoned⟩)

theorem hopenOp_of_clean (clean : ∀ y ∈ ks, s.poisoned y = false) :
    hopenOp x s =
      let z := openInst (s.tileAt s.iss.tile).partid (bits x 0 17) (bits x 64 48) (ks.map fun y => s.rd y 8)
      (s.putSel z, if z.2 = true then 1 else 0) := by
  rw [hopenOp_of_room st some room, if_neg (Nat.not_lt.mpr inside), keys]
  dsimp only
  rw [State.sramReads_quiet _ quiet]
  have none : ¬ks.any s.poisoned = true := by
    simpa only [List.any_eq_true, not_exists, not_and, Bool.not_eq_true] using clean
  exact if_neg none

end

/-! ## TLBINV (R349) -/

theorem tlbinv_of_good (good : s.immU i = 1 ∨ ((s.srcS i 0).p = false ∧ (s.srcS i 0).v.toNat < 2 ^ 48)) :
    tlbinv i s = .ok (
      let va := if s.immU i = 1 then none else some (s.srcS i 0).v
      ((s.tlbInvalidate ((s.tileAt s.iss.tile).partid.getD 32) va).modTile s.iss.tile fun x => { x with icache := [] }).modCur
        fun c => { c with tlb := some va }) := by
  by_cases all : s.immU i = 1
  · simp [tlbinv, all]
  · obtain ⟨clean, fits⟩ := good.resolve_left all
    simp [tlbinv, all, clean, Nat.not_le.mpr fits, -Nat.reducePow]

theorem tlbinv_of_poison (one : s.immU i ≠ 1) (poisoned : (s.srcS i 0).p = true) : tlbinv i s = .trap 0x0D 0 s := by
  simp [tlbinv, one, poisoned]
  rfl

theorem tlbinv_of_large (one : s.immU i ≠ 1) (clean : (s.srcS i 0).p = false) (large : 2 ^ 48 ≤ (s.srcS i 0).v.toNat) :
    tlbinv i s = .trap 0x03 0 s := by
  simp [tlbinv, one, clean, large, -Nat.reducePow]
  rfl

/-- A privileged word takes its turn in supervisor mode only (R48). -/
theorem mode_of_turn (priv : (viewOf i).priv = true) (turn : s.turn i = true) : s.openBundle.iss.pre.mode = true := by
  simp only [State.turn, Bool.and_eq_true, Option.isNone_iff_eq_none] at turn
  obtain ⟨⟨⟨-, passes⟩, -⟩, -⟩ := turn
  by_contra user
  rw [Bool.not_eq_true] at user
  unfold wordCheck at passes
  dsimp only at passes
  split_ifs at passes with h1 h2 h3 h4
  rw [priv, user] at h4
  exact h4 rfl

end

/-- What TLBINV leaves of the walks and of the translations (R268, R349). -/
theorem tlbInvalidate_removes (s : State) (p : Nat) (va : Option W64) :
    let u := s.tlbInvalidate p va
    (∀ d ∈ u.dies, ∀ x ∈ d.walks, walkHit p va x = false) ∧ (∀ d ∈ u.dies, ∀ w ∈ d.walking, walkStale p va w = false) ∧
      ∀ x ∈ u.tiles, x.partid = some p → ∀ b ∈ x.burin, ∀ e ∈ b.tlb, tlbHit p va e = false := by
  refine ⟨fun d die x walk => ?_, fun d die w walk => ?_, fun x tile part b burin e entry => ?_⟩
  · obtain ⟨d, -, rfl⟩ := List.mem_map.mp die
    simpa using (List.mem_filter.mp walk).2
  · obtain ⟨d, kept, rfl⟩ := List.mem_map.mp die
    obtain ⟨d, -, rfl⟩ := List.mem_map.mp kept
    simpa using (List.mem_filter.mp walk).2
  · obtain ⟨x, -, rfl⟩ := List.mem_map.mp tile
    split at burin
    · obtain ⟨b, -, rfl⟩ := List.mem_map.mp burin
      simpa using (List.mem_filter.mp entry).2
    next other => exact absurd (by rw [if_neg other] at part; exact part) other

/-- Settles O38. -/
theorem heapWords : Obligations.HeapWords := by
  intro f g h k l q s heap own put a sreg two
  have used {x : HeapState} (st : x = .opened ∨ x = .closed) : x ≠ .unused := by
    rcases st with rfl | rfl <;> decide
  refine ⟨fun e => completesIf_of_run (exec_hpush f s) fun o holds => ?_, trapsIf_of_run (exec_hpush f s) fun o holds => ?_,
    completesIf_of_run (exec_hpush f s) fun o holds => ?_, fun e gain => completesIf_of_run (exec_hpop g s) fun o holds => ?_,
    completesIf_of_run (exec_hpop g s) fun o holds => ?_, completesIf_of_run (exec_hpop g s) fun o holds => ?_,
    fun en => completesIf_of_run (exec_hupd h s) fun o holds => ?_, fun en => completesIf_of_run (exec_hread k s) fun o holds => ?_,
    fun en => completesIf_of_run (exec_hdone l s) fun o holds => ?_, ?_, completesIf_of_run (exec_hclose g s) fun o holds => ?_,
    completesIf_of_run (exec_hclose g s) fun o holds => ?_, completesIf_of_run (exec_hsum g s) fun o holds => ?_, ?_, ?_, ?_, ?_,
      ?_,
    trapsIf_of_run (exec_hpush f s) fun o holds => ?_, trapsIf_of_run (exec_hupd h s) fun o holds => ?_,
    trapsIf_of_run (exec_hupd h s) fun o holds => ?_, fun en => trapsIf_of_run (exec_hdone l s) fun o holds => ?_,
    fun x o1 turn read => ⟨fun malformed => ?_, fun mask fits inits st foreign => ?_⟩, fun e o1 turn read => ?_,
    fun x o1 => completesIf_of_run (exec_hopen k s) fun o holds => ?_, fun x opened => hopenOp_of_opened opened, ?_, ?_, ?_, ?_, ?_⟩
  · obtain ⟨own, opened, ⟨clean, clean', fits'⟩, fits, free⟩ := holds
    exact (hpush_of_good clean clean' fits fits').trans (heapWord_one own (used (.inl opened)) (hpushOp_of_free opened free))
  · obtain ⟨own, opened, ⟨clean, clean', fits'⟩, fits, full⟩ := holds
    exact (hpush_of_good clean clean' fits fits').trans (heapWord_trap own (used (.inl opened)) (hpushOp_of_full opened full))
  · obtain ⟨own, closed, ⟨clean, clean', fits'⟩, fits⟩ := holds
    exact (hpush_of_good clean clean' fits fits').trans (heapWord_one own (used (.inr closed)) (hpushOp_of_closed closed))
  · obtain ⟨own, opened, top⟩ := holds
    exact heapWord_two own (used (.inl opened)) (hpopOp_of_top opened top)
  · obtain ⟨own, opened, empty⟩ := holds
    exact heapWord_two own (used (.inl opened)) (hpopOp_of_empty opened empty)
  · obtain ⟨own, closed⟩ := holds
    exact heapWord_two own (used (.inr closed)) (hpopOp_of_closed closed)
  · obtain ⟨own, st, ⟨clean, clean', fits'⟩, found, taken⟩ := holds
    exact (hupd_of_good clean clean' fits').trans (heapWord_none own st (hupdOp_of_entry found taken))
  · obtain ⟨own, st, clean, found⟩ := holds
    exact (heapOne_of_clean clean).trans (heapWord_one own st (hreadOp_of_entry found))
  · obtain ⟨own, st, clean, found, running⟩ := holds
    exact (heapOne_of_clean clean).trans (heapWord_none own st (hdoneOp_of_running found running))
  · intro i word
    simp only [List.mem_cons, List.not_mem_nil, or_false] at word
    rcases word with rfl | rfl
    · exact trapsIf_of_run (exec_hread k s) fun o ⟨own, st, clean, outside⟩ =>
        (heapOne_of_clean clean).trans (heapWord_trap own st (hreadOp_of_outside outside))
    · exact trapsIf_of_run (exec_hdone l s) fun o ⟨own, st, clean, outside⟩ =>
        (heapOne_of_clean clean).trans (heapWord_trap own st (hdoneOp_of_outside outside))
  · obtain ⟨own, opened⟩ := holds
    exact heapWord_one own (used (.inl opened)) (hcloseOp_of_opened opened)
  · obtain ⟨own, closed⟩ := holds
    exact heapWord_one own (used (.inr closed)) (hcloseOp_of_closed closed)
  · exact hsum_of_own holds
  · intro i word
    simp only [List.mem_cons, List.not_mem_nil, or_false] at word
    rcases word with rfl | rfl | rfl
    · exact trapsIf_of_run (exec_hpop g s) fun o ⟨st, foreign⟩ => heapWord_of_foreign st foreign
    · exact trapsIf_of_run (exec_hclose g s) fun o ⟨st, foreign⟩ => heapWord_of_foreign st foreign
    · exact trapsIf_of_run (exec_hsum g s) fun o ⟨st, foreign⟩ => hsum_of_foreign st foreign
  · intro i word
    simp only [List.mem_cons, List.not_mem_nil, or_false] at word
    rcases word with rfl | rfl
    · exact trapsIf_of_run (exec_hpop g s) fun o unused => heapWord_of_unused unused
    · exact trapsIf_of_run (exec_hclose g s) fun o unused => heapWord_of_unused unused
  · intro refused
    have row {i : Instr} {eff : State → WordRes} {p : State → Prop} {d : Option (BitVec 5)} {op : State → HeapInst → HeapRes}
        (run : exec i s = runWord i eff s) (meaning : ∀ o, p o → eff o = heapWord d (op o) o) : refused i p :=
      ⟨trapsIf_of_run run fun o ⟨good, st, foreign⟩ => (meaning o good).trans (heapWord_of_foreign st foreign),
        trapsIf_of_run run fun o ⟨good, unused⟩ => (meaning o good).trans (heapWord_of_unused unused)⟩
    clear_value refused
    exact ⟨row (exec_hpush f s) fun o ⟨⟨clean, clean', fits'⟩, fits⟩ => hpush_of_good clean clean' fits fits',
      row (exec_hupd h s) fun o ⟨clean, clean', fits'⟩ => hupd_of_good clean clean' fits',
      row (exec_hread k s) fun o clean => heapOne_of_clean clean, row (exec_hdone l s) fun o clean => heapOne_of_clean clean⟩
  · intro i word
    simp only [List.mem_cons, List.not_mem_nil, or_false] at word
    rcases word with rfl | rfl
    · exact trapsIf_of_run (exec_hpush f s) fun o poisoned => hpush_of_poison poisoned
    · exact trapsIf_of_run (exec_hupd h s) fun o poisoned => hupd_of_poison poisoned
  · intro i word
    simp only [List.mem_cons, List.not_mem_nil, or_false] at word
    rcases word with rfl | rfl
    · exact trapsIf_of_run (exec_hread k s) fun o poisoned => heapOne_of_poison poisoned
    · exact trapsIf_of_run (exec_hdone l s) fun o poisoned => heapOne_of_poison poisoned
  · obtain ⟨clean, clean', large⟩ := holds
    exact hpush_of_large clean clean' large
  · obtain ⟨clean, clean', large⟩ := holds
    exact hupd_of_large clean clean' large
  · obtain ⟨own, st, ⟨clean, clean', fits'⟩, free⟩ := holds
    exact (hupd_of_good clean clean' fits').trans (heapWord_trap own st (hupdOp_of_free free))
  · obtain ⟨own, st, clean, found, other⟩ := holds
    exact (heapOne_of_clean clean).trans (heapWord_trap own st (hdoneOp_of_other found other))
  · exact (exec_hopen k s).trans (runWord_trap turn (hopen_of_malformed read malformed))
  · exact (exec_hopen k s).trans (runWord_trap turn (hopen_of_foreign read mask fits inits st foreign))
  · exact (exec_hopen k s).trans (runWord_trap turn (hopen_of_error read))
  · obtain ⟨read, mask, fits, inits, own⟩ := holds
    exact hopen_of_own read mask fits inits own
  · intro x unused empty
    have st : s.selHeap.st = .unused := unused
    rw [hopenOp_of_none (by rw [st]; decide) empty, st]
    rfl
  · intro x closed empty
    have st : s.selHeap.st = .closed := closed
    rw [hopenOp_of_none (by rw [st]; decide) empty, st]
    rfl
  · exact fun x st some => ⟨hopenOp_of_full st some,
    fun ks room inside keys quiet clean => hopenOp_of_clean st some room inside keys quiet clean,
      fun room => ⟨hopenOp_of_outside st some room, fun ks y inside keys quiet member poisoned =>
        hopenOp_of_poison st some room inside keys quiet member poisoned⟩⟩
  · intro va good
    exact ⟨completesIf_of_run (exec_tlbinv q s) fun o good => tlbinv_of_good good,
      trapsIf_of_run (exec_tlbinv q s) fun o ⟨one, poisoned⟩ => tlbinv_of_poison one poisoned,
      trapsIf_of_run (exec_tlbinv q s) fun o ⟨one, clean, large⟩ => tlbinv_of_large one clean large, mode_of_turn rfl⟩
  · intro p va u
    obtain ⟨mem, poison⟩ := State.tlbInvalidate_frame s p va
    exact ⟨mem, poison, tlbInvalidate_removes s p va⟩

end Sys2Proof.Machine
end

section
/-! SUPPORT. The job and task words. -/

namespace Sys2Proof.Machine

/-! ## LAUNCH (R184, R185) -/

section
variable {s o : State} {i : Instr} {f : FAd} {x : Nat} {e : Nat × Nat}

theorem launch_of_error (read : readDesc s (s.srcS i 0) 64 true = (.error e, o)) : launch i f s = .trap e.1 e.2 o := by
  rw [launch, read]

/-- What LAUNCH does once its packet is read. -/
theorem launch_of_packet (read : readDesc s (s.srcS i 0) 64 true = (.ok x, o)) (tile : o.iss = s.iss) :
    launch i f s =
      let part := (o.tileAt o.iss.tile).partid.getD 32
      let die := dieOf o.iss.tile
      let code := o.launchCode part (BitVec.ofNat 512 x)
      if code ≠ 0 then .ok (o.modCur fun c => c.setS f.d.toNat { v := BitVec.ofNat 64 (2 ^ 63 + code) })
      else match o.freeBlock die with
        | none => .trap 0x17 0 o
        | some (slot, gen) =>
          if 4096 ≤ o.queued die then .trap 0x17 0 o
          else
            let r := o.enqueue die part slot gen (BitVec.ofNat 512 x)
              (some (o.iss.tile, o.iss.slot, o.iss.pre.taskid, o.iss.pre.gang)) none
            .ok ((r.1.modCur fun c => { c with throttled := c.throttled || (r.1.dieAt die).deep }).modCur
              fun c => c.setS f.d.toNat { v := r.2 }) := by
  rw [tile, launch, read]
  dsimp only
  rw [tile]
  rfl

end

/-! ## The words on a job (R187, R190, R195 to R197) -/

section
variable {s : State} {i : Instr}

theorem expectAdd_of_room {j : Job} (clean : (s.srcS i 0).p = false) (job : s.jobOf s.cur.jobh = some j)
    (room : j.e + (s.srcS i 0).v.toNat < 2 ^ 32) (waits : s.cur.posted = false) :
    expectAdd i s = .ok (s.modJob s.cur.jobh fun j => { j with e := j.e + (s.srcS i 0).v.toNat }) := by
  have passes : ¬(2 ^ 32 ≤ (s.srcS i 0).v.toNat ∨ 2 ^ 32 ≤ j.e + (s.srcS i 0).v.toNat ∨ s.cur.posted = true) := by
    rw [waits]
    simp only [Bool.false_eq_true, or_false]
    omega
  simp only [expectAdd, clean, Bool.false_eq_true, if_false, job, passes]

theorem expectAdd_of_refused (clean : (s.srcS i 0).p = false)
    (refused : ∀ j, s.jobOf s.cur.jobh = some j → 2 ^ 32 ≤ j.e + (s.srcS i 0).v.toNat ∨ s.cur.posted = true) :
    expectAdd i s = .trap 0x10 0 s := by
  unfold expectAdd
  dsimp only
  rw [if_neg (by rw [clean]; exact Bool.false_ne_true)]
  split
  · rfl
  next j job => exact if_pos (.inr (refused j job))

theorem expectAdd_of_poison (poisoned : (s.srcS i 0).p = true) : expectAdd i s = .trap 0x0D 0 s :=
  if_pos poisoned

theorem post_of_own {j : Job} (clean : (s.srcS i 0).p = false) (clean' : (s.srcS i 1).p = false) (fits :
    (s.srcS i 1).v.toNat < 2 ^ 32)
    (job : s.jobOf (s.srcS i 0).v = some j) (own : j.part = (s.tileAt s.iss.tile).partid.getD 32) :
    post i s = .ok (
      let q := s.modJob (s.srcS i 0).v fun j => j.post (s.srcS i 1).v.toNat
      if (s.srcS i 0).v = s.cur.jobh ∧ (s.srcS i 1).v ≠ 0 then q.modCur fun c => { c with posted := true } else q) := by
  simp only [post, clean, clean', Bool.or_self, Bool.false_eq_true, if_false, Nat.not_le.mpr fits, job, own, ne_eq,
    not_true_eq_false]
  rfl

theorem post_of_poison (poisoned : (s.srcS i 0).p = true ∨ (s.srcS i 1).p = true) : post i s = .trap 0x0D 0 s :=
  if_pos (by simpa only [Bool.or_eq_true] using poisoned)

theorem post_of_large (clean : (s.srcS i 0).p = false) (clean' : (s.srcS i 1).p = false) (large : 2 ^ 32 ≤ (s.srcS i 1).v.toNat) :
    post i s = .trap 0x03 0 s := by
  simp only [post, clean, clean', Bool.or_self, Bool.false_eq_true, if_false, large, if_true]
  rfl

theorem post_of_foreign (clean : (s.srcS i 0).p = false) (clean' : (s.srcS i 1).p = false) (fits : (s.srcS i 1).v.toNat < 2 ^ 32)
    (foreign : ∀ j, s.jobOf (s.srcS i 0).v = some j → j.part ≠ (s.tileAt s.iss.tile).partid.getD 32) :
    post i s = .trap 0x10 0 s := by
  simp only [post, clean, clean', Bool.or_self, Bool.false_eq_true, if_false, Nat.not_le.mpr fits]
  split
  · rfl
  next j job => exact if_pos (foreign j job)

theorem jwait_of_poison {f : FAd} (poisoned : (s.srcS i 0).p = true) : jwait i f s = .trap 0x0D 0 s :=
  if_pos poisoned

/-- The handle of JWAIT names no job that it may wait for (R196). -/
theorem jwait_of_refused {f : FAd} (clean : (s.srcS i 0).p = false)
    (refused : ∀ j, s.blockOf (s.srcS i 0).v = some j →
      bits (s.srcS i 0).v.toNat 16 32 = 0 ∨ j.gen.toNat < bits (s.srcS i 0).v.toNat 16 32 ∨
      (bits (s.srcS i 0).v.toNat 16 32 = j.gen.toNat ∧ some j.part ≠ (s.tileAt s.iss.tile).partid) ∨
      s.isAncestor (s.srcS i 0).v 32768 s.iss.pre.jobh = true) : jwait i f s = .trap 0x10 0 s := by
  unfold jwait
  dsimp only
  rw [if_neg (by rw [clean]; exact Bool.false_ne_true)]
  split
  · rfl
  next j job => exact if_pos (refused j job)

/-- JWAIT on a job that it may wait for: its status where there is one, and a wait otherwise (R189, R196). -/
theorem jwait_of_job {f : FAd} {j : Job} (clean : (s.srcS i 0).p = false) (job : s.blockOf (s.srcS i 0).v = some j)
    (used : 0 < bits (s.srcS i 0).v.toNat 16 32) (reached : bits (s.srcS i 0).v.toNat 16 32 ≤ j.gen.toNat)
    (own : bits (s.srcS i 0).v.toNat 16 32 = j.gen.toNat → some j.part = (s.tileAt s.iss.tile).partid)
    (other : s.isAncestor (s.srcS i 0).v 32768 s.iss.pre.jobh = false) :
    jwait i f s =
      let q := s.modIss fun y => { y with switch := true }
      match (if bits (s.srcS i 0).v.toNat 16 32 < j.gen.toNat then some 2 else if j.complete then some j.status else none) with
        | some k => .ok (q.modCur fun c => c.setS f.d.toNat { v := BitVec.ofNat 64 k })
        | none => .wait (.jwait f.d (s.srcS i 0).v) q := by
  have admitted : ¬(bits (s.srcS i 0).v.toNat 16 32 = 0 ∨ j.gen.toNat < bits (s.srcS i 0).v.toNat 16 32 ∨
      (bits (s.srcS i 0).v.toNat 16 32 = j.gen.toNat ∧ some j.part ≠ (s.tileAt s.iss.tile).partid) ∨
      s.isAncestor (s.srcS i 0).v 32768 s.iss.pre.jobh = true) := by
    rintro (zero | late | ⟨same, foreign⟩ | ancestor)
    · omega
    · omega
    · exact foreign (own same)
    · rw [other] at ancestor
      exact Bool.false_ne_true ancestor
  have kept : (s.modIss fun y => { y with switch := true }).jobStatus (s.srcS i 0).v =
      if bits (s.srcS i 0).v.toNat 16 32 < j.gen.toNat then some 2 else if j.complete then some j.status else none := by
    unfold State.jobStatus
    rw [show (s.modIss fun y => { y with switch := true }).blockOf (s.srcS i 0).v = s.blockOf (s.srcS i 0).v from rfl, job]
  unfold jwait
  dsimp only
  rw [if_neg (by rw [clean]; exact Bool.false_ne_true), job]
  dsimp only
  rw [if_neg admitted, kept]
  rfl

theorem rget_of_range {f : FD} {j : Job} (job : s.jobOf s.iss.pre.jobh = some j) (range : pktKIND j.pkt = 1) :
    rget f s = .ok (
      let r := j.rget s.iss.pre.taskid
      ((s.modJob s.iss.pre.jobh fun _ => r.2).modCur fun c => c.setS f.d.toNat { v := r.1.1 }).modCur
        fun c => c.setS (f.d + 1).toNat { v := r.1.2 }) := by
  simp only [rget, job, range, ne_eq, not_true_eq_false, if_false]
  rfl

theorem rget_of_other {f : FD} (other : ∀ j, s.jobOf s.iss.pre.jobh = some j → pktKIND j.pkt ≠ 1) : rget f s = .trap 0x10 0 s := by
  unfold rget
  dsimp only
  split
  · rfl
  next j job => exact if_pos (other j job)

end

/-! ## HANDOFF and SUSPEND (R193, R198, R200) -/

section
variable {s : State} {i : Instr}

/-- HANDOFF refuses the region: it is no entry of the context, the receiver is the task itself,
  or the region is handed off already. -/
def State.handoffRefused (s : State) (i : Instr) : Prop :=
  let t := s.tileAt s.iss.tile
  let n := (s.srcS i 0).v.toNat
  127 < n ∨ entVALID (t.rmap.getD n 0) = false ∨ entPARK (t.rmap.getD n 0) = true ∨ entOWNER (t.rmap.getD n 0) ≠ s.iss.slot ∨
    (s.srcS i 1).v.setWidth 32 = s.iss.pre.taskid ∨ ∃ y ∈ t.handoffs, y.1 = n

theorem handoff_of_clean (clean : (s.srcS i 0).p = false) (clean' : (s.srcS i 1).p = false) :
    (s.handoffRefused i → handoff i s = .trap 0x10 0 s) ∧
    (¬s.handoffRefused i → handoff i s = if 16 ≤ (s.tileAt s.iss.tile).handoffs.length then .trap 0x17 0 s else
      .ok (s.modTile s.iss.tile fun t => { t with handoffs := t.handoffs ++
        [((s.srcS i 0).v.toNat, (s.srcS i 1).v.setWidth 32, s.iss.pre.jobh)] })) := by
  have same : (127 < (s.srcS i 0).v.toNat ∨ (!entVALID ((s.tileAt s.iss.tile).rmap.getD (s.srcS i 0).v.toNat 0)) = true ∨
      entPARK ((s.tileAt s.iss.tile).rmap.getD (s.srcS i 0).v.toNat 0) = true ∨
      entOWNER ((s.tileAt s.iss.tile).rmap.getD (s.srcS i 0).v.toNat 0) ≠ s.iss.slot ∨
      (s.srcS i 1).v.setWidth 32 = s.iss.pre.taskid ∨
      ((s.tileAt s.iss.tile).handoffs.any fun h => h.1 == (s.srcS i 0).v.toNat) = true) ↔ s.handoffRefused i := by
    simp only [State.handoffRefused, Bool.not_eq_true', List.any_eq_true, beq_iff_eq]
  refine ⟨fun refused => ?_, fun taken => ?_⟩
  · simp only [handoff, clean, clean', Bool.or_self, Bool.false_eq_true, if_false, same.mpr refused, if_true]
    rfl
  · simp only [handoff, clean, clean', Bool.or_self, Bool.false_eq_true, if_false, mt same.mp taken]
    rfl

theorem handoff_of_poison (poisoned : (s.srcS i 0).p = true ∨ (s.srcS i 1).p = true) : handoff i s = .trap 0x0D 0 s :=
  if_pos (by simpa only [Bool.or_eq_true] using poisoned)

/-- A region that HANDOFF takes is one that it does not refuse. -/
theorem not_handoffRefused (inside : (s.srcS i 0).v.toNat < 128)
    (valid : entVALID ((s.tileAt s.iss.tile).rmap.getD (s.srcS i 0).v.toNat 0) = true)
    (placed : entPARK ((s.tileAt s.iss.tile).rmap.getD (s.srcS i 0).v.toNat 0) = false)
    (own : entOWNER ((s.tileAt s.iss.tile).rmap.getD (s.srcS i 0).v.toNat 0) = s.iss.slot)
    (other : (s.srcS i 1).v.setWidth 32 ≠ s.iss.pre.taskid) (fresh : ∀ y ∈ (s.tileAt s.iss.tile).handoffs,
      y.1 ≠ (s.srcS i 0).v.toNat) :
    ¬s.handoffRefused i := by
  rintro (outside | invalid | parked | foreign | self | ⟨y, member, same⟩)
  · omega
  · rw [valid] at invalid
    contradiction
  · rw [placed] at parked
    contradiction
  · exact foreign own
  · exact other self
  · exact fresh y member same

theorem suspend_of_crooked (clean : (s.srcS i 0).p = false) (crooked : (s.srcS i 0).v.toNat % 64 ≠ 0) :
    suspend i s = .trap 0x0A (s.srcS i 0).v.toNat s := by
  simp only [suspend, clean, Bool.false_eq_true, if_false, ne_eq, crooked, not_false_eq_true, if_true]
  rfl

theorem suspend_of_outside (clean : (s.srcS i 0).p = false) (aligned : (s.srcS i 0).v.toNat % 64 = 0)
    (outside : 0x800000 ≤ (s.srcS i 0).v.toNat) : suspend i s = .trap 0x0B (s.srcS i 0).v.toNat s := by
  simp only [suspend, clean, Bool.false_eq_true, if_false, ne_eq, aligned, not_true_eq_false, outside, if_true]
  rfl

theorem suspend_of_place (clean : (s.srcS i 0).p = false) (aligned : (s.srcS i 0).v.toNat % 64 = 0)
    (inside : (s.srcS i 0).v.toNat < 0x800000) :
    suspend i s = match s.locate s.iss.tile s.iss.slot s.iss.pre (s.srcS i 0).v.toNat 64 true with
      | .error e => .trap e.1 e.2 s
      | .ok _ => .ends s :=
  (if_neg (by rw [clean]; exact Bool.false_ne_true)).trans
    ((if_neg (not_not.mpr aligned)).trans (if_neg (Nat.not_le.mpr inside)))

theorem suspend_of_poison (poisoned : (s.srcS i 0).p = true) : suspend i s = .trap 0x0D 0 s :=
  if_pos poisoned

end

/-- Settles O39. -/
theorem jobWords : Obligations.JobWords := by
  intro f g h k s o1 x e o p part sreg
  refine ⟨completesIf_of_run (exec_launch f s) fun o holds => ?_,
    fun slot gen => completesIf_of_run (exec_launch f s) fun o holds => ?_,
    fun turn read code full => ?_, fun turn read => (exec_launch f s).trans (runWord_trap turn (launch_of_error read)),
    fun j => completesIf_of_run (exec_expectAdd g s) fun o ⟨clean, job, room, waits⟩ => expectAdd_of_room clean job room waits,
    trapsIf_of_run (exec_expectAdd g s) fun o ⟨clean, posted⟩ => expectAdd_of_refused clean fun _ _ => .inr posted,
    trapsIf_of_run (exec_expectAdd g s) fun o ⟨clean, full⟩ => expectAdd_of_refused clean fun j job => .inl (full j job), ?_,
    fun j => completesIf_of_run (exec_post h s) fun o ⟨clean, clean', fits, job, own⟩ => post_of_own clean clean' fits job own,
    trapsIf_of_run (exec_post h s) fun o poisoned => post_of_poison poisoned,
    trapsIf_of_run (exec_post h s) fun o ⟨clean, clean', large⟩ => post_of_large clean clean' large,
    trapsIf_of_run (exec_post h s) fun o ⟨clean, clean', fits, foreign⟩ => post_of_foreign clean clean' fits foreign,
    fun j => completesIf_of_run (exec_jwait f s) fun o holds => ?_, fun j => completesIf_of_run (exec_jwait f s) fun o holds => ?_,
    fun j turn clean job used same own unfinished other => ?_,
    trapsIf_of_run (exec_jwait f s) fun o ⟨clean, refused⟩ => jwait_of_refused clean refused,
    fun j => completesIf_of_run (exec_rget k s) fun o ⟨job, range⟩ => rget_of_range job range,
    trapsIf_of_run (exec_rget k s) fun o other => rget_of_other other, completesIf_of_run (exec_handoff h s) fun o holds => ?_,
    trapsIf_of_run (exec_handoff h s) fun o poisoned => handoff_of_poison poisoned,
    trapsIf_of_run (exec_handoff h s) fun o ⟨clean, clean', refused⟩ => (handoff_of_clean clean clean').1 refused,
    trapsIf_of_run (exec_handoff h s) fun o holds => ?_, fun n => trapsIf_of_run (exec_suspend g s) fun o holds => ?_,
    fun n => trapsIf_of_run (exec_suspend g s) fun o holds => ?_, fun y => trapsIf_of_run (exec_suspend g s) fun o holds => ?_,
    fun l turn clean aligned inside place => ?_, trapsIf_of_run (exec_suspend g s) fun o poisoned => suspend_of_poison poisoned,
    fun turn => ?_⟩
  · obtain ⟨read, code⟩ := holds
    rw [launch_of_packet read (readDesc_iss read)]
    exact if_pos code
  · obtain ⟨read, code, free, room⟩ := holds
    rw [launch_of_packet read (readDesc_iss read)]
    dsimp only
    rw [if_neg (not_not.mpr code), free]
    exact if_neg (Nat.not_le.mpr room)
  · refine (exec_launch f s).trans (runWord_trap turn ?_)
    rw [launch_of_packet read (readDesc_iss read)]
    dsimp only
    rw [if_neg (not_not.mpr code)]
    rcases full with none | full
    · rw [none]
    · split
      · rfl
      · exact if_pos full
  · intro i word
    simp only [List.mem_cons, List.not_mem_nil, or_false] at word
    rcases word with rfl | rfl
    · exact trapsIf_of_run (exec_expectAdd g s) fun o poisoned => expectAdd_of_poison poisoned
    · exact trapsIf_of_run (exec_jwait f s) fun o poisoned => jwait_of_poison poisoned
  · obtain ⟨clean, job, used, stale, other⟩ := holds
    rw [jwait_of_job clean job used (Nat.le_of_lt stale) (fun same => absurd same (Nat.ne_of_lt stale)) other, if_pos stale]
    rfl
  · obtain ⟨clean, job, used, same, own, complete, other⟩ := holds
    rw [jwait_of_job clean job used (Nat.le_of_eq same) (fun _ => own) other, if_neg (by omega), if_pos complete]
  · refine (exec_jwait f s).trans (runWord_wait turn ?_)
    rw [jwait_of_job clean job used (Nat.le_of_eq same) (fun _ => own) other, if_neg (by omega),
      if_neg (by rw [unfinished]; exact Bool.false_ne_true)]
  · obtain ⟨clean, clean', inside, valid, placed, own, other, fresh, room⟩ := holds
    rw [(handoff_of_clean clean clean').2 (not_handoffRefused inside valid placed own other fresh)]
    exact if_neg (Nat.not_le.mpr room)
  · obtain ⟨clean, clean', inside, valid, placed, own, other, fresh, full⟩ := holds
    rw [(handoff_of_clean clean clean').2 (not_handoffRefused inside valid placed own other fresh)]
    exact if_pos full
  · obtain ⟨clean, rfl, crooked⟩ := holds
    exact suspend_of_crooked clean crooked
  · obtain ⟨clean, rfl, aligned, outside⟩ := holds
    exact suspend_of_outside clean aligned outside
  · obtain ⟨clean, aligned, inside, refused⟩ := holds
    rw [suspend_of_place clean aligned inside, refused]
  · refine (exec_suspend g s).trans ((runWord_turn turn).trans ?_)
    rw [suspend_of_place clean aligned inside, place]
  · exact (exec_tdone s).trans (runWord_turn turn)

end Sys2Proof.Machine
end

section
/-! SUPPORT. The words of the Burin engines, the link engine and the matrix engine. -/

namespace Sys2Proof.Machine

/-- A word whose meaning holds leaves the state as it is. -/
theorem runWord_hold {i : Instr} {eff : State → WordRes} {s : State} (turn : s.turn i = true) (hold : eff s.openBundle = .hold) :
    runWord i eff s = .next s := by
  rw [runWord_turn turn, hold]

/-! ## CPY, CWAIT, CSTAT and CCAN (R325 to R328) -/

section
variable {s o : State} {i : Instr} {f : FCopy} {x : Nat} {e : Nat × Nat}

theorem cpy_of_full (full : (s.burinAt s.iss.tile f.e.toNat).full = true) : cpy i f s = .hold :=
  if_pos full

theorem cpy_of_error (room : (s.burinAt s.iss.tile f.e.toNat).full = false)
    (read : readDesc s (s.srcS i 0) 64 true = (.error e, o)) : cpy i f s = .trap e.1 e.2 o := by
  simp only [cpy, room, Bool.false_eq_true, if_false, read]

theorem cpy_of_malformed (room : (s.burinAt s.iss.tile f.e.toNat).full = false)
    (read : readDesc s (s.srcS i 0) 64 true = (.ok x, o)) (malformed : cpyOk (BitVec.ofNat 512 x) o.iss.pre.gangsize = false) :
    cpy i f s = .trap 0x10 0 o := by
  simp only [cpy, room, Bool.false_eq_true, if_false, read, malformed, Bool.not_false, if_true]
  rfl

theorem cpy_of_command (room : (s.burinAt s.iss.tile f.e.toNat).full = false)
    (read : readDesc s (s.srcS i 0) 64 true = (.ok x, o)) (formed : cpyOk (BitVec.ofNat 512 x) o.iss.pre.gangsize = true) :
    cpy i f s = .ok (
      let tag := (o.burinAt s.iss.tile f.e.toNat).seq + 1
      let c : Copy := { tag := tag, slot := o.iss.slot, d := BitVec.ofNat 512 x, da := (s.srcS i 0).v.toNat }
      (o.modBurin s.iss.tile f.e.toNat fun b => { b with seq := tag, q := b.q ++ [c] }).modCur
        fun z => z.setS f.d.toNat { v := tag.setWidth 64 }) := by
  simp only [cpy, room, Bool.false_eq_true, if_false, read, formed, Bool.not_true]
  rfl

theorem cwait_of_clean (clean : (s.srcS i 0).p = false) :
    cwait i f s =
      let tag := s.iss.pre.alias1 f.e.toNat ((s.srcS i 0).v.setWidth 32)
      let q := s.modIss fun y => { y with switch := true }
      if ((s.burinAt s.iss.tile f.e.toNat).done - tag).toNat < 2 ^ 31 then
        .ok (q.modCur fun c => c.setS f.d.toNat { v := q.tagStatus q.iss.tile q.iss.slot f.e.toNat tag })
      else .wait (.cwait f.d f.e.toNat tag) q := by
  simp only [cwait, clean, Bool.false_eq_true, if_false, decide_eq_true_eq]
  rfl

end

/-- Settles O30. -/
theorem copyWords : Obligations.CopyWords := by
  intro f s o1 x e o t n sreg tag
  refine ⟨completesIf_of_run (exec_cpy f s) fun o ⟨room, read, formed⟩ => cpy_of_command room read formed,
    fun turn room read => (exec_cpy f s).trans (runWord_trap turn (cpy_of_error room read)),
    fun turn room read malformed => (exec_cpy f s).trans (runWord_trap turn (cpy_of_malformed room read malformed)),
    fun turn full => (exec_cpy f s).trans (runWord_hold turn (cpy_of_full full)),
    completesIf_of_run (exec_cwait f s) fun o ⟨clean, passed⟩ => (cwait_of_clean clean).trans (if_pos passed),
    fun turn clean ahead => (exec_cwait f s).trans (runWord_wait turn ((cwait_of_clean clean).trans (if_neg (Nat.not_lt.mpr ahead)))),
    completesIf_of_run (exec_cstat f s) fun o clean => ?_, completesIf_of_run (exec_ccan f s) fun o clean => ?_,
    trapsIf_of_run (exec_cwait f s) fun o poisoned => if_pos poisoned,
    trapsIf_of_run (exec_cstat f s) fun o poisoned => if_pos poisoned,
    trapsIf_of_run (exec_ccan f s) fun o poisoned => if_pos poisoned⟩
  · exact if_neg (by rw [clean]; exact Bool.false_ne_true)
  · exact if_neg (by rw [clean]; exact Bool.false_ne_true)

/-! ## LSEND, LRECV, LRADD, LSCHED and LSTAT (R381, R382, R386 to R388) -/

theorem tableEntries_iss {o : State} {a k : Nat} {r : Except (Nat × Nat) (List (Nat × Nat × Bool))} {u : State}
    (eq : tableEntries o a k = (r, u)) : u.iss = o.iss := by
  induction k generalizing r u with
  | zero => rw [← (Prod.mk.inj eq).2]
  | succ k ih =>
    unfold tableEntries at eq
    split at eq
    next before =>
      rw [← (Prod.mk.inj eq).2]
      exact ih before
    next before =>
      split at eq <;>
        next word =>
          rw [← (Prod.mk.inj eq).2, readDesc_iss word]
          exact ih before

theorem readTable_iss {o : State} {a : Nat} {r : Except (Nat × Nat) (Option (Nat × List (Nat × Nat × Bool)))} {u : State}
    (eq : readTable o a = (r, u)) : u.iss = o.iss := by
  unfold readTable at eq
  split at eq
  next head =>
    rw [← (Prod.mk.inj eq).2]
    exact readDesc_iss head
  next head =>
    split at eq
    · rw [← (Prod.mk.inj eq).2]
      exact readDesc_iss head
    · split at eq <;>
        next entries =>
          rw [← (Prod.mk.inj eq).2, tableEntries_iss entries]
          exact readDesc_iss head

section
variable {s o o2 : State} {i : Instr} {kind x : Nat} {f : FLink} {g : FAd} {e : Nat × Nat}

theorem linkWord_of_full (full : (s.tileAt s.iss.tile).link.full = true) : linkWord kind i f s = .hold :=
  if_pos full

theorem linkWord_of_error (room : (s.tileAt s.iss.tile).link.full = false)
    (read : readDesc s (s.srcS i 0) 64 true = (.error e, o)) : linkWord kind i f s = .trap e.1 e.2 o := by
  simp only [linkWord, room, Bool.false_eq_true, if_false, read]

theorem linkWord_of_malformed (room : (s.tileAt s.iss.tile).link.full = false)
    (read : readDesc s (s.srcS i 0) 64 true = (.ok x,
      o)) (malformed : linkOk (BitVec.ofNat 512 x) kind o.iss.pre.gangsize = false) :
    linkWord kind i f s = .trap 0x10 0 o := by
  simp only [linkWord, room, Bool.false_eq_true, if_false, read, malformed, Bool.not_false, if_true]
  rfl

theorem linkWord_of_command (room : (s.tileAt s.iss.tile).link.full = false)
    (read : readDesc s (s.srcS i 0) 64 true = (.ok x, o)) (formed : linkOk (BitVec.ofNat 512 x) kind o.iss.pre.gangsize = true) :
    linkWord kind i f s = .ok (
      let d := BitVec.ofNat 512 x
      let m : LCmd := { tag := (o.tileAt o.iss.tile).link.seq + 1, age := o.linkAge, gang := o.iss.pre.gang,
                        task := o.iss.pre.taskid, kind := kind, port := f.p.toNat, d := d, da := (s.srcS i 0).v.toNat, r := o.iss.pre.recs.getD (lkPR d) 0 }
      ((o.acceptLink m).startLink o.iss.tile m).modCur fun c => c.setS f.d.toNat { v := m.tag.setWidth 64 }) := by
  rw [readDesc_iss read]
  simp only [linkWord, room, Bool.false_eq_true, if_false, read, formed, Bool.not_true]
  rw [readDesc_iss read]
  rfl

theorem lsched_of_full (full : (s.tileAt s.iss.tile).link.full = true) : lsched i g s = .hold :=
  if_pos full

theorem lsched_of_error (room : (s.tileAt s.iss.tile).link.full = false)
    (read : readDesc s (s.srcS i 0) 64 true = (.error e, o)) : lsched i g s = .trap e.1 e.2 o := by
  simp only [lsched, room, Bool.false_eq_true, if_false, read]

theorem lsched_of_malformed (room : (s.tileAt s.iss.tile).link.full = false)
    (read : readDesc s (s.srcS i 0) 64 true = (.ok x, o)) (malformed : schedOk (BitVec.ofNat 512 x) o.iss.pre.gangsize = false) :
    lsched i g s = .trap 0x10 0 o := by
  simp only [lsched, room, Bool.false_eq_true, if_false, read, malformed, Bool.not_false, if_true]
  rfl

variable (room : (s.tileAt s.iss.tile).link.full = false) (read : readDesc s (s.srcS i 0) 64 true = (.ok x, o))
  (formed : schedOk (BitVec.ofNat 512 x) o.iss.pre.gangsize = true)
include room read formed

theorem lsched_of_tableError (table : readTable o (scMTAB (BitVec.ofNat 512 x)) = (.error e,
  o2)) : lsched i g s = .trap e.1 e.2 o2 := by
  simp only [lsched, room, Bool.false_eq_true, if_false, read, formed, Bool.not_true, table]

theorem lsched_of_noTable (table : readTable o (scMTAB (BitVec.ofNat 512 x)) = (.ok none,
  o2)) : lsched i g s = .trap 0x10 0 o2 := by
  simp only [lsched, room, Bool.false_eq_true, if_false, read, formed, Bool.not_true, table]
  rfl

variable {epoch : Nat} {members : List (Nat × Nat × Bool)}
  (table : readTable o (scMTAB (BitVec.ofNat 512 x)) = (.ok (some (epoch, members)), o2))
include table

theorem lsched_of_stranger (stranger : ({ members := members, epoch := epoch } : Sched).rankOf (scMYID (BitVec.ofNat 512 x)) = none) :
    lsched i g s = .trap 0x10 0 o2 := by
  simp only [lsched, room, Bool.false_eq_true, if_false, read, formed, Bool.not_true, table, stranger, Option.isNone_none, if_true]
  rfl

theorem lsched_of_member (member : (({ members := members, epoch := epoch } : Sched).rankOf (scMYID (BitVec.ofNat 512 x))).isSome = true) :
    lsched i g s = .ok (
      let d := BitVec.ofNat 512 x
      let m : LCmd := { tag := (o2.tileAt o2.iss.tile).link.seq + 1, age := o2.linkAge, gang := o2.iss.pre.gang,
                        task := o2.iss.pre.taskid, kind := 3, port := 0, d := d, da := (s.srcS i 0).v.toNat,
                        r := o2.iss.pre.recs.getD (scPR d) 0, st := 3,
                        sched := some { members := members, epoch := epoch } }
      (o2.acceptLink m).modCur fun c => c.setS g.d.toNat { v := m.tag.setWidth 64 }) := by
  have known : ¬(({ members := members, epoch := epoch } : Sched).rankOf (scMYID (BitVec.ofNat 512 x))).isNone = true := by
    rw [Option.isNone_iff_eq_none, ← ne_eq, Option.ne_none_iff_isSome]
    exact member
  rw [readTable_iss table, readDesc_iss read]
  rw [readDesc_iss read] at formed
  simp only [lsched, room, Bool.false_eq_true, if_false, read, readDesc_iss read, formed, Bool.not_true, table, known]
  rfl

end

theorem lstat_of_clean {s : State} {i : Instr} {f : FAd} (clean : (s.srcS i 0).p = false) :
    lstat i f s = .ok (
      let tag := (s.srcS i 0).v.setWidth 32
      let t := s.iss.tile
      s.modCur fun c => c.setS f.d.toNat { v := match (s.tileAt t).link.q.find? fun m => m.tag == tag && !m.sub with
        | some m => if m.gang = s.iss.pre.gang ∧ m.task = s.iss.pre.taskid then s.linkStatus t m m.st 0 else 0
        | none => (((s.iss.pre.kept.getD 2 []).find? fun k => k.tag == tag).map (·.status)).getD 0 }) :=
  if_neg (by rw [clean]; exact Bool.false_ne_true)

/-- Settles O34. -/
theorem linkWords : Obligations.LinkWords := by
  intro f g s o1 o2 x e o d sreg cmd
  have row {i : Instr} {kind : Nat} (run : exec i s = runWord i (linkWord kind i f) s) :
      (CompletesIf s i (fun o => (o.tileAt o.iss.tile).link.full = false ∧ readDesc o (o.srcS i 0) 64 true = (.ok x, o1) ∧
          linkOk d kind o1.iss.pre.gangsize = true) fun o =>
        let m := cmd kind f.p.toNat (o.srcS i 0).v.toNat (lkPR d) o1
        sreg ((o1.acceptLink m).startLink o1.iss.tile m) f.d m.tag) ∧
      (s.turn i = true → (o.tileAt o.iss.tile).link.full = false → readDesc o (o.srcS i 0) 64 true = (.ok x, o1) →
        linkOk d kind o1.iss.pre.gangsize = false → exec i s = .next (o.fails i 0x10 0 o1)) ∧
      (s.turn i = true → (o.tileAt o.iss.tile).link.full = false → readDesc o (o.srcS i 0) 64 true = (.error e, o1) →
        exec i s = .next (o.fails i e.1 e.2 o1)) ∧
      (s.turn i = true → (o.tileAt o.iss.tile).link.full = true → exec i s = .next s) :=
    ⟨completesIf_of_run run fun o ⟨room, read, formed⟩ => linkWord_of_command room read formed,
      fun turn room read malformed => run.trans (runWord_trap turn (linkWord_of_malformed room read malformed)),
      fun turn room read => run.trans (runWord_trap turn (linkWord_of_error room read)),
      fun turn full => run.trans (runWord_hold turn (linkWord_of_full full))⟩
  refine ⟨?_, ?_, completesIf_of_run (exec_lstat g s) fun o clean => lstat_of_clean clean,
    trapsIf_of_run (exec_lstat g s) fun o poisoned => if_pos poisoned⟩
  · intro i kind word
    simp only [List.mem_cons, Prod.mk.injEq, List.not_mem_nil, or_false] at word
    rcases word with ⟨rfl, rfl⟩ | ⟨rfl, rfl⟩ | ⟨rfl, rfl⟩
    · exact row (exec_lsend f s)
    · exact row (exec_lrecv f s)
    · exact row (exec_lradd f s)
  · intro read at0 fails
    have traps {q : Prop} {cause faddr : Nat} {v : State} (meaning : q → lsched (.lsched g) g o = .trap cause faddr v) :
        fails q cause faddr v := fun turn holds => (exec_lsched g s).trans (runWord_trap turn (meaning holds))
    clear_value fails
    exact ⟨fun epoch members => completesIf_of_run (exec_lsched g s) fun o ⟨⟨⟨room, read⟩, formed⟩, table, member⟩ =>
        lsched_of_member room read formed table member,
      traps fun ⟨⟨room, read⟩, malformed⟩ => lsched_of_malformed room read malformed,
      traps fun ⟨⟨⟨room, read⟩, formed⟩, table⟩ => lsched_of_tableError room read formed table,
      traps fun ⟨⟨⟨room, read⟩, formed⟩, table⟩ => lsched_of_noTable room read formed table,
      fun epoch members => traps fun ⟨⟨⟨room, read⟩, formed⟩, table, stranger⟩ =>
        lsched_of_stranger room read formed table stranger,
      traps fun ⟨room, read⟩ => lsched_of_error room read,
      fun turn full => (exec_lsched g s).trans (runWord_hold turn (lsched_of_full full))⟩

end Sys2Proof.Machine
end

section
/-! SUPPORT. The words of the matrix engine. -/

namespace Sys2Proof.Machine

/-! ## The M words (R148, R163 to R172) -/

section
variable {s o : State} {i : Instr} {x : Nat} {e : Nat × Nat}

theorem mldtS_of_error (read : readDesc s (s.srcS i 0) 256 true = (.error e, o)) : mldtS i s = .trap e.1 e.2 o := by
  rw [mldtS, read]

theorem mldtS_of_desc (read : readDesc s (s.srcS i 0) 256 true = (.ok x, o)) :
    mldtS i s = .ok (o.modCur fun c => { c with shadow := BitVec.ofNat 2048 x }) := by
  rw [mldtS, read]

theorem matrixFull_iff : s.matrixFull = true ↔ 4 ≤ (s.tileAt s.iss.tile).mq.length := by
  simp only [State.matrixFull, State.matrixRoom, Bool.not_eq_true', decide_eq_false_iff_not, Nat.not_lt]

theorem not_matrixFull (room : (s.tileAt s.iss.tile).mq.length < 4) : ¬s.matrixFull = true := by
  rw [matrixFull_iff]
  exact Nat.not_le.mpr room

theorem mgo_of_ready {f : FD} (room : (s.tileAt s.iss.tile).mq.length < 4)
    (ready : shadowOk s.iss.pre.shadow s.iss.pre.gangsize = true) :
    mgo f s = .ok (
      let c := s.iss.pre
      let n := (s.tileAt s.iss.tile).mseq + 1
      let k := MKind.go (splitDesc c.shadow c.split) (c.recs.getD (mdPRA c.shadow) 0) (c.recs.getD (mdPRB c.shadow) 0)
      (s.modTile s.iss.tile fun y => { y with mseq := n, mq := y.mq ++ [{ seq := n, slot := s.iss.slot, kind := k }] }).modCur
        fun c => c.setS f.d.toNat { v := n.setWidth 64 }) :=
  (if_neg (not_matrixFull room)).trans (if_neg (by rw [ready]; decide))

theorem mgo_of_malformed {f : FD} (room : (s.tileAt s.iss.tile).mq.length < 4)
    (malformed : shadowOk s.iss.pre.shadow s.iss.pre.gangsize = false) : mgo f s = .trap 0x10 0 s :=
  (if_neg (not_matrixFull room)).trans (if_pos (by rw [malformed]; rfl))

theorem mgo_of_full {f : FD} (full : 4 ≤ (s.tileAt s.iss.tile).mq.length) : mgo f s = .hold :=
  if_pos (matrixFull_iff.mpr full)

theorem mwait_of_clean {f : FAd} (clean : (s.srcS i 0).p = false) :
    mwait i f s =
      let n := s.iss.pre.alias1 3 ((s.srcS i 0).v.setWidth 32)
      let q := s.modIss fun y => { y with switch := true }
      if ((s.tileAt s.iss.tile).mdone - n).toNat < 2 ^ 31 then
        .ok (q.modCur fun c => c.setS f.d.toNat { v := matStatus (q.tileAt q.iss.tile) q.iss.slot q.cur })
      else .wait (.mwait f.d n) q := by
  simp only [mwait, clean, Bool.false_eq_true, if_false, reached, decide_eq_true_eq]
  rfl

theorem msplit_of_error (read : readDesc s (s.srcS i 0) 64 false = (.error e, o)) : msplit i s = .trap e.1 e.2 o := by
  rw [msplit, read]

theorem msplit_of_desc (read : readDesc s (s.srcS i 0) 64 false = (.ok x, o)) :
    msplit i s = if splitOk (BitVec.ofNat 512 x) o.iss.pre.gangsize = true then
      .ok (o.modCur fun c => { c with split := BitVec.ofNat 512 x }) else .trap 0x10 0 o := by
  rw [msplit, read]
  rfl

theorem alias1_of_fresh {c : Ctx} {n : BitVec 32} (fresh : ∀ x ∈ c.aliases, (x.1, x.2.1) ≠ (3, n)) : c.alias1 3 n = n := by
  have none : c.aliases.find? (fun x => x.1 == 3 && x.2.1 == n) = none := by
    rw [List.find?_eq_none]
    rintro x member
    simpa [Prod.ext_iff] using fresh x member
  rw [Ctx.alias1, none]

end

/-! ## MCLR and MWB (R168, R170) -/

section
variable {s o : State} {i : Instr} {f : FMclr} {g : FAd} {x : Nat} {e : Nat × Nat}

theorem mclr_of_full (full : 4 ≤ (s.tileAt s.iss.tile).mq.length) : mclr i f s = .hold :=
  if_pos (matrixFull_iff.mpr full)

theorem mclr_of_poison (room : (s.tileAt s.iss.tile).mq.length < 4) (poisoned : (s.srcS i 0).p = true ∨ (s.srcS i 1).p = true) :
    mclr i f s = .trap 0x0D 0 s :=
  (if_neg (not_matrixFull room)).trans (if_pos (by simpa only [Bool.or_eq_true] using poisoned))

/-- MCLR with room and clean operands: its address, its alignment and its end are checked in this order. -/
theorem mclr_of_clean (room : (s.tileAt s.iss.tile).mq.length < 4) (clean : (s.srcS i 0).p = false) (clean' :
    (s.srcS i 1).p = false) :
    mclr i f s =
      let a := (s.srcS i 0).v.toNat
      let l := (s.srcS i 1).v.toNat
      if a < 0x800000 ∨ 0xB00000 ≤ a then .trap 0x0B a s
      else if a % 64 ≠ 0 ∨ l % 64 ≠ 0 then .trap 0x0A a s
      else if 0xB00000 < a + l then .trap 0x0B a s
      else
        let n := (s.tileAt s.iss.tile).mseq + 1
        let k := MKind.clr (a - 0x800000) l (f.z == 1)
        .ok (s.modTile s.iss.tile fun y => { y with mseq := n, mq := y.mq ++ [{ seq := n, slot := s.iss.slot, kind := k }] }) :=
  (if_neg (not_matrixFull room)).trans (if_neg (by rw [clean, clean']; decide))

theorem mwb_of_full (full : 4 ≤ (s.tileAt s.iss.tile).mq.length) : mwb i g s = .hold :=
  if_pos (matrixFull_iff.mpr full)

theorem mwb_of_error (room : (s.tileAt s.iss.tile).mq.length < 4) (read : readDesc s (s.srcS i 0) 64 false = (.error e, o)) :
    mwb i g s = .trap e.1 e.2 o := by
  simp only [mwb, not_matrixFull room, Bool.false_eq_true, if_false, read]

theorem mwb_of_malformed (room : (s.tileAt s.iss.tile).mq.length < 4) (read : readDesc s (s.srcS i 0) 64 false = (.ok x, o))
    (malformed : wbOk (BitVec.ofNat 512 x) s.iss.pre.gangsize = false) : mwb i g s = .trap 0x10 0 o := by
  simp only [mwb, not_matrixFull room, Bool.false_eq_true, if_false, read, malformed, Bool.not_false, if_true]
  rfl

theorem mwb_of_desc (room : (s.tileAt s.iss.tile).mq.length < 4) (read : readDesc s (s.srcS i 0) 64 false = (.ok x, o))
    (formed : wbOk (BitVec.ofNat 512 x) s.iss.pre.gangsize = true) :
    mwb i g s = .ok (
      let c := s.iss.pre
      let d := BitVec.ofNat 512 x
      let n := (o.tileAt o.iss.tile).mseq + 1
      let k := MKind.wb (wbDesc d c.split) (c.recs.getD (wbPR d) 0)
      (o.modTile o.iss.tile fun y => { y with mseq := n, mq := y.mq ++ [{ seq := n, slot := o.iss.slot, kind := k }] }).modCur
        fun z => z.setS g.d.toNat { v := n.setWidth 64 }) := by
  simp only [mwb, not_matrixFull room, if_false, read, formed, Bool.not_true, Bool.false_eq_true]
  rfl

end

/-- Settles O28: each word is run through the lemma for its case; the number of a command is the one that its context knows. -/
theorem matrixEngineWords : Obligations.MatrixEngineWords := by
  refine ⟨fun a m f g s o1 x e => ?_, fun f g s o1 x e => ?_⟩
  · intro o t shadow seq sreg
    refine ⟨completesIf_of_run (exec_mldtScalar a s) fun o read => mldtS_of_desc read,
      fun turn read => (exec_mldtScalar a s).trans (runWord_trap turn (mldtS_of_error read)),
      completesIf_of_run (exec_mldtVector a s) fun o clean => if_neg ?_,
        trapsIf_of_run (exec_mldtVector a s) fun o marked => if_pos ?_,
      completesIf_of_run (exec_mset m s) fun o clean => if_neg ?_, trapsIf_of_run (exec_mset m s) fun o poisoned => if_pos poisoned,
      fun turn ⟨room, ready⟩ => (exec_mgo f s).trans (runWord_ok turn (mgo_of_ready room ready)),
      trapsIf_of_run (exec_mgo f s) fun o ⟨room, malformed⟩ => mgo_of_malformed room malformed,
      fun turn full => (exec_mgo f s).trans (runWord_hold turn (mgo_of_full full)), completes_of_run (exec_mstat f s) fun o => rfl,
      completesIf_of_run (exec_mwait g s) fun o ⟨clean, passed⟩ => (mwait_of_clean clean).trans (if_pos passed),
      fun turn clean ahead => (exec_mwait g s).trans (runWord_wait turn ((mwait_of_clean clean).trans (if_neg (Nat.not_lt.mpr ahead)))),
      trapsIf_of_run (exec_mwait g s) fun o poisoned => if_pos poisoned, completes_of_run (exec_mabort f s) fun o => rfl,
      completesIf_of_run (exec_msplit a s) fun o ⟨read, formed⟩ => (msplit_of_desc read).trans (if_pos formed),
      fun turn read malformed => (exec_msplit a s).trans (runWord_trap turn ((msplit_of_desc read).trans (if_neg ?_))),
      fun turn read => (exec_msplit a s).trans (runWord_trap turn (msplit_of_error read)), fun c n fresh => alias1_of_fresh fresh,
      fun c n k found => ?_⟩
    · simp only [anyP, bne_iff_ne, ne_eq, clean, not_true, not_false_eq_true]
    · simpa only [anyP, bne_iff_ne] using marked
    · rw [clean]
      exact Bool.false_ne_true
    · rw [malformed]
      exact Bool.false_ne_true
    · rw [Ctx.alias1, found]
  · refine ⟨completesIf_of_run (exec_mclr f s) fun o ⟨room, clean, clean', low, high, al, al', inside⟩ =>
        (mclr_of_clean room clean clean').trans ((if_neg (not_or.mpr ⟨Nat.not_lt.mpr low, Nat.not_le.mpr high⟩)).trans
          ((if_neg (not_or.mpr ⟨not_not.mpr al, not_not.mpr al'⟩)).trans (if_neg (Nat.not_lt.mpr inside)))),
      trapsIf_of_run (exec_mclr f s) fun o ⟨room, poisoned⟩ => mclr_of_poison room poisoned,
      fun a => trapsIf_of_run (exec_mclr f s) fun o ⟨room, clean, clean', addr, outside⟩ => ?_,
      fun a => trapsIf_of_run (exec_mclr f s) fun o ⟨⟨room, clean, clean', low, high⟩, addr, misaligned⟩ => ?_,
      fun a => trapsIf_of_run (exec_mclr f s) fun o ⟨⟨room, clean, clean', low, high⟩, addr, al, al', beyond⟩ => ?_,
      fun turn full => (exec_mclr f s).trans (runWord_hold turn (mclr_of_full full)),
      completesIf_of_run (exec_mwb g s) fun o ⟨room, read, formed⟩ => mwb_of_desc room read formed,
      fun turn room read malformed => (exec_mwb g s).trans (runWord_trap turn (mwb_of_malformed room read malformed)),
      fun turn room read => (exec_mwb g s).trans (runWord_trap turn (mwb_of_error room read)),
      fun turn full => (exec_mwb g s).trans (runWord_hold turn (mwb_of_full full))⟩
    · subst addr
      exact (mclr_of_clean room clean clean').trans (if_pos outside)
    · subst addr
      exact (mclr_of_clean room clean clean').trans
        ((if_neg (not_or.mpr ⟨Nat.not_lt.mpr low, Nat.not_le.mpr high⟩)).trans (if_pos misaligned))
    · subst addr
      exact (mclr_of_clean room clean clean').trans ((if_neg (not_or.mpr ⟨Nat.not_lt.mpr low, Nat.not_le.mpr high⟩)).trans
        ((if_neg (not_or.mpr ⟨not_not.mpr al, not_not.mpr al'⟩)).trans (if_pos beyond)))

end Sys2Proof.Machine
end

section
/-! SUPPORT. The answers to management commands: what a refusal and a teardown make of one, and what an accepted one does. -/

namespace Sys2Proof.Machine

/-! ## Commands to the device and to a partition (R397, R399, R400) -/

section
variable {s : State} {ag : Agent} {p : Nat}

theorem command_of_owner (own : s.owner = some ag) (act : State → State × Nat) :
    s.command ag act = (act s).1.answer ag 4 (act s).2 0 :=
  if_pos own

theorem command_of_other (other : s.owner ≠ some ag) (act : State → State × Nat) : s.command ag act = s.answer ag 4 1 0 :=
  if_neg other

theorem partCommand_of_part {x : Part} (own : s.owner = some ag) (part : s.part? p = some x) (opened : s.isClosing p = false)
    (act : Part → State → State × Nat) : s.partCommand ag p act = (act x s).1.answer ag 4 (act x s).2 0 := by
  rw [State.partCommand, command_of_owner own]
  simp only [part, opened, Bool.false_eq_true, if_false]

theorem partCommand_refused (refused : s.owner ≠ some ag ∨ s.part? p = none) (act : Part → State → State × Nat) :
    s.partCommand ag p act = s.answer ag 4 1 0 := by
  by_cases own : s.owner = some ag
  · rw [State.partCommand, command_of_owner own]
    simp only [refused.resolve_left (not_not.mpr own)]
  · exact command_of_other own _

theorem partCommand_busy (own : s.owner = some ag) (closing : s.isClosing p = true) (act : Part → State → State × Nat) :
    s.partCommand ag p act = s.answer ag 4 2 0 := by
  rw [State.partCommand, command_of_owner own]
  cases part : s.part? p with
  | none => simp [State.isClosing, part] at closing
  | some x => simp only [closing, if_true]

theorem partDestroy_refused (refused : s.owner ≠ some ag ∨ s.part? p = none) :
    execPartDestroy ag p s = .next (s.answer ag 4 1 0) :=
  if_pos (by simpa only [ne_eq, Option.isNone_iff_eq_none] using refused)

theorem partDestroy_busy (own : s.owner = some ag) (closing : s.isClosing p = true) :
    execPartDestroy ag p s = .next (s.answer ag 4 2 0) := by
  refine (if_neg (not_or.mpr ⟨not_not.mpr own, fun absent => ?_⟩)).trans (if_pos closing)
  simp [State.isClosing, Option.isNone_iff_eq_none.mp absent] at closing

theorem isClosing_of_open {x : Part} (part : s.part? p = some x) (opened : x.closing = none) : s.isClosing p = false := by
  simp only [State.isClosing, part, Option.bind_some, opened, Option.isSome_none]

end

/-! ## The word of a command (R397, R399) -/

theorem commandWord_of_other {s : State} {ag : Agent} {w : BitVec 512} (other : s.owner ≠ some ag) (code : bits w.toNat 0 8 ≠ 0x11) :
    execCommandWord ag w s = .next (s.answer ag 4 1 0) := by
  have refused : ∀ p, s.owner ≠ some ag ∨ s.part? p = none := fun _ => .inl other
  unfold execCommandWord
  dsimp only
  generalize bits w.toNat 0 8 = n at code
  split
  case h_17 => exact absurd rfl code
  case h_19 => simp only [other, if_false]
  case h_2 => exact partDestroy_refused (refused _)
  case h_1 => exact congrArg _ (command_of_other other _)
  case h_15 => exact congrArg _ (command_of_other other _)
  case h_16 => exact congrArg _ (command_of_other other _)
  all_goals exact congrArg _ (partCommand_refused (refused _) _)

theorem commandWord_of_unknown {s : State} {ag : Agent} {w : BitVec 512} (own : s.owner = some ag)
    (code : bits w.toNat 0 8 = 0 ∨ 0x12 < bits w.toNat 0 8) : execCommandWord ag w s = .next (s.answer ag 4 3 0) := by
  unfold execCommandWord
  dsimp only
  generalize bits w.toNat 0 8 = n at code
  split
  case h_19 => simp only [own, if_true]
  all_goals exact absurd code (by decide)

/-- Settles O46: a refusal and a teardown are met before what a command does is looked at. -/
theorem commandsRefused : Obligations.CommandsRefused := by
  intro s ag p
  refine ⟨fun i kind => ⟨fun refused => ?_, fun own closing => ?_⟩, fun other => ⟨fun b => ?_, ?_, fun w => ?_, fun w v code => ?_⟩,
    fun own w v code => ?_⟩
  · have general : ∀ act, Host.Outcome.next (s.partCommand ag p act) = (.next (s.answer ag 4 1 0) : Host.Outcome State Fault Refusal) :=
      fun act => congrArg _ (partCommand_refused refused act)
    obtain rfl | ⟨_, _, rfl⟩ | ⟨_, _, rfl⟩ | ⟨_, _, _, _, rfl⟩ | ⟨_, _, _, rfl⟩ | ⟨_, rfl⟩ | ⟨_, rfl⟩ | ⟨_, _, rfl⟩ | ⟨_, _, rfl⟩ |
      ⟨_, _, rfl⟩ | ⟨_, _, rfl⟩ | ⟨_, rfl⟩ | ⟨_, _, _, _, rfl⟩ | ⟨_, _, rfl⟩ := kind
    case inl => exact partDestroy_refused refused
    all_goals exact general _
  · have general : ∀ act, Host.Outcome.next (s.partCommand ag p act) = (.next (s.answer ag 4 2 0) : Host.Outcome State Fault Refusal) :=
      fun act => congrArg _ (partCommand_busy own closing act)
    obtain rfl | ⟨_, _, rfl⟩ | ⟨_, _, rfl⟩ | ⟨_, _, _, _, rfl⟩ | ⟨_, _, _, rfl⟩ | ⟨_, rfl⟩ | ⟨_, rfl⟩ | ⟨_, _, rfl⟩ | ⟨_, _, rfl⟩ |
      ⟨_, _, rfl⟩ | ⟨_, _, rfl⟩ | ⟨_, rfl⟩ | ⟨_, _, _, _, rfl⟩ | ⟨_, _, rfl⟩ := kind
    case inl => exact partDestroy_busy own closing
    all_goals exact general _
  · exact congrArg _ (command_of_other other _)
  · exact congrArg _ (command_of_other other _)
  · exact congrArg _ (command_of_other other _)
  · exact commandWord_of_other other code
  · exact commandWord_of_unknown own code

end Sys2Proof.Machine
end

section
/-! SUPPORT. What the owner's commands do. -/

namespace Sys2Proof.Machine

/-! ## What signals and teardowns leave (R336, R396, R399, R400) -/

theorem foldl_keeps {α β : Type} {v : State → β} {step : State → α → State} (keeps : ∀ s x, v (step s x) = v s) :
    ∀ (l : List α) (s : State), v (l.foldl step s) = v s
  | [], _ => rfl
  | x :: l, s => (foldl_keeps keeps l (step s x)).trans (keeps s x)

/-- What no message to a host or an owner changes: the stacks, the keys, the tiles. -/
def State.still (s : State) : List Stack × Nat × List Nat × List Tile := (s.hbm, s.keys, s.keySlots, s.tiles)

theorem sendVf_still (s : State) (vf kind value body : Nat) : (s.sendVf vf kind value body).still = s.still := by
  unfold State.sendVf
  dsimp only
  split <;> rfl

theorem signalNow_still (s : State) (vfs : List Nat) (toOwner : Bool) (kind value body : Nat) :
    (s.signalNow vfs toOwner kind value body).still = s.still := by
  have sent := foldl_keeps (v := State.still) (fun s vf => sendVf_still s vf kind value body) vfs s
  unfold State.signalNow
  dsimp only
  split
  · exact sent
  · exact sent

theorem signal_still (s : State) (p : Nat) (vfs : List Nat) (toOwner : Bool) (kind value body : Nat) :
    (s.signal p vfs toOwner kind value body).still = s.still := by
  have now := signalNow_still s vfs toOwner kind value body
  unfold State.signal
  split
  · split
    · split
      · rfl
      · split
        · exact now
        · rfl
    · exact now
  · exact now

theorem stopCopies_parts (s : State) (t e : Nat) (hit : Copy → Bool) (code : Nat) : (s.stopCopies t e hit code).parts = s.parts := by
  unfold State.stopCopies State.freeBanks
  simp only [modBurin_parts]

theorem stopCtx_parts (s : State) (t k : Nat) : (s.stopCtx t k).parts = s.parts := by
  unfold State.stopCtx State.abortMatrix
  simp only [stopCopies_parts, modTile_parts, modCtx_parts]

theorem stopMember_parts (s : State) (m : Member) : (s.stopMember m).parts = s.parts := by
  unfold State.stopMember
  split
  · exact stopCtx_parts ..
  · rfl

theorem settleQueue_parts (s : State) (die : Nat) : (s.settleQueue die).parts = s.parts := by
  unfold State.settleQueue
  dsimp only
  split
  · rfl
  · split
    · rfl
    · rfl

/-- A job that ends with no message leaves the partitions. -/
theorem endJob_quiet_parts (s : State) (h : W64) (refused faulted : Bool) : (s.endJob h refused faulted true).parts = s.parts := by
  unfold State.endJob
  split
  · rfl
  · split
    · rfl
    · exact settleQueue_parts _ _

theorem lt_of_part? {s : State} {p : Nat} {x : Part} (part : s.part? p = some x) : p < s.parts.length := by
  by_contra outside
  rw [State.part?, List.getD_eq_default _ _ (Nat.le_of_not_lt outside)] at part
  cases part

theorem part?_modPart_same {s : State} {p : Nat} {x : Part} (part : s.part? p = some x) (f : Part → Part) :
    (s.modPart p f).part? p = some (f x) := by
  rw [State.part?, State.modPart, getD_updAt, if_pos ⟨rfl, lt_of_part? part⟩]
  exact congrArg (Option.map f) part

theorem beginTeardown_part {s : State} {p : Nat} {x : Part} (ag : Agent) (part : s.part? p = some x) :
    (s.beginTeardown ag p).part? p = some { x with closing := some ag } := by
  unfold State.beginTeardown
  dsimp only
  refine part?_modPart_same ?_ _
  rw [State.part?, foldl_keeps (v := State.parts) fun s h => endJob_quiet_parts s h false false,
    foldl_keeps (v := State.parts) fun s g => (modGang_parts ..).trans (foldl_keeps (v := State.parts) stopMember_parts _ s)]
  exact part

theorem isClosing_beginTeardown {s : State} {p : Nat} {x : Part} (ag : Agent) (part : s.part? p = some x) :
    (s.beginTeardown ag p).isClosing p = true := by
  rw [State.isClosing, beginTeardown_part ag part]
  rfl

theorem endTeardown_busy {s : State} {p : Nat} (busy : s.linksBusy p = true) : s.endTeardown p = s := by
  unfold State.endTeardown
  split
  · rfl
  · exact if_pos busy

/-- What the end of a teardown frees (R336, R400). -/
theorem endTeardown_frees {s : State} {p : Nat} {ag : Agent} {x : Part} (part : s.part? p = some x) (closing : x.closing = some ag)
    (idle : s.linksBusy p = false) :
    (s.endTeardown p).part? p = none ∧ (∀ y ∈ (s.endTeardown p).tiles, y.partid ≠ some p) ∧
      (∀ v ∈ (s.endTeardown p).vfs, v.2.part ≠ some p) ∧ ∀ k ∈ (s.endTeardown p).hbm, ∀ y ∈ k.spans, y.part ≠ p := by
  simp only [State.endTeardown, part, Option.bind_some, closing, idle, Bool.false_eq_true, if_false]
  refine ⟨?_, fun y member => ?_, fun v member => ?_, fun k member => ?_⟩
  · simp [State.part?, State.answer, State.settleRails, List.getElem?_set]
    split <;> simp
  · obtain ⟨z, -, rfl⟩ := List.mem_map.mp member
    unfold Tile.leavePart
    split
    · exact nofun
    · assumption
  · obtain ⟨z, -, rfl⟩ := List.mem_map.mp member
    unfold unbindVf
    split
    · exact nofun
    · assumption
  · obtain ⟨z, -, rfl⟩ := List.mem_map.mp member
    intro y kept
    simpa using (List.mem_filter.mp kept).2

/-! ## Commands with an effect (R254, R276, R287, R399) -/

section
variable {s : State} {ag : Agent} {p : Nat} {x : Part}

/-- An accepted command makes of the state what its effect makes of it. -/
theorem partCommand_done {act : Part → State → State × Nat} {u : State} {v : Nat} (own : s.owner = some ag) (part : s.part? p = some x)
    (opened : s.isClosing p = false) (effect : act x s = (u, v)) :
    Host.Outcome.next (s.partCommand ag p act) = (.next (u.answer ag 4 v 0) : Host.Outcome State Fault Refusal) := by
  rw [partCommand_of_part own part opened, effect]

theorem partDestroy_open (own : s.owner = some ag) (part : s.part? p = some x) (opened : s.isClosing p = false) :
    execPartDestroy ag p s = .next ((s.beginTeardown ag p).endTeardown p) := by
  refine (if_neg (not_or.mpr ⟨not_not.mpr own, ?_⟩)).trans (if_neg ?_)
  · rw [part]
    exact Bool.false_ne_true
  · rw [opened]
    exact Bool.false_ne_true

theorem tileAt_join (die : Nat) (mask : BitVec 64) {t : Nat} (inside : t < s.tiles.length) :
    ({ s with tiles := s.tiles.zipIdx.map (Tile.join p die mask) } : State).tileAt t =
      if dieOf t = die ∧ bit mask.toNat (t % 64) = true ∧ (s.tileAt t).partid = none
      then { s.tileAt t with partid := some p, raflags := 0 } else s.tileAt t := by
  have old : s.tileAt t = s.tiles[t] := List.getD_eq_getElem _ _ inside
  have new : (s.tiles.zipIdx.map (Tile.join p die mask)).getD t {} = Tile.join p die mask (s.tiles[t], t) := by
    rw [List.getD_eq_getElem _ _ (by simpa using inside)]
    simp
  rw [old]
  exact new.trans (if_congr (by simp [and_assoc]) rfl rfl)

theorem event_still (s : State) (code p die unit addr data : Nat) : (s.event code p die unit addr data).still = s.still :=
  signal_still ..

theorem event_spans (s : State) (code p die unit addr data n : Nat) :
    ((s.event code p die unit addr data).stackAt n).spans = (s.stackAt n).spans :=
  congrArg (fun l : List Stack × Nat × List Nat × List Tile => (l.1.getD n {}).spans) (event_still s code p die unit addr data)

theorem rotateLeft_spans (s : State) (st : Nat) (r : Rotate) (n : Nat) :
    ((s.rotateLeft st r).stackAt n).spans = (s.stackAt n).spans := by
  have told : ∀ (q : State) (ends : Bool),
      ((if ends = true then q.event 2 r.part 0 r.key 0 0 else q).stackAt n).spans = (q.stackAt n).spans := by
    intro q ends
    cases ends
    · rfl
    · exact event_spans ..
  refine (told _ _).trans ?_
  rw [State.stackAt, State.modStack, getD_updAt]
  split
  · rfl
  · rfl

theorem rotateWithout_spans (s : State) (st span n : Nat) : ((s.rotateWithout st span).stackAt n).spans = (s.stackAt n).spans := by
  unfold State.rotateWithout
  split
  · rfl
  · exact rotateLeft_spans ..

theorem spanGrant_done {st span key : Nat} (own : s.owner = some ag) (part : s.part? p = some x) (opened : s.isClosing p = false)
    (stack : st < 8) (there : st < s.hbm.length) (plain : span < 127) (slot : key < 32) (may : s.maskHas p key = true)
    (idle : (s.stackAt st).spanBusy st span = false) :
    ∃ u, execSpanGrant ag p st span key s = .next u ∧
      (∀ k, readByte u.mem k = if st * 2 ^ 36 + span * 2 ^ 29 ≤ k ∧ k < st * 2 ^ 36 + (span + 1) * 2 ^ 29 then 0
        else readByte s.mem k) ∧
      { idx := span, part := p, key := key, kno := s.keySlots.getD key 0, mno := s.keySlots.getD p 0 } ∈ (u.stackAt st).spans := by
  refine ⟨_, partCommand_done own part opened ((if_neg ?_).trans (if_neg ?_)), fun k => ?_, ?_⟩
  · simp only [may, Bool.not_true, Bool.false_eq_true, or_false, not_or, Nat.not_le]
    exact ⟨stack, plain, slot⟩
  · rw [idle]
    exact Bool.false_ne_true
  · rw [(State.answer_frame ..).1, (State.rotateWithout_frame ..).1, modStack_mem, Nat.succ_mul, ← Nat.add_assoc]
    split
    case isTrue within =>
      exact readByte_filter_none _ (fun a => !(decide (st * 2 ^ 36 + span * 2 ^ 29 ≤ a) &&
        decide (a < st * 2 ^ 36 + span * 2 ^ 29 + 2 ^ 29))) k (by rw [decide_eq_true within.1, decide_eq_true within.2]; rfl)
    case isFalse outside =>
      exact readByte_filter _ (fun a => !(decide (st * 2 ^ 36 + span * 2 ^ 29 ≤ a) &&
        decide (a < st * 2 ^ 36 + span * 2 ^ 29 + 2 ^ 29))) k (by rw [← Bool.decide_and, decide_eq_false outside]; rfl)
  · change _ ∈ ((State.rotateWithout _ st span).stackAt st).spans
    rw [rotateWithout_spans, State.stackAt, State.modStack, getD_updAt, if_pos ⟨rfl, there⟩]
    exact List.mem_append_right _ (List.mem_singleton.mpr rfl)

theorem keyRotate_done {k : Nat} (own : s.owner = some ag) (part : s.part? p = some x) (opened : s.isClosing p = false)
    (slot : k < 32) (may : s.maskHas p k = true) (idle : ∀ y ∈ s.hbm, y.rotate = none) :
    ∃ u, execKeyRotate ag p k s = .next u ∧ u.mem = s.mem ∧ u.keys = s.keys + 1 ∧ u.keySlots = s.keySlots.set k (s.keys + 1) := by
  have told : ∀ (q : State) (ends : Bool), (if ends = true then q.event 2 p 0 k 0 0 else q).still = q.still ∧
      (if ends = true then q.event 2 p 0 k 0 0 else q).mem = q.mem := by
    intro q ends
    cases ends
    · exact ⟨rfl, rfl⟩
    · exact ⟨event_still .., (State.event_frame ..).1⟩
  refine ⟨_, partCommand_done own part opened ((if_neg ?_).trans (if_neg ?_)), (told _ _).2,
    congrArg (fun y : List Stack × Nat × List Nat × List Tile => y.2.1) (told _ _).1,
    congrArg (fun y : List Stack × Nat × List Nat × List Tile => y.2.2.1) (told _ _).1⟩
  · simp only [may, Bool.not_true, Bool.false_eq_true, or_false, Nat.not_le]
    exact slot
  · rw [List.any_eq_true]
    rintro ⟨y, member, under⟩
    rw [idle y member] at under
    cases under

theorem updAt_congr {α : Type} {f g : α → α} {n : Nat} {l : List α} {d : α} (same : n < l.length → f (l.getD n d) = g (l.getD n d)) :
    updAt f n l = updAt g n l := by
  refine List.ext_getElem? fun k => ?_
  rw [getElem?_updAt, getElem?_updAt]
  split
  case isTrue eq =>
    subst eq
    by_cases inside : k < l.length
    · have at0 := same inside
      rw [List.getD_eq_getElem _ _ inside] at at0
      rw [List.getElem?_eq_getElem inside]
      exact congrArg some at0
    · rw [List.getElem?_eq_none (Nat.le_of_not_lt inside)]
      rfl
  case isFalse => rfl

theorem writeOwner_modStack (s : State) (st : Nat) (wr : Bool) {i : Nat} (entry : i < 64) (v : BitVec 8) :
    (s.modStack st fun k => k.writeOwner wr i v) = s.modStack st fun k => { k with
      ownNew := k.ownNew ++ [(wr, i, if ownerOk v = true then v
        else BitVec.ofNat 8 (v.toNat / 64 * 64 + ((s.stackAt st).ownerEntry wr i).toNat % 64))] } := by
  have same := updAt_congr (f := fun k : Stack => k.writeOwner wr i v) (g := fun k : Stack => { k with
      ownNew := k.ownNew ++ [(wr, i, if ownerOk v = true then v
        else BitVec.ofNat 8 (v.toNat / 64 * 64 + ((s.stackAt st).ownerEntry wr i).toNat % 64))] })
    (n := st) (l := s.hbm) (d := {}) fun _ => if_pos entry
  exact congrArg (fun l => { s with hbm := l }) same

end

/-- Settles O47: the owner's command to a partition that is not in teardown takes effect, and its answer follows. -/
theorem ownerCommands : Obligations.OwnerCommands := by
  intro s ag p x own ok
  refine ⟨fun test low free => ?_, fun off => ?_, congrArg _ (command_of_owner own _), congrArg _ (command_of_owner own _),
    congrArg _ (command_of_owner own _), fun part inside opened0 => ?_⟩
  · refine congrArg _ ((command_of_owner own _).trans ?_)
    rw [if_neg (by simp only [free, Option.isSome_none, Bool.false_eq_true, or_false]; omega)]
  · refine congrArg _ ((command_of_owner own _).trans ?_)
    simp only [off, Bool.not_false, if_true]
  · have opened := isClosing_of_open part opened0
    have done : ∀ {act : Part → State → State × Nat} {u : State} {v : Nat}, act x s = (u, v) →
        Host.Outcome.next (s.partCommand ag p act) = (.next (u.answer ag 4 v 0) : Host.Outcome State Fault Refusal) :=
      fun effect => partCommand_done own part opened effect
    refine ⟨fun idle => ⟨_, partDestroy_open own part opened, endTeardown_frees (beginTeardown_part ag part) rfl idle⟩,
      fun busy => ⟨(partDestroy_open own part opened).trans (congrArg _ (endTeardown_busy busy)), isClosing_beginTeardown ag part,
        (State.beginTeardown_frame ..).1⟩,
      fun die mask low => ⟨_, done (if_neg (Nat.not_le.mpr low)), rfl, ?_, fun t inside => tileAt_join die mask inside⟩,
      fun vf low free => done ((if_neg (Nat.not_le.mpr low)).trans (if_pos free)),
      fun vf low mine => done ((if_neg (Nat.not_le.mpr low)).trans (if_pos mine)),
      fun t slot tvec proof mine low => done (if_neg (not_or.mpr ⟨not_not.mpr mine, Nat.not_le.mpr low⟩)),
      fun st span key stack there plain slot may idle => spanGrant_done own part opened stack there plain slot may idle,
      fun st span key stack plain slot may busy => done ((if_neg ?_).trans (if_pos busy)),
      fun k slot may idle => keyRotate_done own part opened slot may idle,
      fun mask => done rfl, fun rail mv vote => done (if_pos vote), fun rail mv vote => done (if_neg (by rw [vote]; decide)),
      fun job gi j g found mine running => done ?_, fun st i v stack entry => ⟨done ?_, done ?_⟩,
      fun st v stack => done (if_neg (Nat.not_le.mpr stack)),
      fun t low => ⟨done (if_neg (Nat.not_le.mpr low)), done (if_neg (Nat.not_le.mpr low)), done (if_neg (Nat.not_le.mpr low))⟩,
      fun on there => done (if_neg (by rw [there]; decide)), fun on absent => done (if_pos (by rw [absent]; rfl)),
      fun die seed tiles ctl there test low => done ((if_neg (by rw [there]; decide)).trans (if_neg ?_)),
      fun pa aligned plain low => done ((if_neg ?_).trans (if_neg ?_))⟩
    · simp [State.answer]
    · simp only [may, Bool.not_true, Bool.false_eq_true, or_false, not_or, Nat.not_le]
      exact ⟨stack, plain, slot⟩
    · simp only [found, mine, ne_eq, not_true, if_false, running]
    · refine (if_neg (Nat.not_le.mpr stack)).trans ?_
      exact congrArg (·, 0) (writeOwner_modStack s st false entry v)
    · refine (if_neg (Nat.not_le.mpr stack)).trans ?_
      exact congrArg (·, 0) (writeOwner_modStack s st true entry v)
    · rw [test]
      exact not_or.mpr ⟨Bool.false_ne_true, Nat.not_le.mpr low⟩
    · exact Bool.false_ne_true
    · rw [plain]
      exact not_or.mpr ⟨not_not.mpr aligned, not_or.mpr ⟨Bool.false_ne_true, Nat.not_le.mpr low⟩⟩

end Sys2Proof.Machine
end

section
/-! SUPPORT. The ports of the device: the owner, the functions' windows, the registers of the management space, the debug port. -/

namespace Sys2Proof.Machine

/-! ## The windows of the functions (R184, R394 to R396, R400) -/

section
variable {s : State} {vf p off len : Nat} {pkt : BitVec 512}

theorem launchWindow_unbound (unbound : (s.vfAt vf).part = none) :
    execLaunchWindowWrite vf off len pkt s = .next (s.complete (some vf) off none) := by
  simp only [execLaunchWindowWrite, unbound]

theorem launchWindow_stray (bound : (s.vfAt vf).part = some p) (stray : off ≠ 0 ∨ len ≠ 64) :
    execLaunchWindowWrite vf off len pkt s = .next { s with drops := s.drops + 1 } := by
  simp only [execLaunchWindowWrite, bound]
  exact if_pos stray

theorem launchWindow_closing (bound : (s.vfAt vf).part = some p) (closing : s.isClosing p = true) :
    execLaunchWindowWrite vf 0 64 pkt s = .next s := by
  simp only [execLaunchWindowWrite, bound, ne_eq, not_true, or_self, if_false, closing, if_true]

theorem launchWindow_refused (bound : (s.vfAt vf).part = some p) (opened : s.isClosing p = false) (code : s.launchCode p pkt ≠ 0) :
    execLaunchWindowWrite vf 0 64 pkt s = .next (s.sendVf vf 1 (2 ^ 63 + s.launchCode p pkt) 0) := by
  simp only [execLaunchWindowWrite, bound, ne_eq, not_true, or_self, if_false, opened, Bool.false_eq_true]
  exact if_pos code

theorem launchWindow_queued {die slot : Nat} {gen : BitVec 32} (bound : (s.vfAt vf).part = some p) (opened : s.isClosing p = false)
    (code : s.launchCode p pkt = 0) (place : s.postDie p = some die) (block : s.freeBlock die = some (slot, gen))
    (room : s.queued die < 4096) :
    execLaunchWindowWrite vf 0 64 pkt s =
      .next ((s.enqueue die p slot gen pkt none (some vf)).1.sendVf vf 1 (s.enqueue die p slot gen pkt none (some vf)).2.toNat 0) := by
  simp only [execLaunchWindowWrite, bound, ne_eq, not_true, or_self, if_false, opened, Bool.false_eq_true, code, place, block,
    Nat.not_le.mpr room]

theorem vfWindow_unbound (unbound : (s.vfAt vf).part = none) : s.vfWindow vf off = none := by
  simp only [State.vfWindow, unbound, Option.isNone_none, if_true]

theorem pfWindow_capability (low : 0x10000 ≤ off) (high : off < 0x20000) :
    s.pfWindow off = s.capability (Config.windowReg off).2 :=
  (if_neg (Nat.ne_of_lt high)).trans (if_pos ⟨low, high⟩)

theorem pfWindow_mirror (high : 0x100000 ≤ off) :
    s.pfWindow off = s.mirror (Config.windowReg off).1 (Config.windowReg off).2 :=
  (if_neg (by omega)).trans ((if_neg (by omega)).trans (if_pos high))

end

/-! ## The debug port (R404) -/

/-- A read through the port answers its value where it is allowed. -/
theorem debugAnswer_allowed (s : State) (b : Bool) (x : Nat) :
    s.debugAnswer (if b then some x else none) = if b = true then s.debugAnswer (some x) else s.debugAnswer none :=
  apply_ite s.debugAnswer ..

/-- The requests that set the debug state, unlock, act on a tile or read one, of a device that is not off. -/
theorem debugPort_requests {s : State} (on : s.power ≠ .off) :
    let asks := fun (r : DebugReq) (b : Bool) (u : State) =>
      exec (.debugPortRequest r) s = .next (if b = true then u else s.debugAnswer none)
    let reads := fun (r : DebugReq) (b : Bool) (x : Nat) => asks r b (s.debugAnswer (some x))
    (∀ d, asks (.setState d) (s.debugAllowed d) { s with debug := d }) ∧
    (∀ l signed, asks (.unlock l signed) (s.security == 1 && signed) { s with token := l }) ∧
    (∀ t, asks (.stop t) (s.debugTakes t) (s.modTile t fun x => { x with debugStop := true }) ∧
      asks (.go t) (s.debugTakes t) (s.modTile t fun x => { x with debugStop := false, debugStep := false }) ∧
      asks (.step t) (s.debugTakes t) (s.modTile t fun x => { x with debugStep := x.debugStop })) ∧
    (∀ t slot r, reads (.readReg t slot r) (s.debugTakes t) (s.debugRead t slot r)) ∧
    (∀ t slot r v, (∀ off,
      r ≠ .dw off) → asks (.writeReg t slot r v) (s.debugTakes t) (s.modCtx t slot fun c => c.debugWrite r v)) ∧
    (∀ t slot off v, off < 0x800000 → asks (.writeReg t slot (.dw off) v) (s.debugTakes t)
      ((s.wr (spKey t (off / 8 * 8)) 8 (v % 2 ^ 64)).mark (spKey t (off / 8 * 8)) false)) ∧
    (∀ t, reads (.tmarg t) (s.debug != .none && s.debugCovers (s.tileAt t).partid) (s.tmarg t).toNat) ∧
    (∀ k n, reads (.mirror k n) (s.debug != .none) (s.mirror k n)) ∧
    ∀ p, reads (.keySlot p) (s.debug == .invasive && s.debugCovers (some p)) (Config.keyCipher (s.keySlots.getD p 0)) := by
  intro asks reads
  have answers : ∀ {r b x},
    exec (.debugPortRequest r) s = .next (s.debugAnswer (if b = true then some x else none)) → reads r b x :=
    fun run => run.trans (congrArg _ (debugAnswer_allowed ..))
  refine ⟨fun d => if_neg on, fun l signed => (if_neg on).trans (congrArg _ (if_congr (by simp) rfl rfl)),
    fun t => ⟨if_neg on, if_neg on, if_neg on⟩, fun t slot r => answers (if_neg on), fun t slot r v plain => (if_neg on).trans ?_,
    fun t slot off v low => (if_neg on).trans ?_, fun t => answers (if_neg on), fun k n => answers (if_neg on),
    fun p => answers (if_neg on)⟩
  · cases r with
    | dw off => exact absurd rfl (plain off)
    | _ => rfl
  · simp only [State.debugPut, tileDw, low, if_true]

/-! ## Claims, registers and fuses (R397, R401, R404) -/

theorem ownerClaim_first {s : State} {host board : Bool} (started : s.started = true) (free : s.owner = none)
    (claimed : host = true ∨ board = true) :
    execOwnerClaim host board s = .next { s with owner := some (if host then .host else .board) } := by
  refine (if_neg (by rw [started, free]; decide)).trans ?_
  cases host
  · rw [claimed.resolve_left Bool.false_ne_true]
    rfl
  · rfl

theorem ownerClaim_owned {s : State} {host board : Bool} (owned : s.owner ≠ none) : execOwnerClaim host board s = .next s :=
  if_pos (by rw [Bool.or_eq_true]; exact .inr (Option.isSome_iff_ne_none.mpr owned))

/-- Settles O48: each access is run through the lemma for its case, the windows and the debug port through theirs. -/
theorem devicePorts : Obligations.DevicePorts := by
  intro s ag vf
  refine ⟨fun host board started free claimed => ownerClaim_first started free claimed,
    fun host board owned => ownerClaim_owned owned,
    fun offered => if_pos offered, fun other => if_neg other, rfl, fun v => rfl,
    fun off len pkt unbound => (exec_launchWindowWrite ..).trans (launchWindow_unbound unbound),
      fun p off len pkt bound stray => (exec_launchWindowWrite ..).trans (launchWindow_stray bound stray),
    fun p pkt bound closing => (exec_launchWindowWrite ..).trans (launchWindow_closing bound closing),
    fun p pkt bound opened code => (exec_launchWindowWrite ..).trans (launchWindow_refused bound opened code),
    fun p pkt die slot gen bound opened code place block room => (exec_launchWindowWrite ..).trans
      (launchWindow_queued bound opened code place block room), rfl,
    fun feature pending => if_pos ⟨feature, pending⟩, fun v bound => if_neg ?_, fun v unbound => ⟨if_pos ?_, fun off => ?_⟩,
    fun off v => ?_, fun started => if_neg (by rw [started]; decide), fun n => ⟨rfl, rfl, rfl⟩, fun v => rfl,
    fun t v low step min max => if_pos ⟨step, min, max, low⟩, fun r dark => if_pos dark, debugPort_requests, fun v more => ?_⟩
  · rw [Option.isNone_iff_eq_none]
    exact Option.isSome_iff_ne_none.mp bound
  · rw [unbound]
    rfl
  · exact congrArg (fun x => Host.Outcome.next (s.complete (some vf) off x)) (vfWindow_unbound unbound)
  · intro reads
    have shows : ∀ {x},
      s.pfWindow off = x → reads x := fun eq => congrArg (fun x => Host.Outcome.next (s.complete none off (some x))) eq
    exact ⟨fun at0 => shows (if_pos at0), fun low high => shows (pfWindow_capability low high),
      fun high => shows (pfWindow_mirror high)⟩
  · exact congrArg _ (if_pos more)

end Sys2Proof.Machine
end

section
/-! SUPPORT. The fields of an Almanac entry, and the copy that a write puts in force (R359 to R361). -/

namespace Sys2Proof.Machine

/-! ## Fields of an entry (R360) -/

theorem testBit_almSet (e : BitVec 2048) (lo n v b : Nat) :
    (almSet e lo n v).toNat.testBit b =
      (decide (b < 2048) && if lo ≤ b ∧ b < lo + n then v.testBit (b - lo) else e.toNat.testBit b) := by
  rw [almSet, BitVec.toNat_ofNat, Nat.testBit_mod_two_pow, testBit_setBits]

theorem bits_eq_of_testBit {x y v lo n : Nat} (same : ∀ k < n, x.testBit (lo + k) = y.testBit (v + k)) : bits x lo n = bits y v n := by
  refine Nat.eq_of_testBit_eq fun k => ?_
  rw [testBit_bits, testBit_bits]
  by_cases inside : k < n
  · rw [same k inside]
  · simp only [inside, decide_false, Bool.false_and]

/-- A field that was set reads what was set. -/
theorem almGet_almSet_same (e : BitVec 2048) {lo n : Nat} (v : Nat) (fits : lo + n ≤ 2048) : almGet (almSet e lo n v) lo n = v % 2 ^ n := by
  have field : almGet (almSet e lo n v) lo n = bits v 0 n := bits_eq_of_testBit fun k inside => by
    rw [testBit_almSet, decide_eq_true (by omega : lo + k < 2048), if_pos (by omega), Nat.add_sub_cancel_left, Nat.zero_add, Bool.true_and]
  rw [field, bits, Nat.pow_zero, Nat.div_one]

/-- A field apart from the one that was set stays. -/
theorem almGet_almSet_apart (e : BitVec 2048) {lo n lo' n' : Nat} (v : Nat) (apart : lo' + n' ≤ lo ∨ lo + n ≤ lo')
    (fits : lo' + n' ≤ 2048) : almGet (almSet e lo n v) lo' n' = almGet e lo' n' :=
  bits_eq_of_testBit fun k inside => by
    rw [testBit_almSet, decide_eq_true (by omega : lo' + k < 2048), if_neg (by omega), Bool.true_and]

/-! ## What Gnomon writes (R359 to R361) -/

theorem almCrc_almSet (w : BitVec 2048) (v : Nat) : almCrc (almSet w 1984 32 v) = almCrc w := by
  have body : bits (almSet w 1984 32 v).toNat 0 1984 = bits w.toNat 0 1984 := almGet_almSet_apart w v (.inl (by decide)) (by decide)
  rw [almCrc, body, almCrc]

/-- An entry that is written with its CRC is valid. -/
theorem almValid_sealed (w : BitVec 2048) : almValid (almSet w 1984 32 (almCrc w)) = true := by
  rw [almValid, almCrc_almSet, almGet_almSet_same w (almCrc w) (by decide), beq_iff_eq]
  exact Nat.mod_eq_of_lt (BitVec.isLt _)

theorem almValid_entry (t : Nat) (m : Margin) (seq : Nat) : almValid (m.entry t seq) = true := almValid_sealed _

theorem almGet_entry_seq (t : Nat) (m : Margin) (seq : Nat) : almGet (m.entry t seq) 0 16 = seq % 2 ^ 16 := by
  simp only [Margin.entry, List.foldl_cons, List.foldl_nil]
  rw [almGet_almSet_apart _ _ (.inl (by decide)) (by decide), almGet_almSet_apart _ _ (.inl (by decide)) (by decide),
    almGet_almSet_apart _ _ (.inl (by decide)) (by decide), almGet_almSet_apart _ _ (.inl (by decide)) (by decide),
    almGet_almSet_apart _ _ (.inl (by decide)) (by decide), almGet_almSet_apart _ _ (.inl (by decide)) (by decide),
    almGet_almSet_apart _ _ (.inl (by decide)) (by decide), almGet_almSet_apart _ _ (.inl (by decide)) (by decide),
    almGet_almSet_same _ _ (by decide)]

theorem almGet_entry_vtgt (t : Nat) (m : Margin) (seq : Nat) : almGet (m.entry t seq) 128 16 = m.vtgt % 2 ^ 16 := by
  simp only [Margin.entry, List.foldl_cons, List.foldl_nil]
  rw [almGet_almSet_apart _ _ (.inl (by decide)) (by decide), almGet_almSet_apart _ _ (.inl (by decide)) (by decide),
    almGet_almSet_apart _ _ (.inl (by decide)) (by decide), almGet_almSet_apart _ _ (.inl (by decide)) (by decide),
    almGet_almSet_apart _ _ (.inl (by decide)) (by decide), almGet_almSet_same _ _ (by decide)]

/-- The code and the flags of a fence are those that Gnomon holds. -/
theorem almGet_entry_fence (t : Nat) (m : Margin) (seq : Nat) : almGet (m.entry t seq) 560 2 = almGet m.work 560 2 := by
  have relearnt : almGet (if m.relearn = true then almSet m.work 64 64 0 else m.work) 560 2 = almGet m.work 560 2 := by
    split
    · exact almGet_almSet_apart _ _ (.inr (by decide)) (by decide)
    · rfl
  simp only [Margin.entry, List.foldl_cons, List.foldl_nil]
  rw [almGet_almSet_apart _ _ (.inl (by decide)) (by decide), almGet_almSet_apart _ _ (.inr (by decide)) (by decide),
    almGet_almSet_apart _ _ (.inr (by decide)) (by decide), almGet_almSet_apart _ _ (.inr (by decide)) (by decide),
    almGet_almSet_apart _ _ (.inr (by decide)) (by decide), almGet_almSet_apart _ _ (.inr (by decide)) (by decide),
    almGet_almSet_apart _ _ (.inr (by decide)) (by decide), almGet_almSet_apart _ _ (.inr (by decide)) (by decide),
    almGet_almSet_apart _ _ (.inr (by decide)) (by decide), relearnt]

theorem almValid_of_inForce {m : Margin} (inForce : m.inForce = some true) : almValid m.almA = true := by
  unfold Margin.inForce at inForce
  split at inForce
  · assumption
  · assumption
  · cases inForce
  · cases inForce

theorem almValid_of_inForce' {m : Margin} (inForce : m.inForce = some false) : almValid m.almB = true := by
  unfold Margin.inForce at inForce
  split at inForce
  · assumption
  · cases inForce
  · assumption
  · cases inForce

theorem almValid_of_noneInForce {m : Margin} (inForce : m.inForce = none) : almValid m.almB = false := by
  unfold Margin.inForce at inForce
  split at inForce
  · cases inForce
  · cases inForce
  · cases inForce
  · assumption

/-- The entry that a write puts in force: the one that carries what Gnomon holds, under the SEQ after the last one. -/
def Margin.next (t : Nat) (m : Margin) : BitVec 2048 :=
  m.entry t (((match m.inForce with | some true => almGet m.almA 0 16 | some false => almGet m.almB 0 16 | none => 65535) + 1) % 65536)

/-- What a write leaves of the rest: nothing waits to be written, and a relearning has begun. -/
def Margin.cleaned (m : Margin) : Margin :=
  { m with work := if m.relearn then almSet m.work 64 64 0 else m.work, dirty := false, relearn := false }

theorem written_of_A {m : Margin} (t : Nat) (inForce : m.inForce = some true) :
    m.written t = { m.cleaned with almB := m.next t } :=
  if_pos inForce

theorem written_of_other {m : Margin} (t : Nat) (inForce : m.inForce ≠ some true) :
    m.written t = { m.cleaned with almA := m.next t } :=
  if_neg inForce

theorem next_of_A {m : Margin} (t : Nat) (inForce : m.inForce = some true) :
    m.next t = m.entry t ((almGet m.almA 0 16 + 1) % 65536) := by
  rw [Margin.next, inForce]

theorem next_of_B {m : Margin} (t : Nat) (inForce : m.inForce = some false) :
    m.next t = m.entry t ((almGet m.almB 0 16 + 1) % 65536) := by
  rw [Margin.next, inForce]

theorem almGet_lt (e : BitVec 2048) (lo n : Nat) : almGet e lo n < 2 ^ n := Nat.mod_lt _ (Nat.two_pow_pos n)

theorem seqAfter_next {a b : BitVec 2048} (follows : almGet b 0 16 = (almGet a 0 16 + 1) % 65536) : seqAfter b a = true := by
  have range := almGet_lt a 0 16
  rw [seqAfter, follows, Bool.and_eq_true, decide_eq_true_iff, decide_eq_true_iff]
  omega

theorem not_seqAfter_next {a b : BitVec 2048} (follows : almGet a 0 16 = (almGet b 0 16 + 1) % 65536) : seqAfter b a = false := by
  have range := almGet_lt b 0 16
  rw [seqAfter, follows, Bool.and_eq_false_iff, decide_eq_false_iff_not, decide_eq_false_iff_not]
  omega

/-- Copy B is read where both are valid and its SEQ is the later one. -/
theorem stored_later_B {m : Margin} (a : almValid m.almA = true) (b : almValid m.almB = true) (later : seqAfter m.almB m.almA = true)
    (n : Nat) : m.stored n = m.almB := by
  have now : m.inForce = some false := by rw [Margin.inForce, a, b, later]; rfl
  rw [Margin.stored, now]

/-- Copy A is read where it is valid and B is not a later one. -/
theorem stored_later_A {m : Margin} (a : almValid m.almA = true) (older : almValid m.almB = true → seqAfter m.almB m.almA = false)
    (n : Nat) : m.stored n = m.almA := by
  have now : m.inForce = some true := by
    cases b : almValid m.almB with
    | true => rw [Margin.inForce, a, b, older b]; rfl
    | false => rw [Margin.inForce, a, b]
  rw [Margin.stored, now]

theorem almValid_next (t : Nat) (m : Margin) : almValid (m.next t) = true := almValid_entry ..

theorem almGet_next_fence (t : Nat) (m : Margin) : almGet (m.next t) 560 2 = almGet m.work 560 2 := almGet_entry_fence ..

theorem almGet_next_seq_of_A {m : Margin} (t : Nat) (inForce : m.inForce = some true) :
    almGet (m.next t) 0 16 = (almGet m.almA 0 16 + 1) % 65536 := by
  rw [next_of_A t inForce, almGet_entry_seq]
  exact Nat.mod_mod _ _

theorem almGet_next_seq_of_B {m : Margin} (t : Nat) (inForce : m.inForce = some false) :
    almGet (m.next t) 0 16 = (almGet m.almB 0 16 + 1) % 65536 := by
  rw [next_of_B t inForce, almGet_entry_seq]
  exact Nat.mod_mod _ _

/-- What was written is in force, and a start reads it. -/
theorem stored_written (t : Nat) (m : Margin) (n : Nat) : (m.written t).stored n = m.next t := by
  have valid := almValid_next t m
  cases inForce : m.inForce with
  | some copy =>
    cases copy with
    | true =>
      have first : almValid m.almA = true := almValid_of_inForce inForce
      have later := seqAfter_next (almGet_next_seq_of_A t inForce)
      rw [written_of_A t inForce]
      exact stored_later_B (m := { m.cleaned with almB := m.next t }) first valid later n
    | false =>
      have older := not_seqAfter_next (almGet_next_seq_of_B t inForce)
      rw [written_of_other t (by rw [inForce]; decide)]
      exact stored_later_A (m := { m.cleaned with almA := m.next t }) valid (fun _ => older) n
  | none =>
    have other : almValid m.almB = false := almValid_of_noneInForce inForce
    rw [written_of_other t (by rw [inForce]; decide)]
    exact stored_later_A (m := { m.cleaned with almA := m.next t }) valid (fun b => nomatch b.symm.trans other) n

end Sys2Proof.Machine
end

section
/-! SUPPORT. Twin-run windows, and the starts of the device. -/

namespace Sys2Proof.Machine

/-! ## Twin-run windows (R391, R392) -/

section
variable {s u : State} {p win : Nat} {tw : Twin} {own : W64} {msgs : List (Nat × BitVec 512)} {rest : List (Nat × W64 × List (Nat × BitVec 512))}

theorem twinWindowClose_sent (twin : s.twinOf p = some tw) (oldest : (tw.held.find? fun h => h.1 == tw.sent) = some (win, own, msgs))
    (sent : s.sendTwin (.twinDigest p win own.toNat) = some u) :
    execTwinWindowClose p s = .next ((u.modTwin p fun tw => { tw with sent := tw.sent + 1 }).compareTwin p) := by
  simp only [execTwinWindowClose, twin, oldest, sent]

theorem twinDigest_taken {digest : Nat} {f : Flit} (twin : s.twinOf p = some tw)
    (taken : s.takeTwin (fun f => f.body == .twinDigest p win digest) = some (f, u)) (running : u.halted p = false) :
    execTwinDigest p win digest s =
      .next ((u.modTwin p fun tw => { tw with theirs := tw.theirs ++ [(win, BitVec.ofNat 64 digest)] }).compareTwin p) := by
  simp only [execTwinDigest, twin, taken, running, Bool.false_eq_true, if_false]

theorem twinLost_halts (twin : s.twinOf p = some tw) (running : s.halted p = false) :
    execTwinLost p s = .next ((s.haltPart p).haltEvent 7 p (tw.last % 2 ^ 64)) := by
  simp only [execTwinLost, twin, running, Bool.false_eq_true, if_false]

/-- An interim digest of the twin of partition `p`. -/
def Flit.interimOf (p : Nat) (f : Flit) : Bool :=
  match f.body with
  | .twinInterim q _ _ => q == p
  | _ => false

theorem interimDigest_kept {f : Flit} {w d : Nat} (twin : s.twinOf p = some tw) (taken : s.takeTwin (Flit.interimOf p) = some (f, u))
    (body : f.body = .twinInterim p w d) :
    execInterimDigest p s =
      .next (u.modTwin p fun tw => { tw with interims := tw.interims ++ [(false, w, BitVec.ofNat 64 d)] }) := by
  unfold execInterimDigest
  rw [twin]
  change (match s.takeTwin (Flit.interimOf p) with | some (f, s) => _ | none => _) = _
  rw [taken]
  simp only [body]

theorem interimDigest_sent (twin : s.twinOf p = some tw) (nothing : s.takeTwin (Flit.interimOf p) = none)
    (sent : s.sendTwin (.twinInterim p tw.win tw.digest.toNat) = some u) :
    execInterimDigest p s = .next (u.modTwin p fun tw => { tw with interims := tw.interims ++ [(true, tw.win, tw.digest)] }) := by
  unfold execInterimDigest
  rw [twin]
  change (match s.takeTwin (Flit.interimOf p) with | some (f, s) => _ | none => _) = _
  rw [nothing]
  simp only [sent]

theorem compareTwin_answered {y : Nat × W64} (twin : s.twinOf p = some tw) (running : s.halted p = false)
    (held : tw.held = (win, own, msgs) :: rest) (sent : win < tw.sent) (answer : tw.theirs.find? (fun x => x.1 == win) = some y) :
    s.compareTwin p =
      let u := s.modTwin p fun tw => { tw with theirs := tw.theirs.filter fun z => z.1 != win, last := win }
      if y.2 = own then msgs.foldl State.releaseMsg (u.modTwin p fun tw => { tw with held := rest })
      else (u.haltPart p).haltEvent 6 p (win % 2 ^ 64 + own.toNat * 2 ^ 64 + y.2.toNat * 2 ^ 128) := by
  simp only [State.compareTwin, twin, running, Bool.false_eq_true, if_false, held, decide_eq_true sent, Bool.and_true, answer]

theorem compareTwin_waits (twin : s.twinOf p = some tw) (held : tw.held = (win, own, msgs) :: rest)
    (waits : (∀ y ∈ tw.theirs, y.1 ≠ win) ∨ tw.sent ≤ win) : s.compareTwin p = s := by
  have missing : tw.theirs.find? (fun x => x.1 == win && decide (win < tw.sent)) = none := by
    rw [List.find?_eq_none]
    rintro y member found
    obtain ⟨same, sent⟩ := Bool.and_eq_true_iff.mp found
    exact waits.elim (fun none => none y member (beq_iff_eq.mp same)) fun late => Nat.not_lt.mpr late (of_decide_eq_true sent)
  cases running : s.halted p with
  | true => simp only [State.compareTwin, twin, running, if_true]
  | false => simp only [State.compareTwin, twin, running, Bool.false_eq_true, if_false, held, missing]

end

/-! ## Starts (R402, R403) -/

section
variable {s : State} {cold : Bool} {bad : List Nat} {sts : List Stack}

/-- A start leaves its steps behind it: what a device that has started is. -/
theorem runStart_started (signed : s.imageSigned s.image = true) :
    ∃ v : State, s.runStart cold 0 bad sts = v.settleRails ∧ v.started = true ∧ v.startFail = 0 ∧ v.power = .active ∧ v.mem = s.mem ∧
      v.owner = s.owner ∧ v.rails = List.replicate 4 {} ∧ v.tiles = s.startTiles cold bad true ∧ v.warm = !cold ∧ v.hbm = sts := by
  have step : (if (0 = 0 ∨ 4 < 0) ∧ (!s.imageSigned s.image) = true then 4 else 0) = 0 := if_neg (by rw [signed]; decide)
  unfold State.runStart
  rw [step]
  refine ⟨_, if_neg (by decide), rfl, rfl, rfl, rfl, rfl, rfl, rfl, rfl, ?_⟩
  exact if_pos (by cases cold <;> rfl)

/-- A start that stops at a step: nothing after the step is done, and the step's code is shown. -/
theorem runStart_stops {failing step : Nat}
    (stops : (if (failing = 0 ∨ 4 < failing) ∧ (!s.imageSigned s.image) = true then 4 else failing) = step) (first : 0 < step)
    (last : step ≤ 9) :
    (s.runStart cold failing bad sts).started = false ∧ (s.runStart cold failing bad sts).startCode = step ∧
      (s.runStart cold failing bad sts).startFail = (s.startFail + 1) % 256 ∧
      (6 < step → (s.runStart cold failing bad sts).tiles = s.startTiles cold bad (decide (7 < step))) := by
  have shown : ∃ v : State, s.runStart cold failing bad sts = { v with startCode := step, recov := false } ∧ v.started = false ∧
      v.startFail = (s.startFail + 1) % 256 ∧ (6 < step → v.tiles = s.startTiles cold bad (decide (7 < step))) := by
    unfold State.runStart
    rw [stops]
    refine ⟨_, if_pos ⟨Nat.ne_of_gt first, last⟩, ?_, ?_, fun late => ?_⟩
    · dsimp only
      split
      · rfl
      · rfl
    · dsimp only
      split
      · rfl
      · rfl
    · have third : 3 < step := Nat.lt_trans (by decide) late
      simp only [decide_eq_true late, decide_eq_true third, Bool.or_true, if_true, Nat.ne_of_gt first, decide_false,
        Bool.false_or]
      rfl
  obtain ⟨v, eq, started, failed, tiles⟩ := shown
  rw [eq]
  exact ⟨started, rfl, failed, tiles⟩

/-- The admission of a start: in recovery an image has been accepted, before it fewer than three starts in a row have failed. -/
def State.mayStart (s : State) : Prop := if s.recov = true then s.accepted = true else s.startFail < 3

theorem startAgain_runs {s0 : State} {failing : Nat} (may : s.mayStart) :
    s.startAgain s0 cold failing bad sts = s0.runStart cold failing bad sts := by
  unfold State.mayStart at may
  refine (if_neg ?_).trans (if_neg ?_)
  · rintro ⟨failed, outside⟩
    rw [if_neg (by simpa using outside)] at may
    omega
  · rintro ⟨inside, waiting⟩
    rw [if_pos inside] at may
    rw [may] at waiting
    cases waiting

theorem length_startTiles (read : Bool) : (s.startTiles cold bad read).length = s.tiles.length := by
  simp [State.startTiles]

/-- A tile that fails the self-test of a cold start is out of service. -/
theorem fenced_startTiles {read : Bool} {t : Nat} (inside : t < s.tiles.length) (fails : t ∈ bad) :
    ((s.startTiles true bad read).getD t {}).fenced = true := by
  rw [List.getD_eq_getElem _ _ (by rw [length_startTiles]; exact inside)]
  simp [State.startTiles, fails]

theorem length_powerDown : s.powerDown.tiles.length = s.tiles.length := by
  simp [State.powerDown]

theorem tileAt_powerDown {t : Nat} (inside : t < s.tiles.length) :
    s.powerDown.tileAt t = { margin := (s.tileAt t).margin.kept t } := by
  rw [State.tileAt, List.getD_eq_getElem _ _ (by rw [length_powerDown]; exact inside), State.tileAt, List.getD_eq_getElem _ _ inside]
  simp [State.powerDown]

theorem level_settleRails {n : Nat} (levels : ∀ r ∈ s.rails, r.level = n) : ∀ r ∈ s.settleRails.rails, r.level = n := by
  intro r member
  obtain ⟨⟨x, i⟩, listed, rfl⟩ := List.mem_map.mp member
  have level := levels x (List.fst_mem_of_mem_zipIdx listed)
  dsimp only
  split
  · exact level
  · unfold Rail.retarget
    split
    · exact level
    · exact level

/-! ## What a loss of power keeps of the Almanac (R359, R361, R364) -/

variable {m : Margin} {t : Nat}

theorem kept_of_clean (clean : m.dirty = false) :
    m.kept t = { almA := m.almA, almB := m.almB, unfence := m.unfence, relearn := m.relearn, work := almUnknown t } := by
  unfold Margin.kept
  rw [clean]
  rfl

theorem unfence_written : (m.written t).unfence = m.unfence := by
  by_cases inForce : m.inForce = some true
  · rw [written_of_A t inForce]
    rfl
  · rw [written_of_other t inForce]
    rfl

theorem unfence_kept : (m.kept t).unfence = m.unfence := by
  unfold Margin.kept
  dsimp only
  split
  · exact unfence_written
  · rfl

theorem stored_congr {n : Margin} (a : n.almA = m.almA) (b : n.almB = m.almB) : n.stored t = m.stored t := by
  simp only [Margin.stored, Margin.inForce, a, b]

/-- A change of the fence that was still to be written is kept. -/
theorem fence_kept (dirty : m.dirty = true) : almGet ((m.kept t).stored t) 560 2 = almGet m.work 560 2 := by
  by_cases changed : (almGet m.work 560 2 != almGet (m.stored t) 560 2) = true
  · have kept : (m.kept t).stored t = (m.written t).stored t := by
      unfold Margin.kept
      rw [dirty, changed]
      exact stored_congr rfl rfl
    rw [kept, stored_written, almGet_next_fence]
  · have kept : (m.kept t).stored t = m.stored t := by
      unfold Margin.kept
      rw [dirty, Bool.eq_false_iff.mpr changed]
      exact stored_congr rfl rfl
    rw [kept]
    have same : almGet m.work 560 2 = almGet (m.stored t) 560 2 := by simpa using changed
    exact same.symm

end

/-! ## The start events (R402, R403) -/

section
variable {s : State} {bad : List Nat} {n : Nat}

theorem coldStart_runs (off : s.started = false) (may : s.mayStart) :
    execColdStart n bad s =
      .next (({ s.powerDown with time := s.time } : State).runStart true n bad (List.replicate 8 { epoch := s.time })) :=
  (if_neg (by rw [off]; exact Bool.false_ne_true)).trans (congrArg _ (startAgain_runs may))

theorem coldStart_stops {step : Nat} (off : s.started = false) (may : s.mayStart)
    (stops : (if (n = 0 ∨ 4 < n) ∧ (!s.imageSigned s.image) = true then 4 else n) = step) (first : 0 < step) (last : step ≤ 9) :
    ∃ u, execColdStart n bad s = .next u ∧ u.started = false ∧ u.startCode = step ∧ u.startFail = (s.startFail + 1) % 256 ∧
      (7 < step → ∀ t < s.tiles.length, t ∈ bad → (u.tileAt t).fenced = true) := by
  obtain ⟨started, code, failed, tiles⟩ := runStart_stops (s := { s.powerDown with time := s.time }) (cold := true) (bad := bad)
    (sts := List.replicate 8 { epoch := s.time }) stops first last
  refine ⟨_, coldStart_runs off may, started, code, failed, fun late t inside fails => ?_⟩
  rw [State.tileAt, tiles (Nat.lt_trans (by decide) late)]
  exact fenced_startTiles (inside.trans_eq length_powerDown.symm) fails

theorem coldStart_succeeds (off : s.started = false) (may : s.mayStart) (signed : s.imageSigned s.image = true) :
    ∃ u, execColdStart 0 bad s = .next u ∧ u.started = true ∧ u.startFail = 0 ∧ u.power = .active ∧ u.mem = [] ∧ u.owner = none ∧
      (∀ r ∈ u.rails, r.level = 750) ∧ u.tiles.length = s.tiles.length ∧
      ∀ t < s.tiles.length, t ∈ bad → (u.tileAt t).fenced = true := by
  obtain ⟨v, eq, started, failed, power, mem, owner, rails, tiles, -, -⟩ := runStart_started (s := { s.powerDown with time := s.time })
    (cold := true) (bad := bad) (sts := List.replicate 8 { epoch := s.time }) signed
  refine ⟨_, (coldStart_runs off may).trans (congrArg _ eq), started, failed, power, mem, owner, level_settleRails fun r member => ?_,
    ?_, fun t inside fails => ?_⟩
  · rw [rails] at member
    rw [(List.mem_replicate.mp member).2]
  · exact (congrArg List.length tiles).trans ((length_startTiles _).trans length_powerDown)
  · have fenced := fenced_startTiles (s := { s.powerDown with time := s.time }) (read := true)
      (inside.trans_eq length_powerDown.symm) fails
    rw [← tiles] at fenced
    exact fenced

theorem coldStart_recovers (off : s.started = false) (failed : 3 ≤ s.startFail) (outside : s.recov = false) :
    ∃ u, execColdStart n bad s = .next u ∧ u.started = false ∧ u.recov = true ∧ u.accepted = false ∧ u.startFail = s.startFail :=
  ⟨_, (if_neg (by rw [off]; exact Bool.false_ne_true)).trans (congrArg _ (if_pos ⟨failed, by rw [outside]; rfl⟩)), rfl, rfl, rfl, rfl⟩

theorem coldStart_waits (off : s.started = false) (inside : s.recov = true) (waiting : s.accepted = false) :
    execColdStart n bad s = .next s := by
  refine (if_neg (by rw [off]; exact Bool.false_ne_true)).trans (congrArg _ ((if_neg ?_).trans (if_pos ⟨inside, by rw [waiting]; rfl⟩)))
  rw [inside]
  exact fun both => nomatch both.2

theorem warmStart_succeeds {w : WarmReq} (on : s.power ≠ .off) (may : s.mayStart) (signed : s.imageSigned s.image = true)
    (runs : w.failing = 0) (asked : s.mayWarm w.asker = true) :
    ∃ u, execWarmStart w s = .next u ∧ u.started = true ∧ u.startFail = 0 ∧ u.warm = true ∧
      u.hbm.map (fun k => (k.epoch, k.ratio)) = s.hbm.map fun k => (k.epoch, k.ratio) := by
  obtain ⟨v, eq, started, failed, -, -, -, -, -, warm, hbm⟩ :=
    runStart_started (s := { s.flushAlmanac.powerDown with time := s.time }) (cold := false) (bad := []) (sts := s.hbm.map Stack.atWarm) signed
  refine ⟨v.settleRails, (if_neg on).trans ((if_neg (by rw [asked]; decide)).trans (congrArg _ ?_)), started, failed, warm, ?_⟩
  · rw [startAgain_runs may, runs]
    exact eq
  · change v.hbm.map _ = _
    rw [hbm, List.map_map]
    rfl

theorem warmStart_refused {w : WarmReq} {ag : Agent} (on : s.power ≠ .off) (asker : w.asker = some ag) (other : s.owner ≠ some ag) :
    execWarmStart w s = .next (s.answer ag 4 1 0) := by
  refine (if_neg on).trans ((if_pos ?_).trans ?_)
  · simp only [State.mayWarm, asker, Bool.not_eq_true', beq_eq_false_iff_ne]
    exact other
  · rw [asker]

theorem upload_takes {host : Bool} {img : FwImage} (inside : s.recov = true) (waiting : s.accepted = false) :
    s.takeImage host img =
      if (host = true → s.hostUpload = true) ∧ img.rsaOk = true ∧ img.slhOk = true ∧ img.rsaKey = s.fuseRsa ∧ img.slhKey = s.fuseSlh
      then { s with image := img, accepted := true } else s := by
  refine if_congr ?_ rfl rfl
  rw [inside, waiting, State.imageSigned]
  cases host <;> simp [and_assoc]

theorem powerLoss_keeps :
    ∃ u, execPowerLoss s = .next u ∧ u.started = false ∧ u.mem = [] ∧ u.owner = none ∧
      (s.started = true → u.startFail = s.startFail) ∧ u.tiles.length = s.tiles.length ∧
      ∀ t < s.tiles.length, let m := (s.tileAt t).margin
        let x := (u.tileAt t).margin
        x.unfence = m.unfence ∧ (m.dirty = false → x.almA = m.almA ∧ x.almB = m.almB ∧ x.relearn = m.relearn) ∧
        (m.dirty = true → almGet (x.stored t) 560 2 = almGet m.work 560 2) := by
  refine ⟨_, rfl, rfl, rfl, rfl, fun on => if_pos (.inl on), length_powerDown, fun t inside => ?_⟩
  intro m x
  have kept : x = m.kept t := congrArg Tile.margin (tileAt_powerDown inside)
  rw [kept]
  refine ⟨unfence_kept, fun clean => ?_, fence_kept⟩
  rw [kept_of_clean clean]
  exact ⟨rfl, rfl, rfl⟩

end

/-- Settles O49: the windows of a twin run case by case; a start by the step at which it stops. -/
theorem twinAndStarts : Obligations.TwinAndStarts := by
  refine ⟨fun s p tw twin => ⟨fun win own msgs u oldest sent => twinWindowClose_sent twin oldest sent,
      fun win digest f u taken running => twinDigest_taken twin taken running,
      fun f u w d taken body => interimDigest_kept twin taken body, fun u nothing sent => interimDigest_sent twin nothing sent,
      fun win own msgs rest y running held sent answer =>
        ⟨fun same => (compareTwin_answered twin running held sent answer).trans (if_pos same),
          fun differs => (compareTwin_answered twin running held sent answer).trans (if_neg differs)⟩,
      fun win own msgs rest held waits => compareTwin_waits twin held waits, fun running => twinLost_halts twin running⟩,
    fun s bad n => ?_⟩
  intro runs
  refine ⟨fun off may signed => coldStart_succeeds off may signed, fun off may first last signed => ?_,
      fun off may any unsigned => ?_, fun off failed outside => coldStart_recovers off failed outside,
      fun off inside waiting => coldStart_waits off inside waiting,
      fun host img v inside waiting => congrArg _ (upload_takes inside waiting),
      fun on may signed w runs asked => warmStart_succeeds on may signed runs asked,
      fun w ag on asker other => warmStart_refused on asker other, powerLoss_keeps⟩
  · refine coldStart_stops off may (if_neg ?_) first last
    rintro ⟨any, unsigned⟩
    rcases signed with signed | low
    · rw [signed] at unsigned
      cases unsigned
    · omega
  · obtain ⟨u, run, started, code, failed, -⟩ := coldStart_stops off may (if_pos ⟨any, by rw [unsigned]; rfl⟩) (by decide) (by decide)
    exact ⟨u, run, started, code, failed⟩

end Sys2Proof.Machine
end

section
/-! SUPPORT. The number of the tiles: what stops a gang and ends a job leaves it. -/

namespace Sys2Proof.Machine

theorem foldl_width {α : Type} {g : State → α → State} (keeps : ∀ s x, (g s x).tiles.length = s.tiles.length) (l : List α) (s : State) :
    (l.foldl g s).tiles.length = s.tiles.length :=
  foldl_keeps (v := fun s => s.tiles.length) keeps l s

@[simp] theorem State.modBurin_width (s : State) (t e : Nat) (f : Burin → Burin) : (s.modBurin t e f).tiles.length = s.tiles.length :=
  length_tiles_modTile ..

@[simp] theorem State.modMargin_width (s : State) (t : Nat) (f : Margin → Margin) : (s.modMargin t f).tiles.length = s.tiles.length :=
  length_tiles_modTile ..

@[simp] theorem State.modUnit_width (s : State) (t e uid : Nat) (f : CUnit → CUnit) : (s.modUnit t e uid f).tiles.length = s.tiles.length :=
  State.modBurin_width ..

@[simp] theorem State.nextUid_width (s : State) (t e : Nat) : (s.nextUid t e).tiles.length = s.tiles.length := State.modBurin_width ..

@[simp] theorem State.modCopy_width (s : State) (t e : Nat) (tag : BitVec 32) (f : Copy → Copy) :
    (s.modCopy t e tag f).tiles.length = s.tiles.length := State.modBurin_width ..

@[simp] theorem State.failUnit_width (s : State) (t e uid err walk pout : Nat) :
    (s.failUnit t e uid err walk pout).tiles.length = s.tiles.length := State.modUnit_width ..

@[simp] theorem State.dropFetch_width (s : State) (t e uid : Nat) : (s.dropFetch t e uid).tiles.length = s.tiles.length :=
  State.modBurin_width ..

@[simp] theorem State.markBlocks_width (s : State) (pa : Nat) : (s.markBlocks pa).tiles.length = s.tiles.length := by
  unfold State.markBlocks
  dsimp only
  (repeat' split) <;> simp

@[simp] theorem State.openStage_width (s : State) (t e : Nat) (u : CUnit) (img out : Nat) (l : List (List Nat)) :
    (s.openStage t e u img out l).tiles.length = s.tiles.length := by
  cases l with
  | nil => simp [State.openStage]
  | cons => simp [State.openStage]

theorem State.grantUnit_width {s v : State} {t e : Nat} {u : CUnit} (eq : s.grantUnit t e u = some v) :
    v.tiles.length = s.tiles.length := by
  unfold State.grantUnit at eq
  dsimp only at eq
  split at eq
  · obtain rfl := Option.some.inj eq
    simp
  · split at eq
    · obtain rfl := Option.some.inj eq
      simp
    · split at eq
      · contradiction
      · split at eq
        · obtain rfl := Option.some.inj eq
          simp
        · obtain rfl := Option.some.inj eq
          rw [State.openStage_width, State.modUnit_width]
          split <;> simp

@[simp] theorem State.beginReseal_width (s : State) (t e : Nat) (u : CUnit) (level : Nat) :
    (s.beginReseal t e u level).tiles.length = s.tiles.length := by
  unfold State.beginReseal State.resealItem
  simp

@[simp] theorem State.sealWrite_width (s : State) (t e : Nat) (u : CUnit) (img : Nat) :
    (s.sealWrite t e u img).tiles.length = s.tiles.length := by
  unfold State.sealWrite
  simp

@[simp] theorem State.beginWrite_width (s : State) (t e : Nat) (u : CUnit) (img : Nat) :
    (s.beginWrite t e u img).tiles.length = s.tiles.length := by
  unfold State.beginWrite State.dropCounters State.dropBlocks
  simp

theorem State.putWrite_width {s v : State} {t e : Nat} {u : CUnit} {img : Nat} (eq : s.putWrite t e u img = some v) :
    v.tiles.length = s.tiles.length := by
  unfold State.putWrite at eq
  dsimp only at eq
  split at eq
  · obtain rfl := Option.some.inj eq
    simp
  · split at eq
    · contradiction
    · split at eq
      · obtain rfl := Option.some.inj eq
        split <;> simp [State.postTrap]
      · split at eq
        · contradiction
        · split at eq <;> obtain rfl := Option.some.inj eq <;> simp

theorem State.answerUnit_width {s v : State} {t e : Nat} {u : CUnit} (eq : s.answerUnit t e u = some v) :
    v.tiles.length = s.tiles.length := by
  unfold State.answerUnit at eq
  split at eq
  · exact State.putWrite_width eq
  · exact State.grantUnit_width eq

@[simp] theorem State.grantAll_width (s : State) : s.grantAll.tiles.length = s.tiles.length := by
  have grants : ∀ n (s : State), (s.grants n).tiles.length = s.tiles.length := by
    intro n
    induction n with
    | zero => exact fun _ => rfl
    | succ n ih =>
      intro s
      rw [State.grants]
      split
      · rfl
      next found =>
        obtain ⟨x, -, answered⟩ := List.exists_of_findSome?_eq_some found
        exact (ih _).trans (State.answerUnit_width answered)
  exact grants _ s

@[simp] theorem State.lookup_width (s : State) (t e : Nat) (u : CUnit) : (s.lookup t e u).tiles.length = s.tiles.length := by
  unfold State.lookup State.reachUnit
  dsimp only
  (repeat' split) <;> simp

@[simp] theorem State.issues_width (s : State) (t e n : Nat) : (s.issues t e n).tiles.length = s.tiles.length := by
  induction n generalizing s with
  | zero => rfl
  | succ n ih =>
    refine (ih _).trans ?_
    unfold State.issueUnit
    dsimp only
    (repeat' split) <;> simp

@[simp] theorem State.pumpAll_width (s : State) : s.pumpAll.tiles.length = s.tiles.length :=
  (State.grantAll_width _).trans (foldl_width (fun s x => foldl_width (fun s b => by split <;> simp) _ _) _ _)

@[simp] theorem State.stopCopies_width (s : State) (t e : Nat) (hit : Copy → Bool) (code : Nat) :
    (s.stopCopies t e hit code).tiles.length = s.tiles.length := State.modBurin_width ..

theorem State.recordCopies_width (s : State) (t e slot : Nat) : (s.recordCopies t e slot).tiles.length = s.tiles.length := by
  refine foldl_width (fun s c => ?_) _ _
  unfold State.writeRecord State.queueFor
  (repeat' split) <;> rfl

@[simp] theorem State.evict_width (s : State) (t slot : Nat) : (s.evict t slot).tiles.length = s.tiles.length := by
  unfold State.evict
  simp [State.recordCopies_width, State.abortMatrix]

@[simp] theorem State.dropParams_width (s : State) (t : Nat) : (s.dropParams t).tiles.length = s.tiles.length :=
  foldl_width (fun s u => by simp) _ _

theorem State.stopGang_width (s : State) (id : Nat) : (s.stopGang id).tiles.length = s.tiles.length := by
  unfold State.stopGang
  split
  · rfl
  · refine (State.pumpAll_width _).trans (foldl_width (fun s m => ?_) _ _)
    rw [length_tiles_modTile, State.dropParams_width]
    split <;> simp

theorem State.settleQueue_width (s : State) (die : Nat) : (s.settleQueue die).tiles.length = s.tiles.length := by
  unfold State.settleQueue
  dsimp only
  (repeat' split) <;> simp

theorem signal_tiles (s : State) (p : Nat) (vfs : List Nat) (toOwner : Bool) (kind value body : Nat) :
    (s.signal p vfs toOwner kind value body).tiles = s.tiles :=
  congrArg (fun y : List Stack × Nat × List Nat × List Tile => y.2.2.2) (signal_still s p vfs toOwner kind value body)

theorem sendSig_tiles (s : State) (gang member sem n : Nat) : (s.sendSig gang member sem n).tiles = s.tiles := by
  unfold State.sendSig
  (repeat' split) <;> rfl

theorem performTarget_tiles (s : State) (j : Job) : (s.performTarget j).tiles = s.tiles := by
  unfold State.performTarget
  split
  · split
    · rfl
    · split
      · rfl
      · split
        · rfl
        · exact sendSig_tiles ..
  · split
    · exact signal_tiles ..
    · rfl

theorem State.endJob_width (s : State) (h : W64) (refused faulted quiet : Bool) :
    (s.endJob h refused faulted quiet).tiles.length = s.tiles.length := by
  have settled : ∀ (s : State) (h : W64) (j : Job),
      (State.settleQueue { (s.modJob h fun _ => j) with tiles := s.tiles.map (Tile.freeHandoffs h) } (bits h.toNat 12 3)).tiles.length =
        s.tiles.length := fun s h j => (State.settleQueue_width _ _).trans (List.length_map ..)
  unfold State.endJob
  dsimp only
  split
  · rfl
  · split
    · rfl
    · split
      · exact settled ..
      · rw [performTarget_tiles]
        exact settled ..

theorem State.faultGangs_width (s : State) (gs : List Gang) : (s.faultGangs gs).tiles.length = s.tiles.length :=
  foldl_width (fun _ _ => (State.endJob_width ..).trans (State.stopGang_width ..)) _ _

end Sys2Proof.Machine
end

section
/-! SUPPORT. Timing margin, power and heat: what the events make of a tile's margin state, of the rails and of the observer. -/

namespace Sys2Proof.Machine

/-! ## The margin state of a tile (R354 to R358) -/

section
variable {s : State} {t : Nat}

theorem modMargin_congr {f g : Margin → Margin} (same : f (s.tileAt t).margin = g (s.tileAt t).margin) :
    s.modMargin t f = s.modMargin t g := by
  have tiles := updAt_congr (f := fun x : Tile => { x with margin := f x.margin }) (g := fun x : Tile => { x with margin := g x.margin })
    (n := t) (l := s.tiles) (d := {}) fun _ => congrArg (fun m => ({ s.tileAt t with margin := m } : Tile)) same
  exact congrArg (fun l => { s with tiles := l }) tiles

theorem tileAt_modMargin (inside : t < s.tiles.length) (f : Margin → Margin) :
    (s.modMargin t f).tileAt t = { s.tileAt t with margin := f (s.tileAt t).margin } :=
  (tileAt_modTile ..).trans (if_pos ⟨rfl, inside⟩)

theorem margin_setVtgt (inside : t < s.tiles.length) (mv : Nat) (f : Margin → Margin) :
    ((s.setVtgt t mv f).tileAt t).margin = f { (s.tileAt t).margin with vtgt := mv, trim := trimOf s.vmx mv } :=
  congrArg Tile.margin (tileAt_modMargin inside fun m => f { m with vtgt := mv, trim := trimOf s.vmx mv })

theorem tileEvent_tiles (s : State) (code : Nat) (part : Option Nat) (t addr data : Nat) :
    (s.tileEvent code part t addr data).tiles = s.tiles := by
  unfold State.tileEvent
  split
  · exact signal_tiles ..
  · exact congrArg (fun y : List Stack × Nat × List Nat × List Tile => y.2.2.2) (signalNow_still ..)

/-- The fence of a tile is recorded with its code (R362, R364). -/
theorem tileAt_fenceTile (inside : t < s.tiles.length) (code : Nat) :
    ((s.fenceTile t code).tileAt t).fenced = true ∧ almGet ((s.fenceTile t code).tileAt t).margin.work 560 2 = code % 4 := by
  have tile : (s.fenceTile t code).tileAt t = { s.tileAt t with
      fenced := true,
      margin := { (s.tileAt t).margin with
        dirty := true, work := almSet (almSet (s.tileAt t).margin.work 560 2 code) 576 64 s.time.toNat } } :=
    (tileAt_modTile ..).trans (if_pos ⟨rfl, inside⟩)
  rw [tile]
  refine ⟨rfl, ?_⟩
  dsimp only
  rw [almGet_almSet_apart _ _ (.inl (by decide)) (by decide), almGet_almSet_same _ _ (by decide)]
  rfl

/-! ## Computations of the engines (R351) -/

/-- A search passes over a change of the elements that it does not see. -/
theorem find?_map_changed {α : Type} {p : α → Bool} {f : α → α} (unseen : ∀ x, p (f x) = p x) (l : List α) :
    (l.map f).find? p = (l.find? p).map f := by
  rw [List.find?_map]
  exact congrArg (fun q => (l.find? q).map f) (funext unseen)

variable {e : EngOp} {n : Nat}

theorem engDets_engDetect_matrix (inside : t < s.tiles.length) (matrix : e.eng = 3) (counted : s.engDets t e = some n) :
    (s.engDetect t e).engDets t e = some (n + 1) := by
  simp only [State.engDets, State.engDetect, matrix, if_true, tileAt_modMargin inside] at counted ⊢
  cases head : (s.tileAt t).mq.head? with
  | none => rw [head] at counted; cases counted
  | some m =>
    rw [head] at counted
    simp only [Option.bind_some] at counted ⊢
    split at counted
    next under => rw [if_pos under, Option.some.inj counted]
    · cases counted

theorem engDets_engDetect_link (inside : t < s.tiles.length) (link : e.eng = 2) (counted : s.engDets t e = some n) :
    (s.engDetect t e).engDets t e = some (n + 1) := by
  simp only [State.engDets, State.engDetect, link, Nat.reduceEqDiff, if_true, if_false, Option.map_eq_some_iff] at counted ⊢
  obtain ⟨m, found, det⟩ := counted
  refine ⟨{ m with det := m.det + 1 }, ?_, congrArg (· + 1) det⟩
  have tile : ((s.modLink t e.op fun m => { m with det := m.det + 1 }).tileAt t).link.q =
      (s.tileAt t).link.q.map fun m => if m.age == e.op then { m with det := m.det + 1 } else m :=
    congrArg (fun x : Tile => x.link.q) ((tileAt_modTile ..).trans (if_pos ⟨rfl, inside⟩))
  rw [tile, find?_map_changed (fun x => by split <;> rfl), found]
  have aged : (m.age == e.op) = true := by
    have all := List.find?_some found
    simp only [Bool.and_eq_true] at all
    exact all.1.1
  simp only [Option.map_some, aged, if_true]

theorem engDets_engDetect_burin (inside : t < s.tiles.length) (burin : e.eng < 2) (counted : s.engDets t e = some n) :
    (s.engDetect t e).engDets t e = some (n + 1) := by
  have apart : e.eng ≠ 3 ∧ e.eng ≠ 2 := ⟨by omega, by omega⟩
  simp only [State.engDets, State.engDetect, apart, if_false, burin, if_true, Option.map_eq_some_iff] at counted ⊢
  obtain ⟨u, found, det⟩ := counted
  refine ⟨{ u with det := u.det + 1 }, ?_, congrArg (· + 1) det⟩
  have there : e.eng < (s.tileAt t).burin.length := by
    by_contra absent
    rw [State.burinAt, List.getD_eq_default _ _ (Nat.le_of_not_lt absent)] at found
    cases found
  have flights : ((s.modUnit t e.eng e.op fun u => { u with det := u.det + 1 }).burinAt t e.eng).flights =
      (s.burinAt t e.eng).flights.map fun u => if u.uid == e.op then { u with det := u.det + 1 } else u := by
    rw [State.burinAt, State.modUnit, State.modBurin, tileAt_modTile, if_pos ⟨rfl, inside⟩, getD_updAt, if_pos ⟨rfl, there⟩]
    exact (List.map_append ..).symm
  rw [flights, find?_map_changed (fun x => by split <;> rfl), found]
  have same : (u.uid == e.op) = true := List.find?_some (p := fun u : CUnit => u.uid == e.op) found
  simp only [Option.map_some, same, if_true]

theorem engDets_engDetect (inside : t < s.tiles.length) (counted : s.engDets t e = some n) :
    (s.engDetect t e).engDets t e = some (n + 1) := by
  by_cases matrix : e.eng = 3
  · exact engDets_engDetect_matrix inside matrix counted
  by_cases link : e.eng = 2
  · exact engDets_engDetect_link inside link counted
  by_cases burin : e.eng < 2
  · exact engDets_engDetect_burin inside burin counted
  simp only [State.engDets, matrix, link, burin, if_false] at counted
  cases counted

end

/-! ## Gnomon's moves (R355 to R358, R362) -/

section
variable {s : State} {t : Nat}

/-- A raise is recorded in the entry alone. -/
theorem raised_eq (time : W64) (inj : Bool) (m : Margin) : ∃ w, Margin.raised time inj m = { m with dirty := true, work := w } := by
  unfold Margin.raised
  exact ⟨_, rfl⟩

theorem floorUpdate_eq (m : Margin) (old : Nat) : ∃ w, m.floorUpdate old = { m with work := w } := by
  unfold Margin.floorUpdate
  exact ⟨_, rfl⟩

theorem floorUpdate_supply (m : Margin) (old : Nat) : (m.floorUpdate old).vtgt = m.vtgt ∧ (m.floorUpdate old).trim = m.trim := by
  obtain ⟨w, eq⟩ := floorUpdate_eq m old
  rw [eq]
  exact ⟨rfl, rfl⟩

theorem margin_raise (inside : t < s.tiles.length) (mv : Nat) (time : W64) (inj : Bool) (f : Margin → Margin) :
    ∃ w, ((s.setVtgt t mv fun m => Margin.raised time inj (f m)).tileAt t).margin =
      { f { (s.tileAt t).margin with vtgt := mv, trim := trimOf s.vmx mv } with dirty := true, work := w } := by
  rw [margin_setVtgt inside]
  exact raised_eq ..

theorem vtgtRaise_raises (inside : t < s.tiles.length) (frozen : (s.tileAt t).margin.frozen = true)
    (open_ : (s.tileAt t).margin.answered = false) (low : (s.tileAt t).margin.vtgt < 750) :
    ∃ u, execVtgtRaise t s = .next u ∧ u.mem = s.mem ∧ (u.tileAt t).margin.vtgt = (s.tileAt t).margin.vtgt + 5 ∧
      (u.tileAt t).margin.trim = trimOf s.vmx ((s.tileAt t).margin.vtgt + 5) ∧
      (u.tileAt t).margin.answered = true ∧ (u.tileAt t).margin.dirty = true := by
  refine ⟨_, (if_neg (by rw [frozen, open_]; decide)).trans (if_pos low), (State.setVtgt_frame ..).1, ?_⟩
  generalize ((s.tileAt t).margin.wInj == (s.tileAt t).margin.wRp) = inj
  obtain ⟨w, eq⟩ := margin_raise inside ((s.tileAt t).margin.vtgt + 5) s.time inj fun m =>
    { (if inj then m else m.floorUpdate (m.vtgt - 5)) with answered := true }
  rw [eq]
  cases inj
  · simp only [Bool.false_eq_true, if_false, (floorUpdate_supply _ _).1, (floorUpdate_supply _ _).2, and_self]
  · simp only [if_true, and_self]

theorem vtgtRaise_fences (inside : t < s.tiles.length) (frozen : (s.tileAt t).margin.frozen = true)
    (open_ : (s.tileAt t).margin.answered = false) (top : 750 ≤ (s.tileAt t).margin.vtgt) (empty : ∀ c ∈ (s.tileAt t).ctx, c = none) :
    ∃ u, execVtgtRaise t s = .next u ∧ (u.tileAt t).fenced = true ∧
      almGet (u.tileAt t).margin.work 560 2 = if s.inTest t = true then 3 else 1 := by
  have idle : ¬((s.tileAt t).ctx.any fun o => match o with | some c => !c.stopped | none => false) = true := by
    rw [List.any_eq_true]
    rintro ⟨c, member, runs⟩
    rw [empty c member] at runs
    cases runs
  refine ⟨_, (if_neg (by rw [frozen, open_]; decide)).trans ((if_neg (Nat.not_lt.mpr top)).trans (if_neg idle)), ?_⟩
  rw [State.tileAt, tileEvent_tiles]
  have wide : t < ((s.faultGangs (s.gangsOn t)).modMargin t fun m => { m with answered := true }).tiles.length := by
    rw [State.modMargin_width, State.faultGangs_width]
    exact inside
  obtain ⟨fenced, code⟩ := tileAt_fenceTile wide (if s.inTest t = true then 3 else 1)
  refine ⟨fenced, code.trans ?_⟩
  split
  · rfl
  · rfl

theorem vtgtLower_lowers (inside : t < s.tiles.length) (clean : 2 ^ 30 ≤ (s.tileAt t).margin.run)
    (floor : feff (s.tileAt t).margin.work (s.tileAt t).margin.op.toNat ≤ (s.tileAt t).margin.vtgt - 5)
    (above : 605 ≤ (s.tileAt t).margin.vtgt) :
    ∃ u, execVtgtLower t s = .next u ∧ u.mem = s.mem ∧ (u.tileAt t).margin.vtgt = (s.tileAt t).margin.vtgt - 5 ∧
      (u.tileAt t).margin.run = 0 := by
  refine ⟨_, (if_neg (Nat.not_lt.mpr clean)).trans (if_pos ⟨floor, above⟩), (State.setVtgt_frame ..).1, ?_⟩
  rw [margin_setVtgt inside]
  exact ⟨by dsimp only, by dsimp only⟩

theorem operatingPoint_changes {op : Nat} (inside : t < s.tiles.length) (other : op ≠ (s.tileAt t).margin.op.toNat)
    (due : op = opOf (s.tileTemp t)) :
    ∃ u, execOperatingPointChange t op s = .next u ∧ u.mem = s.mem ∧ (u.tileAt t).margin.op = BitVec.ofNat 2 op ∧
      (u.tileAt t).margin.vtgt = Nat.min 750 (Nat.max (s.tileAt t).margin.vtgt (feff (s.tileAt t).margin.work op)) := by
  have moves : ¬(op = (s.tileAt t).margin.op.toNat ∨ op ≠ opOf (s.tileTemp t)) := not_or.mpr ⟨other, not_not.mpr due⟩
  by_cases stays : Nat.min 750 (Nat.max (s.tileAt t).margin.vtgt (feff (s.tileAt t).margin.work op)) = (s.tileAt t).margin.vtgt
  · refine ⟨_, (if_neg moves).trans (if_pos stays), modTile_mem .., ?_⟩
    rw [tileAt_modMargin inside]
    exact ⟨rfl, stays.symm⟩
  · refine ⟨_, (if_neg moves).trans (if_neg stays), (State.setVtgt_frame ..).1, ?_⟩
    obtain ⟨w, eq⟩ := margin_raise inside (Nat.min 750 (Nat.max (s.tileAt t).margin.vtgt (feff (s.tileAt t).margin.work op))) s.time false
      fun m => { m with op := BitVec.ofNat 2 op }
    rw [eq]
    exact ⟨by dsimp only, by dsimp only⟩

theorem newWindow_running {m : Margin} (running : m.frozen = false) :
    m.newWindow = { m with wB := 0, wRp := 0, wInj := 0, answered := false } := by
  simp only [Margin.newWindow, running]

/-! ## The Almanac's writes (R359 to R361) -/

theorem dirty_written (n : Nat) (m : Margin) : (m.written n).dirty = false := by
  by_cases inForce : m.inForce = some true
  · rw [written_of_A n inForce]
    rfl
  · rw [written_of_other n inForce]
    rfl

/-- Where copy A is in force, copy B is written, under the SEQ that follows. -/
theorem written_beside_A {m : Margin} (n : Nat) (inForce : m.inForce = some true) :
    (m.written n).almA = m.almA ∧ almValid (m.written n).almB = true ∧
      almGet (m.written n).almB 0 16 = (almGet m.almA 0 16 + 1) % 65536 ∧ almGet (m.written n).almB 128 16 = m.vtgt % 65536 := by
  have valid := almValid_next n m
  have seq := almGet_next_seq_of_A n inForce
  have vtgt : almGet (m.next n) 128 16 = m.vtgt % 65536 := almGet_entry_vtgt ..
  rw [written_of_A n inForce]
  exact ⟨rfl, valid, seq, vtgt⟩

/-- Where copy B is in force, copy A is written. -/
theorem written_beside_B {m : Margin} (n : Nat) (inForce : m.inForce = some false) :
    (m.written n).almB = m.almB ∧ almValid (m.written n).almA = true := by
  have valid := almValid_next n m
  rw [written_of_other n (by rw [inForce]; decide)]
  exact ⟨rfl, valid⟩

/-- What the hour of a write adds to what Gnomon holds (R361). -/
def Margin.hourly (m : Margin) : Margin :=
  if m.dirty then m else { m with work := almSet m.work 512 32 ((almGet m.work 512 32 + 1) % 2 ^ 32) }

theorem hourly_eq (m : Margin) : ∃ w, m.hourly = { m with work := w } := by
  unfold Margin.hourly
  split
  · exact ⟨m.work, rfl⟩
  · exact ⟨_, rfl⟩

theorem hourly_keeps (m : Margin) :
    m.hourly.inForce = m.inForce ∧ m.hourly.almA = m.almA ∧ m.hourly.almB = m.almB ∧ m.hourly.vtgt = m.vtgt := by
  obtain ⟨w, eq⟩ := hourly_eq m
  rw [eq]
  exact ⟨rfl, rfl, rfl, rfl⟩

theorem almanacWrite_writes (inside : t < s.tiles.length) :
    ∃ u, execAlmanacWrite t s = .next u ∧ u.mem = s.mem ∧ (u.tileAt t).margin = (s.tileAt t).margin.hourly.written t :=
  ⟨_, rfl, modTile_mem .., congrArg Tile.margin (tileAt_modMargin inside fun m => m.hourly.written t)⟩

/-! ## Rails and the observer (R354, R366, R368) -/

theorem railStep_rises {r : Nat} {x : Rail} (rail : s.rails[r]? = some x) (below : x.level < x.target) :
    execRailStep r s = .next (s.modRail r fun x => { x with level := x.level + 5 }) := by
  simp only [execRailStep, rail, below, if_true]

theorem railStep_falls {r : Nat} {x : Rail} (inside : t < s.tiles.length) (rail : s.rails[r]? = some x) (above : x.target < x.level)
    (falling : x.falling = true) :
    ∃ u, execRailStep r s = .next u ∧ u.mem = s.mem ∧ (u.rails[r]?).map (·.level) = some (x.level - 5) ∧
      (r = 0 → (u.tileAt t).margin.trim = Nat.min (s.tileAt t).margin.trim (trimOf (x.level - 5) (s.tileAt t).margin.vtgt)) := by
  have level : ((s.modRail r fun x' => { x' with level := x.level - 5, falling := decide (x'.target < x.level - 5) }).rails[r]?).map
      (·.level) = some (x.level - 5) := by
    rw [State.modRail, getElem?_updAt, if_pos rfl, rail]
    rfl
  simp only [execRailStep, rail, Nat.lt_asymm above, if_false, above, falling, and_self, if_true]
  refine ⟨_, rfl, ?_, ?_, fun first => ?_⟩
  · split
    · rfl
    · rfl
  · split
    · exact level
    · exact level
  · rw [if_pos first, State.tileAt, List.getD_eq_getElem _ _ (by simpa using inside)]
    simp only [List.getElem_map, State.tileAt, List.getD_eq_getElem _ _ inside]
    rfl

theorem railHoldExpiry_falls {r : Nat} {x : Rail} (rail : s.rails[r]? = some x) (held : x.hold = true) :
    execRailHoldExpiry r s = .next (s.modRail r fun x => { x with hold := false, falling := true }) := by
  simp only [execRailHoldExpiry, rail, held, if_true]

theorem thermalObserver_takes {tnow tfc : List Nat} {watts : Nat} (inside : t < s.tiles.length) (now : tnow.length = 128)
    (forecast : tfc.length = 128) :
    ∃ u, execThermalObserverUpdate tnow tfc watts s = .next u ∧ u.mem = s.mem ∧ u.tnow = tnow ∧ u.tfc = tfc ∧ u.watts = watts ∧
      (u.tileAt t).margin.throt = (if 105 ≤ tfc.getD (clusterOf t) 0 then true
        else if tfc.getD (clusterOf t) 0 < 100 then false else (s.tileAt t).margin.throt) := by
  refine ⟨_, if_neg (not_or.mpr ⟨not_not.mpr now, not_not.mpr forecast⟩), rfl, rfl, rfl, rfl, ?_⟩
  rw [State.tileAt, List.getD_eq_getElem _ _ (by simpa using inside), State.tileAt, List.getD_eq_getElem _ _ inside]
  simp

end

/-- Settles O45: each event is run through the lemma for its case; a change of the margin state is the one that the statement names. -/
theorem marginEvents : Obligations.MarginEvents := by
  intro s t inside m sets
  have changes : ∀ {i : Instr} {f : Margin → Margin} {x : Margin}, exec i s = .next (s.modMargin t f) → f m = x → sets i x :=
    fun run same => run.trans (congrArg _ (modMargin_congr same))
  refine ⟨fun slot issues => if_pos issues, fun e n counted few => ?_, fun e n counted few => engDets_engDetect inside counted,
    fun e n counted many => ?_, fun half clean => changes (if_pos ⟨half, clean⟩) rfl,
    fun crossed running => changes (if_pos ⟨crossed, by rw [running]; rfl⟩) rfl, fun full low running => changes (if_pos ?_) (newWindow_running running),
    fun frozen answered => changes (if_pos ⟨frozen, answered⟩) rfl,
    fun frozen open_ low => vtgtRaise_raises inside frozen open_ low,
    fun frozen open_ top empty => vtgtRaise_fences inside frozen open_ top empty,
    fun clean floor above => vtgtLower_lowers inside clean floor above,
    fun op other due => operatingPoint_changes inside other due, ?_, changes rfl rfl,
    fun r x rail below => railStep_rises rail below, fun r x rail above falling => railStep_falls inside rail above falling,
    fun r x rail held => railHoldExpiry_falls rail held, fun die r mv below => if_pos below, fun die r mv => rfl,
    fun tnow tfc watts now forecast => thermalObserver_takes inside now forecast, rfl, rfl, fun die => rfl⟩
  · simp only [exec_engineRecomputation, execEngineRecomputation, counted, Nat.not_le.mpr few, if_false]
  · simp only [exec_engineRecomputation, execEngineRecomputation, counted, many, if_true]
  · change (decide (2 ^ 24 ≤ m.wB) && !m.crossed && !m.frozen) = true
    rw [decide_eq_true full, low, running]
    rfl
  · obtain ⟨u, run, mem, margin⟩ := almanacWrite_writes inside
    obtain ⟨inForce, almA, almB, vtgt⟩ := hourly_keeps m
    refine ⟨u, run, mem, ?_⟩
    rw [margin, ← inForce, ← almA, ← almB, ← vtgt]
    exact ⟨dirty_written .., written_beside_A t, written_beside_B t⟩

end Sys2Proof.Machine
end

section
/-! SUPPORT. How waiting bundles go on, and what the arrivals of accesses, signals, queued writes and plates of code do. -/

namespace Sys2Proof.Machine

/-! ## Waiting words (R23, R81, R167, R196, R203, R208, R326) -/

section
variable {s u : State} {t slot pos : Nat} {h : Held} {q : WaitKind → Bool} {w : WaitKind}

theorem wakeOn_of_held (held : s.heldOf t slot = some h) (waits : (h.waitFor q).isSome = true) :
    s.wakeOn t slot q = s.wake t slot h := by
  simp only [State.wakeOn, held, waits, if_true]

theorem wake_of_ends (ends : s.endWaits t slot h.waits = some u) :
    s.wake t slot h = u.settle t slot { h with done := addDone h.done h.waits, waits := [] } := by
  simp only [State.wake, ends]

theorem wake_of_waits (waits : s.endWaits t slot h.waits = none) : s.wake t slot h = s := by
  simp only [State.wake, waits]

theorem endWaits_single (w : WaitKind) : s.endWaits t slot [(pos, w)] = s.waitEnds t slot w := by
  simp only [State.endWaits, Option.bind_fun_some]

/-- A bundle with one waiting word goes on as that word ends. -/
theorem wakeOn_single (held : s.heldOf t slot = some h) (one : h.waits = [(pos, w)]) (kind : q w = true)
    (ends : s.waitEnds t slot w = some u) :
    s.wakeOn t slot q = u.settle t slot { h with done := h.done ||| 2 ^ pos, waits := [] } := by
  have waits : (h.waitFor q).isSome = true := by
    rw [Held.waitFor, one, List.find?_cons_of_pos (by exact kind)]
    rfl
  rw [wakeOn_of_held held waits, wake_of_ends (u := u) (by rw [one, endWaits_single, ends]), one]
  rfl

/-! ## BWAIT (R208) -/

theorem bit_bits_mod {x n : Nat} (lo k : Nat) (fits : lo + k ≤ n) : bits (x % 2 ^ n) lo k = bits x lo k :=
  bits_eq_of_testBit fun i inside => by
    rw [Nat.testBit_mod_two_pow, decide_eq_true (by omega : lo + i < n), Bool.true_and]

/-- The code of a barrier word with which a BWAIT ends now: its object is void, its phase has passed, or neither. -/
theorem bwaitCode_eq (x ph : Nat) :
    bwaitCode (x % 2 ^ 64) ph =
      if x.testBit 37 = false then some 3 else if x / 2 ^ 32 % 16 ≠ ph then some 0 else none := by
  unfold bwaitCode
  rw [bit_mod_two_pow x 64 37 (by decide), bit_testBit, bit_bits_mod 32 4 (by decide)]
  refine if_congr (by rw [Bool.not_eq_true']) rfl (if_congr Iff.rfl rfl rfl)

/-- The result with which a BWAIT ends. -/
def State.bwaitResult (s : State) (t slot : Nat) (d : BitVec 5) (w : Bool) (code : Nat) (x : SVal) : State :=
  s.modCtx t slot fun c =>
    (if w then c.setS d.toNat { v := barStatus code x.v.toNat, p := x.p } else c).push 1
      (.scalar { v := barStatus code x.v.toNat, p := x.p })

theorem waitEnds_bwait {d : BitVec 5} {w : Bool} {addr : W64} {cls ph : BitVec 4} {start lim code : Nat} {x : SVal}
    (ends : s.bwaitEnd t ph.toNat start lim (some x) = some code) :
    s.waitEnds t slot (.bwait d w addr cls ph start lim (some x)) = some (s.bwaitResult t slot d w code x) := by
  simp only [State.waitEnds, ends, Option.map_some]
  rfl

theorem waitEnds_bwait_none {d : BitVec 5} {w : Bool} {addr : W64} {cls ph : BitVec 4} {start lim : Nat} {x : SVal}
    (waits : s.bwaitEnd t ph.toNat start lim (some x) = none) :
    s.waitEnds t slot (.bwait d w addr cls ph start lim (some x)) = none := by
  simp only [State.waitEnds, waits, Option.map_none]

end

section
variable {s u v : State} {t slot pos : Nat} {h : Held} {d : BitVec 5} {w : Bool} {addr : W64} {cls ph : BitVec 4} {start lim : Nat}
  {last : Option SVal}

/-- What one read of a barrier object shows. -/
def State.shows (v : State) (key : Nat) : SVal := { v := BitVec.ofNat 64 (v.rd key 8), p := v.poisoned key }

/-- A held bundle whose BWAIT at a position has read a value. -/
def Held.read (h : Held) (pos : Nat) (d : BitVec 5) (w : Bool) (addr : W64) (cls ph : BitVec 4) (start lim : Nat) (x : SVal) : Held :=
  h.setWait pos (.bwait d w addr cls ph start lim (some x))

theorem bwaitRead_reads {l : Loc} (held : s.heldOf t slot = some h)
    (waiting : h.waitFor WaitKind.isBwait = some (pos, .bwait d w addr cls ph start lim last))
    (place : s.locate t slot (s.ctxAt t slot) addr.toNat 16 false = .ok l) (read : s.sramReads [l.key / 8] = (v, u)) :
    execBwaitRead t slot s = .next ((u.modCtx t slot fun c =>
      { c with held := some (h.read pos d w addr cls ph start lim (v.shows l.key)) }).wake t slot
        (h.read pos d w addr cls ph start lim (v.shows l.key))) := by
  simp only [execBwaitRead, held, waiting, place, read]
  rfl

theorem bwaitRead_fails {e : Nat × Nat} (held : s.heldOf t slot = some h)
    (waiting : h.waitFor WaitKind.isBwait = some (pos, .bwait d w addr cls ph start lim last))
    (place : s.locate t slot (s.ctxAt t slot) addr.toNat 16 false = .error e) :
    execBwaitRead t slot s = .next (s.settle t slot (if h.todo = true then { h with waits := h.waits.filter fun x => x.1 != pos } else
      { h with waits := h.waits.filter fun x => x.1 != pos,
               trap := h.trap.or (some { cause := e.1, word := pos, second := false, faddr := BitVec.ofNat 64 e.2 }) })) := by
  simp only [execBwaitRead, held, waiting, place]

/-- The end of a bundle whose one waiting word is a BWAIT that has read. -/
theorem wake_bwait {x : SVal} {code : Nat} (one : h.waits = [(pos, .bwait d w addr cls ph start lim last)])
    (ends : s.bwaitEnd t ph.toNat start lim (some x) = some code) :
    s.wake t slot (h.read pos d w addr cls ph start lim x) =
      (s.bwaitResult t slot d w code x).settle t slot
        { h.read pos d w addr cls ph start lim x with done := h.done ||| 2 ^ pos, waits := [] } := by
  have waits : (h.read pos d w addr cls ph start lim x).waits = [(pos, .bwait d w addr cls ph start lim (some x))] := by
    simp only [Held.read, Held.setWait, one, List.map_cons, List.map_nil, if_true]
  rw [wake_of_ends (u := s.bwaitResult t slot d w code x) (by rw [waits, endWaits_single, waitEnds_bwait ends]), waits]
  rfl

theorem wake_bwait_none {x : SVal} (one : h.waits = [(pos, .bwait d w addr cls ph start lim last)])
    (waits : s.bwaitEnd t ph.toNat start lim (some x) = none) : s.wake t slot (h.read pos d w addr cls ph start lim x) = s := by
  refine wake_of_waits ?_
  have held : (h.read pos d w addr cls ph start lim x).waits = [(pos, .bwait d w addr cls ph start lim (some x))] := by
    simp only [Held.read, Held.setWait, one, List.map_cons, List.map_nil, if_true]
  rw [held, endWaits_single, waitEnds_bwait_none waits]

/-- With what a read shows a BWAIT ends, or waits on, by the object's state and the limit. -/
theorem bwaitEnd_shows (v : State) (key ph : Nat) :
    s.bwaitEnd t ph start lim (some (v.shows key)) =
      (if (v.rd key 8).testBit 37 = false then some 3 else if v.rd key 8 / 2 ^ 32 % 16 ≠ ph then some 0 else none).or
        (if lim = 0 ∨ lim ≤ ((s.tileAt t).cycle.toNat + 2 ^ 64 - start) % 2 ^ 64 then some 1 else none) := by
  have word : (v.shows key).v.toNat = v.rd key 8 % 2 ^ 64 := BitVec.toNat_ofNat ..
  rw [State.bwaitEnd, word, bwaitCode_eq]

theorem bwaitEnd_limit {x : SVal} (live : x.v.toNat.testBit 37 = true) (phase : x.v.toNat / 2 ^ 32 % 16 = ph.toNat)
    (passed : lim ≤ ((s.tileAt t).cycle.toNat + 2 ^ 64 - start) % 2 ^ 64) : s.bwaitEnd t ph.toNat start lim (some x) = some 1 := by
  have code := bwaitCode_eq x.v.toNat ph.toNat
  rw [Nat.mod_eq_of_lt x.v.isLt, if_neg (by rw [live]; decide), if_neg (not_not.mpr phase)] at code
  rw [State.bwaitEnd, code, if_pos (.inr passed)]
  rfl

/-! ## The ending word and TLBINV (R80, R349) -/

theorem endingWord_released (held : s.heldOf t slot = some h) (ending : h.ending.isSome = true) (noTrap : h.trap = none)
    (noBreak : h.brk = none) (noWait : h.waits = []) : execHeldEndingWordRelease t slot s = .next (s.settle t slot h) := by
  simp only [execHeldEndingWordRelease, held]
  exact if_pos ⟨ending, by rw [noTrap]; rfl, by rw [noBreak]; rfl, by rw [noWait]; rfl⟩

theorem tlbinv_completes (idle : ∀ x ∈ s.tiles, x.partid = (s.tileAt t).partid → ∀ b ∈ x.burin, ∀ u ∈ b.units ++ b.fetch, u.inv = false) :
    execTlbinvComplete t slot s = .next (s.modCtx t slot fun c => { c with tlb := none }) := by
  refine if_neg fun busy => ?_
  obtain ⟨x, tile, busy⟩ := List.any_eq_true.mp busy
  obtain ⟨part, busy⟩ := Bool.and_eq_true_iff.mp busy
  obtain ⟨b, engine, busy⟩ := List.any_eq_true.mp busy
  obtain ⟨y, unit, removed⟩ := List.any_eq_true.mp busy
  exact nomatch (idle x tile (beq_iff_eq.mp part) b engine y unit).symm.trans removed

/-! ## Arrivals (R203, R237, R245, R289, R301, R364) -/

variable {n k dw : Nat} {r : MeshReq}

theorem not_any_of_all_not {α : Type} {l : List α} {p : α → Bool} (all : (l.all fun a => !p a) = true) : ¬l.any p = true := by
  rw [List.any_eq_true]
  rintro ⟨a, member, holds⟩
  have none := List.all_eq_true.mp all a member
  rw [holds] at none
  cases none

section
variable (part : s.arrivals[k]? = some (n, dw)) (req : s.mesh[n]? = some r)
  (first : ((s.mesh.take n).all fun a => !reqBefore s a r dw) = true)
include part req first

theorem meshArrival_lost (gone : s.reachable (r.homeOf dw) = false) :
    execMeshArrival k s = .next { s with mesh := s.mesh.eraseIdx n } := by
  simp only [execMeshArrival, part, req, not_any_of_all_not first, Bool.false_eq_true, if_false, gone, Bool.not_false, if_true]

theorem meshArrival_whole (there : s.reachable (r.homeOf dw) = true) (whole : r.act.units = []) :
    execMeshArrival k s = .next (s.arriveWhole n r) := by
  simp only [execMeshArrival, part, req, not_any_of_all_not first, if_false, there, Bool.not_true, Bool.false_eq_true, whole,
    List.isEmpty_nil, if_true]

theorem meshArrival_part (there : s.reachable (r.homeOf dw) = true) (parts : r.act.units ≠ []) :
    execMeshArrival k s = .next (s.arrivePart n r dw) := by
  simp only [execMeshArrival, part, req, not_any_of_all_not first, if_false, there, Bool.not_true, Bool.false_eq_true,
    List.isEmpty_iff, parts]

end

theorem resultDelivery_delivers (answer : (s.answered t slot)[k]? = some n) (req : s.mesh[n]? = some r) :
    execResultDelivery t slot k s = (
      let u := ({ s with mesh := s.mesh.eraseIdx n } : State).modCtx t slot fun c =>
        if c.taskid = r.task then c.deliver r.dst (r.res.getD .none) true r.latch else c
      .next (match u.heldOf t slot with | some h => u.settle t slot h | none => u)) := by
  simp only [execResultDelivery, answer, req]
  split
  · simp only [*]
  · simp only [*]

theorem sigDelivery_counts {r : SigReq} (sig : s.sigs[k]? = some r) (gone : s.sigGone r = true)
    (held : (s.tileAt r.tile).semGang.getD r.sem none = some r.gang) (there : s.reachable r.tile = true) :
    execSigDelivery k s = .next (({ s with sigs := s.sigs.eraseIdx k } : State).addSem r.tile r.sem r.n) := by
  simp only [execSigDelivery, sig, gone, Bool.not_true, Bool.false_eq_true, if_false]
  exact if_pos (by rw [held, there]; simp)

section
variable {w : PortW} (queued : (s.queuedAt t)[k]? = some n) (write : s.portE[n]? = some w)
  (first : ((s.portE.take n).all fun v => v.home != t || v.dws.all fun d => !w.dws.contains d) = true)
include queued write first

theorem portEWrite_goes : execPortEWriteApply t k s =
    if s.reachable t = true then .next (({ s with portE := s.portE.eraseIdx n } : State).applyW w)
    else .next { s with portE := s.portE.eraseIdx n } := by
  have alone : ¬((s.portE.take n).any fun v => v.home == t && v.dws.any fun d => w.dws.contains d) = true := by
    rw [List.any_eq_true]
    rintro ⟨x, member, clash⟩
    obtain ⟨home, clash⟩ := Bool.and_eq_true_iff.mp clash
    obtain ⟨d, share, both⟩ := List.any_eq_true.mp clash
    have apart := List.all_eq_true.mp first x member
    rw [beq_iff_eq.mp home, bne_self_eq_false, Bool.false_or] at apart
    have none := List.all_eq_true.mp apart d share
    rw [both] at none
    cases none
  simp only [execPortEWriteApply, queued, write, alone, Bool.false_eq_true, if_false]
  cases there : s.reachable t with
  | true => rfl
  | false => rfl

end

theorem applyW_quiet {w : PortW} (quiet : s.quiet = true) : s.applyW w = s.storeAll w.pieces w.marks := by
  rw [State.applyW, State.sramReads_quiet _ quiet, State.takeRead_self]

end

/-! ## The scrubber (R237, R238) -/

section
variable {s : State} {t bank line err : Nat}

theorem scrub_sramCorrect (d : Nat) (n : Nat) : ((s.sramCorrect t d).tileAt n).scrub = (s.tileAt n).scrub := by
  rw [State.sramCorrect, tileAt_modTile]
  split
  · rfl
  · rfl

theorem scrub_sramSpoil (d : Nat) (n : Nat) : ((s.sramSpoil t d).tileAt n).scrub = (s.tileAt n).scrub := by
  rw [State.sramSpoil, tileAt_modTile]
  split
  · rfl
  · rfl

theorem patrolScrub_visits (low : bank < 224) (inside : t < s.tiles.length) (due : (s.tileAt t).scrub.getD bank 0 = line)
    (quiet : s.quiet = true) :
    ∃ u : State, execPatrolScrub t bank line err s = .next u ∧ u.mem = s.mem ∧
      (u.tileAt t).scrub = (s.tileAt t).scrub.set bank ((line + 1) % if bank < 32 then 32768 else 2048) ∧
      (err = 2 → u.poisoned (bankKey t bank line) = true) := by
  have calm : (s.modTile t fun x => { x with scrub := x.scrub.set bank ((line + 1) % if bank < 32 then 32768 else 2048) }).quiet =
    true := quiet
  have visited : ((s.modTile t fun x =>
      { x with scrub := x.scrub.set bank ((line + 1) % if bank < 32 then 32768 else 2048) }).tileAt t).scrub =
      (s.tileAt t).scrub.set bank ((line + 1) % if bank < 32 then 32768 else 2048) :=
    congrArg Tile.scrub ((tileAt_modTile ..).trans (if_pos ⟨rfl, inside⟩))
  have here : ¬(224 ≤ bank ∨ (s.tileAt t).scrub.getD bank 0 ≠ line) := not_or.mpr ⟨Nat.not_le.mpr low, not_not.mpr due⟩
  simp only [execPatrolScrub, here, if_false, State.sramReads_quiet _ calm]
  by_cases single : err = 1
  · refine ⟨_, if_pos single, modTile_mem .., (scrub_sramCorrect ..).trans visited, fun double => ?_⟩
    omega
  by_cases double : err = 2
  · refine ⟨_, (if_neg single).trans (if_pos double), modTile_mem .., (scrub_sramSpoil ..).trans visited, fun _ => ?_⟩
    change poisonAt (setPoison s.poison (8 * (bankKey t bank line / 8)) true) (bankKey t bank line) = true
    rw [poisonAt_setPoison, if_pos (by omega)]
  · exact ⟨_, (if_neg single).trans (if_neg double), modTile_mem .., visited, fun absurd2 => absurd absurd2 double⟩

end

/-! ## Instruction-cache fills (R49 to R51) -/

section
variable {s : State} {t va slot a p : Nat} {second : Bool} {x : CUnit}

theorem beyond_iff {c : Ctx} : c.beyond a = true ↔ c.mode = false ∧ c.clim.toNat ≤ a := by
  rw [Ctx.beyond, Bool.and_eq_true, Bool.not_eq_true', decide_eq_true_iff]

variable (waits : s.fillFor t va = some (slot, a, p, second))
include waits

theorem icacheFill_asks (absent : (s.burinAt t 0).fetchOf .code (va / 4096 * 4096) = none) :
    execInstructionCacheFill t va s =
      .next (s.startFetch t .code (va / 4096 * 4096) 4 (if (s.ctxAt t slot).beyond a = true then 0 else 4096)) := by
  simp only [execInstructionCacheFill, absent, waits]

theorem icacheFill_filled {img : Nat} (fill : (s.burinAt t 0).fetchOf .code (va / 4096 * 4096) = some x)
    (within : (s.ctxAt t slot).beyond a = false) (whole : x.len ≠ 0) (ready : x.st = .ready img) :
    execInstructionCacheFill t va s = .next ((s.dropFetch t 0 x.uid).modTile t fun y =>
      { y with icache := ((va / 4096 * 4096, img) :: y.icache).take 32 }) := by
  simp only [execInstructionCacheFill, fill, waits, within, Bool.false_and, Bool.false_eq_true, if_false, whole, decide_false, ready]

theorem icacheFill_faults {e walk out : Nat} (fill : (s.burinAt t 0).fetchOf .code (va / 4096 * 4096) = some x)
    (within : (s.ctxAt t slot).beyond a = false) (ends : x.len ≠ 0 ∨ e = 1) (failed : x.st = .failed e walk out) :
    execInstructionCacheFill t va s = .next ((s.dropFetch t 0 x.uid).trapEarly t slot (fillFault x p second a)) := by
  have goesOn : (decide (x.len = 0) && !(s.ctxAt t slot).beyond a && x.translated) = false := by
    rcases ends with whole | one
    · rw [decide_eq_false whole, Bool.false_and, Bool.false_and]
    · have untranslated : x.translated = false := by
        rw [CUnit.translated, failed, one]
        rfl
      rw [untranslated, Bool.and_false]
  simp only [execInstructionCacheFill, fill, waits, within, Bool.false_and, Bool.false_eq_true, if_false]
  rw [within] at goesOn
  simp only [goesOn, Bool.false_eq_true, if_false, failed]

theorem icacheFill_goesOn (fill : (s.burinAt t 0).fetchOf .code (va / 4096 * 4096) = some x)
    (within : (s.ctxAt t slot).beyond a = false) (page : x.len = 0) (translated : x.translated = true) :
    execInstructionCacheFill t va s = .next (s.modUnit t 0 x.uid fun y => { y with len := 4096 }).grantAll := by
  simp only [execInstructionCacheFill, fill, waits, within, Bool.false_and, Bool.false_eq_true, if_false, page, decide_true,
    Bool.not_false, Bool.and_self, translated, if_true]

theorem icacheFill_limit (fill : (s.burinAt t 0).fetchOf .code (va / 4096 * 4096) = some x)
    (beyond : (s.ctxAt t slot).beyond a = true) (translated : x.translated = true) :
    execInstructionCacheFill t va s = .next ((if x.len = 0 then s.dropFetch t 0 x.uid else s).trapEarly t slot
      { cause := 0x09, word := p, second := second, faddr := BitVec.ofNat 64 a }) := by
  simp only [execInstructionCacheFill, fill, waits, beyond, translated, Bool.and_self, if_true]
  rfl

end

/-- The fault of a failed fill (R51). -/
theorem fillFault_eq {x : CUnit} {e walk out : Nat} (failed : x.st = .failed e walk out) (p : Nat) (second : Bool) (a : Nat) :
    (fillFault x p second a).word = p ∧ (fillFault x p second a).second = second ∧
      ((fillFault x p second a).cause = if e = 1 then 0x08 else 0x0D) ∧
      (fillFault x p second a).faddr = BitVec.ofNat 64
        (if e = 1 then a / 2 ^ (if x.big then 29 else 16) * 2 ^ (if x.big then 29 else 16) else x.va) := by
  unfold fillFault
  rw [failed]
  split
  next eq =>
    obtain ⟨rfl, -, -⟩ := UnitSt.failed.inj eq
    refine ⟨rfl, rfl, rfl, ?_⟩
    dsimp only
    rw [if_pos rfl, faultPage]
    split
    · rfl
    · rfl
  next other =>
    have more : e ≠ 1 := by
      rintro rfl
      exact other _ _ rfl
    exact ⟨rfl, rfl, (if_neg more).symm, congrArg (BitVec.ofNat 64) (if_neg more).symm⟩

/-- Settles O40: a waiting bundle goes on by the one rule for its waits, and each arrival is run through the lemma for its case. -/
theorem wakesAndArrivals : Obligations.WakesAndArrivals := by
  intro s v u t slot k h pos wakes result ended
  have single : ∀ {i : Instr} {q : WaitKind → Bool} {w : WaitKind} {y : State}, exec i s = .next (s.wakeOn t slot q) → q w = true →
      s.waitEnds t slot w = some y → wakes i w y :=
    fun run kind ends held one => run.trans (congrArg _ (wakeOn_single held one kind ends))
  refine ⟨?_, fun sem n enough => single rfl rfl (if_pos enough), fun d e tag passed => single rfl rfl (if_pos (decide_eq_true passed)),
    fun d seq passed => single rfl rfl (if_pos (decide_eq_true passed)),
    fun d job n status => single rfl rfl (congrArg (Option.map _) status), fun m ready => single rfl rfl (if_pos ready), ?_,
    fun d w addr cls ph start lim last live phase passed => single rfl rfl (waitEnds_bwait (bwaitEnd_limit live phase passed)),
    fun held ending noTrap noBreak noWait => endingWord_released held ending noTrap noBreak noWait,
    fun idle => tlbinv_completes idle, ?_, fun n r answer req => resultDelivery_delivers answer req,
    fun r sig gone held there => sigDelivery_counts sig gone held there, fun n w queued write first => ?_,
    fun bank line err low inside due quiet => patrolScrub_visits low inside due quiet, fun va a p second waits => ?_⟩
  · have general : ∀ {i : Instr} {q : WaitKind → Bool}, exec i s = .next (s.wakeOn t slot q) → s.heldOf t slot = some h →
        (h.waitFor q).isSome = true → (s.endWaits t slot h.waits = none → exec i s = .next s) ∧
          ∀ x, s.endWaits t slot h.waits = some x →
            exec i s = .next (x.settle t slot { h with done := addDone h.done h.waits, waits := [] }) := fun run held waits =>
      ⟨fun none => run.trans (congrArg _ ((wakeOn_of_held held waits).trans (wake_of_waits none))),
        fun x ends => run.trans (congrArg _ ((wakeOn_of_held held waits).trans (wake_of_ends ends)))⟩
    intro e member held waits
    simp only [List.mem_cons, List.not_mem_nil, or_false] at member
    rcases member with rfl | rfl | rfl | rfl | rfl | rfl
    all_goals exact general rfl held waits
  · intro d w addr cls ph start lim last held waiting
    refine ⟨fun l place read => ?_, fun e place => ⟨fun todo => ?_, fun done noTrap => ?_⟩⟩
    · have reads := bwaitRead_reads held waiting place read
      intro w0 x g y ends
      refine ⟨reads, fun gone one => reads.trans (congrArg Host.Outcome.next (wake_bwait one ?_)),
        fun live other one => reads.trans (congrArg Host.Outcome.next (wake_bwait one ?_)),
        fun live same free one => reads.trans (congrArg Host.Outcome.next (wake_bwait one ?_)),
        fun live same limit early one => reads.trans (congrArg Host.Outcome.next (wake_bwait_none one ?_))⟩
      · rw [bwaitEnd_shows, if_pos gone]
        rfl
      · rw [bwaitEnd_shows, if_neg (by rw [live]; decide), if_pos other]
        rfl
      · rw [bwaitEnd_shows, if_neg (by rw [live]; decide), if_neg (not_not.mpr same), if_pos (.inl free)]
        rfl
      · rw [bwaitEnd_shows, if_neg (by rw [live]; decide), if_neg (not_not.mpr same)]
        exact if_neg (not_or.mpr ⟨limit, early⟩)
    · exact (bwaitRead_fails held waiting place).trans (by rw [if_pos todo])
    · refine (bwaitRead_fails held waiting place).trans ?_
      rw [if_neg (by rw [done]; decide), noTrap]
      rfl
  · intro n dw r part req first
    refine ⟨fun gone => meshArrival_lost part req first gone, fun there whole => meshArrival_whole part req first there whole,
      fun there parts => ⟨fun more => (meshArrival_part part req first there parts).trans (congrArg _ (if_pos more)),
        fun last => (meshArrival_part part req first there parts).trans (congrArg _ (if_neg (Nat.not_lt.mpr last)))⟩⟩
  · have goes := portEWrite_goes queued write first
    intro y
    refine ⟨fun gone => goes.trans (if_neg (by rw [gone]; decide)), fun there => goes.trans (if_pos there),
      fun there quiet => goes.trans ((if_pos there).trans (congrArg _ (applyW_quiet quiet)))⟩
  · intro base c limit
    have within : ¬limit → c.beyond a = false := fun below => Bool.eq_false_iff.mpr fun beyond => below (beyond_iff.mp beyond)
    refine ⟨fun absent => ⟨fun above => ?_, fun below => ?_⟩, fun x fill => ⟨
      fun img below whole ready => icacheFill_filled waits fill (within below) whole ready, fun e walk out below ends failed => ?_,
      fun below page translated => icacheFill_goesOn waits fill (within below) page translated, fun above translated => ?_⟩⟩
    · exact (icacheFill_asks waits absent).trans (by rw [if_pos (beyond_iff.mpr above)])
    · exact (icacheFill_asks waits absent).trans (by rw [if_neg (Bool.eq_false_iff.mp (within below))])
    · obtain ⟨word, second', cause, faddr⟩ := fillFault_eq failed p second a
      exact ⟨_, word, second', cause, faddr, icacheFill_faults waits fill (within below) ends failed⟩
    · refine ⟨_, ?_, icacheFill_limit waits fill (beyond_iff.mpr above) translated⟩
      split
      · exact modTile_mem ..
      · rfl

end Sys2Proof.Machine
end

section
/-! SUPPORT. The entry of a trap and the return from it: what the header and the predicates of a record hold, and what is read back. -/

namespace Sys2Proof.Machine

/-! ## The header of a record (R339) -/

/-- The lowest fields of a header, whatever stands above them. -/
theorem headerDw0_low (c : Ctx) (done : Nat) (a b : Bool) :
    bits (headerDw0 c 1 done a b % 2 ^ 64) 0 4 = 1 ∧ bits (headerDw0 c 1 done a b % 2 ^ 64) 8 8 = done % 256 := by
  obtain ⟨rest, nest⟩ : ∃ rest, headerDw0 c 1 done a b = 1 + 2 ^ 8 * (done % 256 + 2 ^ 8 * rest) := ⟨_, headerDw0_nest ..⟩
  rw [nest, bits, bits]
  constructor <;> omega

/-- The fields of a packed header, as numbers. -/
theorem header_fields {d w g q m x y z : Nat} (hd : d < 256) (hw : w < 2) (hg : g < 16) (hq : q < 8) (hm : m < 256) (hx : x < 256)
    (hy : y < 256) (hz : z < 2) {h : Nat}
    (nest : h = 1 + 2 ^ 8 * (d + 2 ^ 8 * (w + 2 ^ 1 * (g + 2 ^ 4 * (q + 2 ^ 3 * (m + 2 ^ 8 * (x + 2 ^ 8 * (y + 2 ^ 9 * (z + 2 ^ 1 * 0))))))))) :
    bits (h % 2 ^ 64) 17 4 = g ∧ bits (h % 2 ^ 64) 21 3 = q ∧ bits (h % 2 ^ 64) 24 8 = m ∧ bits (h % 2 ^ 64) 32 8 = x ∧
      bits (h % 2 ^ 64) 40 8 = y ∧ bits (h % 2 ^ 64) 49 1 = z := by
  simp only [bits]
  refine ⟨?_, ?_, ?_, ?_, ?_, ?_⟩ <;> omega

/-- The fields of a header whose parts fit their places. -/
theorem headerDw0_fields {c : Ctx} {done : Nat} (a : Bool) (lat : c.lat.length = 8) (count : c.gcount < 16) :
    bits (headerDw0 c 1 done a false % 2 ^ 64) 17 4 = c.gcount ∧ bits (headerDw0 c 1 done a false % 2 ^ 64) 21 3 = c.gpred.toNat ∧
      bits (headerDw0 c 1 done a false % 2 ^ 64) 24 8 = c.gmask.toNat ∧
      bits (headerDw0 c 1 done a false % 2 ^ 64) 32 8 = ofBools (c.lat.map fun l => (latImage l).2.2) ∧
      bits (headerDw0 c 1 done a false % 2 ^ 64) 40 8 = ofBools (c.lat.map fun l => (latImage l).2.1) ∧
      bits (headerDw0 c 1 done a false % 2 ^ 64) 49 1 = ofBool a := by
  have marks : ∀ f : Latch → Bool, ofBools (c.lat.map f) < 2 ^ 8 := fun f => by simpa [lat] using ofBools_lt (c.lat.map f)
  have one : ∀ b, ofBool b < 2 := fun b => by cases b <;> decide
  exact header_fields (Nat.mod_lt _ (by decide)) (one _) count c.gpred.isLt c.gmask.isLt (marks _) (marks _) (one _) (headerDw0_nest ..)

/-- A bit of a field. -/
theorem bit_of_bits {x i n : Nat} (lo : Nat) (inside : i < n) : bit x (lo + i) = bit (bits x lo n) i := by
  rw [bit_testBit, bit_testBit, testBit_bits, decide_eq_true inside, Bool.true_and]

/-! ## The predicates of a record (R338) -/

/-- One predicate register in the front of a record. -/
theorem frontImage_preg {c : Ctx} {f : Front} (fits : FrontFits c f) {i : Nat} (hi : i < 8) :
    (frontImage c f).1 / 2 ^ (4096 + 256 * i) % 2 ^ 256 = (if i = 0 then allLanes else c.p.getD i 0).toNat := by
  rw [frontImage_nest, show 4096 + 256 * i = 2048 + (2048 + 256 * i) by ring, slice_hi _ _ _ _ (ofElems_fits _ _ _ (by norm_num)),
    slice_hi _ _ _ _ (ofElems_fits _ _ _ (by simp [Ctx.sImages])),
    slice_lo _ _ _ _ _ (ofElems_fits _ _ _ (by simp [Ctx.pImages, fits.p])) (by omega),
    elem_field_bits 32 256 _ _ rfl (by intro x hx; simp at hx; obtain ⟨a, -, rfl⟩ := hx; exact a.isLt)]
  have inside : i < c.p.length := by rw [fits.p]; exact hi
  rw [getD_at _ _ (by simpa [Ctx.pImages] using inside), getD_at _ _ inside]
  simp [Ctx.pImages]

/-! ## What a trap leaves (R335) -/

section
variable {s : State} {t slot : Nat} {c : Ctx} {tr : Trap} {done : Nat} {npc : Option W64} {lmask : BitVec 64} {snap : Snap}
  (here : s.ctx? t slot = some c) (user : c.mode = false) (area : saveAreaOk (s.tileAt t) slot c = true)
include here user area

theorem ctx?_takeTrap : (s.takeTrap t slot tr done npc lmask snap).ctx? t slot = some (c.enter tr) := by
  have stored : ∀ (k x m : Nat), (s.storeDws k 640 x m).ctx? t slot = some c := fun _ _ _ => here
  rw [takeTrap_eq here user area, ctx?_modCtx, if_pos ⟨rfl, rfl⟩, stored]
  rfl

theorem ctx?_takeTrap_other {x j : Nat} (other : (x, j) ≠ (t, slot)) :
    (s.takeTrap t slot tr done npc lmask snap).ctx? x j = s.ctx? x j := by
  rw [takeTrap_eq here user area, ctx?_modCtx, if_neg (fun both => other (Prod.ext both.1 both.2))]
  rfl

theorem readByte_takeTrap {k : Nat} (outside : k < proofKey t (s.tileAt t) c 0 ∨ proofKey t (s.tileAt t) c 0 + 0x1400 ≤ k) :
    readByte (s.takeTrap t slot tr done npc lmask snap).mem k = readByte s.mem k := by
  rw [takeTrap_eq here user area]
  refine (readByte_writeBlock ..).trans (if_neg ?_)
  omega

/-- A doubleword of the header in the record of a trap. -/
theorem rd_takeTrap_header {i : Nat} (inside : i < 8) :
    (s.takeTrap t slot tr done npc lmask snap).rd (proofKey t (s.tileAt t) c 0 + 8 * i) 8 =
      [headerDw0 c 1 done npc.isSome false % 2 ^ 64, c.pc.toNat, (npc.getD 0).toNat, (causeOf tr).toNat, tr.faddr.toNat, lmask.toNat,
        c.events.toNat, 0].getD i 0 := by
  rw [rd_takeTrap here user area _ _ (by omega), show 8 * (8 * i) = 64 * i by ring]
  exact frontImage_header c _ i inside

theorem rd_takeTrap_sreg {i : Nat} (inside : i < 32) :
    (s.takeTrap t slot tr done npc lmask snap).rd (proofKey t (s.tileAt t) c 0 + 0x100 + 8 * i) 8 = (c.sreg i).v.toNat := by
  rw [Nat.add_assoc, rd_takeTrap here user area _ _ (by omega), show 8 * (0x100 + 8 * i) = 2048 + 64 * i by ring]
  exact frontImage_sreg c _ i inside

theorem rd_takeTrap_first : (s.takeTrap t slot tr done npc lmask snap).rd (proofKey t (s.tileAt t) c 0) 8 =
    headerDw0 c 1 done npc.isSome false % 2 ^ 64 := by
  have header := rd_takeTrap_header here user area (i := 0) (tr := tr) (done := done) (npc := npc) (lmask := lmask) (snap := snap)
    (by decide)
  rw [Nat.mul_zero, Nat.add_zero] at header
  rw [header, List.getD_cons_zero]

end

/-- Settles O41: the trap is one store of the record and one entry, whose fields are read off the record's image. -/
theorem trapEntry : Obligations.TrapEntry := by
  intro s t slot c tr done npc lmask snap here user area u base
  obtain ⟨kind, words⟩ := headerDw0_low c done npc.isSome false
  have header : u.rd base 8 = headerDw0 c 1 done npc.isSome false % 2 ^ 64 := rd_takeTrap_first here user area
  rw [← header] at kind words
  refine ⟨(ctx?_takeTrap here user area).trans ?_, fun k outside => readByte_takeTrap here user area outside, kind, words, ?_, ?_,
    fun i inside => rd_takeTrap_sreg here user area inside, fun x j other => ctx?_takeTrap_other here user area other⟩
  · rw [Ctx.enter, user, causeOf, ofBool]
  · exact rd_takeTrap_header here user area (i := 1) (by decide)
  · exact rd_takeTrap_header here user area (i := 4) (by decide)

end Sys2Proof.Machine
end

section
/-! SUPPORT. The return from a trap: what its record gives back. -/

namespace Sys2Proof.Machine

/-! ## Contexts and save areas (R337) -/

theorem saveAreaOk_congr {x y : Tile} {c d : Ctx} {slot : Nat} (map : x.rmap = y.rmap) (proof : c.proof = d.proof) :
    saveAreaOk x slot c = saveAreaOk y slot d := by
  simp only [saveAreaOk, Tile.entry, map, proof]

theorem proofKey_congr {x y : Tile} {c d : Ctx} {t off : Nat} (map : x.rmap = y.rmap) (proof : c.proof = d.proof) :
    proofKey t x c off = proofKey t y d off := by
  simp only [proofKey, Tile.entry, map, proof]

theorem rmap_modCtx (s : State) (t k n : Nat) (f : Ctx → Ctx) : ((s.modCtx t k f).tileAt n).rmap = (s.tileAt n).rmap := by
  rw [tileAt_modCtx]
  split
  · rfl
  · rfl

theorem bit_ofBool (b : Bool) : bit (ofBool b) 0 = b := by
  cases b
  · decide
  · decide

/-! ## What is read back (R338 to R340) -/

section
variable {s : State} {t slot : Nat} {c : Ctx} {tr : Trap} {done : Nat} {npc : Option W64} {lmask : BitVec 64} {snap : Snap}
  (here : s.ctx? t slot = some c) (user : c.mode = false) (area : saveAreaOk (s.tileAt t) slot c = true)
include here user area

theorem rmap_takeTrap : ((s.takeTrap t slot tr done npc lmask snap).tileAt t).rmap = (s.tileAt t).rmap := by
  rw [takeTrap_eq here user area, rmap_modCtx]
  rfl

theorem saveAreaOk_takeTrap : saveAreaOk ((s.takeTrap t slot tr done npc lmask snap).tileAt t) slot (c.enter tr) = true :=
  (saveAreaOk_congr (rmap_takeTrap here user area) rfl).trans area

theorem proofKey_takeTrap (off : Nat) :
    proofKey t ((s.takeTrap t slot tr done npc lmask snap).tileAt t) (c.enter tr) off = proofKey t (s.tileAt t) c off :=
  proofKey_congr (rmap_takeTrap here user area) rfl

variable (fits : FrontFits c (trapFront tr done npc lmask snap c))
include fits

/-- A scalar register that a trap saved is read back. -/
theorem rdS_takeTrap {i : Nat} (inside : i < 32) :
    (s.takeTrap t slot tr done npc lmask snap).rdS (proofKey t (s.tileAt t) c 0 + 0x100 + 8 * i) = c.sreg i := by
  have value := rd_takeTrap_sreg here user area (tr := tr) (done := done) (npc := npc) (lmask := lmask) (snap := snap) inside
  have mark := poisonAt_takeTrap here user area (tr := tr) (done := done) (npc := npc) (lmask := lmask) (snap := snap) (32 + i) (by omega)
  rw [frontMarks_sreg c _ fits i inside, show 8 * (32 + i) = 0x100 + 8 * i by ring, ← Nat.add_assoc] at mark
  rw [State.rdS, value, State.poisoned, mark, BitVec.ofNat_toNat, BitVec.setWidth_eq]

/-- A predicate register that a trap saved is read back. -/
theorem rd_takeTrap_preg {i : Nat} (inside : i < 8) :
    (s.takeTrap t slot tr done npc lmask snap).rd (proofKey t (s.tileAt t) c 0 + 0x200 + 32 * i) 32 =
      (if i = 0 then allLanes else c.p.getD i 0).toNat := by
  rw [Nat.add_assoc, rd_takeTrap here user area _ _ (by omega), show 8 * (0x200 + 32 * i) = 4096 + 256 * i by ring]
  exact frontImage_preg fits inside

/-- A latch that a trap saved is read back with its marks. -/
theorem rdV_takeTrap {q : Nat} (inside : q < 8) :
    (s.takeTrap t slot tr done npc lmask snap).rdV (proofKey t (s.tileAt t) c 0 + 0x400 + 256 * q) =
      (latImage (c.lat.getD q .empty)).1 := by
  have value := rd_takeTrap here user area (tr := tr) (done := done) (npc := npc) (lmask := lmask) (snap := snap) (0x400 + 256 * q) 256
    (by omega)
  rw [show 8 * (0x400 + 256 * q) = 8192 + 2048 * q by ring, show 8 * 256 = 2048 from rfl, frontImage_latch c _ fits q inside,
    ← Nat.add_assoc] at value
  have marks : poisonBits (s.takeTrap t slot tr done npc lmask snap).poison (proofKey t (s.tileAt t) c 0 + 0x400 + 256 * q) 32 =
      (latImage (c.lat.getD q .empty)).1.p.toNat % 2 ^ 32 := by
    refine poisonBits_eq _ _ _ _ fun j hj => ?_
    have mark := poisonAt_takeTrap here user area (tr := tr) (done := done) (npc := npc) (lmask := lmask) (snap := snap)
      (128 + 32 * q + j) (by omega)
    rw [frontMarks_latch c _ fits q inside j hj] at mark
    rw [← mark]
    congr 1
    omega
  rw [State.rdV, value, marks, Nat.mod_eq_of_lt (BitVec.isLt _), BitVec.ofNat_toNat, BitVec.setWidth_eq, BitVec.ofNat_toNat,
    BitVec.setWidth_eq]

omit fits in
theorem bit_header_valid (lat : c.lat.length = 8) (count : c.gcount < 16) {q : Nat} (inside : q < 8) :
    bit ((s.takeTrap t slot tr done npc lmask snap).rd (proofKey t (s.tileAt t) c 0) 8) (40 + q) = (latImage (c.lat.getD q .empty)).2.1 := by
  obtain ⟨-, -, -, -, valid, -⟩ := headerDw0_fields (done := done) npc.isSome lat count
  rw [rd_takeTrap_first here user area, bit_of_bits 40 inside, valid, bit_ofBools, getD_at _ _ (by simpa [lat] using inside),
    getD_at _ _ (by rw [lat]; exact inside), List.getElem_map]

omit fits in
theorem bit_header_scalar (lat : c.lat.length = 8) (count : c.gcount < 16) {q : Nat} (inside : q < 8) :
    bit ((s.takeTrap t slot tr done npc lmask snap).rd (proofKey t (s.tileAt t) c 0) 8) (32 + q) = (latImage (c.lat.getD q .empty)).2.2 := by
  obtain ⟨-, -, -, scalars, -⟩ := headerDw0_fields (done := done) npc.isSome lat count
  rw [rd_takeTrap_first here user area, bit_of_bits 32 inside, scalars, bit_ofBools, getD_at _ _ (by simpa [lat] using inside),
    getD_at _ _ (by rw [lat]; exact inside), List.getElem_map]

/-- The latches and the predicate block that a trap saved are read back. -/
theorem loadLatches_takeTrap (count : c.gcount < 16) (d : Ctx) :
    let v := (s.takeTrap t slot tr done npc lmask snap).loadLatches (proofKey t (s.tileAt t) c 0) d
    v.lat = c.lat ∧ v.gcount = c.gcount ∧ v.gmask = c.gmask ∧ v.gpred = c.gpred := by
  obtain ⟨counted, pred, mask, -⟩ := headerDw0_fields (done := done) npc.isSome fits.lat count
  simp only [State.loadLatches]
  rw [rd_takeTrap_first here user area] at *
  refine ⟨List.ext_getElem (by simp [fits.lat]) fun q left right => ?_, counted, ?_, ?_⟩
  · have inside : q < 8 := by simpa using left
    have valid := bit_header_valid here user area (tr := tr) (done := done) (npc := npc) (lmask := lmask) (snap := snap) fits.lat count inside
    have scalar := bit_header_scalar here user area (tr := tr) (done := done) (npc := npc) (lmask := lmask) (snap := snap) fits.lat count
      inside
    rw [rd_takeTrap_first here user area] at valid scalar
    rw [List.getElem_map, List.getElem_range, rdV_takeTrap here user area fits inside, valid, scalar, latOf_image, getD_at _ _ right]
  · rw [mask, BitVec.ofNat_toNat, BitVec.setWidth_eq]
  · rw [pred, BitVec.ofNat_toNat, BitVec.setWidth_eq]

/-- The scalar and predicate registers that a trap saved are read back. -/
theorem loadRegs_takeTrap {d : Ctx} (turn : d.prb = c.prb) :
    let v := (s.takeTrap t slot tr done npc lmask snap).loadRegs (proofKey t (s.tileAt t) c 0) d
    (∀ i < 32, v.sreg i = c.sreg i) ∧ ∀ i < 8, v.preg i = c.preg i := by
  intro v
  refine ⟨fun i inside => ?_, fun i inside => ?_⟩
  · by_cases zero : i = 0
    · simp only [Ctx.sreg, zero, if_true]
    · have loaded : v.s.getD i {} = c.sreg i := by
        simp only [v, State.loadRegs]
        rw [getD_at _ _ (by simpa using inside), List.getElem_map, List.getElem_range, if_neg zero,
          rdS_takeTrap here user area fits inside]
      rw [Ctx.sreg, if_neg zero, loaded]
  · by_cases zero : i = 0
    · simp only [Ctx.preg, zero, if_true]
    · have place : physP c.prb i < 8 ∧ physP c.prb i ≠ 0 := by
        unfold physP
        split <;> omega
      have turned : v.prb = c.prb := turn
      have loaded : v.p.getD (physP c.prb i) 0 = c.p.getD (physP c.prb i) 0 := by
        simp only [v, State.loadRegs]
        rw [getD_at _ _ (by simpa using place.1), List.getElem_map, List.getElem_range, if_neg place.2,
          rd_takeTrap_preg here user area fits place.1, if_neg place.2, BitVec.ofNat_toNat, BitVec.setWidth_eq]
      rw [Ctx.preg, Ctx.preg, if_neg zero, if_neg zero, turned, loaded]

/-- The resumption that the record of a trap describes. -/
theorem loadResume_takeTrap (count : c.gcount < 16) (words : done < 256) (known : Nat) :
    let r := (s.takeTrap t slot tr done npc lmask snap).loadResume (proofKey t (s.tileAt t) c 0) known
    r.done = done ∧ r.lmask = lmask ∧ r.npc = npc := by
  obtain ⟨-, -, -, -, -, target⟩ := headerDw0_fields (done := done) npc.isSome fits.lat count
  have mask := rd_takeTrap_header here user area (i := 5) (tr := tr) (done := done) (npc := npc) (lmask := lmask) (snap := snap) (by decide)
  have next := rd_takeTrap_header here user area (i := 2) (tr := tr) (done := done) (npc := npc) (lmask := lmask) (snap := snap) (by decide)
  have link : bit (headerDw0 c 1 done npc.isSome false % 2 ^ 64) 49 = npc.isSome := by
    rw [bit_of_bits 49 (by decide : 0 < 1), target]
    exact bit_ofBool _
  simp only [State.loadResume, rd_takeTrap_first here user area]
  refine ⟨?_, ?_, ?_⟩
  · rw [(headerDw0_low c done npc.isSome false).2]
    exact Nat.mod_eq_of_lt words
  · exact (congrArg (BitVec.ofNat 64) mask).trans (by simp)
  · rw [link]
    cases npc with
    | none => rfl
    | some x => exact congrArg some ((congrArg (BitVec.ofNat 64) next).trans (by simp))

end

/-- Settles O42: what the record of the trap holds is read back part by part. -/
theorem trapThenReturn : Obligations.TrapThenReturn := by
  intro s t slot c tr done npc lmask snap here user area lat preds count words sources
  have fits : FrontFits c (trapFront tr done npc lmask snap c) := ⟨lat, preds, sources⟩
  have base := proofKey_takeTrap here user area (tr := tr) (done := done) (npc := npc) (lmask := lmask) (snap := snap) 0
  have header := rd_takeTrap_first here user area (tr := tr) (done := done) (npc := npc) (lmask := lmask) (snap := snap)
  have pc := rd_takeTrap_header here user area (i := 1) (tr := tr) (done := done) (npc := npc) (lmask := lmask) (snap := snap) (by decide)
  have returned := returnTrap_eq (ctx?_takeTrap here user area (tr := tr) (done := done) (npc := npc) (lmask := lmask) (snap := snap))
    (saveAreaOk_takeTrap here user area) (by rw [base, header]; exact (headerDw0_low c done npc.isSome false).1)
    (by rw [base]; exact pc.symm)
  rw [base] at returned
  obtain ⟨sregs, pregs⟩ := loadRegs_takeTrap here user area fits (d := c.enter tr) rfl
  obtain ⟨lats, counted, mask, pred⟩ := loadLatches_takeTrap here user area fits count
    { (s.takeTrap t slot tr done npc lmask snap).loadRegs (proofKey t (s.tileAt t) c 0) (c.enter tr) with
      mode := (c.enter tr).pmode, pc := (c.enter tr).epc, afterXret := true }
  obtain ⟨done', lmask', npc'⟩ := loadResume_takeTrap here user area fits count words (c.enter tr).known
  exact ⟨_, returned, user, rfl, lats, counted, mask, pred, sregs, pregs, rfl, _, rfl, done', lmask', npc'⟩

end Sys2Proof.Machine
end

section
/-! SUPPORT. Proof faults, asynchronous traps and completion handlers. -/

namespace Sys2Proof.Machine

/-! ## Contexts over changes beside them -/

section
variable {s u : State} {t slot : Nat} {c : Ctx}

theorem ctx?_of_tiles (same : u.tiles = s.tiles) (x j : Nat) : u.ctx? x j = s.ctx? x j := by
  rw [State.ctx?, State.ctx?, State.tileAt, State.tileAt, same]

theorem tileAt_of_tiles (same : u.tiles = s.tiles) (x : Nat) : u.tileAt x = s.tileAt x := by
  rw [State.tileAt, State.tileAt, same]

/-! ## Proof faults (R336) -/

theorem ctx?_stopCopies (e : Nat) (hit : Copy → Bool) (code x j : Nat) : (s.stopCopies t e hit code).ctx? x j = s.ctx? x j :=
  ctx?_modTile_of_ctx s t (f := fun y => { y with burin := updAt (fun b => b.stopAll hit code) e y.burin }) (fun _ => rfl) x j

/-- An abort of its matrix commands shows in the matrix status of a context alone. -/
theorem ctx?_abortMatrix (here : s.ctx? t slot = some c) :
    ∃ e m, (s.abortMatrix t slot).ctx? t slot = some { c with merr := e, mrstall := m } := by
  have tile : (s.abortMatrix t slot).tileAt t = ((s.tileAt t).abortMatrix slot).popMatrix :=
    (tileAt_modTile ..).trans (if_pos ⟨rfl, tile_lt_of_ctx here⟩)
  have kept : (s.abortMatrix t slot).ctx? t slot = ((s.tileAt t).abortMatrix slot).ctx.getD slot none :=
    (congrArg (fun x : Tile => x.ctx.getD slot none) tile).trans rfl
  rw [kept]
  unfold Tile.abortMatrix
  dsimp only
  split
  · have there : slot < (s.tileAt t).ctx.length := by
      by_contra absent
      rw [State.ctx?, List.getD_eq_default _ _ (Nat.le_of_not_lt absent)] at here
      cases here
    rw [getD_updAt, if_pos ⟨rfl, there⟩]
    exact ⟨_, _, congrArg (Option.map _) here⟩
  · exact ⟨_, _, here⟩

theorem ctx?_proofFault (here : s.ctx? t slot = some c) (n : Nat) :
    ∃ v, (s.proofFault t slot n).ctx? t slot = some v ∧ v.stopped = true ∧ v.pc = c.pc := by
  have marked : (s.modCtx t slot fun c => { c with stopped := true, held := none, resume := none }).ctx? t slot =
      some { c with stopped := true, held := none, resume := none } := by
    rw [ctx?_modCtx, if_pos ⟨rfl, rfl⟩, here]
    rfl
  obtain ⟨e, m, aborted⟩ := ctx?_abortMatrix marked
  refine ⟨{ c with stopped := true, held := none, resume := none, merr := e, mrstall := m },
    (ctx?_of_tiles (tileEvent_tiles ..) t slot).trans ?_, rfl, rfl⟩
  unfold State.stopCtx
  dsimp only
  rw [ctx?_stopCopies, ctx?_stopCopies]
  exact aborted

theorem takeTrap_faults {tr : Trap} {done : Nat} {npc : Option W64} {lmask : BitVec 64} {snap : Snap} (here : s.ctx? t slot = some c)
    (faults : c.mode = true ∨ saveAreaOk (s.tileAt t) slot c = false) :
    s.takeTrap t slot tr done npc lmask snap = s.proofFault t slot tr.cause := by
  unfold State.takeTrap
  rw [ctxAt_of_some here]
  refine if_pos ?_
  rcases faults with mode | area
  · rw [mode]
    rfl
  · rw [area, Bool.not_false, Bool.or_true]

theorem returnTrap_faults (here : s.ctx? t slot = some c) (area : saveAreaOk (s.tileAt t) slot c = true)
    (empty : bits (s.rd (proofKey t (s.tileAt t) c 0) 8) 0 4 ≠ 1) :
    s.returnTrap t slot = (s.fresh.2).proofFault t slot (Config.proofCause s.fresh.1).toNat := by
  unfold State.returnTrap State.returnFrom
  rw [ctxAt_of_some here]
  exact (if_neg (by rw [area]; decide)).trans (if_pos empty)

/-! ## The entry of a bundle's trap (R243, R335) -/

theorem ctx?_mapWrites (here : s.ctx? t slot = some c) : (s.mapWrites t slot).ctx? t slot = some { c with mapNew := [] } := by
  unfold State.mapWrites
  rw [ctxAt_of_some here]
  split
  next none =>
    rw [here, ← none]
  next =>
    have same : ∀ (l : List (Nat × W64)) (y : Tile), (l.foldl Tile.mapSet y).ctx = y.ctx := fun l => by
      induction l with
      | nil => exact fun _ => rfl
      | cons w l ih => exact fun y => ih (y.mapSet w)
    rw [ctx?_modCtx, if_pos ⟨rfl, rfl⟩, ctx?_modTile_of_ctx s t (same _), here]
    rfl

/-- The region map that the writes of a bundle leave. -/
def mapAfter (l : List (Nat × W64)) (map : List W64) : List W64 :=
  l.foldl (fun m w => updAt (fun e => (e &&& 0x1800000000000000) ||| (w.2 &&& rmapRW)) w.1 m) map

theorem rmap_foldl_mapSet (l : List (Nat × W64)) (y : Tile) : (l.foldl Tile.mapSet y).rmap = mapAfter l y.rmap := by
  induction l generalizing y with
  | nil => rfl
  | cons w l ih => exact ih (y.mapSet w)

theorem rmap_mapWrites (here : s.ctx? t slot = some c) :
    ((s.mapWrites t slot).tileAt t).rmap = mapAfter c.mapNew (s.tileAt t).rmap := by
  unfold State.mapWrites
  rw [ctxAt_of_some here]
  split
  next none =>
    rw [none]
    rfl
  next =>
    rw [rmap_modCtx, tileAt_modTile, if_pos ⟨rfl, tile_lt_of_ctx here⟩, rmap_foldl_mapSet]

/-- A trap that its context takes in user mode is entered by its record. -/
theorem ctx?_enterHeld {h : Held} {tr : Trap} (here : s.ctx? t slot = some c) (user : c.mode = false)
    (area : saveAreaOk ((s.mapWrites t slot).tileAt t) slot c = true) :
    (s.enterHeld t slot h tr).ctx? t slot = some { ({ c with mapNew := [] } : Ctx).enter tr with known := h.known } := by
  unfold State.enterHeld
  rw [ctx?_modCtx, if_pos ⟨rfl, rfl⟩, ctx?_takeTrap (ctx?_mapWrites here) user ((saveAreaOk_congr rfl rfl).trans area)]
  rfl

/-! ## Asynchronous traps (R335, R336, R353) -/

/-- A context whose bundle, issued again `n` times, is credited. -/
def Ctx.credited (c : Ctx) (n : Nat) : Ctx :=
  { c with bundles := c.bundles + 1, replays := c.replays + BitVec.ofNat 64 n, issueNo := 1, detections := 0, injDet := 0 }

theorem ctx?_credit (here : s.ctx? t slot = some c) (commits : Bool) :
    (s.credit t slot commits).ctx? t slot = some (c.credited ((s.ctxAt t slot).issueNo - 1)) := by
  unfold State.credit
  refine (ctx?_modTile_of_ctx _ t ?_ t slot).trans ?_
  · exact fun _ => rfl
  · rw [ctx?_modCtx, if_pos ⟨rfl, rfl⟩, here]
    rfl

theorem rmap_credit (commits : Bool) : ((s.credit t slot commits).tileAt t).rmap = (s.tileAt t).rmap := by
  unfold State.credit
  dsimp only
  rw [tileAt_modTile]
  split
  · exact rmap_modCtx ..
  · exact rmap_modCtx ..

/-- What a context leaves of the bundle at its boundary, or of the one that it holds, as an asynchronous trap is entered. -/
def State.leftFor (s : State) (t slot : Nat) (c : Ctx) : State × Held :=
  let s := if c.held.isSome then s.credit t slot false else s
  (s, match c.held with
    | some h => { h with done := h.left, waits := [], ending := none, brk := none }
    | none => s.leftNow t slot)

theorem leftFor_keeps (here : s.ctx? t slot = some c) : ∃ d, (s.leftFor t slot c).1.ctx? t slot = some d ∧ d.mode = c.mode ∧
    d.tvec = c.tvec ∧ d.pc = c.pc ∧ d.proof = c.proof ∧ d.mapNew = c.mapNew ∧
    ((s.leftFor t slot c).1.tileAt t).rmap = (s.tileAt t).rmap := by
  unfold State.leftFor
  dsimp only
  split
  · exact ⟨_, ctx?_credit here false, rfl, rfl, rfl, rfl, rfl, rmap_credit false⟩
  · exact ⟨c, here, rfl, rfl, rfl, rfl, rfl, rfl⟩

theorem asyncTrap_enters {cause : Nat} {addr : W64} {rest : List (Nat × W64)} (here : s.ctx? t slot = some c)
    (due : c.asyncTraps = (cause, addr) :: rest) (ready : c.asyncReady = true) :
    execAsyncTrapDelivery t slot s = .next (((s.leftFor t slot c).1.modCtx t slot fun c => { c with asyncTraps := rest }).enterHeld t slot
      (s.leftFor t slot c).2 { cause := cause, word := 0, second := false, faddr := addr }) := by
  simp only [execAsyncTrapDelivery, ctxAt_of_some here, due, ready, Bool.not_true, Bool.false_eq_true, if_false]
  rfl

theorem mode_of_asyncReady (ready : c.asyncReady = true) : c.mode = false := by
  simp only [Ctx.asyncReady, Bool.and_eq_true, Bool.not_eq_true'] at ready
  exact ready.1.1.1.1.1.2

theorem asyncTrap_entered {cause : Nat} {addr : W64} {rest : List (Nat × W64)} (here : s.ctx? t slot = some c)
    (due : c.asyncTraps = (cause, addr) :: rest) (ready : c.asyncReady = true)
    (area : saveAreaOk ((s.mapWrites t slot).tileAt t) slot c = true) :
    ∃ u v, execAsyncTrapDelivery t slot s = .next u ∧ u.ctx? t slot = some v ∧ v.mode = true ∧ v.pc = c.tvec ∧ v.epc = c.pc ∧
      v.cause = BitVec.ofNat 64 cause ∧ v.faddr = addr ∧ v.asyncTraps = rest := by
  obtain ⟨d, left, mode, tvec, pc, proof, map, rmap⟩ := leftFor_keeps here
  have told : ((s.leftFor t slot c).1.modCtx t slot fun c => { c with asyncTraps := rest }).ctx? t slot =
      some { d with asyncTraps := rest } := by
    rw [ctx?_modCtx, if_pos ⟨rfl, rfl⟩, left]
    rfl
  have map' : ((((s.leftFor t slot c).1.modCtx t slot fun c => { c with asyncTraps := rest }).mapWrites t slot).tileAt t).rmap =
      ((s.mapWrites t slot).tileAt t).rmap := by
    rw [rmap_mapWrites told, rmap_mapWrites here, rmap_modCtx, rmap]
    exact congrArg (fun l => mapAfter l _) map
  refine ⟨_, _, asyncTrap_enters here due ready, ctx?_enterHeld told (mode.trans (mode_of_asyncReady ready))
    ((saveAreaOk_congr map' proof).trans area), rfl, tvec, pc, ?_, rfl, rfl⟩
  exact congrArg (BitVec.ofNat 64) (by simp [ofBool])

/-! ## Completion handlers (R81, R323, R324) -/

/-- A WAITEV is what a word waits in. -/
def WaitKind.isWaitev : WaitKind → Bool
  | .waitev _ => true
  | _ => false

theorem handler_atBoundary (here : s.ctx? t slot = some c) (ready : c.handlerReady = true) (free : c.held = none) :
    execCompletionHandlerEntry t slot s = .next (s.modCtx t slot fun c => c.enterHandler c.resume) := by
  simp only [execCompletionHandlerEntry, ctxAt_of_some here, ready, free, Bool.not_true, Bool.false_eq_true, if_false]

/-- A context whose handler is ready as it stands, or as its bundle has gone on without its WAITEV. -/
def State.handlerAfter (u : State) (t slot : Nat) : State :=
  if (u.ctxAt t slot).handlerReady then u.modCtx t slot fun c => match c.held with
    | none => c.enterHandler c.resume
    | some g => c.enterHandler g.back
  else u

theorem handler_inWait {h : Held} (here : s.ctx? t slot = some c) (ready : c.handlerReady = true) (held : c.held = some h) :
    execCompletionHandlerEntry t slot s = match h.waitFor WaitKind.isWaitev with
      | some (pos, .waitev m) => .next (((s.modCtx t slot fun c => c.clearEvents m).endWait t slot h pos).handlerAfter t slot)
      | _ => .next (s.modCtx t slot fun c => c.enterHandler h.back) := by
  simp only [execCompletionHandlerEntry, ctxAt_of_some here, ready, held, Bool.not_true, Bool.false_eq_true, if_false]
  rfl

theorem handler_enters (here : s.ctx? t slot = some c) (ready : c.handlerReady = true)
    (waits : ∀ h ∈ c.held, ∀ w ∈ h.waits, ∀ m, w.2 ≠ .waitev m) :
    ∃ r : Ctx → Option Resume, execCompletionHandlerEntry t slot s = .next (s.modCtx t slot fun c => c.enterHandler (r c)) := by
  cases held : c.held with
  | none => exact ⟨fun c => c.resume, handler_atBoundary here ready held⟩
  | some h =>
    have absent : h.waitFor WaitKind.isWaitev = none := by
      refine List.find?_eq_none.mpr fun w member kind => ?_
      cases eq : w.2 with
      | waitev m => exact waits h held w member m eq
      | _ => rw [eq] at kind; cases kind
    refine ⟨fun _ => h.back, (handler_inWait here ready held).trans ?_⟩
    rw [absent]

theorem handler_state (here : s.ctx? t slot = some c) (r : Ctx → Option Resume) :
    ∃ v, (s.modCtx t slot fun c => c.enterHandler (r c)).ctx? t slot = some v ∧ v.pc = c.chvec ∧ v.chActive = true ∧ v.hsPc = c.pc ∧
      (25 ≤ c.s.length → (v.sreg 24).v = c.chPend.setWidth 64) := by
  refine ⟨c.enterHandler (r c), ?_, rfl, rfl, rfl, fun wide => ?_⟩
  · rw [ctx?_modCtx, if_pos ⟨rfl, rfl⟩, here]
    rfl
  · have set : (c.s.set 24 { v := c.chPend.setWidth 64 }).getD 24 {} = { v := c.chPend.setWidth 64 } := by
      rw [getD_at _ _ (by rw [List.length_set]; exact wide), List.getElem_set_self]
    exact congrArg SVal.v set

theorem handlerAfter_eq (u : State) : u.handlerAfter t slot =
    if (u.ctxAt t slot).handlerReady = true then u.modCtx t slot fun c =>
      c.enterHandler (match c.held with | none => c.resume | some g => g.back) else u := by
  have back : ∀ c : Ctx, (match c.held with | none => c.enterHandler c.resume | some g => c.enterHandler g.back) =
      c.enterHandler (match c.held with | none => c.resume | some g => g.back) := by
    intro c
    cases c.held with
    | none => rfl
    | some g => rfl
  unfold State.handlerAfter
  exact congrArg (fun f => if (u.ctxAt t slot).handlerReady = true then u.modCtx t slot f else u) (funext back)

theorem handler_after_waitev {h : Held} {pos : Nat} {m : BitVec 6} (here : s.ctx? t slot = some c) (ready : c.handlerReady = true)
    (held : c.held = some h) (waits : h.waitFor WaitKind.isWaitev = some (pos, .waitev m)) :
    execCompletionHandlerEntry t slot s =
      .next (((s.modCtx t slot fun c => c.clearEvents m).endWait t slot h pos).handlerAfter t slot) := by
  rw [handler_inWait here ready held, waits]

end

/-- Settles O43: a proof fault only stops its context; a trap or a handler is entered with what its context left. -/
theorem proofFaultsAndHandlers : Obligations.ProofFaultsAndHandlers := by
  intro s t slot c here
  refine ⟨fun tr done npc lmask snap faults => takeTrap_faults here faults, fun n => ctx?_proofFault here n,
    fun n => State.proofFault_frame s t slot n, fun area empty => ?_,
    fun cause addr rest due ready area => asyncTrap_entered here due ready area, fun ready waits => ?_,
    fun h pos m ready held waits => ?_⟩
  · rw [returnTrap_faults here area empty]
    obtain ⟨v, faulted, stopped, -⟩ := ctx?_proofFault (s := s.fresh.2) here (Config.proofCause s.fresh.1).toNat
    rw [ctxAt_of_some faulted]
    exact ⟨stopped, (State.proofFault_frame ..).1⟩
  · obtain ⟨r, run⟩ := handler_enters here ready waits
    obtain ⟨v, entered, pc, active, back, pend⟩ := handler_state here r
    exact ⟨_, v, run, entered, pc, active, back, pend, modCtx_mem ..⟩
  · exact (handler_after_waitev here ready held waits).trans (congrArg Host.Outcome.next (handlerAfter_eq _))

end Sys2Proof.Machine
end

section
/-! SUPPORT. What a port does with the flits that come to it. -/

namespace Sys2Proof.Machine

/-! ## A state with one port put in place -/

/-- A state with port `p` at `y`. -/
def State.setPort (s : State) (p : Nat) (y : Port) : State := s.modPort p fun _ => y

section
variable {s : State} {p : Nat} {x y : Port} {f : Flit}

theorem modPort_eq_setPort (s : State) (p : Nat) (g : Port → Port) : s.modPort p g = s.setPort p (g (s.portAt p)) := by
  have same : updAt g p s.ports = updAt (fun _ => g (s.portAt p)) p s.ports := updAt_congr (d := {}) fun _ => rfl
  rw [State.setPort, State.modPort, same]
  rfl

theorem modPort_setPort (s : State) (p : Nat) (y : Port) (g : Port → Port) : (s.setPort p y).modPort p g = s.setPort p (g y) :=
  congrArg (fun l : List Port => { s with ports := l }) (updAt_updAt _ _ p s.ports)

theorem setPort_setPort (s : State) (p : Nat) (y z : Port) : (s.setPort p y).setPort p z = s.setPort p z :=
  modPort_setPort s p y _

theorem portAt_setPort (inside : p < s.ports.length) (y : Port) : (s.setPort p y).portAt p = y :=
  (getD_updAt _ p p s.ports {}).trans (if_pos ⟨rfl, inside⟩)

theorem setPort_portAt (s : State) (p : Nat) : s.setPort p (s.portAt p) = s := by
  have same : updAt (fun _ => s.portAt p) p s.ports = s.ports :=
    (updAt_congr (f := fun _ => s.portAt p) (g := id) (d := {}) fun _ => rfl).trans (updAt_id p s.ports)
  rw [State.setPort, State.modPort, same]

theorem setPort_mem (s : State) (p : Nat) (y : Port) : (s.setPort p y).mem = s.mem := rfl

/-! ## Flits that go out (R377, R378, R380) -/

/-- The flits `l` have gone out at a port, each with a number, and stay in the replay buffer. -/
structure Port.Sent (x y : Port) (l : List Flit) : Prop where
  same : ∃ n o, y = { x with txSeq := n, out := o, replay := x.replay ++ l, sent := x.sent ++ l }
  quiet : x.out = [] → l = []

theorem Port.Sent.refl (x : Port) : x.Sent x [] := ⟨⟨x.txSeq, x.out, by rw [List.append_nil, List.append_nil]⟩, fun _ => rfl⟩

/-- A port from whose queue a flit has gone out. -/
def Port.put (x : Port) (f : Flit) (r : List Flit) : Port :=
  { x with out := r, txSeq := (x.txSeq + 1) % 4096, replay := x.replay ++ [f], sent := x.sent ++ [f] }

theorem Port.Sent.cons {g : Flit} {r l : List Flit} (rest : (x.put g r).Sent y l) (waits : x.out ≠ []) : x.Sent y (g :: l) := by
  obtain ⟨n, o, same⟩ := rest.same
  refine ⟨⟨n, o, same.trans ?_⟩, fun empty => absurd empty waits⟩
  rw [Port.put, List.append_assoc, List.append_assoc]
  rfl

theorem putFlit_setPort (s : State) (p : Nat) (x : Port) (f : Flit) (r : List Flit) :
    ((s.setPort p x).modPort p fun x => { x with out := r }).putFlit p f false =
      s.setPort p (x.put (flitSealed { f with ack := x.rxSeq, seq := x.txSeq }) r) := by
  rw [State.putFlit, modPort_setPort, modPort_setPort]
  rfl

theorem flushN_setPort (inside : p < s.ports.length) (n : Nat) (x : Port) :
    ∃ y l, State.flushN n (s.setPort p x) p = s.setPort p y ∧ x.Sent y l := by
  induction n generalizing x with
  | zero => exact ⟨x, [], rfl, .refl x⟩
  | succ n ih =>
    rw [State.flushN]
    rw [portAt_setPort inside]
    split
    next => exact ⟨x, [], rfl, .refl x⟩
    next f r out =>
      split
      next =>
        rw [putFlit_setPort]
        obtain ⟨y, l, flushed, sent⟩ := ih _
        exact ⟨y, _ :: l, flushed, sent.cons (by rw [out]; exact List.cons_ne_nil _ _)⟩
      next => exact ⟨x, [], rfl, .refl x⟩

theorem flushPort_setPort (inside : p < s.ports.length) (x : Port) :
    ∃ y l, (s.setPort p x).flushPort p = s.setPort p y ∧ x.Sent y l :=
  flushN_setPort inside _ x

/-- A port that is not UP sends nothing. -/
theorem flushPort_down (inside : p < s.ports.length) (down : x.state ≠ 2) : (s.setPort p x).flushPort p = s.setPort p x := by
  have shut : (s.setPort p x).portOpen p = false := by
    rw [State.portOpen, portAt_setPort inside]
    simp [down]
  have flush : ∀ n, State.flushN n (s.setPort p x) p = s.setPort p x := fun n => by
    cases n with
    | zero => rfl
    | succ n =>
      rw [State.flushN]
      split
      · rfl
      · rw [if_neg (by rw [shut]; decide)]
  exact flush _

/-! ## IDLE and NAK (R378, R380) -/

/-- The IDLE flit that a port sends. -/
def State.idleOf (s : State) (x : Port) (nak : Bool) : Flit :=
  flitSealed { s.flitOf x.peer.toNat 0 0 (.idle (!s.gated)) with ack := x.rxSeq, seq := x.txSeq, nak := nak }

/-- A port that has sent some flits without a number. -/
def Port.says (x : Port) (l : List Flit) : Port := { x with sent := x.sent ++ l }

theorem Port.says_nil (x : Port) : x.says [] = x := by
  rw [Port.says, List.append_nil]

theorem sendIdle_setPort (inside : p < s.ports.length) (up : x.state = 2 ∧ x.en = true) (nak : Bool) :
    (s.setPort p x).sendIdle p nak = s.setPort p (x.says [s.idleOf x nak]) := by
  rw [State.sendIdle, portAt_setPort inside]
  dsimp only
  rw [if_pos up.symm, modPort_setPort]
  rfl

/-- A port whose NAK is out, for the flit awaited. -/
def Port.asking (x : Port) (q : Flit) (n : Nat) : Port := { x.says [q] with nakOut := true, rxPos := n % 4096 }

theorem sendNak_setPort (inside : p < s.ports.length) (up : x.state = 2 ∧ x.en = true) (n : Nat) :
    (s.setPort p x).sendNak p n = s.setPort p (x.asking (s.idleOf x true) n) := by
  rw [State.sendNak, sendIdle_setPort inside up, modPort_setPort]
  rfl

theorem onWay_iff (x : Port) (f : Flit) :
    x.onWay f = true ↔ x.nakOut = true ∧ seqBefore x.rxSeq f.seq = true ∧ seqBefore f.seq x.rxPos = false := by
  rw [Port.onWay, Bool.and_eq_true, Bool.and_eq_true, Bool.not_eq_true', and_assoc]

/-! ## A flit in its place -/

/-- The port once a flit is in its place: the flit awaited has come, or the flit is IDLE and has no number. -/
def Port.stepped (x : Port) (f : Flit) : Port :=
  if flitType f.body = 6 then x else { x with rxSeq := (x.rxSeq + 1) % 4096, fails := 0, nakOut := false }

/-- The state once a flit is in its place. -/
def State.inPlace (s : State) (p : Nat) (f : Flit) : State := if flitType f.body == 6 then s else s.takeSeq p

theorem inPlace_eq (inside : p < s.ports.length) (up : (s.portAt p).state = 2 ∧ (s.portAt p).en = true) (f : Flit) :
    ∃ l, s.inPlace p f = s.setPort p (((s.portAt p).stepped f).says l) := by
  unfold State.inPlace Port.stepped
  by_cases idle : flitType f.body = 6
  · rw [if_pos (beq_iff_eq.mpr idle), if_pos idle]
    exact ⟨[], by rw [Port.says_nil, setPort_portAt]⟩
  · rw [if_neg (fun eq => idle (beq_iff_eq.mp eq)), if_neg idle]
    unfold State.takeSeq
    dsimp only
    rw [modPort_eq_setPort]
    split
    · exact ⟨_, sendIdle_setPort inside (by exact up) false⟩
    · exact ⟨[], by rw [Port.says_nil]⟩

/-- The port itself uses up HOLD, IDLE and the report of a package that is unreachable; the rest goes to the engines (R377). -/
def forEngines : FlitBody → Bool
  | .other _ _ => false
  | .hold => false
  | .idle _ => false
  | .unreachable _ => false
  | _ => true

/-- The packages that are unreachable after a flit. -/
def lostAfter (l : List Nat) : FlitBody → List Nat
  | .unreachable q => q :: l
  | _ => l

/-- The transfers that are left to discard after a flit. -/
def ghostsAfter (l : List (Nat × Nat × Nat)) : FlitBody → List (Nat × Nat × Nat)
  | .unreachable q => l.filter fun g => g.1 != q
  | _ => l

/-- What the port keeps of a flit that it has taken. -/
def Port.accepts (x : Port) (stale : Bool) (f : Flit) : Port :=
  { x with
    lost := lostAfter x.lost f.body, ghosts := ghostsAfter x.ghosts f.body,
    rx := if forEngines f.body ∧ stale = false then x.rx ++ [f] else x.rx }

/-- The state in which a flit with a TYPE that the table does not list is counted (R377). -/
def State.counting (s : State) (f : Flit) : State :=
  match f.body with
  | .other _ _ => { s with flitDrops := s.flitDrops + 1 }
  | _ => s

theorem counting_keeps (s : State) (f : Flit) :
    (s.counting f).ports = s.ports ∧ (s.counting f).mem = s.mem ∧ (s.counting f).tiles = s.tiles := by
  unfold State.counting
  split
  · exact ⟨rfl, rfl, rfl⟩
  · exact ⟨rfl, rfl, rfl⟩

theorem taken_iff (f : Flit) (numbered : flitType f.body ≠ 6) : forEngines f.body = true ↔
    ¬flitType f.body = 6 ∧ f.body ≠ .hold ∧ (∀ n y, f.body ≠ .other n y) ∧ ∀ q, f.body ≠ .unreachable q := by
  cases body : f.body <;> simp_all [forEngines, flitType]

theorem stale_setPort (s : State) (p : Nat) (x : Port) (f : Flit) : (s.setPort p x).stale f = s.stale f := rfl

theorem acceptFlit_setPort (s : State) (p : Nat) (x : Port) (f : Flit) :
    (s.setPort p x).acceptFlit p f = (s.counting f).setPort p (x.accepts (s.stale f) f) := by
  unfold State.acceptFlit
  rw [stale_setPort]
  unfold State.counting Port.accepts
  cases f.body with
  | other n y => simp [forEngines, lostAfter, ghostsAfter]; rfl
  | hold => simp [forEngines, lostAfter, ghostsAfter]
  | idle c => simp [forEngines, lostAfter, ghostsAfter]
  | unreachable q =>
    simp [forEngines, lostAfter, ghostsAfter, modPort_setPort]
  | _ =>
    cases s.stale f
    · simp [forEngines, lostAfter, ghostsAfter, modPort_setPort]
    · simp [forEngines, lostAfter, ghostsAfter]

theorem answerIdle_setPort (inside : p < s.ports.length) (up : y.state = 2 ∧ y.en = true) (x : Port) (f : Flit) :
    ∃ l, (s.setPort p y).answerIdle p x f = s.setPort p (y.says l) := by
  unfold State.answerIdle
  split
  · exact ⟨_, sendIdle_setPort inside up true⟩
  · exact ⟨[], by rw [Port.says_nil]⟩

/-- The port of a flit in its place, with what it learns of it. -/
def Port.taking (x : Port) (f : Flit) : Port := ((x.stepped f).acked f.ack).learn f

theorem taking_up (f : Flit) : (x.taking f).state = x.state ∧ (x.taking f).en = x.en := by
  unfold Port.taking Port.stepped
  split
  · exact ⟨rfl, rfl⟩
  · exact ⟨rfl, rfl⟩

theorem inPlace_pkgId (s : State) (p : Nat) (f : Flit) : (s.inPlace p f).pkgId = s.pkgId := by
  unfold State.inPlace State.takeSeq State.sendIdle
  dsimp only
  split
  · rfl
  · split
    · split
      · rfl
      · rfl
    · rfl

theorem flitReceive_good (s : State) (up : (s.portAt p).state = 2 ∧ (s.portAt p).en = true) (good : f.crc = flitCheck f)
    (place : flitType f.body = 6 ∨ f.seq = (s.portAt p).rxSeq) :
    execFlitReceive p f false s =
      if f.dest ≠ (s.inPlace p f).pkgId then .next { s.inPlace p f with flitDrops := (s.inPlace p f).flitDrops + 1 }
      else
        let u := (s.inPlace p f).modPort p fun x => (x.acked f.ack).learn f
        let u := (if f.nak then u.resend p f.ack else u).answerIdle p (s.portAt p) f
        .next (((u.acceptFlit p f).flushPort p).startLinks) := by
  have open_ : ¬((s.portAt p).state ≠ 2 ∨ (!(s.portAt p).en) = true) := by rw [up.1, up.2]; decide
  have checks : ¬((false || f.crc != flitCheck f) = true) := by rw [good, bne_self_eq_false]; decide
  have inOrder : ¬((!(flitType f.body == 6) && f.seq != (s.portAt p).rxSeq) = true) := by
    rcases place with idle | next
    · rw [idle]; exact Bool.false_ne_true
    · rw [next, bne_self_eq_false, Bool.and_false]; decide
  unfold execFlitReceive
  dsimp only
  rw [if_neg open_, if_neg checks, if_neg inOrder]
  rfl

/-- What a port makes of a good flit in its place that is for this package. -/
theorem flitReceive_taken (inside : p < s.ports.length) (up : (s.portAt p).state = 2 ∧ (s.portAt p).en = true)
    (good : f.crc = flitCheck f) (place : flitType f.body = 6 ∨ f.seq = (s.portAt p).rxSeq) (here : f.dest = s.pkgId)
    (plain : f.nak = false) :
    ∃ y l k, execFlitReceive p f false s = .next (((s.counting f).setPort p y).startLinks) ∧
      ((((s.portAt p).taking f).says k).accepts (s.stale f) f).Sent y l := by
  obtain ⟨a, placed⟩ := inPlace_eq inside up f
  have live : ((((s.portAt p).stepped f).says a).acked f.ack).learn f = ((s.portAt p).taking f).says a := rfl
  obtain ⟨b, answered⟩ := answerIdle_setPort (y := ((s.portAt p).taking f).says a) inside
    ⟨(taking_up f).1.trans up.1, (taking_up f).2.trans up.2⟩ (s.portAt p) f
  obtain ⟨keepsP, -, -⟩ := counting_keeps s f
  obtain ⟨y, l, flushed, sent⟩ := flushPort_setPort (s := s.counting f) (p := p) (by rw [keepsP]; exact inside)
    (((((s.portAt p).taking f).says a).says b).accepts (s.stale f) f)
  refine ⟨y, l, a ++ b, (flitReceive_good s up good place).trans ?_, ?_⟩
  · rw [if_neg (by rw [inPlace_pkgId]; exact not_not.mpr here), placed, plain]
    dsimp only
    rw [if_neg Bool.false_ne_true, modPort_setPort, live, answered, acceptFlit_setPort, flushed]
  · rw [Port.says, Port.says, List.append_assoc] at sent
    exact sent

theorem replay_taking (x : Port) (f : Flit) : (x.taking f).replay = x.replay.filter fun y => !seqBefore y.seq f.ack := by
  unfold Port.taking Port.stepped
  split
  · rfl
  · rfl

theorem taking_numbered (numbered : flitType f.body ≠ 6) (x : Port) :
    x.taking f = ((({ x with rxSeq := (x.rxSeq + 1) % 4096, fails := 0, nakOut := false } : Port).acked f.ack).learn f) := by
  rw [Port.taking, Port.stepped, if_neg numbered]

theorem heldAfter_numbered (numbered : flitType f.body ≠ 6) (held : Bool) :
    heldAfter held f.body = if f.body = .hold then true else held := by
  cases body : f.body with
  | idle c => exact absurd (by rw [body]; rfl) numbered
  | hold => rfl
  | _ => rfl

theorem flitReceive_numbered (inside : p < s.ports.length) (up : (s.portAt p).state = 2 ∧ (s.portAt p).en = true)
    (good : f.crc = flitCheck f) (numbered : flitType f.body ≠ 6) (next : f.seq = (s.portAt p).rxSeq) (here : f.dest = s.pkgId)
    (plain : f.nak = false) :
    ∃ v : State, execFlitReceive p f false s = .next v.startLinks ∧ v.mem = s.mem ∧ v.tiles = s.tiles ∧
      (v.portAt p).rxSeq = ((s.portAt p).rxSeq + 1) % 4096 ∧ (v.portAt p).fails = 0 ∧ (v.portAt p).nakOut = false ∧
      (v.portAt p).rx = (if forEngines f.body ∧ s.stale f = false then (s.portAt p).rx ++ [f] else (s.portAt p).rx) ∧
      (v.portAt p).peerHeld = (if f.body = .hold then true else (s.portAt p).peerHeld) ∧
      (f.body = .hold → f.src ∈ (v.portAt p).holds) ∧ (∀ q, f.body = .unreachable q → q ∈ (v.portAt p).lost) ∧
      ∃ l, (v.portAt p).replay = ((s.portAt p).replay.filter fun y => !seqBefore y.seq f.ack) ++ l ∧
        ((s.portAt p).out = [] → l = []) := by
  obtain ⟨y, l, k, run, ⟨n, o, same⟩, quiet⟩ := flitReceive_taken inside up good (.inr next) here plain
  obtain ⟨ports, mem, tiles⟩ := counting_keeps s f
  have port : ((s.counting f).setPort p y).portAt p = y := portAt_setPort (by rw [ports]; exact inside) y
  refine ⟨_, run, mem, tiles, ?_⟩
  rw [taking_numbered numbered] at same quiet
  rw [port, same]
  exact ⟨rfl, rfl, rfl, rfl, heldAfter_numbered numbered _, fun hold => by simp [Port.accepts, Port.says, Port.learn, hold],
    fun q body => by simp [Port.accepts, lostAfter, body], l, rfl, quiet⟩

theorem flitReceive_idle {c : Bool} (inside : p < s.ports.length) (up : (s.portAt p).state = 2 ∧ (s.portAt p).en = true)
    (good : f.crc = flitCheck f) (idle : f.body = .idle c) (here : f.dest = s.pkgId) (plain : f.nak = false) :
    ∃ v : State, execFlitReceive p f false s = .next v.startLinks ∧ v.mem = s.mem ∧ v.tiles = s.tiles ∧
      (v.portAt p).rxSeq = (s.portAt p).rxSeq ∧ (v.portAt p).rx = (s.portAt p).rx ∧ (v.portAt p).peerHeld = !c := by
  have type : flitType f.body = 6 := by rw [idle]; rfl
  obtain ⟨y, l, k, run, ⟨n, o, same⟩, -⟩ := flitReceive_taken inside up good (.inl type) here plain
  obtain ⟨ports, mem, tiles⟩ := counting_keeps s f
  have port : ((s.counting f).setPort p y).portAt p = y := portAt_setPort (by rw [ports]; exact inside) y
  have unnumbered : (s.portAt p).stepped f = s.portAt p := if_pos type
  refine ⟨_, run, mem, tiles, ?_⟩
  rw [port, same, Port.taking, unnumbered]
  simp [Port.accepts, Port.says, Port.learn, Port.acked, idle, heldAfter, forEngines]

/-! ## Flits out of place (R378, R379) -/

theorem flitReceive_stray (up : (s.portAt p).state = 2 ∧ (s.portAt p).en = true) (good : f.crc = flitCheck f)
    (numbered : flitType f.body ≠ 6) (stray : f.seq ≠ (s.portAt p).rxSeq) :
    execFlitReceive p f false s = .next (s.strayFlit p f) := by
  have open_ : ¬((s.portAt p).state ≠ 2 ∨ (!(s.portAt p).en) = true) := by rw [up.1, up.2]; decide
  have checks : ¬((false || f.crc != flitCheck f) = true) := by rw [good, bne_self_eq_false]; decide
  unfold execFlitReceive
  dsimp only
  rw [if_neg open_, if_neg checks, if_pos (by simp [numbered, stray])]

theorem flitReceive_bad {bad : Bool} (up : (s.portAt p).state = 2 ∧ (s.portAt p).en = true)
    (fails : bad = true ∨ f.crc ≠ flitCheck f) : execFlitReceive p f bad s = .next (s.failFlit p f) := by
  have open_ : ¬((s.portAt p).state ≠ 2 ∨ (!(s.portAt p).en) = true) := by rw [up.1, up.2]; decide
  unfold execFlitReceive
  dsimp only
  rw [if_neg open_, if_pos (by simpa using fails)]

/-- A NAK of the port is out, sent for the flit awaited. -/
def Port.asked (x y : Port) : Prop :=
  y.nakOut = true ∧ ∃ q, y.sent = x.sent ++ [q] ∧ q.nak = true ∧ q.ack = x.rxSeq ∧ flitType q.body = 6

theorem asked_asking (s : State) (x : Port) (n : Nat) : x.asked (x.asking (s.idleOf x true) n) :=
  ⟨rfl, _, rfl, rfl, rfl, rfl⟩

theorem strayFlit_asks (inside : p < s.ports.length) (up : (s.portAt p).state = 2 ∧ (s.portAt p).en = true)
    (past : (s.portAt p).onWay f = false) (lost : seqBefore (s.portAt p).rxSeq f.seq = true) :
    s.strayFlit p f = s.setPort p ((s.portAt p).asking (s.idleOf (s.portAt p) true) (f.seq + 1)) := by
  unfold State.strayFlit
  dsimp only
  rw [if_neg (by rw [past]; decide), if_pos lost]
  exact (congrArg (fun u => State.sendNak u p (f.seq + 1)) (setPort_portAt s p)).symm.trans (sendNak_setPort inside up _)

/-- The port that has counted a flit as failed. -/
def Port.counted (x : Port) : Port := { x with crcerr := Nat.min (x.crcerr + 1) 65535 }

/-- The port for which the flit awaited has failed once more. -/
def Port.again (x : Port) : Port := { x with fails := x.fails + 1 }

/-- The port as it begins to retrain. -/
def Port.retrained (x : Port) : Port := { x with state := 1, retrain := Nat.min (x.retrain + 1) 255, fails := 0, naks := 0 }

theorem retrainPort_setPort (s : State) (p : Nat) (x : Port) : (s.setPort p x).retrainPort p = s.setPort p x.retrained :=
  modPort_setPort s p x Port.retrained

/-- A port that retrains at the eighth failure in a row. -/
def Port.patient (x : Port) : Port := if 8 ≤ x.fails then x.retrained else x

/-- The port that has counted a failure and asks again for the flit. -/
def Port.failed (x : Port) (q : Flit) : Port := (x.counted.asking q (x.counted.rxSeq + 1)).again.patient

theorem failed_few {q : Flit} (few : x.fails < 7) : x.failed q = (x.counted.asking q (x.counted.rxSeq + 1)).again :=
  if_neg (Nat.not_le.mpr (Nat.succ_lt_succ few))

theorem failed_many {q : Flit} (many : 7 ≤ x.fails) : x.failed q = (x.counted.asking q (x.counted.rxSeq + 1)).again.retrained :=
  if_pos (Nat.succ_le_succ many)

/-- What follows a failed flit that NAK asks for again. -/
def State.askAgain (u : State) (p : Nat) (f : Flit) (x : Port) : State :=
  let lasts := (x.rx.filter fun y => y.src == f.src && y.key == f.key &&
    match dataOf y.body with | some x => x.2 | none => false).length
  let s := if (dataOf f.body).isSome then u.countRetry (u.awaiting lasts (u.receivers p f.src f.key)) else u
  let s := (s.sendNak p (x.rxSeq + 1)).modPort p Port.again
  if 8 ≤ (s.portAt p).fails then s.retrainPort p else s

theorem failFlit_eq (inside : p < s.ports.length) : s.failFlit p f =
    if flitType f.body = 6 then (s.setPort p (s.portAt p).counted).sendIdle p (s.portAt p).nakOut
    else if (s.portAt p).onWay f then s.setPort p { (s.portAt p).counted with rxPos := (f.seq + 1) % 4096 }
    else (s.setPort p (s.portAt p).counted).askAgain p f (s.portAt p).counted := by
  have counts : s.modPort p Port.counted = s.setPort p (s.portAt p).counted := modPort_eq_setPort s p Port.counted
  have eq : s.failFlit p f =
      if flitType f.body = 6 then (s.modPort p Port.counted).sendIdle p ((s.modPort p Port.counted).portAt p).nakOut
      else if ((s.modPort p Port.counted).portAt p).onWay f then
        (s.modPort p Port.counted).modPort p fun x => { x with rxPos := (f.seq + 1) % 4096 }
      else (s.modPort p Port.counted).askAgain p f ((s.modPort p Port.counted).portAt p) := rfl
  rw [eq, counts, portAt_setPort inside, modPort_setPort]
  rfl

theorem failFlit_idle (inside : p < s.ports.length) (up : (s.portAt p).state = 2 ∧ (s.portAt p).en = true)
    (idle : flitType f.body = 6) : ∃ q, s.failFlit p f = s.setPort p ((s.portAt p).counted.says [q]) :=
  ⟨_, (failFlit_eq inside).trans ((if_pos idle).trans (sendIdle_setPort (x := (s.portAt p).counted) inside up _))⟩

theorem failFlit_onWay (inside : p < s.ports.length) (numbered : flitType f.body ≠ 6) (way : (s.portAt p).onWay f = true) :
    s.failFlit p f = s.setPort p { (s.portAt p).counted with rxPos := (f.seq + 1) % 4096 } := by
  rw [failFlit_eq inside, if_neg numbered, if_pos way]

theorem countRetry_keeps (u : State) (x : Option (Nat × LCmd)) : (u.countRetry x).mem = u.mem ∧ (u.countRetry x).ports = u.ports := by
  cases x with
  | none => exact ⟨rfl, rfl⟩
  | some x => exact ⟨rfl, rfl⟩

theorem countRetry_portAt (u : State) (x : Option (Nat × LCmd)) : (u.countRetry x).portAt p = u.portAt p := by
  rw [State.portAt, State.portAt, (countRetry_keeps u x).2]

theorem askAgain_eq {u : State} (inside : p < u.ports.length) (up : x.state = 2 ∧ x.en = true) (port : u.portAt p = x.counted) :
    ∃ v : State, v.mem = u.mem ∧ v.ports.length = u.ports.length ∧
      u.askAgain p f x.counted = v.setPort p (x.failed (v.idleOf x.counted true)) := by
  have retried : ∀ v : State, p < v.ports.length → v.portAt p = x.counted →
      (let w := (v.sendNak p (x.counted.rxSeq + 1)).modPort p Port.again
       if 8 ≤ (w.portAt p).fails then w.retrainPort p else w) = v.setPort p (x.failed (v.idleOf x.counted true)) := by
    intro v inside port
    have same : v = v.setPort p x.counted := by rw [← port, setPort_portAt]
    have nak : v.sendNak p (x.counted.rxSeq + 1) = v.setPort p (x.counted.asking (v.idleOf x.counted true) (x.counted.rxSeq + 1)) :=
      (congrArg (fun w => State.sendNak w p (x.counted.rxSeq + 1)) same).trans (sendNak_setPort (x := x.counted) inside up _)
    rw [nak, modPort_setPort]
    dsimp only
    rw [portAt_setPort inside, retrainPort_setPort, Port.failed, Port.patient]
    split
    · rfl
    · rfl
  unfold State.askAgain
  dsimp only
  split
  · obtain ⟨mem, ports⟩ := countRetry_keeps u (u.awaiting (x.counted.rx.filter fun y => y.src == f.src && y.key == f.key &&
      match dataOf y.body with | some x => x.2 | none => false).length (u.receivers p f.src f.key))
    exact ⟨_, mem, congrArg List.length ports, retried _ (by rw [ports]; exact inside) ((countRetry_portAt _ _).trans port)⟩
  · exact ⟨u, rfl, rfl, retried u inside port⟩

theorem failFlit_asks (inside : p < s.ports.length) (up : (s.portAt p).state = 2 ∧ (s.portAt p).en = true)
    (numbered : flitType f.body ≠ 6) (past : (s.portAt p).onWay f = false) :
    ∃ u : State, u.mem = s.mem ∧ u.ports.length = s.ports.length ∧
      s.failFlit p f = u.setPort p ((s.portAt p).failed (u.idleOf (s.portAt p).counted true)) := by
  have length : (s.setPort p (s.portAt p).counted).ports.length = s.ports.length := length_updAt ..
  obtain ⟨v, mem, ports, asks⟩ := askAgain_eq (f := f) (u := s.setPort p (s.portAt p).counted) (by rw [length]; exact inside) up
    (portAt_setPort inside _)
  refine ⟨v, mem, ports.trans length, ?_⟩
  rw [failFlit_eq inside, if_neg numbered, if_neg (by rw [past]; decide), asks]

/-! ## NAK (R378) -/

/-- How often in a row the peer has rejected the flit with a sequence number. -/
def Port.rejects (x : Port) (seq : Nat) : Nat := if x.nakSeq = seq then x.naks + 1 else 1

/-- The port that goes on from a flit that its peer rejects. -/
def Port.resent (x : Port) (seq : Nat) : Port :=
  if 8 ≤ x.rejects seq then (x.acked seq).retrained
  else { (x.acked seq).says (x.acked seq).replay with nakSeq := seq, naks := x.rejects seq }

theorem resend_eq (s : State) (p seq : Nat) : ∃ u : State, u.mem = s.mem ∧ u.ports.length = s.ports.length ∧
    s.resend p seq = u.setPort p ((s.portAt p).resent seq) := by
  obtain ⟨mem, ports⟩ := countRetry_keeps s (s.sentBy p seq)
  refine ⟨_, mem, congrArg List.length ports, ?_⟩
  unfold State.resend Port.resent
  dsimp only
  change (if 8 ≤ (s.portAt p).rejects seq then _ else _) = _
  split
  · exact retrainPort_setPort ..
  · rfl

theorem nak_sends (inside : p < s.ports.length) (up : (s.portAt p).state = 2) (seq : Nat) (few : (s.portAt p).rejects seq < 8) :
    ∃ (v : State) (l : List Flit), execNak p seq s = .next v ∧ v.mem = s.mem ∧ (v.portAt p).state = 2 ∧
      (v.portAt p).replay = ((s.portAt p).acked seq).replay ++ l ∧
      (v.portAt p).sent = (s.portAt p).sent ++ ((s.portAt p).acked seq).replay ++ l ∧ ((s.portAt p).out = [] → l = []) := by
  obtain ⟨u, mem, ports, resent⟩ := resend_eq s p seq
  obtain ⟨y, l, flushed, ⟨n, o, same⟩, quiet⟩ := flushPort_setPort (s := u) (by rw [ports]; exact inside) ((s.portAt p).resent seq)
  rw [Port.resent, if_neg (Nat.not_le.mpr few)] at same quiet
  refine ⟨u.setPort p y, l, ?_, mem, ?_⟩
  · rw [execNak, if_pos up, resent, flushed]
  · rw [portAt_setPort (by rw [ports]; exact inside), same]
    exact ⟨up, rfl, rfl, quiet⟩

theorem nak_retrains (inside : p < s.ports.length) (up : (s.portAt p).state = 2) (seq : Nat) (many : 8 ≤ (s.portAt p).rejects seq) :
    ∃ v : State, execNak p seq s = .next v ∧ v.mem = s.mem ∧ v.portAt p = ((s.portAt p).acked seq).retrained := by
  obtain ⟨u, mem, ports, resent⟩ := resend_eq s p seq
  have inside' : p < u.ports.length := by rw [ports]; exact inside
  rw [Port.resent, if_pos many] at resent
  refine ⟨u.setPort p ((s.portAt p).acked seq).retrained, ?_, mem, portAt_setPort inside' _⟩
  rw [execNak, if_pos up, resent, flushPort_down inside' (show (1 : Nat) ≠ 2 by decide)]

end

/-- Settles O35: a port takes the flits in their place, asks for the others, and resends what its peer asks for. -/
theorem portFlits : Obligations.PortFlits := by
  intro s p f inside
  refine ⟨fun up numbered next here plain => ?_, fun c up idle here plain => ?_, fun up numbered stray => ⟨fun way => ?_, fun old => ?_,
    fun past lost => ?_⟩, fun up place away => ?_, fun bad up fails => ?_, fun seq up => ?_, fun lt training => ?_, fun training => ?_,
    fun peer lt training enabled => ?_, fun gated enabled up room => ?_⟩
  · obtain ⟨up, good⟩ := up
    obtain ⟨v, run, mem, tiles, rxSeq, fails, nakOut, rx, held, holds, lost, l, replay, quiet⟩ :=
      flitReceive_numbered inside up good numbered next here plain
    refine ⟨v, run, mem, tiles, rxSeq, fails, nakOut, fun taken fresh => ?_, fun drop => ?_, held, holds, lost, ?_, ?_⟩
    · rw [rx, if_pos ⟨(taken_iff f numbered).mpr taken, fresh⟩]
    · refine rx.trans (if_neg fun keep => ?_)
      rcases drop with untaken | stale
      · exact untaken ((taken_iff f numbered).mp keep.1)
      · rw [keep.2] at stale
        cases stale
    · intro y member ahead
      rw [replay]
      exact List.mem_append_left _ (List.mem_filter.mpr ⟨member, by rw [ahead]; rfl⟩)
    · intro empty y member
      rw [replay, quiet empty, List.append_nil, List.mem_filter] at member
      exact ⟨member.1, by simpa using member.2⟩
  · exact flitReceive_idle inside up.1 up.2 idle here plain
  · rw [exec_flitReceive, flitReceive_stray up.1 up.2 numbered stray, State.strayFlit]
    exact congrArg Host.Outcome.next (if_pos ((onWay_iff _ f).mpr way))
  · have past : ¬(s.portAt p).onWay f = true := fun way => by
      rw [((onWay_iff _ f).mp way).2.1] at old
      cases old
    rw [exec_flitReceive, flitReceive_stray up.1 up.2 numbered stray, State.strayFlit]
    exact congrArg Host.Outcome.next ((if_neg past).trans (if_neg (by rw [old]; decide)))
  · rw [← onWay_iff, Bool.not_eq_true] at past
    refine ⟨_, (flitReceive_stray up.1 up.2 numbered stray).trans (congrArg _ (strayFlit_asks inside up.1 past lost)), rfl, rfl, ?_⟩
    dsimp only
    rw [portAt_setPort inside]
    exact ⟨asked_asking s _ _, rfl, rfl, rfl⟩
  · obtain ⟨up, good⟩ := up
    obtain ⟨l, placed⟩ := inPlace_eq inside up f
    have port : (s.inPlace p f).portAt p = ((s.portAt p).stepped f).says l := by rw [placed, portAt_setPort inside]
    refine ⟨_, (flitReceive_good s up good place).trans (if_pos (by rw [inPlace_pkgId]; exact away)), ?_⟩
    have mem : (s.inPlace p f).mem = s.mem := (congrArg State.mem placed).trans rfl
    have drops : (s.inPlace p f).flitDrops = s.flitDrops := (congrArg State.flitDrops placed).trans rfl
    refine ⟨mem, congrArg (· + 1) drops, ?_⟩
    change ((s.inPlace p f).portAt p).rx = _ ∧ ((s.inPlace p f).portAt p).rxSeq = _
    rw [port, Port.stepped]
    split
    next idle => exact ⟨rfl, rfl⟩
    next numbered => exact ⟨rfl, rfl⟩
  · rw [exec_flitReceive, flitReceive_bad up fails, ← onWay_iff]
    by_cases idle : flitType f.body = 6
    · obtain ⟨q, failed⟩ := failFlit_idle inside up idle
      refine ⟨_, rfl, ?_⟩
      rw [failed, portAt_setPort inside]
      exact ⟨rfl, rfl, rfl, rfl, fun _ => up.1, fun numbered => absurd idle numbered, fun numbered => absurd idle numbered⟩
    · by_cases way : (s.portAt p).onWay f = true
      · refine ⟨_, rfl, ?_⟩
        rw [failFlit_onWay inside idle way, portAt_setPort inside]
        exact ⟨rfl, rfl, rfl, rfl, fun _ => up.1, fun _ past => absurd way past, fun _ past => absurd way past⟩
      · obtain ⟨u, mem, ports, failed⟩ := failFlit_asks inside up idle (Bool.not_eq_true _ ▸ way)
        refine ⟨_, rfl, ?_⟩
        dsimp only
        rw [failed, portAt_setPort (by rw [ports]; exact inside)]
        rcases Nat.lt_or_ge (s.portAt p).fails 7 with few | many
        · rw [failed_few few]
          exact ⟨mem, rfl, rfl, rfl, fun _ => up.1, fun _ _ => ⟨rfl, _, rfl, rfl, rfl, rfl⟩, fun _ _ many => absurd few (Nat.not_lt.mpr many)⟩
        · rw [failed_many many]
          refine ⟨mem, rfl, rfl, rfl, fun stays => ?_, fun _ _ => ⟨rfl, _, rfl, rfl, rfl, rfl⟩, fun _ _ _ => rfl⟩
          rcases stays with h | h | few
          · exact absurd h idle
          · exact absurd h way
          · exact absurd few (Nat.not_lt.mpr many)
  · rcases Nat.lt_or_ge ((s.portAt p).rejects seq) 8 with few | many
    · obtain ⟨v, l, run, mem, state, replay, sent, quiet⟩ := nak_sends inside up seq few
      refine ⟨v, l, run, mem, replay, quiet, fun _ => ⟨state, sent⟩, fun same often => ?_⟩
      rw [Port.rejects, if_pos same] at few
      omega
    · obtain ⟨v, run, mem, port⟩ := nak_retrains inside up seq many
      refine ⟨v, [], run, mem, ?_⟩
      dsimp only
      rw [port]
      refine ⟨(List.append_nil _).symm, fun _ => rfl, fun rare => ?_, fun _ _ => ⟨rfl, rfl, rfl⟩⟩
      rw [Port.rejects] at many
      split at many
      next same =>
        rcases rare with other | few
        · exact absurd same other
        · omega
      next => omega
  · exact if_neg (not_not.mpr training)
  · exact if_neg (not_not.mpr training)
  · exact if_pos ⟨training, enabled⟩
  · exact if_pos ⟨gated, enabled, up, room⟩

end Sys2Proof.Machine
end

section
/-! SUPPORT. The schedulers of a stack: closing points, answers, thermal states, owner entries, quiesce and retraining. -/

namespace Sys2Proof.Machine

section
variable {s u v : State} {st pc slot hint : Nat} {wr own : Bool} {k : Stack}

/-! ## What stays of the requests of a package -/

theorem stackAt_modStack (s : State) (st : Nat) (f : Stack → Stack) (x : Nat) :
    (s.modStack st f).stackAt x = if x = st ∧ x < s.hbm.length then f (s.stackAt x) else s.stackAt x :=
  getD_updAt f st x s.hbm {}

theorem stackAt_modStack_same (inside : st < s.hbm.length) (f : Stack → Stack) : (s.modStack st f).stackAt st = f (s.stackAt st) :=
  (stackAt_modStack s st f st).trans (if_pos ⟨rfl, inside⟩)

/-- The line requests of each stack, with the tiles. -/
def State.requests (s : State) : List Tile × Nat × (Nat → List LineReq) := (s.tiles, s.hbm.length, fun x => (s.stackAt x).reqs)

theorem requests_modStack (s : State) (st : Nat) {f : Stack → Stack} (keeps : ∀ k, (f k).reqs = k.reqs) :
    (s.modStack st f).requests = s.requests := by
  have reqs : (fun x => ((s.modStack st f).stackAt x).reqs) = fun x => (s.stackAt x).reqs := by
    funext x
    rw [stackAt_modStack]
    split
    · exact keeps _
    · rfl
  have length : (s.modStack st f).hbm.length = s.hbm.length := length_updAt ..
  rw [State.requests, reqs, length]
  rfl

theorem requests_modCal (s : State) (st c : Nat) (g : Calendar → Calendar) :
    (s.modStack st fun k => k.modCal c g).requests = s.requests :=
  requests_modStack s st fun _ => rfl

theorem beginRotation_requests (s : State) (st pc : Nat) (wr : Bool) : (s.beginRotation st pc wr).requests = s.requests := by
  unfold State.beginRotation
  exact (requests_modCal ..).trans (requests_modCal ..)

theorem passSlot_requests (s : State) (st pc : Nat) (wr : Bool) (f : Fate) : (s.passSlot st pc wr f).requests = s.requests := by
  unfold State.passSlot
  dsimp only
  split
  · exact (beginRotation_requests ..).trans (requests_modCal ..)
  · exact requests_modCal ..

theorem passIdle_requests (n : Nat) (s : State) : (s.passIdle st pc wr n).requests = s.requests := by
  induction n generalizing s with
  | zero => rfl
  | succ n ih => exact (ih _).trans (passSlot_requests ..)

theorem passIdle_mem (n : Nat) (s : State) : (s.passIdle st pc wr n).mem = s.mem := (State.passIdle_frame ..).1

theorem toSlot_keeps (moved : s.toSlot st pc slot wr = some v) : v.requests = s.requests ∧ v.mem = s.mem := by
  unfold State.toSlot at moved
  dsimp only at moved
  split at moved
  · cases moved
    exact ⟨passIdle_requests _ s, passIdle_mem _ s⟩
  · split at moved
    · cases moved
      exact ⟨rfl, rfl⟩
    · cases moved

/-! ## The request that a closing point chooses (R255, R258) -/

/-- The request at a position takes part in a calendar's slots and has not been served. -/
def Stack.waits (k : Stack) (pc : Nat) (wr : Bool) (i : Nat) : Prop :=
  ∃ r, k.reqs[i]? = some r ∧ r.pc = pc ∧ r.wr = wr ∧ r.st ≠ .served

theorem of_mem_reqIdx {f : LineReq → Bool} {i : Nat} (member : i ∈ reqIdx k f) : ∃ r, k.reqs[i]? = some r ∧ f r = true := by
  obtain ⟨x, found, rfl⟩ := List.mem_map.mp member
  obtain ⟨inside, admitted⟩ := List.mem_filter.mp found
  exact ⟨x.1, List.mem_zipIdx_iff_getElem?.mp inside, admitted⟩

theorem waits_of_elig {f : LineReq → Bool} {i : Nat} (elig : ∀ r, f r = true → r.elig pc wr own = true)
    (first : (reqIdx k f).head? = some i) : k.waits pc wr i := by
  obtain ⟨r, at_, admitted⟩ := of_mem_reqIdx (List.mem_of_mem_head? first)
  have e := elig r admitted
  simp only [LineReq.elig, Bool.and_eq_true, beq_iff_eq] at e
  refine ⟨r, at_, e.1.1.1, e.1.1.2, fun served => ?_⟩
  rw [served] at e
  exact absurd e.2 Bool.false_ne_true

theorem waits_of_pickWalker {i : Nat} (picked : pickWalker k st pc wr own = some i) : k.waits pc wr i :=
  waits_of_elig (fun r h => by simp only [Bool.and_eq_true] at h; exact h.1.1) picked

theorem waits_of_pickOf {src i : Nat} (picked : pickOf k st pc wr own src = some i) : k.waits pc wr i := by
  have mine : ∀ {f : LineReq → Bool}, (∀ r, f r = true → (r.elig pc wr own && r.src st == src) = true) →
      (reqIdx k f).head? = some i → k.waits pc wr i := fun sub first =>
    waits_of_elig (fun r h => (Bool.and_eq_true _ _ ▸ sub r h : _ ∧ _).1) first
  unfold pickOf at picked
  dsimp only at picked
  split at picked
  · exact waits_of_pickWalker picked
  · rcases Option.or_eq_some_iff.mp picked with first | ⟨-, rest⟩
    · rcases Option.or_eq_some_iff.mp first with reseal | ⟨-, walker⟩
      · exact mine (fun r h => (Bool.and_eq_true _ _ ▸ h : _ ∧ _).1) reseal
      · exact mine (fun r h => (Bool.and_eq_true _ _ ▸ h : _ ∧ _).1) walker
    · rcases Option.or_eq_some_iff.mp rest with other | ⟨-, any⟩
      · split at other
        · cases other
        · exact mine (fun r h => (Bool.and_eq_true _ _ ▸ h : _ ∧ _).1) other
      · exact mine (fun r h => h) any

theorem waits_of_closingPick {x : Nat × Bool × Bool × Option Nat} (picked : s.closingPick st pc wr = some x) :
    (s.stackAt st).waits pc wr x.1 := by
  unfold State.closingPick at picked
  dsimp only at picked
  split at picked
  next i hinted =>
    cases picked
    obtain ⟨r, at_, h⟩ := of_mem_reqIdx (List.mem_of_mem_head? hinted)
    simp only [Bool.and_eq_true, beq_iff_eq] at h
    exact ⟨r, at_, h.1.1.1, h.1.1.2, by rw [h.2]; exact ReqSt.noConfusion⟩
  next =>
    split at picked
    · cases picked
    · split at picked
      next i own =>
        cases picked
        obtain ⟨o, -, own⟩ := Option.bind_eq_some_iff.mp own
        exact waits_of_pickOf own
      next =>
        split at picked
        next i walker =>
          cases picked
          exact waits_of_pickWalker walker
        next =>
          obtain ⟨q, -, turn⟩ := List.exists_of_findSome?_eq_some picked
          obtain ⟨i, pick, rfl⟩ := Option.map_eq_some_iff.mp turn
          exact waits_of_pickOf pick

/-! ## What a closing point leaves of the requests (R253, R258) -/

/-- Of the requests of stack `st` only those may have changed that wait at a calendar. -/
def State.closes (s u : State) (st pc : Nat) (wr : Bool) : Prop :=
  u.tiles = s.tiles ∧ u.mem = s.mem ∧ u.hbm.length = s.hbm.length ∧ (u.stackAt st).reqs.length = (s.stackAt st).reqs.length ∧
    ∀ j, ¬(s.stackAt st).waits pc wr j → (u.stackAt st).reqs[j]? = (s.stackAt st).reqs[j]?

theorem closes_refl (s : State) (st pc : Nat) (wr : Bool) : s.closes s st pc wr := ⟨rfl, rfl, rfl, rfl, fun _ _ => rfl⟩

theorem closes_modStack (inside : st < s.hbm.length) {f : Stack → Stack} {g : LineReq → LineReq} {i : Nat}
    (waits : (s.stackAt st).waits pc wr i) (changes : ∀ k, (f k).reqs = updAt g i k.reqs) :
    s.closes (s.modStack st f) st pc wr := by
  refine ⟨rfl, rfl, length_updAt .., ?_, fun j other => ?_⟩
  · rw [stackAt_modStack_same inside, changes, length_updAt]
  · rw [stackAt_modStack_same inside, changes, getElem?_updAt, if_neg (by rintro rfl; exact other waits)]

theorem takeTurn_reqs (k : Stack) (st : Nat) (r : LineReq) : (k.takeTurn st r).reqs = k.reqs := by
  unfold Stack.takeTurn
  split
  · rfl
  · rfl

theorem fillSlot_closes {x : Nat × Bool × Bool × Option Nat} (inside : st < s.hbm.length)
    (waits : (s.stackAt st).waits pc wr x.1) : s.closes (s.fillSlot st pc slot wr hint x).1 st pc wr := by
  unfold State.fillSlot
  dsimp only
  split
  · exact closes_modStack inside waits fun k => takeTurn_reqs ..
  · split
    · exact closes_modStack inside waits fun k => takeTurn_reqs ..
    · split
      · exact closes_refl ..
      · exact closes_modStack inside waits fun k => rfl

theorem not_at1 {q : LineReq} (apart : q.pc ≠ pc ∨ q.wr ≠ wr ∨ q.st = .served) : ¬q.at1 pc wr = true := by
  intro there
  simp only [LineReq.at1, Bool.and_eq_true, beq_iff_eq, bne_iff_ne] at there
  obtain ⟨⟨⟨pc, wr⟩, -⟩, unserved⟩ := there
  rcases apart with h | h | h
  · exact h pc
  · exact h wr
  · exact unserved h

theorem not_waits {q : LineReq} {j : Nat} (at_ : k.reqs[j]? = some q) (apart : q.pc ≠ pc ∨ q.wr ≠ wr ∨ q.st = .served) :
    ¬k.waits pc wr j := by
  rintro ⟨r, there, pc, wr, unserved⟩
  obtain rfl := Option.some.inj (at_.symm.trans there)
  rcases apart with h | h | h
  · exact h pc
  · exact h wr
  · exact unserved h

/-- What becomes of a slot that closes, by what the closing point chooses. -/
def State.closeSlot (v : State) (st pc slot : Nat) (wr : Bool) (hint : Nat) : State × Fate :=
  match v.closingPick st pc wr with
  | none => (v, if (v.stackAt st).stolen pc wr then Fate.stolen else .kept)
  | some x => v.fillSlot st pc (slot % 64) wr hint x

theorem closingPoint_run (few : pc < 64) (free : (s.stackAt st).answering pc (slot % 64) wr = false)
    (moved : s.toSlot st pc slot wr = some v) : execClosingPoint st pc slot wr hint s =
      .next (((v.closeSlot st pc slot wr hint).1.modStack st fun k => k.metSlot pc (slot % 64) wr).passSlot st pc wr
        (v.closeSlot st pc slot wr hint).2) := by
  unfold execClosingPoint
  rw [if_neg (by rw [free]; simpa using few), moved]
  rfl

theorem closingPoint_keeps (inside : st < s.hbm.length) (few : pc < 64) (free : (s.stackAt st).answering pc (slot % 64) wr = false)
    (moved : s.toSlot st pc slot wr = some v) :
    ∃ u : State, execClosingPoint st pc slot wr hint s = .next u ∧ u.mem = s.mem ∧ u.tiles = s.tiles ∧
      (u.stackAt st).reqs.length = (s.stackAt st).reqs.length ∧
      ∀ (j : Nat) (q : LineReq), (s.stackAt st).reqs[j]? = some q → (q.pc ≠ pc ∨ q.wr ≠ wr ∨ q.st = .served) →
        (u.stackAt st).reqs[j]? = some q := by
  obtain ⟨reqs, mem⟩ := toSlot_keeps moved
  obtain ⟨tiles, length, reqs⟩ := Prod.mk.injEq .. ▸ (Prod.mk.injEq .. ▸ reqs : _ ∧ _)
  have reqs : (v.stackAt st).reqs = (s.stackAt st).reqs := congrFun reqs st
  obtain ⟨w, f, run, wTiles, wMem, wLength, wReqs, others⟩ : ∃ (w : State) (f : Fate),
      execClosingPoint st pc slot wr hint s = .next ((w.modStack st fun k => k.metSlot pc (slot % 64) wr).passSlot st pc wr f) ∧
      v.closes w st pc wr := by
    have run := closingPoint_run few free moved (hint := hint)
    cases pick : v.closingPick st pc wr with
    | none =>
      rw [State.closeSlot, pick] at run
      exact ⟨_, _, run, closes_refl ..⟩
    | some x =>
      rw [State.closeSlot, pick] at run
      exact ⟨_, _, run, fillSlot_closes (length ▸ inside) (waits_of_closingPick pick)⟩
  have met := stackAt_modStack_same (s := w) (wLength ▸ length ▸ inside) fun k => k.metSlot pc (slot % 64) wr
  have after := passSlot_requests (w.modStack st fun k => k.metSlot pc (slot % 64) wr) st pc wr f
  obtain ⟨uTiles, -, uReqs⟩ := Prod.mk.injEq .. ▸ (Prod.mk.injEq .. ▸ after : _ ∧ _)
  have uReqs := (congrFun uReqs st).trans (congrArg Stack.reqs met)
  refine ⟨_, run, (State.passSlot_frame ..).1.trans (wMem.trans mem), uTiles.trans (wTiles.trans tiles), ?_, fun j q at_ apart => ?_⟩
  · exact (congrArg List.length uReqs).trans (List.length_map _ |>.trans (wReqs.trans (congrArg List.length reqs)))
  · have still : (w.stackAt st).reqs[j]? = some q := (others j (not_waits (reqs ▸ at_) apart)).trans (reqs ▸ at_)
    rw [uReqs, Stack.metSlot, List.getElem?_map, still, Option.map_some, if_neg (not_at1 apart)]

/-! ## What a closing point does with the request that it chooses (R255, R258) -/

/-- A request marked with what a scheduler has answered it. -/
def Stack.answered (k : Stack) (i : Nat) (q : ReqSt) : Stack := { k with reqs := updAt (fun r => { r with st := q }) i k.reqs }

theorem fillSlot_refuses {r : LineReq} {i : Nat} {q : Option Nat} (there : (v.stackAt st).reqs[i]? = some r)
    (may : v.mayRefuse st pc wr hint = true) : v.fillSlot st pc slot wr hint (i, true, false, q) =
      (v.modStack st fun y => (y.answered i (.refused slot hint)).takeTurn st r, .refused) := by
  unfold State.fillSlot
  dsimp only
  rw [List.getD_eq_getElem?_getD, there]
  exact if_pos may

theorem fillSlot_serves {r : LineReq} {i : Nat} {res : Bool} {q : Option Nat} (there : (v.stackAt st).reqs[i]? = some r)
    (must : res = true ∨ v.mayRefuse st pc wr hint = false) : v.fillSlot st pc slot wr hint (i, true, res, q) =
      (v.modStack st fun y => (y.answered i .served).takeTurn st r, .kept) := by
  have kept : ¬(true && !res && v.mayRefuse st pc wr hint) = true := by
    rcases must with rfl | may
    · exact Bool.false_ne_true
    · rw [may, Bool.and_false]; exact Bool.false_ne_true
  unfold State.fillSlot
  dsimp only
  rw [List.getD_eq_getElem?_getD, there]
  exact (if_neg kept).trans (if_pos rfl)

theorem fillSlot_elsewhere {i : Nat} {q : Option Nat} (held : 0 < hint) :
    v.fillSlot st pc slot wr hint (i, false, false, q) = (v, .kept) := by
  unfold State.fillSlot
  dsimp only
  rw [Bool.false_and, Bool.false_and, if_neg Bool.false_ne_true, if_neg Bool.false_ne_true, if_pos held]

theorem fillSlot_byTurn {i q : Nat} :
    v.fillSlot st pc slot wr 0 (i, false, false, some q) =
      (v.modStack st fun y => { y.answered i .served with rr := y.rr.set pc ((q + 1) % 69) }, .kept) := by
  unfold State.fillSlot
  dsimp only
  rw [Bool.false_and, Bool.false_and, if_neg Bool.false_ne_true, if_neg Bool.false_ne_true, if_neg (Nat.lt_irrefl 0)]
  rfl

theorem mayRefuse_bounds (may : v.mayRefuse st pc wr hint = true) : 0 < hint ∧ hint ≤ maxHint (v.stackAt st) ∧
    ∀ r ∈ (v.stackAt st).reqs, r.pc = pc → r.wr = wr → r.st ≠ .hinted (((v.stackAt st).cal (calCode pc wr)).next) hint := by
  unfold State.mayRefuse at may
  simp only [Bool.and_eq_true, decide_eq_true_eq, Bool.not_eq_true'] at may
  obtain ⟨⟨⟨some_, most⟩, free⟩, -⟩ := may
  refine ⟨some_, most, fun r member pc wr hinted => ?_⟩
  have none_ := List.any_eq_false.mp free r member
  simp [pc, wr, hinted] at none_

/-! ## Answers to line requests (R256, R258) -/

/-- A unit of which one line more has been written. -/
def CUnit.lineWritten (u : CUnit) : CUnit :=
  match u.st with
  | .writing img left => { u with st := .writing img (left - 1) }
  | _ => u

theorem writePerformed_served {r : LineReq} {i : Nat} (there : (s.stackAt st).reqs[i]? = some r) (writes : r.wr = true)
    (served : r.st = .served) : execWritePerformed st i s = (
      let gone := s.modStack st fun x => { x with reqs := x.reqs.eraseIdx i, flaws := x.flaws.filter fun y => y.1 != r.line }
      .next (if r.reseal then gone.resealLine st r false
        else gone.modUnit r.tile r.eng r.uid CUnit.lineWritten)) := by
  have open_ : ¬((!r.wr) = true ∨ r.st ≠ .served) := by rw [writes, served]; simp
  unfold execWritePerformed
  rw [there]
  exact if_neg open_

theorem readLineArrival_sound {r : LineReq} {i : Nat} (there : (s.stackAt st).reqs[i]? = some r) (reads : r.wr = false)
    (served : r.st = .served) (sound : ∀ f ∈ (s.stackAt st).flaws, f.1 ≠ r.line) (away : dieOf r.tile ≠ st) :
    execReadLineArrival st i s = (
      let gone := s.modStack st fun x => { x with reqs := x.reqs.eraseIdx i, corrected := x.corrected + 0 }
      .next (if r.reseal then gone.resealLine st r false else gone.lineIn st r false)) := by
  have flawless : (s.stackAt st).flaws.find? (fun x => x.1 == r.line) = none :=
    List.find?_eq_none.mpr fun f member same => sound f member (beq_iff_eq.mp same)
  unfold execReadLineArrival
  rw [there]
  dsimp only
  rw [if_neg (by rw [reads, served]; simp), flawless, if_neg away]
  rfl

theorem lineIn_next {r : LineReq} {x : CUnit} {img left out : Nat}
    (there : (s.burinAt r.tile r.eng).flights.find? (fun u => u.uid == r.uid) = some x) (lines : x.st = .lines img left out)
    (more : 1 < left) :
    s.lineIn st r false = s.modUnit r.tile r.eng r.uid fun u => { u with st := .lines img (left - 1) out } := by
  unfold State.lineIn
  rw [there]
  dsimp only
  rw [lines]
  dsimp only
  rw [if_pos more, if_neg (by rintro ⟨bad, -⟩; cases bad)]

theorem retry_hints {r : LineReq} {i n h : Nat} {x : CUnit} (there : (s.stackAt st).reqs[i]? = some r)
    (refused : r.st = .refused n h) (plain : r.reseal = false)
    (unit : ((s.burinAt r.tile r.eng).units.find? fun u => u.uid == r.uid) = some x) :
    execRetry st i s = .next ((s.modStack st fun x => x.answered i (.hinted n h)).modCopy r.tile r.eng x.tag fun c =>
      { c with retries := c.retries + 1 }) := by
  have found : (if r.reseal = true then none
      else ((s.modStack st fun x => x.answered i (.hinted n h)).burinAt r.tile r.eng).units.find? fun u => u.uid == r.uid) = some x := by
    rw [plain]
    exact unit
  unfold execRetry
  rw [there]
  dsimp only
  rw [refused]
  dsimp only
  unfold Stack.answered at found
  rw [found]
  rfl

/-! ## Thermal states (R259, R261) -/

theorem derate_hbm (s : State) (st cause scale : Nat) (on : Bool) : (s.derate st cause scale on).hbm = s.hbm :=
  foldl_keeps (v := State.hbm) (fun s _ => congrArg (fun l : List Stack × Nat × List Nat × List Tile => l.1) (event_still s ..)) _ s

theorem stackAt_derate (s : State) (st cause scale : Nat) (on : Bool) (x : Nat) : (s.derate st cause scale on).stackAt x = s.stackAt x := by
  rw [State.stackAt, State.stackAt, derate_hbm]

theorem derate_mem (s : State) (st cause scale : Nat) (on : Bool) : (s.derate st cause scale on).mem = s.mem :=
  (State.derate_frame ..).1

theorem nextTstate_le (cur temp : Nat) : nextTstate cur temp ≤ 2 := by
  unfold nextTstate
  split_ifs <;> decide

theorem thermalStateChange_run (s : State) (st temp : Nat) :
    ∃ u : State, execThermalStateChange st temp s = .next u ∧ u.mem = s.mem ∧ u.stackAt st = (s.modStack st fun k =>
      { k with temp := BitVec.ofNat 8 temp, tstate := BitVec.ofNat 2 (nextTstate (s.stackAt st).tstate.toNat temp) }).stackAt st := by
  unfold execThermalStateChange
  dsimp only
  split
  · exact ⟨_, rfl, rfl, rfl⟩
  · refine ⟨_, rfl, ?_, ?_⟩
    · split
      · split
        · rfl
        · rw [derate_mem]; rfl
      · split
        · rw [derate_mem]; rfl
        · rw [derate_mem, derate_mem]; rfl
    · split
      · split
        · rfl
        · rw [stackAt_derate]
      · split
        · rw [stackAt_derate]
        · rw [stackAt_derate, stackAt_derate]

/-! ## Owner entries (R254) -/

/-- Owner entries written one after the other. -/
def putOwners (l : List (Bool × Nat × BitVec 8)) (x : List (BitVec 8)) : List (BitVec 8) := l.foldl (fun l y => l.set y.2.1 y.2.2) x

theorem foldl_setOwner (l : List (Bool × Nat × BitVec 8)) (k : Stack) (same : ∀ y ∈ l, y.1 = wr) :
    (l.foldl Stack.setOwner k).ownWr = (if wr then putOwners l k.ownWr else k.ownWr) ∧
      (l.foldl Stack.setOwner k).ownRd = (if wr then k.ownRd else putOwners l k.ownRd) := by
  induction l generalizing k with
  | nil => cases wr <;> exact ⟨rfl, rfl⟩
  | cons y l ih =>
    obtain ⟨w, r⟩ := ih (k.setOwner y) fun z member => same z (List.mem_cons_of_mem y member)
    have dir := same y List.mem_cons_self
    rw [List.foldl_cons, w, r]
    cases wr with
    | true =>
      have set : k.setOwner y = { k with ownWr := k.ownWr.set y.2.1 y.2.2 } := if_pos dir
      rw [set]
      exact ⟨rfl, rfl⟩
    | false =>
      have set : k.setOwner y = { k with ownRd := k.ownRd.set y.2.1 y.2.2 } := if_neg (by rw [dir]; decide)
      rw [set]
      exact ⟨rfl, rfl⟩

theorem keepOwners_owners (k : Stack) (wr : Bool) (b : Bool) :
    (if b then k else k.keepOwners wr).ownWr = k.ownWr ∧ (if b then k else k.keepOwners wr).ownRd = k.ownRd := by
  cases b <;> exact ⟨rfl, rfl⟩

theorem foldl_setOwner_ownNew (l : List (Bool × Nat × BitVec 8)) (k : Stack) : (l.foldl Stack.setOwner k).ownNew = k.ownNew := by
  induction l generalizing k with
  | nil => rfl
  | cons y l ih =>
    refine (ih (k.setOwner y)).trans ?_
    unfold Stack.setOwner
    split
    · rfl
    · rfl

/-- The stack whose `n` oldest entries of a direction come into force. -/
def Stack.ownersIn (k : Stack) (wr : Bool) (n : Nat) : Stack :=
  let l := (k.ownNew.filter fun y => y.1 == wr).take n
  let k := l.foldl Stack.setOwner (if l.isEmpty then k else k.keepOwners wr)
  { k with ownNew := (k.ownNew.filter fun y => y.1 != wr) ++ (k.ownNew.filter fun y => y.1 == wr).drop n }

theorem ownerEntryEffect_eq (s : State) (st : Nat) (wr : Bool) (n : Nat) :
    execOwnerEntryEffect { st := st, wr := wr, n := n } s = .next (s.modStack st fun k => k.ownersIn wr n) := rfl

theorem ownersIn_ownNew (k : Stack) (wr : Bool) (n : Nat) :
    (k.ownersIn wr n).ownNew.filter (fun y => y.1 == wr) = (k.ownNew.filter fun y => y.1 == wr).drop n ∧
      (k.ownersIn wr n).ownNew.filter (fun y => y.1 != wr) = k.ownNew.filter fun y => y.1 != wr := by
  have kept : ((((k.ownNew.filter fun y => y.1 == wr).take n)).foldl Stack.setOwner
      (if ((k.ownNew.filter fun y => y.1 == wr).take n).isEmpty then k else k.keepOwners wr)).ownNew = k.ownNew := by
    rw [foldl_setOwner_ownNew]
    split
    · rfl
    · rfl
  have apart : ∀ y : Bool × Nat × BitVec 8, (y.1 == wr && y.1 != wr) = false := fun y => by rw [bne, Bool.and_not_self]
  unfold Stack.ownersIn
  dsimp only
  rw [kept, List.filter_append, List.filter_append, List.filter_filter]
  have mine : ∀ y ∈ (k.ownNew.filter fun y => y.1 == wr).drop n, (y.1 == wr) = true := fun y member =>
    (List.mem_filter.mp (List.mem_of_mem_drop member)).2
  have none_ : ((k.ownNew.filter fun y => y.1 == wr).drop n).filter (fun y => y.1 != wr) = [] :=
    List.filter_eq_nil_iff.mpr fun y member other => by
      have both := apart y
      rw [mine y member, other] at both
      cases both
  constructor
  · rw [List.filter_eq_nil_iff.mpr, List.nil_append, List.filter_eq_self.mpr mine]
    exact fun y _ both => by rw [apart] at both; cases both
  · rw [none_, List.append_nil, List.filter_filter]
    exact List.filter_congr fun y _ => Bool.and_self _

theorem ownersIn_owners (k : Stack) (wr : Bool) (n : Nat) :
    (k.ownersIn wr n).ownWr = (if wr then putOwners ((k.ownNew.filter fun y => y.1 == wr).take n) k.ownWr else k.ownWr) ∧
      (k.ownersIn wr n).ownRd = (if wr then k.ownRd else putOwners ((k.ownNew.filter fun y => y.1 == wr).take n) k.ownRd) := by
  have same : ∀ y ∈ (k.ownNew.filter fun y => y.1 == wr).take n, y.1 = wr := fun y member =>
    beq_iff_eq.mp (List.mem_filter.mp (List.mem_of_mem_take member)).2
  obtain ⟨w, r⟩ := foldl_setOwner _ (if ((k.ownNew.filter fun y => y.1 == wr).take n).isEmpty then k else k.keepOwners wr) same
  obtain ⟨w', r'⟩ := keepOwners_owners k wr ((k.ownNew.filter fun y => y.1 == wr).take n).isEmpty
  exact ⟨w.trans (by rw [w']), r.trans (by rw [r'])⟩

end

/-- Settles O33: what the schedulers of a stack answer, serve and refuse, and what its events change. -/
theorem stackEvents : Obligations.StackEvents := by
  intro s st k
  refine ⟨fun r there => ⟨fun writes served => ?_, fun reads served sound away => ?_, fun u img left out unit lines more => ?_,
    fun slot hint u refused plain unit => ?_⟩, fun pc slot hint wr v few free moved => ?_,
    fun pc slot hint wr v few inside free moved => closingPoint_keeps inside few free moved, fun temp => ?_, fun wr n => ?_, rfl,
    fun asked calm served => ?_, fun ratio => ?_, fun r retrains => ?_⟩
  · exact writePerformed_served there writes served
  · exact ⟨s.modStack st fun x => { x with reqs := x.reqs.eraseIdx k, corrected := x.corrected + 0 }, rfl, rfl,
      fun inside => congrArg Stack.reqs (stackAt_modStack_same inside _), readLineArrival_sound there reads served sound away⟩
  · exact lineIn_next unit lines more
  · exact retry_hints there refused plain unit
  · have run := closingPoint_run (hint := hint) few free moved
    refine ⟨fun pick => ?_, fun r there => ⟨fun pick may => ?_, fun res pick must => ?_⟩, fun q pick held => ?_, fun q pick now => ?_,
      mayRefuse_bounds, fun y => rfl⟩
    · exact run.trans (by rw [State.closeSlot, pick])
    · exact run.trans (by rw [State.closeSlot, pick]; dsimp only; rw [fillSlot_refuses there may]; rfl)
    · exact run.trans (by rw [State.closeSlot, pick]; dsimp only; rw [fillSlot_serves there must]; rfl)
    · exact run.trans (by rw [State.closeSlot, pick]; dsimp only; rw [fillSlot_elsewhere held])
    · exact run.trans (by rw [State.closeSlot, pick, now]; dsimp only; rw [fillSlot_byTurn]; rfl)
  · obtain ⟨u, run, mem, stack⟩ := thermalStateChange_run s st temp
    refine ⟨u, run, mem, fun inside => ?_⟩
    rw [stack, stackAt_modStack_same inside]
    have small := nextTstate_le (s.stackAt st).tstate.toNat temp
    exact ⟨rfl, (BitVec.toNat_ofNat ..).trans (Nat.mod_eq_of_lt (by omega))⟩
  · refine ⟨_, ownerEntryEffect_eq s st wr n, rfl, fun inside => ?_⟩
    dsimp only
    rw [stackAt_modStack_same inside]
    obtain ⟨mine, others⟩ := ownersIn_ownNew (s.stackAt st) wr n
    obtain ⟨w, r⟩ := ownersIn_owners (s.stackAt st) wr n
    exact ⟨mine, others, w, r⟩
  · have due : ((s.stackAt st).reqs.all fun r => r.held || r.st == .served) = true := by
      rw [List.all_eq_true]
      intro r member
      rcases served r member with held | done
      · rw [held, Bool.true_or]
      · rw [done, beq_self_eq_true, Bool.or_true]
    have ready : ((s.stackAt st).quiesce = true ∧ (!(s.stackAt st).quiesced) = true ∧
        ((s.stackAt st).reqs.all fun r => r.held || r.st == .served) = true) := ⟨asked, by rw [calm]; rfl, due⟩
    exact if_pos ready
  · rfl
  · rw [exec_laneRetrainComplete, execLaneRetrainComplete, retrains]

end Sys2Proof.Machine
end

section
/-! SUPPORT. The steps of the copy engines: begin, retirement, stalls and completion. -/

namespace Sys2Proof.Machine

section
variable {s : State} {t e : Nat} {u : CUnit} {c : Copy}

theorem copyBegin_runs (next : (s.burinAt t e).nextBegin = some c) (may : s.mayBegin t e c = true) :
    execCopyBegin t e s =
      .next ((s.modCopy t e c.tag fun c => { c with began := true, fin := cpLEN c.d == 0 }).pump t e) := by
  rw [execCopyBegin, next]
  exact if_pos may

/-- The oldest unit of an engine, its command and that it does not stall. -/
structure State.Head (s : State) (t e : Nat) (u : CUnit) (c : Copy) : Prop where
  unit : (s.burinAt t e).units.head? = some u
  copy : s.copyOf t e u.tag = some c
  free : c.stall = none

/-- What the oldest unit of an engine does, by its state. -/
def State.retire (s : State) (t e : Nat) (u : CUnit) (c : Copy) : Host.Outcome State Fault Refusal :=
  match u.st with
  | .failed err walk pout => .next (s.retireFailed t e c u err walk pout)
  | .committed img =>
    let s := if c.cut then s else s.deliverBytes t e c u.len (bits img (8 * ((cpDST c.d + u.off) % 4096)) (8 * u.len))
    .next (s.retireUnit t e u)
  | .ready img =>
    if cpWrite c.d then .next s
    else if !cpFill c.d then .next (s.copyChunk t e c u img)
    else match destPlaces s t c u.off u.len with
      | .error (.err k) => .next (s.failCopy t e c u k 0 0)
      | .error (.stall h a w) => .next (s.stallUnit t e c (h, a, w))
      | .ok ps =>
        let x := bits img (8 * ((cpSRC c.d + u.off) % 4096)) (8 * u.len)
        let s := (s.queueAll (ps.flatMap fun p => lineWrites t e (s.ownerAt t c.slot) c.banks (linePieces p x))).touch t e c.tag
        .next ((s.deliverBytes t e c u.len x).retireUnit t e u)
  | _ => .next s

theorem copyUnitRetire_eq (head : s.Head t e u c) : execCopyUnitRetire t e s = s.retire t e u c := by
  obtain ⟨unit, copy, free⟩ := head
  have open_ : ¬c.stall.isSome = true := by rw [free]; exact Bool.false_ne_true
  unfold execCopyUnitRetire
  rw [unit]
  dsimp only
  rw [copy]
  dsimp only
  rw [if_neg open_]
  rfl

theorem retireFailed_eq (s : State) (t e : Nat) (c : Copy) (u : CUnit) (err walk pout : Nat) :
    s.retireFailed t e c u err walk pout =
      match if pout = 1 ∧ cpFill c.d = true then firstStall (markLines s t c u.off u.len) else none with
      | none => s.failCopy t e c u err walk pout
      | some x => s.stallUnit t e c x := by
  unfold State.retireFailed
  cases (if pout = 1 ∧ cpFill c.d = true then firstStall (markLines s t c u.off u.len) else none) with
  | none => rfl
  | some x => rfl

theorem copyChunk_reads {img y : Nat} {v0 : State} {ps : List (List (Loc × Nat))}
    (sides : cpKIND c.d = 3 → isOther (s.ctxAt t c.slot) (cpSRC c.d) ≠ isOther (s.ctxAt t c.slot) (cpDST c.d))
    (read : readSide s t c.slot e (cpSRC c.d) (cpSRC c.d + (u.off + u.pos)) (min 64 (cpLEN c.d - (u.off + u.pos)))
      (cpKIND c.d == 3) u.buf = (v0, .ok y))
    (places : destPlaces (v0.touch t e c.tag) t c (u.off + u.pos) (min 64 (cpLEN c.d - (u.off + u.pos))) = .ok ps) :
    s.copyChunk t e c u img = (
      let v := v0.touch t e c.tag
      let n := min 64 (cpLEN c.d - (u.off + u.pos))
      let buf := u.buf ++ ps.flatMap fun p => lineWrites t e (v.ownerAt t c.slot) c.banks (linePieces p y)
      let all := img + y * 2 ^ (8 * u.pos)
      if u.pos + n < u.len then v.modUnit t e u.uid fun u => { u with pos := u.pos + n, buf := buf, st := .ready all, det := 0 }
      else ((v.queueAll buf).deliverBytes t e c u.len all).retireUnit t e u) := by
  have open_ : ¬((cpKIND c.d == 3) && !(isOther (s.ctxAt t c.slot) (cpSRC c.d) != isOther (s.ctxAt t c.slot) (cpDST c.d))) = true := by
    rw [Bool.and_eq_true, beq_iff_eq, Bool.not_eq_true', bne_eq_false_iff_eq]
    exact fun both => sides both.1 both.2
  unfold State.copyChunk
  dsimp only
  rw [if_neg open_]
  rw [show Nat.min 64 (cpLEN c.d - (u.off + u.pos)) = min 64 (cpLEN c.d - (u.off + u.pos)) from rfl, read]
  dsimp only
  rw [places]

/-! ## Stalls (R317) -/

/-- A command whose stall the region map serves goes on. -/
def Copy.resumed (s : State) (t : Nat) (c : Copy) : Copy :=
  match c.stall with
  | some x => if s.stallServed t c.slot x = true then { c with stall := none } else c
  | none => c

theorem copyStallResume_eq (s : State) (t e : Nat) :
    execCopyStallResume t e s = .next (s.modBurin t e fun b => { b with q := b.q.map (Copy.resumed s t) }) := rfl

theorem burinAt_modBurin (s : State) (t e : Nat) (f : Burin → Burin) (x y : Nat) :
    (s.modBurin t e f).burinAt x y =
      if (x = t ∧ x < s.tiles.length) ∧ y = e ∧ y < (s.tileAt x).burin.length then f (s.burinAt x y) else s.burinAt x y := by
  unfold State.modBurin State.burinAt
  rw [tileAt_modTile]
  by_cases tile : x = t ∧ x < s.tiles.length
  · rw [if_pos tile, getD_updAt]
    by_cases engine : y = e ∧ y < (s.tileAt x).burin.length
    · rw [if_pos engine, if_pos ⟨tile, engine⟩]
    · rw [if_neg engine, if_neg (fun both => engine both.2)]
  · rw [if_neg tile, if_neg (fun both => tile both.1)]

/-- A change that leaves an engine with nothing as it is reaches every engine of a number. -/
theorem burinAt_modBurin_same (s : State) (t e : Nat) {f : Burin → Burin} (idle : f {} = {}) :
    (s.modBurin t e f).burinAt t e = f (s.burinAt t e) := by
  rw [burinAt_modBurin]
  split
  · rfl
  next outside =>
    have none_ : s.burinAt t e = {} := by
      by_cases tile : t < s.tiles.length
      · exact List.getD_eq_default _ _ (Nat.le_of_not_lt fun engine => outside ⟨⟨rfl, tile⟩, rfl, engine⟩)
      · rw [State.burinAt, State.tileAt, List.getD_eq_default _ _ (Nat.le_of_not_lt tile)]
        match e with
        | 0 => rfl
        | 1 => rfl
        | n + 2 => rfl
    rw [none_, idle]

/-! ## Completion (R319 to R321) -/

theorem copyCompletion_plain {c' : Copy} (oldest : (s.burinAt t e).q.head? = some c) (may : (s.burinAt t e).mayComplete c = true)
    (sound : s.crcBad t e c = false) (quiet : c.endState false ≠ 3 ∨ cpBAREN c.d = false) :
    (let v := (if c.phase = 0 ∧ cpRECEN c.d = true then s.writeRecord t e c else s).modCopy t e c.tag fun c =>
        { c with phase := Nat.max c.phase 1 }
     v.copyOf t e c.tag = some c' → execCopyCompletion t e s = .next (v.endCopy t e c' (c.endState false) false)) := by
  intro v there
  have open_ : ¬(!(s.burinAt t e).mayComplete c) = true := by rw [may]; decide
  have still : ¬(c.endState false = 3 ∧ cpBAREN c.d = true) := fun both => quiet.elim (fun h => h both.1) fun h => by
    rw [h] at both
    cases both.2
  have recorded : (if (c.phase = 0 && cpRECEN c.d) = true then s.writeRecord t e c else s) =
      if c.phase = 0 ∧ cpRECEN c.d = true then s.writeRecord t e c else s := by
    simp only [Bool.and_eq_true, decide_eq_true_eq]
  unfold execCopyCompletion
  rw [oldest]
  dsimp only
  rw [if_neg open_, sound]
  simp only [Bool.false_eq_true, if_false]
  rw [if_neg still, recorded]
  change Host.Outcome.next (match v.copyOf t e c.tag with
    | some c' => v.endCopy t e c' (c.endState false) false
    | none => v) = _
  rw [there]

end

/-- Settles O31: begin, retirement by the state of the oldest unit, resumption after a stall, and completion. -/
theorem copyEngineSteps : Obligations.CopyEngineSteps := by
  intro s t e
  refine ⟨fun c next may => copyBegin_runs next may, fun u c img head committed => ?_, fun u unit gone ended => ?_,
    fun u c ps img head ready fill places => ?_, fun u c img y v0 ps head ready still plain sides => ?_,
    fun u c err walk pout head failed => ?_, ?_, fun c c' oldest may sound quiet => copyCompletion_plain oldest may sound quiet⟩
  · obtain ⟨unit, copy, free⟩ := head
    refine (copyUnitRetire_eq ⟨unit, copy, free⟩).trans ?_
    rw [State.retire, committed]
  · have leaves : (u.st.isOver || u.st.kept) = true := by rw [Bool.or_eq_true]; exact ended
    rw [exec_copyUnitRetire, execCopyUnitRetire, unit]
    dsimp only
    rw [gone]
    exact if_pos leaves
  · obtain ⟨unit, copy, free⟩ := head
    have reads : ¬cpWrite c.d = true := fun write => by
      simp only [cpFill, cpWrite, Bool.or_eq_true, beq_iff_eq] at fill write
      omega
    refine (copyUnitRetire_eq ⟨unit, copy, free⟩).trans ?_
    rw [State.retire, ready]
    dsimp only
    rw [if_neg reads, if_neg (by rw [fill]; decide), places]
  · intro o n read v placed
    obtain ⟨unit, copy, free⟩ := head
    refine (copyUnitRetire_eq ⟨unit, copy, free⟩).trans ?_
    rw [State.retire, ready]
    dsimp only
    rw [if_neg (by rw [plain]; decide), if_pos (by rw [still]; rfl)]
    exact congrArg Host.Outcome.next (copyChunk_reads sides read placed)
  · obtain ⟨unit, copy, free⟩ := head
    refine (copyUnitRetire_eq ⟨unit, copy, free⟩).trans ?_
    rw [State.retire, failed]
    exact congrArg Host.Outcome.next (retireFailed_eq ..)
  · have queue : ((s.modBurin t e fun b => { b with q := b.q.map (Copy.resumed s t) }).burinAt t e).q =
        (s.burinAt t e).q.map (Copy.resumed s t) := congrArg Burin.q (burinAt_modBurin_same s t e rfl)
    refine ⟨_, copyStallResume_eq s t e, rfl, ?_, fun k c there => ?_⟩
    · rw [queue, List.length_map]
    · rw [queue, List.getElem?_map, there]
      rfl

end Sys2Proof.Machine
end

section
/-! SUPPORT. The steps of the matrix engine on the command at the head of its queue. -/

namespace Sys2Proof.Machine

section
variable {s : State} {t : Nat} {m : MCmd}

theorem mhead_runs (runs : m.runs = true) (free : s.matrixWaits t m = false) : ¬(!m.runs || s.matrixWaits t m) = true := by
  rw [runs, free]
  decide

theorem matrixCommandStart_begins (head : s.mhead t = some m) (idle : m.began = false) (more : m.fin = false) :
    execMatrixCommandStart t s = .next (s.modMhead t fun m =>
      { m with began := true, fin := match m.kind with
          | .go d _ _ => !nestAny d
          | .clr _ n _ => n == 0
          | .wb _ _ => false }) := by
  have open_ : ¬(m.began || m.fin) = true := by rw [idle, more]; decide
  rw [execMatrixCommandStart, head]
  exact if_neg open_

/-! ## A step of a GO (R152 to R156) -/

section
variable {d : Vec} {ra rb : BitVec 512}

theorem matrixReads_go (kind : m.kind = .go d ra rb) :
    s.matrixReads t m = stepReads (s.seen t 3 (s.ownerAt t m.slot)) t m.slot d ra rb m.idx := by
  rw [State.matrixReads, kind]

/-- A GO after one of its steps. -/
def MCmd.stepped (d : Vec) (m : MCmd) : MCmd :=
  match nextIdx d 0 m.idx with
  | some i => { m with idx := i, acc := true }
  | none => { m with fin := true }

/-- The reads of the next step of a GO. -/
def State.goReads (s : State) (t : Nat) (m : MCmd) (d : Vec) (ra rb : BitVec 512) : State × State :=
  s.sramReads (stepReads (s.seen t 3 (s.ownerAt t m.slot)) t m.slot d ra rb m.idx)

theorem matrixStep_ok {rows : List (List ((Nat × Nat × Nat) × Bool))} {fl : Flags} (head : s.mhead t = some m)
    (kind : m.kind = .go d ra rb) (runs : m.runs = true) (free : s.matrixWaits t m = false)
    (made : mstepRows (s.goReads t m d ra rb).1 t m.slot d ra rb m.idx = .ok (rows, fl)) : execMatrixStep t s =
      .next ((((rows.foldl (fun s r => s.queueW t t 3 (r.map (·.1)) (r.map (·.2))) (s.goReads t m d ra rb).2).orMflags
        t m.slot fl).engReset t).modMhead t (MCmd.stepped d)) := by
  rw [execMatrixStep, head]
  dsimp only
  rw [kind]
  dsimp only
  rw [if_neg (mhead_runs runs free), matrixReads_go kind]
  unfold State.goReads at *
  rw [made]
  rfl

theorem matrixStep_error {e : MStop} (head : s.mhead t = some m) (kind : m.kind = .go d ra rb) (runs : m.runs = true)
    (free : s.matrixWaits t m = false) (fails : mstepRows (s.goReads t m d ra rb).1 t m.slot d ra rb m.idx = .error e) :
    execMatrixStep t s = .next ((s.goReads t m d ra rb).2.mstop t m e) := by
  rw [execMatrixStep, head]
  dsimp only
  rw [kind]
  dsimp only
  rw [if_neg (mhead_runs runs free), matrixReads_go kind]
  unfold State.goReads at *
  rw [fails]

end

/-! ## A row of an MWB (R171) -/

section
variable {d r : BitVec 512}

theorem matrixReads_wb (kind : m.kind = .wb d r) : s.matrixReads t m = wbReads t d m.row := by
  rw [State.matrixReads, kind]

/-- The writes of a row, put in their banks' queues. -/
def State.queueRow (s : State) (t : Nat) (ws : List (Nat × List (Nat × Nat × Bool))) : State :=
  ws.foldl (fun s w =>
    let ps := groupBytes w.2.length w.2
    s.queueW w.1 t 3 (ps.map (·.1)) (ps.map (·.2))) s

theorem mwbRow_ok {ws : List (Nat × List (Nat × Nat × Bool))} {fl : Flags} (head : s.mhead t = some m) (kind : m.kind = .wb d r)
    (runs : m.runs = true) (free : s.matrixWaits t m = false)
    (made : wbRow (s.sramReads (wbReads t d m.row)).1 t m.slot d r m.row = .ok (ws, fl)) : execMwbRow t s =
      .next (((((s.sramReads (wbReads t d m.row)).2.queueRow t ws).orMflags t m.slot fl).engReset t).modMhead t fun m =>
        { m with row := m.row + 1, fin := m.row == wbROWM1 d }) := by
  rw [execMwbRow, head]
  dsimp only
  rw [kind]
  dsimp only
  rw [if_neg (mhead_runs runs free), matrixReads_wb kind, made]
  rfl

theorem mwbRow_error {e : MStop} (head : s.mhead t = some m) (kind : m.kind = .wb d r) (runs : m.runs = true)
    (free : s.matrixWaits t m = false) (fails : wbRow (s.sramReads (wbReads t d m.row)).1 t m.slot d r m.row = .error e) :
    execMwbRow t s = .next ((s.sramReads (wbReads t d m.row)).2.mstop t m e) := by
  rw [execMwbRow, head]
  dsimp only
  rw [kind]
  dsimp only
  rw [if_neg (mhead_runs runs free), matrixReads_wb kind, fails]

end

theorem matrix_waits (head : s.mhead t = some m) (waits : s.matrixWaits t m = true) :
    execMatrixStep t s = .next s ∧ execMwbRow t s = .next s := by
  have shut : (!m.runs || s.matrixWaits t m) = true := by rw [waits, Bool.or_true]
  rw [execMatrixStep, execMwbRow, head]
  dsimp only
  constructor
  · cases m.kind with
    | go d ra rb => exact if_pos shut
    | clr off n z => rfl
    | wb d r => rfl
  · cases m.kind with
    | go d ra rb => rfl
    | clr off n z => rfl
    | wb d r => exact if_pos shut

/-! ## Stalls and clears (R159, R168) -/

theorem matrixStallResume_served {a : Nat} {st : Bool} {l : Loc} (head : s.mhead t = some m) (stalls : m.stall = some (a, st))
    (served : s.engLoc t m.slot a 1 st true true = .ok l) : execMatrixStallResume t s =
      .next ((s.modMhead t fun m => { m with stall := none }).modCtx t m.slot fun c => { c with mrstall := false }) := by
  rw [execMatrixStallResume, head]
  dsimp only
  rw [stalls]
  dsimp only
  rw [served]

theorem matrixClearRun_clears {off n : Nat} {z : Bool} (head : s.mhead t = some m) (kind : m.kind = .clr off n z)
    (runs : m.runs = true) : execMatrixClearRun t s =
      .next ((((List.range (n / 64)).foldl (fun s j => s.queueW t t 3
        ((List.range 8).map fun k => (accKey t (off + 64 * j + 8 * k), 8, if z then 0x8000000080000000 else 0))
        (List.replicate 8 false)) s).engReset t).modMhead t fun m => { m with fin := true }) := by
  rw [execMatrixClearRun, head]
  dsimp only
  rw [kind]
  dsimp only
  exact if_neg (by rw [runs]; decide)

/-! ## Completion (R160) -/

/-- What a completion does before its event. -/
def State.matrixDone (s : State) (t : Nat) (m : MCmd) : State :=
  let s := s.modTile t fun x => ({ x with mdone := m.seq, mq := x.mq.tail }).popMatrix
  let a := mActions m.kind
  let s := if a.1 then s.sendSig (s.ctxAt t m.slot).gang a.2.1 a.2.2.1 1 else s
  if a.2.2.2 then s.setPend t m.slot 2 else s

theorem matrixCompletion_done (head : s.mhead t = some m) (done : m.fin = true) (sound : m.err ≠ 4) :
    execMatrixCompletion t s = .next ((s.matrixDone t m).setEvent t m.slot 3) := by
  rw [execMatrixCompletion, head]
  dsimp only
  rw [if_neg (by rw [done]; decide), if_neg sound]
  rfl

theorem popMatrix_of_live {x : Tile} (live : x.mq.head?.all (fun m => !(m.fin && m.err == 4)) = true) : x.popMatrix = x := by
  have kept : popAborted x.mdone x.mq = (x.mdone, x.mq) := by
    cases queue : x.mq with
    | nil => rfl
    | cons m r =>
      rw [queue] at live
      refine if_neg ?_
      simp only [List.head?_cons, Option.all_some, Bool.not_eq_true'] at live
      rw [live]
      decide
  rw [Tile.popMatrix, kept]

theorem queue_modCtx (s : State) (t k n : Nat) (f : Ctx → Ctx) :
    ((s.modCtx t k f).tileAt n).mdone = (s.tileAt n).mdone ∧ ((s.modCtx t k f).tileAt n).mq = (s.tileAt n).mq := by
  rw [tileAt_modCtx]
  split
  · exact ⟨rfl, rfl⟩
  · exact ⟨rfl, rfl⟩

theorem ctx_modCtx_isSome {u : State} {slot : Nat} {f : Ctx → Ctx} (here : (u.ctx? t slot).isSome = true) :
    ((u.modCtx t slot f).ctx? t slot).isSome = true := by
  rw [ctx?_modCtx, if_pos ⟨rfl, rfl⟩, Option.isSome_map]
  exact here

theorem sendSig_if_tiles (s : State) (b : Bool) (g k i n : Nat) : (if b then s.sendSig g k i n else s).tiles = s.tiles := by
  cases b with
  | true => exact sendSig_tiles ..
  | false => rfl

theorem matrixDone_mem (s : State) (t : Nat) (m : MCmd) : (s.matrixDone t m).mem = s.mem := by
  have sent : ∀ (u : State) (b : Bool) (g k i n : Nat), (if b then u.sendSig g k i n else u).mem = u.mem := fun u b g k i n => by
    cases b with
    | true => exact (State.sendSig_frame ..).1
    | false => rfl
  have pend : ∀ (u : State) (b : Bool) (slot i : Nat), (if b then u.setPend t slot i else u).mem = u.mem := fun u b slot i => by
    cases b <;> rfl
  exact (pend ..).trans (sent ..)

theorem matrixDone_ctx (s : State) (t : Nat) (m : MCmd) (here : (s.ctx? t m.slot).isSome = true) :
    ((s.matrixDone t m).ctx? t m.slot).isSome = true := by
  have popped : (s.modTile t fun x => ({ x with mdone := m.seq, mq := x.mq.tail } : Tile).popMatrix).ctx? t m.slot = s.ctx? t m.slot :=
    ctx?_modTile_of_ctx s t (f := fun x => ({ x with mdone := m.seq, mq := x.mq.tail } : Tile).popMatrix) (fun _ => rfl) t m.slot
  unfold State.matrixDone
  dsimp only
  generalize (s.modTile t fun x => ({ x with mdone := m.seq, mq := x.mq.tail } : Tile).popMatrix) = u at *
  have sent : ((if (mActions m.kind).1 then u.sendSig (u.ctxAt t m.slot).gang (mActions m.kind).2.1 (mActions m.kind).2.2.1 1
      else u).ctx? t m.slot).isSome = true := by
    rw [ctx?_of_tiles (sendSig_if_tiles ..), popped]
    exact here
  cases (mActions m.kind).2.2.2 with
  | true => exact ctx_modCtx_isSome sent
  | false => exact sent

theorem matrixDone_queue (s : State) (m : MCmd) (inside : t < s.tiles.length)
    (live : (s.tileAt t).mq.tail.head?.all (fun x => !(x.fin && x.err == 4)) = true) :
    ((s.matrixDone t m).tileAt t).mdone = m.seq ∧ ((s.matrixDone t m).tileAt t).mq = (s.tileAt t).mq.tail := by
  have popped : (s.modTile t fun x => ({ x with mdone := m.seq, mq := x.mq.tail } : Tile).popMatrix).tileAt t =
      { s.tileAt t with mdone := m.seq, mq := (s.tileAt t).mq.tail } := by
    rw [tileAt_modTile, if_pos ⟨rfl, inside⟩]
    exact popMatrix_of_live live
  unfold State.matrixDone
  dsimp only
  generalize (s.modTile t fun x => ({ x with mdone := m.seq, mq := x.mq.tail } : Tile).popMatrix) = u at *
  have sent := tileAt_of_tiles (sendSig_if_tiles u (mActions m.kind).1 (u.ctxAt t m.slot).gang (mActions m.kind).2.1
    (mActions m.kind).2.2.1 1) t
  cases (mActions m.kind).2.2.2 with
  | true =>
    refine ⟨(queue_modCtx ..).1.trans ?_, (queue_modCtx ..).2.trans ?_⟩
    · rw [sent, popped]
    · rw [sent, popped]
  | false =>
    rw [if_neg Bool.false_ne_true, sent, popped]
    exact ⟨rfl, rfl⟩

theorem setEvent_matrix (u : State) (here : (u.ctx? t m.slot).isSome = true) :
    ((u.setEvent t m.slot 3).ctxAt t m.slot).events.getLsbD 3 = true := by
  rw [State.setEvent, ctxAt_modCtx_self _ _ _ _ here, BitVec.getLsbD_or]
  exact Bool.or_true _

end

/-- Settles O29: the engine begins, steps, writes back, clears, waits, stalls and completes the command at its queue's head. -/
theorem matrixEngineSteps : Obligations.MatrixEngineSteps := by
  intro s t m head
  refine ⟨fun idle more => matrixCommandStart_begins head idle more, fun d ra rb rows fl kind runs free => ?_,
    fun d ra rb e kind runs free => ?_, fun quiet l => State.sramReads_quiet l quiet, fun a st l stalls served => ?_,
    fun d r ws fl kind runs free => ?_, fun d r e kind runs free => ?_, fun waits => matrix_waits head waits,
    fun off n z kind runs => matrixClearRun_clears head kind runs, fun done sound => ?_⟩
  · exact fun made => matrixStep_ok head kind runs free made
  · exact fun fails => matrixStep_error head kind runs free fails
  · exact matrixStallResume_served head stalls served
  · exact fun made => mwbRow_ok head kind runs free made
  · exact fun fails => mwbRow_error head kind runs free fails
  · refine ⟨_, matrixCompletion_done head done sound, fun here => setEvent_matrix _ (matrixDone_ctx s t m here),
      matrixDone_mem s t m, fun r rest live inside => ?_⟩
    subst rest
    obtain ⟨mdone, mq⟩ := matrixDone_queue s m inside live
    exact ⟨(queue_modCtx ..).1.trans mdone, (queue_modCtx ..).2.trans mq⟩

end Sys2Proof.Machine
end

section
/-! SUPPORT. The Orrery: dispatch, start states, parameter blocks, completion, continuations, pre-emption and resumption. -/

namespace Sys2Proof.Machine

section
variable {s : State} {die t slot gang : Nat}

/-! ## Dispatch and completion (R185 to R187) -/

theorem gangDispatch_here {j : Job} {ts : List Nat} (next : s.nextDispatch die = some (j, ts)) (home : ∀ x ∈ ts, dieOf x = die) :
    execGangDispatch die s = .next (s.dispatch die j ts) := by
  rw [execGangDispatch, next]
  exact if_pos (List.all_eq_true.mpr fun x member => beq_iff_eq.mpr (home x member))

theorem tileClaim_away {j : Job} {ts : List Nat} (next : s.nextDispatch die = some (j, ts)) (away : ∃ x ∈ ts, dieOf x ≠ die) :
    execTileClaim die j.slot s = .next (s.dispatch die j ts) := by
  obtain ⟨x, member, other⟩ := away
  rw [execTileClaim, next]
  exact if_pos ⟨rfl, List.any_eq_true.mpr ⟨x, member, bne_iff_ne.mpr other⟩⟩

theorem jobCompletion_done {j : Job} (there : ((s.dieAt die).jobs.find? fun j => j.slot == slot && !j.complete) = some j)
    (done : s.jobDone die j = true) : execJobCompletion die slot s = .next (s.endJob (handleOf die j) false false false) := by
  rw [execJobCompletion, there]
  exact if_pos done

/-! ## The fill of a parameter block (R183) -/

section
variable {g : Gang} {m : Member}

/-- A fill that fails: the gang does not start and its job ends REFUSED. -/
def State.refuseFill (s : State) (g : Gang) : State := (s.stopGang g.id).endJob g.job true false false

/-- What follows a reading of the block, by what it answers. -/
def State.fillStep (s : State) (t slot : Nat) (g : Gang) : State × FillRes → Host.Outcome State Fault Refusal
  | (s', .ok _) => .next (s'.setFilled t slot)
  | (s', .bad) => .next (s'.refuseFill g)
  | (s', .need base) => match (s.burinAt t 0).fetchOf .params base with
    | none => .next (s.startFetch t .params base 1 4096)
    | some u => match u.st with
      | .ready img => .next ((s.dropFetch t 0 u.uid).addPlate t slot base img)
      | .failed _ _ _ => .next ((s'.dropFetch t 0 u.uid).refuseFill g)
      | _ => .next s

theorem parameterBlockFill_eq (of : s.gangOf (s.ctxAt t slot).gang = some g)
    (member : (g.members.find? fun m => m.isAt t slot && !m.filled) = some m) :
    execParameterBlockFill t slot s = s.fillStep t slot g (s.paramBlock m.plates t slot (pktPARAMS g.pkt)) := by
  unfold execParameterBlockFill
  dsimp only
  rw [of]
  dsimp only
  rw [member]
  rfl

variable (of : s.gangOf (s.ctxAt t slot).gang = some g) (member : (g.members.find? fun m => m.isAt t slot && !m.filled) = some m)
include of member

theorem parameterBlockFill_ok {x : Nat} (res : (s.paramBlock m.plates t slot (pktPARAMS g.pkt)).2 = .ok x) :
    execParameterBlockFill t slot s = .next ((s.paramBlock m.plates t slot (pktPARAMS g.pkt)).1.setFilled t slot) := by
  rw [parameterBlockFill_eq of member, ← Prod.eta (s.paramBlock m.plates t slot (pktPARAMS g.pkt)), res, State.fillStep]

theorem parameterBlockFill_bad (res : (s.paramBlock m.plates t slot (pktPARAMS g.pkt)).2 = .bad) :
    execParameterBlockFill t slot s = .next ((s.paramBlock m.plates t slot (pktPARAMS g.pkt)).1.refuseFill g) := by
  rw [parameterBlockFill_eq of member, ← Prod.eta (s.paramBlock m.plates t slot (pktPARAMS g.pkt)), res, State.fillStep]

variable {base : Nat} (res : (s.paramBlock m.plates t slot (pktPARAMS g.pkt)).2 = .need base)
include res

theorem parameterBlockFill_asks (absent : (s.burinAt t 0).fetchOf .params base = none) :
    execParameterBlockFill t slot s = .next (s.startFetch t .params base 1 4096) := by
  rw [parameterBlockFill_eq of member, ← Prod.eta (s.paramBlock m.plates t slot (pktPARAMS g.pkt)), res, State.fillStep]
  rw [absent]

theorem parameterBlockFill_takes {w : CUnit} {img : Nat} (fill : (s.burinAt t 0).fetchOf .params base = some w)
    (ready : w.st = .ready img) :
    execParameterBlockFill t slot s = .next ((s.dropFetch t 0 w.uid).addPlate t slot base img) := by
  rw [parameterBlockFill_eq of member, ← Prod.eta (s.paramBlock m.plates t slot (pktPARAMS g.pkt)), res, State.fillStep]
  rw [fill]
  dsimp only
  rw [ready]

theorem parameterBlockFill_fails {w : CUnit} {a b e : Nat} (fill : (s.burinAt t 0).fetchOf .params base = some w)
    (failed : w.st = .failed a b e) : execParameterBlockFill t slot s =
      .next (((s.paramBlock m.plates t slot (pktPARAMS g.pkt)).1.dropFetch t 0 w.uid).refuseFill g) := by
  rw [parameterBlockFill_eq of member, ← Prod.eta (s.paramBlock m.plates t slot (pktPARAMS g.pkt)), res, State.fillStep]
  rw [fill]
  dsimp only
  rw [failed]

end

/-! ## The start state of a member (R20, R21, R177) -/

theorem freeSlot_lt {k : Nat} (free : s.freeSlot t = some k) : k < (s.tileAt t).ctx.length := by
  obtain ⟨x, found, rfl⟩ := Option.map_eq_some_iff.mp free
  exact (List.mem_zipIdx' (List.mem_of_find?_eq_some found)).1

theorem ctx?_placeMember {j : Job} {inst g k : Nat} (free : s.freeSlot t = some k) (inside : t < s.tiles.length) :
    (s.placeMember die j inst gang (t, g)).1.ctx? t k = some (s.startCtx (handleOf die j) j.pkt inst g gang t k
      ((s.freeSems t).take (pktSEMS j.pkt))) := by
  unfold State.placeMember State.ctx?
  dsimp only
  rw [free, Option.getD_some, tileAt_modTile, if_pos ⟨rfl, inside⟩]
  unfold Tile.takeHandoffs
  dsimp only
  rw [List.getD_eq_getElem?_getD, List.getElem?_set_self (freeSlot_lt free), Option.getD_some]

theorem getD_replicate_self {α : Type} (n i : Nat) (d : α) : (List.replicate n d).getD i d = d := by
  rw [List.getD_eq_getElem?_getD, List.getElem?_replicate]
  split
  · rfl
  · rfl

/-- The die of a heap that a job's handle names. -/
theorem die_of_handle (j : Job) (slots : j.slot < 4096) : bits (handleOf die j).toNat 12 3 = die % 8 := by
  rw [handleOf, BitVec.toNat_ofNat, bits]
  omega

section
variable (job : W64) (p : BitVec 512) (inst g k : Nat) (sems : List Nat)

theorem startCtx_pc : (s.startCtx job p inst g gang t k sems).pc.toNat = pktENTRY p := by
  refine (BitVec.toNat_ofNat ..).trans (Nat.mod_eq_of_lt ?_)
  have small : pktENTRY p < 2 ^ 48 := Nat.mod_lt _ (Nat.two_pow_pos 48)
  omega

theorem startCtx_heap (near : t < 512) : (userRead (s.startCtx job p inst g gang t k sems) 0 0 0 t 0x05).toNat =
    if pktKIND p = 2 then pktHEAP p % 16 + bits job.toNat 12 3 * 16 else dieOf t * 16 := by
  have die : bits job.toNat 12 3 < 8 := Nat.mod_lt _ (by decide)
  have home : dieOf t < 8 := Nat.div_lt_of_lt_mul near
  change (BitVec.ofNat 64 ((BitVec.ofNat 4 (if pktKIND p = 2 then pktHEAP p else 0)).toNat +
    (if pktKIND p = 2 then bits job.toNat 12 3 else dieOf t) * 2 ^ 4)).toNat = _
  rw [BitVec.toNat_ofNat, BitVec.toNat_ofNat]
  split
  · omega
  · omega

theorem startCtx_zero : ∀ x ∈ [0x00, 0x01, 0x02, 0x03, 0x06, 0x08, 0x09, 0x11, 0x12],
    userRead (s.startCtx job p inst g gang t k sems) 0 0 0 t x = 0 := by
  simp [userRead, State.startCtx, Ctx.tsr, Ctx.chctl, ofBool]

theorem startCtx_scope : userRead (s.startCtx job p inst g gang t k sems) 0 0 0 t 0x04 = 0x2FFFF := by
  simp [userRead, State.startCtx]

theorem startCtx_task : userRead (s.startCtx job p inst g gang t k sems) 0 0 0 t 0x18 = (taskOf p inst g).setWidth 64 := by
  simp [userRead, State.startCtx]

theorem startCtx_status (y : Tile) : supRead (s.startCtx job p inst g gang t k sems) y k 0x00 = BitVec.ofNat 64 (k * 2 ^ 4) := by
  simp [supRead, State.startCtx, ofBool]

theorem startCtx_registers (i : Nat) : (s.startCtx job p inst g gang t k sems).sreg i = {} ∧
    (s.startCtx job p inst g gang t k sems).v.getD i {} = {} ∧
    (0 < i → (s.startCtx job p inst g gang t k sems).preg i = 0) ∧ (s.startCtx job p inst g gang t k sems).recs.getD i 0 = 0 := by
  refine ⟨?_, getD_replicate_self 32 i _, fun named => ?_, getD_replicate_self 64 i _⟩
  · unfold Ctx.sreg
    split
    · rfl
    · exact getD_replicate_self 32 i _
  · unfold Ctx.preg
    rw [if_neg (Nat.pos_iff_ne_zero.mp named)]
    exact getD_replicate_self 8 _ _

end

/-! ## The block and its entries (R183) -/

section
variable {ps : List (Nat × Nat)} {x : Nat}

theorem dwOf_field {w lo n : Nat} (inside : lo + n ≤ 64) : bits (dwOf x w) lo n = bits (x / 2 ^ (64 * w)) lo n :=
  bits_mod_two_pow inside _

theorem paramBlock_bindings {va : Nat} (read : State.paramBytes ps va 80 2 = .ok x)
    (clean : ∀ w < 8, bits (x / 2 ^ (64 * w)) 23 9 = 0 ∧ bits (x / 2 ^ (64 * w)) 56 8 = 0) (none_ : bits x 512 7 = 0)
    (zero : bits x 519 57 = 0) (last : x / 2 ^ 576 % 2 ^ 64 = 0) : s.paramBlock ps t slot va = (s.modCtx t slot fun c =>
      { c with pwb := (List.range 8).map fun w => BitVec.ofNat 64 (x / 2 ^ (64 * w) % 2 ^ 23),
               pws := (List.range 8).map fun w => BitVec.ofNat 64 (x / 2 ^ (64 * w + 32) % 2 ^ 24) }, .ok 0) := by
  have reserved : ((List.range 8).map fun w => dwOf x w).any (fun d => bits d 23 9 != 0 || bits d 56 8 != 0) = false := by
    rw [List.any_map, List.any_eq_false]
    intro w member
    obtain ⟨low, high⟩ := clean w (List.mem_range.mp member)
    simp only [Function.comp_apply]
    rw [dwOf_field (by decide), dwOf_field (by decide), low, high]
    decide
  have bases : ((List.range 8).map fun w => dwOf x w).map (fun d => BitVec.ofNat 64 (bits d 0 23)) =
      (List.range 8).map fun w => BitVec.ofNat 64 (x / 2 ^ (64 * w) % 2 ^ 23) := by
    rw [List.map_map]
    refine List.map_congr_left fun w _ => congrArg (BitVec.ofNat 64) ?_
    dsimp only
    rw [dwOf_field (by decide), bits, Nat.pow_zero, Nat.div_one]
  have sizes : ((List.range 8).map fun w => dwOf x w).map (fun d => BitVec.ofNat 64 (bits d 32 24)) =
      (List.range 8).map fun w => BitVec.ofNat 64 (x / 2 ^ (64 * w + 32) % 2 ^ 24) := by
    rw [List.map_map]
    refine List.map_congr_left fun w _ => congrArg (BitVec.ofNat 64) ?_
    dsimp only
    rw [dwOf_field (by decide), bits, Nat.div_div_eq_div_mul, ← Nat.pow_add]
  have nothing : State.paramBytes ps (va + 80) (16 * 0) 2 = .ok 0 := rfl
  have ninth : dwOf x 9 = 0 := by rw [dwOf, bits, show 64 * 9 = 576 from rfl, last]
  unfold State.paramBlock
  rw [read]
  dsimp only
  rw [reserved, none_, zero, ninth, if_neg (by decide), nothing, bases, sizes]
  rfl

/-! ## Parameter records (R8, R110, R183) -/

theorem putRecs_length (l : List (BitVec 512)) (i n x : Nat) : (putRecs l i n x).length = l.length := by
  unfold putRecs
  generalize List.range n = js
  induction js generalizing l with
  | nil => rfl
  | cons j js ih => exact (ih _).trans List.length_set

theorem putRecs_succ (l : List (BitVec 512)) (i n x : Nat) :
    putRecs l i (n + 1) x = (putRecs l i n x).set (i + n) (BitVec.ofNat 512 (bits x (512 * n) 512 &&& recMask)) := by
  rw [putRecs, List.range_succ, List.foldl_append]
  rfl

theorem getD_putRecs {l : List (BitVec 512)} (i n x k : Nat) (fits : i + n ≤ l.length) :
    (putRecs l i n x).getD k 0 = if i ≤ k ∧ k < i + n then BitVec.ofNat 512 (bits x (512 * (k - i)) 512 &&& recMask) else l.getD k 0 := by
  induction n with
  | zero => rw [if_neg (by omega)]; rfl
  | succ n ih =>
    rw [putRecs_succ, List.getD_eq_getElem?_getD, List.getElem?_set, putRecs_length]
    by_cases last : i + n = k
    · subst last
      rw [if_pos rfl, if_pos (by omega), if_pos (by omega), Option.getD_some, Nat.add_sub_cancel_left]
    · rw [if_neg last, ← List.getD_eq_getElem?_getD, ih (by omega)]
      by_cases inside : i ≤ k ∧ k < i + n
      · rw [if_pos inside, if_pos (by omega)]
      · rw [if_neg inside, if_neg (by omega)]

theorem modCtx_fixed {c : Ctx} (here : s.ctx? t slot = some c) (f : Ctx → Ctx) :
    s.modCtx t slot f = s.modCtx t slot fun _ => f c := by
  have slots : updAt (Option.map f) slot (s.tileAt t).ctx = updAt (Option.map fun _ => f c) slot (s.tileAt t).ctx :=
    updAt_congr (d := none) fun _ => by
      rw [State.ctx?] at here
      rw [here]
      rfl
  have tiles : updAt (fun x : Tile => { x with ctx := updAt (Option.map f) slot x.ctx }) t s.tiles =
      updAt (fun x : Tile => { x with ctx := updAt (Option.map fun _ => f c) slot x.ctx }) t s.tiles :=
    updAt_congr (d := {}) fun _ => congrArg (fun l => { s.tileAt t with ctx := l }) slots
  exact congrArg (fun l => { s with tiles := l }) tiles

theorem paramEntry_records {e : Nat} (flags : bits e 48 16 = 0) (index : bits e 87 9 = 0) (size : bits e 120 7 = 0) (kind : bit e 127 = true)
    (whole : bits e 96 24 % 64 = 0) (fits : bits e 64 23 + bits e 96 24 / 64 ≤ 64)
    (read : State.paramBytes ps (bits e 0 48) (bits e 96 24) (bits e 96 24 / 4096 + 2) = .ok x) :
    s.paramEntry ps t slot e = (s.modCtx t slot fun c =>
      { c with recs := putRecs c.recs (bits e 64 23) (bits e 96 24 / 64) x }, .ok 0) := by
  unfold State.paramEntry
  dsimp only
  rw [if_neg (by rw [flags, index, size]; decide), if_pos kind, if_neg (by omega), read]

end

/-! ## Continuations (R192) -/

theorem gangOf_modGang {g : Gang} {f : Gang → Gang} (of : s.gangOf gang = some g) (name : ∀ g, (f g).id = g.id) :
    (s.modGang gang f).gangOf gang = some (f g) := by
  have there : s.gangs.find? (fun x => x.id == gang) = some g := of
  unfold State.gangOf State.modGang
  dsimp only
  have unseen : ∀ x : Gang, ((if x.id == gang then f x else x).id == gang) = (x.id == gang) := fun x => by
    split
    · rw [name]
    · rfl
  rw [find?_map_changed unseen, there, Option.map_some, if_pos (List.find?_some there)]

/-- The context with which a task goes on from a record (R192). -/
def State.contCtx (s : State) (g : Gang) (m : Member) (k : Cont) (gang t slot idx : Nat) : Ctx :=
  let key := spKey k.tile (physSp ((s.tileAt k.tile).entry k.addr) k.addr)
  let x := s.rd key 64
  { s.startCtx g.job g.pkt g.inst idx gang t slot m.sems with
    pc := BitVec.ofNat 64 (bits x 0 48), taskid := BitVec.ofNat 32 (bits x 448 32), posted := k.posted, start := k.start,
    pwb := k.start.pwb, pws := k.start.pws, recs := k.start.recs,
    s := (List.range 32).map fun i =>
      if 1 ≤ i ∧ i ≤ 6 then { v := BitVec.ofNat 64 (bits x (64 * i) 64), p := bit x (479 + i) || s.poisoned (key + 8 * i) }
      else ({} : SVal) }

/-- Whether a member of a gang is off its tile or leaves it. -/
def State.going (s : State) (g : Gang) : Bool :=
  g.off || g.members.any fun m => m.saved.isSome || (match m.slot with
    | some n => (s.ctxAt m.tile n).preState != 0
    | none => false)

theorem going_false {g : Gang} (on : g.off = false) (present : ∀ m ∈ g.members, m.saved = none)
    (calm : ∀ m ∈ g.members, ∀ n, m.slot = some n → (s.ctxAt m.tile n).preState = 0) : s.going g = false := by
  rw [State.going, on, Bool.false_or, List.any_eq_false]
  intro m member
  rw [present m member, Option.isSome_none, Bool.false_or]
  cases slot : m.slot with
  | none => exact Bool.false_ne_true
  | some n =>
    dsimp only
    rw [calm m member n slot]
    decide

theorem continuationResume_eq {g : Gang} {k : Cont} {rest : List Cont} {m : Member} {idx : Nat} (of : s.gangOf gang = some g)
    (queue : g.resumeQ = k :: rest) (member : (g.members.zipIdx.find? fun m => m.1.tile == t) = some (m, idx))
    (place : s.contSlot k t = some slot) (stays : s.going g = false) (free : m.slot = none) (serves : (s.tileAt t).fenced = false)
    (read : s.contServed k t slot gang = true) (room : s.vregsUsed t + (if pktV32 g.pkt = true then 32 else 16) ≤ 128)
    (quiet : s.quiet = true) : execContinuationResume gang t s =
      .next ((s.modTile t fun y => { y with ctx := y.ctx.set slot (some (s.contCtx g m k gang t slot idx)) }).modGang gang fun g =>
        { g with resumeQ := rest, members := g.members.set idx { m with slot := some slot, filled := true } }) := by
  have open_ : ¬(s.going g || m.slot.isSome || (s.tileAt t).fenced || !s.contServed k t slot gang ||
      decide (128 < s.vregsUsed t + (if pktV32 g.pkt = true then 32 else 16))) = true := by
    rw [stays, free, serves, read, decide_eq_false (Nat.not_lt.mpr room)]
    decide
  unfold execContinuationResume
  rw [of]
  dsimp only
  rw [queue, member]
  dsimp only
  rw [place]
  dsimp only
  rw [State.sramReads_quiet _ quiet]
  exact if_neg open_

theorem ctx?_modTile_set {c : Option Ctx} (inside : t < s.tiles.length) (there : slot < (s.tileAt t).ctx.length) :
    (s.modTile t fun y => { y with ctx := y.ctx.set slot c }).ctx? t slot = c := by
  rw [State.ctx?, tileAt_modTile, if_pos ⟨rfl, inside⟩, List.getD_eq_getElem?_getD, List.getElem?_set_self there, Option.getD_some]

theorem contCtx_pc {g : Gang} {m : Member} {k : Cont} {idx : Nat} : (s.contCtx g m k gang t slot idx).pc.toNat =
    s.rd (spKey k.tile (physSp ((s.tileAt k.tile).entry k.addr) k.addr)) 64 % 2 ^ 48 := by
  unfold State.contCtx
  dsimp only
  generalize s.rd (spKey k.tile (physSp ((s.tileAt k.tile).entry k.addr) k.addr)) 64 = x
  rw [BitVec.toNat_ofNat, bits, Nat.pow_zero, Nat.div_one]
  have small : x % 2 ^ 48 < 2 ^ 48 := Nat.mod_lt _ (Nat.two_pow_pos 48)
  exact Nat.mod_eq_of_lt (by omega)

theorem contCtx_sreg {g : Gang} {m : Member} {k : Cont} {idx i : Nat} (low : 1 ≤ i) (high : i ≤ 6) :
    ((s.contCtx g m k gang t slot idx).sreg i).v =
      BitVec.ofNat 64 (s.rd (spKey k.tile (physSp ((s.tileAt k.tile).entry k.addr) k.addr)) 64 / 2 ^ (64 * i)) := by
  unfold Ctx.sreg State.contCtx
  dsimp only
  generalize s.rd (spKey k.tile (physSp ((s.tileAt k.tile).entry k.addr) k.addr)) 64 = x
  rw [if_neg (by omega), List.getD_eq_getElem?_getD, List.getElem?_map, List.getElem?_range (by omega), Option.map_some,
    Option.getD_some, if_pos ⟨low, high⟩]
  exact ofNat_bits x (64 * i) 64

/-! ## Pre-emption (R342 to R344) -/

/-- A context whose issue has stopped. -/
def Ctx.leaves (c : Ctx) : Ctx :=
  { c with preStep := 1, preState := 2, held := none, resume := match c.held with | some h => some h.leave | none => c.resume }

/-- A tile that a context leaves: its matrix commands and the copies that have not begun leave their queues. -/
def Tile.withdraw (slot : Nat) (x : Tile) : Tile :=
  { x with
    mq := x.mq.filter fun m => !(m.slot == slot && !m.fin),
    burin := x.burin.map fun b => { b with q := b.q.filter fun q => !q.waits slot },
    ctx := updAt (Option.map Ctx.leaves) slot x.ctx }

theorem preemption_run {c : Ctx} (here : s.ctx? t slot = some c) (ready : c.stoppable = true) :
    ∃ f : Member → Member, execPreemption t slot s = .next ((s.modMember t slot f).modTile t (Tile.withdraw slot)) := by
  have open_ : ¬((s.ctx? t slot).isNone || !(s.ctxAt t slot).stoppable) = true := by
    rw [ctxAt_of_some here, here, ready, Option.isNone_some]
    decide
  exact ⟨_, if_neg open_⟩

theorem tileAt_withdraw {c : Ctx} (here : s.ctx? t slot = some c) (f : Member → Member) :
    ((s.modMember t slot f).modTile t (Tile.withdraw slot)).tileAt t = (s.tileAt t).withdraw slot :=
  (tileAt_modTile ..).trans (if_pos ⟨rfl, tile_lt_of_ctx here⟩)

theorem ctx_withdraw {c : Ctx} (here : s.ctx? t slot = some c) : ((s.tileAt t).withdraw slot).ctx.getD slot none = some c.leaves := by
  have there : slot < (s.tileAt t).ctx.length := by
    by_contra absent
    rw [State.ctx?, List.getD_eq_default _ _ (Nat.le_of_not_lt absent)] at here
    cases here
  exact (getD_updAt ..).trans ((if_pos ⟨rfl, there⟩).trans (congrArg (Option.map Ctx.leaves) here))

theorem withdraw_mq (x : Tile) : ∀ m ∈ (x.withdraw slot).mq, m.slot = slot → m.fin = true := by
  intro m member mine
  have kept := (List.mem_filter.mp member).2
  rw [mine, beq_self_eq_true, Bool.true_and, Bool.not_not] at kept
  exact kept

theorem withdraw_q (x : Tile) (e : Nat) :
    ∀ q ∈ ((x.withdraw slot).burin.getD e {}).q, q.slot = slot → q.began = true ∨ q.stop.isSome = true := by
  intro q member mine
  rw [List.getD_eq_getElem?_getD, Tile.withdraw, List.getElem?_map] at member
  cases there : x.burin[e]? with
  | none =>
    rw [there] at member
    cases member
  | some b =>
    rw [there] at member
    have kept := (List.mem_filter.mp member).2
    rw [Copy.waits, mine, beq_self_eq_true, Bool.true_and] at kept
    cases began : q.began with
    | true => exact .inl rfl
    | false =>
      rw [began] at kept
      cases stop : q.stop with
      | none => rw [stop] at kept; exact absurd kept (by decide)
      | some n => exact .inr rfl

/-! ## The record of a context that has left (R345 to R347) -/

theorem entPARK_set (e : W64) : entPARK (entSet e 59 true) = true := by
  rw [entPARK, entSet, BitVec.toNat_ofNat, bit_testBit, Nat.testBit_mod_two_pow, testBit_setBits,
    if_pos (by decide)]
  decide

theorem foldl_park (l : List Nat) (map : List W64) (i : Nat) (inside : i < map.length)
    (parked : i ∈ l ∨ entPARK (map.getD i 0) = true) :
    entPARK ((l.foldl (fun m i => updAt (fun e => entSet e 59 true) i m) map).getD i 0) = true := by
  induction l generalizing map with
  | nil =>
    rcases parked with member | done
    · cases member
    · exact done
  | cons j l ih =>
    refine ih (updAt (fun e => entSet e 59 true) j map) (by rw [length_updAt]; exact inside) ?_
    rw [getD_updAt]
    by_cases same : i = j
    · rw [if_pos ⟨same, inside⟩]
      exact .inr (entPARK_set _)
    · rw [if_neg (fun both => same both.1)]
      rcases parked with member | done
      · exact .inl ((List.mem_cons.mp member).resolve_left same)
      · exact .inr done

theorem mem_toPark {x : Tile} {i : Nat} (inside : i < x.rmap.length) (own : entOWNER (x.rmap.getD i 0) = slot) : i ∈ x.toPark slot := by
  rw [List.getD_eq_getElem _ _ inside] at own
  exact List.mem_map.mpr ⟨(x.rmap[i], i), List.mem_filter.mpr
    ⟨List.mem_zipIdx_iff_getElem?.mpr (List.getElem?_eq_getElem inside), beq_iff_eq.mpr own⟩, rfl⟩

theorem proofKey_add {x : Tile} {c : Ctx} (area : saveAreaOk x slot c = true) {off : Nat} (inside : off < 0x8400) :
    proofKey t x c off = proofKey t x c 0 + off := by
  simp only [saveAreaOk, Bool.and_eq_true, decide_eq_true_eq] at area
  obtain ⟨⟨⟨⟨-, fits⟩, -⟩, -⟩, -⟩ := area
  have small : entPREG (x.entry c.proof.toNat) < 128 := Nat.mod_lt _ (by decide)
  unfold proofKey spKey physSp
  generalize entPREG (x.entry c.proof.toNat) = r at small ⊢
  generalize c.proof.toNat = a at fits ⊢
  omega

section
variable {c : Ctx} {m : Member}

/-- The state with the record of a context that has left. -/
def State.recorded (s : State) (t slot : Nat) (c : Ctx) (m : Member) : State :=
  let im := restImage s t slot c m ((s.tileAt t).toPark slot)
  (s.writeFront t slot (if c.mode then 0x7000 else 0) (s.preFront t slot c)).storeDws (proofKey t (s.tileAt t) c 0x1400)
    ((0x7000 - 0x1400) / 8) im.1 im.2

/-- A tile that parks the entries of a context. -/
def Tile.park (slots : List Nat) (x : Tile) : Tile :=
  { x with rmap := slots.foldl (fun l i => updAt (fun e => entSet e 59 true) i l) x.rmap }

theorem proofRecordWrite_run {g : Gang} (here : s.ctx? t slot = some c) (drains : c.preStep = 1) (goes : c.stopped = false)
    (drained : s.drained t slot c = true) (area : saveAreaOk (s.tileAt t) slot c = true) (of : s.gangOf c.gang = some g)
    (member : (g.members.find? fun m => m.isAt t slot) = some m) :
    ∃ f : Member → Member, execProofRecordWrite t slot s = .next ((((s.recorded t slot c m).modTile t
      (Tile.park ((s.tileAt t).toPark slot))).modMember t slot f).freeCtx t slot) := by
  have open_ : ¬(c.preStep ≠ 1 ∨ c.stopped = true ∨ (!s.drained t slot c) = true) := by
    rw [drains, goes, drained]
    decide
  have placed : ((s.gangOf c.gang).bind fun g => g.members.find? fun m => m.isAt t slot) = some m := by
    rw [of]
    exact member
  unfold execProofRecordWrite
  rw [here]
  dsimp only
  rw [if_neg open_, if_neg (by rw [area]; decide), placed]
  exact ⟨_, rfl⟩

theorem readByte_recorded (here : s.ctx? t slot = some c) (area : saveAreaOk (s.tileAt t) slot c = true) {k : Nat}
    (outside : k < proofKey t (s.tileAt t) c 0 ∨ proofKey t (s.tileAt t) c 0 + 0x8400 ≤ k) :
    readByte (s.recorded t slot c m).mem k = readByte s.mem k := by
  have front : ∀ off f, off + 0x1400 ≤ 0x8400 → readByte (s.writeFront t slot off f).mem k = readByte s.mem k := by
    intro off f fits
    have key := proofKey_add (t := t) area (off := off) (by omega)
    rw [State.writeFront, ctxAt_of_some here]
    refine (readByte_writeBlock ..).trans (if_neg ?_)
    omega
  have key := proofKey_add (t := t) area (off := 0x1400) (by decide)
  refine (readByte_writeBlock ..).trans ((if_neg ?_).trans (front _ _ ?_))
  · rw [key]
    omega
  · split
    · exact le_refl _
    · decide

theorem modMember_mem (u : State) (t slot : Nat) (f : Member → Member) : (u.modMember t slot f).mem = u.mem := rfl

theorem tileAt_parked (inside : t < s.tiles.length) (l : List Nat) (f : Member → Member) :
    ((((s.recorded t slot c m).modTile t (Tile.park l)).modMember t slot f).tileAt t) = (s.tileAt t).park l :=
  (tileAt_modTile (s.recorded t slot c m) t t _).trans (if_pos ⟨rfl, inside⟩)

theorem freeCtx_leaves {u : State} : (u.freeCtx t slot).ctx? t slot = none ∧ (u.freeCtx t slot).mem = u.mem ∧
    ((u.freeCtx t slot).tileAt t).rmap = (u.tileAt t).rmap := by
  have tile : (u.freeCtx t slot).tileAt t =
      if t = t ∧ t < u.tiles.length then { u.tileAt t with ctx := (u.tileAt t).ctx.set slot none } else u.tileAt t :=
    tileAt_modTile u t t _
  refine ⟨?_, rfl, ?_⟩
  · rw [State.ctx?, tile]
    split
    · rw [List.getD_eq_getElem?_getD, List.getElem?_set]
      split
      · split
        · rfl
        · rfl
      next other => exact absurd rfl other
    next outside =>
      have none_ : u.tileAt t = {} := List.getD_eq_default _ _ (Nat.le_of_not_lt fun inside => outside ⟨rfl, inside⟩)
      rw [none_]
      exact getD_replicate_self 8 slot _
  · rw [tile]
    split
    · rfl
    · rfl

end

/-! ## Resumption (R348) -/

theorem resumption_barred {g : Gang} (of : s.gangOf gang = some g) (barred : g.isBarred = true) : execResumption gang s = .next s := by
  rw [execResumption, of]
  dsimp only
  exact if_neg (by rw [barred, Bool.not_true, Bool.and_false, Bool.false_and, Bool.false_and]; exact Bool.false_ne_true)

theorem resumption_returns {g : Gang} (of : s.gangOf gang = some g) (off : g.off = true) (free : g.isBarred = false)
    (room : ∀ m ∈ g.members, s.canReturn m = true) (first : s.outranked g = false) :
    execResumption gang s = .next (g.members.foldl State.returnMember s) := by
  rw [execResumption, of]
  dsimp only
  exact if_pos (by rw [off, free, first, List.all_eq_true.mpr room]; rfl)

end

/-- Settles O44: the events of the Orrery and of pre-emption act on one gang and its members. -/
theorem gangEvents : Obligations.GangEvents := by
  intro s die t slot gang
  refine ⟨fun j ts next => ⟨fun home => gangDispatch_here next home, fun away => tileClaim_away next away⟩, fun g m of member => ?_,
    fun j there done => jobCompletion_done there done, fun j inst tile g k slots free near inside => ?_,
    fun ps x va read clean none_ zero last => paramBlock_bindings read clean none_ zero last,
    fun ps e x c here records flags index size kind whole fits read => ?_,
    fun g k rest m idx of queue member place on present free calm serves read room quiet inside there => ?_, fun asked idle => ?_,
    fun c here ready => ?_, fun drains => ?_, fun c g m here drains goes drained area of member => ?_,
    fun g of barred => resumption_barred of barred, fun g of off free room first => resumption_returns of off free room first⟩
  · exact ⟨fun x res => parameterBlockFill_ok of member res, fun res => parameterBlockFill_bad of member res, fun base res =>
      ⟨fun absent => parameterBlockFill_asks of member res absent, fun w img fill ready => parameterBlockFill_takes of member res fill ready,
        fun w a b e fill failed => parameterBlockFill_fails of member res fill failed⟩⟩
  · refine ⟨_, ctx?_placeMember free inside, startCtx_pc .., fun i => (startCtx_registers _ _ _ _ _ _ i).1,
      fun i => (startCtx_registers _ _ _ _ _ _ i).2.1, fun i named _ => (startCtx_registers _ _ _ _ _ _ i).2.2.1 named, rfl, rfl, rfl,
      fun i => (startCtx_registers _ _ _ _ _ _ i).2.2.2, rfl, startCtx_zero _ _ _ _ _ _, startCtx_scope _ _ _ _ _ _, startCtx_task _ _ _ _ _ _, ?_,
      startCtx_status ..⟩
    rw [startCtx_heap _ _ _ _ _ _ near, die_of_handle j slots]
  · refine ⟨_, (paramEntry_records flags index size kind whole fits read).trans (congrArg (·, _) (modCtx_fixed here _)), rfl, rfl, rfl,
      fun i inside => ?_⟩
    exact getD_putRecs _ _ _ i (by rw [records]; exact fits)
  · intro x
    have run := continuationResume_eq of queue member place (going_false on present calm) free serves read room quiet
    refine ⟨_, _, _, run, rfl, ctx?_modTile_set inside there, contCtx_pc, ?_, rfl, rfl, fun i low high => contCtx_sreg low high,
      gangOf_modGang of (fun _ => rfl), rfl⟩
    exact ofNat_bits x 448 32
  · exact if_pos ⟨asked, idle⟩
  · obtain ⟨f, run⟩ := preemption_run here ready
    have tile := tileAt_withdraw here f
    refine ⟨_, run, rfl, ?_, ?_, fun e => ?_⟩
    · rw [State.ctx?, tile]
      exact ctx_withdraw here
    · rw [tile]
      exact withdraw_mq _
    · rw [State.burinAt, tile]
      exact withdraw_q _ e
  · exact if_neg (not_not.mpr drains)
  · obtain ⟨f, run⟩ := proofRecordWrite_run here drains goes drained area of member
    obtain ⟨gone, mem, rmap⟩ := freeCtx_leaves (t := t) (slot := slot)
      (u := ((s.recorded t slot c m).modTile t (Tile.park ((s.tileAt t).toPark slot))).modMember t slot f)
    refine ⟨_, run, gone, fun k outside => ?_, fun i own => ?_⟩
    · rw [mem, modMember_mem, modTile_mem]
      exact readByte_recorded here area outside
    · rw [rmap, tileAt_parked (tile_lt_of_ctx here)]
      exact foldl_park _ _ i own.1 (.inl (mem_toPark own.1 own.2))

end Sys2Proof.Machine
end

section
/-! SUPPORT. The link engine: flits taken from a port, transfers, completions, and the steps and messages of schedules. -/

namespace Sys2Proof.Machine

/-! ## The oldest of some commands -/

theorem oldest_mem : ∀ {l : List (Nat × LCmd)} {x : Nat × LCmd}, oldest l = some x → x ∈ l
  | [], _, h => nomatch h
  | y :: r, x, h => by
    cases rest : oldest r with
    | none =>
      simp only [oldest, rest, Option.some.injEq] at h
      exact h ▸ List.mem_cons_self
    | some z =>
      have there : z ∈ r := oldest_mem rest
      simp only [oldest, rest] at h
      split at h
      · exact (Option.some.inj h) ▸ List.mem_cons_of_mem _ there
      · exact (Option.some.inj h) ▸ List.mem_cons_self

section
variable {s u : State} {p t k tag rank src key : Nat} {f : Flit} {m : LCmd} {q : Flit → Bool}

/-! ## Flits taken from a port (R383) -/

/-- A port without one of the flits that it has received. -/
def State.takenRx (s : State) (p k : Nat) : State := s.modPort p fun y => { y with rx := y.rx.eraseIdx k }

theorem takeRx_of_first (at_k : (s.portAt p).rx[k]? = some f) (first : rxFirst (s.portAt p).rx q = some k) :
    s.takeRx p q = some (f, s.takenRx p k) := by
  simp only [State.takeRx, first, at_k, State.takenRx, Option.map_some]

/-- A flit that is CLEAR. -/
def isClear (f : Flit) : Bool :=
  match f.body with
  | .clear _ _ _ => true
  | _ => false

theorem execClearFlit_of_take {len id : Nat} {run : Option (Nat × Nat)} (take : s.takeRx p isClear = some (f, u))
    (body : f.body = .clear len id run) : execClearFlit p s = .next (u.takeClear p f.src f.key len id run) := by
  unfold execClearFlit
  split
  · next nothing => exact nomatch take.symm.trans nothing
  · next taken =>
    obtain ⟨rfl, rfl⟩ := Prod.mk.inj (Option.some.inj (take.symm.trans taken))
    rw [body]

/-- The sends that a CLEAR can be for (R383). -/
def State.clearSends (s : State) (p src key : Nat) (run : Option (Nat × Nat)) : List (Nat × LCmd) :=
  s.linkCmds.filter fun x =>
    x.2.sends && x.2.st == 2 && !x.2.fin && x.2.port == p && lkPEER x.2.d == src && lkKEY x.2.d == key && x.2.run == run

section
variable {len id : Nat} {run : Option (Nat × Nat)}

theorem takeClear_left (old : run.any (s.leftEpoch src) = true) :
    s.takeClear p src key len id run = s.sendFlit p src 0 0 (.leave key id) :=
  if_pos old

theorem takeClear_meet (here : run.any (s.leftEpoch src) = false) (who : oldest (s.clearSends p src key run) = some (t, m)) :
    s.takeClear p src key len id run = s.meet t m len id := by
  rw [State.clearSends] at who
  simp only [State.takeClear, here, who, Bool.false_eq_true, if_false]

theorem takeClear_waits (here : run.any (s.leftEpoch src) = false) (who : oldest (s.clearSends p src key run) = none) :
    s.takeClear p src key len id run =
      s.modPort p fun y => { y with clears := y.clears ++ [{ src := src, key := key, len := len, id := id, run := run }] } := by
  rw [State.clearSends] at who
  simp only [State.takeClear, here, who, Bool.false_eq_true, if_false]

end

/-- The sends that a DONE can be for (R383). -/
def State.doneSends (s : State) (p : Nat) (f : Flit) : List (Nat × LCmd) :=
  s.linkCmds.filter fun x => x.2.sends && x.2.last && !x.2.fin && x.2.port == p && lkPEER x.2.d == f.src && lkKEY x.2.d == f.key &&
    doneOf f.body == some x.2.mate

theorem doneSends_match (found : oldest (s.doneSends p f) = some (t, m)) : m.port = p ∧ lkPEER m.d = f.src ∧ lkKEY m.d = f.key := by
  have holds := (List.mem_filter.mp (oldest_mem found)).2
  simp only [Bool.and_eq_true, beq_iff_eq] at holds
  obtain ⟨⟨⟨⟨_, port⟩, peer⟩, same⟩, _⟩ := holds
  exact ⟨port, peer, same⟩

theorem execDoneFlit_of_take (take : s.takeRx p (fun f => (doneOf f.body).isSome) = some (f, u))
    (found : oldest (u.doneSends p f) = some (t, m)) :
    execDoneFlit p s = .next (u.modLink t m.age fun m => { m with fin := true }) := by
  rw [State.doneSends] at found
  simp only [execDoneFlit, take, found]

/-! ## Control flits (R383, R390) -/

/-- The receiver that a CLEAR's number names. -/
def State.receiverNamed (s : State) (p src key id : Nat) : Option (Nat × LCmd) := (s.receivers p src key).find? fun x => x.2.age == id

theorem receiverNamed_match {id : Nat} (found : s.receiverNamed p src key id = some (t, m)) :
    m.port = p ∧ lkPEER m.d = src ∧ lkKEY m.d = key := by
  have holds := (List.mem_filter.mp (List.mem_of_find?_eq_some found)).2
  simp only [Bool.and_eq_true, beq_iff_eq] at holds
  obtain ⟨⟨⟨_, port⟩, peer⟩, same⟩ := holds
  exact ⟨port, peer, same⟩

theorem endReceiver_named {id err : Nat} (found : s.receiverNamed p src key id = some (t, m)) :
    s.endReceiver p src key id err = (s.noGhost p src key id).modLink t m.age fun m =>
      { m with fin := true, stall := none, err := if m.err ≠ 0 then m.err else err } := by
  have same : ((s.noGhost p src key id).receivers p src key).find? (fun x => x.2.age == id) = some (t, m) := found
  rw [State.endReceiver, same]

theorem left1_named {id : Nat} (found : s.receiverNamed p src key id = some (t, m)) :
    s.left1 p src key id = s.modLink t m.age fun m => { m with last := true } := by
  rw [State.receiverNamed] at found
  rw [State.left1, found]

theorem left1_unnamed {id : Nat} (found : s.receiverNamed p src key id = none) : s.left1 p src key id = s.noGhost p src key id := by
  rw [State.receiverNamed] at found
  rw [State.left1, found]

section
variable (take : s.takeRx p (fun f => isControl f.body) = some (f, u))
include take

theorem controlFlit_ends {id code : Nat} (body : f.body = .abort key id ∧ code = 7 ∨ f.body = .lengthError key id ∧ code = 4) :
    execControlFlit p s = .next (u.endReceiver p f.src key id code) := by
  obtain ⟨body, rfl⟩ | ⟨body, rfl⟩ := body <;> simp only [execControlFlit, take, body]

theorem controlFlit_leave {id : Nat} (body : f.body = .leave key id) :
    execControlFlit p s = .next (u.left1 p f.src key id) := by
  simp only [execControlFlit, take, body]

theorem controlFlit_query {base epoch : Nat} (body : f.body = .query base epoch rank) :
    execControlFlit p s = .next (u.heed p f.src base epoch rank) := by
  simp only [execControlFlit, take, body]

theorem controlFlit_answer {base epoch : Nat} {yes : Bool} (body : f.body = .answer base epoch rank yes) :
    execControlFlit p s = .next (u.answered1 f.src base epoch yes) := by
  simp only [execControlFlit, take, body]

end

/-! ## DATA and LAST (R383) -/

theorem moveFlit_delivers {last l : Bool} {bytes : Nat} (at_k : (s.portAt p).rx[k]? = some f)
    (first : rxFirst (s.portAt p).rx (s.canDeliver p last) = some k) (data : dataOf f.body = some (bytes, l)) :
    s.moveFlit p last = s.deliverFlit p k f bytes last := by
  simp only [State.moveFlit, first, at_k, data]

theorem moveFlit_sends {last : Bool} (idle : rxFirst (s.portAt p).rx (s.canDeliver p last) = none) (room : s.portRoom p = true)
    (next : s.nextSend p = some (t, m)) (kind : m.atLast = last) : s.moveFlit p last = s.sendOne t m := by
  simp [State.moveFlit, idle, room, next, kind]

/-- DATA_FLIT and LAST_FLIT move a flit of their kind. -/
theorem exec_moves {i : Instr} {last : Bool} (kind : (i, last) ∈ [(Instr.dataFlit p, false), (.lastFlit p, true)]) :
    exec i s = .next (s.moveFlit p last) := by
  rcases List.mem_cons.mp kind with h | h
  · obtain ⟨rfl, rfl⟩ := Prod.mk.inj h
    rfl
  · obtain ⟨rfl, rfl⟩ := Prod.mk.inj (List.mem_singleton.mp h)
    rfl

/-! ## Completion (R383, R385, R400) -/

/-- A teardown of the partition that a tile had, where it had one, ends if it can (R400). -/
def State.endTeardownOf (s : State) : Option Nat → State
  | none => s
  | some p => s.endTeardown p

theorem linkCompletion_ready (found : (s.tileAt t).link.q.find? (fun m => m.tag.toNat == tag && !m.sub) = some m)
    (ready : s.linkReady t m = true) :
    execLinkCompletion t tag s = .next ((s.completeLink t m).endTeardownOf (s.tileAt t).partid) := by
  simp only [execLinkCompletion, found, ready, Bool.not_true, Bool.false_eq_true, if_false]
  cases (s.tileAt t).partid <;> rfl

theorem completeLink_stall (record : s.linkRecord t m = some .stall) : s.completeLink t m = s.stallLink t m (m.da + 56) true := by
  rw [State.completeLink, record]

theorem completeLink_ok {l : Loc} (record : s.linkRecord t m = some (.ok l)) :
    s.completeLink t m = ((s.queueFor l.home t 2 m.own m.banks [(l.key, 8, if m.kind = 3 then schedRecord m else m.pos)]
      [false]).endLink t m).sendDone m := by
  rw [State.completeLink, record]

theorem completeLink_bare (record : s.linkRecord t m = some .access ∨ s.linkRecord t m = none) :
    s.completeLink t m = (s.endLink t m).sendDone m := by
  obtain record | record := record <;> rw [State.completeLink, record]

theorem endTeardown_of_active {n : Nat} (active : s.isClosing n = false) : s.endTeardown n = s := by
  have nobody : (s.part? n).bind (·.closing) = none := by simpa [State.isClosing] using active
  rw [State.endTeardown, nobody]

/-- The queue of a tile's link engine once the commands with a tag have left it. -/
theorem queue_without_tag (v : State) (t : Nat) (tag : BitVec 32) :
    ∀ y ∈ ((v.modTile t fun x => { x with link := { x.link with q := x.link.q.filter fun y => y.tag != tag } }).tileAt t).link.q,
      y.tag ≠ tag := by
  intro y member
  rw [tileAt_modTile] at member
  split at member
  · exact bne_iff_ne.mp (List.mem_filter.mp member).2
  · next outside =>
    have none_there : v.tileAt t = {} := by
      have beyond : v.tiles.length ≤ t := by omega
      exact List.getD_eq_default _ _ beyond
    rw [none_there] at member
    exact nomatch member

theorem endLink_leaves_queue : ∀ y ∈ ((s.endLink t m).tileAt t).link.q, y.tag ≠ m.tag :=
  queue_without_tag _ t m.tag

end

/-! ## The steps and messages of schedules (R389, R390) -/

section
variable {s u : State} {t tag rank : Nat} {f : Flit} {m : LCmd} {k : Sched}

theorem memberFail_ended (ended : s.schedOf t tag = none) : execMemberFail t tag rank s = .next (s.recommit t tag rank) := by
  rw [execMemberFail, ended]

section
variable (sched : s.schedOf t tag = some (m, k))
include sched

theorem scheduleStep_advances {me : Nat} (served : s.linkServed t m = true) (mine : k.rankOf (scMYID m.d) = some me) :
    execScheduleStep t tag s = .next (s.advance t m k me) := by
  simp [execScheduleStep, sched, served, mine]

theorem memberDone_taken (take : s.takeFrom m.d k (isDone rank) = some (f, u)) :
    execMemberDone t tag rank s = .next ((u.modSched t m.age fun k => { k with dones := rank :: k.dones }).tryCommit t m) := by
  simp only [execMemberDone, sched, take]

theorem memberCommit_taken (take : s.takeFrom m.d k isCommit = some (f, u)) :
    execMemberCommit t tag s = .next (u.commitSched t m k) := by
  simp only [execMemberCommit, sched, take]

theorem memberFail_taken (take : s.takeFrom m.d k (fun b => (failRanks b).contains rank) = some (f, u)) :
    execMemberFail t tag rank s = .next (s.orStop t m (u.suspect t m k (failRanks f.body))) := by
  simp only [execMemberFail, sched, take]

theorem scheduleRestart_taken {epoch : Nat} {removed : List Nat} (take : s.takeFrom m.d k (isRestart epoch removed) = some (f, u)) :
    execScheduleRestart t tag epoch removed s = .next (s.orStop t m (u.restart t m k epoch removed)) := by
  simp only [execScheduleRestart, sched, take]

theorem coordinatorQuery_other (other : rank = 0 ∨ k.lead ≠ rank ∨ k.rankOf (scMYID m.d) ≠ some rank) :
    execCoordinatorQuery t tag rank s = .next s := by
  simp only [execCoordinatorQuery, sched, if_pos other]

section
variable (later : k.lead ≠ 0) (mine : k.rankOf (scMYID m.d) = some k.lead)
include later mine

theorem coordinatorQuery_asks (first : k.queried = false) : execCoordinatorQuery t tag k.lead s =
    .next ((s.modSched t m.age fun k => { k with queried := true }).tellAll k (scMYID m.d) k.failed
      (.query (scKEYBASE m.d) k.epoch k.lead)) := by
  simp [execCoordinatorQuery, sched, mine, later, first]

theorem coordinatorQuery_ends (asked : k.queried = true)
    (all : ∀ x ∈ k.live, x.1 = scMYID m.d ∨ x.1 ∈ k.failed ∨ ∃ y ∈ k.answers, y.1 = x.1) :
    execCoordinatorQuery t tag k.lead s = .next (if k.answers.any (fun y => y.2) = true then
      (s.tellAll k (scMYID m.d) k.failed (.commit (scKEYBASE m.d) k.epoch)).commitSched t m k
      else s.orStop t m (s.restartAll t m k)) := by
  have answered : (k.live.all fun x => x.1 == scMYID m.d || k.failed.contains x.1 || k.answers.any fun y => y.1 == x.1) = true := by
    refine List.all_eq_true.mpr fun x live => ?_
    simpa [or_assoc] using all x live
  have coordinator : ¬(k.lead = 0 ∨ k.lead ≠ k.lead ∨ k.rankOf (scMYID m.d) ≠ some k.lead) := by simp [later, mine]
  simp only [execCoordinatorQuery, sched, if_neg coordinator, asked, answered, Bool.not_true, Bool.false_eq_true, if_false, if_true]
  split <;> rfl

end

theorem memberTimeout_idle (idle : s.waitsOn t m k rank = false) : execMemberTimeout t tag rank s = .next s := by
  simp only [execMemberTimeout, sched]
  split
  · rfl
  · exact if_pos (by simp [idle])

section
variable {x : Nat × Nat} (waits : s.waitsOn t m k rank = true) (live : k.live[rank]? = some x)
include waits live

theorem memberTimeout_suspects (quiet : (s.portAt x.2).holds.contains x.1 = false) :
    execMemberTimeout t tag rank s = .next (s.orStop t m (s.suspect t m k [rank])) := by
  simp only [execMemberTimeout, sched, live, waits, quiet, Bool.not_true, Bool.false_eq_true, if_false]

theorem memberTimeout_held (held : (s.portAt x.2).holds.contains x.1 = true) : execMemberTimeout t tag rank s =
    .next (s.modPort x.2 fun p => { p with holds := p.holds.filter fun q => q != x.1 }) := by
  simp only [execMemberTimeout, sched, live, waits, held, Bool.not_true, Bool.false_eq_true, if_false, if_true]

end

end
end

/-! ## The obligation -/

/-- Settles O36: each event is its own equation; the flit that a port hands out is the first that its kind admits. -/
theorem linkEngineEvents : Obligations.LinkEngineEvents := by
  unfold Obligations.LinkEngineEvents
  refine ⟨?_, ?_⟩
  · intro s p t k tag f m x taken control
    have ctl : control → s.takeRx p (fun f => isControl f.body) = some (f, s.takenRx p k) := fun h => takeRx_of_first h.1 h.2
    refine ⟨fun len id run there first body => execClearFlit_of_take (takeRx_of_first there first) body,
      fun src key len id run => ⟨takeClear_left, fun here who fits => (takeClear_meet here who).trans (if_neg (Nat.not_lt.mpr fits)),
        fun here who short => (takeClear_meet here who).trans (if_pos short), takeClear_waits⟩,
      fun id there first body found => ⟨doneSends_match found, execDoneFlit_of_take (takeRx_of_first there first) found⟩,
      fun key id code c body found => ⟨receiverNamed_match found,
        (controlFlit_ends (ctl c) body).trans (congrArg _ (endReceiver_named found))⟩,
      fun key id c body => ⟨fun found => (controlFlit_leave (ctl c) body).trans (congrArg _ (left1_named found)),
        fun found => (controlFlit_leave (ctl c) body).trans (congrArg _ (left1_unnamed found))⟩,
      fun base epoch rank c body => controlFlit_query (ctl c) body,
      fun base epoch rank yes c body => controlFlit_answer (ctl c) body,
      fun bytes last i kind there first data => (exec_moves kind).trans (congrArg _ (moveFlit_delivers there first data)),
      fun last i kind idle room next last' => (exec_moves kind).trans (congrArg _ (moveFlit_sends idle room next last')),
      fun found ready => ?_, fun v => by simp only [State.sendDone, Bool.and_eq_true], fun q => endTeardown_of_active,
      fun q => endTeardown_busy, fun _ => endLink_leaves_queue⟩
    have does : ∀ v, s.completeLink t m = v → exec (.linkCompletion t tag) s = .next (v.endTeardownOf (s.tileAt t).partid) :=
      fun v h => h ▸ linkCompletion_ready found ready
    have same : ∀ v : State, v.endTeardownOf (s.tileAt t).partid = match (s.tileAt t).partid with
        | none => v
        | some p => v.endTeardown p := fun v => by cases (s.tileAt t).partid <;> rfl
    exact ⟨fun r => (does _ (completeLink_stall r)).trans (congrArg _ (same _)),
      fun l r => (does _ (completeLink_ok r)).trans (congrArg _ (same _)),
      fun r => (does _ (completeLink_bare r)).trans (congrArg _ (same _))⟩
  · intro s u t tag rank m k f
    refine ⟨memberFail_ended, fun sched => ⟨fun me => scheduleStep_advances sched, memberDone_taken sched, memberCommit_taken sched,
      memberFail_taken sched, fun epoch removed => scheduleRestart_taken sched,
      fun later mine first => coordinatorQuery_asks sched later mine first,
      fun later mine asked all => coordinatorQuery_ends sched later mine asked all, coordinatorQuery_other sched,
      fun x waits live => ⟨memberTimeout_suspects sched waits live, memberTimeout_held sched waits live⟩, memberTimeout_idle sched⟩⟩

end Sys2Proof.Machine
end

section
/-! SUPPORT. Walks and their outcomes, plates at their counter unit, re-seals and the rotation of keys. -/

namespace Sys2Proof.Machine

/-! ## The outcomes of a walk in their order (R266) -/

theorem pteV_eq (e : W64) : pteV e = e.getLsbD 63 := bit_toNat 64 e 63
theorem pteLEAF_eq (e : W64) : pteLEAF e = e.getLsbD 59 := bit_toNat 64 e 59

/-- What the checks of a leaf answer, one after the other. -/
def LeafOutcomes (s : State) (p acc : Nat) (e : W64) (big : Bool) (seen : List (Nat × W64)) (r : WalkRes) : Prop :=
  let bad := e.toNat % 2 ^ 14 ≠ 0 ∨ (big = true ∧ bits e.toNat 16 13 ≠ 0)
  let key := pteKEY e ≤ 32 ∧ s.maskHas p (pteKEY e) = true
  let ok := accOk e acc = true
  (bad → r = .fail 4 big) ∧ (¬ bad → inMeta (ptePA e) = true → r = .fail 5 big) ∧
  (¬ bad → inMeta (ptePA e) = false → (¬ key → r = .fail 6 big) ∧ (key → ¬ ok → r = .fail 7 big) ∧ (key → ok → r = .ok e big seen))

theorem leafCheck_outcomes (s : State) (p acc : Nat) (e : W64) (big : Bool) (seen : List (Nat × W64)) :
    LeafOutcomes s p acc e big seen (s.leafCheck p acc e big seen) := by
  have low : bits e.toNat 0 14 = e.toNat % 2 ^ 14 := by rw [bits, Nat.pow_zero, Nat.div_one]
  have denied : (32 < pteKEY e ∨ (!s.maskHas p (pteKEY e)) = true) ↔ ¬(pteKEY e ≤ 32 ∧ s.maskHas p (pteKEY e) = true) := by
    rw [not_and_or, Nat.not_le, Bool.not_eq_true', Bool.not_eq_true]
  simp only [LeafOutcomes, State.leafCheck, low]
  refine ⟨fun bad => if_pos bad, fun fine meta_ => (if_neg fine).trans (if_pos meta_), fun fine memory => ?_⟩
  rw [if_neg fine, if_neg (Bool.eq_false_iff.mp memory)]
  refine ⟨fun key => if_pos (denied.mpr key), fun key right => ?_, fun key right => ?_⟩ <;>
    rw [if_neg fun other => denied.mp other key]
  · exact if_pos (by simpa using right)
  · exact if_neg (by simpa using right)

section
variable (s : State) (die p va acc : Nat) (known : List (Nat × W64))

/-- A walk from its level 3 on, under the entries of levels 1 and 2. -/
def State.walkLevel3 (e1 e2 : W64) : WalkRes :=
  match s.entryFor die p known (walkKey3 va) with
  | none => .need (walkKey3 va) (pteNEXT e2 + 8 * bits va 16 13)
  | some e3 =>
    if !pteV e3 then .fail 3 false
    else if !pteLEAF e3 then .fail 4 false
    else s.leafCheck p acc e3 false [(walkKey1 va, e1), (walkKey2 va, e2)]

/-- A walk from its level 2 on, under the entry of level 1. -/
def State.walkLevel2 (e1 : W64) : WalkRes :=
  match s.entryFor die p known (walkKey2 va) with
  | none => .need (walkKey2 va) (pteNEXT e1 + 8 * bits va 29 9)
  | some e2 =>
    if !pteV e2 then .fail 3 false
    else if pteLEAF e2 then s.leafCheck p acc e2 true [(walkKey1 va, e1), (walkKey2 va, e2)]
    else if !nonLeafOk e2 16 then .fail 4 false
    else if inMeta (pteNEXT e2) then .fail 5 false
    else s.walkLevel3 die p va acc known e1 e2

/-- A walk from its root on. -/
def State.walkLevel1 (root : Nat) : WalkRes :=
  match s.entryFor die p known (walkKey1 va) with
  | none => .need (walkKey1 va) (root + 8 * walkKey1 va)
  | some e1 =>
    if !pteV e1 then .fail 3 false
    else if pteLEAF e1 ∨ !nonLeafOk e1 12 then .fail 4 false
    else if inMeta (pteNEXT e1) then .fail 5 false
    else s.walkLevel2 die p va acc known e1

end

section
variable {s : State} {die p va acc root : Nat} {known : List (Nat × W64)} {e1 e2 e3 : W64}

theorem walkVa_beyond (high : 2 ^ 48 ≤ va) : s.walkVa die p va acc known = .fail 1 false := if_pos high

section
variable (low : va < 2 ^ 48)
include low

theorem walkVa_rootless (rootless : s.rootOf p = none) : s.walkVa die p va acc known = .fail 3 false := by
  rw [State.walkVa, if_neg (Nat.not_le.mpr low), rootless]

theorem walkVa_rooted (rooted : s.rootOf p = some root) :
    s.walkVa die p va acc known = s.walkLevel1 die p va acc known root := by
  rw [State.walkVa, if_neg (Nat.not_le.mpr low), rooted]
  rfl

end

/-! ### Level 1 -/

theorem walkLevel1_needs (absent : s.entryFor die p known (walkKey1 va) = none) :
    s.walkLevel1 die p va acc known root = .need (walkKey1 va) (root + 8 * walkKey1 va) := by
  rw [State.walkLevel1, absent]

section
variable (entry : s.entryFor die p known (walkKey1 va) = some e1)
include entry

theorem walkLevel1_invalid (valid : pteV e1 = false) : s.walkLevel1 die p va acc known root = .fail 3 false := by
  simp [State.walkLevel1, entry, valid]

theorem walkLevel1_malformed (valid : pteV e1 = true) (bad : ¬(pteLEAF e1 = false ∧ nonLeafOk e1 12 = true)) :
    s.walkLevel1 die p va acc known root = .fail 4 false := by
  have wrong : pteLEAF e1 = true ∨ (!nonLeafOk e1 12) = true := by
    cases leaf : pteLEAF e1 <;> simp_all
  simp only [State.walkLevel1, entry, valid, Bool.not_true, Bool.false_eq_true, if_false, if_pos wrong]

section
variable (valid : pteV e1 = true) (table : pteLEAF e1 = false ∧ nonLeafOk e1 12 = true)
include valid table

theorem walkLevel1_meta (inside : inMeta (pteNEXT e1) = true) : s.walkLevel1 die p va acc known root = .fail 5 false := by
  simp [State.walkLevel1, entry, valid, table, inside]

theorem walkLevel1_next (outside : inMeta (pteNEXT e1) = false) :
    s.walkLevel1 die p va acc known root = s.walkLevel2 die p va acc known e1 := by
  simp [State.walkLevel1, entry, valid, table, outside]

end
end

/-! ### Level 2 -/

theorem walkLevel2_needs (absent : s.entryFor die p known (walkKey2 va) = none) :
    s.walkLevel2 die p va acc known e1 = .need (walkKey2 va) (pteNEXT e1 + 8 * bits va 29 9) := by
  rw [State.walkLevel2, absent]

section
variable (entry : s.entryFor die p known (walkKey2 va) = some e2)
include entry

theorem walkLevel2_invalid (valid : pteV e2 = false) : s.walkLevel2 die p va acc known e1 = .fail 3 false := by
  simp [State.walkLevel2, entry, valid]

section
variable (valid : pteV e2 = true)
include valid

theorem walkLevel2_leaf (leaf : pteLEAF e2 = true) : s.walkLevel2 die p va acc known e1 =
    s.leafCheck p acc e2 true [(walkKey1 va, e1), (walkKey2 va, e2)] := by
  simp [State.walkLevel2, entry, valid, leaf]

theorem walkLevel2_malformed (inner : pteLEAF e2 = false) (bad : nonLeafOk e2 16 = false) :
    s.walkLevel2 die p va acc known e1 = .fail 4 false := by
  simp [State.walkLevel2, entry, valid, inner, bad]

section
variable (table : pteLEAF e2 = false ∧ nonLeafOk e2 16 = true)
include table

theorem walkLevel2_meta (inside : inMeta (pteNEXT e2) = true) : s.walkLevel2 die p va acc known e1 = .fail 5 false := by
  simp [State.walkLevel2, entry, valid, table, inside]

theorem walkLevel2_next (outside : inMeta (pteNEXT e2) = false) :
    s.walkLevel2 die p va acc known e1 = s.walkLevel3 die p va acc known e1 e2 := by
  simp [State.walkLevel2, entry, valid, table, outside]

end
end
end

/-! ### Level 3 -/

theorem walkLevel3_needs (absent : s.entryFor die p known (walkKey3 va) = none) :
    s.walkLevel3 die p va acc known e1 e2 = .need (walkKey3 va) (pteNEXT e2 + 8 * bits va 16 13) := by
  rw [State.walkLevel3, absent]

section
variable (entry : s.entryFor die p known (walkKey3 va) = some e3)
include entry

theorem walkLevel3_invalid (valid : pteV e3 = false) : s.walkLevel3 die p va acc known e1 e2 = .fail 3 false := by
  simp [State.walkLevel3, entry, valid]

theorem walkLevel3_inner (valid : pteV e3 = true) (inner : pteLEAF e3 = false) :
    s.walkLevel3 die p va acc known e1 e2 = .fail 4 false := by
  simp [State.walkLevel3, entry, valid, inner]

theorem walkLevel3_leaf (valid : pteV e3 = true) (leaf : pteLEAF e3 = true) :
    s.walkLevel3 die p va acc known e1 e2 = s.leafCheck p acc e3 false [(walkKey1 va, e1), (walkKey2 va, e2)] := by
  simp [State.walkLevel3, entry, valid, leaf]

end

/-- The checks of a leaf are the outcome of the walk that reaches it. -/
theorem leafOutcomes_of_eq {e : W64} {big : Bool} {seen : List (Nat × W64)} {r : WalkRes} (reached : r = s.leafCheck p acc e big seen) :
    LeafOutcomes s p acc e big seen r :=
  reached ▸ leafCheck_outcomes s p acc e big seen

end

/-! ## WALK (R266, R268, R269) -/

section
variable {s : State} {t e va acc : Nat}

/-- A die without the walk of a page. -/
def State.idlePage (s : State) (die p page : Nat) : State :=
  s.modDie die fun d => { d with walking := d.walking.filter fun x => !(x.part == p && x.page == page) }

theorem walk_begins (absent : (s.dieAt (dieOf t)).walkOf (s.partOf t) (va / 65536) = none)
    (wanted : ((s.burinAt t e).flights.any fun u => u.wants va false && u.acc == acc) = true)
    (room : (s.dieAt (dieOf t)).walking.length < 64) :
    execWalk t e va acc s = .next (s.walkOn { part := s.partOf t, page := va / 65536, tile := t, eng := e }) := by
  simp only [execWalk, absent]
  exact if_pos ⟨wanted, room⟩

section
variable {w : Walk} {u : CUnit} (under : (s.dieAt (dieOf t)).walkOf (s.partOf t) (va / 65536) = some w) (read : s.tableUnit w = some u)
include under read

theorem walk_takes {img : Nat} (arrived : u.st = .ready img) :
    execWalk t e va acc s = .next ((s.dropFetch w.tile w.eng u.uid).walkOn
      { w with known := (w.need, BitVec.ofNat 64 (bits img (8 * u.off) 64)) :: w.known }) := by
  simp only [execWalk, under, read, arrived]

theorem walk_fails {x y z : Nat} (failed : u.st = .failed x y z) :
    execWalk t e va acc s =
      .next (((s.dropFetch w.tile w.eng u.uid).idlePage (dieOf t) (s.partOf t) (va / 65536)).endWalk w true) := by
  simp only [execWalk, under, read, failed]
  rfl

end

theorem walk_keeps (s : State) (t e va acc : Nat) :
    ∃ v : State, execWalk t e va acc s = .next v ∧ v.mem = s.mem ∧ v.poison = s.poison := by
  unfold execWalk
  dsimp only
  split
  · split
    · exact ⟨_, rfl, State.walkOn_frame ..⟩
    · exact ⟨_, rfl, rfl, rfl⟩
  · split
    · exact ⟨_, rfl, State.walkOn_frame ..⟩
    · split
      · exact ⟨_, rfl, State.walkOn_frame ..⟩
      · exact ⟨_, rfl, State.endWalk_frame ..⟩
      · exact ⟨_, rfl, rfl, rfl⟩

/-- A walk between two of its steps: its outcome as far as the entries read go. -/
def State.outcomeOf (s : State) (w : Walk) : WalkRes := s.walkVa (dieOf w.tile) w.part (w.page * 65536) 0 w.known

theorem walkOn_reads {w : Walk} {key pa : Nat} (needs : (s.idlePage (dieOf w.tile) w.part w.page).outcomeOf w = .need key pa) :
    s.walkOn w = (s.idlePage (dieOf w.tile) w.part w.page).readTable w key pa := by
  rw [State.idlePage, State.outcomeOf] at *
  simp only [State.walkOn, needs]

theorem walkOn_ends {w : Walk} (ends : ∀ key pa, (s.idlePage (dieOf w.tile) w.part w.page).outcomeOf w ≠ .need key pa) :
    s.walkOn w = (s.idlePage (dieOf w.tile) w.part w.page).endWalk w false := by
  unfold State.walkOn
  dsimp only
  split
  · next needs => exact absurd needs (ends _ _)
  · rfl

section
variable {v : State} {w : Walk} {u : CUnit}

theorem walkOne_bad : s.walkOne v w true t e u =
    (v.failUnit t e u.uid 1 2 0).modUnit t e u.uid fun u => { u with big := false } := by
  simp only [State.walkOne, if_true]

theorem walkOne_fail {n : Nat} {big : Bool} (outcome : s.walkVa (dieOf w.tile) w.part u.va u.acc w.known = .fail n big) :
    s.walkOne v w false t e u = (v.failUnit t e u.uid 1 n 0).modUnit t e u.uid fun u => { u with big := big } := by
  simp only [State.walkOne, outcome, Bool.false_eq_true, if_false]

theorem walkOne_ok {pte : W64} {big : Bool} {seen : List (Nat × W64)}
    (outcome : s.walkVa (dieOf w.tile) w.part u.va u.acc w.known = .ok pte big seen) :
    s.walkOne v w false t e u = (v.learn t e w.part u.va pte big seen).reachUnit t e u.uid pte big (paOf pte big u.va) := by
  simp only [State.walkOne, outcome, Bool.false_eq_true, if_false]

end
end

/-! ## Plates in their engines (R277, R279, R280) -/

section
variable {s : State} {t e : Nat} {u : CUnit}

theorem plateFill_checks {img left out : Nat} {err : Bool} (filled : (s.burinAt t e).flights.find? CUnit.filled = some u)
    (lines : u.st = .lines img left out) : execPlateFill t e err s = .next (
      let i := s.inject t 4
      if out = 2 then (i.2.failUnit t e u.uid 4 0 2).pumpAll
      else if out ≠ 0 ∨ err = true ∨ i.1 = true then (i.2.failUnit t e u.uid 4 0 1).pumpAll
      else (i.2.modUnit t e u.uid fun u => ({ u with st := .ready img } : CUnit)).modBurin t e fun b => b.holdCounters u.ctrs) := by
  simp only [execPlateFill, filled, lines]
  split
  · rfl
  · split <;> rfl

theorem plateCommit_commits {img left : Nat}
    (performed : ((s.burinAt t e).units.find? fun u => u.performed && earlierDone u (s.burinAt t e).units) = some u)
    (writing : u.st = .writing img left) : execPlateCommit t e s = .next (s.commitPlate t e u img).pumpAll := by
  simp only [execPlateCommit, performed, writing]

section
variable {c : Copy} (next : nextWrite (s.burinAt t e).writers (s.burinAt t e).units [] = some u) (cmd : s.copyOf t e u.tag = some c)
include next cmd

/-- The outcome of the check of a unit's plate (R281). -/
def State.unitOut (s : State) (t : Nat) (u : CUnit) : Nat := s.plateOut (s.partOf t) (pteKEY u.pte) (pteHSEL u.pte) u.pa

theorem plateWrite_refused (refused : s.unitOut t u = 2 ∨ s.unitOut t u = 4) :
    execPlateWrite t e s = .next (s.failUnit t e u.uid 4 0 (s.unitOut t u)).pumpAll := by
  simp only [execPlateWrite, next, cmd]
  exact if_pos refused

theorem plateWrite_asks {x : Nat} {s1 : State} (good : ¬(s.unitOut t u = 2 ∨ s.unitOut t u = 4))
    (read : readSide s t c.slot e (cpSRC c.d) (cpSRC c.d + u.off) u.len false [] = (s1, .ok x)) :
    execPlateWrite t e s = .next ((s1.touch t e c.tag).askWrite t e u.uid (u.merged c x)) := by
  simp only [execPlateWrite, next, cmd, read]
  exact if_neg good

end

/-! ### A write at its counter unit (R279, R283, R285, R286) -/

section
variable {img : Nat}

theorem putWrite_refused (refused : s.unitOut t u = 2 ∨ s.unitOut t u = 4) :
    s.putWrite t e u img = some (s.failUnit t e u.uid 4 0 (s.unitOut t u)) :=
  if_pos refused

section
variable (good : ¬(s.unitOut t u = 2 ∨ s.unitOut t u = 4))
include good

theorem putWrite_held (held : (s.stackAt (stkOf u.pa)).heldFor u.pa t e u.uid = true) : s.putWrite t e u img = none :=
  (if_neg good).trans (if_pos held)

section
variable (free : (s.stackAt (stkOf u.pa)).heldFor u.pa t e u.uid = false)
include free

theorem putWrite_exhausts {k' : Stack} {c : Copy} (spent : (s.stackAt (stkOf u.pa)).exhaust u.pa = some k')
    (cmd : ((s.modStack (stkOf u.pa) fun _ => k').failUnit t e u.uid 4 0 3).copyOf t e u.tag = some c) :
    s.putWrite t e u img = some (((s.modStack (stkOf u.pa) fun _ => k').failUnit t e u.uid 4 0 3).postTrap t c.slot cPLATE_COUNTER
      (BitVec.ofNat 64 u.va)) := by
  refine (if_neg good).trans ((if_neg (Bool.eq_false_iff.mp free)).trans ?_)
  simp only [spent, cmd]

section
variable (lasts : (s.stackAt (stkOf u.pa)).exhaust u.pa = none)
include lasts

theorem putWrite_begins (need : (s.stackAt (stkOf u.pa)).needs u.pa = none) :
    s.putWrite t e u img = some (s.beginWrite t e u img) := by
  refine (if_neg good).trans ((if_neg (Bool.eq_false_iff.mp free)).trans ?_)
  simp [lasts, need]

theorem putWrite_seals (need : (s.stackAt (stkOf u.pa)).needs u.pa = some 0) (may : s.resealFree t e u 0 = true)
    (earlier : earlierDone u (s.burinAt t e).units = true) : s.putWrite t e u img = some (s.sealWrite t e u img) := by
  refine (if_neg good).trans ((if_neg (Bool.eq_false_iff.mp free)).trans ?_)
  simp [lasts, need, may, earlier]

theorem putWrite_reseals {n : Nat} (upper : n = 1 ∨ n = 2) (need : (s.stackAt (stkOf u.pa)).needs u.pa = some n)
    (may : s.resealFree t e u n = true) : s.putWrite t e u img = some (s.beginReseal t e u n) := by
  refine (if_neg good).trans ((if_neg (Bool.eq_false_iff.mp free)).trans ?_)
  obtain rfl | rfl := upper <;> simp [lasts, need, may]

end
end
end
end
end

/-! ## Counter blocks (R275, R279) -/

theorem blockIn_putBlock (l : List (Nat × CBlock)) (i : Nat) (b fresh : CBlock) : blockIn (putBlock l i b) i fresh = b := by
  have below : (l.filter fun x => decide (x.1 < i)).find? (fun x => x.1 == i) = none := by
    refine List.find?_eq_none.mpr fun x member same => ?_
    have less := of_decide_eq_true (List.mem_filter.mp member).2
    exact absurd (beq_iff_eq.mp same) less.ne
  simp [blockIn, putBlock, List.find?_append, below]

theorem minor_raise (b : CBlock) (i : Nat) : (b.raise i).minor i = b.minor i + 1 := by simp [CBlock.raise, CBlock.minor]

@[simp] theorem minor_remac (b parent : CBlock) (pa i j : Nat) : (b.remac pa parent i).minor j = b.minor j := by
  unfold CBlock.remac CBlock.minor
  rfl

section
variable (k : Stack) (pa : Nat) (b : CBlock)

@[simp] theorem leaf_setLeaf : (k.setLeaf pa b).leaf pa = b := blockIn_putBlock ..
@[simp] theorem node_setNode : (k.setNode pa b).node pa = b := blockIn_putBlock ..
@[simp] theorem root_setRoot : (k.setRoot pa b).root pa = b := blockIn_putBlock ..
@[simp] theorem node_setLeaf : (k.setLeaf pa b).node pa = k.node pa := rfl
@[simp] theorem root_setLeaf : (k.setLeaf pa b).root pa = k.root pa := rfl
@[simp] theorem leaf_setNode : (k.setNode pa b).leaf pa = k.leaf pa := rfl
@[simp] theorem root_setNode : (k.setNode pa b).root pa = k.root pa := rfl
@[simp] theorem leaf_setRoot : (k.setRoot pa b).leaf pa = k.leaf pa := rfl
@[simp] theorem node_setRoot : (k.setRoot pa b).node pa = k.node pa := rfl

theorem raiseAll_raises :
    ((k.raiseAll pa).leaf pa).minor (inGroup pa) = (k.leaf pa).minor (inGroup pa) + 1 ∧
    ((k.raiseAll pa).node pa).minor (inNode pa) = (k.node pa).minor (inNode pa) + 1 ∧
    ((k.raiseAll pa).root pa).minor (inSpan pa) = (k.root pa).minor (inSpan pa) + 1 := by
  simp [Stack.raiseAll, Stack.raiseUpper, minor_raise]

end

/-! ## The beginning of a write (R279) -/

theorem length_writeLines (pa : Nat) : (writeLines pa).length = 73 := by
  simp [writeLines, plateLines, blockLines]

/-- A stack as the beginning of a unit's write leaves it. -/
def Stack.begun (k : Stack) (t e : Nat) (u : CUnit) : Stack :=
  let k := k.raiseAll u.pa
  { k with
    holds := (k.holds.filter fun h => h.2 != (t, e, u.uid)) ++ [(stkOff u.pa / 4096, t, e, u.uid)],
    reqs := k.reqs ++ lineReqs k t e u.uid (permOf k (pteHSEL u.pte) (stkOff u.pa)) true false false (writeLines u.pa) }

theorem stackAt_beginWrite {s : State} {t e img : Nat} {u : CUnit} (inside : stkOf u.pa < s.hbm.length) :
    (s.beginWrite t e u img).stackAt (stkOf u.pa) = (s.stackAt (stkOf u.pa)).begun t e u :=
  stackAt_modStack_same (s := s.dropCounters u.pa) inside fun k => k.begun t e u

theorem beginWrite_begins {s : State} {t e img : Nat} {u : CUnit} (inside : stkOf u.pa < s.hbm.length) :
    let v := s.beginWrite t e u img
    v.mem = s.mem ∧ (v.stackAt (stkOf u.pa)).leaf u.pa = ((s.stackAt (stkOf u.pa)).raiseAll u.pa).leaf u.pa ∧
      (v.stackAt (stkOf u.pa)).reqs.length = (s.stackAt (stkOf u.pa)).reqs.length + 73 ∧
      (stkOff u.pa / 4096, t, e, u.uid) ∈ (v.stackAt (stkOf u.pa)).holds := by
  dsimp only
  rw [stackAt_beginWrite inside]
  refine ⟨rfl, rfl, ?_, List.mem_append_right _ (List.mem_singleton.mpr rfl)⟩
  have lines (k : Stack) (perm : Nat) :
      (lineReqs k t e u.uid perm true false false (writeLines u.pa)).length = 73 := by
    rw [lineReqs, List.length_map, length_writeLines]
  exact List.length_append.trans (congrArg₂ _ rfl (lines ..))

/-! ## The end of a re-seal (R282, R283) -/

/-- A tile whose engines drop their copies of some blocks. -/
def Tile.dropBlocks (l : List Nat) (x : Tile) : Tile := { x with burin := x.burin.map (Burin.dropBlocks l) }

theorem burinAt_dropBlocks (s : State) (l : List Nat) (t e : Nat) : (s.dropBlocks l).burinAt t e = (s.burinAt t e).dropBlocks l := by
  have tile : (s.dropBlocks l).tileAt t = (s.tileAt t).dropBlocks l := List.getD_map s.tiles {} (Tile.dropBlocks l)
  have engine : ((s.tileAt t).dropBlocks l).burin.getD e {} = (s.burinAt t e).dropBlocks l := List.getD_map (s.tileAt t).burin {} (Burin.dropBlocks l)
  rw [State.burinAt, tile, engine]

/-- A unit that no longer counts some blocks among those it has verified. -/
def CUnit.dropBlocks (l : List Nat) (u : CUnit) : CUnit := { u with ctrs := u.ctrs.filter fun a => !l.contains a }

/-- The blocks that a unit has verified matter only while it reads. -/
theorem commitPlate_dropBlocks (s : State) (t e img : Nat) (u : CUnit) (l : List Nat) :
    s.commitPlate t e (u.dropBlocks l) img = s.commitPlate t e u img := by
  unfold CUnit.dropBlocks State.commitPlate
  rfl

/-- A stack without the lines and the plate of a unit. -/
def Stack.release (k : Stack) (t e uid : Nat) : Stack :=
  { k with
    reqs := k.reqs.filter fun r => r.tile != t || r.eng != e || r.uid != uid || r.reseal,
    holds := k.holds.filter fun h => h.2 != (t, e, uid) }

theorem stackAt_failUnit (s : State) (t e uid err walk pout st : Nat) :
    (s.failUnit t e uid err walk pout).stackAt st = (s.stackAt st).release t e uid :=
  List.getD_map s.hbm {} fun k => k.release t e uid

section
variable {s : State} {st code : Nat} {r : Reseal}

/-- A stack without a re-seal. -/
def Stack.withoutReseal (k : Stack) (code : Nat) : Stack := { k with reseals := k.reseals.filter fun y => y.code != code }

theorem withoutReseal_reseals (k : Stack) (code : Nat) : ∀ y ∈ (k.withoutReseal code).reseals, y.code ≠ code :=
  fun _ member => bne_iff_ne.mp (List.mem_filter.mp member).2

/-- The address of a re-seal's group. -/
def groupPa (st : Nat) (r : Reseal) : Nat := st * 2 ^ 36 + r.idx * 2 ^ 18

theorem pa_of_group (group : r.level = 0) : r.pa st 0 = groupPa st r := by
  rw [Reseal.pa, if_pos group, groupPa, Nat.zero_mul, Nat.add_zero]

theorem resealFailed_iff (k : Stack) (pa : Nat) :
    k.resealFailed 0 pa = true ↔ (k.leaf pa).st = .failed ∨ (k.node pa).st = .failed := by
  simp [Stack.resealFailed]

section
variable (found : (s.stackAt st).reseals.find? (fun x => x.code == code && x.over) = some r) (group : r.level = 0)
include found group

/-- A device whose group has failed its re-seal. -/
def State.resealFails (s : State) (st code : Nat) (r : Reseal) : State :=
  ((s.modStack st fun k => k.withoutReseal code).modStack st fun k =>
    k.setLeaf (groupPa st r) { k.leaf (groupPa st r) with st := .failed }).failUnit r.tile r.eng r.uid 4 0 2

/-- A device whose group is sealed again. -/
def State.resealDone (s : State) (st code : Nat) (r : Reseal) : State :=
  ((s.modStack st fun k => k.withoutReseal code).dropBlocks (resealBlocks 0 (groupPa st r))).modStack st fun k =>
    k.resealed 0 (groupPa st r)

theorem resealCommit_fails (fails : r.bad = true ∨ (s.stackAt st).groupBad (groupPa st r) = true ∨
      ((s.stackAt st).leaf (groupPa st r)).st = .failed ∨ ((s.stackAt st).node (groupPa st r)).st = .failed) :
    execResealCommit st code s = .next (s.resealFails st code r).pumpAll := by
  have refused : ((r.bad || (s.stackAt st).groupBad (groupPa st r)) || (s.stackAt st).resealFailed 0 (groupPa st r)) = true := by
    rw [Bool.or_eq_true, Bool.or_eq_true, resealFailed_iff, or_assoc]
    exact fails
  simp only [execResealCommit, found, pa_of_group group, group, beq_self_eq_true, Bool.true_and, refused, if_true]
  rfl

theorem resealCommit_commits {u : CUnit} {img : Nat} (good : r.bad = false) (sound : (s.stackAt st).groupBad (groupPa st r) = false)
    (whole : ¬(((s.stackAt st).leaf (groupPa st r)).st = .failed ∨ ((s.stackAt st).node (groupPa st r)).st = .failed))
    (unit : (s.burinAt r.tile r.eng).units.find? (fun u => u.uid == r.uid) = some u) (sealing : u.st = .sealing img) :
    execResealCommit st code s = .next ((s.resealDone st code r).commitPlate r.tile r.eng u img).pumpAll := by
  have passed : ((r.bad || (s.stackAt st).groupBad (groupPa st r)) || (s.stackAt st).resealFailed 0 (groupPa st r)) = false := by
    rw [good, sound, Bool.false_or, Bool.false_or]
    exact Bool.eq_false_iff.mpr fun failed => whole ((resealFailed_iff ..).mp failed)
  have waiting : (s.resealDone st code r).sealUnit r = some (u.dropBlocks (resealBlocks 0 (groupPa st r))) := by
    have engine : (s.resealDone st code r).burinAt r.tile r.eng = (s.burinAt r.tile r.eng).dropBlocks (resealBlocks 0 (groupPa st r)) :=
      burinAt_dropBlocks (s.modStack st fun k => k.withoutReseal code) ..
    rw [State.sealUnit, if_pos group, engine]
    exact List.find?_map.trans (congrArg (Option.map (CUnit.dropBlocks _)) unit)
  have still : (u.dropBlocks (resealBlocks 0 (groupPa st r))).st = .sealing img := sealing
  rw [State.resealDone] at waiting
  unfold Stack.withoutReseal at waiting
  simp only [execResealCommit, found, pa_of_group group, group, beq_self_eq_true, Bool.true_and, passed, Bool.false_eq_true, if_false,
    waiting, still, commitPlate_dropBlocks]
  rfl

end

theorem resealed_reseals (k : Stack) (pa : Nat) : (k.resealed 0 pa).reseals = k.reseals := by
  rw [Stack.resealed, if_pos rfl, Stack.sealGroup]
  rfl

section
variable (inside : st < s.hbm.length)
include inside

theorem stackAt_resealFails : (s.resealFails st code r).stackAt st = (((s.stackAt st).withoutReseal code).setLeaf (groupPa st r)
    { ((s.stackAt st).withoutReseal code).leaf (groupPa st r) with st := .failed }).release r.tile r.eng r.uid := by
  have still : st < (s.modStack st fun k => k.withoutReseal code).hbm.length := by rwa [State.modStack, length_updAt]
  rw [State.resealFails, stackAt_failUnit, stackAt_modStack_same still, stackAt_modStack_same inside]

theorem resealFails_leaf : (((s.resealFails st code r).stackAt st).leaf (groupPa st r)).st = .failed := by
  rw [stackAt_resealFails inside]
  exact congrArg CBlock.st (leaf_setLeaf ..)

theorem resealFails_reseals : ∀ y ∈ ((s.resealFails st code r).stackAt st).reseals, y.code ≠ code := by
  rw [stackAt_resealFails inside]
  exact withoutReseal_reseals _ code

theorem resealDone_reseals : ∀ y ∈ ((s.resealDone st code r).stackAt st).reseals, y.code ≠ code := by
  have still : st < ((s.modStack st fun k => k.withoutReseal code).dropBlocks (resealBlocks 0 (groupPa st r))).hbm.length := by
    rwa [State.dropBlocks, State.modStack, length_updAt]
  have same : ((s.modStack st fun k => k.withoutReseal code).dropBlocks (resealBlocks 0 (groupPa st r))).stackAt st =
      (s.stackAt st).withoutReseal code := stackAt_modStack_same inside _
  rw [State.resealDone, stackAt_modStack_same still, same, resealed_reseals]
  exact withoutReseal_reseals _ code

end
end

/-! ## The rotation of a key (R287) -/

section
variable {s : State} {st grp : Nat} {r : Rotate}

/-- A rotation with one group less. -/
def Rotate.done (r : Rotate) (grp : Nat) : Rotate :=
  { r with groups := r.groups.filter fun g => g != grp, nodes := grp / 64 :: r.nodes, roots := grp / 2048 :: r.roots }

theorem done_groups (r : Rotate) (grp : Nat) : grp ∉ (r.done grp).groups := by simp [Rotate.done]

/-- The rotation of a stack after one of its groups: at its end, or without that group. -/
theorem rotateLeft_rotate (inside : st < s.hbm.length) :
    ((s.rotateLeft st r).stackAt st).rotate = none ∨ ((s.rotateLeft st r).stackAt st).rotate = some r := by
  have keeps (b : Bool) (v : State) : (if b = true then v.event 2 r.part 0 r.key 0 0 else v).hbm = v.hbm := by
    cases b
    · rfl
    · exact congrArg Prod.fst (event_still ..)
  have hbm : (s.rotateLeft st r).hbm = (s.modStack st fun k => { k with rotate := if r.groups.isEmpty then none else some r }).hbm :=
    keeps _ _
  have rotate : ((s.rotateLeft st r).stackAt st).rotate = if r.groups.isEmpty then none else some r := by
    rw [State.stackAt, hbm]
    exact congrArg Stack.rotate (stackAt_modStack_same inside _)
  rw [rotate]
  split
  · exact .inl rfl
  · exact .inr rfl

theorem keyRotationGroup_turns (turning : (s.stackAt st).rotate = some r) (left : grp ∈ r.groups)
    (quiet : s.busyIn (st * 2 ^ 36 + grp * 2 ^ 18) 18 512 0 0 = false)
    (free : (s.stackAt st).heldFor (st * 2 ^ 36 + grp * 2 ^ 18) 512 0 0 = false) (inside : st < s.hbm.length) :
    ∃ w : State, execKeyRotationGroup st grp s = .next (w.rotateLeft st (r.done grp)).pumpAll ∧ w.mem = s.mem ∧ st < w.hbm.length := by
  have listed : r.groups.contains grp = true := List.contains_iff_mem.mpr left
  simp only [execKeyRotationGroup, turning, listed, quiet, free, Bool.not_true, Bool.or_false, Bool.false_eq_true, if_false]
  refine ⟨_, rfl, rfl, ?_⟩
  rwa [State.modStack, length_updAt]

end

/-! ## The obligation -/

/-- Settles O32: the outcomes of a walk level by level, a write case by case at its counter unit, and what the end of a re-seal and the
rotation of a group leave on their stack. -/
theorem platesAndCounters : Obligations.PlatesAndCounters := by
  unfold Obligations.PlatesAndCounters
  intro s t e va acc st grp
  refine ⟨?walks, fun u img left out err filled lines => plateFill_checks filled lines,
    fun u img left performed writing => plateCommit_commits performed writing,
    fun u c x s1 next cmd => ⟨plateWrite_refused next cmd, fun intact own read => plateWrite_asks next cmd (not_or.mpr ⟨intact, own⟩) read⟩,
    ?puts, fun k pa => raiseAll_raises k pa, fun u img inside => beginWrite_begins inside, ?reseal, ?rotation⟩
  case walks =>
    intro d p idle
    refine ⟨walk_keeps s t e va acc, walk_begins,
      fun w u under read => ⟨fun img => walk_takes under read, fun x y z => walk_fails under read⟩,
      fun w => ⟨fun key pa => walkOn_reads, walkOn_ends⟩,
      fun v w u => ⟨walkOne_bad, fun n big => walkOne_fail, fun pte big seen => walkOne_ok⟩, ?_⟩
    intro die q known r ent tab leaf
    have flag {x : W64} {b : Bool} (h : x.getLsbD 63 = b) : pteV x = b := (pteV_eq x).trans h
    have kind {x : W64} {b : Bool} (h : x.getLsbD 59 = b) : pteLEAF x = b := (pteLEAF_eq x).trans h
    have table {x : W64} {n : Nat} (h : tab x n) : pteLEAF x = false ∧ nonLeafOk x n = true := ⟨kind h.1, h.2⟩
    refine ⟨walkVa_beyond, walkVa_rootless, fun root low rooted => ?_⟩
    have at1 : r = s.walkLevel1 die q va acc known root := walkVa_rooted low rooted
    refine ⟨fun absent => at1.trans (walkLevel1_needs absent), fun e1 entry1 =>
      ⟨fun valid => at1.trans (walkLevel1_invalid entry1 (flag valid)),
        fun valid bad => at1.trans (walkLevel1_malformed entry1 (flag valid) fun good => bad ⟨(pteLEAF_eq e1).symm.trans good.1, good.2⟩),
        fun valid good inside => at1.trans (walkLevel1_meta entry1 (flag valid) (table good) inside), fun valid good outside => ?_⟩⟩
    have at2 := at1.trans (walkLevel1_next entry1 (flag valid) (table good) outside)
    refine ⟨fun absent => at2.trans (walkLevel2_needs absent), fun e2 entry2 =>
      ⟨fun valid => at2.trans (walkLevel2_invalid entry2 (flag valid)),
        fun valid whole => leafOutcomes_of_eq (at2.trans (walkLevel2_leaf entry2 (flag valid) (kind whole))),
        fun valid inner bad => at2.trans (walkLevel2_malformed entry2 (flag valid) (kind inner) bad),
        fun valid good inside => at2.trans (walkLevel2_meta entry2 (flag valid) (table good) inside), fun valid good outside => ?_⟩⟩
    have at3 := at2.trans (walkLevel2_next entry2 (flag valid) (table good) outside)
    exact ⟨fun absent => at3.trans (walkLevel3_needs absent), fun e3 entry3 =>
      ⟨fun valid => at3.trans (walkLevel3_invalid entry3 (flag valid)),
        fun valid inner => at3.trans (walkLevel3_inner entry3 (flag valid) (kind inner)),
        fun valid whole => leafOutcomes_of_eq (at3.trans (walkLevel3_leaf entry3 (flag valid) (kind whole)))⟩⟩
  case puts =>
    intro u img k out may r
    have good (h : out = 0 ∨ out = 1) : ¬(s.unitOut t u = 2 ∨ s.unitOut t u = 4) := by
      change ¬(out = 2 ∨ out = 4)
      omega
    exact ⟨putWrite_refused, fun intact own => putWrite_held (not_or.mpr ⟨intact, own⟩),
      fun k' c ⟨h, free⟩ => putWrite_exhausts (good h) free, fun ⟨h, free⟩ => putWrite_begins (good h) free,
      fun ⟨h, free⟩ => putWrite_seals (good h) free,
      fun n upper ⟨h, free⟩ lasts need => putWrite_reseals (good h) free lasts upper need⟩
  case reseal =>
    intro r found group inside pa failed
    exact ⟨fun fails => ⟨_, resealCommit_fails found group fails, rfl, resealFails_leaf inside, resealFails_reseals inside⟩,
      fun fine sound whole u img unit sealing =>
        ⟨_, resealCommit_commits found group fine sound whole unit sealing, rfl, resealDone_reseals inside⟩⟩
  case rotation =>
    intro r turning left quiet free inside
    obtain ⟨w, step, mem, still⟩ := keyRotationGroup_turns turning left quiet free inside
    refine ⟨_, step, (State.rotateLeft_frame ..).1.trans mem, (rotateLeft_rotate still).imp_right fun rest => ?_⟩
    exact ⟨r.done grp, rest, rfl, rfl, done_groups r grp⟩

end Sys2Proof.Machine
end
